-- ==== Sys2Proof/Word.lean ====
section
/-! DEFINITION. Words, bytes and sparse tables in one canonical form (R9, R14, R160). -/

namespace Sys2Proof

/-- One byte of memory, scratchpad or a message. -/
abbrev Byte := BitVec 8

/-- A 64-bit register or descriptor word (R508). -/
abbrev Word := BitVec 64

/-- A sparse table by number: keys strictly rising, and no entry equal to what an unlisted key reads as. -/
abbrev Tbl (α : Type) := List (Nat × α)

/-- What key `k` reads as, `d` where it is not listed. -/
def tget {α : Type} (d : α) : Tbl α → Nat → α
  | [], _ => d
  | (a, v) :: t, k => if a = k then v else if k < a then d else tget d t k

/-- Put `v` at key `k`, keeping the keys rising. -/
def tput {α : Type} : Tbl α → Nat → α → Tbl α
  | [], k, v => [(k, v)]
  | (a, w) :: t, k, v =>
    if k < a then (k, v) :: (a, w) :: t
    else if a = k then (k, v) :: t
    else (a, w) :: tput t k v

/-- Take key `k` out. -/
def tdel {α : Type} : Tbl α → Nat → Tbl α
  | [], _ => []
  | (a, w) :: t, k => if a = k then t else (a, w) :: tdel t k

/-- Write `v` at key `k`: the default is never listed. -/
def tset {α : Type} [DecidableEq α] (d : α) (t : Tbl α) (k : Nat) (v : α) : Tbl α :=
  if v = d then tdel t k else tput t k v

/-- Every key of the table is above `k`. -/
def keysAbove {α : Type} (k : Nat) : Tbl α → Bool
  | [] => true
  | (a, _) :: t => decide (k < a) && keysAbove k t

/-- The canonical form: keys strictly rising, no listed default. -/
def twf {α : Type} [DecidableEq α] (d : α) : Tbl α → Bool
  | [] => true
  | (a, v) :: t => decide (v ≠ d) && keysAbove a t && twf d t

/-- The bit field `[hi:lo]` of `x` as a number (R14, R9). -/
def bits {n : Nat} (x : BitVec n) (hi lo : Nat) : Nat :=
  (x.toNat >>> lo) % 2 ^ (hi + 1 - lo)

/-- Bit `i` of `x`. -/
def bit {n : Nat} (x : BitVec n) (i : Nat) : Bool := x.getLsbD i

/-- `v`, cut to the field's width, standing at `[hi:lo]` of a number. -/
def fieldAt (hi lo v : Nat) : Nat := (v % 2 ^ (hi + 1 - lo)) <<< lo

/-- `x` with its bits `[hi:lo]` replaced by `v`, cut to the field's width. -/
def setBits {n : Nat} (x : BitVec n) (hi lo v : Nat) : BitVec n :=
  let m : BitVec n := BitVec.ofNat n (fieldAt hi lo (2 ^ (hi + 1 - lo) - 1))
  (x &&& ~~~m) ||| (BitVec.ofNat n (fieldAt hi lo v) &&& m)

/-- Little-endian bytes of the number `v`, `n` of them (R9). -/
def leBytes : Nat → Nat → List Byte
  | 0, _ => []
  | n + 1, v => BitVec.ofNat 8 v :: leBytes n (v / 256)

/-- The number that little-endian bytes spell (R9). -/
def leNat : List Byte → Nat
  | [] => 0
  | b :: t => b.toNat + 256 * leNat t

/-- Little-endian field `[hi:lo]` of a run of bytes. -/
def leField (l : List Byte) (hi lo : Nat) : Nat := (leNat l >>> lo) % 2 ^ (hi + 1 - lo)

/-- A truth value as one bit. -/
def b2n (b : Bool) : Nat := if b then 1 else 0

end Sys2Proof
end

