-- ==== Sys2Proof/Syntax.lean ====
section
/-! DEFINITION. The commands of the block, one constructor of `Instr` per row of spec/opcode_table.json, and their operands.
A command names an event of the part (an op at the head of its engine, a message arriving, a timer running out, a register
write); what the event works on stands in the state, and an operand carries only what comes from outside the state. -/

namespace Sys2Proof

/-- A core program by its place: logical core (R4) and half (false: the lower half or the whole core; R38, R87). -/
structure ProgRef where
  core  : Nat
  upper : Bool
  deriving DecidableEq, Repr

/-- The engines of R36 that hold queues. -/
inductive Eng where
  | array | vector | copy0 | copy1 | offload
  deriving DecidableEq, Repr

/-- A beat in error on a die-to-die edge (R419), from END0 to END1 or the reverse (`dir` true), of a message for the line at this PPA. -/
inductive WireErr where
  /-- a single-bit error, corrected -/
  | corrected (edge group wire : Nat) (dir : Bool) (ppa : Nat)
  /-- an uncorrectable beat of message data -/
  | data (edge group : Nat) (dir : Bool) (ppa : Nat)
  /-- an uncorrectable beat of a message header -/
  | header (edge group : Nat) (dir : Bool) (ppa : Nat)
  deriving DecidableEq, Repr

/-- What the hardware's own checks found while an engine ran its work (R83, R90, R91, R134, R144, R200, R233, R284, R25). -/
inductive HwErr where
  /-- nothing found -/
  | none
  /-- a residue mismatch (`parity` false) or parity error at `i` and `j`: chain and stream row of an array, lane and vector of a vector
  engine, 64 · fixer + lane and stage of a fixer, unit and lane of a loupe, lane and segment of a stacker -/
  | check (parity : Bool) (i j : Nat)
  /-- a single-bit scratchpad error, corrected, at this offset -/
  | spCe (off : Nat)
  /-- an uncorrectable scratchpad error at this offset -/
  | spUe (off : Nat)
  /-- the same two, in a word of the target's core that a PUT's partial write there merges (R144) -/
  | putCe (off : Nat)
  | putUe (off : Nat)
  /-- a single-bit accumulator error, corrected -/
  | accCe (row word : Nat)
  /-- an uncorrectable accumulator error -/
  | accUe (row word : Nat)
  /-- a tile parity error in this byte group -/
  | tileUe (group : Nat)
  /-- an uncorrectable error in a die structure that several contexts share (R25) -/
  | shared (die : Nat)
  /-- a beat in error on a die-to-die wire that a LOAD's or STORE's data crosses -/
  | wire (w : WireErr)
  /-- device memory read with a correction, in the line at this PPA (R175) -/
  | memCe (ppa : Nat)
  /-- device memory found uncorrectable, in the line at this PPA (R175, R177) -/
  | memUe (ppa : Nat)
  /-- a single-bit error in the directory entry of the line at this PPA, corrected, and an uncorrectable one (R383, R387) -/
  | dirCe (ppa : Nat)
  | dirUe (ppa : Nat)
  /-- two findings, the first one first -/
  | both (a b : HwErr)
  deriving DecidableEq, Repr

/-- What a home finds as a message reaches it (R383, R387, R419). -/
inductive HomeErr where
  | none
  /-- a beat in error on a wire that the message or its answer crosses -/
  | wire (w : WireErr)
  /-- a single-bit error in the directory entry, corrected -/
  | entryCe
  /-- an uncorrectable error in the directory entry or the home's input queue -/
  | entryUe
  /-- the line read from memory with a correction, and found uncorrectable there (R175) -/
  | memCe
  | memUe
  deriving DecidableEq, Repr

/-- What a cache finds as a server core uses it (R383, R387). -/
inductive CacheErr where
  | none
  /-- a single-bit error in the host-line cache's tags or states, corrected -/
  | tagCe
  /-- a single-bit error in the S-die's own tags or snoop filter, corrected -/
  | ownCe
  /-- an uncorrectable error in tags or states: the host-line cache's, or the S-die's own -/
  | tagUe (hostLine : Bool)
  /-- an uncorrectable error in the line that the access names, as the S-die holds it -/
  | lineUe
  deriving DecidableEq, Repr

/-- The caching agents of R366, by agent id: S0, S1, the external host, the ring unit. -/
inductive Agent where
  | s0 | s1 | host | ring
  deriving DecidableEq, Repr

/-- What a host read asks for (R374, R397). -/
inductive Want where
  | shared | any | none
  deriving DecidableEq, Repr

/-- Which address range a register write reaches: BAR0 (R508), or the contact-sheet window in BAR4 (R498). -/
inductive Bar where
  | bar0 | bar4
  deriving DecidableEq, Repr

/-- The two pins whose assertion is a pin reset (R437). -/
inductive RstPin where
  | warm | perst
  deriving DecidableEq, Repr

/-- What a mask clearing clears (R517). -/
inductive MaskWhat where
  /-- one vector's mask bit -/
  | vector (v : Nat)
  /-- the function mask, with MSI-X enabled -/
  | function
  deriving DecidableEq, Repr

/-- What the patrol scrub found in a line (R175, R177, R178). -/
inductive ScrubFind where
  | clean | corrected | uncorrectable
  deriving DecidableEq, Repr

/-- How one step of the bring-up of R439, or of the level-2 reset of R440, came out. -/
structure StepInfo where
  /-- the ten strap codes in sideband-chain order (R424) -/
  straps   : List (BitVec 4)
  /-- edge and group of an edge that failed its third training (R421) -/
  edgeFail : Option (Nat × Nat)
  /-- spare wires in use per edge, both directions (R420) -/
  spares   : List Nat
  /-- a stack and channel with more failing lanes than redundant ones (R427) -/
  laneFail : Option (Nat × Nat)
  /-- slots whose image fails `MAGIC` or `VERSION`, `DIGEST` or a read: A, B (R444) -/
  slotBad  : Bool × Bool
  /-- the master negative fails its digest (R445) -/
  masterBad : Bool
  deriving DecidableEq, Repr

/-- What an atomic instruction of a server core does with the value in memory and its operand (R380, log entry 52). -/
inductive AmoFn where
  | swap | add | and | or | xor | min | max | minu | maxu
  deriving DecidableEq, Repr

/-- A server core's access (R380): kind and bytes. -/
inductive CoreOp where
  | load (bytes : Nat)
  | store (data : List Byte)
  /-- atomic add of a 64-bit value -/
  | amoAdd (v : BitVec 64)
  /-- another atomic, of 64 bits (`wide`) or 32 -/
  | amo (fn : AmoFn) (wide : Bool) (v : BitVec 64)
  /-- load reserved, and store conditional -/
  | lr (wide : Bool)
  | sc (wide : Bool) (v : BitVec 64)
  /-- write back and drop a line (an eviction of its cache) -/
  | evict
  | fence
  /-- set the core's timer compare (R367) -/
  | timer (v : BitVec 48)
  | wfi
  deriving DecidableEq, Repr

/-- The causes of a machine check (R383): a core, or the S-die uncore. -/
structure MCheck where
  die  : Nat
  line : Nat
  core : Bool
  deriving DecidableEq, Repr

/-- A CTRL exchange at ALIGN (R249, R266): the peer's id, port, good lanes and buffer sizes per VC and class. -/
structure PeerInfo where
  pkg     : BitVec 12
  port    : BitVec 5
  lanes   : BitVec 16
  credits : List Nat
  deriving DecidableEq, Repr

/-- The host's HDM decoder programming at its commit (R395). -/
structure HdmSet where
  base   : BitVec 52
  size   : Nat
  ways   : Nat
  biEn   : Bool
  lock   : Bool
  deriving DecidableEq, Repr

/-- What a row repair ended with, for one entry (R430). -/
inductive RepairEnd where
  | repaired | noResource | already | verifyFailed
  deriving DecidableEq, Repr

/-- Address and bytes of a UIO or CXL write, and for a UIO write its Requester ID (R404). -/
structure BusWrite where
  rid    : Nat := 0
  hpa    : BitVec 52
  data   : List Byte
  poison : Bool
  deriving DecidableEq, Repr

/-- IDE_KM messages (R415). -/
inductive IdeMsg where
  | program | start | refresh | stop
  deriving DecidableEq, Repr

/-- ATS answers (R401). -/
structure AtsAnswer where
  page    : Nat
  phys    : Nat
  read    : Bool
  write   : Bool
  granted : Bool
  deriving DecidableEq, Repr

/-- The vendor unlock presented over JTAG (R482). -/
structure UnlockReq where
  keySlot : Nat
  scope   : BitVec 3
  pk      : List Byte
  sig     : List Byte
  deriving DecidableEq, Repr

/-- A received DATA flit (R242 to R245): FIRST, sequence, acknowledgement, the eight running counts of freed slots (R244), payload bytes, and
its CRC. -/
structure Flit where
  first   : BitVec 4
  seq     : BitVec 12
  ack     : BitVec 12
  cr      : List Byte
  payload : List Byte
  crc     : BitVec 32
  deriving DecidableEq, Repr

/-- The commands of the block: one constructor per row of spec/opcode_table.json, in its order. -/
inductive Instr where
  /-- OP_DISPATCH (R37): The sequencer dispatches the next op in program order to its engine queue, stalling while that queue is full. -/
  | opDispatch (p : ProgRef)
  /-- END (R59): END is dispatched once every earlier op of the core program has completed, and the core program ends. -/
  | endProg (p : ProgRef)
  /-- NOP (R48): A CTRL NOP takes one dispatch cycle and has no effect. -/
  | nop (p : ProgRef)
  /-- LOOP (R42): LOOP opens a counted loop of CNTM1 + 1 iterations. -/
  | loop (p : ProgRef)
  /-- ENDLOOP (R48): ENDLOOP closes the loop opened at LOOPAT and jumps back while iterations remain. -/
  | endloop (p : ProgRef)
  /-- WAIT (R49): A SYNC WAIT stops dispatch until its tally holds COUNT, then subtracts COUNT. -/
  | wait (p : ProgRef)
  /-- SIGNAL (R50): A SYNC SIGNAL is dispatched and held pending until the engines named by AFTER have completed their earlier ops. -/
  | signal (p : ProgRef)
  /-- RSIGNAL (R51): An RSIGNAL is dispatched and held pending to signal a tally of step core index TARGET on the same package. -/
  | rsignal (p : ProgRef)
  /-- PENDING_SIGNAL_GIVEN (R50): A pending SIGNAL or RSIGNAL is given, in program order, once its named engines have completed. -/
  | pendingSignalGiven (p : ProgRef)
  /-- REMOTE_SIGNAL_DELIVERY (R19): A remote signal is added to the target core program's tally once the signalling engine's earlier writes are visible at their homes. -/
  | remoteSignalDelivery (n : Nat)
  /-- STEPBAR (R52): STEPBAR stops dispatch until every earlier op of the core program has completed. -/
  | stepbar (p : ProgRef)
  /-- STEPBAR_ARRIVAL (R52): A core program arrives at its k-th barrier, and the last arrival releases every core program of the step. -/
  | stepbarArrival (p : ProgRef)
  /-- OP_COMPLETE (R47): An engine op completes once its effects are readable and its writes are visible at their homes, and its embedded signal is given. -/
  | opComplete (p : ProgRef) (eng : Eng)
  /-- LOAD (R139): A COPY LOAD moves bytes from memory at a CVA to the core program's own scratchpad, checking edge codes when CODED is set. -/
  | load (p : ProgRef) (eng : Eng) (err : HwErr)
  /-- STORE (R139): A COPY STORE moves scratchpad bytes to memory at a CVA, computing edge codes when CODED is set. -/
  | store (p : ProgRef) (eng : Eng) (err : HwErr)
  /-- MOVE (R139): A COPY MOVE copies bytes from the core program's scratchpad to its own scratchpad. -/
  | move (p : ProgRef) (eng : Eng) (err : HwErr)
  /-- PUT (R139): A COPY PUT copies scratchpad bytes to the scratchpad of step core index TCORE. -/
  | put (p : ProgRef) (eng : Eng) (err : HwErr)
  /-- RREAD (R147): A COPY RREAD reads memory of package TPKG by PPA into scratchpad as remote read transactions. -/
  | rread (p : ProgRef) (eng : Eng) (err : HwErr)
  /-- RWRITE (R147): A COPY RWRITE writes scratchpad bytes to memory of package TPKG by PPA as remote write transactions. -/
  | rwrite (p : ProgRef) (eng : Eng) (err : HwErr)
  /-- AZERO (R72): AZERO sets the named accumulator rows to zero, sets their kind to zero and clears their flags. -/
  | azero (p : ProgRef) (err : HwErr)
  /-- ALOAD (R75): ALOAD writes a tile image into the tile not named by the selector once no stream row still needs that tile. -/
  | aload (p : ProgRef) (err : HwErr)
  /-- ASWAP (R73): ASWAP toggles the tile selector, taking effect at the next ASTREAM's first row. -/
  | aswap (p : ProgRef) (err : HwErr)
  /-- ASTREAM (R67): ASTREAM streams M rows through the selected tile into the accumulator rows. -/
  | astream (p : ProgRef) (err : HwErr)
  /-- ADRAIN (R72): ADRAIN copies raw 32-bit accumulator entries to scratchpad and ORs row flags into ARR_DRAIN_FLAGS. -/
  | adrain (p : ProgRef) (err : HwErr)
  /-- VADD (R125): VADD computes A + B per lane. -/
  | vadd (p : ProgRef) (err : HwErr)
  /-- VSUB (R125): VSUB computes A − B per lane. -/
  | vsub (p : ProgRef) (err : HwErr)
  /-- VMUL (R125): VMUL computes A × B per lane. -/
  | vmul (p : ProgRef) (err : HwErr)
  /-- VFMA (R125): VFMA computes A × B + C with one rounding. -/
  | vfma (p : ProgRef) (err : HwErr)
  /-- VFMS (R125): VFMS computes A × B − C with one rounding. -/
  | vfms (p : ProgRef) (err : HwErr)
  /-- VMAX (R125): VMAX returns the larger of A and B under the NaN rules. -/
  | vmax (p : ProgRef) (err : HwErr)
  /-- VMIN (R125): VMIN returns the smaller of A and B under the NaN rules. -/
  | vmin (p : ProgRef) (err : HwErr)
  /-- VABS (R125): VABS returns |A| per lane. -/
  | vabs (p : ProgRef) (err : HwErr)
  /-- VNEG (R125): VNEG returns −A per lane. -/
  | vneg (p : ProgRef) (err : HwErr)
  /-- VADDS (R125): VADDS computes A + IMM per lane. -/
  | vadds (p : ProgRef) (err : HwErr)
  /-- VMULS (R125): VMULS computes A × IMM per lane. -/
  | vmuls (p : ProgRef) (err : HwErr)
  /-- VFMAS (R125): VFMAS computes A × IMM + B with one rounding. -/
  | vfmas (p : ProgRef) (err : HwErr)
  /-- VCLAMPS (R125): VCLAMPS clamps A to ±|IMM|, leaving NaN as NaN. -/
  | vclamps (p : ProgRef) (err : HwErr)
  /-- VAND (R125): VAND computes the bitwise AND of A and B. -/
  | vand (p : ProgRef) (err : HwErr)
  /-- VOR (R125): VOR computes the bitwise OR of A and B. -/
  | vor (p : ProgRef) (err : HwErr)
  /-- VXOR (R125): VXOR computes the bitwise XOR of A and B. -/
  | vxor (p : ProgRef) (err : HwErr)
  /-- VSHL (R125): VSHL shifts A left by IMM[4:0], wrapping in 32 bits. -/
  | vshl (p : ProgRef) (err : HwErr)
  /-- VSRA (R125): VSRA shifts A right arithmetically by IMM[4:0]. -/
  | vsra (p : ProgRef) (err : HwErr)
  /-- VFILL (R125): VFILL writes IMM to every lane of the output stream. -/
  | vfill (p : ProgRef) (err : HwErr)
  /-- VIOTA (R125): VIOTA writes the element index within the dim-0 run to each lane. -/
  | viota (p : ProgRef) (err : HwErr)
  /-- VEXP2 (R537): VEXP2 computes 2^A within its error bound with fixed results. -/
  | vexp2 (p : ProgRef) (err : HwErr)
  /-- VLOG2 (R537): VLOG2 computes log2 A within its error bound with fixed results. -/
  | vlog2 (p : ProgRef) (err : HwErr)
  /-- VRCP (R537): VRCP computes 1 / A within its error bound with fixed results. -/
  | vrcp (p : ProgRef) (err : HwErr)
  /-- VRSQRT (R537): VRSQRT computes 1 / √A within its error bound with fixed results. -/
  | vrsqrt (p : ProgRef) (err : HwErr)
  /-- VTANH (R537): VTANH computes tanh A within its error bound with fixed results. -/
  | vtanh (p : ProgRef) (err : HwErr)
  /-- VCMPEQ (R124): VCMPEQ sets each lane bit where A equals B and writes MOUT and, optionally, a mask stream. -/
  | vcmpeq (p : ProgRef) (err : HwErr)
  /-- VCMPNE (R124): VCMPNE sets each lane bit where A differs from B. -/
  | vcmpne (p : ProgRef) (err : HwErr)
  /-- VCMPLT (R124): VCMPLT sets each lane bit where A is less than B. -/
  | vcmplt (p : ProgRef) (err : HwErr)
  /-- VCMPLE (R124): VCMPLE sets each lane bit where A is at most B. -/
  | vcmple (p : ProgRef) (err : HwErr)
  /-- VCMPGT (R124): VCMPGT sets each lane bit where A is greater than B. -/
  | vcmpgt (p : ProgRef) (err : HwErr)
  /-- VCMPGE (R124): VCMPGE sets each lane bit where A is at least B. -/
  | vcmpge (p : ProgRef) (err : HwErr)
  /-- VSEL (R125): VSEL takes each lane from A or B according to the mask register M[MOUT]. -/
  | vsel (p : ProgRef) (err : HwErr)
  /-- VSELC (R125): VSELC selects each lane from A or B by a mask read from stream C. -/
  | vselc (p : ProgRef) (err : HwErr)
  /-- VCVT (R109): VCVT converts A to O's format, block by block for MX formats. -/
  | vcvt (p : ProgRef) (err : HwErr)
  /-- VBSCALE (R125): VBSCALE computes two block-scale bytes per vector for the MX format named by O. -/
  | vbscale (p : ProgRef) (err : HwErr)
  /-- VRSUM (R127): VRSUM reduces by sum, lanewise or fully, in a fixed order. -/
  | vrsum (p : ProgRef) (err : HwErr)
  /-- VRMAX (R127): VRMAX reduces by maximum. -/
  | vrmax (p : ProgRef) (err : HwErr)
  /-- VRMIN (R127): VRMIN reduces by minimum. -/
  | vrmin (p : ProgRef) (err : HwErr)
  /-- VRSUMSQ (R127): VRSUMSQ reduces by a sum of fused squares. -/
  | vrsumsq (p : ProgRef) (err : HwErr)
  /-- VRAMAX (R127): VRAMAX reduces by the maximum of |A|. -/
  | vramax (p : ProgRef) (err : HwErr)
  /-- VGBITS (R125): VGBITS returns each lane's grain word as INT32. -/
  | vgbits (p : ProgRef) (err : HwErr)
  /-- VGUNIF (R125): VGUNIF returns a uniform value in [0, 1) from each lane's grain word. -/
  | vgunif (p : ProgRef) (err : HwErr)
  /-- VGNORM (R131): VGNORM returns an approximate standard normal value from two grain words. -/
  | vgnorm (p : ProgRef) (err : HwErr)
  /-- VGKEEP (R125): VGKEEP sets each lane bit where the grain word is below IMM, and writes a mask stream and MOUT. -/
  | vgkeep (p : ProgRef) (err : HwErr)
  /-- MSETN (R125): MSETN sets the low n bits of M[MOUT] and clears the rest. -/
  | msetn (p : ProgRef) (err : HwErr)
  /-- MSETLO (R125): MSETLO sets bits [31:0] of M[MOUT] to IMM. -/
  | msetlo (p : ProgRef) (err : HwErr)
  /-- MSETHI (R125): MSETHI sets bits [63:32] of M[MOUT] to IMM. -/
  | msethi (p : ProgRef) (err : HwErr)
  /-- MAND (R125): MAND writes M[MSEL] AND M[IMM] to M[MOUT]. -/
  | mand (p : ProgRef) (err : HwErr)
  /-- MOR (R125): MOR writes M[MSEL] OR M[IMM] to M[MOUT]. -/
  | mor (p : ProgRef) (err : HwErr)
  /-- MXOR (R125): MXOR writes M[MSEL] XOR M[IMM] to M[MOUT]. -/
  | mxor (p : ProgRef) (err : HwErr)
  /-- MNOT (R125): MNOT writes the complement of M[MSEL] to M[MOUT]. -/
  | mnot (p : ProgRef) (err : HwErr)
  /-- MLOAD (R125): MLOAD loads M[MOUT] from 8 bytes at A's first vector address. -/
  | mload (p : ProgRef) (err : HwErr)
  /-- GATHER (R193): A TABLE GATHER op calls a loupe to deliver the table rows named by an index list. -/
  | gather (p : ProgRef)
  /-- POOL (R194): A TABLE POOL op calls a loupe to combine bagged rows into FP32 output rows. -/
  | pool (p : ProgRef)
  /-- SCATTER_ADD (R195): A TABLE SCATTER_ADD op calls a loupe to sum gradient rows and deposit them in the owners' landing zones. -/
  | scatterAdd (p : ProgRef)
  /-- ROWUPDATE (R197): A TABLE ROWUPDATE op calls a loupe to fold landing-zone records into the table or hand them to the fixers. -/
  | rowupdate (p : ProgRef)
  /-- LOUPE_CALL_START (R188): A loupe takes the next queued call, checks it, then sorts and fetches its rows. -/
  | loupeCallStart (n : Nat) (err : HwErr)
  /-- LOUPE_CALL_COMPLETE (R199): A loupe call completes once its writes are visible, after writing its report. -/
  | loupeCallComplete (n : Nat) (err : HwErr := .none)
  /-- RUN (R214): A FIXER RUN op calls the fixers to run one program over the call's segments. -/
  | run (p : ProgRef)
  /-- UPDATE (R217): A FIXER UPDATE op calls the fixers for the two-pass update. -/
  | update (p : ProgRef)
  /-- FIXER_CALL_ENQUEUE (R217): A fixer call waiting in the offload port joins the fixer queue when a place frees. -/
  | fixerCallEnqueue (p : ProgRef)
  /-- FIXER_CALL_START (R216): The fixers take the next queued call, check it, and begin pass one or the RUN. -/
  | fixerCallStart (err : HwErr)
  /-- PASS_ONE_DONE (R219): When all 64 fixers finish pass one, the package combines the partials and enters the pass-one collective. -/
  | passOneDone (err : HwErr)
  /-- FIXER_CALL_COMPLETE (R225): A fixer call completes when every fixer has written its last chunk and its writes are visible. -/
  | fixerCallComplete (err : HwErr)
  /-- ALLREDUCE (R279): A REDUCE ALLREDUCE op calls a collective that reduces over the group and gives every member the result. -/
  | allreduce (p : ProgRef)
  /-- REDUCE_TO_ROOT (R274): A REDUCE_TO_ROOT op calls a collective that writes the reduced result at tree 0's root. -/
  | reduceToRoot (p : ProgRef)
  /-- BROADCAST (R279): A BROADCAST op calls a collective that sends the root's source to every member. -/
  | broadcast (p : ProgRef)
  /-- COLLECTIVE_START (R274): The package starts the next collective of a group in call order and sends its leaf contributions. -/
  | collectiveStart (grp : Nat) (err : HwErr)
  /-- COLLSEG (R278): A received collective segment is checked, reduced into its frame or written and forwarded down. -/
  | collseg (src : Option Nat) (err : HwErr)
  /-- COLLSEG_ACCEPT (R278): An upward segment waiting in the COLL buffer is taken when a frame frees or its collective is called. -/
  | collsegAccept (n : Nat) (err : HwErr := .none)
  /-- COLLECTIVE_COMPLETE (R285): A collective completes on a member once its results are visible, or its last upward segment has left. -/
  | collectiveComplete (grp : Nat) (err : HwErr := .none)
  /-- STEP (R352): A STEP descriptor is checked and its step joins the order of waiting steps. -/
  | step (ring : Nat)
  /-- COPY (R157): A COPY descriptor copies bytes or patterns between CVAs on the service channels. -/
  | copy (ring : Nat) (err : HwErr := .none)
  /-- SEAL (R155): A SEAL descriptor in MODE 0 computes and stores the edge codes of a range. -/
  | sealRange (ring : Nat) (err : HwErr := .none)
  /-- SEAL_VERIFY (R155): A SEAL descriptor in MODE 1 checks a range's blocks and reports the mismatches. -/
  | sealVerify (ring : Nat) (err : HwErr := .none)
  /-- TABLE_CALL (R321): A TABLE descriptor with FORM 0 calls a loupe with a call block. -/
  | tableCall (ring : Nat)
  /-- TABLE_REGISTER (R185): A TABLE descriptor with FORM 1 writes or removes a table registry entry. -/
  | tableRegister (ring : Nat)
  /-- FENCE (R321): A FENCE descriptor waits for earlier descriptors and, with TLBI, discards cached translations. -/
  | fence (ring : Nat)
  /-- SIGNAL_WRITE (R321): A SIGNAL descriptor of KIND 0 writes VALUE to ADDR. -/
  | signalWrite (ring : Nat)
  /-- SIGNAL_ADD (R321): A SIGNAL descriptor of KIND 1 adds VALUE atomically to the word at ADDR. -/
  | signalAdd (ring : Nat)
  /-- SIGNAL_RING (R321): A SIGNAL descriptor of KIND 2 writes VALUE as a doorbell to local ring RING. -/
  | signalRing (ring : Nat)
  /-- SIGNAL_REMOTE_RING (R321): A SIGNAL descriptor of KIND 3 sends VALUE as a DBELL to ring RING of package PKG. -/
  | signalRemoteRing (ring : Nat)
  /-- LOAD_MODEL (R341): A LOAD_MODEL descriptor unloads the resident model and checks and loads a new image. -/
  | loadModel (ring : Nat)
  /-- END_CONTEXT (R344): END_CONTEXT with ABORT 0 moves an open context to ENDING. -/
  | endContext (ring : Nat)
  /-- END_CONTEXT_ABORT (R347): END_CONTEXT with ABORT 1 tears the context down and completes when the slot is FREE. -/
  | endContextAbort (ring : Nat)
  /-- DESC_NOP (R321): A NOP descriptor does nothing except act on its flags. -/
  | descNop (ring : Nat)
  /-- AUTH (R334): An AUTH descriptor's payload is copied, its tag and counter are checked and the counter is persisted. -/
  | auth (ring : Nat)
  /-- OPTION_NEGATIVE_WRITE (R447): The option negative write command checks an image and writes it into a negative slot. -/
  | optionNegativeWrite (readBackOk : Bool)
  /-- FIRMWARE_UPDATE (R472): The firmware update command verifies an image, writes it to the unbooted slot and blows revocation and SVN fuses. -/
  | firmwareUpdate (readBackOk : Bool)
  /-- PACKAGE_RESET (R435): The package reset command writes its completion record and then resets at level 1. -/
  | packageReset
  /-- DOMAIN_RESET (R435): The domain reset command writes its completion record and then resets at level 2. -/
  | domainReset
  /-- POD_MEMBERSHIP_CHANGE (R298): The pod membership change command is checked, stops new steps and waits for the steps in flight. -/
  | podMembershipChange
  /-- MEMBERSHIP_APPLY (R296): Once every step in flight has ended, the package writes the new incarnation, routing and group entries and resumes steps. -/
  | membershipApply
  /-- COMMAND_KEY_ROTATION (R479): The command-key rotation command installs a new command key, or disowns the package. -/
  | commandKeyRotation
  /-- HBM_REPAIR_COMMIT (R430): The HBM repair commit command hard-repairs the listed rows one by one and writes result words. -/
  | hbmRepairCommit (ends : List RepairEnd)
  /-- DEBUG_UNLOCK (R481): The debug unlock command replaces the unlocked debug scope. -/
  | debugUnlock
  /-- CONTACT_SHEET_ENABLE (R497): The contact-sheet enable command sets AUTHEN to ENABLE. -/
  | contactSheetEnable
  /-- INCARNATION_SET (R297): The incarnation-set command is checked, stops new steps and waits for the steps in flight. -/
  | incarnationSet
  /-- INCARNATION_APPLY (R297): Once every step in flight has ended, the package sets its own incarnation and resumes steps. -/
  | incarnationApply
  /-- DOORBELL (R308): A write to a BAR2 doorbell sets the ring's TAIL and hint, or is dropped or stops the ring. -/
  | doorbell (off : Nat) (size : Nat) (word : Word)
  /-- WATCHED_LINE_INVALIDATE (R311): The invalidation of a watched line makes the ring unit re-read the line and take word 0 as a doorbell. -/
  | watchedLineInvalidate (ring : Nat) (err : HwErr)
  /-- PENDING_RING_FETCH (R314): The ring unit brings a pending ring on chip, evicting an idle ring if needed. -/
  | pendingRingFetch (ring : Nat)
  /-- DESCRIPTOR_FETCH (R316): The ring unit reads a ready descriptor of a ring, by priority class and round-robin, and advances HEAD. -/
  | descriptorFetch (ring : Nat) (err : HwErr := .none)
  /-- DESCRIPTOR_COMPLETE (R327): After a descriptor completes, the ring unit writes its record and SIGWORD and sends the interrupt, in order. -/
  | descriptorComplete (ring : Nat)
  /-- RING_CTRL_READ (R336): A RING_CTRL READ loads the ring's current context into RING_DATA0 to 7. -/
  | ringCtrlRead (ring : BitVec 20)
  /-- RING_CTRL_WRITE (R304): A RING_CTRL WRITE writes a whole ring context, or removes the ring, or is refused. -/
  | ringCtrlWrite (ring : BitVec 20)
  /-- RING_CTRL_RESET (R330): A RING_CTRL RESET zeroes HEAD, TAIL and DONE and clears ERR when no descriptor is running. -/
  | ringCtrlReset (ring : BitVec 20)
  /-- CTX_READ (R365): A CTX_CTRL READ loads the context slot into CTX_DATA0 to 3. -/
  | ctxRead (ctx : BitVec 12)
  /-- OPEN (R343): A CTX_CTRL OPEN opens a context slot with a profile and page table, or latches or refuses it. -/
  | openCtx (ctx : BitVec 12)
  /-- WITHDRAW (R351): An SCH_CORE WITHDRAW withdraws a core from placement, pending while the core holds a program. -/
  | withdraw (core : BitVec 10)
  /-- RETURN (R351): An SCH_CORE RETURN gives a withdrawn core back to placement, latched while a withdrawal is pending. -/
  | returnCore (core : BitVec 10)
  /-- FIX_SE_READ (R228): A FIX_SE_CTRL READ loads a context's schedule entry into FIX_SE_DATA0 to 7. -/
  | fixSeRead (ctx : BitVec 12)
  /-- FIX_SE_COMMIT (R228): A FIX_SE_CTRL COMMIT writes the window to the schedule entry, pending while a step is running. -/
  | fixSeCommit (ctx : BitVec 12) (wrcnt : Bool)
  /-- PRT_RT_READ (R269): A PRT_RT_CTRL READ loads a routing entry into PRT_RT_DATA0 and PRT_RT_DATA1. -/
  | prtRtRead (entry : BitVec 12)
  /-- PRT_RT_WRITE (R265): A PRT_RT_CTRL WRITE replaces one routing entry and resets its usable sets, unless the table is locked. -/
  | prtRtWrite (entry : BitVec 12)
  /-- STK_GRP_READ (R271): An STK_GRP_CTRL READ loads a group entry into STK_GRP_DATA0 to 7. -/
  | stkGrpRead (grp : BitVec 8)
  /-- STK_GRP_WRITE (R271): An STK_GRP_CTRL WRITE writes a whole group entry and resets its sequence number, or is refused. -/
  | stkGrpWrite (grp : BitVec 8)
  /-- DIE_RESET (R441): An RST_CTRL request of KIND 0 resets one idle A-die at level 3. -/
  | dieReset (index : BitVec 11)
  /-- CORE_RESET (R441): An RST_CTRL request of KIND 1 resets one withdrawn, idle core. -/
  | coreReset (index : BitVec 11)
  /-- PORT_RESET (R539): An RST_CTRL request of KIND 2 resets a port in OFF or DOWN and returns it to OFF. -/
  | portReset (index : BitVec 11)
  /-- FIXER_RESET (R441): An RST_CTRL request of KIND 3 resets one fixer while no fixer call is queued or running. -/
  | fixerReset (index : BitVec 11)
  /-- LOUPE_RESET (R441): An RST_CTRL request of KIND 4 resets one idle loupe. -/
  | loupeReset (index : BitVec 11)
  /-- STACKER_RESET (R441): An RST_CTRL request of KIND 5 resets one stacker while no collective is queued or running. -/
  | stackerReset (index : BitVec 11)
  /-- RING_GROUP_RESET (R441): An RST_CTRL request of KIND 6 resets each valid ring of one BAR2 page. -/
  | ringGroupReset (index : BitVec 11)
  /-- BLOCK_RESET_COMPLETE (R441): A die or block reset completes, the block is enabled and latched enables take effect. -/
  | blockResetComplete
  /-- PORT_ENABLE (R266): Setting PRT_CTRL EN starts training from OFF, or latches an enable during DRAIN. -/
  | portEnable (port : Nat)
  /-- PORT_DISABLE (R266): Clearing PRT_CTRL EN stops new transactions and moves the port to DRAIN. -/
  | portDisable (port : Nat)
  /-- RETRAIN (R266): A write of PRT_CTRL RETRAIN retrains the port from UP or DOWN. -/
  | retrain (port : Nat)
  /-- SOFT_REPAIR (R428): An MEM_PPR_CTRL SOFT request saves a row, soft-repairs it and writes it back. -/
  | softRepair (stack : Nat) (chan : BitVec 5) (pc : Bool) (bank : BitVec 6) (row : BitVec 32)
  /-- ERRQ_BASE_WRITE (R490): A write of PKG_ERRQ_BASE places the error queue, and is refused while EN is 1. -/
  | errqBaseWrite (v : Word)
  /-- ERRQ_CTRL_WRITE (R490): A write of PKG_ERRQ_CTRL sets EN, IEN, VEC and CESHIFT, and refuses EN on a bad base. -/
  | errqCtrlWrite (v : Word)
  /-- ERRQ_HEAD_WRITE (R491): A write of PKG_ERRQ_HEAD consumes records, clears PENDING, writes held records and resends the vector if needed. -/
  | errqHeadWrite (v : Word)
  /-- MSIX_UNMASK (R517): Clearing an MSI-X mask sends the messages held in the pending-bit array. -/
  | msixUnmask (what : MaskWhat)
  /-- REGISTER_WRITE (R510): A write to a register with no behaviour of its own is applied whole, in arrival order, with RW1C and RWL rules. -/
  | registerWrite (bar : Bar) (off : Nat) (wide : Bool) (v : Word)
  /-- DROPPED_REGISTER_ACCESS (R509): A register access that is not an aligned 64- or 32-bit access is dropped and logged in PKG_ACCERR. -/
  | droppedRegisterAccess (off : Nat) (size : Nat) (write : Bool) (i3c : Bool)
  /-- I3C_POINTER_WRITE (R512): An I3C write of 3 offset bytes sets the register pointer. -/
  | i3cPointerWrite (off : BitVec 24)
  /-- I3C_READ (R512): An I3C read of 8 bytes returns the register at the pointer and advances the pointer. -/
  | i3cRead
  /-- I3C_REGISTER_WRITE (R512): An I3C write of an offset and 8 data bytes writes a register, and is refused under strict-AUTH. -/
  | i3cRegisterWrite (off : BitVec 24) (v : Word)
  /-- CSW_NOP (R499): A contact-sheet GO with OPCODE NOP completes with DONE. -/
  | cswNop (slot : Nat) (go : BitVec 32)
  /-- CSW_COPY (R502): A contact-sheet GO with OPCODE COPY runs a context-0 step that copies LEN bytes in the spread window. -/
  | cswCopy (slot : Nat) (go : BitVec 32)
  /-- CSW_FILL (R502): A contact-sheet GO with OPCODE FILL runs a step that fills LEN bytes with VALUE. -/
  | cswFill (slot : Nat) (go : BitVec 32)
  /-- CSW_GEMM (R502): A contact-sheet GO with OPCODE GEMM runs a step that computes a BF16 matrix product into FP32. -/
  | cswGemm (slot : Nat) (go : BitVec 32)
  /-- CSW_ACCESS_DROPPED (R498): A BAR4 access while the window is unavailable, or not 32-bit aligned, is dropped and counted. -/
  | cswAccessDropped
  /-- PLACEMENT (R350): When cores are freed or a step joins the order, the scheduler places waiting steps in order, all or none. -/
  | placement
  /-- PREEMPT_PATIENCE_EXPIRY (R353): A high step at the head that has waited PREEMPT_PATIENCE forms a victim set and pre-empts. -/
  | preemptPatienceExpiry
  /-- PREEMPT_SAVE (R354): Once the victims' engines reach op boundaries, their state is written to darkslides and their cores are freed. -/
  | preemptSave (ctx : Nat) (bad : Option Nat)
  /-- BLOCK_SWAP_EXPIRY (R361): When every placed step has been blocked for BLOCK_SWAP and the head does not fit, the scheduler makes a block swap. -/
  | blockSwapExpiry
  /-- STEP_RELEASE (R58): A placed or restored step's core programs are released to start at op 0. -/
  | stepRelease (ctx : Nat)
  /-- STEP_WATCHDOG_EXPIRY (R321): A step running longer than its watchdog ends with STEP_WATCHDOG. -/
  | stepWatchdogExpiry (ctx : Nat)
  /-- TEARDOWN_COMPLETE (R344): When every core of a torn-down context is returned and its units have stopped, the slot goes to GONE or FREE. -/
  | teardownComplete (ctx : Nat)
  /-- SCRUB_COMPLETE (R348): A core's scratchpad scrub ends, and the core becomes free for placement. -/
  | scrubComplete (core : Nat) (upper : Bool)
  /-- ENDING_COMPLETE (R344): An ENDING context with no work left has its rings removed and its slot released. -/
  | endingComplete (ctx : Nat)
  /-- CORE_GATE (R454): A core whose engines have stalled on waits for 256 cycles gates its clock. -/
  | coreGate (core : Nat)
  /-- CORE_OFF (R454): A core with no program for 1 µs powers off. -/
  | coreOff (core : Nat)
  /-- CORE_WAKE_COMPLETE (R455): A gated or off core finishes waking, zeroing scratchpad and reseeding grain after Off. -/
  | coreWakeComplete (core : Nat)
  /-- DATA_FLIT (R247): A received DATA flit is checked and accepted in sequence, taking its ACK and credits, or discarded with a NAK. -/
  | dataFlit (port : Nat) (flit : Flit)
  /-- NAK_FLIT (R247): A received NAK makes the sender resend every unacknowledged flit from ACK + 1. -/
  | nakFlit (port : Nat) (ack : BitVec 12) (cr : List Byte)
  /-- IDLE_FLIT (R246): A received IDLE flit returns its ACK and credits. -/
  | idleFlit (port : Nat) (ack : BitVec 12) (cr : List Byte)
  /-- CTRL_FLIT (R266): The CTRL exchange at ALIGN records the peer and credits and brings the port UP. -/
  | ctrlFlit (port : Nat) (peer : PeerInfo)
  /-- WIDTH1 (R461): A WIDTH1 CTRL flit takes both ends of the port to the Safelight width. -/
  | width1 (port : Nat) (ack : BitVec 12 := 0) (cr : List Byte := [])
  /-- WIDEN (R461): A WIDEN CTRL flit wakes a Safelight package or makes a Lit or Standby package retrain the port. -/
  | widen (port : Nat) (ack : BitVec 12 := 0) (cr : List Byte := [])
  /-- WIDEN_RESEND_TIMER (R461): While a transaction waits at a Safelight-width port, WIDEN is sent again every 250 ticks. -/
  | widenResendTimer (port : Nat)
  /-- NAK_HOLDOFF_EXPIRY (R247): One µs after a NAK with no expected flit, the receiver may send a further NAK. -/
  | nakHoldoffExpiry (port : Nat)
  /-- RETRY_TIMEOUT (R248): The oldest unacknowledged flit waiting RETRY_TMO causes a replay, and RETRY_LIMIT replays cause a retrain. -/
  | retryTimeout (port : Nat)
  /-- TRAIN_DONE (R266): Training ends with a good quartet, the width is chosen and the port moves to ALIGN. -/
  | trainDone (port : Nat) (good : BitVec 16) (rtt : BitVec 12)
  /-- TRAIN_TIMEOUT (R266): Training finds no good quartet within its bound, and the port enters DOWN. -/
  | trainTimeout (port : Nat)
  /-- LANE_LOCK_LOSS (R266): Loss of lock on a lane in use takes an UP port to RETRAIN. -/
  | laneLockLoss (port : Nat) (lane : Nat)
  /-- RETRAIN_DONE (R266): A retrain finds a good quartet within 100 µs and the port resumes from ACK + 1. -/
  | retrainDone (port : Nat) (good : BitVec 16) (rtt : BitVec 12)
  /-- RETRAIN_TIMEOUT (R266): A retrain with no good quartet within 100 µs discards the replay buffer and queue and enters DOWN. -/
  | retrainTimeout (port : Nat)
  /-- DRAIN_DONE (R266): A draining port whose replay buffer empties, or after 100 µs, turns its lanes off and enters OFF. -/
  | drainDone (port : Nat)
  /-- TRANSACTION_SEND (R250): A port transmits the next transaction by VC priority once the receiver holds credit for all its slots. -/
  | transactionSend (port : Nat) (starved : Option Nat)
  /-- RD (R255): A received RD is checked, forwarded or served at the home, and answered with RDRSP. -/
  | rd (src : Option Nat) (err : HwErr := .none)
  /-- WR (R255): A received WR is checked and written at the home, with the edge code for a coded block, and answered with WRACK. -/
  | wr (src : Option Nat)
  /-- ATADD (R255): A received ATADD adds at the home and returns the earlier value in ATRSP. -/
  | atadd (src : Option Nat)
  /-- ATCAS (R255): A received ATCAS compare-swaps at the home and returns the earlier value in ATRSP. -/
  | atcas (src : Option Nat)
  /-- DBELL (R310): A received DBELL is taken as a local doorbell when the ring accepts remote doorbells, else refused with STATUS 4. -/
  | dbell (src : Option Nat)
  /-- RDRSP (R254): A received read reply delivers the data, checking the edge code or raising on a non-zero STATUS. -/
  | rdrsp (src : Option Nat)
  /-- WRACK (R255): A received write acknowledgement retires an outstanding remote write or doorbell. -/
  | wrack (src : Option Nat)
  /-- ATRSP (R253): A received atomic reply returns the earlier value to the requester. -/
  | atrsp (src : Option Nat)
  /-- HBEAT (R288): A heartbeat that passes the incarnation check resets the port's miss count. -/
  | hbeat (src : Option Nat)
  /-- INCNOTE (R291): A received INCNOTE makes this package stale or declares another package lost. -/
  | incnote (src : Option Nat)
  /-- DARK (R288): A received DARK notice starts the neighbour silence timer. -/
  | dark (src : Option Nat)
  /-- REQ_TIMEOUT (R258): A remote request with no reply within REQ_TMO is abandoned with PRT_TIMEOUT. -/
  | reqTimeout (tag : Nat)
  /-- HBEAT_TIMER (R287): Every 10 µs, each UP port of a member that is not stale sends an HBEAT. -/
  | hbeatTimer (port : Nat)
  /-- HEARTBEAT_MISS_TIMER (R288): 250 ticks with no heartbeat heard raise the miss count, and HBMISS misses write RETRAIN and lose the link. -/
  | heartbeatMissTimer (port : Nat)
  /-- SILENCE_TIMER_END (R288): The end of a neighbour's announced silence returns the heartbeat state to LIVE. -/
  | silenceTimerEnd (port : Nat)
  /-- DOWN_RETRAIN_TIMER (R288): Every 10 ms while a LOST or DARK port stays DOWN, RETRAIN is written to it. -/
  | downRetrainTimer (port : Nat)
  /-- ALL_PORTS_DOWN_TIMER (R434): Every enabled port DOWN together for 1 ms raises reset source 13. -/
  | allPortsDownTimer
  /-- RDS (R375): A home serves a read for S or E by its directory state, snooping owners as needed. -/
  | rds (a : Agent) (line : Nat) (err : HomeErr)
  /-- RDX (R375): A home serves a read for ownership, invalidating every other recorded agent. -/
  | rdx (a : Agent) (line : Nat) (err : HomeErr := .none)
  /-- UPG (R375): A home serves an upgrade without data, or as RdX if the sender is no longer recorded. -/
  | upg (a : Agent) (line : Nat) (err : HomeErr := .none)
  /-- ACK (R377): An Ack finishes a caching request and frees the line for its next request. -/
  | ackMsg (a : Agent) (line : Nat)
  /-- WB (R378): A home applies a write-back at once, ahead of queued requests for the line. -/
  | wb (a : Agent) (line : Nat) (err : HomeErr)
  /-- RDCUR (R375): A home serves a non-caching read of current data, snooping a dirty owner. -/
  | rdcur (line : Nat) (err : HomeErr := .none)
  /-- WRINV (R375): A home serves a non-caching write, invalidating every copy, and sends Done once memory is written. -/
  | wrinv (line : Nat) (err : HomeErr := .none)
  /-- ATH (R375): A home performs a 64-bit atomic for a non-caching agent and returns Done with the result. -/
  | ath (line : Nat) (err : HomeErr := .none)
  /-- SNPS (R376): A holder answers SnpS by giving data and keeping S, or moving M to O. -/
  | snps (a : Agent) (line : Nat)
  /-- SNPX (R376): A holder answers SnpX by invalidating and giving dirty data. -/
  | snpx (a : Agent) (line : Nat)
  /-- SNPCUR (R376): A holder answers SnpCur by giving dirty data and keeping its state. -/
  | snpcur (a : Agent) (line : Nat)
  /-- RSPMISS (R375): A home receiving RspMiss serves the request as if the holder held no copy. -/
  | rspmiss (a : Agent) (line : Nat) (data : Option (List Byte))
  /-- RSPS (R375): A home receiving RspS completes the snoop with the holder left in S. -/
  | rsps (a : Agent) (line : Nat) (data : Option (List Byte))
  /-- RSPO (R375): A home receiving RspO completes the snoop with the holder left in O. -/
  | rspo (a : Agent) (line : Nat) (data : Option (List Byte))
  /-- RSPI (R375): A home receiving RspI completes the snoop with the holder invalid, taking dirty data. -/
  | rspi (a : Agent) (line : Nat) (data : Option (List Byte))
  /-- RSPWBIF (R378): A home receiving RspWbIF waits for the matching WB before completing the request. -/
  | rspwbif (a : Agent) (line : Nat)
  /-- GRANT (R375): A requester receiving a Grant takes the line in the granted state. -/
  | grantMsg (a : Agent) (line : Nat)
  /-- DONE (R374): A non-caching agent receiving Done learns its write is visible, or gets the atomic result. -/
  | doneMsg (n : Nat)
  /-- SNOOP_TIMEOUT (R382): A snoop response, announced WB or CXL.cache request not received within SNOOP_TMO causes fog. -/
  | snoopTimeout (line : Nat)
  /-- MACHINE_CHECK (R383): A fatal server-core or S-die uncore machine check causes fog and raises reset source 12. -/
  | machineCheck (cause : MCheck)
  /-- MEMRD (R397): A host MemRd is served through the line's home as agent 2. -/
  | memrd (hpa : BitVec 52) (want : Want)
  /-- MEMWR (R397): A host MemWr is served as a WB or WrInv, and Cmp is sent once it is visible. -/
  | memwr (w : BusWrite)
  /-- MEMWRPTL (R397): A host MemWrPtl is served as a partial WB or WrInv, and Cmp is sent once it is visible. -/
  | memwrptl (w : BusWrite)
  /-- BICONFLICT (R377): A conflict between a host request and a back-invalidate snoop is settled by the BIConflict handshake. -/
  | biconflict (line : Nat)
  /-- SNPDATA (R370): The host-line cache answers a host SnpData from its state after snooping its cores. -/
  | snpdata (hpa : BitVec 52)
  /-- SNPINV (R370): The host-line cache answers a host SnpInv by invalidating its copies. -/
  | snpinv (hpa : BitVec 52)
  /-- HOST_SNPCUR (R370): The host-line cache answers a host SnpCur with current data. -/
  | hostSnpcur (hpa : BitVec 52)
  /-- GO (R399): The host's global-observation response makes a host-line cache write visible to the host. -/
  | go (hpa : BitVec 52)
  /-- CXL_CACHE_DATA (R370): The host returns data for a host-line cache read, which is delivered or allocated. -/
  | cxlCacheData (hpa : BitVec 52) (data : List Byte) (poison : Bool)
  /-- UIO_WRITE (R402): A peer's UIO write is completed on acceptance and served at the home as a WrInv. -/
  | uioWrite (w : BusWrite)
  /-- UIO_READ (R404): A peer's UIO read returns once the requester's earlier writes are visible, served as an RdCur. -/
  | uioRead (hpa : BitVec 52) (len : Nat) (rid : Nat := 0) (err : HwErr := .none)
  /-- HDM_COMMIT (R395): The host's HDM decoder commit is checked and commits, or sets error-not-committed. -/
  | hdmCommit (set : HdmSet)
  /-- ATS_INVALIDATE_REQUEST (R401): The package completes an ATS Invalidate Request once no request uses the translation. -/
  | atsInvalidateRequest (ctx : Nat) (page : Nat)
  /-- LINK_RECOVERY (R407): The CXL link entering Recovery holds outbound traffic and suspends snoop timeouts. -/
  | linkRecovery
  /-- LINK_L0_RETURN (R407): The CXL link returning to L0 resumes held traffic in order. -/
  | linkL0Return
  /-- LINK_HOLD_EXPIRY (R408): A link not back in L0 within LINK_HOLD is treated as a link loss. -/
  | linkHoldExpiry
  /-- DL_DOWN (R409): DL_Down is a link loss, and the package runs the link-loss sequence. -/
  | dlDown
  /-- HOT_RESET (R411): A CXL hot reset is a link loss and reset source 2. -/
  | hotReset
  /-- FLR (R411): A CXL FLR resets the function's CXL.io state and is reset source 3. -/
  | flr
  /-- IDE_INTEGRITY_FAILURE (R415): An IDE integrity failure on the stream is a link loss and is counted. -/
  | ideIntegrityFailure
  /-- VIRAL_RECEIVED (R409): Receipt of Viral from the host is a link loss. -/
  | viralReceived
  /-- PME_TURN_OFF (R462): The PME_Turn_Off handshake writes back and drops host lines and takes the link to L2. -/
  | pmeTurnOff
  /-- DOE_DISCOVERY (R413): A DOE Discovery request returns the protocols of a mailbox. -/
  | doeDiscovery (mailbox : Nat) (index : Nat)
  /-- CXL_TABLE_ACCESS (R414): A CXL Table Access request on DOE 0 returns the CDAT. -/
  | cxlTableAccess (entry : Nat)
  /-- GET_VERSION (R473): SPDM GET_VERSION returns the supported version. -/
  | getVersion
  /-- GET_CAPABILITIES (R473): SPDM GET_CAPABILITIES returns the package's capabilities. -/
  | getCapabilities
  /-- NEGOTIATE_ALGORITHMS (R473): SPDM NEGOTIATE_ALGORITHMS settles SHA3-256, ML-DSA-44, secp384r1 and AES-256-GCM. -/
  | negotiateAlgorithms
  /-- GET_DIGESTS (R473): SPDM GET_DIGESTS returns the certificate chain digests. -/
  | getDigests
  /-- GET_CERTIFICATE (R473): SPDM GET_CERTIFICATE returns the chain in slot 0. -/
  | getCertificate (slot : Nat)
  /-- SPDM_CHALLENGE (R473): SPDM CHALLENGE returns a signed challenge response under the identity key. -/
  | spdmChallenge (nonce : List Byte)
  /-- GET_MEASUREMENTS (R473): SPDM GET_MEASUREMENTS returns one block per measurement-log entry. -/
  | getMeasurements
  /-- KEY_EXCHANGE (R473): SPDM KEY_EXCHANGE begins a secured session. -/
  | keyExchange
  /-- FINISH (R473): SPDM FINISH completes the secured session. -/
  | finish
  /-- END_SESSION (R473): SPDM END_SESSION ends the secured session. -/
  | endSession
  /-- QUOTE (R476): A QUOTE request returns the nonce and measurement log signed under the identity key. -/
  | quote (nonce : List Byte)
  /-- SETKEY (R478): A SETKEY message in a secured session installs the command key on an unowned package. -/
  | setkey (key : List Byte)
  /-- IDCODE (R480): The JTAG instruction IDCODE selects the identification register. -/
  | idcode
  /-- BYPASS (R480): The JTAG instruction BYPASS selects the bypass register. -/
  | bypass
  /-- HOLDBOOT (R439): The JTAG instruction HOLDBOOT holds bring-up at the JTAG hold point. -/
  | holdboot
  /-- CHALLENGE (R482): The JTAG instruction CHALLENGE returns 32 random bytes for a vendor unlock. -/
  | challenge
  /-- UNLOCK (R482): The JTAG instruction UNLOCK verifies a vendor signature, disowns the package and sets the debug scope, or raises source 14. -/
  | unlock (req : UnlockReq)
  /-- DIETEST (R425): The JTAG instruction DIETEST takes one die into stand-alone test with its loop-backs. -/
  | dietest (die : Nat)
  /-- REACHPROG (R436): The JTAG instruction REACHPROG programs a blank source's reach value in fuses. -/
  | reachprog (source : Nat) (val : BitVec 3) (readBack : BitVec 3)
  /-- PKGRST (R434): The JTAG instruction PKGRST raises reset source 11. -/
  | pkgrst
  /-- POWER_ON (R434): PWR_OK rising is reset source 0 and starts a level-0 bring-up. -/
  | powerOn
  /-- PWR_OK_FALL (R528): PWR_OK held low for 10 ticks ends every activity within 1 µs. -/
  | pwrOkFall
  /-- WARM_RST_N_ASSERT (R437): WARM_RST_N asserted starts the count that confirms a pin reset. -/
  | warmRstNAssert
  /-- PERST_N_ASSERT (R437): PERST_N asserted starts the count that confirms a pin reset and a link loss. -/
  | perstNAssert
  /-- PIN_RESET_CONFIRM (R437): A reset pin held for 10 ticks becomes a reset, merged or deepened under R438. -/
  | pinResetConfirm (pin : RstPin)
  /-- MC_WATCHDOG_EXPIRY (R434): The management-controller watchdog expiring raises reset source 5. -/
  | mcWatchdogExpiry
  /-- BRINGUP_STEP_DONE (R439): A step of the level-0 or level-1 bring-up completes and the next begins. -/
  | bringupStepDone (info : StepInfo)
  /-- DOMAIN_RESET_STEP_DONE (R440): A step of the level-2 reset sequence completes and the next begins. -/
  | domainResetStepDone (info : StepInfo)
  /-- THERMAL_SAMPLE (R463): Every 250 ticks the junction sensors are read against the throttle and trip limits. -/
  | thermalSample (readings : List Nat)
  /-- THROTTLE_STEP (R463): A throttled die's core clock steps down every 250 µs or up every 1 ms. -/
  | throttleStep (die : Nat)
  /-- POWER_WINDOW (R464): At the end of each 1 ms window the package power is compared with the cap and core clocks step. -/
  | powerWindow (watts : Nat)
  /-- THROTTLE_N_CHANGE (R464): A change of THROTTLE_N changes the power cap in force and the deepest state allowed. -/
  | throttleNChange (level : Bool)
  /-- POWER_PICK (R459): The power controller chooses a sleeping state from the known events and starts its entry. -/
  | powerPick
  /-- DARK_LANES_DOWN (R295): 25 ticks after sending DARK, a package entering Dark takes its lanes down and powers off. -/
  | darkLanesDown
  /-- SCHEDULED_WAKE (R459): The scheduled wake of a sleeping state begins waking the package before the known event. -/
  | scheduledWake
  /-- WAKE_COMPLETE (R460): The package returns to Lit after a wake event. -/
  | wakeComplete
  /-- PATROL_SCRUB (R178): The patrol scrub reads a line, writes back a correction or handles an uncorrectable line. -/
  | patrolScrub (stack : Nat) (chan : Nat) (line : Nat) (find : ScrubFind)
  /-- GRAIN_TOPUP (R130): Every 2^20 core cycles each grain generator XORs fresh true-random bits into its state. -/
  | grainTopup (core : Nat)
  /-- HEALTH_TEST_FAIL (R132): A failed health test of the true random source sets HEALTH_FAIL and stops top-ups. -/
  | healthTestFail (core : Nat)
  /-- SERVER_CORE_INSTRUCTION (R380): A server core executes a load, store, atomic, fence or wait-for-interrupt, sending RdS, RdX, Upg or WB to a home, a CXL.cache request through the host-line cache, or raising an access fault. -/
  | serverCoreInstruction (die : Nat) (core : Nat) (addr : Nat) (op : CoreOp) (err : CacheErr)
  /-- TIMER_COMPARE (R458): A server core's timer compare falls due and raises its interrupt, waking the package from any sleeping state. -/
  | timerCompare (die : Nat) (core : Nat)
  /-- HEALTH_TEST_PASS (R132): The true random source passes its continuous health test again, and grain top-ups resume. -/
  | healthTestPass (core : Nat)
  /-- FLIT_CRC_FAIL (R247): A received flit of any type fails its CRC and is discarded, and the receiver sends one NAK unless a NAK is held off. -/
  | flitCrcFail (port : Nat)
  /-- LINK_UP (R392): The CXL link trains into L0 after reset or loss, negotiating width, rate and whether CXL.cache and CXL.mem are enabled. -/
  | linkUp (width : Nat) (rate : Nat) (cxl : Bool) (cacheEn : Bool) (memEn : Bool) (ats : Bool) (bars : List (BitVec 64) := [])
  /-- ATS_TRANSLATION_COMPLETION (R401): The host's answer to an ATS Translation Request is taken into the translation cache, or refused translations raise ADDR_UNMAPPED or stop the ring. -/
  | atsTranslationCompletion (answer : AtsAnswer)
  /-- IDE_KM (R415): An IDE_KM message over secured SPDM on DOE 1 programs, starts or refreshes the keys of the link IDE stream. -/
  | ideKm (msg : IdeMsg)
  /-- ENTRY_COMPLETE (R456): The entry into Standby or Safelight finishes its bounded time, and the package is in that state. -/
  | entryComplete
  deriving DecidableEq, Repr

end Sys2Proof
end

