-- ==== Sys2Proof/Decode.lean ====
section
/-! DEFINITION. The commands that a word spells by the bits of spec/opcode_table.json. No row of that table gives bits: a command is
an event of the part, and none of them is encoded as a word (R6, R39: op words are state that a step's descriptor names). -/

namespace Sys2Proof

/-- The command that `nbits` bits `w` spell by the table: none, because no row of it gives bits. -/
def decodeTableWord (_nbits _w : Nat) : Option Instr := none

end Sys2Proof
end

