-- ==== Sys2Proof/Config.lean ====
section
/-! DEFINITION. What the spec leaves open as a value: constants with no body, so that no proof can see what they are
(log entries 1, 8, 11). -/

namespace Sys2Proof.Config

/-- Free words, one for each index: grain words (R107, R130, R212), true-random bytes (R482), and every result the spec
calls undefined or does not state. `State.free` counts the words used (log entry 1). -/
opaque freeWord : Nat → BitVec 64

/-- A lane's grain generator (R130): what seeding number `n` gives it (core, lane), its state so many core cycles later, the 32 bits it puts
out in a state, and the place in the 128 bits of the 32 that a top-up changes. The spec gives none of the four (log entry 1). -/
opaque grainSeed : Nat → Nat → Nat → BitVec 128
opaque grainAt : BitVec 128 → Nat → BitVec 128
opaque grainOut : BitVec 128 → BitVec 32
opaque grainPlace : Nat

/-- Which operand the larger or smaller of two equal zeros is (R111 states none): of the two bit patterns (log entry 1). -/
opaque tieFirst : Nat → Nat → Bool

/-- The one fixed result of a transcendental op within its bound (R537): the op's code, the input's FP32 bits and the output
format, answering a place in the bound (log entry 11). -/
opaque transPick : Nat → Nat → Nat → Nat

/-- The set a line falls into in a structure of sets: structure (0 directory, 1 host-line cache), address, count of sets
(R369, R372 give no hash). -/
opaque lineSet : Nat → Nat → Nat → Nat

/-- SHA3-256 of a run of bytes (FIPS 202, outside the spec), as 32 bytes. -/
opaque sha3 : List Byte → List Byte

/-- KMAC256 (SP 800-185, outside the spec): key, customisation string, input and output length in bytes. -/
opaque kmac256 : List Byte → List Byte → List Byte → Nat → Nat

/-- The ML-DSA-44 public key that a seed gives (FIPS 204, outside the spec). -/
opaque identityKey : Nat → Nat

/-- Digests fixed at manufacture: the boot ROM's and the master negative's (R474). -/
opaque romDigest : List Byte
opaque masterDigest : List Byte

/-- ML-DSA-44 verification of a message under a public key (FIPS 204, outside the spec): key, message, signature. -/
opaque mldsaVerify : List Byte → List Byte → List Byte → Bool

/-- ML-DSA-44 signature of a message under the identity key, with a free coin. -/
opaque mldsaSign : List Byte → Nat → List Byte

/-- The content of a message whose encoding an outside standard fixes (CXL, DOE, SPDM, PCIe): message kind and its parameter. -/
opaque stdMessage : Nat → Nat → List Byte

/-- The device seed and the boot ROM's digest (R467, R474), never read out. -/
opaque deviceSeed : Nat

/-- Slots that a package sets aside for replies to its reads and atomics (R251 gives no size). -/
opaque replyRoom : Nat

/-- What a loop-back of the stand-alone die test measures (R426): kind (0 a die-to-die edge from the near end, 1 from the far end, 2 a
chip-to-chip port in itself, 3 across a cable), die, edge or port, and wire or lane: errors of a wire, and a lane's bit error ratio. -/
opaque loopErrors : Nat → Nat → Nat → Nat → Nat

/-- What an HBM stack offers for row repair and lane repair, which MEM_PPR_INV shows (R432 states no value): kind (0 banks of each
pseudo-channel, 1 hard resources of a channel as built, 2 soft resources of a bank, 3 soft resources of a channel, 4 lanes remapped
at bring-up), and the channel or bank. -/
opaque hbmRepair : Nat → Nat → Nat

end Sys2Proof.Config
end

