-- ==== Sys2Proof/Machine/Floats.lean ====
section
/-! DEFINITION. Number formats, widening, rounding and block scales (04_number_formats, R95 to R113, R537). A number is held
exactly, and each rounding is one explicit step. -/

namespace Sys2Proof.Machine

/-- An exact value: NaN, an infinity, or (−1)^neg · m · 2^e; zero keeps its sign (R100). -/
inductive Num where
  | nan
  | inf (neg : Bool)
  | fin (neg : Bool) (m : Nat) (e : Int)
  deriving DecidableEq, Repr

/-- Rounding modes of R106. -/
inductive Rnd where
  | rne | sr | rtz
  deriving DecidableEq, Repr

/-- The RND field (R106; 3 is refused at LOAD_MODEL). -/
def rndOf (n : Nat) : Rnd := if n = 1 then .sr else if n = 2 then .rtz else .rne

/-- 2^n of a natural or negative exponent: the numerator and the denominator's exponent. -/
def shiftBy (m : Nat) (k : Int) : Nat := if 0 ≤ k then m <<< k.toNat else m >>> (-k).toNat

/-- How a float format spells its largest exponent field (R97). -/
inductive Special where
  /-- infinity at mantissa 0, NaN elsewhere -/
  | ieee
  /-- NaN only at all ones (E4M3) -/
  | e4m3
  /-- neither infinity nor NaN -/
  | none
  deriving DecidableEq, Repr

/-- A float element format of R97. -/
structure FFmt where
  eb   : Nat
  mb   : Nat
  bias : Nat
  sp   : Special
  deriving DecidableEq, Repr

/-- An element format of R95: a float, or a two's-complement integer of so many bits. -/
inductive EFmt where
  | flt (f : FFmt)
  | int (bits : Nat)
  deriving DecidableEq, Repr

def fp32 : FFmt := ⟨8, 23, 127, .ieee⟩
def bf16 : FFmt := ⟨8, 7, 127, .ieee⟩
def fp16 : FFmt := ⟨5, 10, 15, .ieee⟩
def e4m3 : FFmt := ⟨4, 3, 7, .e4m3⟩
def e5m2 : FFmt := ⟨5, 2, 15, .ieee⟩
def e2m3 : FFmt := ⟨2, 3, 1, .none⟩
def e3m2 : FFmt := ⟨3, 2, 3, .none⟩
def e2m1 : FFmt := ⟨2, 1, 1, .none⟩

/-- The element format of a code of R95; codes 0xE and 0xF are reserved. -/
def elemFmt (code : Nat) : Option EFmt :=
  match code with
  | 0 => some (.flt bf16) | 1 => some (.flt fp16) | 2 => some (.flt e4m3) | 3 => some (.flt e5m2)
  | 4 => some (.flt e4m3) | 5 => some (.flt e5m2) | 6 => some (.flt e2m3) | 7 => some (.flt e3m2)
  | 8 => some (.int 8) | 9 => some (.flt e2m1) | 10 => some (.flt e2m1) | 11 => some (.int 4)
  | 12 => some (.flt fp32) | 13 => some (.int 32) | _ => none

/-- Bits of one element of a format code (R95). -/
def elemBits (code : Nat) : Nat :=
  match elemFmt code with
  | some (.flt f) => 1 + f.eb + f.mb
  | some (.int b) => b
  | none => 8

/-- The codes with an E8M0 scale per 32 elements (R95). -/
def isMX (code : Nat) : Bool := code == 4 || code == 5 || code == 6 || code == 7 || code == 10

/-- The integer codes (R121). -/
def isIntFmt (code : Nat) : Bool := code == 8 || code == 11 || code == 13

/-- Array groups of R63: 0 16-bit float, 1 8-bit float, 2 8-bit integer, 3 4-bit float, 4 4-bit integer. -/
def groupOf (code : Nat) : Option Nat :=
  if code ≤ 1 then some 0 else if code ≤ 7 then some 1 else if code = 8 then some 2
  else if code ≤ 10 then some 3 else if code = 11 then some 4 else none

/-- Weights per cell of a group (R63). -/
def cellWeights (g : Nat) : Nat := if g = 0 then 1 else if g ≤ 2 then 2 else 4

/-- Two's-complement value of the low `n` bits. -/
def sext (n v : Nat) : Int :=
  let w := v % 2 ^ n
  if w < 2 ^ (n - 1) then (w : Int) else (w : Int) - (2 ^ n : Nat)

/-- The two's-complement bits of an integer, `n` of them. -/
def toBits (n : Nat) (i : Int) : Nat := (i % (2 ^ n : Nat)).toNat

/-- Decode a float element (R97). -/
def decodeFlt (f : FFmt) (v : Nat) : Num :=
  let m := v % 2 ^ f.mb
  let e := (v >>> f.mb) % 2 ^ f.eb
  let s := v.testBit (f.eb + f.mb)
  let top := e = 2 ^ f.eb - 1
  if top ∧ f.sp = .ieee then (if m = 0 then .inf s else .nan)
  else if top ∧ f.sp = .e4m3 ∧ m = 2 ^ f.mb - 1 then .nan
  else if e = 0 then .fin s m (1 - (f.bias : Int) - f.mb)
  else .fin s (2 ^ f.mb + m) ((e : Int) - f.bias - f.mb)

/-- An integer as an exact value. -/
def ofInt (i : Int) : Num := .fin (decide (i < 0)) i.natAbs 0

/-- Decode an element of a format (R97, R98). -/
def decodeElem (f : EFmt) (v : Nat) : Num :=
  match f with
  | .flt f => decodeFlt f v
  | .int b => ofInt (sext b v)

/-- Negation: the sign bit of any value but NaN. -/
def Num.negate : Num → Num
  | .nan => .nan
  | .inf s => .inf (!s)
  | .fin s m e => .fin (!s) m e

/-- Magnitude. -/
def Num.magn : Num → Num
  | .nan => .nan
  | .inf _ => .inf false
  | .fin _ m e => .fin false m e

def Num.isNan : Num → Bool
  | .nan => true
  | _ => false

/-- NaN or an infinity (R70, R111). -/
def Num.nonFinite : Num → Bool
  | .fin _ _ _ => false
  | _ => true

/-- The signed integer `±m` at the exponent `e0 ≤ e`. -/
def scaledInt (neg : Bool) (m : Nat) (e e0 : Int) : Int :=
  let v : Int := ((m <<< (e - e0).toNat : Nat) : Int)
  if neg then -v else v

/-- Exact sum (R100, R111): opposite infinities give NaN, an exact zero sum is +0 unless both terms are −0. -/
def Num.add : Num → Num → Num
  | .nan, _ => .nan
  | _, .nan => .nan
  | .inf a, .inf b => if a = b then .inf a else .nan
  | .inf a, _ => .inf a
  | _, .inf b => .inf b
  | .fin s m e, .fin s' m' e' =>
    if m = 0 ∧ m' = 0 then .fin (s && s') 0 0
    else
      let e0 := if e ≤ e' then e else e'
      let v := scaledInt s m e e0 + scaledInt s' m' e' e0
      .fin (decide (v < 0)) v.natAbs e0

/-- Exact product: a zero product takes the sign of the product, infinity times zero is NaN (R100, R111). -/
def Num.mul : Num → Num → Num
  | .nan, _ => .nan
  | _, .nan => .nan
  | .inf a, .inf b => .inf (a != b)
  | .inf a, .fin s m _ => if m = 0 then .nan else .inf (a != s)
  | .fin s m _, .inf b => if m = 0 then .nan else .inf (s != b)
  | .fin s m e, .fin s' m' e' => .fin (s != s') (m * m') (e + e')

/-- Times a power of two (block scales, R66, R101). -/
def Num.scale (x : Num) (k : Int) : Num :=
  match x with
  | .fin s m e => .fin s m (e + k)
  | y => y

/-- Order of two values that are not NaN; the zeros are equal (R111). -/
def Num.lt : Num → Num → Bool
  | .nan, _ => false
  | _, .nan => false
  | .inf a, .inf b => a && !b
  | .inf a, .fin _ _ _ => a
  | .fin _ _ _, .inf b => !b
  | .fin s m e, .fin s' m' e' =>
    let e0 := if e ≤ e' then e else e'
    decide (scaledInt s m e e0 < scaledInt s' m' e' e0)

/-- Equality of values; NaN equals nothing (R111). -/
def Num.eqv (a b : Num) : Bool := !a.isNan && !b.isNan && !a.lt b && !b.lt a

/-- ⌊log2⌋ of a non-zero finite magnitude. -/
def floorLog2 (m : Nat) (e : Int) : Int := (Nat.log2 m : Int) + e

/-- One rounding of a magnitude to a multiple of 2^q (R106, R107): the count of quanta. `r` is the lane's grain word. -/
def roundMag (rnd : Rnd) (r : BitVec 32) (m : Nat) (e q : Int) : Nat :=
  if q ≤ e then m <<< (e - q).toNat
  else
    let d := (q - e).toNat
    let k := m >>> d
    let rem := m % 2 ^ d
    match rnd with
    | .rtz => k
    | .rne => if 2 * rem > 2 ^ d ∨ (2 * rem = 2 ^ d ∧ k % 2 = 1) then k + 1 else k
    | .sr =>
      let f := (rem <<< 32) >>> d
      if f + r.toNat ≥ 2 ^ 32 then k + 1 else k

/-- Largest finite magnitude's code (R97). -/
def maxCode (f : FFmt) : Nat :=
  match f.sp with
  | .ieee => (2 ^ f.eb - 1) * 2 ^ f.mb - 1
  | .e4m3 => 2 ^ (f.eb + f.mb) - 2
  | .none => 2 ^ (f.eb + f.mb) - 1

/-- The canonical NaN (R112), or +0 where the format has none (R108). -/
def canonNan (f : FFmt) : Nat :=
  match f.sp with
  | .ieee => (2 ^ f.eb - 1) * 2 ^ f.mb + 2 ^ (f.mb - 1)
  | .e4m3 => 2 ^ (f.eb + f.mb) - 1
  | .none => 0

/-- One rounding of an exact value to a float format (R106 to R108, R112). -/
def encodeFlt (f : FFmt) (rnd : Rnd) (r : BitVec 32) (x : Num) : Nat :=
  let sgn (s : Bool) : Nat := if s then 2 ^ (f.eb + f.mb) else 0
  match x with
  | .nan => canonNan f
  | .inf s =>
    match f.sp with
    | .ieee => sgn s + (2 ^ f.eb - 1) * 2 ^ f.mb
    | .e4m3 => canonNan f
    | .none => sgn s + maxCode f
  | .fin s m e =>
    if m = 0 then sgn s
    else
      let emin : Int := 1 - (f.bias : Int) - f.mb
      let l := floorLog2 m e - f.mb
      let q := if l < emin then emin else l
      let code := (q - emin).toNat * 2 ^ f.mb + roundMag rnd r m e q
      if code ≤ maxCode f then sgn s + code
      else if f.sp = .ieee ∧ rnd = .rne then sgn s + (2 ^ f.eb - 1) * 2 ^ f.mb
      else sgn s + maxCode f

/-- Clamp to `n`-bit two's complement (R69, R113). -/
def clampInt (n : Nat) (i : Int) : Int :=
  let hi : Int := (2 ^ (n - 1) : Nat) - 1
  let lo : Int := -(2 ^ (n - 1) : Nat)
  if i > hi then hi else if i < lo then lo else i

/-- One rounding of an exact value to an integer format (R108): rounded under the mode, then clamped; NaN gives 0. -/
def encodeInt (n : Nat) (rnd : Rnd) (r : BitVec 32) (x : Num) : Nat :=
  match x with
  | .nan => 0
  | .inf s => toBits n (clampInt n (if s then -(2 ^ n : Nat) else (2 ^ n : Nat)))
  | .fin s m e =>
    let k := roundMag rnd r m e 0
    toBits n (clampInt n (if s then -(k : Int) else k))

/-- One rounding of an exact value to a plain element format (R108). -/
def encodeElem (f : EFmt) (rnd : Rnd) (r : BitVec 32) (x : Num) : Nat :=
  match f with
  | .flt f => encodeFlt f rnd r x
  | .int b => encodeInt b rnd r x

/-- Whether stochastic rounding of the value to the format would use the grain word (R107: not where it is exact). -/
def inexactIn (f : EFmt) (x : Num) : Bool :=
  match x with
  | .fin _ _ _ => encodeElem f .rtz 0 x != encodeElem f .sr (BitVec.ofNat 32 (2 ^ 32 - 1)) x
  | _ => false

/-- Round to FP32 by RNE and read back (the accumulations of R127, R189, R278). -/
def rnd32 (x : Num) : Num := decodeFlt fp32 (encodeFlt fp32 .rne 0 x)

/-- FP32 bits of a value, RNE. -/
def toF32 (x : Num) : Nat := encodeFlt fp32 .rne 0 x

/-- The value of FP32 bits. -/
def ofF32 (v : Nat) : Num := decodeFlt fp32 v

/-- Larger of two values (R111): NaN if either is NaN; of two equal zeros one of them, which one is free. -/
def Num.maxN (a b : Num) : Num :=
  if a.isNan || b.isNan then .nan
  else if a.lt b then b else if b.lt a then a
  else if Config.tieFirst (toF32 a) (toF32 b) then a else b

/-- Smaller of two values (R111). -/
def Num.minN (a b : Num) : Num :=
  if a.isNan || b.isNan then .nan
  else if a.lt b then a else if b.lt a then b
  else if Config.tieFirst (toF32 b) (toF32 a) then a else b

/-- An element times its block scale (R66, R101, R105): scale 0xFF is NaN. -/
def scaled (x : Num) (sc : Nat) : Num := if sc = 255 then .nan else x.scale ((sc : Int) - 127)

/-- Widening to FP32 (R105): exact, or rounded to nearest even where the scaled value leaves the FP32 range. -/
def widen (code v sc : Nat) : Num :=
  match elemFmt code with
  | some f => if isMX code then rnd32 (scaled (decodeElem f v) sc) else decodeElem f v
  | none => .nan

/-- Exponent of the largest normal value of an MX element format (R109). -/
def emaxOf (f : FFmt) : Int :=
  match f.sp with
  | .ieee => (2 ^ f.eb - 2 : Int) - f.bias
  | _ => (2 ^ f.eb - 1 : Int) - f.bias

/-- The larger of two finite magnitudes, as mantissa and exponent. -/
def bigger (a b : Nat × Int) : Nat × Int :=
  let e0 := if a.2 ≤ b.2 then a.2 else b.2
  if a.1 <<< (a.2 - e0).toNat < b.1 <<< (b.2 - e0).toNat then b else a

/-- The largest magnitude of a block's live values, or none where one is NaN or an infinity (R109 step 1). -/
def blockAmax : List Num → Option (Nat × Int)
  | [] => some (0, 0)
  | .fin _ m e :: t => (blockAmax t).map (bigger (m, e))
  | _ :: _ => none

/-- The scale byte of a block for an MX element format (R109 steps 1 to 3). -/
def blockScale (f : FFmt) (xs : List Num) : Nat :=
  match blockAmax xs with
  | none => 255
  | some (m, e) =>
    if m = 0 then 0
    else
      let x := floorLog2 m e - emaxOf f
      let x := if x < -127 then -127 else if x > 127 then 127 else x
      (x + 127).toNat

/-- One element of a block under its scale byte (R109): +0 where the block has a non-finite value, a zero of its own sign
where the block is all zero, else value × 2^−X rounded, and saturated to Max in every mode (R108: also for E5M2). -/
def encodeMX (f : FFmt) (sc : Nat) (rnd : Rnd) (r : BitVec 32) (x : Num) : Nat :=
  if sc = 255 then 0
  else
    let c := encodeFlt f rnd r (x.scale (127 - (sc : Int)))
    let top := 2 ^ (f.eb + f.mb)
    if c % top > maxCode f then c / top * top + maxCode f else c

/-- The float part of an MX code. -/
def mxElem (code : Nat) : FFmt :=
  match elemFmt code with
  | some (.flt f) => f
  | _ => e2m1

/- Transcendental functions (R125, R537). -/

/-- ⌊√n⌋ by binary digits: `k` digits from `2^(k-1)` down. -/
def isqrtAux (n : Nat) : Nat → Nat → Nat
  | 0, x => x
  | k + 1, x => if (x + 2 ^ k) * (x + 2 ^ k) ≤ n then isqrtAux n k (x + 2 ^ k) else isqrtAux n k x

/-- ⌊√n⌋. -/
def isqrt (n : Nat) : Nat := isqrtAux n (Nat.log2 n / 2 + 1) 0

/-- Fixed-point working precision of the enclosures. -/
def fxBits : Nat := 192

/-- 2^(2^−i) in fixed point, truncated: repeated square roots of 2. -/
def rootOfTwo : Nat → Nat
  | 0 => 2 <<< fxBits
  | i + 1 => isqrt (rootOfTwo i <<< fxBits)

/-- 2^(0.f) for the `n` leading binary digits of the fraction `f` (of 2^n), in fixed point, truncated at every product. -/
def exp2Frac (f : Nat) : Nat → Nat → Nat → Nat
  | 0, _, acc => acc
  | n + 1, i, acc =>
    exp2Frac f n (i + 1) (if f.testBit n then (acc * rootOfTwo (i + 1)) >>> fxBits else acc)

/-- ⌊x⌋ and the first `n` binary digits of the fraction of a finite value. -/
def splitFx (neg : Bool) (m : Nat) (e : Int) (n : Nat) : Int × Nat :=
  let v := scaledInt neg m e (if e < -(n : Int) then e else -(n : Int))
  let w : Int := if e < -(n : Int) then v / (2 ^ (-(n : Int) - e).toNat : Nat) else v
  (w / (2 ^ n : Nat), (w % (2 ^ n : Nat)).toNat)

/-- FP32 bits as an ordered integer: equal steps are steps of one ulp. -/
def ordOf (v : Nat) : Int := if v.testBit 31 then -((v % 2 ^ 31 : Nat) : Int) else (v : Int)

/-- FP32 bits of an ordered integer. -/
def ofOrd (i : Int) : Nat := if i < 0 then 2 ^ 31 + (-i).toNat else i.toNat

/-- One ulp at a magnitude: the spacing of FP32 in its binade. -/
def ulpOf (x : Num) : Num :=
  match x with
  | .fin _ m e => if m = 0 then .fin false 1 (-149) else .fin false 1 (max (floorLog2 m e - 23) (-149))
  | y => y

/-- The largest FP32 value not above a magnitude, as an ordered integer: 2^128 and beyond stand at infinity's place. -/
def floorOrd (x : Num) : Int := if x.lt (.fin false 1 128) then ordOf (encodeFlt fp32 .rtz 0 x.magn) else 0x7F800000

/-- The smallest FP32 value not below an exact value. -/
def ceilOrd (x : Num) : Int :=
  if x.lt (.fin false 0 0) then -(ordOf (encodeFlt fp32 .rtz 0 x.magn))
  else if (ofF32 (encodeFlt fp32 .rtz 0 x)).lt x then floorOrd x + 1 else floorOrd x

/-- A range of FP32 results: those within `ulps` ulps of an exact value of one sign that lies between two enclosures, whichever it is: an
ulp is the smaller enclosure's (R537). A negative value mirrors the range of its magnitude. -/
def rangeOf (lo hi : Num) (ulps : Nat) : Int × Int :=
  let near := if lo.magn.lt hi.magn then lo.magn else hi.magn
  let far := if lo.magn.lt hi.magn then hi.magn else lo.magn
  let d := Num.mul (ofInt ulps) (ulpOf near)
  let low := ceilOrd (far.add d.negate)
  let top := floorOrd (near.add d)
  if lo.lt (.fin false 0 0) then (-top, -low) else (low, top)

/-- The digits of log2 of a mantissa in [1, 2), by repeated squaring in fixed point. -/
def log2Digits : Nat → Nat → Nat → Nat
  | 0, _, acc => acc
  | n + 1, y, acc =>
    let z := (y * y) >>> fxBits
    if z ≥ 2 <<< fxBits then log2Digits n (z >>> 1) (2 * acc + 1) else log2Digits n z (2 * acc)

/-- log2(e) in fixed point of 96 bits, to enclose tanh. -/
def log2e : Nat := 0x171547652B82FE1777D0FFDA0

/-- The enclosing range of an op's result for a finite input that has no exact and no special result. -/
def transRange (op : Nat) (s : Bool) (m : Nat) (e : Int) : Int × Int :=
  match op with
  | 0x40 =>
    let (i, f) := splitFx s m e 96
    if i ≥ 128 then (0x7F800000, 0x7F800000)
    else
      let v := exp2Frac f 96 0 (1 <<< fxBits)
      rangeOf (.fin false (v - 2 ^ 100) (i - fxBits)) (.fin false (v + 2 ^ 100) (i - fxBits)) 2
  | 0x41 =>
    let l := Nat.log2 m
    let d := log2Digits 140 (if l ≤ fxBits then m <<< (fxBits - l) else m >>> (l - fxBits)) 0
    let w : Int := (((l : Int) + e) * (2 ^ 140 : Nat)) + d
    rangeOf (.fin (decide (w - 2 ^ 40 < 0)) (w - 2 ^ 40).natAbs (-140)) (.fin (decide (w + 2 ^ 40 < 0)) (w + 2 ^ 40).natAbs (-140)) 2
  | 0x42 =>
    let q := (2 ^ 400 : Nat) / m
    rangeOf (.fin s q (-400 - e)) (.fin s (q + 1) (-400 - e)) 1
  | 0x43 =>
    let m' := if e % 2 = 0 then m else 2 * m
    let e' := if e % 2 = 0 then e else e - 1
    let q := isqrt ((2 ^ 600 : Nat) / m')
    rangeOf (.fin false q (-300 - e' / 2)) (.fin false (q + 1) (-300 - e' / 2)) 1
  | _ =>
    if floorLog2 m e < -13 then rangeOf (.fin s (m * (2 ^ 26 - 1)) (e - 26)) (.fin s m e) 2
    else
      let (i, f) := splitFx false (m * log2e * 2) (e - 96) 96
      if i ≥ 64 then rangeOf (.fin s (2 ^ 60 - 1) (-60)) (.fin s 1 0) 2
      else
        let v := exp2Frac f 96 0 (1 <<< fxBits)
        let w := v <<< i.toNat
        let one := 1 <<< fxBits
        let t := ((w - one) <<< 160) / (w + one)
        rangeOf (.fin s (t - 2 ^ 100) (-160)) (.fin s (t + 2 ^ 100) (-160)) 2

/-- Whether `m · 2^e` is a power of two, and which. -/
def powTwo (m : Nat) (e : Int) : Option Int := if m = 2 ^ Nat.log2 m then some ((Nat.log2 m : Int) + e) else none

/-- A transcendental op's FP32 result for an input (R125, R537): the special values, the exact results where FP32 can hold
them, and else one fixed result within the bound, which the spec leaves to the part (log entry 11). -/
def transFn (op fmt : Nat) (x : Num) : Num :=
  let pick (r : Int × Int) : Num :=
    ofF32 (ofOrd (r.1 + (Config.transPick op (toF32 x) fmt % ((r.2 - r.1).toNat + 1) : Nat)))
  match op, x with
  | _, .nan => .nan
  | 0x40, .inf s => if s then .fin false 0 0 else .inf false
  | 0x40, .fin s m e =>
    if m = 0 then .fin false 1 0
    else
      let (i, f) := splitFx s m e 149
      if f = 0 ∧ -149 ≤ i ∧ i ≤ 127 then .fin false 1 i
      else let r := transRange 0x40 s m e; pick (if r.1 < 0 then (0, r.2) else r)
  | 0x41, .inf s => if s then .nan else .inf false
  | 0x41, .fin s m e =>
    if m = 0 then .inf true
    else if s then .nan
    else match powTwo m e with
      | some k => ofInt k
      | none => pick (transRange 0x41 s m e)
  | 0x42, .inf s => .fin s 0 0
  | 0x42, .fin s m e =>
    if m = 0 then .inf s
    else match powTwo m e with
      | some k => rnd32 (.fin s 1 (-k))
      | none => pick (transRange 0x42 s m e)
  | 0x43, .inf s => if s then .nan else .fin false 0 0
  | 0x43, .fin s m e =>
    if m = 0 then .inf s
    else if s then .nan
    else match powTwo m e with
      | some k => if k % 2 = 0 then .fin false 1 (-(k / 2)) else pick (transRange 0x43 s m e)
      | none => pick (transRange 0x43 s m e)
  | _, .inf s => .fin s 1 0
  | _, .fin s m e => if m = 0 then .fin s 0 0 else pick (transRange 0x44 s m e)

/-- VGNORM's exact value of two grain words (R131): n/65536 · √3 with n = Σ hk + 2 − 2·65536, held with a sticky last bit. -/
def gnorm (a b : BitVec 32) : Num :=
  let sum := bits a 15 0 + bits a 31 16 + bits b 15 0 + bits b 31 16
  let n : Int := (sum : Int) + 2 - 131072
  if n = 0 then .fin false 0 0
  else .fin (decide (n < 0)) (2 * isqrt (3 * n.natAbs * n.natAbs * 2 ^ 400) + 1) (-16 - 201)

end Sys2Proof.Machine
end

