-- ==== Sys2Proof/Machine/State.lean ====
section
/-! DEFINITION. The state of the part: everything the spec gives the block, the queue of waiting commands, and the state right
after reset. Plain data throughout. -/

namespace Sys2Proof.Machine

/-- Why a command stops the machine with a fault. No command of the table does: what the spec calls a fault is an effect
(an error record, a teardown, a stopped ring, fog). -/
inductive Fault where
  /-- raised by nothing; kept because the interface asks for a closed type of faults (safe) -/
  | unreachable
  deriving DecidableEq, Repr

/-- Why a command is refused. -/
inductive Refusal where
  /-- a command whose meaning is not written yet, by its mnemonic (safe: the run stops) -/
  | notModelled (mnemonic : String)
  deriving DecidableEq, Repr

/-- What a command's effect answers: a state, a fault or a refusal. -/
abbrev Out (σ : Type) := Host.Outcome σ Fault Refusal

/- Cores (02, 03, 05, 06). -/

/-- How far an op that has left its queue is (R47, R57). -/
inductive OpPhase where
  /-- waiting in its queue, or at its head held back -/
  | queued
  /-- its effects are all made; OP_COMPLETE may report it -/
  | done
  /-- remote transactions still out (R147) -/
  | remote (left : Nat)
  /-- an offloaded call that its unit has not finished (R57) -/
  | called (uid : Nat)
  /-- a fixer call waiting in the offload port for a place, with its number in the order of arrival (R217) -/
  | waiting (n : Nat)
  deriving DecidableEq, Repr

/-- An op dispatched to an engine (R37 to R43). -/
structure OpSlot where
  word   : BitVec 128
  idx    : Nat
  iters  : List Nat
  waitEn : Bool
  sigEn  : Bool
  phase  : OpPhase
  /-- bytes of a copy moved or sent so far, in enumeration order (R158) -/
  mark   : Nat
  /-- it stands in its engine, started: it waits for what it has asked for, or has more to move -/
  held   : Bool
  deriving DecidableEq, Repr

/-- One engine of a core program (R36): its queue of at most 16 ops, the ops that have left it and are not completed,
and the counts dispatched and completed (R50). -/
structure Engine where
  queue : List OpSlot
  run   : List OpSlot
  sent  : Nat
  fin   : Nat
  deriving DecidableEq, Repr

/-- An open loop (R42): the op index of its LOOP, its count and its iteration index. -/
structure LoopFrame where
  at_   : Nat
  count : Nat
  i     : Nat
  deriving DecidableEq, Repr

/-- A SIGNAL or RSIGNAL pending (R50, R51): tally, count, the target of an RSIGNAL, and per engine of AFTER the count of
ops that must have completed. -/
structure PendSig where
  tally  : Nat
  count  : Nat
  target : Option Nat
  need   : List Nat
  idx    : Nat
  deriving DecidableEq, Repr

/-- A core program placed on a core or half-core (R36 to R60). -/
structure Prog where
  step     : Nat
  sci      : Nat
  ctx      : Nat
  ops      : List (BitVec 128)
  pats     : List (BitVec 256)
  strides  : List (BitVec 128)
  pc       : Nat
  loops    : List LoopFrame
  arr      : Engine
  vec      : Engine
  cp0      : Engine
  cp1      : Engine
  off      : Engine
  pend     : List PendSig
  tallies  : Tbl Nat
  masks    : List (BitVec 64)
  bars     : Nat
  atBar    : Bool
  arrived  : Bool
  released : Bool
  ended    : Bool
  stopped  : Bool
  deriving DecidableEq, Repr

/-- One of an array's two tiles (R71, R74): empty, or a format and an image. -/
structure Tile where
  fmt : Option Nat
  img : List Byte
  deriving DecidableEq, Repr

/-- Kind and sticky flags of an accumulator row in one half (R79 to R81): kind 0 zero, 1 float, 2 integer. -/
structure RowTag where
  kind : Nat
  sat  : Bool
  nf   : Bool
  deriving DecidableEq, Repr

/-- ARR_DRAIN_FLAGS of one half (R82). -/
structure DrainTag where
  sat    : Bool
  nf     : Bool
  satRow : Nat
  nfRow  : Nat
  deriving DecidableEq, Repr

/-- Core power states (R454). -/
inductive CorePwr where
  | running | gated | off | waking (zero : Bool)
  deriving DecidableEq, Repr

/-- One core (R17, R94, R348, R351). The lower half stands for a whole core. -/
structure Core where
  split     : Bool
  lo        : Option Prog
  hi        : Option Prog
  pwr       : CorePwr
  sp        : Tbl Byte
  acc       : Tbl (BitVec 32)
  rows      : Tbl RowTag
  tiles     : Tbl Tile
  selLo     : Bool
  selHi     : Bool
  drainLo   : DrainTag
  drainHi   : DrainTag
  /-- which half each shared engine served last: vector, copy 0, copy 1 (R38) -/
  turnVec   : Bool
  turnCp0   : Bool
  turnCp1   : Bool
  ctxLo     : Nat
  ctxHi     : Nat
  scrubLo   : Bool
  scrubHi   : Bool
  withdrawn : Bool
  wdPend    : Bool
  retLatch  : Bool
  seeded    : Bool
  topupsOff : Bool
  /-- number of the seeding that last reached this core alone, and its lanes' generator states as their last top-up left them (R130) -/
  seedNo    : Option Nat
  grain     : Tbl (BitVec 128)
  deriving DecidableEq, Repr

/- Rings, descriptors and completions (12). -/

/-- A descriptor as read (R317): its index and its 64 bytes as a number. -/
structure Desc where
  idx   : Nat
  word  : BitVec 512
  /-- moment its doorbell reached the ring unit, in the order of arrivals (R319) -/
  stamp : Nat
  deriving DecidableEq, Repr

/-- What a finished descriptor reports (R324 to R326). -/
structure Report where
  status  : Nat
  cflags  : Nat
  loss    : BitVec 32
  detail0 : Nat
  detail1 : Nat
  /-- no record may be written: one of its own host writes was abandoned (R410) -/
  norec   : Bool
  deriving DecidableEq, Repr

/-- A descriptor running on its ring (R318): what it waits for, or what it reports. -/
structure Running where
  desc   : Desc
  /-- fetched and not started yet -/
  begun  : Bool
  /-- the unit call, step or command it waits for (0 none) -/
  uid    : Nat
  /-- bytes done of a COPY or SEAL; of a STEP that waits, its number in the order of hand-over (R345) -/
  pos    : Nat
  /-- mismatches and first mismatch of a verify -/
  bad    : Nat
  badAt  : Nat
  report : Option Report
  /-- the two patterns of a COPY with PAT set, as read -/
  pats   : List (BitVec 256)
  /-- completion steps of R327 done: 0 none, 1 read-backs asked for -/
  phase  : Nat
  /-- engines that wrote host memory for it and are not read back yet, each with the last host line it wrote (R328, R400) -/
  wrote  : Tbl Nat
  deriving DecidableEq, Repr

/-- A ring context (R301) and what the ring unit keeps of it. -/
structure Ring where
  v        : Bool
  dhost    : Bool
  chost    : Bool
  shost    : Bool
  watch    : Bool
  whost    : Bool
  rdb      : Bool
  prio     : Nat
  err      : Bool
  logsize  : Nat
  msix     : Nat
  ctx      : Nat
  dbase    : Nat
  cbase    : Nat
  head     : Nat
  tail     : Nat
  done     : Nat
  errcode  : Nat
  defwdog  : Nat
  wline    : Nat
  sigaddr  : Nat
  sigword  : BitVec 64
  deriving DecidableEq, Repr

/-- The ring unit's own state of a ring (R311, R313 to R319). -/
structure RingUnit where
  onchip   : Bool
  pend     : Bool
  /-- moment of last service, for R315 -/
  served   : Nat
  /-- hint ticks remaining (R313), none without a hint -/
  hint     : Option Nat
  /-- descriptors read ahead of the running one, at most 4 (R316) -/
  ready    : List Desc
  running  : Option Running
  /-- arrivals: index up to which descriptors are ready, and the moment (R319) -/
  marks    : List (Nat × Nat)
  /-- the watched line is held shared (R311) -/
  held     : Bool
  /-- the line is to be read: its held copy was invalidated, or it is not held yet -/
  reread   : Bool
  /-- it is the first read since the ring was written or reset, which takes no doorbell -/
  fresh    : Bool
  deriving DecidableEq, Repr

/- Contexts, steps and the model (13). -/

/-- Context states of R344. -/
inductive CtxSt where
  | free | openS | teardown | gone | ending
  deriving DecidableEq, Repr

/-- A context slot (R343, R344, R364). -/
structure Ctx where
  st        : CtxSt
  profile   : Nat
  pt4       : Nat
  fault     : Nat
  waitTime  : BitVec 64
  preempts  : Nat
  /-- rings whose END_CONTEXT waits for this slot -/
  endPend   : List Nat
  openLatch : Option Nat
  /-- ring that ran the faulting step, and the code of its running descriptors (R332, R347) -/
  tdRing    : Option Nat
  tdCode    : Nat
  /-- op index and step core index of the fault, for DETAIL0 (R326) -/
  tdWhere   : Nat
  /-- A0's counter when the fault's code reached the scheduler (R488) -/
  faultAt   : Option (BitVec 48)
  deriving DecidableEq, Repr

/-- Where a step stands (R350 to R356). -/
inductive StepSt where
  | waiting | placed | released | saving | saved | restored
  deriving DecidableEq, Repr

/-- A core program's saved state (R359) with where its slot is. -/
structure Saved where
  sci   : Nat
  core  : Nat
  upper : Bool
  ended : Bool
  prog  : Option Prog
  sp    : Tbl Byte
  acc   : Tbl (BitVec 32)
  rows  : Tbl RowTag
  tiles : Tbl Tile
  sel   : Bool
  drain : DrainTag
  deriving DecidableEq, Repr

/-- A step (R340, R350, R352, R360). -/
structure StepRec where
  uid     : Nat
  ctx     : Nat
  stepno  : Nat
  cls     : Nat
  /-- ring and descriptor index, or the slot of a contact-sheet command -/
  ring    : Option Nat
  didx    : Nat
  csw     : Option Nat
  nprog   : Nat
  split   : Bool
  aff     : Option Nat
  scratch : Nat
  loss    : Nat
  wdog    : Nat
  used    : Nat
  st      : StepSt
  /-- moment it first became waiting, ticks waited since it joined, moment it was placed -/
  first   : Nat
  waited  : Nat
  placedAt : Nat
  /-- ticks since a program dispatched or an op completed (R361) -/
  quiet   : Nat
  /-- logical core and half of each program, in step core index order (empty while not placed) -/
  slots   : List (Nat × Bool)
  set     : Option Nat
  saved   : List Saved
  /-- programs ended so far, the tallies each left (R59), and their SAT and NF indications -/
  endedN  : Nat
  ended   : Tbl (Tbl Nat)
  sat     : Bool
  nf      : Bool
  /-- the step holds an UPDATE op; pass two completed here (R325) -/
  upd     : Bool
  applied : Bool
  nonfin  : Bool
  /-- started under this membership and voided (R294) -/
  voided  : Bool
  deriving DecidableEq, Repr

/-- The resident model (R337 to R342): where its image lies in context 0 and its header's counts. -/
structure Model where
  cva    : Nat
  len    : Nat
  nsteps : Nat
  nprof  : Nat
  nfix   : Nat
  stepOff : Nat
  fixOff  : Nat
  /-- steps that hold an UPDATE op (R217, R229) -/
  upds    : List Nat
  /-- NINST and RINGS of each profile (R339) -/
  profs   : List (Nat × Nat)
  /-- what each step asks of placement: NPROG, SPLIT, and die of its affinity (R340, R351) -/
  needs   : List (Nat × Bool × Option Nat)
  deriving DecidableEq, Repr

/- Coherence and the host (14, 15). -/

/-- What a directory entry records (R372). -/
inductive DirSt where
  | i
  | s (v : List Agent)
  | x (o : Agent)
  | o (o : Agent) (v : List Agent)
  deriving DecidableEq, Repr

/-- A directory entry: state, and moment of last use (R373). -/
structure DirEnt where
  st   : DirSt
  used : Nat
  deriving DecidableEq, Repr

/-- States of a line in a caching agent (R368). -/
inductive LineSt where
  | m | o | e | s
  deriving DecidableEq, Repr

/-- A cached line: state and bytes. -/
structure CLine where
  st   : LineSt
  data : List Byte
  deriving DecidableEq, Repr

/-- Requests a home serves (R374). -/
inductive HKind where
  /-- `host`: what a host MemRd asks for -/
  | rds (host : Want) | rdx | upg | rdcur
  | wrinv (off : Nat) (data : List Byte) (poison : Bool)
  /-- atomic at the home: offset in the line, compare-swap or add, operands -/
  | ath (off : Nat) (cas : Bool) (a b : BitVec 64)
  deriving DecidableEq, Repr

/-- Who made a non-caching request, for its Done (R366): an engine's retry, a UIO peer, the host, or a server core's write
that found no line. -/
inductive Asker where
  | agent (a : Agent)
  | engine
  | uio (rid req : Nat)
  | hostWr
  | ring (n : Nat)
  deriving DecidableEq, Repr

/-- A request on its way to a home, or waiting there. -/
structure HReq where
  who  : Asker
  line : Nat
  kind : HKind
  deriving DecidableEq, Repr

/-- A request in service at a home (R375, R377, R378). -/
structure Active where
  req    : HReq
  /-- agents whose snoop response is awaited -/
  wait   : List Agent
  /-- agent whose announced WB is awaited -/
  wbFrom : Option Agent
  /-- dirty data received, and whether it is poisoned -/
  data   : Option (List Byte)
  bad    : Bool
  /-- granted, and the Ack awaited -/
  granted : Bool
  /-- it waits for a directory entry that a recall is to free (R373) -/
  entry  : Bool
  /-- this is a recall of R373, with no requester -/
  recalling : Bool
  deriving DecidableEq, Repr

/-- A line at its home: waiting requests, oldest first, and the one in service. -/
structure HomeLine where
  queue  : List HReq
  active : Option Active
  deriving DecidableEq, Repr

/-- Snoops of R374. -/
inductive Snp where
  | s | x | cur
  deriving DecidableEq, Repr

/-- Snoop responses of R374. -/
inductive Rsp where
  | miss | s | o | i | wbif
  deriving DecidableEq, Repr

/-- Messages between homes and caching agents on their way (R374). -/
inductive CohMsg where
  | req (r : HReq)
  | ack (a : Agent) (line : Nat)
  | wb (a : Agent) (line : Nat) (data : List Byte)
  | snp (a : Agent) (line : Nat) (k : Snp)
  | rsp (a : Agent) (line : Nat) (k : Rsp) (data : Option (List Byte))
  | grant (a : Agent) (line : Nat) (st : LineSt) (data : Option (List Byte))
  | done (who : Asker) (line : Nat) (val : BitVec 64)
  deriving DecidableEq, Repr

/-- A line of the host-line cache (R369, R371). -/
structure HlcLine where
  st     : LineSt
  data   : List Byte
  pinned : Bool
  /-- moment of last use, and of pinning -/
  used   : Nat
  deriving DecidableEq, Repr

/-- CXL.cache requests outstanding (R370, R399). -/
inductive HostReq where
  | rdShared | rdOwn | rdCurr
  /-- a write awaiting GO -/
  | write
  | evict
  deriving DecidableEq, Repr

/-- An outstanding request by host line, with whom it serves. -/
structure HostOut where
  hline : Nat
  kind  : HostReq
  who   : Nat
  ctx   : Nat
  /-- the ring and descriptor index whose running work made it (R410) -/
  own   : Option (Nat × Nat)
  deriving DecidableEq, Repr

/-- Link states of the CXL port (R392, R407, R462). -/
inductive CxlLink where
  | down | l0 | recovery | l2
  deriving DecidableEq, Repr

/-- What the package sends outward (log entry 10). -/
inductive Msg where
  /-- MSI-X vector (R517) -/
  | msix (vec : Nat)
  /-- CXL.cache request or CXL.mem message by name, with its address and data -/
  | cxl (kind : Nat) (addr : Nat) (data : List Byte)
  /-- UIO or register read completion, poisoned or unsupported -/
  | cpl (req : Nat) (data : List Byte) (st : Nat)
  /-- DOE or SPDM response: mailbox, kind, content -/
  | doe (mailbox kind : Nat) (data : List Byte)
  /-- JTAG data out -/
  | tdo (data : List Byte)
  /-- I3C read data -/
  | i3c (data : List Byte)
  /-- an IDLE, DATA or NAK flit sent on a port: its 256 bytes (R242) -/
  | flit (port : Nat) (bytes : List Byte)
  /-- a CTRL flit: port, kind (0 the exchange of ALIGN, 1 WIDTH1, 2 WIDEN), ACK, CR, and what the exchange of ALIGN tells of this end
  (R246, R249, R266, R461) -/
  | ctrl (port kind ack : Nat) (cr : List Byte) (self : Option PeerInfo)
  deriving DecidableEq, Repr

/-- A UIO read that the port holds until the earlier writes of its requester are visible (R404): requester, PPA, bytes and the number of
its completion. -/
structure UioRead where
  rid : Nat
  ppa : Nat
  len : Nat
  req : Nat
  deriving DecidableEq, Repr

/-- What R391 leaves out of the CXL port. -/
inductive NoCap where
  /-- multi-logical-device operation, dynamic capacity, port-based routing, 68 B flits, latency-optimised flits -/
  | mld | dynamicCapacity | pbr | flit68 | flitLatency
  /-- skid-mode IDE, selective IDE streams, PRI, and memory requests of the device's own -/
  | skidIde | selectiveIde | pri | busMaster
  deriving DecidableEq, Repr

/-- Fields of configuration space that the spec names (R390 to R396, R401, R517). -/
inductive CfgField where
  | bar (n : Nat)
  | barSize (n : Nat)
  | cacheEnable | memEnable | atsEnable | memActive | viralStatus
  | msixEnable | msixFunctionMask | msixTableSize
  /-- where the Register Locator DVSEC puts the component and the device registers in BAR0 -/
  | componentRegs | deviceRegs
  /-- the enable bit of something the port does not support -/
  | enableOf (c : NoCap)
  deriving DecidableEq, Repr

/-- The CXL port (15). -/
structure Cxl where
  link      : CxlLink
  width     : Nat
  rate      : Nat
  mode      : Bool
  cacheEn   : Bool
  /-- CXL.mem enabled by the host -/
  memEn     : Bool
  biEn      : Bool
  base      : BitVec 52
  committed : Bool
  errNC     : Bool
  lockD     : Bool
  ide       : Bool
  ideKeys   : Nat
  ideProg   : Bool
  viralTx   : Bool
  viralRx   : Bool
  atsEn     : Bool
  /-- translation cache of R401: untranslated page, translated page, read and write permission -/
  atc       : List (Nat × Nat × Bool × Bool)
  atsWait   : List Nat
  /-- invalidations of a translation that requests in flight still use: untranslated page, and the pages sent (R401) -/
  invs      : List (Nat × List Nat)
  /-- messages held while the link is out of L0 (R407) -/
  held      : List Msg
  /-- UIO reads not answered yet, oldest first (R404) -/
  reads     : List UioRead
  /-- BAR0, BAR2 and BAR4 as the host has set them in configuration space (R393) -/
  bars      : List (BitVec 64)
  /-- the port lost its link and is not back in service (R409) -/
  lost      : Bool
  /-- it has trained since the reset that reached it (R462) -/
  trained   : Bool
  deriving DecidableEq, Repr

/- The state of each part of the package. -/

/-- What a server core's last access gave it (R176, R367, R380, R409): the bytes read, or an error. -/
inductive CoreGot where
  | data (bs : List Byte)
  /-- an access to a reserved range -/
  | accessFault
  /-- a poisoned line, or host memory that cannot be reached -/
  | memoryError
  deriving DecidableEq, Repr

/-- Homes, caches and messages of the coherent domain (14), and the host-line cache. -/
structure Coh where
  dir    : Tbl DirEnt
  homes  : Tbl HomeLine
  msgs   : List CohMsg
  s0     : Tbl CLine
  s1     : Tbl CLine
  /-- copies of the S-dies that are poisoned, held or on their way to the home (R176, R419) -/
  tainted : List (Agent × Nat)
  hlc    : Tbl HlcLine
  hout   : List HostOut
  /-- data the host returned for a RdCurr, not yet taken by its engine: who asked, host line, bytes and poison -/
  hbuf   : List (Nat × Nat × List Byte × Bool)
  /-- counts uses, for the recency of R371 and R373 -/
  clock  : Nat
  /-- server-core timer compares, by 48·die + core (R367) -/
  timers : Tbl (BitVec 48)
  /-- server cores waiting for an interrupt, and with a timer interrupt raised -/
  wfi    : List Nat
  irq    : List Nat
  /-- server cores halted by fog (R384) -/
  halted : Bool
  /-- host lines returned that no way is free for yet: line, state, data and who asked (R369, R371) -/
  fills  : List (Nat × LineSt × List Byte × Nat)
  /-- corrected errors of S0's and S1's own structures, as their machine-check registers count them (R387) -/
  corrected : List Nat
  /-- what each server core's last access gave it, by 48·die + core -/
  got    : Tbl CoreGot
  /-- each core's cacheable stores not yet made, oldest first (R380): address and bytes -/
  stores : Tbl (List (Nat × List Byte))
  /-- each core's reservation: its line, counted from 1, of device memory or, from 2^40 on, of the host (R380) -/
  rsv    : Tbl Nat
  deriving DecidableEq, Repr

/-- The ring unit (12). -/
structure Rings where
  ctx      : Tbl Ring
  unit_    : Tbl RingUnit
  /-- arrivals of doorbells and wakes, and services, counted (R315, R319) -/
  arrivals : Nat
  services : Nat
  /-- ring last served in each class (R316) -/
  last     : List Nat
  /-- WRITEs that enable a ring whose group is in reset, latched until the reset is complete (R362, R441) -/
  latched  : Tbl (BitVec 512)
  deriving DecidableEq, Repr

/-- The scheduler and its contexts (13). -/
structure Sched where
  model   : Option Model
  ctxs    : Tbl Ctx
  steps   : List StepRec
  stamp   : Nat
  /-- PT4 of context 0 (log entry 9) -/
  pt4Zero : Nat
  deriving DecidableEq, Repr

/-- A cached translation (R174): context, 2 MiB page of CVA, and what the walk gave: page base, host, writable. -/
structure TlbEnt where
  ctx  : Nat
  vp   : Nat
  base : Nat
  host : Bool
  wr   : Bool
  deriving DecidableEq, Repr

/-- An error record waiting to be written (R489, R490). -/
structure ErrRec where
  code   : Nat
  reach  : Nat
  second : Bool
  addrv  : Bool
  half   : Bool
  ctx    : Nat
  die    : Nat
  unit_  : Nat
  index  : Nat
  stepno : Nat
  addr   : Nat
  detail : BitVec 64
  deriving DecidableEq, Repr

/-- A remote signal on its way (R19, R51): the step, the target's index, tally and count, and the op that sent it. -/
structure RemSig where
  step   : Nat
  target : Nat
  tally  : Nat
  count  : Nat
  idx    : Nat
  deriving DecidableEq, Repr

/-- The error queue's own state (R490, R491). -/
structure Errs where
  held     : List ErrRec
  tail     : Nat
  pending  : Bool
  overflow : Nat
  /-- counters that wrote a notice, by 64 times the register's offset plus the counter's low bit, with the ticks until they may write the next (R494) -/
  noticed  : List (Nat × Nat)
  /-- a record written to host memory awaits its GO (R490, R400): the host line -/
  hostWait : Option Nat
  deriving DecidableEq, Repr

/-- MSI-X as PCIe holds it (R517). -/
structure Msix where
  enabled : Bool
  fmask   : Bool
  /-- vectors whose mask bit is 0: the rules of PCIe reset every mask bit to 1 -/
  open_   : List Nat
  pba     : List Nat
  /-- address and data words of the table: entry 2v holds vector v's address, entry 2v + 1 its data -/
  words   : Tbl (BitVec 64)
  deriving DecidableEq, Repr

/- Loupes (08). -/

/-- Who called a loupe, the fixers or a collective: an op of a core program, or a descriptor of a ring. -/
inductive Caller where
  | op (p : ProgRef) (step sci idx : Nat)
  | desc (ring : Nat)
  deriving DecidableEq, Repr

/-- A call queued at a loupe (R186): its call block's CVA and the operation the caller named. -/
structure LoupeCall where
  uid    : Nat
  caller : Caller
  ctx    : Nat
  cva    : Nat
  op     : Option Nat
  deriving DecidableEq, Repr

/-- The records of one package of a SCATTER_ADD (R195): their bytes, whether CURSOR and LIMIT are asked for, what they answered, and
whether the records are on their way. -/
structure LoupeGroup where
  pkg   : Nat
  lz    : Nat
  bytes : List Byte
  asked : Bool
  cur   : Option Nat
  lim   : Option Nat
  sent  : Bool
  deriving DecidableEq, Repr

/-- A running loupe call (R188 to R199). -/
structure LoupeRun where
  call    : LoupeCall
  block   : BitVec 512
  /-- row ids by position, bag offsets and weights, as read -/
  ids     : List Nat
  offs    : List Nat
  wts     : List Nat
  /-- distinct row ids with the positions that named them (R189) -/
  rows    : List (Nat × List Nat)
  /-- row bytes fetched, by package · 2^41 + PPA -/
  data    : Tbl Byte
  /-- summed gradients by row id: FP32 bits and count of records (R189, R197) -/
  sums    : List (Nat × List Nat × Nat)
  /-- remote transactions out, by tag, and reads still to be issued: package, PPA, bytes (R191) -/
  tags    : List Nat
  todo    : List (Nat × Nat × Nat)
  groups  : List LoupeGroup
  /-- record writes still to be issued: package, position among the group's bytes, PPA, bytes (R191, R195) -/
  puts    : List (Nat × Nat × Nat × Nat)
  /-- CURSOR read by a ROWUPDATE -/
  cursor  : Nat
  /-- the fixers' part of a ROWUPDATE: 0 none, 1 to be queued, 2 queued or running, 3 done (R197 step 5) -/
  fixPart : Nat
  /-- its number among the fixer calls that wait for a place, 0 before it has come to them (R217) -/
  fixAt   : Nat
  /-- 0 rows to be delivered or deposited, 1 CURSOR to be swapped, 2 the report to be written -/
  stage   : Nat
  nrec    : Nat
  bursts  : Nat
  remTx   : Nat
  remBytes : Nat
  ticks   : Nat
  deriving DecidableEq, Repr

/-- One loupe: calls queued, at most 16, and the one running. -/
structure Loupe where
  queue : List LoupeCall
  run   : Option LoupeRun
  deriving DecidableEq, Repr

/-- A registered table (R181): its 64 B entry and its copied partition map. -/
structure TableReg where
  entry : BitVec 512
  map   : List (BitVec 256)
  deriving DecidableEq, Repr

/- Fixers (09). -/

/-- A fixer call queued (R217): UPDATE, RUN, or a ROWUPDATE's rows from a loupe (R231). -/
structure FixCall where
  uid    : Nat
  caller : Caller
  ctx    : Nat
  cva    : Nat
  update : Bool
  /-- loupe whose rows these are -/
  rowsOf : Option Nat
  deriving DecidableEq, Repr

/-- Phases of FIX_QUEUE (R237). -/
inductive FixPhase where
  | passOne | decide | passTwo | runRows | skipped
  deriving DecidableEq, Repr

/-- The running fixer call (R218 to R225, R234). -/
structure FixRun where
  call   : FixCall
  phase  : FixPhase
  block  : BitVec 512
  segs   : List (BitVec 1024)
  /-- learning rate and step number taken at the start of pass one (R223) -/
  s0     : BitVec 32
  s2     : BitVec 32
  /-- this package's S and C, and those decided on -/
  sum    : BitVec 32
  count  : BitVec 64
  clip   : BitVec 32
  elems1 : Nat
  elems2 : Nat
  chunks : Nat
  /-- chunks of the running pass that are done -/
  next   : Nat
  ticks  : Nat
  deriving DecidableEq, Repr

/-- The fixers and the schedule engine. -/
structure Fixers where
  queue   : List FixCall
  run     : Option FixRun
  chunks  : Tbl Nat
  /-- schedule entries (R226) -/
  entries : Tbl (BitVec 512)
  /-- commits waiting for their step to end, with WRCNT (R228) -/
  commits : List (Nat × BitVec 512 × Bool)
  /-- contexts whose step's UPDATE has decided to skip (R232) -/
  skipped : List Nat
  /-- number of the seeding that last reached a fixer alone, and its lanes' generator states as a top-up left them, by 64·fixer + lane
  (R212) -/
  seeds   : Tbl Nat
  grain   : Tbl (BitVec 128)
  deriving DecidableEq, Repr

/- Ports (10). -/

/-- Port states of R266. -/
inductive PortSt where
  | off | train | align | up | retrain | drain | down
  deriving DecidableEq, Repr

/-- A transaction (R252 to R256): header fields and data bytes. -/
structure Txn where
  ttype : Nat
  dst   : Nat
  src   : Nat
  inc   : Nat
  tag   : Nat
  cls   : Nat
  rsv   : Nat
  hi    : BitVec 64
  data  : List Byte
  deriving DecidableEq, Repr

/-- A DATA flit in the replay buffer (R246): SEQ and payload. -/
structure TxFlit where
  seq     : Nat
  first   : Nat
  payload : List Byte
  deriving DecidableEq, Repr

/-- One chip-to-chip port (10, 11). -/
structure Port where
  st        : PortSt
  en        : Bool
  enLatch   : Bool
  width     : Nat
  group     : Nat
  good      : BitVec 16
  rtt       : BitVec 12
  peer      : Option (Nat × Nat)
  seqNext   : Nat
  seqExp    : Nat
  lastGood  : Nat
  replay    : List TxFlit
  /-- ACK of the last good flit received -/
  acked     : Nat
  replays   : Nat
  nakHeld   : Bool
  /-- credits held at the far end, and slots freed here, per VC and class -/
  credits   : List Nat
  freed     : List Nat
  /-- slots freed that the flits sent have told of (R244) -/
  told      : List Nat
  peerFreed : List Nat
  /-- transactions waiting to be sent, oldest first, with the port each one arrived on -/
  txq       : List (Option Nat × Txn)
  /-- transactions received and not yet served, oldest first, and the partial slots of one still arriving -/
  rxq       : List Txn
  partial_  : List Byte
  /-- heartbeat state: 0 IDLE, 1 LIVE, 2 QUIET, 3 LOST, 4 DARK (R288) -/
  hb        : Nat
  misses    : Nat
  silence   : Option Nat
  hbseq     : Nat
  heard     : Bool
  liveSince : Bool
  /-- ticks until the next incarnation notice may be sent (R295) -/
  noteHold  : Nat
  /-- a peer was recorded at ALIGN since the port last left OFF (R541) -/
  peerNew   : Bool
  deriving DecidableEq, Repr

/-- Why a remote request is out (R258). -/
inductive Purpose where
  /-- a copy op's read: its program, channel and op, the byte position reached, the bytes of the reply to skip and to take -/
  | rread (p : ProgRef) (ch : Bool) (idx : Nat) (pos skip want : Nat)
  | rwrite (p : ProgRef) (ch : Bool) (idx : Nat)
  | loupeRead (n : Nat) (row : Nat)
  | loupeWrite (n : Nat)
  | loupeCursor (n : Nat) (pkg : Nat)
  | dbell (ring : Nat)
  | void
  deriving DecidableEq, Repr

/-- A remote request outstanding (R258): tag, destination, address, length, purpose and the context it is for. -/
structure RemReq where
  tag   : Nat
  dst   : Nat
  ppa   : Nat
  len   : Nat
  coded : Bool
  why   : Purpose
  ctx   : Nat
  deriving DecidableEq, Repr

/- Stackers and the pod (11). -/

/-- A collective called on this package (R270 to R286). -/
structure Coll where
  uid     : Nat
  caller  : Caller
  ctx     : Nat
  grp     : Nat
  /-- 0 ALLREDUCE, 1 REDUCE_TO_ROOT, 2 BROADCAST -/
  op      : Nat
  cva     : Nat
  block   : BitVec 512
  /-- payload given by the fixers in place of memory: S and C (R219, R282) -/
  fix     : Option (BitVec 32 × BitVec 64)
  started : Bool
  cseq    : Nat
  nseg    : Nat
  /-- segments opened so far on each of the eight stackers (R275) -/
  opened  : List Nat
  /-- segments whose result is written here, one bit each, and upward segments sent -/
  got     : Nat
  sentN   : Nat
  bytesOut : Nat
  bytesIn : Nat
  ticks   : Nat
  deriving DecidableEq, Repr

/-- A reduction frame (R278): group, sequence, segment, children whose contribution is missing, the sum so far (empty for none), the
member's own contribution until it is added, after how many of the children's, and the count. -/
structure Frame where
  grp   : Nat
  cseq  : Nat
  seg   : Nat
  tree  : Nat
  need  : List Nat
  acc   : List Nat
  own   : List Nat
  ownAt : Nat
  seen  : Nat
  cnt   : BitVec 64
  deriving DecidableEq, Repr

/-- Pod membership (11). -/
structure Pod where
  ownInc  : Nat
  stale   : Bool
  incs    : Tbl Nat
  lost    : Tbl Bool
  groups  : Tbl (BitVec 512)
  cseqs   : Tbl Nat
  colls   : List Coll
  frames  : List Frame
  /-- upward segments waiting in the COLL buffers: port and transaction (R278) -/
  waiting : List (Option Nat × Txn)
  /-- results kept for collectives not yet complete -/
  routes  : Tbl (BitVec 128)
  /-- usable sets of the routing entries, as written (R262) -/
  usable  : Tbl Nat
  reqs    : List RemReq
  loopq   : List Txn
  /-- remote tags that may not be used again yet, with the ticks left (R258) -/
  stuck   : List (Nat × Nat)
  /-- new steps are stopped for a change of membership (R296) -/
  holdSteps : Bool
  deriving DecidableEq, Repr

/- Reset, flash and fuses (17), security (19), power (18), contact sheet (21), set-up (22). -/

/-- Where the part's bring-up stands (R439, R440). -/
inductive Phase where
  /-- PWR_OK low: nothing runs -/
  | off
  /-- a reset sequence of this level, at this step -/
  | seq (level step : Nat)
  | ready
  /-- bring-up stopped with this code (R435) -/
  | stopped (code : Nat)
  deriving DecidableEq, Repr

/-- A reset source's fuses (R436): factory value, lock, and the program's value with its set bit. -/
structure Fuses where
  grade736 : Bool
  serial   : BitVec 64
  /-- enabled core positions of each A-die: 13 strips of 8 (R4, R22) -/
  strips   : List (List (BitVec 8))
  fval     : List Nat
  flock    : BitVec 16
  bval     : List Nat
  bset     : BitVec 16
  keyHash  : List (List Byte)
  revoked  : BitVec 4
  svnMc    : Nat
  svnS     : Nat
  /-- rows hard-repaired by R430, by bank and row, and those whose verify failed with the spare consumed -/
  hard     : List (Nat × Nat × Bool)
  deriving DecidableEq, Repr

/-- A firmware slot (R468): the image that verifies there, if any. -/
structure FwSlot where
  ok      : Bool
  version : BitVec 64
  svn     : Nat
  digest  : List Byte
  keySlot : Nat
  deriving DecidableEq, Repr

/-- A negative slot (R442, R443): its image, and whether its digest fits it. -/
structure NegSlot where
  img   : List Byte
  deriving DecidableEq, Repr

/-- Flash (17, 19). -/
structure Flash where
  slotA   : Option NegSlot
  slotB   : Option NegSlot
  lastLoaded  : Bool
  lastWritten : Bool
  /-- the two halves of the counter log, records of 32 bytes, oldest first, and the half in use: true for the second (R442, R448) -/
  logA    : List (List Byte)
  logB    : List (List Byte)
  logHalf : Bool
  /-- the key store (R467) -/
  current : Option (List Byte)
  previous : Option (List Byte)
  mcA : FwSlot
  mcB : FwSlot
  sA  : FwSlot
  sB  : FwSlot
  mcBooted : Bool
  sBooted  : Bool
  deriving DecidableEq, Repr

/-- The bring-up and reset logic. -/
structure Rst where
  phase    : Phase
  lastLvl  : Nat
  lastSrc  : Nat
  restarts : Nat
  fallback : Bool
  slot     : Bool
  hold     : Bool
  warmCnt  : Bool
  perstCnt : Bool
  /-- a die or block reset running: kind and index (R441) -/
  block    : Option (Nat × Nat)
  refused  : Bool
  /-- a reset that waits for the host's answer to earlier writes, by level and source (R335, R411) -/
  next     : Option (Nat × Nat)
  memActive : Bool
  /-- options in force that no register holds (R445) -/
  strict   : Bool
  opten    : Bool
  adminRing : Option (List Byte)
  generation : BitVec 64
  seen     : BitVec 16
  count    : Nat
  locks    : BitVec 6
  func     : BitVec 64
  dieMark  : List Nat
  /-- cores to be reset once their context's teardown is complete (R435) -/
  after    : List (Nat × List Nat)
  /-- values of the reach table in force since the last level-0 reset (R436) -/
  reach    : List Nat
  soft     : List (Nat × Nat)
  dietest  : List Nat
  /-- corrected errors of each die-to-die wire since its training, and the wires marked (R422), by `wireKey` -/
  wires    : Tbl Nat
  marked   : List Nat
  deriving DecidableEq, Repr

/-- Pin levels (R449, R522), true for high. What GPIO0 to GPIO7 drive follows from the rest of the state: `gpioOut`. -/
structure Pins where
  pwrOk     : Bool
  warmRst   : Bool
  perst     : Bool
  throttleN : Bool
  alertN    : Bool
  thermTrip : Bool
  i3cAddr   : Nat
  i3cPtr    : BitVec 24
  deriving DecidableEq, Repr

/-- Security state (19). -/
structure Sec where
  scope     : BitVec 3
  vendor    : Bool
  tap       : Nat
  challenge : Option (List Byte)
  rotations : Nat
  loads     : Nat
  mlog      : List (List Byte)
  spdm      : Nat
  secured   : Bool
  /-- the AUTH in progress (R334): its ring, whether it is past step 4, and the copied payload -/
  auth      : Option (Nat × Bool × List Byte)
  deriving DecidableEq, Repr

/-- Package power states (R456): 0 Lit, 1 Standby, 2 Safelight, 3 Dark. -/
structure Pwr where
  st       : Nat
  entering : Option Nat
  waking   : Bool
  wakeAt   : Option Nat
  darkSent : Bool
  /-- core clocks of A0 to A7 in MHz, and how high R463 lets each be -/
  clocks   : List Nat
  ceil     : List Nat
  /-- dies whose clock steps down by temperature now, and whether the cap throttles -/
  byTemp   : List Bool
  byCap    : Bool
  watts    : Nat
  /-- last reading of each die, A0 to A7, S0, S1 -/
  temps    : List Nat
  picked   : Nat
  horizon  : Nat
  unhinted : Bool
  deriving DecidableEq, Repr

/-- The contact-sheet window (21): 64 slots of 16 words, the command in progress, and AUTHEN. -/
structure Csw where
  words  : Tbl (BitVec 32)
  busy   : Option Nat
  /-- words 1 to 9 as the command in progress took them (R500) -/
  cmd    : List (BitVec 32)
  authen : Bool
  deriving DecidableEq, Repr

/-- The part. -/
structure State where
  /-- commands waiting, first in, first out -/
  pending : List Instr
  /-- free values used so far (log entry 1) -/
  free    : Nat
  /-- identities given to steps, calls and tags so far (log entry 10) -/
  uid     : Nat
  /-- what the package has sent, oldest first (log entry 10) -/
  out     : List Msg
  /-- stored register values by BAR0 offset; an unlisted register holds its reset value -/
  regs    : Tbl (BitVec 64)
  cores   : Tbl Core
  /-- number of the last seeding of every core's grain generators, which a reset that reaches them does (R130) -/
  seeding : Nat
  signals : List RemSig
  mem     : Tbl Byte
  poison  : Tbl Bool
  /-- lines of each stack that the running patrol scrub has visited, as 2^26·channel + line (R178, R180) -/
  scrub   : Tbl (List Nat)
  tlb     : List TlbEnt
  coh     : Coh
  cxl     : Cxl
  rings   : Rings
  sched   : Sched
  loupes  : Tbl Loupe
  tables  : Tbl TableReg
  fixers  : Fixers
  ports   : Tbl Port
  pod     : Pod
  errs    : Errs
  msix    : Msix
  /-- AON tick counters of A0 to A7, S0, S1 (R33) -/
  aon     : List (BitVec 48)
  /-- ticks until the counter of each die starts after the reset that cleared it (R10, R33) -/
  aonWait : List Nat
  fuses   : Fuses
  flash   : Flash
  rst     : Rst
  pins    : Pins
  sec     : Sec
  pwr     : Pwr
  csw     : Csw
  deriving DecidableEq, Repr

/- Reset values (log entries 4 to 11). -/

def OpSlot.none : OpSlot := ⟨0, 0, [], false, false, .queued, 0, false⟩
def Engine.empty : Engine := ⟨[], [], 0, 0⟩
def Tile.empty : Tile := ⟨Option.none, []⟩
def RowTag.clear : RowTag := ⟨0, false, false⟩
def DrainTag.clear : DrainTag := ⟨false, false, 0, 0⟩

/-- A core after a reset that reaches it: whole, free, powered, its grain seeded, its scratchpad and accumulators zero (log entry 2). -/
def Core.fresh : Core where
  split := false
  lo := none
  hi := none
  pwr := .running
  sp := []
  acc := []
  rows := []
  tiles := []
  selLo := false
  selHi := false
  drainLo := .clear
  drainHi := .clear
  turnVec := false
  turnCp0 := false
  turnCp1 := false
  ctxLo := 0
  ctxHi := 0
  scrubLo := false
  scrubHi := false
  withdrawn := false
  wdPend := false
  retLatch := false
  seeded := true
  topupsOff := false
  seedNo := none
  grain := []

def Ring.none : Ring := ⟨false, false, false, false, false, false, false, 0, false, 0, 0, 0, 0, 0, 0, 0, 0, 0, 0, 0, 0, 0⟩

def RingUnit.none : RingUnit := ⟨false, false, 0, Option.none, [], Option.none, [], false, false, false⟩

def Ctx.free : Ctx := ⟨.free, 0, 0, 0, 0, 0, [], none, none, 0, 0, none⟩

def HomeLine.idle : HomeLine := ⟨[], none⟩
def Loupe.idle : Loupe := ⟨[], none⟩

/-- A port in OFF (R433, R266). -/
def Port.off : Port where
  st := .off
  en := false
  enLatch := false
  width := 0
  group := 0
  good := 0
  rtt := 0
  peer := none
  seqNext := 0
  seqExp := 0
  lastGood := 0xFFF
  replay := []
  acked := 0xFFF
  replays := 0
  nakHeld := false
  credits := []
  freed := []
  told := []
  peerFreed := []
  txq := []
  rxq := []
  partial_ := []
  hb := 0
  misses := 0
  silence := none
  hbseq := 0
  heard := false
  liveSince := false
  noteHold := 0
  peerNew := false

def Coh.reset : Coh := ⟨[], [], [], [], [], [], [], [], [], 0, [], [], [], false, [], [0, 0], [], [], []⟩

def Cxl.reset : Cxl :=
  ⟨.down, 0, 0, false, false, false, false, 0, false, false, false, false, 0, false, false, false, false, [], [], [], [], [], [0, 0, 0], false, false⟩

def Rings.reset : Rings := ⟨[], [], 0, 0, [0, 0, 0, 0], []⟩
def Sched.reset : Sched := ⟨none, [], [], 0, 0⟩
def Fixers.reset : Fixers := ⟨[], none, [], [], [], [], [], []⟩
def Pod.reset : Pod := ⟨0, false, [], [], [], [], [], [], [], [], [], [], [], [], false⟩
def Errs.reset : Errs := ⟨[], 0, false, 0, [], none⟩
def Msix.reset : Msix := ⟨false, false, [], [], []⟩

/-- A negative slot, firmware slot and fuse record as the model takes them (log entry 6). -/
def FwSlot.good : FwSlot := ⟨true, 1, 0, List.replicate 32 0, 0⟩
def FwSlot.blank : FwSlot := ⟨false, 0, 0, List.replicate 32 0, 0⟩

def Flash.reset : Flash :=
  ⟨none, none, false, true, [], [], false, none, none, .good, .blank, .good, .blank, false, false⟩

def Fuses.reset : Fuses where
  grade736 := false
  serial := 1
  strips := List.replicate 8 (List.replicate 12 0xFF ++ [0x0F])
  fval := [0, 1, 1, 2, 1, 1, 0, 2, 1, 7, 1, 1, 2, 7, 1, 7]
  flock := 0x4961
  bval := List.replicate 16 0
  bset := 0
  keyHash := List.replicate 4 (List.replicate 32 0)
  revoked := 0
  svnMc := 0
  svnS := 0
  hard := []

/-- Reset logic at a level-0 bring-up's first step (log entry 7). -/
def Rst.reset : Rst where
  phase := .seq 0 1
  lastLvl := 0
  lastSrc := 0
  restarts := 0
  fallback := false
  slot := false
  hold := false
  warmCnt := false
  perstCnt := false
  block := none
  refused := false
  next := none
  memActive := false
  strict := false
  opten := false
  adminRing := none
  generation := 0
  seen := 0
  count := 0
  locks := 0
  func := 0
  dieMark := []
  wires := []
  marked := []
  after := []
  reach := Fuses.reset.fval
  soft := []
  dietest := []

def Pins.reset : Pins := ⟨true, true, true, true, true, true, 0, 0⟩
def Sec.reset : Sec := ⟨0, false, 0, none, 0, 0, [], 0, false, none⟩
def Pwr.reset : Pwr := ⟨0, none, false, none, false, List.replicate 8 1800, List.replicate 8 1800, List.replicate 8 false, false, 0, [], 0, 0, false⟩
def Csw.reset : Csw := ⟨[], none, [], false⟩

/-- The part right after reset: PWR_OK high, a level-0 bring-up just begun (log entry 7). -/
def State.reset : State where
  pending := []
  free := 0
  uid := 0
  out := []
  regs := []
  cores := []
  seeding := 0
  signals := []
  mem := []
  poison := []
  scrub := []
  tlb := []
  coh := .reset
  cxl := .reset
  rings := .reset
  sched := .reset
  loupes := []
  tables := []
  fixers := .reset
  ports := []
  pod := .reset
  errs := .reset
  msix := .reset
  aon := List.replicate 10 0
  aonWait := List.range 10
  fuses := .reset
  flash := .reset
  rst := .reset
  pins := .reset
  sec := .reset
  pwr := .reset
  csw := .reset

end Sys2Proof.Machine
end

