-- ==== Sys2Proof/Machine/RegMap.lean ====
section
/-! DEFINITION. The registers of BAR0 (R513) as data: where each lies, which bits each access code governs (R11, R13), which lock
its RWL bits belong to (R514) and its stated reset value (R12). -/

namespace Sys2Proof.Machine

/-- One kind of register: the page of its first copy, the distance to the next copy, how many there are, its offset in the page,
the masks of its RW, RW1C, WO and RWL fields and of its named RO fields, its lock (0 for none) and its reset value. -/
structure RegDef where
  page   : Nat
  stride : Nat
  count  : Nat
  off    : Nat
  rw     : Nat
  w1c    : Nat
  wo     : Nat
  rwl    : Nat
  ro     : Nat
  lock   : Nat
  reset  : Nat
  deriving DecidableEq, Repr

/-- The page at 0x0 (R515). -/
def regs0 : List RegDef := [
  ⟨0x0, 0x0, 1, 0x0, 0x0, 0x0, 0x0, 0x0, 0xFFFFFFFFFFFF, 0, 0x100000000000⟩,
  ⟨0x0, 0x0, 1, 0x8, 0x0, 0x0, 0x0, 0x0, 0xFFFFFFFFFFFFFFFF, 0, 0x0⟩,
  ⟨0x0, 0x0, 1, 0x10, 0x0, 0x0, 0x0, 0x0, 0x7FFF, 0, 0x0⟩,
  ⟨0x0, 0x0, 1, 0x18, 0x0, 0x0, 0x0, 0x0, 0x3F, 0, 0x0⟩,
  ⟨0x0, 0x0, 1, 0x20, 0xFFFF00000000, 0x1, 0x0, 0x0, 0x7FFFFFFE, 0, 0x0⟩,
  ⟨0x0, 0x0, 1, 0x28, 0xFFFFFFFFFFFFFFFF, 0x0, 0x0, 0x0, 0x0, 0, 0x0⟩,
  ⟨0x0, 0x0, 1, 0x30, 0x0, 0x1F, 0x0, 0x0, 0x0, 0, 0x0⟩,
  ⟨0x0, 0x0, 1, 0x38, 0x1FFFF, 0x0, 0x0, 0x0, 0x0, 0, 0x0⟩]

/-- The page at 0x1000 (R495). -/
def regs1 : List RegDef := [
  ⟨0x1000, 0x0, 1, 0x0, 0xFFFFFFFFFFFFF03F, 0x0, 0x0, 0x0, 0x0, 0, 0x0⟩,
  ⟨0x1000, 0x0, 1, 0x8, 0x3FFFF, 0x0, 0x0, 0x0, 0x40000, 0, 0x0⟩,
  ⟨0x1000, 0x0, 1, 0x10, 0x0, 0x0, 0x0, 0x0, 0xFFFFFFFF, 0, 0x0⟩,
  ⟨0x1000, 0x0, 1, 0x18, 0xFFFFFFFF, 0x0, 0x0, 0x0, 0x0, 0, 0x0⟩,
  ⟨0x1000, 0x0, 1, 0x20, 0x0, 0x0, 0x0, 0x0, 0xFFFFFFFF, 0, 0x0⟩,
  ⟨0x1000, 0x0, 1, 0x28, 0x3F00, 0xF4, 0x0, 0x0, 0xFFFF000B, 0, 0x0⟩]

/-- The page at 0x2000 (R451). -/
def regs2 : List RegDef := [
  ⟨0x2000, 0x0, 1, 0x0, 0x0, 0x0, 0x0, 0x0, 0x7FFFFFFFF, 0, 0x0⟩,
  ⟨0x2000, 0x0, 1, 0x8, 0x0, 0xFFFF, 0x0, 0x0, 0xFFFFFFFF0000, 0, 0x0⟩,
  ⟨0x2000, 0x0, 1, 0x10, 0x0, 0x0, 0x0, 0x0, 0xFFFFFFFFFFFFFFFF, 0, 0x0⟩,
  ⟨0x2000, 0x0, 1, 0x18, 0x0, 0x0, 0x0, 0x0, 0xFFFF, 0, 0x0⟩,
  ⟨0x2000, 0x0, 1, 0x20, 0x3FFF, 0x0, 0x4000, 0x0, 0x18000, 0, 0x0⟩,
  ⟨0x2000, 0x0, 1, 0x28, 0x0, 0x0, 0x0, 0x0, 0xFFFFFFFFFFFFFFFF, 0, 0x0⟩,
  ⟨0x2000, 0x0, 1, 0x30, 0x0, 0x0, 0x0, 0x0, 0xFFFFFFFFFFFFFFFF, 0, 0x0⟩]

/-- The page at 0x3000 (R466). -/
def regs3 : List RegDef := [
  ⟨0x3000, 0x0, 1, 0x0, 0x0, 0x0, 0x0, 0x3FFFFF, 0x0, 5, 0x0⟩,
  ⟨0x3000, 0x0, 1, 0x8, 0x0, 0x0, 0x0, 0x0, 0xFFFFFFFFF003F, 0, 0x7080000000⟩,
  ⟨0x3000, 0x0, 1, 0x10, 0x0, 0x0, 0x0, 0x0, 0x7FFFFFFFFFFFF, 0, 0x0⟩,
  ⟨0x3000, 0x0, 1, 0x18, 0xFFFFFFFFFFFFFFFF, 0x0, 0x0, 0x0, 0x0, 0, 0x0⟩]

/-- The page at 0x4000 (R483). -/
def regs4 : List RegDef := [
  ⟨0x4000, 0x0, 1, 0x0, 0x0, 0x0, 0x0, 0x0, 0xFFFFFFFF000001FF, 0, 0x0⟩,
  ⟨0x4000, 0x0, 1, 0x8, 0x0, 0x0, 0x0, 0x0, 0xFFFF, 0, 0x0⟩,
  ⟨0x4000, 0x0, 1, 0x10, 0x0, 0x0, 0x0, 0x0, 0xFFFFFFFFFFFFFFFF, 0, 0x0⟩,
  ⟨0x4000, 0x0, 1, 0x18, 0x0, 0x0, 0x0, 0x0, 0xFFFFFFFFFFFFFFFF, 0, 0x0⟩,
  ⟨0x4000, 0x0, 1, 0x20, 0x0, 0x1, 0x0, 0x0, 0xFFFFFE, 0, 0x0⟩]

/-- The page at 0x5000 (R336). -/
def regs5 : List RegDef := [
  ⟨0x5000, 0x0, 1, 0x0, 0x0, 0x0, 0x0, 0x0, 0x1FFFFFFFFFFFFF, 0, 0x10000800100000⟩,
  ⟨0x5000, 0x0, 1, 0x8, 0xFFFFF, 0x0, 0x700000, 0x0, 0x3800000, 0, 0x0⟩,
  ⟨0x5000, 0x0, 1, 0x10, 0xFFFFFFFFFFFFFFFF, 0x0, 0x0, 0x0, 0x0, 0, 0x0⟩,
  ⟨0x5000, 0x0, 1, 0x18, 0xFFFFFFFFFFFFFFFF, 0x0, 0x0, 0x0, 0x0, 0, 0x0⟩,
  ⟨0x5000, 0x0, 1, 0x20, 0xFFFFFFFFFFFFFFFF, 0x0, 0x0, 0x0, 0x0, 0, 0x0⟩,
  ⟨0x5000, 0x0, 1, 0x28, 0xFFFFFFFFFFFFFFFF, 0x0, 0x0, 0x0, 0x0, 0, 0x0⟩,
  ⟨0x5000, 0x0, 1, 0x30, 0xFFFFFFFFFFFFFFFF, 0x0, 0x0, 0x0, 0x0, 0, 0x0⟩,
  ⟨0x5000, 0x0, 1, 0x38, 0xFFFFFFFFFFFFFFFF, 0x0, 0x0, 0x0, 0x0, 0, 0x0⟩,
  ⟨0x5000, 0x0, 1, 0x40, 0xFFFFFFFFFFFFFFFF, 0x0, 0x0, 0x0, 0x0, 0, 0x0⟩,
  ⟨0x5000, 0x0, 1, 0x48, 0xFFFFFFFFFFFFFFFF, 0x0, 0x0, 0x0, 0x0, 0, 0x0⟩,
  ⟨0x5000, 0x0, 1, 0x50, 0xFFFFFFFFFFFF, 0x0, 0x0, 0x0, 0x0, 0, 0x0⟩,
  ⟨0x5000, 0x0, 1, 0x58, 0x0, 0x1, 0x0, 0x0, 0x1FFFFFFFFFFFFFFE, 0, 0x0⟩,
  ⟨0x5000, 0x0, 1, 0x60, 0x0, 0x0, 0x0, 0x0, 0xFFFFFFFFFFFFFFFF, 0, 0x0⟩]

/-- The page at 0x6000 (R365). -/
def regs6 : List RegDef := [
  ⟨0x6000, 0x0, 1, 0x0, 0x0, 0x0, 0x0, 0x0, 0x3FFFFFFFFFFF, 0, 0x0⟩,
  ⟨0x6000, 0x0, 1, 0x8, 0x0, 0x0, 0x0, 0xFFFFFFFFFFFFFFFF, 0x0, 6, 0x0⟩,
  ⟨0x6000, 0x0, 1, 0x10, 0x3FF, 0x0, 0xC00, 0x0, 0xFFFFFFF000, 0, 0x0⟩,
  ⟨0x6000, 0x0, 1, 0x18, 0x0, 0x0, 0x0, 0x0, 0xFFFFFFFFFFFFFFFF, 0, 0x0⟩,
  ⟨0x6000, 0x0, 1, 0x20, 0x0, 0x1, 0x0, 0x0, 0x7FFFFFFFFFE, 0, 0x0⟩,
  ⟨0x6000, 0x0, 1, 0x28, 0xFFF, 0x0, 0x3000, 0x0, 0x7C000, 0, 0x0⟩,
  ⟨0x6000, 0x0, 1, 0x30, 0xFFFFFFFFFF0F0, 0x0, 0x0, 0x0, 0x7, 0, 0x0⟩,
  ⟨0x6000, 0x0, 1, 0x38, 0x0, 0x0, 0x0, 0x0, 0x7FFFFFFFFFF, 0, 0x0⟩,
  ⟨0x6000, 0x0, 1, 0x40, 0x0, 0x0, 0x0, 0x0, 0xFFFFFFFFFFFFFFFF, 0, 0x0⟩,
  ⟨0x6000, 0x0, 1, 0x48, 0x0, 0x0, 0x0, 0x0, 0xFFFFFFFF, 0, 0x0⟩]

/-- The page at 0x7000 (R179). -/
def regs7 : List RegDef := [
  ⟨0x7000, 0x0, 1, 0x0, 0x0, 0x0, 0x0, 0x3FF, 0x1FFFFFF0000, 1, 0x0⟩,
  ⟨0x7000, 0x0, 1, 0x8, 0x0, 0x1, 0x0, 0x0, 0xFFFFFFFFFFFFFFFE, 0, 0x0⟩]

/-- The page at 0x8000 (R237). -/
def regs8 : List RegDef := [
  ⟨0x8000, 0x0, 1, 0x0, 0x0, 0x0, 0x0, 0x0, 0x3FFFF, 0, 0x20840⟩,
  ⟨0x8000, 0x0, 1, 0x8, 0x0, 0x0, 0x0, 0x0, 0xFFFFF, 0, 0x0⟩,
  ⟨0x8000, 0x0, 1, 0x10, 0x4FFF, 0x0, 0x3000, 0x0, 0x8000, 0, 0x0⟩,
  ⟨0x8000, 0x0, 1, 0x18, 0xFFFFFFFFFFFFFFFF, 0x0, 0x0, 0x0, 0x0, 0, 0x0⟩,
  ⟨0x8000, 0x0, 1, 0x20, 0xFFFFFFFFFFFFFFFF, 0x0, 0x0, 0x0, 0x0, 0, 0x0⟩,
  ⟨0x8000, 0x0, 1, 0x28, 0xFFFFFFFFFFFFFFFF, 0x0, 0x0, 0x0, 0x0, 0, 0x0⟩,
  ⟨0x8000, 0x0, 1, 0x30, 0xFFFFFFFFFFFFFFFF, 0x0, 0x0, 0x0, 0x0, 0, 0x0⟩,
  ⟨0x8000, 0x0, 1, 0x38, 0xFFFFFFFFFFFFFFFF, 0x0, 0x0, 0x0, 0x0, 0, 0x0⟩,
  ⟨0x8000, 0x0, 1, 0x40, 0xFFFFFFFFFFFFFFFF, 0x0, 0x0, 0x0, 0x0, 0, 0x0⟩,
  ⟨0x8000, 0x0, 1, 0x48, 0xFFFFFFFFFFFFFFFF, 0x0, 0x0, 0x0, 0x0, 0, 0x0⟩,
  ⟨0x8000, 0x0, 1, 0x50, 0xFFFFFFFFFFFFFFFF, 0x0, 0x0, 0x0, 0x0, 0, 0x0⟩]

/-- The page at 0x9000 (R269). -/
def regs9 : List RegDef := [
  ⟨0x9000, 0x0, 1, 0x0, 0x0, 0x0, 0x0, 0xFFFFFFFF1FFF, 0x0, 2, 0x0⟩,
  ⟨0x9000, 0x0, 1, 0x8, 0x0, 0x0, 0x0, 0xFFFFF, 0x0, 2, 0x0⟩,
  ⟨0x9000, 0x0, 1, 0x10, 0xFFF, 0x0, 0x3000, 0x0, 0x4000, 0, 0x0⟩,
  ⟨0x9000, 0x0, 1, 0x18, 0xFFFFFFFFFFFFFFFF, 0x0, 0x0, 0x0, 0x0, 0, 0x0⟩,
  ⟨0x9000, 0x0, 1, 0x20, 0xFFFFFFFFFFFFFFFF, 0x0, 0x0, 0x0, 0x0, 0, 0x0⟩]

/-- The page at 0xA000 (R300). -/
def regs10 : List RegDef := [
  ⟨0xA000, 0x0, 1, 0x0, 0x0, 0x0, 0x0, 0x1FE0000, 0x201FFFF, 6, 0x0⟩,
  ⟨0xA000, 0x0, 1, 0x8, 0x0, 0x1, 0x0, 0x0, 0x7FFFFFFFFFE, 0, 0x0⟩,
  ⟨0xA000, 0x0, 1, 0x10, 0xFF, 0x0, 0x300, 0x0, 0x7FFC00, 0, 0x0⟩,
  ⟨0xA000, 0x0, 1, 0x18, 0xFFFFFFFFFFFFFFFF, 0x0, 0x0, 0x0, 0x0, 0, 0x0⟩,
  ⟨0xA000, 0x0, 1, 0x20, 0xFFFFFFFFFFFFFFFF, 0x0, 0x0, 0x0, 0x0, 0, 0x0⟩,
  ⟨0xA000, 0x0, 1, 0x28, 0xFFFFFFFFFFFFFFFF, 0x0, 0x0, 0x0, 0x0, 0, 0x0⟩,
  ⟨0xA000, 0x0, 1, 0x30, 0xFFFFFFFFFFFFFFFF, 0x0, 0x0, 0x0, 0x0, 0, 0x0⟩,
  ⟨0xA000, 0x0, 1, 0x38, 0xFFFFFFFFFFFFFFFF, 0x0, 0x0, 0x0, 0x0, 0, 0x0⟩,
  ⟨0xA000, 0x0, 1, 0x40, 0xFFFFFFFFFFFFFFFF, 0x0, 0x0, 0x0, 0x0, 0, 0x0⟩,
  ⟨0xA000, 0x0, 1, 0x48, 0xFFFFFFFFFFFFFFFF, 0x0, 0x0, 0x0, 0x0, 0, 0x0⟩,
  ⟨0xA000, 0x0, 1, 0x50, 0xFFFFFFFFFFFFFFFF, 0x0, 0x0, 0x0, 0x0, 0, 0x0⟩,
  ⟨0xA000, 0x0, 1, 0x58, 0xFFF, 0x0, 0x0, 0x0, 0x1FFFF000, 0, 0x0⟩]

/-- The page at 0xB000 (R388). -/
def regs11 : List RegDef := [
  ⟨0xB000, 0x0, 1, 0x0, 0x0, 0x0, 0x0, 0x0, 0xFFFFFFFFFFFFF, 0, 0x8000042000010⟩,
  ⟨0xB000, 0x0, 1, 0x8, 0x0, 0x0, 0x0, 0x1FFFFFFFF, 0x0, 3, 0x0⟩,
  ⟨0xB000, 0x0, 1, 0x10, 0x0, 0x0, 0x0, 0x0, 0xFFFFFFFFFFFFFFFF, 0, 0x0⟩,
  ⟨0xB000, 0x0, 1, 0x18, 0x3FFFFFFFC0000, 0x0, 0x0, 0x0, 0xFFFC00000003FFFF, 0, 0x0⟩]

/-- The page at 0xC000 (R416). -/
def regs12 : List RegDef := [
  ⟨0xC000, 0x0, 1, 0x0, 0x0, 0x0, 0x0, 0x0, 0x3FFFF, 0, 0x0⟩,
  ⟨0xC000, 0x0, 1, 0x8, 0x0, 0x0, 0x0, 0x1FFFFFF01, 0x0, 4, 0x0⟩,
  ⟨0xC000, 0x0, 1, 0x10, 0xFFFFFFFFFFFFFFFF, 0x0, 0x0, 0x0, 0x0, 0, 0x0⟩,
  ⟨0xC000, 0x0, 1, 0x18, 0x0, 0x1, 0x0, 0x0, 0x3FFFFFFFFE, 0, 0x0⟩]

/-- The page at 0xD000 (R507). -/
def regs13 : List RegDef := [
  ⟨0xD000, 0x0, 1, 0x0, 0x0, 0x0, 0x0, 0x0, 0x7FF, 0, 0x0⟩,
  ⟨0xD000, 0x0, 1, 0x8, 0xFFFFFFFFFFFFFFFF, 0x0, 0x0, 0x0, 0x0, 0, 0x0⟩]

/-- The page at 0xE000 (R432). -/
def regs14 : List RegDef := [
  ⟨0xE000, 0x0, 1, 0x0, 0x0, 0x0, 0x0, 0x0, 0x1FFFFFFFFFFF, 0, 0x0⟩]

/-- The page at 0x10000 (R518). -/
def regs15 : List RegDef := [
  ⟨0x10000, 0x1000, 8, 0x0, 0x0, 0x0, 0x0, 0x0, 0xFFFFFF, 0, 0xD00000⟩,
  ⟨0x10000, 0x1000, 8, 0x8, 0x0, 0x0, 0x0, 0x0, 0xFFFFFFFFFFFFF, 0, 0x0⟩,
  ⟨0x10000, 0x1000, 8, 0x10, 0x0, 0x0, 0x0, 0x0, 0x7FF, 0, 0x1⟩,
  ⟨0x10000, 0x1000, 8, 0x18, 0x0, 0x0, 0x0, 0x0, 0xFFFFFFFFFFFF, 0, 0x0⟩]

/-- The page at 0x20000 (R180). -/
def regs16 : List RegDef := [
  ⟨0x20000, 0x1000, 16, 0x0, 0xFFFFFFFF, 0x0, 0x0, 0x0, 0xFFFFFFFF00000000, 0, 0x0⟩,
  ⟨0x20000, 0x1000, 16, 0x8, 0x0, 0x1, 0x0, 0x0, 0xFFFFFFFFFFFFFFFE, 0, 0x0⟩,
  ⟨0x20000, 0x1000, 16, 0x10, 0x0, 0x0, 0x0, 0xFF, 0xFFFFFFFFFFFF0100, 1, 0x0⟩]

/-- The page at 0x30000 (R432). -/
def regs17 : List RegDef := [
  ⟨0x30000, 0x1000, 16, 0x0, 0xFFFFFFFFFFF, 0x0, 0x100000000000, 0x0, 0x600000000000, 0, 0x0⟩,
  ⟨0x30000, 0x1000, 16, 0x8, 0x1F, 0x0, 0x0, 0x0, 0x7FFFFFFE0, 0, 0x0⟩]

/-- The page at 0x40000 (R389). -/
def regs18 : List RegDef := [
  ⟨0x40000, 0x1000, 16, 0x0, 0x7FFFFFFFFFE00000, 0x0, 0x0, 0x0, 0x1FFFFF, 0, 0x0⟩,
  ⟨0x40000, 0x1000, 16, 0x8, 0xFFFFFFFFFFFFFFFF, 0x0, 0x0, 0x0, 0x0, 0, 0x0⟩]

/-- The page at 0x50000 (R203). -/
def regs19 : List RegDef := [
  ⟨0x50000, 0x1000, 16, 0x0, 0x0, 0x0, 0x0, 0x0, 0x3FFFFFFFF, 0, 0x200200010⟩,
  ⟨0x50000, 0x1000, 16, 0x8, 0x0, 0x0, 0x0, 0x0, 0xFFFFFFF, 0, 0x0⟩,
  ⟨0x50000, 0x1000, 16, 0x10, 0x0, 0x1, 0x0, 0x0, 0x3FFFFFFE, 0, 0x0⟩,
  ⟨0x50000, 0x1000, 16, 0x18, 0xFFFFFFFF, 0x0, 0x0, 0x0, 0x0, 0, 0x0⟩,
  ⟨0x50000, 0x1000, 16, 0x20, 0x0, 0x1, 0x0, 0x0, 0xFFFFFFFFFFFFFFFE, 0, 0x0⟩]

/-- The page at 0x60000 (R268). -/
def regs20 : List RegDef := [
  ⟨0x60000, 0x1000, 32, 0x0, 0x1, 0x0, 0x2, 0x38, 0x4, 2, 0x0⟩,
  ⟨0x60000, 0x1000, 32, 0x8, 0x0, 0x0, 0x0, 0xFFFFFFFFFFFFFFFF, 0x0, 2, 0x0⟩,
  ⟨0x60000, 0x1000, 32, 0x10, 0x0, 0x0, 0x0, 0xFFFFFFFF, 0x0, 2, 0x0⟩,
  ⟨0x60000, 0x1000, 32, 0x18, 0x0, 0x0, 0x0, 0x0, 0xFFFFFFFFFFFFF, 0, 0x0⟩,
  ⟨0x60000, 0x1000, 32, 0x20, 0xFFFFFFFFFFFF, 0x0, 0x0, 0x0, 0x0, 0, 0x0⟩,
  ⟨0x60000, 0x1000, 32, 0x28, 0xFFFFFFFFFFFFFFFF, 0x0, 0x0, 0x0, 0x0, 0, 0x0⟩]

/-- The page at 0x80000 (R299). -/
def regs21 : List RegDef := [
  ⟨0x80000, 0x1000, 8, 0x0, 0x3FFFFFFFC00000, 0x0, 0x0, 0x0, 0x3FFFFF, 0, 0x0⟩,
  ⟨0x80000, 0x1000, 8, 0x8, 0x0, 0x1, 0x0, 0x0, 0x3FFFFFFFFFFFE, 0, 0x0⟩,
  ⟨0x80000, 0x1000, 8, 0x10, 0xFFFFFFFF, 0x0, 0x0, 0x0, 0x0, 0, 0x0⟩]

/-- The page at 0x90000 (R432). -/
def regs22 : List RegDef := [
  ⟨0x90000, 0x1000, 14, 0x0, 0x0, 0x0, 0x0, 0x0, 0xFFFFFFFFF, 0, 0x0⟩,
  ⟨0x90000, 0x1000, 14, 0x8, 0xFFFFFFFF, 0x0, 0x0, 0x0, 0x3FFFFFF00000000, 0, 0x0⟩,
  ⟨0x90000, 0x1000, 14, 0x10, 0x0, 0x1, 0x0, 0x0, 0x7FFFFFE, 0, 0x0⟩]

/-- The page at 0x100000 (R238). -/
def regs23 : List RegDef := [
  ⟨0x100000, 0x1000, 64, 0x0, 0x0, 0x0, 0x0, 0x0, 0xFFFFFFFFFFFFFFFF, 0, 0x0⟩,
  ⟨0x100000, 0x1000, 64, 0x8, 0x0, 0x1, 0x0, 0x0, 0x3FFFFFE, 0, 0x0⟩,
  ⟨0x100000, 0x1000, 64, 0x10, 0xFFFFFFFF, 0x0, 0x0, 0x0, 0x0, 0, 0x0⟩,
  ⟨0x100000, 0x1000, 64, 0x18, 0x0, 0x1, 0x0, 0x0, 0x7FFFFFFFFFE, 0, 0x0⟩]

/-- The page at 0x200000 (R94). -/
def regs24 : List RegDef := [
  ⟨0x200000, 0x4000, 800, 0x0, 0x0, 0x0, 0x0, 0x0, 0x1FFFF, 0, 0x14010⟩,
  ⟨0x200000, 0x4000, 800, 0x8, 0x0, 0x0, 0x0, 0x0, 0xFFFFFF7, 0, 0x0⟩,
  ⟨0x200000, 0x4000, 800, 0x10, 0x0, 0x0, 0x0, 0x0, 0xFFFFFFFFFF000F, 0, 0x0⟩,
  ⟨0x200000, 0x4000, 800, 0x18, 0x0, 0x1, 0x0, 0x0, 0x1FFFFFFFFE, 0, 0x0⟩,
  ⟨0x200000, 0x4000, 800, 0x20, 0xFFFFFFFF, 0x0, 0x0, 0x0, 0x0, 0, 0x0⟩,
  ⟨0x200000, 0x4000, 800, 0x28, 0xFFFFFFFF, 0x0, 0x0, 0x0, 0x7FFF00000000, 0, 0x0⟩,
  ⟨0x200000, 0x4000, 800, 0x30, 0x0, 0x1, 0x0, 0x0, 0x3FFFFFFE, 0, 0x0⟩]

/-- The page at 0x201000 (R137). -/
def regs25 : List RegDef := [
  ⟨0x201000, 0x4000, 800, 0x0, 0x0, 0x0, 0x0, 0x0, 0xFFFFFFFF, 0, 0x10003840⟩,
  ⟨0x201000, 0x4000, 800, 0x8, 0x0, 0x0, 0x0, 0x0, 0xFFFFFF7, 0, 0x0⟩,
  ⟨0x201000, 0x4000, 800, 0x10, 0x0, 0x1, 0x0, 0x0, 0xFFFFFFFFFFE, 0, 0x0⟩,
  ⟨0x201000, 0x4000, 800, 0x18, 0xFFFFFFFF, 0x0, 0x0, 0x0, 0x0, 0, 0x0⟩,
  ⟨0x201000, 0x4000, 800, 0x20, 0x0, 0x2, 0x0, 0x0, 0xFFFFFFFF00000001, 0, 0x0⟩]

/-- The page at 0x202000 (R159). -/
def regs26 : List RegDef := [
  ⟨0x202000, 0x4000, 800, 0x0, 0x0, 0x0, 0x0, 0x0, 0xFFFFFF7, 0, 0x0⟩,
  ⟨0x202000, 0x4000, 800, 0x8, 0x0, 0x1, 0x0, 0x0, 0x1FFFFFFFFFFFFFE, 0, 0x0⟩,
  ⟨0x202000, 0x4000, 800, 0x10, 0xFFFFFFFF, 0x0, 0x0, 0x0, 0x3FFFF00000000, 0, 0x0⟩,
  ⟨0x202000, 0x4000, 800, 0x18, 0x0, 0x1, 0x0, 0x0, 0x3FFFFFFFE, 0, 0x0⟩]

/-- Every register of the map. -/
def regDefs : List RegDef :=
  regs0 ++ regs1 ++ regs2 ++ regs3 ++ regs4 ++ regs5 ++ regs6 ++ regs7 ++ regs8 ++ regs9 ++ regs10 ++ regs11 ++ regs12 ++ regs13 ++ regs14 ++ regs15 ++ regs16 ++ regs17 ++ regs18 ++ regs19 ++ regs20 ++ regs21 ++ regs22 ++ regs23 ++ regs24 ++ regs25 ++ regs26

/-- Offset of ARR_INFO, copy `i`. -/
def rARR_INFO (i : Nat) : Nat := 0x200000 + 0x4000 * i
/-- Offset of ARR_STATE, copy `i`. -/
def rARR_STATE (i : Nat) : Nat := 0x200008 + 0x4000 * i
/-- Offset of ARR_DRAIN_FLAGS, copy `i`. -/
def rARR_DRAIN_FLAGS (i : Nat) : Nat := 0x200010 + 0x4000 * i
/-- Offset of ARR_CHECK_LOG, copy `i`. -/
def rARR_CHECK_LOG (i : Nat) : Nat := 0x200018 + 0x4000 * i
/-- Offset of ARR_CHECK_COUNT, copy `i`. -/
def rARR_CHECK_COUNT (i : Nat) : Nat := 0x200020 + 0x4000 * i
/-- Offset of ARR_ACC_CE, copy `i`. -/
def rARR_ACC_CE (i : Nat) : Nat := 0x200028 + 0x4000 * i
/-- Offset of ARR_ACC_UE, copy `i`. -/
def rARR_ACC_UE (i : Nat) : Nat := 0x200030 + 0x4000 * i
/-- Offset of VEC_INFO, copy `i`. -/
def rVEC_INFO (i : Nat) : Nat := 0x201000 + 0x4000 * i
/-- Offset of VEC_STATE, copy `i`. -/
def rVEC_STATE (i : Nat) : Nat := 0x201008 + 0x4000 * i
/-- Offset of VEC_CHECK_LOG, copy `i`. -/
def rVEC_CHECK_LOG (i : Nat) : Nat := 0x201010 + 0x4000 * i
/-- Offset of VEC_CHECK_COUNT, copy `i`. -/
def rVEC_CHECK_COUNT (i : Nat) : Nat := 0x201018 + 0x4000 * i
/-- Offset of VEC_GRAIN_STAT, copy `i`. -/
def rVEC_GRAIN_STAT (i : Nat) : Nat := 0x201020 + 0x4000 * i
/-- Offset of CPY_STATE, copy `i`. -/
def rCPY_STATE (i : Nat) : Nat := 0x202000 + 0x4000 * i
/-- Offset of CPY_EDGE_LOG, copy `i`. -/
def rCPY_EDGE_LOG (i : Nat) : Nat := 0x202008 + 0x4000 * i
/-- Offset of CPY_SP_CE, copy `i`. -/
def rCPY_SP_CE (i : Nat) : Nat := 0x202010 + 0x4000 * i
/-- Offset of CPY_SP_UE, copy `i`. -/
def rCPY_SP_UE (i : Nat) : Nat := 0x202018 + 0x4000 * i
/-- Offset of MEM_MAP. -/
def rMEM_MAP : Nat := 0x7000
/-- Offset of MEM_RSV_LOG. -/
def rMEM_RSV_LOG : Nat := 0x7008
/-- Offset of MEM_CE, copy `i`. -/
def rMEM_CE (i : Nat) : Nat := 0x20000 + 0x1000 * i
/-- Offset of MEM_UE_LOG, copy `i`. -/
def rMEM_UE_LOG (i : Nat) : Nat := 0x20008 + 0x1000 * i
/-- Offset of MEM_SCRUB, copy `i`. -/
def rMEM_SCRUB (i : Nat) : Nat := 0x20010 + 0x1000 * i
/-- Offset of LPE_INFO, copy `i`. -/
def rLPE_INFO (i : Nat) : Nat := 0x50000 + 0x1000 * i
/-- Offset of LPE_STATE, copy `i`. -/
def rLPE_STATE (i : Nat) : Nat := 0x50008 + 0x1000 * i
/-- Offset of LPE_CHECK_LOG, copy `i`. -/
def rLPE_CHECK_LOG (i : Nat) : Nat := 0x50010 + 0x1000 * i
/-- Offset of LPE_CHECK_COUNT, copy `i`. -/
def rLPE_CHECK_COUNT (i : Nat) : Nat := 0x50018 + 0x1000 * i
/-- Offset of LPE_ERR_LOG, copy `i`. -/
def rLPE_ERR_LOG (i : Nat) : Nat := 0x50020 + 0x1000 * i
/-- Offset of FIX_INFO. -/
def rFIX_INFO : Nat := 0x8000
/-- Offset of FIX_QUEUE. -/
def rFIX_QUEUE : Nat := 0x8008
/-- Offset of FIX_SE_CTRL. -/
def rFIX_SE_CTRL : Nat := 0x8010
/-- Offset of FIX_SE_DATA0. -/
def rFIX_SE_DATA0 : Nat := 0x8018
/-- Offset of FIX_SE_DATA1. -/
def rFIX_SE_DATA1 : Nat := 0x8020
/-- Offset of FIX_SE_DATA2. -/
def rFIX_SE_DATA2 : Nat := 0x8028
/-- Offset of FIX_SE_DATA3. -/
def rFIX_SE_DATA3 : Nat := 0x8030
/-- Offset of FIX_SE_DATA4. -/
def rFIX_SE_DATA4 : Nat := 0x8038
/-- Offset of FIX_SE_DATA5. -/
def rFIX_SE_DATA5 : Nat := 0x8040
/-- Offset of FIX_SE_DATA6. -/
def rFIX_SE_DATA6 : Nat := 0x8048
/-- Offset of FIX_SE_DATA7. -/
def rFIX_SE_DATA7 : Nat := 0x8050
/-- Offset of FIX_STATE, copy `i`. -/
def rFIX_STATE (i : Nat) : Nat := 0x100000 + 0x1000 * i
/-- Offset of FIX_CHECK_LOG, copy `i`. -/
def rFIX_CHECK_LOG (i : Nat) : Nat := 0x100008 + 0x1000 * i
/-- Offset of FIX_CHECK_COUNT, copy `i`. -/
def rFIX_CHECK_COUNT (i : Nat) : Nat := 0x100010 + 0x1000 * i
/-- Offset of FIX_ERR_LOG, copy `i`. -/
def rFIX_ERR_LOG (i : Nat) : Nat := 0x100018 + 0x1000 * i
/-- Offset of PRT_CTRL, copy `i`. -/
def rPRT_CTRL (i : Nat) : Nat := 0x60000 + 0x1000 * i
/-- Offset of PRT_LANEMAP, copy `i`. -/
def rPRT_LANEMAP (i : Nat) : Nat := 0x60008 + 0x1000 * i
/-- Offset of PRT_POLARITY, copy `i`. -/
def rPRT_POLARITY (i : Nat) : Nat := 0x60010 + 0x1000 * i
/-- Offset of PRT_STATUS, copy `i`. -/
def rPRT_STATUS (i : Nat) : Nat := 0x60018 + 0x1000 * i
/-- Offset of PRT_ERR, copy `i`. -/
def rPRT_ERR (i : Nat) : Nat := 0x60020 + 0x1000 * i
/-- Offset of PRT_RXDROP, copy `i`. -/
def rPRT_RXDROP (i : Nat) : Nat := 0x60028 + 0x1000 * i
/-- Offset of PRT_PKG. -/
def rPRT_PKG : Nat := 0x9000
/-- Offset of PRT_LINK. -/
def rPRT_LINK : Nat := 0x9008
/-- Offset of PRT_RT_CTRL. -/
def rPRT_RT_CTRL : Nat := 0x9010
/-- Offset of PRT_RT_DATA0. -/
def rPRT_RT_DATA0 : Nat := 0x9018
/-- Offset of PRT_RT_DATA1. -/
def rPRT_RT_DATA1 : Nat := 0x9020
/-- Offset of STK_STATE, copy `i`. -/
def rSTK_STATE (i : Nat) : Nat := 0x80000 + 0x1000 * i
/-- Offset of STK_CHECK_LOG, copy `i`. -/
def rSTK_CHECK_LOG (i : Nat) : Nat := 0x80008 + 0x1000 * i
/-- Offset of STK_CHECK_COUNT, copy `i`. -/
def rSTK_CHECK_COUNT (i : Nat) : Nat := 0x80010 + 0x1000 * i
/-- Offset of STK_MEMB. -/
def rSTK_MEMB : Nat := 0xA000
/-- Offset of STK_LOSS. -/
def rSTK_LOSS : Nat := 0xA008
/-- Offset of STK_GRP_CTRL. -/
def rSTK_GRP_CTRL : Nat := 0xA010
/-- Offset of STK_GRP_DATA0. -/
def rSTK_GRP_DATA0 : Nat := 0xA018
/-- Offset of STK_GRP_DATA1. -/
def rSTK_GRP_DATA1 : Nat := 0xA020
/-- Offset of STK_GRP_DATA2. -/
def rSTK_GRP_DATA2 : Nat := 0xA028
/-- Offset of STK_GRP_DATA3. -/
def rSTK_GRP_DATA3 : Nat := 0xA030
/-- Offset of STK_GRP_DATA4. -/
def rSTK_GRP_DATA4 : Nat := 0xA038
/-- Offset of STK_GRP_DATA5. -/
def rSTK_GRP_DATA5 : Nat := 0xA040
/-- Offset of STK_GRP_DATA6. -/
def rSTK_GRP_DATA6 : Nat := 0xA048
/-- Offset of STK_GRP_DATA7. -/
def rSTK_GRP_DATA7 : Nat := 0xA050
/-- Offset of STK_INC. -/
def rSTK_INC : Nat := 0xA058
/-- Offset of RING_INFO. -/
def rRING_INFO : Nat := 0x5000
/-- Offset of RING_CTRL. -/
def rRING_CTRL : Nat := 0x5008
/-- Offset of RING_DATA0. -/
def rRING_DATA0 : Nat := 0x5010
/-- Offset of RING_DATA1. -/
def rRING_DATA1 : Nat := 0x5018
/-- Offset of RING_DATA2. -/
def rRING_DATA2 : Nat := 0x5020
/-- Offset of RING_DATA3. -/
def rRING_DATA3 : Nat := 0x5028
/-- Offset of RING_DATA4. -/
def rRING_DATA4 : Nat := 0x5030
/-- Offset of RING_DATA5. -/
def rRING_DATA5 : Nat := 0x5038
/-- Offset of RING_DATA6. -/
def rRING_DATA6 : Nat := 0x5040
/-- Offset of RING_DATA7. -/
def rRING_DATA7 : Nat := 0x5048
/-- Offset of RING_DBDROP. -/
def rRING_DBDROP : Nat := 0x5050
/-- Offset of RING_ERR_LOG. -/
def rRING_ERR_LOG : Nat := 0x5058
/-- Offset of RING_AUTHCNT. -/
def rRING_AUTHCNT : Nat := 0x5060
/-- Offset of SCH_INFO. -/
def rSCH_INFO : Nat := 0x6000
/-- Offset of SCH_OPT. -/
def rSCH_OPT : Nat := 0x6008
/-- Offset of SCH_CORE. -/
def rSCH_CORE : Nat := 0x6010
/-- Offset of SCH_QUEUE. -/
def rSCH_QUEUE : Nat := 0x6018
/-- Offset of SCH_ABORT_LOG. -/
def rSCH_ABORT_LOG : Nat := 0x6020
/-- Offset of CTX_CTRL. -/
def rCTX_CTRL : Nat := 0x6028
/-- Offset of CTX_DATA0. -/
def rCTX_DATA0 : Nat := 0x6030
/-- Offset of CTX_DATA1. -/
def rCTX_DATA1 : Nat := 0x6038
/-- Offset of CTX_DATA2. -/
def rCTX_DATA2 : Nat := 0x6040
/-- Offset of CTX_DATA3. -/
def rCTX_DATA3 : Nat := 0x6048
/-- Offset of COH_INFO. -/
def rCOH_INFO : Nat := 0xB000
/-- Offset of COH_CTRL. -/
def rCOH_CTRL : Nat := 0xB008
/-- Offset of COH_FOG_LOG. -/
def rCOH_FOG_LOG : Nat := 0xB010
/-- Offset of COH_HLC_STAT. -/
def rCOH_HLC_STAT : Nat := 0xB018
/-- Offset of COH_HOME_STAT, copy `i`. -/
def rCOH_HOME_STAT (i : Nat) : Nat := 0x40000 + 0x1000 * i
/-- Offset of COH_HOME_RACE, copy `i`. -/
def rCOH_HOME_RACE (i : Nat) : Nat := 0x40008 + 0x1000 * i
/-- Offset of CXL_STATUS. -/
def rCXL_STATUS : Nat := 0xC000
/-- Offset of CXL_CTRL. -/
def rCXL_CTRL : Nat := 0xC008
/-- Offset of CXL_ERR. -/
def rCXL_ERR : Nat := 0xC010
/-- Offset of CXL_LOSS_LOG. -/
def rCXL_LOSS_LOG : Nat := 0xC018
/-- Offset of D2D_STATUS, copy `i`. -/
def rD2D_STATUS (i : Nat) : Nat := 0x90000 + 0x1000 * i
/-- Offset of D2D_CE, copy `i`. -/
def rD2D_CE (i : Nat) : Nat := 0x90008 + 0x1000 * i
/-- Offset of D2D_UE_LOG, copy `i`. -/
def rD2D_UE_LOG (i : Nat) : Nat := 0x90010 + 0x1000 * i
/-- Offset of D2D_STRAP. -/
def rD2D_STRAP : Nat := 0xE000
/-- Offset of MEM_PPR_CTRL, copy `i`. -/
def rMEM_PPR_CTRL (i : Nat) : Nat := 0x30000 + 0x1000 * i
/-- Offset of MEM_PPR_INV, copy `i`. -/
def rMEM_PPR_INV (i : Nat) : Nat := 0x30008 + 0x1000 * i
/-- Offset of RST_STATUS. -/
def rRST_STATUS : Nat := 0x2000
/-- Offset of RST_SOURCES. -/
def rRST_SOURCES : Nat := 0x2008
/-- Offset of RST_REACH. -/
def rRST_REACH : Nat := 0x2010
/-- Offset of RST_REACH_B. -/
def rRST_REACH_B : Nat := 0x2018
/-- Offset of RST_CTRL. -/
def rRST_CTRL : Nat := 0x2020
/-- Offset of RST_NEG. -/
def rRST_NEG : Nat := 0x2028
/-- Offset of RST_PINS. -/
def rRST_PINS : Nat := 0x2030
/-- Offset of PWR_CTRL. -/
def rPWR_CTRL : Nat := 0x3000
/-- Offset of PWR_STATUS. -/
def rPWR_STATUS : Nat := 0x3008
/-- Offset of PWR_HORIZON. -/
def rPWR_HORIZON : Nat := 0x3010
/-- Offset of PWR_COUNTS. -/
def rPWR_COUNTS : Nat := 0x3018
/-- Offset of SEC_STATUS. -/
def rSEC_STATUS : Nat := 0x4000
/-- Offset of SEC_FUSE. -/
def rSEC_FUSE : Nat := 0x4008
/-- Offset of SEC_FWVER_MC. -/
def rSEC_FWVER_MC : Nat := 0x4010
/-- Offset of SEC_FWVER_S. -/
def rSEC_FWVER_S : Nat := 0x4018
/-- Offset of SEC_FAIL. -/
def rSEC_FAIL : Nat := 0x4020
/-- Offset of PKG_ERRQ_BASE. -/
def rPKG_ERRQ_BASE : Nat := 0x1000
/-- Offset of PKG_ERRQ_CTRL. -/
def rPKG_ERRQ_CTRL : Nat := 0x1008
/-- Offset of PKG_ERRQ_TAIL. -/
def rPKG_ERRQ_TAIL : Nat := 0x1010
/-- Offset of PKG_ERRQ_HEAD. -/
def rPKG_ERRQ_HEAD : Nat := 0x1018
/-- Offset of PKG_ERRQ_STAT. -/
def rPKG_ERRQ_STAT : Nat := 0x1020
/-- Offset of PKG_ALERT. -/
def rPKG_ALERT : Nat := 0x1028
/-- Offset of CSW_CTRL. -/
def rCSW_CTRL : Nat := 0xD000
/-- Offset of CSW_STAT. -/
def rCSW_STAT : Nat := 0xD008
/-- Offset of PKG_IDENT. -/
def rPKG_IDENT : Nat := 0x0
/-- Offset of PKG_SERIAL. -/
def rPKG_SERIAL : Nat := 0x8
/-- Offset of PKG_STATUS. -/
def rPKG_STATUS : Nat := 0x10
/-- Offset of PKG_LOCKS. -/
def rPKG_LOCKS : Nat := 0x18
/-- Offset of PKG_ACCERR. -/
def rPKG_ACCERR : Nat := 0x20
/-- Offset of PKG_DRVTAG. -/
def rPKG_DRVTAG : Nat := 0x28
/-- Offset of PKG_EVT_CAUSE. -/
def rPKG_EVT_CAUSE : Nat := 0x30
/-- Offset of PKG_EVT_CTRL. -/
def rPKG_EVT_CTRL : Nat := 0x38
/-- Offset of PKG_DIE_INFO, copy `i`. -/
def rPKG_DIE_INFO (i : Nat) : Nat := 0x10000 + 0x1000 * i
/-- Offset of PKG_DIE_STRIPS, copy `i`. -/
def rPKG_DIE_STRIPS (i : Nat) : Nat := 0x10008 + 0x1000 * i
/-- Offset of PKG_DIE_STATE, copy `i`. -/
def rPKG_DIE_STATE (i : Nat) : Nat := 0x10010 + 0x1000 * i
/-- Offset of PKG_DIE_AON, copy `i`. -/
def rPKG_DIE_AON (i : Nat) : Nat := 0x10018 + 0x1000 * i

/-- Whether the register kind has a copy at this offset. -/
def RegDef.at_ (d : RegDef) (off : Nat) : Bool :=
  decide (d.page + d.off ≤ off) &&
    (if d.stride = 0 then decide (off = d.page + d.off)
     else decide ((off - (d.page + d.off)) % d.stride = 0) && decide ((off - (d.page + d.off)) / d.stride < d.count))

/-- The register at an offset, none where the map has none (R13, R513). -/
def regAt (off : Nat) : Option RegDef := regDefs.find? (fun d => d.at_ off)

end Sys2Proof.Machine
end

