-- ==== Sys2Proof/Machine/Flags.lean ====
section
/-! DEFINITION. Registers as stored, fault logs, saturating counters, interrupts and error records: the flags and status of the
part (R489 to R495, R508 to R517). -/

namespace Sys2Proof.Machine

/-- Reset value of the register at an offset. -/
def regReset (off : Nat) : BitVec 64 := BitVec.ofNat 64 (match regAt off with | some d => d.reset | none => 0)

/-- Stored value of a register. -/
def regVal (s : State) (off : Nat) : BitVec 64 := tget (regReset off) s.regs off

/-- Store a register value. -/
def setReg (s : State) (off : Nat) (v : BitVec 64) : State := { s with regs := tset (regReset off) s.regs off v }

/-- Field `[hi:lo]` of a stored register. -/
def regField (s : State) (off hi lo : Nat) : Nat := bits (regVal s off) hi lo

/-- Store a field of a register. -/
def setField (s : State) (off hi lo v : Nat) : State := setReg s off (setBits (regVal s off) hi lo v)

/-- Add to a counter field, which saturates. -/
def bump (s : State) (off hi lo : Nat) (n : Nat := 1) : State :=
  let m := 2 ^ (hi + 1 - lo) - 1
  setField s off hi lo (min m (regField s off hi lo + n))

/-- Add to a counter field that wraps. -/
def bumpWrap (s : State) (off hi lo : Nat) : State := setField s off hi lo (regField s off hi lo + 1)

/-- Put a captured value into a log register whose VALID bit is bit 0, unless one is already logged. -/
def logOnce (s : State) (off : Nat) (v : BitVec 64) : State :=
  if bit (regVal s off) 0 then s else setReg s off (setBits v 0 0 1)

/-- The next free word (log entry 1). -/
def freeWord (s : State) : BitVec 64 := Config.freeWord s.free

/-- `n` free words used. -/
def useFree (s : State) (n : Nat) : State := { s with free := s.free + n }

/-- A fresh identity. -/
def nextUid (s : State) : State := { s with uid := s.uid + 1 }

/-- A message that leaves by the CXL port. -/
def byCxl (m : Msg) : Bool := match m with | .msix _ | .cxl .. | .cpl .. | .doe .. => true | _ => false

/-- Traffic of the CXL port is held, to be resumed: in Recovery, and in L2 until the link wakes (R407, R462). -/
def linkHeld (s : State) : Bool := s.cxl.link == .recovery || s.cxl.link == .l2

/-- Send a message outward; the CXL port holds its own while the link is out of L0 (R407). -/
def send (s : State) (m : Msg) : State :=
  let stays := byCxl m && linkHeld s
  { s with out := if stays then s.out else s.out ++ [m], cxl := if stays then { s.cxl with held := s.cxl.held ++ [m] } else s.cxl }

/-- The link is in L0 again: what the port held goes, in its order (R407). -/
def sendWaiting (s : State) : State := { s with out := s.out ++ s.cxl.held, cxl := { s.cxl with held := [] } }

/-- Insert into a list of numbers without repeats, ascending. -/
def insNat (n : Nat) : List Nat → List Nat
  | [] => [n]
  | a :: t => if n < a then n :: a :: t else if n = a then a :: t else a :: insNat n t

/-- Send MSI-X vector `v` where the PCIe rules let it be sent; a message that a mask blocks sets its pending bit (R517). -/
def sendVec (s : State) (v : Nat) : State :=
  if s.msix.enabled then
    if s.msix.fmask || !s.msix.open_.contains v then { s with msix := { s.msix with pba := insNat v s.msix.pba } }
    else send s (.msix v)
  else s

/-- Set a cause of the event interrupt (R516): the vector goes out when an unmasked cause changes from 0 to 1. -/
def raiseEvent (s : State) (cause : Nat) : State :=
  if bit (regVal s rPKG_EVT_CAUSE) cause then s
  else
    let s := setField s rPKG_EVT_CAUSE cause cause 1
    if bit (regVal s rPKG_EVT_CTRL) 0 && !bit (regVal s rPKG_EVT_CTRL) (12 + cause)
    then sendVec s (regField s rPKG_EVT_CTRL 11 1) else s

/-- Whether the part is in fog, which COH_FOG_LOG shows (R388). -/
def inFog (s : State) : Bool := bit (regVal s rCOH_FOG_LOG) 0

/-- PKG_ALERT with its live bits: FOG, STOPPED and STALE (R495). -/
def alertVal (s : State) : BitVec 64 :=
  let v := setBits (regVal s rPKG_ALERT) 0 0 (b2n (inFog s))
  let v := setBits v 1 1 (b2n (match s.rst.phase with | .stopped _ => true | _ => false))
  setBits v 3 3 (b2n s.pod.stale)

/-- Whether option load has completed in this bring-up (R492, R449): step 8 of R439 is behind. -/
def optionsIn (s : State) : Bool :=
  match s.rst.phase with
  | .ready => true
  | .seq 2 _ => true
  | .seq _ n => decide (8 < n)
  | .stopped c => decide (c = 0x0505)
  | .off => false

/-- Whether a page of BAR0 answers now (R511): every page once READY; the global, error, reset, power, security, strap, edge and
repair pages from step 4 of R439 on, during every reset sequence and while bring-up is stopped. -/
def pageOpen (s : State) (off : Nat) : Bool :=
  let pg := off / 0x1000
  let early := decide (pg ≤ 4) || pg == 0xE || (decide (0x90 ≤ pg) && decide (pg < 0x9E)) || (decide (0x30 ≤ pg) && decide (pg < 0x40))
  match s.rst.phase with
  | .ready => true
  | .stopped _ => early
  | .seq 2 _ => early
  | .seq _ n => early && decide (4 ≤ n)
  | .off => false

/-- ALERT_N of R492: low while FOG, STOPPED or STALE is set, or another bit whose MASK bit is 0. -/
def alertLow (s : State) : Bool :=
  let v := alertVal s
  bit v 0 || bit v 1 || bit v 3 ||
    (bit v 2 && !bit v 8) || (bit v 4 && !bit v 10) || (bit v 5 && !bit v 11) || (bit v 6 && !bit v 12) || (bit v 7 && !bit v 13)

/-- Drive ALERT_N from the state; before option load completes R449 governs, and ALERT_N is left as that rule drives it. -/
def driveAlert (s : State) : State :=
  if optionsIn s then { s with pins := { s.pins with alertN := !alertLow s } } else s

/-- What GPIO `n` drives, none for an input with its pull-up (R449, R450): READY, FOG, PRESENT_N or DARK once option load has given the
pin that function. -/
def gpioOut (s : State) (n : Nat) : Option Bool :=
  if !optionsIn s then none
  else match bits s.rst.func (8 * n + 7) (8 * n) with
    | 2 => some (s.rst.phase == .ready)
    | 3 => some (inFog s)
    | 4 => some false
    | 5 => some (decide (s.pwr.st = 3))
    | _ => none

/-- Set one of the RW1C bits of PKG_ALERT (R492). -/
def setAlert (s : State) (b : Nat) : State := driveAlert (setField s rPKG_ALERT b b 1)

/-- The bytes of an error record (R489). -/
def errBytes (r : ErrRec) (seq log2 : Nat) : List Byte :=
  let phase := 1 - (seq >>> log2) % 2
  leBytes 2 r.code ++ leBytes 1 r.reach
    ++ leBytes 1 (phase + 2 * b2n r.second + 4 * b2n r.addrv + 8 * b2n r.half)
    ++ leBytes 2 (r.ctx % 4096) ++ leBytes 1 r.die ++ leBytes 1 r.unit_ ++ leBytes 2 r.index ++ leBytes 2 r.stepno
    ++ leBytes 4 seq ++ leBytes 8 r.addr ++ leBytes 8 r.detail.toNat

end Sys2Proof.Machine
end

