-- ==== Sys2Proof/Machine/Mem.lean ====
section
/-! DEFINITION. Unified memory (07): windows, interleave, bytes and poison; the homes as engines meet them (R366, R375, R379); host
memory through the host-line cache (R370, R399, R538); page tables (R171 to R174); edge codes (R148 to R154). -/

namespace Sys2Proof.Machine

/-! Bytes. -/

/-- One byte of HBM. -/
def memGet (s : State) (a : Nat) : Byte := tget 0 s.mem a

/-- Write bytes from `a` upward into a table of bytes. -/
def putBytes : Tbl Byte → Nat → List Byte → Tbl Byte
  | t, _, [] => t
  | t, a, b :: bs => putBytes (tset 0 t a b) (a + 1) bs

/-- Read `n` bytes of a table of bytes. -/
def getBytes (t : Tbl Byte) (a n : Nat) : List Byte := (List.range n).map (fun i => tget 0 t (a + i))

def memRead (s : State) (a n : Nat) : List Byte := getBytes s.mem a n
def memWrite (s : State) (a : Nat) (bs : List Byte) : State := { s with mem := putBytes s.mem a bs }

/-- The line of an address, and the lines that `n` bytes at `a` touch. -/
def lineOf (a : Nat) : Nat := a / 64
def linesOf (a n : Nat) : List Nat := if n = 0 then [] else (List.range (lineOf (a + n - 1) + 1 - lineOf a)).map (lineOf a + ·)

def poisoned (s : State) (line : Nat) : Bool := tget false s.poison line
def setPoison (s : State) (line : Nat) (p : Bool) : State := { s with poison := tset false s.poison line p }

/-! Windows and interleave (R162 to R169). -/

def gib : Nat := 2 ^ 30
/-- N of R162, in bytes. -/
def nearN (s : State) : Nat := regField s rMEM_MAP 3 0 * 8 * gib
/-- DS of R163. -/
def dsSets (s : State) : Nat := regField s rMEM_MAP 8 4
def edgeBase : Nat := 0x1FF80000000
/-- First byte of the darkslide region (R164). -/
def rsvBase (s : State) : Nat := 0x1FF40000000 - dsSets s * 2 * gib
def ringTable : Nat := 0x1FF7C000000
def ppaTop : Nat := 2 ^ 41

/-- The die whose near window holds `p` (R163). -/
def nearDie (s : State) (p : Nat) : Option Nat := if p < 16 * nearN s then some (p / (2 * nearN s)) else none

/-- Whether `n` bytes at `p` lie in the context-reachable PPA of R164, within one window. -/
def reachable (s : State) (p n : Nat) : Bool :=
  decide (0 < n) && decide (p + n ≤ rsvBase s) &&
    (if p < 16 * nearN s then decide (p / (2 * nearN s) = (p + n - 1) / (2 * nearN s)) else true)

/-- XOR of the `k`-bit chunks of `x`, over at most `fuel` chunks (fold9 and fold6 of R167, R168). -/
def foldBits (k : Nat) : Nat → Nat → Nat
  | 0, _ => 0
  | fuel + 1, x => if x = 0 then 0 else (x % 2 ^ k) ^^^ foldBits k fuel (x >>> k)

/-- Stack, channel and channel-local address of a PPA below the edge-code region (R167, R168). -/
def locate (s : State) (p : Nat) : Nat × Nat × Nat :=
  let n := nearN s
  if p < 16 * n then
    let d := p / (2 * n)
    let o := p - d * 2 * n
    let b := o >>> 12
    let row := b >>> 6
    let t := (b % 64) ^^^ foldBits 6 16 row
    (2 * d + t / 32, t % 32, (row <<< 12) + o % 4096)
  else
    let o := p - 16 * n
    let b := o >>> 12
    let row := b >>> 9
    let t := (b % 512) ^^^ foldBits 9 16 row
    (t / 32, t % 32, n / 32 + (row <<< 12) + o % 4096)

/-- Home (stack), channel and channel-local address of any PPA: a slot of the edge-code region lies with its block (R169). -/
def place (s : State) (p : Nat) : Nat × Nat × Nat :=
  if edgeBase ≤ p then
    let (h, c, l) := locate s (((p - edgeBase) / 4) * 4096)
    (h, c, 0xFFC00000 + 4 * (l >>> 12) + p % 4)
  else locate s p

/-- Home of a line. -/
def homeOf (s : State) (line : Nat) : Nat := (place s (line * 64)).1

/-- The PPA of a channel-local address, read back from the interleave: the block of the spread or near part (R166 to R168). -/
def unplace (s : State) (stack chan local_ : Nat) : Nat :=
  let n := nearN s
  if local_ < n / 32 then
    let row := local_ >>> 12
    let t := (stack % 2) * 32 + chan
    (stack / 2) * 2 * n + ((row * 64 + (t ^^^ foldBits 6 16 row)) <<< 12) + local_ % 4096
  else if local_ < 0xFFC00000 then
    let row := (local_ - n / 32) >>> 12
    let t := stack * 32 + chan
    16 * n + ((row * 512 + (t ^^^ foldBits 9 16 row)) <<< 12) + (local_ - n / 32) % 4096
  else
    let l := (local_ - 0xFFC00000) / 4 * 4096
    let p := if l < n / 32 then
        (stack / 2) * 2 * n + (((l >>> 12) * 64 + (((stack % 2) * 32 + chan) ^^^ foldBits 6 16 (l >>> 12))) <<< 12)
      else 16 * n + ((((l - n / 32) >>> 12) * 512 + ((stack * 32 + chan) ^^^ foldBits 9 16 ((l - n / 32) >>> 12))) <<< 12)
    edgeBase + 4 * (p >>> 12) + local_ % 4

/-- A region that the host, UIO peers and server cores may not write (R165). -/
def reserved (s : State) (p : Nat) : Bool := decide (rsvBase s ≤ p)

/-! Edge codes (R148). -/

/-- One byte of the reflected CRC with polynomial `poly`. -/
def crcBits (poly : Nat) : Nat → Nat → Nat
  | 0, c => c
  | k + 1, c => crcBits poly k (if c % 2 = 1 then (c >>> 1) ^^^ poly else c >>> 1)

def crcStep (poly c : Nat) (b : Byte) : Nat := crcBits poly 8 (c ^^^ b.toNat)

/-- CRC-32C of bytes in ascending address order: Castagnoli, reflected (R148). -/
def crc32c (bs : List Byte) : Nat := bs.foldl (crcStep 0x82F63B78) 0xFFFFFFFF ^^^ 0xFFFFFFFF

/-- The edge-code slot of the block at `p` (R169). -/
def slotOf (p : Nat) : Nat := edgeBase + 4 * (p >>> 12)

/-! Uncorrectable lines and their log (R176, R180). -/

/-- Log the uncorrectable line of a channel that holds the byte at a PPA, in MEM_UE_LOG of its stack; later ones are counted. -/
def logUeAt (s : State) (p : Nat) (ec scrub : Bool) : State :=
  let (h, c, l) := place s p
  let s := bump s (rMEM_UE_LOG h) 63 34
  if bit (regVal s (rMEM_UE_LOG h)) 0 then s
  else
    let v := setBits (regVal s (rMEM_UE_LOG h)) 33 0 (1 + 2 * b2n ec + 4 * b2n scrub + 8 * c + 256 * (l >>> 6))
    setReg s (rMEM_UE_LOG h) v

/-- The same for a line of data that a reader met. -/
def logUe (s : State) (line : Nat) (ec scrub : Bool) : State := logUeAt s (line * 64) ec scrub

/-- The sixteen slots that a channel keeps in the 64 B line with the edge-code slot at `p`: of sixteen rows of the one channel (R169). -/
def slotsWith (s : State) (p : Nat) : List Nat :=
  let (h, c, l) := place s p
  (List.range 16).map (fun i => unplace s h c (l / 64 * 64 + 4 * i))

/-- An uncorrectable line of edge-code slots is rewritten with all of them zero, logged and counted (R177). -/
def zeroSlots (s : State) (p : Nat) (scrub : Bool) : State :=
  logUeAt ((slotsWith s p).foldl (fun s a => memWrite s a (List.replicate 4 0)) s) p true scrub

/-! Rings, and the work behind an access. -/

def ringOf (s : State) (n : Nat) : Ring := tget Ring.none s.rings.ctx n
def setRing (s : State) (n : Nat) (r : Ring) : State := { s with rings := { s.rings with ctx := tset Ring.none s.rings.ctx n r } }
def unitOf (s : State) (n : Nat) : RingUnit := tget RingUnit.none s.rings.unit_ n
def setUnit (s : State) (n : Nat) (u : RingUnit) : State :=
  { s with rings := { s.rings with unit_ := tset RingUnit.none s.rings.unit_ n u } }

/-- The step of a context that is placed or saved (R345). -/
def stepOfCtx (s : State) (c : Nat) : Option StepRec :=
  s.sched.steps.find? (fun t => t.ctx == c && t.st != .waiting)
/-- The ring that runs a context's step (R332). -/
def ringOfStep (s : State) (ctx : Nat) : Option Nat := (stepOfCtx s ctx).bind (·.ring)

/-! What an access answers. -/

/-- An engine's access: done, held back (something it needs has been asked for), or a fault code with the address it met. -/
inductive Acc (α : Type) where
  | ok (a : α) (s : State)
  | wait (s : State)
  | bad (code addr : Nat) (s : State)

def Acc.bind {α β : Type} (x : Acc α) (f : α → State → Acc β) : Acc β :=
  match x with
  | .ok a s => f a s
  | .wait s => .wait s
  | .bad c a s => .bad c a s

/-- A physical range: host memory or device memory. -/
structure Seg where
  host : Bool
  addr : Nat
  len  : Nat
  deriving DecidableEq, Repr

/-! The homes, as a non-caching engine meets them (R366, R375, R379). -/

def dirOf (s : State) (line : Nat) : DirSt := (tget ⟨.i, 0⟩ s.coh.dir line).st
def homeLine (s : State) (line : Nat) : HomeLine := tget .idle s.coh.homes line

/-- Agents that a directory state records. -/
def DirSt.agents : DirSt → List Agent
  | .i => []
  | .s v => v
  | .x b => [b]
  | DirSt.o b v => if v.contains b then v else b :: v

/-- The recorded owner. -/
def DirSt.owner : DirSt → Option Agent
  | .x b => some b
  | DirSt.o b _ => some b
  | _ => none

def addAgent (v : List Agent) (a : Agent) : List Agent := if v.contains a then v else v ++ [a]
def dropAgent (v : List Agent) (a : Agent) : List Agent := v.filter (· != a)

/-- The directory without one agent's copy: after its RspMiss or RspI (R375). -/
def withoutAgent : DirSt → Agent → DirSt
  | .i, _ => .i
  | .s v, a => .s (dropAgent v a)
  | .x b, a => if a = b then .i else .x b
  | .o b v, a => if a = b then .s (dropAgent v a) else .o b (dropAgent v a)

/-- Send a message between homes and agents on its way (R374). -/
def post (s : State) (m : CohMsg) : State := { s with coh := { s.coh with msgs := s.coh.msgs ++ [m] } }

/-- Something about a line that an engine's access must wait for: a request in service or queued, or a write-back on its way. -/
def lineBusy (s : State) (line : Nat) : Bool :=
  (homeLine s line).active.isSome || !(homeLine s line).queue.isEmpty ||
    s.coh.msgs.any (fun m => match m with | .wb _ l _ => decide (l = line) | _ => false)

/-- A read must wait where the host may hold the line dirty; a write where the host may hold it at all. -/
def lineBlocked (s : State) (write : Bool) (line : Nat) : Bool :=
  lineBusy s line ||
    (if write then (dirOf s line).agents.contains .host else (dirOf s line).owner == some .host)

/-- Ask the line's home on the engine's behalf, once: RdCur for a read, WrInv of no byte for a write. -/
def askHome (s : State) (write : Bool) (line : Nat) : State :=
  let r : HReq := ⟨.engine, line, if write then .wrinv 0 [] false else .rdcur⟩
  if lineBusy s line || s.coh.msgs.contains (.req r) then s
  else { s with coh := { s.coh with msgs := s.coh.msgs ++ [.req r] } }

/-- The dirty or cached copy that S0 or S1 holds of a line. -/
def copyOf (s : State) (a : Agent) (line : Nat) : Option CLine :=
  match a with
  | .s0 => (s.coh.s0.find? (fun e => e.1 == line)).map (·.2)
  | .s1 => (s.coh.s1.find? (fun e => e.1 == line)).map (·.2)
  | _ => none

def isDirty (c : CLine) : Bool := c.st == .m || c.st == .o

/-- A copy of an S-die is poisoned (R176, R419); what is stored with it, and then not. -/
def tainted (s : State) (a : Agent) (line : Nat) : Bool := s.coh.tainted.contains (a, line)
def taint (s : State) (a : Agent) (line : Nat) (b : Bool) : State :=
  let t := s.coh.tainted.filter (· != (a, line))
  { s with coh := { s.coh with tainted := if b then t ++ [(a, line)] else t } }

/-- The dirty copy of a line is poisoned. -/
def dirtyBad (s : State) (line : Nat) : Bool :=
  [Agent.s0, Agent.s1].any (fun a => tainted s a line && (match copyOf s a line with | some c => isDirty c | none => false))

/-- The dirty copy of a line, if S0 or S1 holds one (R375: data comes from a dirty response when there is one). -/
def dirtyCopy (s : State) (line : Nat) : Option (List Byte) :=
  match copyOf s .s0 line with
  | some c => if isDirty c then some c.data else
      (match copyOf s .s1 line with | some d => if isDirty d then some d.data else none | none => none)
  | none => match copyOf s .s1 line with | some d => if isDirty d then some d.data else none | none => none

/-- The bytes of a line current at its home, with the poison of what answers: a dirty copy, or memory. -/
def lineNow (s : State) (line : Nat) : List Byte × Bool :=
  match dirtyCopy s line with
  | some d => (d, dirtyBad s line)
  | none => (memRead s (line * 64) 64, poisoned s line)

/-- The address sent for a host address: its translation where ATS is enabled and has given one (R401). -/
def hostAddr (s : State) (a : Nat) : Nat :=
  if !s.cxl.atsEn then a
  else match s.cxl.atc.find? (fun e => e.1 == a / 4096) with
    | some (_, p, _, _) => p * 4096 + a % 4096
    | none => a

/-- The line a ring watches: of host memory, or of device memory. -/
def watchedLine (s : State) (r : Ring) : Nat := lineOf (if r.whost then hostAddr s r.wline else r.wline)

/-- The ring unit's copy of a line is invalidated: every ring that watches it and holds it must read it again (R311). -/
def wakeWatch (s : State) (host : Bool) (line : Nat) : State :=
  { s with rings := { s.rings with unit_ := s.rings.unit_.map (fun e =>
      let r := tget Ring.none s.rings.ctx e.1
      if r.v && r.watch && r.whost == host && decide (watchedLine s r = line) && e.2.held
      then (e.1, { e.2 with held := false, reread := true }) else e) } }

/-- A ring holds a device line it watches. -/
def ringHolds (s : State) (line : Nat) : Bool :=
  s.rings.ctx.any (fun e => e.2.v && e.2.watch && !e.2.whost && lineOf e.2.wline == line && (unitOf s e.1).held)

/-- A recorded agent other than the host has dropped its copy silently, and would answer a snoop RspMiss. -/
def absent (s : State) (line : Nat) (a : Agent) : Bool :=
  match a with
  | .ring => !ringHolds s line
  | .host => false
  | a => (copyOf s a line).isNone

/-- The home's entry after the RspMiss of an agent, which is counted (R375, R389). -/
def missed (s : State) (line : Nat) (a : Agent) : State :=
  let e := tget (⟨.i, 0⟩ : DirEnt) s.coh.dir line
  let s := bump s (rCOH_HOME_RACE (homeOf s line)) 15 0
  { s with coh := { s.coh with dir := match withoutAgent e.st a with
      | .i => tdel s.coh.dir line
      | .s [] => tdel s.coh.dir line
      | d => tput s.coh.dir line { e with st := d } } }

/-- What a read's SnpCur finds of the recorded owner: an answer with data, or RspMiss. -/
def snoopOwner (s : State) (line : Nat) : State :=
  match (dirOf s line).owner with | some a => if absent s line a then missed s line a else s | none => s

/-- What a write's SnpX finds of every recorded agent. -/
def snoopAll (s : State) (line : Nat) : State := ((dirOf s line).agents.filter (absent s line)).foldl (fun s a => missed s line a) s

/-- Server cores' reservations that `f` names, by core and line, are lost (R380). -/
def loseRsv (s : State) (f : Nat → Nat → Bool) : State := { s with coh := { s.coh with rsv := s.coh.rsv.filter (fun e => !f e.1 e.2) } }

/-- A reservation's line: of device memory, or of the host. -/
def rsvLine (host : Bool) (line : Nat) : Nat := (if host then 2 ^ 40 else 0) + line + 1

/-- Drop S0's and S1's copies of a line. -/
def dropCopies (s : State) (line : Nat) : State :=
  let s := loseRsv s (fun _ v => v == rsvLine false line)
  { s with coh := { s.coh with s0 := tdel s.coh.s0 line, s1 := tdel s.coh.s1 line, tainted := s.coh.tainted.filter (fun e => e.2 != line) } }

/-- Invalidate every copy of a line that no host holds, and free its directory entry. -/
def invalidate (s : State) (line : Nat) : State :=
  let s := dropCopies (snoopAll s line) line
  let s := if (dirOf s line).agents.contains .ring then wakeWatch s false line else s
  { s with coh := { s.coh with dir := tdel s.coh.dir line } }

/-- A non-caching write of part of a line at its home (R375): merged into dirty data or memory, every copy invalidated, memory
written; poison goes with a write of the whole line only (R175), and stays or is stored as `poison` says. -/
def lineWrite (s : State) (line off : Nat) (bs : List Byte) (poison : Bool) : State :=
  let d := dirtyCopy s line
  let bad := dirtyBad s line
  let s := invalidate s line
  let s := match d with
    | some old => memWrite (memWrite s (line * 64) old) (line * 64 + off) bs
    | none => memWrite s (line * 64 + off) bs
  if poison || (bad && decide (bs.length < 64)) then setPoison s line true
  else if d.isSome || decide (bs.length = 64) then setPoison s line false else s

/-- Cut a run of bytes at line boundaries: line, offset and bytes. `fuel` bounds the pieces. -/
def cutLines : Nat → Nat → List Byte → List (Nat × Nat × List Byte)
  | 0, _, _ => []
  | fuel + 1, a, bs =>
    if bs.isEmpty then []
    else
      let n := 64 - a % 64
      (a / 64, a % 64, bs.take n) :: cutLines fuel (a + n) (bs.drop n)

/-- Write bytes at a device address as a non-caching agent whose lines are all free. -/
def devWriteNow (s : State) (a : Nat) (bs : List Byte) : State :=
  (cutLines (bs.length + 1) a bs).foldl (fun s p => lineWrite s p.1 p.2.1 p.2.2 false) s

/-- Write bytes at a device address as a non-caching agent that does not wait: a line that the host may hold, or that is in service, takes
them as a WrInv at its home (R375, R379). -/
def devSend (s : State) (a : Nat) (bs : List Byte) : State :=
  (cutLines (bs.length + 1) a bs).foldl (fun s p =>
    if lineBlocked s true p.1 then post s (.req ⟨.engine, p.1, .wrinv p.2.1 p.2.2 false⟩) else lineWrite s p.1 p.2.1 p.2.2 false) s

/-- Read device bytes through their homes; the first poisoned line is a fault (R176). -/
def devReadNow (s : State) (a n : Nat) : Acc (List Byte) :=
  let s := (linesOf a n).foldl snoopOwner s
  match (linesOf a n).find? (fun l => (lineNow s l).2) with
  | some l => .bad 0x0304 (l * 64) (logUe s l false false)
  | none =>
    let all := ((linesOf a n).map (fun l => (lineNow s l).1)).flatten
    .ok ((all.drop (a % 64)).take n) s

/-- Ask for every blocked line; wait if there was one. -/
def readyLines (s : State) (write : Bool) (lines : List Nat) : Option State :=
  let b := lines.filter (lineBlocked s write)
  if b.isEmpty then none else some (b.foldl (fun s l => askHome s write l) s)

def devRead (s : State) (a n : Nat) : Acc (List Byte) :=
  match readyLines s false (linesOf a n) with
  | some s => .wait s
  | none => devReadNow s a n

def devWrite (s : State) (a : Nat) (bs : List Byte) : Acc Unit :=
  match readyLines s true (linesOf a bs.length) with
  | some s => .wait s
  | none => .ok () (devWriteNow s a bs)

/-! Host memory (R370, R392, R399, R407, R409, R538). -/

/-- The host can be reached: the link is in L0 with CXL.cache enabled, and no loss is unsettled. -/
def hostUp (s : State) : Bool := s.cxl.link == .l0 && s.cxl.mode && s.cxl.cacheEn && !s.cxl.lost && !inFog s

/-- Who makes an access, so that what the host returns reaches the one that asked, and for which context. -/
structure Req where
  who : Nat
  ctx : Nat
  deriving DecidableEq, Repr

/-- Engines as the host-line cache tells them apart: an op's engine, a loupe, the fixers, a collective's stackers, a ring's
descriptor, the scheduler, the error queue. -/
def whoOp (p : ProgRef) (e : Nat) : Nat := 0x100000 + p.core * 16 + 8 * b2n p.upper + e
def whoLoupe (n : Nat) : Nat := 0x200000 + n
def whoFixers : Nat := 0x210000
def whoColl (uid : Nat) : Nat := 0x2000000 + uid
def whoRing (n : Nat) : Nat := 0x400000 + n
def whoSched : Nat := 0x220000
def whoErrq : Nat := 0x230000
/-- The ring unit's read of a watched line (R311), and a ring's service copy channel, which runs every sixteenth piece of a COPY (R157). -/
def whoWatch (n : Nat) : Nat := 0x600000 + n
def whoServ (n c : Nat) : Nat := 0x1000000 + 16 * n + c

/-- The call running for a requester of the host-line cache: its caller. -/
def callerOf (s : State) (who : Nat) : Option Caller :=
  match s.loupes.findSome? (fun e => if whoLoupe e.1 = who then e.2.run.map (·.call.caller) else none) with
  | some c => some c
  | none =>
    if who = whoFixers then s.fixers.run.map (·.call.caller)
    else s.pod.colls.findSome? (fun (c : Coll) => if whoColl c.uid = who then some c.caller else none)

/-- The ring whose running descriptor makes an access: its own, its call's, or that of its step (R410). -/
def ringBehind (s : State) (r : Req) : Option Nat :=
  if whoServ 0 0 ≤ r.who ∧ r.who < whoColl 0 then some ((r.who - whoServ 0 0) / 16)
  else if whoRing 0 ≤ r.who ∧ r.who < whoRing (2 ^ 20) then some (r.who - whoRing 0)
  else match callerOf s r.who with
    | some (.desc n) => some n
    | _ => if r.ctx = 0 then none else ringOfStep s r.ctx

/-- The ring and the index of the running descriptor behind an access (R410). -/
def ownOf (s : State) (r : Req) : Option (Nat × Nat) :=
  (ringBehind s r).bind (fun n => (unitOf s n).running.map (fun x => (n, x.desc.idx)))

/-- Engines that read back for READBACK: copy channels, service channels, loupes, fixers and stackers (R328). -/
def readsBack (who : Nat) : Bool :=
  decide (whoServ 0 0 ≤ who) || (decide (0x100000 ≤ who) && decide (who ≤ whoFixers))

/-- An engine has written a host line for the descriptor behind it. -/
def noteWrote (s : State) (r : Req) (h : Nat) : State :=
  if !readsBack r.who then s
  else match ringBehind s r with
    | none => s
    | some n => match (unitOf s n).running with
      | some x => setUnit s n { unitOf s n with running := some { x with wrote := tput x.wrote r.who h } }
      | none => s

/-- Translate a page of host addresses where ATS is enabled (R401): none until it has answered, refused, or the page to send. -/
def atsPage (s : State) (write : Bool) (pg : Nat) : Option (Option Nat) :=
  if !s.cxl.atsEn then some (some pg)
  else match s.cxl.atc.find? (fun e => e.1 == pg) with
    | some (_, p, r, w) => if (if write then w else r) then some (some p) else some none
    | none => none

/-- The 4 KiB pages of `n` bytes at `a`. -/
def pagesOf (a n : Nat) : List Nat := if n = 0 then [] else (List.range ((a + n - 1) / 4096 + 1 - a / 4096)).map (a / 4096 + ·)

/-- Message kinds of CXL.cache requests and CXL.mem answers in `out` (R370, R374). -/
def mRdShared : Nat := 1
def mRdOwn : Nat := 2
def mRdCurr : Nat := 3
def mItoMWr : Nat := 4
def mWOWrInv : Nat := 5
def mDirtyEvict : Nat := 6
def mCleanEvict : Nat := 7
def mBISnpData : Nat := 8
def mBISnpInv : Nat := 9
def mMemData : Nat := 10
def mCmp : Nat := 11
def mSnpRsp : Nat := 12
def mViral : Nat := 13
def mBIConflictAck : Nat := 14
def mAtsReq : Nat := 20

/-- Ask for an ATS translation of a page, once. -/
def askAts (s : State) (pg : Nat) : State :=
  if s.cxl.atsWait.contains pg then s
  else send { s with cxl := { s.cxl with atsWait := s.cxl.atsWait ++ [pg] } } (.cxl mAtsReq (pg * 4096) [])

/-- The host addresses to send for a range, cut at pages where ATS translates them: address and length. -/
def hostPieces (s : State) (a n : Nat) (write : Bool) : Acc (List (Nat × Nat)) :=
  if !s.cxl.atsEn then .ok [(a, n)] s
  else
    let ps := pagesOf a n
    let missing := ps.filter (fun p => (atsPage s write p).isNone)
    if !missing.isEmpty then
      (if hostUp s then .wait (missing.foldl askAts s) else if linkHeld s then .wait s else .bad 0x0706 a s)
    else match ps.find? (fun p => atsPage s write p == some none) with
      | some p => .bad 0x0201 (max a (p * 4096)) { s with cxl := { s.cxl with atc := s.cxl.atc.filter (fun e => e.1 != p || e.2.2.1 || e.2.2.2) } }
      | none => .ok (ps.map (fun p =>
          let lo := max a (p * 4096)
          let hi := min (a + n) (p * 4096 + 4096)
          (((atsPage s write p).join.getD 0) * 4096 + lo % 4096, hi - lo))) s

/-- The host-line cache's line (R369). -/
def hlcLine (s : State) (h : Nat) : Option HlcLine := (s.coh.hlc.find? (fun e => e.1 == h)).map (·.2)

/-- One line of host memory, read by a non-caching engine (R370): served from the host-line cache, from data the host has
returned, or asked for by RdCurr. -/
def hostReadLine (s : State) (r : Req) (h : Nat) : Acc (List Byte) :=
  match hlcLine s h with
  | some l => .ok l.data s
  | none =>
    match s.coh.hbuf.find? (fun e => e.1 == r.who && e.2.1 == h) with
    | some (_, _, d, p) => if p then .bad 0x0304 (h * 64) s else .ok d s
    | none =>
      if !hostUp s then (if linkHeld s then .wait s else .bad 0x0706 (h * 64) s)
      else if s.coh.hout.any (fun o => o.hline == h && o.kind == .rdCurr && o.who == r.who) then .wait s
      else .wait (send { s with coh := { s.coh with hout := s.coh.hout ++ [⟨h, .rdCurr, r.who, r.ctx, ownOf s r⟩] } } (.cxl mRdCurr (h * 64) []))

/-- Host lines, all asked for before any is waited on. -/
def hostReadLines (r : Req) : State → List Nat → Acc (List Byte)
  | s, [] => .ok [] s
  | s, h :: t =>
    match hostReadLine s r h with
    | .ok d s => (hostReadLines r s t).bind (fun x s => .ok (d ++ x) s)
    | .wait s =>
      match hostReadLines r s t with
      | .ok _ s => .wait s
      | .wait s => .wait s
      | .bad c a s => .bad c a s
    | .bad c a s => .bad c a s

/-- Pieces of host memory, all asked for before any is waited on. -/
def hostReadPieces (r : Req) (s : State) (ps : List (Nat × Nat)) : Acc (List Byte) :=
  let lines := ps.flatMap (fun x => linesOf x.1 x.2)
  (hostReadLines r s lines).bind (fun _ s =>
    ps.foldl (fun (acc : Acc (List Byte)) x => acc.bind (fun d s =>
      (hostReadLines r s (linesOf x.1 x.2)).bind (fun all s => .ok (d ++ (all.drop (x.1 % 64)).take x.2) s))) (.ok [] s))

/-- Read host bytes at a host address. -/
def hostRead (s : State) (r : Req) (a n : Nat) : Acc (List Byte) :=
  (hostPieces s a n false).bind (fun ps s => hostReadPieces r s ps)

/-- One line written by an engine (R370): internal copies invalidated, dirty data merged unless the whole line is written, and
the write issued to await its GO (R399), as WOWrInv unless the engine writes the whole line. -/
def hostWriteLine (r : Req) (s : State) (p : Nat × Nat × List Byte) : State :=
  let (h, off, bs) := p
  let old := hlcLine s h
  let full := match old with
    | some l => if l.st = LineSt.m then (l.data.take off ++ bs ++ l.data.drop (off + bs.length), 0) else (bs, off)
    | none => (bs, off)
  let s := loseRsv (wakeWatch s true h) (fun _ v => v == rsvLine true h)
  let s := { s with coh := { s.coh with hlc := tdel s.coh.hlc h, hout := s.coh.hout ++ [⟨h, .write, r.who, r.ctx, ownOf s r⟩] } }
  send (noteWrote s r h) (.cxl (if bs.length = 64 then mItoMWr else mWOWrInv) (h * 64 + full.2) full.1)

/-- Write host bytes; done once issued (R47). -/
def hostWrite (s : State) (r : Req) (a : Nat) (bs : List Byte) : Acc Unit :=
  if !hostUp s then (if linkHeld s then .wait s else .bad 0x0706 a s)
  else (hostPieces s a bs.length true).bind (fun ps s =>
    .ok () (ps.foldl (fun (x : State × List Byte) p =>
      ((cutLines (p.2 + 1) p.1 (x.2.take p.2)).foldl (hostWriteLine r) x.1, x.2.drop p.2)) (s, bs)).1)

/-! Segments. -/

def segRead (s : State) (r : Req) (g : Seg) : Acc (List Byte) :=
  if g.host then hostRead s r g.addr g.len else devRead s g.addr g.len

/-- Read every segment; the ones that must wait are all asked for. -/
def segsRead (r : Req) : State → List Seg → Acc (List Byte)
  | s, [] => .ok [] s
  | s, g :: t =>
    match segRead s r g with
    | .ok d s => (segsRead r s t).bind (fun x s => .ok (d ++ x) s)
    | .wait s =>
      match segsRead r s t with
      | .ok _ s => .wait s
      | .wait s => .wait s
      | .bad c a s => .bad c a s
    | .bad c a s => .bad c a s

/-- What must be asked for before segments may be written: every translation of the host's, and every line the host may hold. -/
def segsReady (s : State) (gs : List Seg) : Acc Unit :=
  let hs := gs.filter (·.host)
  if !hs.isEmpty && linkHeld s then .wait s
  else
    (hs.foldl (fun (acc : Acc Unit) g => acc.bind (fun _ s => (hostPieces s g.addr g.len true).bind (fun _ s => .ok () s))) (.ok () s)).bind (fun _ s =>
      match readyLines s true ((gs.filter (fun g => !g.host)).flatMap (fun g => linesOf g.addr g.len)) with
      | some s => .wait s
      | none => .ok () s)

/-- Write bytes over segments whose device lines are free. -/
def segsWriteNow (r : Req) : State → List Seg → List Byte → Acc Unit
  | s, [], _ => .ok () s
  | s, g :: t, bs =>
    let x : Acc Unit := if g.host then hostWrite s r g.addr (bs.take g.len) else .ok () (devWriteNow s g.addr (bs.take g.len))
    x.bind (fun _ s => segsWriteNow r s t (bs.drop g.len))

def segsWrite (s : State) (r : Req) (gs : List Seg) (bs : List Byte) : Acc Unit :=
  (segsReady s gs).bind (fun _ s => segsWriteNow r s gs bs)

/-! Page tables (R171 to R174). -/

/-- What a walk found for a CVA: page base, page size, host, writable. -/
structure Walk where
  base : Nat
  size : Nat
  host : Bool
  wr   : Bool
  deriving DecidableEq, Repr

/-- The 4 KiB-aligned PPA of a context's level-4 table. -/
def pt4Of (s : State) (ctx : Nat) : Nat := if ctx = 0 then s.sched.pt4Zero else (tget Ctx.free s.sched.ctxs ctx).pt4

/-- One level of a walk from table `tbl`: `lv` counts 4 to 1. -/
def walkFrom (cva : Nat) : Nat → State → Nat → Bool → Acc Walk
  | 0, s, _, _ => .bad 0x0201 cva s
  | lv + 1, s, tbl, wr =>
    if !reachable s tbl 4096 then .bad 0x0202 cva s
    else
      (devRead s (tbl + 8 * ((cva >>> (21 + 9 * lv)) % 512)) 8).bind (fun bs s =>
        let e := leNat bs
        let addr := ((e >>> 12) % 2 ^ 40) * 4096
        let wr := wr && e.testBit 2
        let leaf := e.testBit 1
        if !e.testBit 0 then .bad 0x0201 cva s
        else if (e >>> 4) % 256 ≠ 0 ∨ e >>> 52 ≠ 0 ∨ (!leaf && e.testBit 3) = true then .bad 0x0201 cva s
        else if leaf then
          if lv ≥ 2 then .bad 0x0201 cva s
          else
            let size := if lv = 1 then gib else 2 ^ 21
            if addr % size ≠ 0 then .bad 0x0201 cva s
            else if !e.testBit 3 && !reachable s addr size then .bad 0x0202 cva s
            else .ok ⟨addr, size, e.testBit 3, wr⟩ s
        else walkFrom cva lv s addr wr)

/-- Where an access of `wr` may go after a walk, for a coded or plain tensor (R173). -/
def permit (write coded host wr : Bool) : Option Nat :=
  if coded && host then some 0x0202 else if write && !wr then some 0x0203 else none

/-- Translate one CVA (R160, R171 to R174). A cached translation that no longer matches the tables may or may not still be used,
until a FENCE with TLBI: which is free (log entry 1). -/
def xlate (s : State) (ctx cva : Nat) (write coded : Bool) : Acc Seg :=
  let vp := cva / 2 ^ 21
  let cached := s.tlb.find? (fun e => e.ctx == ctx && e.vp == vp)
  let fromEnt (s : State) (e : TlbEnt) : Acc Seg :=
    match permit write coded e.host e.wr with
    | some c => .bad c cva s
    | none => .ok ⟨e.host, e.base + cva % 2 ^ 21, 2 ^ 21 - cva % 2 ^ 21⟩ s
  if cva ≥ 2 ^ 57 then .bad 0x0201 cva s
  else
    match walkFrom cva 4 s (pt4Of s ctx) true with
    | .ok w s =>
      let e : TlbEnt := ⟨ctx, vp, w.base + (cva % w.size) / 2 ^ 21 * 2 ^ 21, w.host, w.wr⟩
      match cached with
      | some old =>
        if old = e then fromEnt s e
        else if (Config.freeWord s.free).getLsbD 0 then fromEnt (useFree s 1) old
        else fromEnt { useFree s 1 with tlb := e :: s.tlb.filter (fun x => !(x.ctx == ctx && x.vp == vp)) } e
      | none => fromEnt { s with tlb := e :: s.tlb } e
    | .wait s => .wait s
    | .bad c a s =>
      match cached with
      | some old => if (Config.freeWord s.free).getLsbD 0 then fromEnt (useFree s 1) old else .bad c a (useFree s 1)
      | none => .bad c a s

/-- Translate a range of CVAs, page by page; `fuel` is at least its count of 2 MiB pages. -/
def xlateRange (ctx : Nat) (write coded : Bool) : Nat → State → Nat → Nat → Acc (List Seg)
  | 0, s, _, _ => .ok [] s
  | fuel + 1, s, cva, n =>
    if n = 0 then .ok [] s
    else
      (xlate s ctx cva write coded).bind (fun g s =>
        let k := min n g.len
        (xlateRange ctx write coded fuel s (cva + k) (n - k)).bind (fun r s => .ok (⟨g.host, g.addr, k⟩ :: r) s))

/-- Segments of a CVA range. -/
def segsOf (s : State) (ctx cva n : Nat) (write coded : Bool) : Acc (List Seg) :=
  xlateRange ctx write coded (n / 2 ^ 21 + 2) s cva n

/-! Coded blocks (R148 to R154). -/

/-- The 4 KiB blocks that `n` bytes at `a` touch. -/
def blocksOf (a n : Nat) : List Nat := if n = 0 then [] else (List.range ((a + n - 1) / 4096 + 1 - a / 4096)).map (a / 4096 + ·)

/-- The edge code stored for a block, as its home has it. -/
def codeAt (s : State) (p : Nat) : Nat := leNat (((lineNow s (lineOf (slotOf p))).1.drop (slotOf p % 64)).take 4)

/-- Store a block's edge code through its home: no agent keeps an older copy of its line (R149, R379). -/
def putCode (s : State) (b code : Nat) : State := devSend s (slotOf (b * 4096)) (leBytes 4 code)

/-- Lines of the edge codes of blocks. -/
def slotLines (bs : List Nat) : List Nat := bs.map (fun b => lineOf (slotOf (b * 4096)))

/-- A block's bytes as current at its homes, whatever poison they hold. -/
def blockBytes (s : State) (b : Nat) : List Byte := (linesOf (b * 4096) 4096).flatMap (fun l => (lineNow s l).1)

/-- Read and check one block in whole (R151, R152): poison first. -/
def checkBlock (s : State) (b : Nat) : Acc Unit :=
  (devRead s (b * 4096) 4096).bind (fun bs s =>
    if crc32c bs = codeAt s (b * 4096) then .ok () s else .bad 0x0302 (b * 4096) s)

def checkBlocks : State → List Nat → Acc Unit
  | s, [] => .ok () s
  | s, b :: t => (checkBlock s b).bind (fun _ s => checkBlocks s t)

/-- Compute and store the edge codes of blocks just written (R149, R154). -/
def sealBlocks (s : State) (bs : List Nat) : State :=
  bs.foldl (fun s b => putCode s b (crc32c (blockBytes s b))) s

/-- Blocks of the device segments. -/
def segBlocks (gs : List Seg) : List Nat := (gs.filter (fun g => !g.host)).flatMap (fun g => blocksOf g.addr g.len)

/-- Read segments, checking every block they touch where they are coded. -/
def segsReadC (r : Req) (coded : Bool) (s : State) (gs : List Seg) : Acc (List Byte) :=
  (segsRead r s gs).bind (fun d s =>
    if coded then (checkBlocks s (segBlocks gs)).bind (fun _ s => .ok d s) else .ok d s)

/-- Write segments, storing the edge codes of whole blocks where they are coded. -/
def segsWriteC (r : Req) (coded : Bool) (s : State) (gs : List Seg) (bs : List Byte) : Acc Unit :=
  if !coded then segsWrite s r gs bs
  else match readyLines s true (slotLines (segBlocks gs)) with
    | some s => .wait s
    | none => (segsWrite s r gs bs).bind (fun _ s => .ok () (sealBlocks s (segBlocks gs)))

/-- An engine's read of a CVA range in its context. -/
def cvaRead (s : State) (r : Req) (cva n : Nat) (coded : Bool) : Acc (List Byte) :=
  (segsOf s r.ctx cva n false coded).bind (fun gs s => segsReadC r coded s gs)

/-- An engine's write of a CVA range in its context. -/
def cvaWrite (s : State) (r : Req) (cva : Nat) (bs : List Byte) (coded : Bool) : Acc Unit :=
  (segsOf s r.ctx cva bs.length true coded).bind (fun gs s => segsWriteC r coded s gs bs)

/-- Segments of several CVA ranges in turn. -/
def rangesSegs (ctx : Nat) (write coded : Bool) : State → List (Nat × Nat) → Acc (List Seg)
  | s, [] => .ok [] s
  | s, x :: t => (segsOf s ctx x.1 x.2 write coded).bind (fun gs s => (rangesSegs ctx write coded s t).bind (fun r s => .ok (gs ++ r) s))

/-- Whether a CVA range is wholly mapped for reading or writing, and what code it meets otherwise. -/
def cvaCheck (s : State) (ctx cva n : Nat) (write coded : Bool) : Acc Unit :=
  (segsOf s ctx cva n write coded).bind (fun _ s => .ok () s)

/-- Discard cached translations of a context (R174), or of every context. -/
def flushTlb (s : State) (ctx : Option Nat) : State :=
  { s with tlb := match ctx with | some c => s.tlb.filter (fun e => e.ctx != c) | none => [] }

/-- Nobody: what the host returns for a read of this name is dropped. -/
def whoNone : Nat := 0

/-- Discard the host data an op or call was given, once it is done; what it still asked for reaches nobody. -/
def endHost (s : State) (who : Nat) : State :=
  { s with coh := { s.coh with
      hbuf := s.coh.hbuf.filter (fun e => e.1 != who)
      hout := s.coh.hout.map (fun o => if o.who = who ∧ o.kind = .rdCurr then { o with who := whoNone } else o) } }

/-- The same for every engine of a program's place. -/
def endHostAt (s : State) (p : ProgRef) : State := (List.range 5).foldl (fun s e => endHost s (whoOp p e)) s

/-- Nothing that an engine of a program's place asked the host for, or wrote to it, is out. -/
def hostBack (s : State) (p : ProgRef) : Bool := !s.coh.hout.any (fun o => (List.range 5).any (fun e => o.who == whoOp p e))

end Sys2Proof.Machine
end

