-- ==== Sys2Proof/Machine/Operands.lean ====
section
/-! DEFINITION. Op words, patterns and the addresses they give (02 R39 to R56, 05 R114 to R120, 06 R140, R141, R150). -/

namespace Sys2Proof.Machine

/-! Op words (R39, R53 to R56). -/

abbrev Op := BitVec 128

def opClass (w : Op) : Nat := bits w 127 124
def opOpc (w : Op) : Nat := bits w 123 118
def opWE (w : Op) : Bool := bit w 117
def opWT (w : Op) : Nat := bits w 116 112
def opWN (w : Op) : Nat := bits w 111 108 + 1
def opSE (w : Op) : Bool := bit w 107
def opST (w : Op) : Nat := bits w 106 102
def opSN (w : Op) : Nat := bits w 101 98 + 1
def opWF (w : Op) : Bool := bit w 97
def opSL (w : Op) : Bool := bit w 96

/-- The engine that executes an op (R36), none for CTRL and SYNC. -/
def opEng (w : Op) : Option Eng :=
  match opClass w with
  | 2 => some (if bit w 28 then .copy1 else .copy0)
  | 3 => some .array
  | 4 => some .vector
  | 5 => some .offload
  | 6 => some .offload
  | 7 => some .offload
  | _ => none

/-! COPY fields (R53). -/
def cpPSRC (w : Op) : Nat := bits w 7 0
def cpPDST (w : Op) : Nat := bits w 15 8
def cpASRC (w : Op) : Nat := bits w 21 16
def cpADST (w : Op) : Nat := bits w 27 22
def cpTCORE (w : Op) : Nat := bits w 39 29
def cpTPKG (w : Op) : Nat := bits w 51 40

/-! ARRAY fields (R54). -/
def arPAT (w : Op) : Nat := bits w 7 0
def arASI (w : Op) : Nat := bits w 13 8
def arAROW (w : Op) : Nat := bits w 23 14
def arROWS (w : Op) : Nat := bits w 33 24 + 1
def arFMT (w : Op) : Nat := bits w 37 34
def arTR (w : Op) : Bool := bit w 38
def arACC (w : Op) : Bool := bit w 39

/-! VEC fields (R55). -/
def vePA (w : Op) : Nat := bits w 7 0
def vePB (w : Op) : Nat := bits w 15 8
def vePC (w : Op) : Nat := bits w 23 16
def vePO (w : Op) : Nat := bits w 31 24
def veASIN (w : Op) : Nat := bits w 37 32
def veASOUT (w : Op) : Nat := bits w 43 38
def veMSEL (w : Op) : Nat := bits w 46 44
def veMEN (w : Op) : Bool := bit w 47
def veMOUT (w : Op) : Nat := bits w 50 48
def veRND (w : Op) : Nat := bits w 52 51
def veVOP (w : Op) : Nat := bits w 63 53
def veIMM (w : Op) : BitVec 32 := BitVec.ofNat 32 (bits w 95 64)

/-! Offloaded ops (R56). -/
def ofCALL (w : Op) : Nat := bits w 63 0
def ofUNIT (w : Op) : Nat := bits w 79 64
def ofASI (w : Op) : Nat := bits w 85 80

/-! CTRL and SYNC payloads (R48, R49). -/
def ctCNTM1 (w : Op) : Nat := bits w 23 0
def ctLOOPAT (w : Op) : Nat := bits w 11 0
def syTALLY (w : Op) : Nat := bits w 4 0
def syCOUNT (w : Op) : Nat := bits w 20 5
def syAFTER (w : Op) : Nat := bits w 28 24
def syTARGET (w : Op) : Nat := bits w 42 32

/-- Element `i` of a list of numbers, 0 beyond it. -/
def nth (l : List Nat) (i : Nat) : Nat := l.getD i 0

/-- The offset a step-table entry adds: its stride at depth d times i_d, summed (R43). -/
def strideSum (ent : BitVec 128) (iters : List Nat) : Int :=
  (List.range 4).foldl (fun a d => a + sext 32 (bits ent (32 * d + 31) (32 * d)) * (nth iters d : Int)) 0

/-- Effective base of a pattern under a step-table entry (R43). -/
def effBase (q : Prog) (base ent : Nat) (iters : List Nat) : Int :=
  (base : Int) + strideSum (q.strides.getD ent 0) iters

/-! Stream patterns (R114, R115). -/

structure SPat where
  rep   : Bool
  mlast : Bool
  fmt   : Nat
  base  : Int
  n     : List Nat
  s     : List Int
  deriving DecidableEq, Repr

/-- A stream pattern of the store, at a base. -/
def spatOf (w : BitVec 256) (base : Int) : SPat :=
  { rep := bit w 2, mlast := bit w 3, fmt := bits w 7 4, base
    n := [bits w 47 32 + 1, bits w 63 48 + 1, bits w 79 64 + 1, bits w 95 80 + 1]
    s := [sext 32 (bits w 127 96), sext 32 (bits w 159 128), sext 32 (bits w 191 160), sext 32 (bits w 223 192)] }

/-- A stream pattern with its effective base. -/
def spat (q : Prog) (idx ent : Nat) (iters : List Nat) : SPat :=
  let w := q.pats.getD idx 0
  spatOf w (effBase q (bits w 28 8) ent iters)

/-- Index of vector `k` in the order of R115: (v0, v1, v2, v3), v0 fastest. -/
def vIndex (n : List Nat) (k : Nat) : List Nat :=
  let n0 := nth n 0
  let n1 := nth n 1
  let n2 := nth n 2
  [k % n0, k / n0 % n1, k / (n0 * n1) % n2, k / (n0 * n1 * n2)]

/-- Vectors of a pattern. -/
def vCount (n : List Nat) : Nat := nth n 0 * nth n 1 * nth n 2 * nth n 3

/-- Vector address (R115). -/
def vAddr (p : SPat) (v : List Nat) : Nat :=
  (p.base + (List.range 4).foldl (fun a d => a + (p.s.getD d 0) * (nth v d : Int)) 0).toNat

/-- Where the two scale bytes of a block-scaled vector lie (R116). -/
def vScaleAddr (p : SPat) (v : List Nat) : Nat :=
  vAddr p [0, nth v 1, nth v 2, nth v 3] + nth p.n 0 * (8 * elemBits p.fmt) + 2 * nth v 0

/-- Elements of a run of packed bytes (R99): little-endian, lower elements in lower bits. -/
def unpack (eb n : Nat) (bs : List Byte) : List Nat :=
  let w := leNat bs
  (List.range n).map (fun k => (w >>> (eb * k)) % 2 ^ eb)

/-- Packed bytes of elements. -/
def pack (eb : Nat) (es : List Nat) : List Byte :=
  leBytes ((eb * es.length + 7) / 8) ((es.foldr (fun e a => e % 2 ^ eb + a * 2 ^ eb) 0))

/-! Copy patterns (R140, R141). -/

structure CPat where
  space : Bool
  coded : Bool
  l0    : Nat
  base  : Int
  n     : List Nat
  s     : List Int
  deriving DecidableEq, Repr

def cpatOf (w : BitVec 256) (base : Int) : CPat :=
  { space := bit w 2, coded := bit w 3, l0 := bits w 31 8 + 1, base
    n := [bits w 47 32 + 1, bits w 55 48 + 1, bits w 63 56 + 1]
    s := [sext 40 (bits w 167 128), sext 40 (bits w 207 168), sext 40 (bits w 247 208)] }

def cpat (q : Prog) (idx ent : Nat) (iters : List Nat) : CPat :=
  let w := q.pats.getD idx 0
  cpatOf w (effBase q (bits w 127 64) ent iters)

/-- Runs of a copy pattern in enumeration order: address and length (R141). An address below zero is kept as it wraps in 64 bits. -/
def runsOf (p : CPat) : List (Nat × Nat) :=
  let n1 := nth p.n 0
  let n2 := nth p.n 1
  (List.range (n1 * n2 * nth p.n 2)).map (fun k =>
    (((p.base + p.s.getD 0 0 * ((k % n1 : Nat) : Int) + p.s.getD 1 0 * ((k / n1 % n2 : Nat) : Int)
        + p.s.getD 2 0 * ((k / (n1 * n2) : Nat) : Int)) % (2 ^ 64 : Nat)).toNat, p.l0))

/-- Consecutive runs whose addresses are contiguous, joined into ranges (R145). -/
def joinRuns : List (Nat × Nat) → List (Nat × Nat)
  | [] => []
  | (a, n) :: t =>
    match joinRuns t with
    | (b, m) :: r => if a + n = b then (a, n + m) :: r else (a, n) :: (b, m) :: r
    | [] => [(a, n)]

/-- Total bytes of runs. -/
def runBytes (rs : List (Nat × Nat)) : Nat := rs.foldl (fun a r => a + r.2) 0

/-- Bursts: each range cut at 2 KiB boundaries (R145). `fuel` bounds the pieces of one range. -/
def cutBursts : Nat → Nat → Nat → List (Nat × Nat)
  | 0, _, _ => []
  | fuel + 1, a, n =>
    if n = 0 then []
    else let k := min n (2048 - a % 2048); (a, k) :: cutBursts fuel (a + k) (n - k)

def burstsOf (rs : List (Nat × Nat)) : List (Nat × Nat) :=
  (joinRuns rs).flatMap (fun r => cutBursts (r.2 / 2048 + 2) r.1 r.2)

/-- Whether every joined range is whole aligned 4 KiB blocks (R150). -/
def wholeBlocks (rs : List (Nat × Nat)) : Bool :=
  (joinRuns rs).all (fun r => decide (r.1 % 4096 = 0) && decide (r.2 % 4096 = 0))

/-- The largest extent of runs: lowest byte and the byte after the highest. -/
def extentOf (rs : List (Nat × Nat)) : Nat × Nat :=
  match rs with
  | [] => (0, 0)
  | (a, n) :: t => t.foldl (fun e r => (min e.1 r.1, max e.2 (r.1 + r.2))) (a, a + n)

end Sys2Proof.Machine
end

