-- ==== Sys2Proof/Machine/Ops.lean ====
section
/-! DEFINITION. The named operations every family shares: error records and faults with their reach (20, R27, R346), core programs and
scratchpad (02, 03, 06), tallies, and completion reports of descriptors (12). -/

namespace Sys2Proof.Machine

/-! Error records (R489 to R491). -/

/-- Whether the error queue takes a record now: enabled, not full, no host write of an earlier record still on its way. -/
def errqOpen (s : State) : Bool :=
  bit (regVal s rPKG_ERRQ_CTRL) 0 && s.errs.hostWait.isNone &&
    decide ((s.errs.tail + 2 ^ 32 - regField s rPKG_ERRQ_HEAD 31 0) % 2 ^ 32 < 2 ^ regField s rPKG_ERRQ_BASE 5 1)

/-- A record has become visible: the error interrupt of R491. -/
def errVisible (s : State) : State :=
  if bit (regVal s rPKG_ERRQ_CTRL) 1 && !s.errs.pending
  then { sendVec s (regField s rPKG_ERRQ_CTRL 12 2) with errs := { s.errs with pending := true } } else s

/-- Write the oldest held record, if the queue takes it and its line can be written. -/
def writeErr (s : State) : State :=
  match s.errs.held with
  | [] => s
  | r :: t =>
    if !errqOpen s then s
    else
      let log2 := regField s rPKG_ERRQ_BASE 5 1
      let a := regField s rPKG_ERRQ_BASE 63 12 * 4096 + 32 * (s.errs.tail % 2 ^ log2)
      let bs := errBytes r s.errs.tail log2
      let next (s : State) : State := { s with errs := { s.errs with held := t, tail := (s.errs.tail + 1) % 2 ^ 32 } }
      if bit (regVal s rPKG_ERRQ_BASE) 0 then
        match hostWrite s ⟨whoErrq, 0⟩ a bs with
        | .ok _ s => let s := next s; { s with errs := { s.errs with hostWait := some (lineOf (hostAddr s a)) } }
        | .wait s => s
        | .bad _ _ s => s
      else
        match devWrite s a bs with
        | .ok _ s => errVisible (next s)
        | .wait s => s
        | .bad _ _ s => s

/-- Write held records as far as they go, oldest first. -/
def flushErrs : Nat → State → State
  | 0, s => s
  | n + 1, s => if (writeErr s).errs.held.length < s.errs.held.length then flushErrs n (writeErr s) else writeErr s

/-- Make an error record (R490): held on chip, at most 64, beyond which it is dropped and counted; then written where it can be.
No record is made in fog (R488). -/
def pushErr (s : State) (r : ErrRec) : State :=
  if inFog s then s
  else if s.errs.held.length ≥ 64 then
    setAlert { s with errs := { s.errs with overflow := min (2 ^ 24 - 1) (s.errs.overflow + 1) } } 4
  else flushErrs 65 { s with errs := { s.errs with held := s.errs.held ++ [r] } }

/-- A record of the fields most faults need. -/
def errRec (code reach ctx die unit index : Nat) : ErrRec :=
  ⟨code, reach, false, false, false, ctx, die, unit, index, 0xFFFF, 0, 0⟩

/-! Corrected-error notices (R494). -/

/-- A device increment of a corrected-error counter at `[hi:lo]` of a register, whose owner is `unit`, `index` of `die`. -/
def countCE (s : State) (off hi lo die unit index : Nat) : State :=
  let s := bump s off hi lo
  let k := regField s rPKG_ERRQ_CTRL 17 13
  if k ≠ 0 ∧ regField s off hi lo % 2 ^ k = 0 ∧ !s.errs.noticed.any (fun e => e.1 == 64 * off + lo) then
    let s := { s with errs := { s.errs with noticed := (64 * off + lo, 25000) :: s.errs.noticed } }
    pushErr s { errRec 0x0310 2 0 die unit index with detail := regVal s off }
  else s

/-- A line of a stack's channel, `line` in the channel's own addresses, is read with a correction (R175). -/
def hbmCe (s : State) (stack chan line : Nat) : State :=
  countCE (setField (setField s (rMEM_CE stack) 36 32 chan) (rMEM_CE stack) 62 37 line) (rMEM_CE stack) 31 0 (stack / 2) 6 stack

/-! Contexts, steps and their records. -/

def ctxOf (s : State) (c : Nat) : Ctx := tget Ctx.free s.sched.ctxs c
def setCtx (s : State) (c : Nat) (x : Ctx) : State := { s with sched := { s.sched with ctxs := tset Ctx.free s.sched.ctxs c x } }
def stepOf (s : State) (u : Nat) : Option StepRec := s.sched.steps.find? (fun t => t.uid == u)
def setStep (s : State) (t : StepRec) : State :=
  { s with sched := { s.sched with steps := s.sched.steps.map (fun x => if x.uid = t.uid then t else x) } }
def dropStep (s : State) (u : Nat) : State := { s with sched := { s.sched with steps := s.sched.steps.filter (fun x => x.uid != u) } }
/-- STEPNO for an error record (R489). -/
def stepnoOf (s : State) (c : Nat) : Nat := match stepOfCtx s c with | some t => t.stepno | none => 0xFFFF

/-- The plain report of a status (R324). -/
def Report.status_ (code : Nat) : Report := ⟨code, 0, 0, 0, 0, false⟩

/-- The schedule entry of a context, zero where it holds none (R228). -/
def seOf (s : State) (ctx : Nat) : BitVec 512 := tget 0 s.fixers.entries ctx
def setSe (s : State) (ctx : Nat) (e : BitVec 512) : State := { s with fixers := { s.fixers with entries := tset 0 s.fixers.entries ctx e } }

/-- The descriptor is a STEP of a step that holds an UPDATE op. -/
def ofUpdate (s : State) (d : Desc) : Bool :=
  bits d.word 7 0 == 1 && (match s.sched.model with | some m => m.upds.contains (bits d.word 143 128) | none => false)

/-- A report as the record of its descriptor shows it: UPD, and the context's APPLIED count, of a STEP with an UPDATE, however it ended
(R325, R326). -/
def shownReport (s : State) (ring : Nat) (d : Desc) (r : Report) : Report :=
  if ofUpdate s d then { r with cflags := r.cflags + 16 * b2n (!r.cflags.testBit 4), detail1 := bits (seOf s (ringOf s ring).ctx) 319 256 } else r

/-- Give the descriptor running on a ring its report, if it has none yet. -/
def report (s : State) (ring : Nat) (r : Report) : State :=
  let u := unitOf s ring
  match u.running with
  | some x => if x.report.isNone then setUnit s ring { u with running := some { x with report := some (shownReport s ring x.desc r) } } else s
  | none => s

/-! Cores and core programs. -/

def coreOf (s : State) (c : Nat) : Core := tget Core.fresh s.cores c
def setCore (s : State) (c : Nat) (k : Core) : State := { s with cores := tset Core.fresh s.cores c k }
/-- State of a lane's grain generator as it was last seeded or topped up (R130). -/
def laneGrain (s : State) (core lane : Nat) : BitVec 128 :=
  let k := coreOf s core
  match k.grain.find? (fun e => e.1 == lane) with
  | some e => e.2
  | none => Config.grainSeed (k.seedNo.getD s.seeding) core lane

/-- A core whose generators are seeded now, alone (R130). The number of a seeding is the count of free values used before it. -/
def reseed (s : State) (core : Nat) (k : Core) : State :=
  useFree (setCore s core { k with seeded := true, seedNo := some s.free, grain := [] }) 1

/-- A top-up of a core's generators (R130): 32 fresh bits into each lane's state of that moment. -/
def topUp (s : State) (core : Nat) : State :=
  let lanes : Tbl (BitVec 128) := (List.range 64).map (fun i =>
    (i, Config.grainAt (laneGrain s core i) (Config.freeWord s.free).toNat ^^^
      (((Config.freeWord (s.free + 1 + i)).setWidth 32).setWidth 128 <<< (Config.grainPlace % 97))))
  useFree (setCore s core { coreOf s core with grain := lanes }) 65

/-- State of a fixer lane's generator (R212): fixers are numbered after the cores in the seedings. -/
def fixGrain (s : State) (fixer lane : Nat) : BitVec 128 :=
  match s.fixers.grain.find? (fun e => e.1 == 64 * fixer + lane) with
  | some e => e.2
  | none => Config.grainSeed ((s.fixers.seeds.find? (fun e => e.1 == fixer)).elim s.seeding (·.2)) (1024 + fixer) lane

/-- What a fixer's generators have come to: any number of cycles, and the top-ups of R130, which no command reports; one stands for them
(log entry 111). -/
def fixTopUp (s : State) (fixer : Nat) : State :=
  let lanes : Tbl (BitVec 128) := (List.range 64).map (fun i =>
    (64 * fixer + i, Config.grainAt (fixGrain s fixer i) (Config.freeWord s.free).toNat ^^^
      (((Config.freeWord (s.free + 1 + i)).setWidth 32).setWidth 128 <<< (Config.grainPlace % 97))))
  useFree { s with fixers := { s.fixers with grain := (s.fixers.grain.filter (fun e => e.1 / 64 != fixer)) ++ lanes } } 65

/-- A fixer whose generators are seeded now (R212). -/
def fixReseed (s : State) (fixer : Nat) : State :=
  useFree { s with fixers := { s.fixers with
    seeds := tput s.fixers.seeds fixer s.free, grain := s.fixers.grain.filter (fun e => e.1 / 64 != fixer) } } 1

def perDie (s : State) : Nat := if s.fuses.grade736 then 92 else 100
def coreCount (s : State) : Nat := 8 * perDie s
def dieOf (s : State) (core : Nat) : Nat := core / perDie s

/-- The core program at a place; a whole core's stands in the lower half. -/
def progAt (k : Core) (upper : Bool) : Option Prog := if upper then k.hi else k.lo
def withProg (k : Core) (upper : Bool) (q : Option Prog) : Core := if upper then { k with hi := q } else { k with lo := q }
def progOf (s : State) (p : ProgRef) : Option Prog := progAt (coreOf s p.core) p.upper
def setProg (s : State) (p : ProgRef) (q : Prog) : State := setCore s p.core (withProg (coreOf s p.core) p.upper (some q))

/-- Where a program of a step stands, by step core index. -/
def slotProg (t : StepRec) (sci : Nat) : Option ProgRef := (t.slots[sci]?).map (fun x => ⟨x.1, x.2⟩)

/-- Key of a scratchpad byte in the core's banks (R143): a whole core's offset, or a half's through its eight banks. -/
def spKey (split upper : Bool) (a : Nat) : Nat :=
  if split then (a / 512) * 1024 + ((if upper then 8 else 0) + (a / 64) % 8) * 64 + a % 64 else a

def spRead (k : Core) (upper : Bool) (a n : Nat) : List Byte :=
  (List.range n).map (fun i => tget 0 k.sp (spKey k.split upper (a + i)))

def spWrites (split upper : Bool) : Tbl Byte → Nat → List Byte → Tbl Byte
  | t, _, [] => t
  | t, a, b :: bs => spWrites split upper (tset 0 t (spKey split upper a) b) (a + 1) bs

def spWrite (k : Core) (upper : Bool) (a : Nat) (bs : List Byte) : Core := { k with sp := spWrites k.split upper k.sp a bs }

/-- The scratchpad of a half set to zero (R348). -/
def spScrub (k : Core) (upper : Bool) : Core :=
  { k with sp := if k.split then k.sp.filter (fun e => decide (8 ≤ e.1 / 64 % 16) != upper) else [] }

/-! Engines of a program. -/

def engOf (q : Prog) : Eng → Engine
  | .array => q.arr
  | .vector => q.vec
  | .copy0 => q.cp0
  | .copy1 => q.cp1
  | .offload => q.off

def withEng (q : Prog) (e : Eng) (x : Engine) : Prog :=
  match e with
  | .array => { q with arr := x }
  | .vector => { q with vec := x }
  | .copy0 => { q with cp0 := x }
  | .copy1 => { q with cp1 := x }
  | .offload => { q with off := x }

def allEngs : List Eng := [.array, .vector, .copy0, .copy1, .offload]

/-- Every op dispatched has completed, in every engine (R52, R59). -/
def allDone (q : Prog) : Bool := allEngs.all (fun e => (engOf q e).queue.isEmpty && (engOf q e).run.isEmpty)

/-- No remote transaction of a program's copies is out. -/
def copiesBack (s : State) (p : ProgRef) : Bool :=
  !s.pod.reqs.any (fun r => match r.why with | .rread p' .. => p' == p | .rwrite p' .. => p' == p | _ => false)

/-- No engine stands inside an op (R61): what has left its queue has made its effects, and no transaction of a copy is out (R158). -/
def atBoundary (s : State) (p : ProgRef) (q : Prog) : Bool :=
  copiesBack s p && allEngs.all (fun e => (engOf q e).run.all (fun o => o.phase == .done))

/-! Faults (R27, R61, R346, R485 to R488). -/

/-- A fault charged to a context: its code, where it was found, and what the record and the completion show. -/
structure FaultAt where
  code   : Nat
  ctx    : Nat
  die    : Nat := 15
  unit_  : Nat := 0
  index  : Nat := 0
  half   : Bool := false
  addr   : Option Nat := none
  detail : BitVec 64 := 0
  /-- op index and step core index for DETAIL0 (R326) -/
  idx    : Nat := 0xFFF
  sci    : Nat := 0x7FF
  /-- the ring whose own descriptor met the fault; else it is the step's (R332) -/
  ring   : Option Nat := none

/-- Free a half of a core that held a program: to be scrubbed, or at once (R348, R350); a withdrawal waiting for the program's end
takes effect, and a latched RETURN after it (R351, R363). -/
def settleCore (k : Core) : Core :=
  if k.lo.isNone && k.hi.isNone && !k.scrubLo && !k.scrubHi && k.wdPend
  then { k with wdPend := false, withdrawn := !k.retLatch, retLatch := false, split := false }
  else if k.lo.isNone && k.hi.isNone && !k.scrubLo && !k.scrubHi && k.retLatch then { k with retLatch := false, withdrawn := false }
  else k

def freeHalf (s : State) (p : ProgRef) (scrub : Bool) : State :=
  let k := withProg (coreOf s p.core) p.upper none
  let k := if scrub then (if p.upper then { k with scrubHi := true } else { k with scrubLo := true }) else k
  endHostAt (setCore s p.core (settleCore k)) p

/-- Every placed program with where it stands. -/
def placedProgs (s : State) : List (ProgRef × Prog) :=
  s.cores.flatMap (fun e =>
    (match e.2.lo with | some q => [(⟨e.1, false⟩, q)] | none => []) ++ (match e.2.hi with | some q => [(⟨e.1, true⟩, q)] | none => []))

/-! The end of a step (R60, R229, R325). -/

/-- STATUS of a contact-sheet slot (R498): STATE and CODE. -/
def setCswStatus (s : State) (slot state code : Nat) : State :=
  { s with csw := { s.csw with words := tset 0 s.csw.words (16 * slot) (BitVec.ofNat 32 (fieldAt 31 28 state + fieldAt 15 0 code)) } }

/-- The command of the contact-sheet window ends: DONE, or ERROR with a code (R502, R504, R507). -/
def endCsw (s : State) (slot code : Nat) : State :=
  let s := { s with csw := { s.csw with busy := none } }
  if code = 0 then bump (setCswStatus s slot 3 0) rCSW_STAT 15 0 else bump (setCswStatus s slot 4 code) rCSW_STAT 31 16

/-- An entry as a commit leaves it: APPLIED and ATTEMPTED are written only with WRCNT (R228). -/
def commitSe (old new : BitVec 512) (wrcnt : Bool) : BitVec 512 := if wrcnt then new else setBits new 383 256 (bits old 383 256)

/-- The counters as a step with an UPDATE ends (R229), and then the commits that waited for the end (R228). -/
def endCounts (s : State) (t : StepRec) : State :=
  let e := seOf s t.ctx
  let e := if t.upd then setBits (setBits e 383 320 (bits e 383 320 + 1)) 319 256 (bits e 319 256 + b2n t.applied) else e
  let e := (s.fixers.commits.filter (fun c => c.1 == t.ctx)).foldl (fun e c => commitSe e c.2.1 c.2.2) e
  setSe { s with fixers := { s.fixers with commits := s.fixers.commits.filter (fun c => c.1 != t.ctx), skipped := s.fixers.skipped.filter (· != t.ctx) } }
    t.ctx e

def drainOf (k : Core) (upper : Bool) : DrainTag := if upper then k.drainHi else k.drainLo

/-- A program's SAT and NF indications join its step's (R82). -/
def joinDrain (s : State) (p : ProgRef) (t : StepRec) : StepRec :=
  let d := drainOf (coreOf s p.core) p.upper
  { t with sat := t.sat || d.sat, nf := t.nf || d.nf }

/-- A step with the SAT and NF indications of all its core programs: those that have left their cores, those placed, and those saved
(R82). -/
def withFlags (s : State) (t : StepRec) : StepRec :=
  let t := ((placedProgs s).filter (fun x => x.2.step == t.uid)).foldl (fun t x => joinDrain s x.1 t) t
  { t with sat := t.sat || t.saved.any (·.drain.sat), nf := t.nf || t.saved.any (·.drain.nf) }

/-- The completion of a step: status, flags and loss (R324, R325). UPD and the APPLIED count are those of every STEP (`shownReport`). -/
def stepReport (s : State) (t : StepRec) (status : Nat) (loss : Option (BitVec 32)) : Report where
  status := status
  cflags := 2 * b2n loss.isSome + 4 * b2n (withFlags s t).sat + 8 * b2n (withFlags s t).nf + 32 * b2n t.applied
  loss := loss.getD 0
  detail0 := 0
  detail1 := 0
  norec := false

/-- A step ends without a fault: its counters move, its descriptor has its report or its contact-sheet slot its STATUS. -/
def closeStep (s : State) (t : StepRec) (status : Nat) (loss : Option (BitVec 32)) : State :=
  let s := endCounts s t
  let s := match t.csw with
    | some n => endCsw s n status
    | none => match t.ring with
      | some r => report s r (stepReport s t status loss)
      | none => s
  { dropStep s t.uid with signals := s.signals.filter (fun g => g.step != t.uid) }

/-- Voided steps of which no program is left end with STEP_VOID_MEMBERSHIP (R294). -/
def endVoided (s : State) : State :=
  (s.sched.steps.filter (fun t => t.voided && !(placedProgs s).any (fun x => x.2.step == t.uid))).foldl (fun s t => closeStep s t 0x0401 none) s

/-- A stopped program leaves its core, which is then scrubbed; its indications stay with its step (R61, R82, R89, R346). -/
def leaveCore (s : State) (p : ProgRef) (q : Prog) : State :=
  freeHalf (match stepOf s q.step with | some t => setStep s (joinDrain s p t) | none => s) p true

/-- Stopped programs whose engines stand at their op boundary leave their cores. -/
def settleStopped (s : State) : State :=
  endVoided (((placedProgs s).filter (fun x => x.2.stopped && atBoundary s x.1 x.2)).foldl (fun s x => leaveCore s x.1 x.2) s)

/-- Offloaded ops whose call is abandoned have nothing more to wait for; `keep` names the calls that go on. -/
def dropCalls (keep : Nat → Bool) (q : Prog) : Prog :=
  { q with off := { q.off with run := q.off.run.map (fun o => match o.phase with
      | .called u => if keep u then o else { o with phase := .done }
      | .waiting _ => { o with phase := .done }
      | _ => o) } }

/-- A program stops at its next op boundary (R61). -/
def stopProg (keep : Nat → Bool) (q : Prog) : Prog := { dropCalls keep q with stopped := true, pend := [] }

/-- Remote requests that serve no copy are answered into nothing from now on; those of copies are still waited for (R158). -/
def voidReqs (s : State) (sel : RemReq → Bool) : State :=
  { s with pod := { s.pod with reqs := s.pod.reqs.map (fun r =>
      if sel r then (match r.why with | .rread .. => r | .rwrite .. => r | _ => { r with why := .void }) else r) } }

/-- The loupe, fixer and collective work of a context is abandoned (R201, R235, R286), but for a fixer call that `keep` names. -/
def abandonWork (s : State) (ctx : Nat) (keep : Nat → Bool) : State :=
  let lp (l : Loupe) : Loupe :=
    { queue := l.queue.filter (fun c => c.ctx != ctx)
      run := match l.run with | some r => if r.call.ctx = ctx then none else l.run | none => none }
  let s := { s with loupes := (s.loupes.map (fun (e : Nat × Loupe) => (e.1, lp e.2))).filter (fun (e : Nat × Loupe) => e.2 != Loupe.idle) }
  let fx := s.fixers
  let s := { s with fixers := { fx with
    queue := fx.queue.filter (fun c => c.ctx != ctx)
    run := match fx.run with | some r => if r.call.ctx = ctx && !keep r.call.uid then none else fx.run | none => none } }
  let gone := s.pod.colls.filter (fun (c : Coll) => c.ctx == ctx)
  { s with pod := { s.pod with
      colls := s.pod.colls.filter (fun (c : Coll) => c.ctx != ctx)
      frames := s.pod.frames.filter (fun (f : Frame) => !gone.any (fun (c : Coll) => c.started && c.grp == f.grp && c.cseq == f.cseq)) } }

/-- What a descriptor that a teardown ends has done by then (R325, R326): the flags of its step, the bytes of its COPY, the mismatches
of its SEAL MODE 1. -/
def doneSoFar (s : State) (ring : Nat) (x : Running) (r : Report) : Report :=
  match bits x.desc.word 7 0 with
  | 1 =>
    (match s.sched.steps.find? (fun t => t.ring == some ring) with
     | some t => { stepReport s t r.status none with detail0 := r.detail0 }
     | none => r)
  | 2 => { r with detail0 := 0, detail1 := x.pos }
  | 3 => if bit x.desc.word 256 then { r with detail0 := x.bad % 2 ^ 32, detail1 := x.badAt } else { r with detail0 := 0 }
  | _ => { r with detail0 := 0 }

/-- The code with which the running descriptors of a torn-down context complete (R332, R347). -/
def closeRunning (s : State) (ctx : Nat) (faultRing : Option Nat) (code other d0 : Nat) : State :=
  (s.rings.ctx.filter (fun e => e.2.v && e.2.ctx == ctx)).foldl (fun s e =>
    match (unitOf s e.1).running with
    | some x => report s e.1 (doneSoFar s e.1 x (if faultRing = some e.1 then { Report.status_ code with detail0 := d0 } else Report.status_ other))
    | none => s) s

/-- Begin a teardown (R344, R346): programs stop, work is abandoned, a saved step is discarded with its set, translations, schedule
entry and table registry entries go, and the running descriptors of its rings get their codes. -/
def beginTeardown (s : State) (ctx code other where_ : Nat) (faultRing : Option Nat) : State :=
  let x := ctxOf s ctx
  let s := setCtx s ctx { x with st := .teardown, fault := code, tdRing := faultRing, tdCode := other, tdWhere := where_, faultAt := s.aon.head? }
  let s := closeRunning s ctx faultRing code other where_
  let s := { s with sched := { s.sched with steps := s.sched.steps.filter (fun t => t.ctx != ctx) } }
  let s := (placedProgs s).foldl (fun s e => if e.2.ctx = ctx then setProg s e.1 (stopProg (fun _ => false) e.2) else s) s
  let s := voidReqs (abandonWork s ctx (fun _ => false)) (fun r => r.ctx == ctx)
  let s := flushTlb s (some ctx)
  let s := { s with
    fixers := { s.fixers with entries := tdel s.fixers.entries ctx, commits := s.fixers.commits.filter (fun c => c.1 != ctx), skipped := s.fixers.skipped.filter (· != ctx) }
    tables := s.tables.filter (fun e => bits e.2.entry 13 2 != ctx)
    signals := s.signals.filter (fun g => (stepOf s g.step).isSome) }
  settleStopped s

/-- A step of context 0 run for a contact-sheet command ends with a fault: its slot shows ERROR and the code (R504). -/
def failCsw (s : State) (code : Nat) : State :=
  match s.csw.busy with
  | none => s
  | some n =>
    let s := { s with sched := { s.sched with steps := s.sched.steps.filter (fun t => t.csw.isNone) } }
    let s := (placedProgs s).foldl (fun s e => if e.2.ctx = 0 then setProg s e.1 (stopProg (fun _ => false) e.2) else s) s
    settleStopped (endCsw s n code)

/-- A code that reaches the scheduler in the tick of A0's counter in which the first did, and is lower, counts as first (R488): FAULT, and
the record of the descriptor that ran the step where it is not yet written, name it. -/
def lowerCode (s : State) (f : FaultAt) : State :=
  let x := ctxOf s f.ctx
  if x.faultAt = s.aon.head? ∧ f.code < x.fault ∧ (x.st = .teardown ∨ x.st = .gone) then
    let at_ := f.idx % 4096 + 65536 * (f.sci % 2048)
    let s := setCtx s f.ctx { x with fault := f.code, tdWhere := at_ }
    match x.tdRing with
    | none => s
    | some n =>
      match (unitOf s n).running with
      | some y =>
        match y.report with
        | some r =>
          if r.status = x.fault then
            setUnit s n { unitOf s n with running := some { y with report := some { r with status := f.code, detail0 := if bits y.desc.word 7 0 = 1 then at_ else r.detail0 } } }
          else s
        | none => s
      | none => s
  else s

/-- Charge a fault of reach Context (R485, R488): its record, its alert bits, and the teardown unless one has begun. Context 0 has
no slot to tear down: a contact-sheet step of it ends, and a descriptor of it, which names its ring, is told by its own command (log entry 12). -/
def charge (s : State) (f : FaultAt) : State :=
  let x := ctxOf s f.ctx
  let live := f.ctx ≠ 0 ∧ (x.st = .openS ∨ x.st = .ending)
  let s := pushErr s { errRec f.code 3 f.ctx f.die f.unit_ f.index with
    second := f.ctx != 0 && decide (¬ live), addrv := f.addr.isSome, half := f.half, stepno := stepnoOf s f.ctx
    addr := f.addr.getD 0, detail := f.detail }
  let s := setAlert s 5
  let s := if f.code = 0x0706 then setAlert s 7 else s
  if f.ctx = 0 then (if f.ring.isSome then s else failCsw s f.code)
  else if live then
    beginTeardown s f.ctx f.code 0x0605 (f.idx % 4096 + 65536 * (f.sci % 2048)) (if f.ring.isSome then f.ring else ringOfStep s f.ctx)
  else lowerCode s f

/-- A fault of an op of a core program. -/
def chargeOp (s : State) (p : ProgRef) (q : Prog) (idx code : Nat) (addr : Option Nat := none) (detail : BitVec 64 := 0) : State :=
  charge s { code, ctx := q.ctx, die := dieOf s p.core, unit_ := 1, index := p.core, half := p.upper, addr, detail, idx, sci := q.sci }

/-! Tallies (R44 to R46). -/

def tallyOf (q : Prog) (t : Nat) : Nat := tget 0 q.tallies t

/-- A gated core begins to wake (R454, R455). -/
def wakeGated (s : State) (core : Nat) : State :=
  let k := coreOf s core
  if k.pwr = .gated then setCore s core { k with pwr := .waking false } else s

/-- Add to a tally; a signal that would carry it above 65,535 leaves it and raises TALLY_OVERFLOW (R46). -/
def addTally (s : State) (p : ProgRef) (t n idx : Nat) : State :=
  match progOf s p with
  | none => s
  | some q =>
    if tallyOf q t + n > 65535 then chargeOp s p q idx 0x0111
    else wakeGated (setProg s p { q with tallies := tset 0 q.tallies t (tallyOf q t + n) }) p.core

/-- A signal reaches a program of the step after its END: the tally it left changes, and nothing else (R59); it stays within its 16 bits
(log entry 110). -/
def addEnded (s : State) (x : StepRec) (sci t n : Nat) : State :=
  match x.ended.find? (fun e => e.1 == sci) with
  | none => s
  | some e => setStep s { x with ended := tput x.ended sci (tset 0 e.2 t (min 65535 (tget 0 e.2 t + n))) }

/-- Signal a program of a step by its index. -/
def addTallyOf (s : State) (step sci t n idx : Nat) : State :=
  match stepOf s step with
  | none => s
  | some x =>
    match (slotProg x sci).bind (fun p => (progOf s p).map (fun q => (p, q))) with
    | some (p, q) => if q.step = step ∧ q.sci = sci then addTally s p t n idx else addEnded s x sci t n
    | none => addEnded s x sci t n

/-- The part is serving: READY and not in fog (R384 step 2, R511). -/
def serving (s : State) : Bool := (s.rst.phase == .ready) && !inFog s

/-- A program may act: it is released, not stopped, not ended, its core runs (R58, R61, R354, R454), and the part is serving. -/
def canRun (s : State) (p : ProgRef) : Option Prog :=
  if !serving s || (coreOf s p.core).pwr != .running then none
  else match progOf s p with
    | some q => if q.released && !q.stopped && !q.ended then some q else none
    | none => none

/-- A step's program did something: it is not blocked (R361). -/
def stirStep (s : State) (step : Nat) : State :=
  { s with sched := { s.sched with steps := s.sched.steps.map (fun t => if t.uid = step then { t with quiet := 0 } else t) } }

end Sys2Proof.Machine
end

