-- ==== Sys2Proof/Machine/Sequencer.lean ====
section
/-! DEFINITION. The sequencer of a core program: dispatch, loops, waits, signals, barriers and completion of engine ops (02). -/

namespace Sys2Proof.Machine

/-- The op at the sequencer of a program that may dispatch: it is not held at a STEPBAR (R52). -/
def seqOp (s : State) (p : ProgRef) : Option (Prog × Op) :=
  match canRun s p with
  | some q => if q.atBar then none else (q.ops[q.pc]?).map (fun w => (q, w))
  | none => none

/-- The sequencer's op where it is the CTRL or SYNC op of this class and opcode (R48, R49). -/
def seqIs (s : State) (p : ProgRef) (cls opc : Nat) : Option (Prog × Op) :=
  match seqOp s p with
  | some (q, w) => if opClass w = cls ∧ opOpc w = opc then some (q, w) else none
  | none => none

/-- Store the program and note that its step is not blocked (R361). -/
def putProg (s : State) (p : ProgRef) (q : Prog) : State := stirStep (setProg s p q) q.step

/-- Whether the innermost open loop is in its first, or its last, iteration; true outside every loop (R39, R40). -/
def firstIter (ls : List LoopFrame) : Bool := match ls.getLast? with | some l => l.i == 0 | none => true
def lastIter (ls : List LoopFrame) : Bool := match ls.getLast? with | some l => l.i + 1 == l.count | none => true

/-- An op as it enters its queue: the iteration indices of the open loops, outermost first, and whether its embedded wait and
signal hold in this iteration (R39, R40, R43). -/
def slotFor (q : Prog) (w : Op) : OpSlot where
  word := w
  idx := q.pc
  iters := q.loops.map (·.i)
  waitEn := opWE w && (!opWF w || firstIter q.loops)
  sigEn := opSE w && (!opSL w || lastIter q.loops)
  phase := .queued
  mark := 0
  held := false

/-- OP_DISPATCH (R37): the next op goes to its engine's queue, unless that queue holds 16. -/
def dispatched (s : State) (p : ProgRef) : State :=
  match seqOp s p with
  | none => s
  | some (q, w) =>
    match opEng w with
    | none => s
    | some e =>
      let g := engOf q e
      if g.queue.length ≥ 16 then s
      else putProg s p { withEng q e { g with queue := g.queue ++ [slotFor q w], sent := g.sent + 1 } with pc := q.pc + 1 }

def execOpDispatch (p : ProgRef) (s : State) : Out State := .next (dispatched s p)

/-- NOP (R48): one dispatch cycle. -/
def execNop (p : ProgRef) (s : State) : Out State :=
  match seqIs s p 0 1 with
  | some (q, _) => .next (putProg s p { q with pc := q.pc + 1 })
  | none => .next s

/-- LOOP (R42): opens a loop of CNTM1 + 1 iterations. -/
def execLoop (p : ProgRef) (s : State) : Out State :=
  match seqIs s p 0 2 with
  | some (q, w) => .next (putProg s p { q with pc := q.pc + 1, loops := q.loops ++ [⟨q.pc, ctCNTM1 w + 1, 0⟩] })
  | none => .next s

/-- ENDLOOP (R48): back to the op after the LOOP while iterations remain, else the loop closes. -/
def execEndloop (p : ProgRef) (s : State) : Out State :=
  match seqIs s p 0 3 with
  | some (q, _) =>
    match q.loops.getLast? with
    | some l =>
      if l.i + 1 < l.count
      then .next (putProg s p { q with pc := l.at_ + 1, loops := q.loops.dropLast ++ [{ l with i := l.i + 1 }] })
      else .next (putProg s p { q with pc := q.pc + 1, loops := q.loops.dropLast })
    | none => .next s
  | none => .next s

/-- WAIT (R44, R49): dispatch stands until the tally holds COUNT, which is then subtracted. -/
def execWait (p : ProgRef) (s : State) : Out State :=
  match seqIs s p 1 0 with
  | some (q, w) =>
    if syCOUNT w ≤ tallyOf q (syTALLY w)
    then .next (putProg s p { q with pc := q.pc + 1, tallies := tset 0 q.tallies (syTALLY w) (tallyOf q (syTALLY w) - syCOUNT w) })
    else .next s
  | none => .next s

/-- For each engine that AFTER names, how many of its ops must have completed (R50); none where it is not named. -/
def afterNeed (q : Prog) (after : Nat) : List Nat :=
  ([Eng.array, .vector, .copy0, .copy1, .offload].zip [0, 1, 2, 3, 4]).map
    (fun x => if after.testBit x.2 then (engOf q x.1).sent else 0)

/-- Whether a pending signal's named engines have completed the ops dispatched before it (R50). -/
def sigReady (q : Prog) (g : PendSig) : Bool :=
  (allEngs.zip g.need).all (fun x => decide (x.2 ≤ (engOf q x.1).fin))

/-- Give a signal: to the program's own tally, or on its way to a program of the same step (R50, R51, R19). -/
def giveSig (s : State) (p : ProgRef) (q : Prog) (g : PendSig) : State :=
  match g.target with
  | none => addTally s p g.tally g.count g.idx
  | some t => { s with signals := s.signals ++ [⟨q.step, t, g.tally, g.count, g.idx⟩] }

/-- A SIGNAL or RSIGNAL dispatched (R50, R51): with AFTER 0 given at dispatch, else held pending. -/
def signalOp (s : State) (p : ProgRef) (q : Prog) (w : Op) (target : Option Nat) : State :=
  let g : PendSig := ⟨syTALLY w, syCOUNT w, target, afterNeed q (syAFTER w), q.pc⟩
  let q' := { q with pc := q.pc + 1 }
  if syAFTER w = 0 then giveSig (putProg s p q') p q' g
  else putProg s p { q' with pend := q.pend ++ [g] }

/-- SIGNAL (R50). -/
def execSignal (p : ProgRef) (s : State) : Out State :=
  match seqIs s p 1 1 with
  | some (q, w) => .next (signalOp s p q w none)
  | none => .next s

/-- RSIGNAL (R51). -/
def execRsignal (p : ProgRef) (s : State) : Out State :=
  match seqIs s p 1 2 with
  | some (q, w) => .next (signalOp s p q w (some (syTARGET w)))
  | none => .next s

/-- PENDING_SIGNAL_GIVEN (R50): the oldest pending signal, once its engines have completed. -/
def execPendingSignalGiven (p : ProgRef) (s : State) : Out State :=
  match canRun s p with
  | none => .next s
  | some q =>
    match q.pend with
    | [] => .next s
    | g :: t => if sigReady q g then .next (giveSig (setProg s p { q with pend := t }) p q g) else .next s

/-- REMOTE_SIGNAL_DELIVERY (R19, R51, R59): the `n`-th signal on its way reaches its program's tally. A signal of a step that is
not placed waits for it; of a step that is no more, it is dropped. -/
def execRemoteSignalDelivery (n : Nat) (s : State) : Out State :=
  match s.signals[n]? with
  | none => .next s
  | some g =>
    let s' := { s with signals := s.signals.eraseIdx n }
    match stepOf s g.step with
    | none => .next s'
    | some t => if t.slots = [] then .next s else .next (addTallyOf s' g.step g.target g.tally g.count g.idx)

/-- STEPBAR (R52): the sequencer stops dispatching. -/
def execStepbar (p : ProgRef) (s : State) : Out State :=
  match seqIs s p 1 3 with
  | some (q, _) => .next (putProg s p { q with atBar := true })
  | none => .next s

/-- The places of a step's programs. -/
def stepPlaces (t : StepRec) : List ProgRef := t.slots.map (fun x => ⟨x.1, x.2⟩)

/-- Every program of a step has arrived at its barrier (R52). -/
def allArrived (s : State) (t : StepRec) : Bool :=
  (stepPlaces t).all (fun r => match progOf s r with | some q => q.arrived | none => false)

/-- Release every program of a step from the barrier (R52). -/
def releaseBar (s : State) (t : StepRec) : State :=
  (stepPlaces t).foldl (fun s r => match progOf s r with
    | some q => wakeGated (setProg s r { q with atBar := false, arrived := false, pc := q.pc + 1 }) r.core
    | none => s) s

/-- STEPBAR_ARRIVAL (R52): every earlier op of the program has completed; the last arrival releases the step. -/
def execStepbarArrival (p : ProgRef) (s : State) : Out State :=
  match canRun s p with
  | none => .next s
  | some q =>
    if q.atBar && !q.arrived && allDone q then
      let s := setProg s p { q with arrived := true, bars := q.bars + 1 }
      match stepOf s q.step with
      | some t => .next (if allArrived s t then releaseBar s t else s)
      | none => .next s
    else .next s

/-- OP_COMPLETE (R47, R18): the oldest op of an engine, its effects made, completes and gives its embedded signal (R40). -/
def completeHead (s : State) (p : ProgRef) (e : Eng) : State :=
  match progOf s p with
  | none => s
  | some q =>
    match (engOf q e).run with
    | o :: t =>
      if o.phase = .done then
        let s := putProg s p (withEng q e { engOf q e with run := t, fin := (engOf q e).fin + 1 })
        if o.sigEn then addTally s p (opST o.word) (opSN o.word) o.idx else s
      else s
    | [] => s

def execOpComplete (p : ProgRef) (eng : Eng) (s : State) : Out State :=
  .next (if (canRun s p).isSome then completeHead s p eng else s)

end Sys2Proof.Machine
end

