-- ==== Sys2Proof/Machine/Engines.lean ====
section
/-! DEFINITION. How an engine op starts, ends, is held back or fails, the same for every engine (R37, R38, R40, R44, R61), and what the
hardware's own checks do (R25, R83, R91, R134, R144). -/

namespace Sys2Proof.Machine

/-! Faults that an access met. -/

/-- The value that MEM_UE_LOG captures for an uncorrectable line (R180, R489). -/
def ueCapture (s : State) (line : Nat) : BitVec 64 :=
  let (_, c, l) := place s (line * 64)
  BitVec.ofNat 64 (1 + 8 * c + 256 * (l >>> 6))

/-- ADDR of an error record: for the codes of classes 2 and 3 the address the access met, for class 4 a package id (R489). -/
def accAddr (code addr : Nat) : Option Nat := if 2 ≤ code / 256 ∧ code / 256 ≤ 4 then some addr else none

/-- DETAIL of an error record that no unit's own log gives (R489): the log of the memory or of the host link. -/
def accDetail (s : State) (code addr : Nat) : BitVec 64 :=
  if code = 0x0304 then ueCapture s (lineOf addr) else if code = 0x0706 then regVal s rCXL_LOSS_LOG else 0

/-! Uncorrectable errors shared by contexts (R25). -/

/-- Contexts with work on a die: programs placed there, calls at its two loupes, and, because they span every die, fixer calls and
collectives (R24, R25). -/
def ctxsOnDie (s : State) (die : Nat) : List Nat :=
  let progs := ((placedProgs s).filter (fun x => dieOf s x.1.core == die)).map (fun x => x.2.ctx)
  let lps := ((s.loupes.filter (fun e => e.1 / 2 == die)).flatMap (fun e =>
    e.2.queue.map (·.ctx) ++ (match e.2.run with | some r => [r.call.ctx] | none => [])))
  let fxs := s.fixers.queue.map (·.ctx) ++ (match s.fixers.run with | some r => [r.call.ctx] | none => [])
  let cls := s.pod.colls.map (·.ctx)
  (progs ++ lps ++ fxs ++ cls).foldl (fun l c => insNat c l) []

/-- Mark a die as requiring a die reset (R25), the cause DIEMARK of R516. -/
def markDie (s : State) (die : Nat) : State :=
  raiseEvent { s with rst := { s.rst with dieMark := insNat die s.rst.dieMark } } 4

/-- An uncorrectable error in a die structure that several contexts share: one record and one teardown for each (R25, R487). -/
def sharedError (s : State) (die : Nat) : State :=
  markDie ((ctxsOnDie s die).foldl (fun s c => charge s { code := 0x0305, ctx := c, die }) s) die

/-! What an engine's checks found. -/

/-- Number of an engine among those of its program. -/
def engNo : Eng → Nat
  | .array => 0
  | .vector => 1
  | .copy0 => 2
  | .copy1 => 3
  | .offload => 4

/-- Code of an engine as CPY_SP_UE names it (R159). The table has none for the offload port, and the model shows 7 (log entry 105). -/
def readerOf : Eng → Nat
  | .array => 0
  | .vector => 1
  | .copy0 => 2
  | .copy1 => 3
  | .offload => 7

/-- Count a corrected error in a counter that also shows the latest place at `[hi:lo]`. -/
def countPlace (s : State) (off hi lo v core die : Nat) : State :=
  countCE (setField s off hi lo v) off 31 0 die 1 core

/-- A fault found by a check: the captured value goes to its log if that is free, and to the record (R489). -/
def chargeLog (s : State) (p : ProgRef) (q : Prog) (idx code log : Nat) (cap : BitVec 64) : State :=
  chargeOp (logOnce s log cap) p q idx code none (setBits cap 0 0 1)

/-- ARITH_CHECK of an array op (R91): the chain `i`, the stream row `j`. -/
def arrayCheck (s : State) (p : ProgRef) (q : Prog) (o : OpSlot) (parity : Bool) (i j : Nat) : State :=
  let cap : Nat := 1 + 2 * b2n p.upper + 4 * b2n (arTR o.word) + fieldAt 8 3 i + 512 * b2n (arTR o.word)
    + fieldAt 13 10 (arFMT o.word) + fieldAt 23 14 j + fieldAt 35 24 q.ctx + fieldAt 36 36 (b2n parity)
  chargeLog (bump s (rARR_CHECK_COUNT p.core) 31 0) p q o.idx 0x0303 (rARR_CHECK_LOG p.core) (BitVec.ofNat 64 cap)

/-- ARITH_CHECK of a vector op (R134): the lane `i`, the vector `j`. -/
def vectorCheck (s : State) (p : ProgRef) (q : Prog) (o : OpSlot) (parity : Bool) (i j : Nat) : State :=
  let cap : Nat := 1 + 2 * b2n p.upper + fieldAt 7 2 i + fieldAt 18 8 (veVOP o.word) + fieldAt 30 19 j
    + fieldAt 42 31 q.ctx + fieldAt 43 43 (b2n parity)
  chargeLog (bump s (rVEC_CHECK_COUNT p.core) 31 0) p q o.idx 0x0303 (rVEC_CHECK_LOG p.core) (BitVec.ofNat 64 cap)

/-- An uncorrectable accumulator or tile error (R83): `tile` false or true. -/
def accFault (s : State) (p : ProgRef) (q : Prog) (o : OpSlot) (tile : Bool) (row word : Nat) : State :=
  let cap : Nat := 1 + 2 * b2n tile + 4 * b2n p.upper + fieldAt 12 3 row + fieldAt 17 13 word + fieldAt 29 18 q.ctx
  chargeLog s p q o.idx 0x0305 (rARR_ACC_UE p.core) (BitVec.ofNat 64 cap)

/-- Which of an engine's words, and which of its checks, an op can meet: scratchpad (or, of a partial write, the word it is merged
into, R144), accumulators and tiles (R83), residue and parity (R91, R134). -/
def meetsSp (w : Op) : Bool :=
  match opClass w with
  | 3 => opOpc w == 1 || opOpc w == 3 || opOpc w == 4
  | 4 => !(decide (0x180 ≤ veVOP w) && decide (veVOP w ≤ 0x186))
  | _ => true
def meetsAcc (w : Op) : Bool := opClass w == 3 && ((opOpc w == 3 && arACC w) || opOpc w == 4)
def meetsTile (w : Op) : Bool := opClass w == 3 && opOpc w == 3
def meetsCheck (w : Op) : Bool := (opClass w == 3 && opOpc w == 3) || (opClass w == 4 && decide (veVOP w < 0x180))

/-- The core of a PUT's target, whose own words a partial write there reads and merges (R144). -/
def putTarget (s : State) (q : Prog) (o : OpSlot) : Option ProgRef :=
  if opClass o.word = 2 ∧ opOpc o.word = 3 then (stepOf s q.step).bind (fun t => slotProg t (cpTCORE o.word)) else none

/-- What the checks of an op's engine find: the state once corrected errors are counted, and the first finding that stops the op. A finding
that the op cannot make is no finding. What the way to memory meets is taken before the op (Wires). -/
def hwCheck (s : State) (p : ProgRef) (q : Prog) (e : Eng) (o : OpSlot) : HwErr → State × Option HwErr
  | .none => (s, none)
  | .spCe a =>
    (if meetsSp o.word then countPlace s (rCPY_SP_CE p.core) 49 32 (a / 8) p.core (dieOf s p.core) else s, none)
  | .spUe a => (s, if meetsSp o.word then some (.spUe a) else none)
  | .putCe a =>
    (match putTarget s q o with
     | some r => countPlace s (rCPY_SP_CE r.core) 49 32 (a / 8) r.core (dieOf s r.core)
     | none => s, none)
  | .putUe a => (s, if (putTarget s q o).isSome then some (.putUe a) else none)
  | .accCe row word =>
    (if meetsAcc o.word then countPlace (setField s (rARR_ACC_CE p.core) 41 32 row) (rARR_ACC_CE p.core) 46 42 word p.core (dieOf s p.core) else s, none)
  | .accUe row word => (s, if meetsAcc o.word then some (.accUe row word) else none)
  | .tileUe g => (s, if meetsTile o.word then some (.tileUe g) else none)
  | .check par i j => (s, if meetsCheck o.word then some (.check par i j) else none)
  | .shared die => (s, some (.shared die))
  | .wire _ => (s, none)
  | .memCe _ => (s, none)
  | .memUe _ => (s, none)
  | .dirCe _ => (s, none)
  | .dirUe _ => (s, none)
  | .both a b =>
    match hwCheck s p q e o a with
    | (s, none) => hwCheck s p q e o b
    | x => x

/-- An uncorrectable scratchpad word of a core, logged there and charged to the op whose engine read it (R144, R159). -/
def spFault (s : State) (p : ProgRef) (q : Prog) (o : OpSlot) (core reader a : Nat) : State :=
  let cap : Nat := 1 + fieldAt 18 1 (a / 8) + fieldAt 21 19 reader + fieldAt 33 22 q.ctx
  chargeLog s p q o.idx 0x0305 (rCPY_SP_UE core) (BitVec.ofNat 64 cap)

/-- The fault of a finding that stops an op. -/
def faultOf (s : State) (p : ProgRef) (q : Prog) (e : Eng) (o : OpSlot) : HwErr → State
  | .spUe a => spFault s p q o p.core (readerOf e) a
  | .putUe a => (match putTarget s q o with | some r => spFault s p q o r.core 4 a | none => s)
  | .accUe row word => accFault s p q o false row word
  | .tileUe g => accFault s p q o true 0 g
  | .check par i j => if e = .array then arrayCheck s p q o par i j else vectorCheck s p q o par i j
  | .shared die => sharedError s die
  | _ => s

/-! Starting and ending an op. -/

/-- The embedded wait of an op is satisfied (R40, R44). -/
def waitMet (q : Prog) (o : OpSlot) : Bool := !o.waitEn || decide (opWN o.word ≤ tallyOf q (opWT o.word))

def otherHalf (p : ProgRef) : ProgRef := ⟨p.core, !p.upper⟩

/-- Ops of an engine that have left its queue have made their effects. -/
def engIdle (q : Prog) (e : Eng) : Bool := (engOf q e).run.all (fun o => o.phase == .done)

/-- The engine may start another op: the offload port unless an op of it waits for a place (R57, R217), the others when idle. -/
def engFree (q : Prog) (e : Eng) : Bool := if e = .offload then (engOf q e).run.all (fun o => match o.phase with | .waiting _ => false | _ => true) else engIdle q e

/-- Which half an engine that the halves share served last (R38). -/
def lastHalf (k : Core) : Eng → Bool
  | .vector => k.turnVec
  | .copy0 => k.turnCp0
  | .copy1 => k.turnCp1
  | _ => false

def setLast (k : Core) (e : Eng) (u : Bool) : Core :=
  match e with
  | .vector => { k with turnVec := u }
  | .copy0 => { k with turnCp0 := u }
  | .copy1 => { k with turnCp1 := u }
  | _ => k

def sharedEng : Eng → Bool
  | .vector | .copy0 | .copy1 => true
  | _ => false

/-- Whether the other half lets this half's op start in an engine they share: it has no op in progress there, and it is not its turn
with an op ready (R38). R38 passes over a half whose queue is empty; the model passes over one whose head op waits for its tally too
(log entry 106). -/
def otherLets (s : State) (p : ProgRef) (e : Eng) : Bool :=
  let k := coreOf s p.core
  if !(sharedEng e && k.split) then true
  else match progAt k (!p.upper) with
    | none => true
    | some r =>
      engIdle r e &&
        (match (engOf r e).queue with
         | [] => true
         | o :: _ => !o.held && (lastHalf k e != p.upper || !(waitMet r o && (canRun s (otherHalf p)).isSome)))

/-- An engine's next op is ready and waits on this tally: how much it takes (R44). -/
def readyTake (s : State) (p : ProgRef) (q : Prog) (e : Eng) (t : Nat) : Option Nat :=
  match (engOf q e).queue with
  | o :: _ =>
    if o.waitEn && opWT o.word == t && waitMet q o && engFree q e && otherLets s p e then some (opWN o.word) else none
  | [] => none

/-- The sequencer stands at a WAIT on this tally that is satisfied: how much it takes. -/
def seqTake (q : Prog) (t : Nat) : Option Nat :=
  match q.ops[q.pc]? with
  | some w => if !q.atBar && opClass w == 1 && opOpc w == 0 && syTALLY w == t && decide (syCOUNT w ≤ tallyOf q t) then some (syCOUNT w) else none
  | none => none

/-- Another wait on the op's tally is ready, comes first in the order sequencer, array, vector, copy channel 0, copy channel 1, offload
port, and leaves too little (R44). -/
def outranked (s : State) (p : ProgRef) (q : Prog) (e : Eng) (o : OpSlot) : Bool :=
  let t := opWT o.word
  let firsts := [seqTake q t] ++ (allEngs.take (engNo e)).map (fun d => readyTake s p q d t)
  o.waitEn && firsts.any (fun x => match x with | some n => decide (tallyOf q t < n + opWN o.word) | none => false)

/-- Whether an op word is this opcode of this class. -/
def isOp (cls opc : Nat) (w : Op) : Bool := opClass w == cls && opOpc w == opc

/-- The op at the head of an engine's queue, if it is the op meant, and may start now. -/
def startable (s : State) (p : ProgRef) (e : Eng) (is : Op → Bool) : Option (Prog × OpSlot) :=
  match canRun s p with
  | none => none
  | some q =>
    match (engOf q e).queue with
    | [] => none
    | o :: _ =>
      if is o.word = true ∧ waitMet q o = true ∧ engFree q e = true ∧ otherLets s p e = true ∧ outranked s p q e o = false
      then some (q, o) else none

/-- Replace the head of an engine's queue. -/
def withHead (q : Prog) (e : Eng) (o : OpSlot) : Prog := withEng q e { engOf q e with queue := o :: (engOf q e).queue.tail }

/-- The embedded wait takes its count, once (R44). -/
def takeWait (q : Prog) (e : Eng) (o : OpSlot) : Prog :=
  if o.waitEn then
    { withHead q e { o with waitEn := false } with tallies := tset 0 q.tallies (opWT o.word) (tallyOf q (opWT o.word) - opWN o.word) }
  else q

/-- The op leaves its queue, in this phase. -/
def opDone (s : State) (p : ProgRef) (e : Eng) (ph : OpPhase) : State :=
  match progOf s p with
  | none => s
  | some q =>
    match (engOf q e).queue with
    | [] => s
    | o :: t =>
      let s := setProg s p (withEng q e { engOf q e with queue := t, run := (engOf q e).run ++ [{ o with phase := ph }] })
      setCore s p.core (setLast (coreOf s p.core) e p.upper)

/-- The op stands in its engine and goes on later: something it needs has been asked for. -/
def opHold (s : State) (p : ProgRef) (e : Eng) : State :=
  match progOf s p with
  | none => s
  | some q =>
    match (engOf q e).queue with
    | [] => s
    | o :: _ => setProg s p (withHead q e { o with held := true })

/-- Where an op's effect leaves it. -/
def runEnds (p : ProgRef) (q : Prog) (e : Eng) (o : OpSlot) : Acc OpPhase → State
  | .ok ph t => endHost (opDone t p e ph) (whoOp p (engNo e))
  | .wait t => opHold t p e
  | .bad c a t => chargeOp t p q o.idx c (accAddr c a) (accDetail t c a)

/-- Run the op at the head of an engine: its wait, its checks, its effect, and where it then stands. An op that a finding stops has the
effect that the finding leaves it, which is `eff` of the finding; where that cannot be made at once it has none. -/
def runOp (s : State) (p : ProgRef) (e : Eng) (err : HwErr) (is : Op → Bool) (eff : Option HwErr → State → Prog → OpSlot → Acc OpPhase) : State :=
  match startable s p e is with
  | none => s
  | some (q, o) =>
    let q := takeWait q e o
    let x := hwCheck (setProg s p q) p q e o err
    match x.2 with
    | none => runEnds p q e o (eff none x.1 q o)
    | some f => faultOf (match eff (some f) x.1 q o with | .ok _ t => t | _ => x.1) p q e o f

/-- The effect of an op of which a finding leaves nothing. -/
def whole (eff : State → Prog → OpSlot → Acc OpPhase) (f : Option HwErr) (s : State) (q : Prog) (o : OpSlot) : Acc OpPhase :=
  match f with
  | none => eff s q o
  | some _ => .wait s

end Sys2Proof.Machine
end

