-- ==== Sys2Proof/Machine/MatrixArray.lean ====
section
/-! DEFINITION. The matrix array of a core: tiles, streams, accumulators and their flags (03). -/

namespace Sys2Proof.Machine

/-! Keys of the accumulator file and the tiles. -/

/-- Columns of a program's array half, and the first of them (R87). -/
def arrW (k : Core) : Nat := if k.split then 32 else 64
def arrCol0 (k : Core) (upper : Bool) : Nat := if k.split && upper then 32 else 0

def accKey (row col : Nat) : Nat := row * 64 + col
def rowKey (upper : Bool) (row : Nat) : Nat := 2 * row + b2n upper
def tileKey (upper : Bool) (t : Bool) : Nat := 2 * b2n upper + b2n t

def accOf (k : Core) (row col : Nat) : BitVec 32 := tget 0 k.acc (accKey row col)
def rowTag (k : Core) (upper : Bool) (row : Nat) : RowTag := tget RowTag.clear k.rows (rowKey upper row)
def tileOf (k : Core) (upper : Bool) (t : Bool) : Tile := tget Tile.empty k.tiles (tileKey upper t)
def selOf (k : Core) (upper : Bool) : Bool := if upper then k.selHi else k.selLo
def withSel (k : Core) (upper v : Bool) : Core := if upper then { k with selHi := v } else { k with selLo := v }
def withDrain (k : Core) (upper : Bool) (d : DrainTag) : Core := if upper then { k with drainHi := d } else { k with drainLo := d }
def setRow (k : Core) (upper : Bool) (row : Nat) (g : RowTag) : Core := { k with rows := tset RowTag.clear k.rows (rowKey upper row) g }

/-- Write the entries of a row from a column upward. -/
def setAccs : Tbl (BitVec 32) → Nat → List (BitVec 32) → Tbl (BitVec 32)
  | t, _, [] => t
  | t, a, v :: vs => setAccs (tset 0 t a v) (a + 1) vs

/-! Element groups (R63, R65, R103). -/

/-- K-rows of a tile of a format (R63), and its image's bytes for `w` columns (R65). -/
def tileK (fmt : Nat) : Nat := 16 * cellWeights ((groupOf fmt).getD 0)
def tileBytes (fmt w : Nat) : Nat := tileK fmt * w * elemBits fmt / 8 + (if isMX fmt then tileK fmt / 32 * w else 0)

/-- Elements of one stream row (R65, R84). -/
def rowElems (fmt w : Nat) (tr : Bool) : Nat := if tr then w else tileK fmt
def rowBytes (fmt w : Nat) (tr : Bool) : Nat :=
  rowElems fmt w tr * elemBits fmt / 8 + (if isMX fmt then rowElems fmt w tr / 32 else 0)

/-- The exact value of element `i` of a run laid out as elements then scales, its scale byte at `sc` of the scales (R66, R102). -/
def elemAt (fmt : Nat) (es : List Nat) (scales : List Byte) (i sc : Nat) : Num :=
  match elemFmt fmt with
  | none => .nan
  | some f => if isMX fmt then scaled (decodeElem f (es.getD i 0)) (scales.getD sc 0).toNat else decodeElem f (es.getD i 0)

/-- Weights of a tile: by K-row and column (R103). -/
def tileVals (fmt w : Nat) (img : List Byte) : List (List Num) :=
  let k := tileK fmt
  let nb := k * w * elemBits fmt / 8
  let es := unpack (elemBits fmt) (k * w) (img.take nb)
  let sc := img.drop nb
  (List.range k).map (fun r => (List.range w).map (fun j => elemAt fmt es sc (r * w + j) (r / 32 * w + j)))

/-- Elements of a stream row (R102). -/
def rowVals (fmt n : Nat) (bs : List Byte) : List Num :=
  let nb := n * elemBits fmt / 8
  let es := unpack (elemBits fmt) n (bs.take nb)
  (List.range n).map (fun i => elemAt fmt es (bs.drop nb) i (i / 32))

/-! The chains (R68 to R70, R86). -/

/-- The most significant set bit among the terms' magnitudes, none where all are zero. -/
def topBit : List Num → Option Int
  | [] => none
  | .fin _ m e :: t =>
    let r := topBit t
    if m = 0 then r
    else match r with
      | some x => if x < floorLog2 m e then some (floorLog2 m e) else some x
      | none => some (floorLog2 m e)
  | _ :: t => topBit t

/-- A term's two's-complement value in units of 2^q, rounded toward minus infinity (R68). -/
def windowed (q : Int) : Num → Int
  | .fin s m e =>
    if q ≤ e then scaledInt s m e q
    else (if s then -((m : Nat) : Int) else (m : Int)) / (2 ^ (q - e).toNat : Nat)
  | _ => 0

/-- One cell of a float chain (R68, R70): special values first, else the exact sum within the 48-bit window. -/
def cellSum (terms : List Num) : Num :=
  if terms.any Num.nonFinite then (terms.filter Num.nonFinite).foldl Num.add (.fin false 0 0)
  else match topBit terms with
    | none => .fin false 0 0
    | some top =>
      let q := top - 43
      let v := terms.foldl (fun a t => a + windowed q t) 0
      .fin (decide (v < 0)) v.natAbs q

/-- A float chain: each cell's terms with the sum arriving from the cell before it. -/
def chainFlt (cells : List (List Num)) : Num := cells.foldl (fun p ts => cellSum (ts ++ [p])) (.fin false 0 0)

/-- An integer value that an exact number holds. -/
def Num.toInt : Num → Int
  | .fin s m e => scaledInt s m e 0
  | _ => 0

/-- An integer chain, exact (R69). -/
def chainInt (cells : List (List Num)) : Int := cells.foldl (fun p ts => ts.foldl (fun a t => a + t.toInt) p) 0

/-- The products of each output's chain, cell by cell, for one stream row (R63, R84, R86): columns in normal mode, each array row's
`w` outputs in transposed mode. -/
def chainCells (tr : Bool) (wpc width : Nat) (wt : List (List Num)) (xs : List Num) : List (List (List Num)) :=
  let cellOf (kr j : Nat) : Num := (wt.getD kr []).getD j .nan
  if tr then
    (List.range (16 * wpc)).map (fun kr => (List.range width).map (fun j => [Num.mul (xs.getD j .nan) (cellOf kr j)]))
  else
    (List.range width).map (fun j => (List.range 16).map (fun i =>
      (List.range wpc).map (fun r => Num.mul (xs.getD (wpc * i + r) .nan) (cellOf (wpc * i + r) j))))

/-- What one entry becomes: its new bits, and whether it saturated or is not finite (R68 to R70). -/
def entryNew (isInt add : Bool) (old : BitVec 32) (cells : List (List Num)) : BitVec 32 × Bool × Bool :=
  if isInt then
    let v := chainInt cells + (if add then old.toInt else 0)
    (BitVec.ofInt 32 (clampInt 32 v), v != clampInt 32 v, false)
  else
    let c := chainFlt cells
    let r := if add then Num.add c (ofF32 old.toNat) else c
    let b := toF32 r
    (BitVec.ofNat 32 b, false, (ofF32 b).nonFinite)

/-- One stream row into its accumulator row (R68 to R70, R80, R84), but for the outputs that `hit` names: a row of which every output is
named is left as it is. -/
def streamRow (k : Core) (upper : Bool) (fmt wfmt : Nat) (tr add : Bool) (wt : List (List Num)) (row : Nat) (bs : List Byte) (hit : Nat → Bool) : Core :=
  let w := arrW k
  let isInt := isIntFmt fmt
  let xs := rowVals fmt (rowElems fmt w tr) bs
  let outs := chainCells tr (cellWeights ((groupOf wfmt).getD 0)) w wt xs
  let c0 := arrCol0 k upper
  let res := (List.range outs.length).map (fun j => if hit j then (accOf k row (c0 + j), false, false)
    else entryNew isInt add (accOf k row (c0 + j)) (outs.getD j []))
  let old := rowTag k upper row
  let g : RowTag := ⟨if isInt then 2 else 1, (add && old.sat) || res.any (fun x => x.2.1), (add && old.nf) || res.any (fun x => x.2.2)⟩
  if (List.range outs.length).all hit then k
  else setRow { k with acc := setAccs k.acc (accKey row c0) (res.map (·.1)) } upper row g

/-- Every stream row in order: its index in the stream, its accumulator row and its bytes. -/
def streamRows (upper : Bool) (fmt wfmt : Nat) (tr add : Bool) (wt : List (List Num)) (hit : Nat → Nat → Bool) : Core → List (Nat × List Byte) → Nat → Core
  | k, [], _ => k
  | k, (row, bs) :: t, m => streamRows upper fmt wfmt tr add wt hit (streamRow k upper fmt wfmt tr add wt row bs (hit m)) t (m + 1)

/-- The finding spoils output `j` of stream row `m`: its chain's own mismatch (R91), an accumulator word it would read (R83), a scratchpad word
that its row reads. A tile in error spoils every output. -/
def streamHit (k : Core) (upper : Bool) (w : Op) (pat : SPat) (f : Option HwErr) (m j : Nat) : Bool :=
  match f with
  | none => false
  | some (.check _ i m') => m == m' && (if arTR w then j / cellWeights ((groupOf (arFMT w)).getD 0) == i else j == i)
  | some (.accUe row word) => arAROW w + m == row && (arrCol0 k upper + j) / 2 == word
  | some (.spUe a) =>
    let b := vAddr pat [0, m, 0, 0]
    decide (b / 8 ≤ a / 8) && decide (a / 8 ≤ (b + rowBytes (arFMT w) (arrW k) (arTR w) - 1) / 8)
  | some _ => true

/-! The ops. -/

/-- AZERO (R72): entries, kinds and flags of the rows become zero. -/
def azeroEff (p : ProgRef) (s : State) (_q : Prog) (o : OpSlot) : Acc OpPhase :=
  let k := coreOf s p.core
  let rows := (List.range (arROWS o.word)).map (arAROW o.word + ·)
  .ok .done (setCore s p.core (rows.foldl (fun k r =>
    setRow { k with acc := setAccs k.acc (accKey r (arrCol0 k p.upper)) (List.replicate (arrW k) 0) } p.upper r .clear) k))

def execAzero (p : ProgRef) (err : HwErr) (s : State) : Out State := .next (runOp s p .array err (isOp 3 0) (whole (azeroEff p)))

/-- ALOAD (R72, R75): the image goes into the tile the selector does not name, with its format. -/
def aloadEff (p : ProgRef) (s : State) (q : Prog) (o : OpSlot) : Acc OpPhase :=
  let k := coreOf s p.core
  let pat := spat q (arPAT o.word) (arASI o.word) o.iters
  let img := spRead k p.upper (vAddr pat [0, 0, 0, 0]) (tileBytes (arFMT o.word) (arrW k))
  .ok .done (setCore s p.core { k with
    tiles := tset Tile.empty k.tiles (tileKey p.upper (!selOf k p.upper)) ⟨some (arFMT o.word), img⟩ })

def execAload (p : ProgRef) (err : HwErr) (s : State) : Out State := .next (runOp s p .array err (isOp 3 1) (whole (aloadEff p)))

/-- ASWAP (R72, R73): toggles the selector. -/
def aswapEff (p : ProgRef) (s : State) (_q : Prog) (_o : OpSlot) : Acc OpPhase :=
  let k := coreOf s p.core
  .ok .done (setCore s p.core (withSel k p.upper (!selOf k p.upper)))

def execAswap (p : ProgRef) (err : HwErr) (s : State) : Out State := .next (runOp s p .array err (isOp 3 2) (whole (aswapEff p)))

/-- ASTREAM (R64, R67 to R70, R74, R80): ARR_MISMATCH for an empty tile, a tile of another group, or a row of the other kind. -/
def astreamEff (p : ProgRef) (found : Option HwErr) (s : State) (q : Prog) (o : OpSlot) : Acc OpPhase :=
  let k := coreOf s p.core
  let fmt := arFMT o.word
  let tile := tileOf k p.upper (selOf k p.upper)
  let rows := (List.range (arROWS o.word)).map (arAROW o.word + ·)
  match tile.fmt with
  | none => .bad 0x0110 0 s
  | some wf =>
    if groupOf wf ≠ groupOf fmt then .bad 0x0110 0 s
    else if arACC o.word && rows.any (fun r => (rowTag k p.upper r).kind == (if isIntFmt fmt then 1 else 2)) then .bad 0x0110 0 s
    else
      let pat := spat q (arPAT o.word) (arASI o.word) o.iters
      let n := rowBytes fmt (arrW k) (arTR o.word)
      let data := (List.range (arROWS o.word)).map (fun m => (arAROW o.word + m, spRead k p.upper (vAddr pat [0, m, 0, 0]) n))
      .ok .done (setCore s p.core
        (streamRows p.upper fmt wf (arTR o.word) (arACC o.word) (tileVals wf (arrW k) tile.img) (streamHit k p.upper o.word pat found) k data 0))

def execAstream (p : ProgRef) (err : HwErr) (s : State) : Out State := .next (runOp s p .array err (isOp 3 3) (astreamEff p))

/-- ARR_DRAIN_FLAGS after a row is read (R82). -/
def drainSee (d : DrainTag) (g : RowTag) (row : Nat) : DrainTag :=
  let d := if g.sat && !d.sat then { d with sat := true, satRow := row } else d
  if g.nf && !d.nf then { d with nf := true, nfRow := row } else d

/-- ADRAIN (R72, R81, R82): the raw entries of each row go to scratchpad in ascending columns, and its flags to ARR_DRAIN_FLAGS. The two
entries of an accumulator word in error are not written. -/
def adrainEff (p : ProgRef) (found : Option HwErr) (s : State) (q : Prog) (o : OpSlot) : Acc OpPhase :=
  let k := coreOf s p.core
  let pat := spat q (arPAT o.word) (arASI o.word) o.iters
  let c0 := arrCol0 k p.upper
  let bad (row j : Nat) : Bool := match found with | some (.accUe r w) => r == row && w == (c0 + j) / 2 | _ => false
  let drained := setCore s p.core ((List.range (arROWS o.word)).foldl (fun k m =>
    let row := arAROW o.word + m
    let a := vAddr pat [0, m, 0, 0]
    let bs := (List.range (arrW k)).flatMap (fun j =>
      if bad row j then spRead k p.upper (a + 4 * j) 4 else leBytes 4 (accOf k row (c0 + j)).toNat)
    let k := spWrite k p.upper a bs
    withDrain k p.upper (drainSee (drainOf k p.upper) (rowTag k p.upper row) row)) k)
  match found with
  | none => .ok .done drained
  | some (.accUe ..) => .ok .done drained
  | some _ => .wait s

def execAdrain (p : ProgRef) (err : HwErr) (s : State) : Out State := .next (runOp s p .array err (isOp 3 4) (adrainEff p))

end Sys2Proof.Machine
end

