-- ==== Sys2Proof/Machine/StepEnd.lean ====
section
/-! DEFINITION. The end of a core program and of its step (R59, R60), with the work of a contact-sheet command's step (R499, R503). -/

namespace Sys2Proof.Machine

/-! Contact-sheet commands (21). -/

/-- Word `w` of the command in progress, 1 to 9. -/
def cswWord (s : State) (w : Nat) : Nat := (s.csw.cmd.getD (w - 1) 0).toNat
/-- A 64-bit field of the command: the more significant word first (R498). -/
def cswPair (s : State) (w : Nat) : Nat := cswWord s w * 2 ^ 32 + cswWord s (w + 1)
/-- PPA of an offset into the spread window (R499). -/
def cswPpa (s : State) (off : Nat) : Nat := 16 * nearN s + off

/-- Insert by key, smallest first. -/
def insKey (x : Nat × Nat) : List (Nat × Nat) → List (Nat × Nat)
  | [] => [x]
  | y :: t => if x.1 < y.1 then x :: y :: t else y :: insKey x t

/-- The order in which a GEMM's tiles of 16 K-rows are summed: the spec gives none, so it is free (log entry 15). -/
def tileOrder (s : State) (n : Nat) : List Nat :=
  (((List.range n).map (fun i => ((Config.freeWord (s.free + i)).toNat, i))).foldl (fun l x => insKey x l) []).map (·.2)

/-- One element of C: the array's sums of R68 and R70 over the tiles in their order, from a zeroed accumulator. -/
def gemmElem (order : List Nat) (a b : List Num) : BitVec 32 :=
  order.foldl (fun acc t => (entryNew false true acc
    ((List.range 16).map (fun i => [Num.mul (a.getD (16 * t + i) .nan) (b.getD (16 * t + i) .nan)]))).1) 0

/-- C of A (M × K) and B (K × N), as bytes (R499). -/
def gemmBytes (order : List Nat) (m n k : Nat) (a b : List Num) : List Byte :=
  let cols := (List.range n).map (fun j => (List.range k).map (fun r => b.getD (r * n + j) .nan))
  (List.range m).flatMap (fun i =>
    let row := (a.drop (i * k)).take k
    cols.flatMap (fun c => leBytes 4 (gemmElem order row c).toNat))

/-- The work of a COPY, FILL or GEMM of the window, through the homes (R499, R502, R503). -/
def cswWork (s : State) : Acc Unit :=
  let op := cswWord s 1 >>> 24
  if op = 1 then
    (devRead s (cswPpa s (cswPair s 2)) (cswPair s 6)).bind (fun bs s => devWrite s (cswPpa s (cswPair s 4)) bs)
  else if op = 2 then
    let v := leBytes 4 (cswWord s 8)
    devWrite s (cswPpa s (cswPair s 4)) ((List.range (cswPair s 6)).map (fun i => v.getD ((cswPair s 4 + i) % 4) 0))
  else
    let m := 64 * ((cswWord s 8 >>> 20) % 4096)
    let n := 64 * ((cswWord s 8 >>> 8) % 4096)
    let k := 64 * (cswWord s 8 % 256)
    (devRead s (cswPpa s (cswPair s 2)) (2 * m * k)).bind (fun a s =>
      (devRead s (cswPpa s (cswPair s 6)) (2 * k * n)).bind (fun b s =>
        (devWrite s (cswPpa s (cswPair s 4)) (gemmBytes (tileOrder s (k / 16)) m n k (rowVals 0 (m * k) a) (rowVals 0 (k * n) b))).bind
          (fun _ s => .ok () (useFree s (k / 16)))))

/-! END (R59, R60). -/

/-- A core program ends: its SAT and NF indications join the step's (R82), and it leaves its core (R351). -/
def endOne (s : State) (p : ProgRef) (t : StepRec) : State :=
  let left := match progOf s p with | some q => tput t.ended q.sci q.tallies | none => t.ended
  freeHalf (setStep s { joinDrain s p t with endedN := t.endedN + 1, ended := left, quiet := 0 }) p false

/-- What the end of a step still needs: its loss (R60), or the work of its contact-sheet command. -/
def lastWork (s : State) (t : StepRec) : Acc (Option (BitVec 32)) :=
  match t.csw with
  | some _ => (cswWork s).bind (fun _ s => .ok none s)
  | none => (cvaRead s ⟨whoSched, t.ctx⟩ t.loss 4 false).bind (fun bs s => .ok (some (BitVec.ofNat 32 (leNat bs))) (endHost s whoSched))

/-- A fault that no single op raises, charged to a step's context (R326). -/
def chargeStep (s : State) (ctx code addr : Nat) : State :=
  charge s { code, ctx, addr := accAddr code addr, detail := accDetail s code addr }

/-- The last core program has ended: the step ends, with the loss, or with the fault its read meets. -/
def endStep (s : State) (p : ProgRef) (t : StepRec) : State :=
  match lastWork s t with
  | .wait s => s
  | .bad c a s => chargeStep (endOne s p t) t.ctx c a
  | .ok l s =>
    let s := endOne s p t
    match stepOf s t.uid with
    | some t => if t.nonfin then closeStep s t 0x0601 l else closeStep s t 0 l
    | none => s

/-- END (R59): the core program ends, and with the last of them its step (R60). -/
def execEndProg (p : ProgRef) (s : State) : Out State :=
  match seqIs s p 0 0 with
  | none => .next s
  | some (q, _) =>
    if allDone q && q.pend.isEmpty then
      match stepOf s q.step with
      | none => .next (freeHalf s p false)
      | some t => .next (if t.endedN + 1 = t.nprog then endStep s p t else endOne s p t)
    else .next s

end Sys2Proof.Machine
end

