-- ==== Sys2Proof/Machine/Scheduler.lean ====
section
/-! DEFINITION. The package scheduler (13): placement, release, pre-emption and darkslides, block swaps, teardown, scrubs, the ending of
contexts, and the power of cores (R454, R455). -/

namespace Sys2Proof.Machine

/-! The resident model image (R337 to R340). -/

/-- The package is Lit: engines that the package starts by itself may work (R456). -/
def awake (s : State) : Bool := s.pwr.st == 0 && s.pwr.entering.isNone && !s.pwr.waking

/-- A wake event (R460): it ends an entry, or starts the wake from a sleeping state; from Dark only where `dark` says so. An entry into
Dark whose DARK notices are sent runs to its end first. -/
def wakeBy (dark : Bool) (s : State) : State :=
  let w := s.pwr
  match w.entering with
  | some _ =>
    if w.darkSent then { s with pwr := { w with waking := true } }
    else bump { s with pwr := { w with entering := none, waking := true, wakeAt := none } } rPWR_COUNTS 63 56
  | none => if w.st = 0 ∨ (w.st = 3 ∧ dark = false) then s else { s with pwr := { w with waking := true, wakeAt := none } }

/-- Bytes of the model image, through the page tables of context 0 (R337). -/
def imageRead (s : State) (m : Model) (off n : Nat) : Acc (List Byte) := cvaRead s ⟨whoSched, 0⟩ (m.cva + off) n false

/-- Chunks of `k` bytes, as words of `w` bits. -/
def chunks (w k : Nat) : Nat → List Byte → List (BitVec w)
  | 0, _ => []
  | n + 1, bs => BitVec.ofNat w (leNat (bs.take k)) :: chunks w k n (bs.drop k)

/-- Step-table entry (R340). -/
def stepEntry (s : State) (m : Model) (stepno : Nat) : Acc (BitVec 512) :=
  (imageRead s m (m.stepOff + 64 * stepno) 64).bind (fun bs s => .ok (BitVec.ofNat 512 (leNat bs)) s)

/-- Program record of a step's entry (R340). -/
def progRec (s : State) (m : Model) (ent : BitVec 512) (i : Nat) : Acc (BitVec 256) :=
  (imageRead s m (bits ent 191 128 + 32 * i) 32).bind (fun bs s => .ok (BitVec.ofNat 256 (leNat bs)) s)

/-- Op words, pattern store and step table of a program record (R340). -/
def loadParts (s : State) (m : Model) (r : BitVec 256) : Acc (List (BitVec 128) × List (BitVec 256) × List (BitVec 128)) :=
  let no := bits r 75 64 + 1
  let np := bits r 83 76 + 1
  let ns := bits r 89 84 + 1
  (imageRead s m (bits r 63 0) (16 * no)).bind (fun a s =>
    (imageRead s m (bits r 191 128) (32 * np)).bind (fun b s =>
      (imageRead s m (bits r 255 192) (16 * ns)).bind (fun c s => .ok (chunks 128 16 no a, chunks 256 32 np b, chunks 128 16 ns c) s)))

/-! Placement (R350). -/

/-- A die or block reset that holds a core: kind 0 a die, kind 1 a core (R441). -/
def coreInReset (s : State) (c : Nat) : Bool :=
  match s.rst.block with
  | some (0, d) => dieOf s c == d
  | some (1, k) => c == k
  | _ => false

/-- A core that placement may use: not withdrawn, its die not marked, no reset holding it (R25, R350, R362). -/
def usableCore (s : State) (c : Nat) : Bool :=
  !(coreOf s c).withdrawn && !s.rst.dieMark.contains (dieOf s c) && !coreInReset s c

/-- A place counts as empty: it holds no program, or a victim's. -/
def emptyPlace (freed : List ProgRef) (k : Core) (p : ProgRef) : Bool := (progAt k p.upper).isNone || freed.contains p

/-- A whole core is free when neither half holds a program and none is being scrubbed (R350). -/
def wholeFree (s : State) (freed : List ProgRef) (c : Nat) : Bool :=
  let k := coreOf s c
  emptyPlace freed k ⟨c, false⟩ && emptyPlace freed k ⟨c, true⟩ && !k.scrubLo && !k.scrubHi

/-- A half is free when it holds none and the other half holds no whole-core program (R350). -/
def halfFree (s : State) (freed : List ProgRef) (c : Nat) (u : Bool) : Bool :=
  let k := coreOf s c
  if k.split then emptyPlace freed k ⟨c, u⟩ && !(if u then k.scrubHi else k.scrubLo)
  else emptyPlace freed k ⟨c, false⟩ && !k.scrubLo

/-- First-free placement of `n` programs over `fuel` cores from `c` (the loop of R350). -/
def placeScan (s : State) (split : Bool) (freed : List ProgRef) : Nat → Nat → Nat → Option (List (Nat × Bool))
  | _, _, 0 => some []
  | 0, _, _ + 1 => none
  | f + 1, c, n + 1 =>
    if !usableCore s c then placeScan s split freed f (c + 1) (n + 1)
    else if !split then
      if wholeFree s freed c then (placeScan s split freed f (c + 1) n).map ((c, false) :: ·)
      else placeScan s split freed f (c + 1) (n + 1)
    else
      let hs := ([false, true].filter (halfFree s freed c)).take (n + 1)
      (placeScan s split freed f (c + 1) (n + 1 - hs.length)).map (hs.map (fun u => (c, u)) ++ ·)

/-- Programs of a step that are still to run: those not ended before a save. -/
def liveProgs (t : StepRec) : List Nat :=
  if t.saved = [] then List.range t.nprog else (t.saved.filter (fun x => !x.ended)).map (·.sci)

/-- Slots for a step, if it fits (R350). -/
def placeFor (s : State) (t : StepRec) (freed : List ProgRef) : Option (List (Nat × Bool)) :=
  let n := (liveProgs t).length
  match t.aff with
  | some d => placeScan s t.split freed (perDie s) (d * perDie s) n
  | none => placeScan s t.split freed (coreCount s) 0 n

/-- Whether one waiting step comes before another (R350). -/
def before (a b : StepRec) : Bool := decide (a.cls < b.cls) || (decide (a.cls = b.cls) && decide (a.first < b.first))

def insStep (t : StepRec) : List StepRec → List StepRec
  | [] => [t]
  | x :: l => if before t x then t :: x :: l else x :: insStep t l

/-- The order of waiting steps, saved ones included (R350); a command of the contact-sheet window does not start while a change of
membership waits (R296). -/
def waitOrder (s : State) : List StepRec :=
  (s.sched.steps.filter (fun t => (t.st == .waiting || t.st == .saved) && !t.voided && !(t.csw.isSome && s.pod.holdSteps))).foldl (fun l t => insStep t l) []

/-- A program as placement sets it up: nothing loaded yet, tallies and masks zero, no barrier reached (R58, R122). -/
def freshProg (t : StepRec) (sci : Nat) : Prog where
  step := t.uid
  sci := sci
  ctx := t.ctx
  ops := []
  pats := []
  strides := []
  pc := 0
  loops := []
  arr := .empty
  vec := .empty
  cp0 := .empty
  cp1 := .empty
  off := .empty
  pend := []
  tallies := []
  masks := List.replicate 8 0
  bars := 0
  atBar := false
  arrived := false
  released := false
  ended := false
  stopped := false

/-- Columns, rows, tiles and selector of a half or whole core zero (R89). -/
def zeroArray (k : Core) (upper : Bool) : Core :=
  let mine (h : Nat) : Bool := !k.split || decide (h = b2n upper)
  { k with
    acc := k.acc.filter (fun e => !mine (e.1 % 64 / 32))
    rows := k.rows.filter (fun e => !mine (e.1 % 2))
    tiles := k.tiles.filter (fun e => !mine (e.1 / 2))
    selLo := if mine 0 then false else k.selLo
    selHi := if mine 1 then false else k.selHi }

/-- The same with the drain flags: a half or whole core as every step starts with it (R74, R79, R94). -/
def clearArray (k : Core) (upper : Bool) : Core :=
  let k := zeroArray k upper
  { k with
    drainLo := if k.split && upper then k.drainLo else .clear
    drainHi := if k.split && !upper then k.drainHi else .clear }

/-- A placed program's scratchpad is zero where another context's step held it last (R348). -/
def claimCore (k : Core) (upper : Bool) (ctx : Nat) : Core :=
  if k.split then
    let k := if (if upper then k.ctxHi else k.ctxLo) = ctx then k else spScrub k upper
    if upper then { k with ctxHi := ctx } else { k with ctxLo := ctx }
  else
    let k := if k.ctxLo = ctx ∧ k.ctxHi = ctx then k else spScrub k upper
    { k with ctxLo := ctx, ctxHi := ctx }

/-- Placement wakes a core that is gated or off (R454). -/
def wakeFor (k : Core) : Core :=
  match k.pwr with
  | .gated => { k with pwr := .waking false }
  | .off => { k with pwr := .waking true }
  | _ => k

/-- Give one program its slot. -/
def giveSlot (t : StepRec) (s : State) (x : Nat × Nat × Bool) : State :=
  let k := { coreOf s x.2.1 with split := t.split }
  let k := wakeFor (clearArray (claimCore k x.2.2 t.ctx) x.2.2)
  setCore s x.2.1 (withProg k x.2.2 (some (freshProg t x.1)))

/-- Slots by step core index: a program that had ended before a save keeps no slot of its own, and is at no place. -/
def slotTable (t : StepRec) (xs : List (Nat × Bool)) : List (Nat × Nat × Bool) := (liveProgs t).zip xs

/-- Place a step (R350): all its programs at once. -/
def placeStep (s : State) (t : StepRec) (xs : List (Nat × Bool)) : State :=
  let tab := slotTable t xs
  let slots := (List.range t.nprog).map (fun i => match tab.find? (fun x => x.1 == i) with | some x => x.2 | none => (coreCount s, false))
  let s := setStep s { t with slots := slots, st := if t.st = .saved then .restored else .placed, placedAt := s.sched.stamp, quiet := 0 }
  tab.foldl (giveSlot t) { s with sched := { s.sched with stamp := s.sched.stamp + 1 } }

/-! Pre-emption (R353 to R355). -/

/-- Sets that no step holds (R358). -/
def freeSets (s : State) : List Nat := (List.range (dsSets s)).filter (fun k => !s.sched.steps.any (fun t => t.set == some k))

/-- The places of a step's live programs. -/
def livePlaces (s : State) (t : StepRec) : List ProgRef := ((placedProgs s).filter (fun x => x.2.step == t.uid)).map (·.1)

/-- Whether `a` is taken as a victim before `b`: lowest class first, then by `key`, largest first. -/
def insVictim (key : StepRec → Nat) (t : StepRec) : List StepRec → List StepRec
  | [] => [t]
  | x :: l => if x.cls < t.cls ∨ (x.cls = t.cls ∧ key x < key t) then t :: x :: l else x :: insVictim key t l

/-- Steps that hold cores. -/
def onCores (t : StepRec) : Bool := t.st != .waiting && t.st != .saved

/-- Add candidates one at a time until the step fits (R353). -/
def victimSet (s : State) (t : StepRec) : List StepRec → List StepRec → Option (List StepRec)
  | _, [] => none
  | acc, v :: l =>
    let acc := acc ++ [v]
    if (placeFor s t (acc.flatMap (livePlaces s))).isSome then some acc else victimSet s t acc l

/-- A victim's sequencers stop, and it has its darkslide set; a step already being saved, or holding a set still, takes none. -/
def markVictim (s : State) (v : StepRec) : State :=
  match stepOf s v.uid with
  | none => s
  | some t =>
    if t.st = .saving then s
    else
      let set := match t.set with | some k => some k | none => (freeSets s).head?
      let s := setStep s { t with st := .saving, set := set }
      (livePlaces s t).foldl (fun s p => match progOf s p with | some q => setProg s p { q with released := false } | none => s) s

/-- Pre-empt for a step, by candidates in order: nothing where they do not suffice or sets are short (R353). -/
def preemptFor (s : State) (t : StepRec) (cands : List StepRec) : State :=
  match victimSet s t [] cands with
  | none => s
  | some vs =>
    if (vs.filter (fun v => v.set.isNone)).length ≤ (freeSets s).length then vs.foldl markVictim s else s

/-- Candidates of R353: placed steps of a lower class than `cls` that may be victims, the latest placed first within a class. -/
def victimsOf (s : State) (cls : Nat) : List StepRec :=
  (s.sched.steps.filter (fun t => onCores t && t.csw.isNone && !t.voided && decide (cls < t.cls))).foldl (fun l t => insVictim (·.placedAt) t l) []

/-- Place the steps of the order in turn, up to the first that does not fit (R350). -/
def placeAll : Nat → State → State
  | 0, s => s
  | n + 1, s =>
    match waitOrder s with
    | [] => s
    | t :: _ =>
      match placeFor s t [] with
      | some xs => placeAll n (placeStep s t xs)
      | none => if t.cls = 0 then preemptFor s t (victimsOf s 0) else s

/-- Steps may start: the part serves, is Lit, and holds no stale incarnation (R27, R293). -/
def stepsGo (s : State) : Bool := serving s && awake s && !s.pod.stale

/-- PLACEMENT (R350, R353): waiting steps are placed in order, all or none each; an urgent one at the head that does not fit pre-empts. -/
def execPlacement (s : State) : Out State :=
  .next (if stepsGo s then placeAll (s.sched.steps.length + 1) s else s)

/-- PREEMPT_PATIENCE_EXPIRY (R353): a high step at the head that has waited PREEMPT_PATIENCE pre-empts. -/
def execPreemptPatienceExpiry (s : State) : Out State :=
  .next (if stepsGo s then
    match waitOrder s with
    | t :: _ =>
      if t.cls = 1 ∧ regField s rSCH_OPT 31 0 ≤ t.waited ∧ placeFor s t [] = none then preemptFor s t (victimsOf s 1) else s
    | [] => s
  else s)

/-- BLOCK_SWAP_EXPIRY (R361): every placed step has been blocked for BLOCK_SWAP ticks and the head does not fit. -/
def execBlockSwapExpiry (s : State) : Out State :=
  .next (if stepsGo s then
    let on := s.sched.steps.filter onCores
    match waitOrder s with
    | t :: _ =>
      if on ≠ [] ∧ on.all (fun x => decide (regField s rSCH_OPT 63 32 ≤ x.quiet)) = true ∧ placeFor s t [] = none
      then preemptFor s t ((on.filter (fun x => x.csw.isNone && !x.voided)).foldl (fun l x => insVictim (·.quiet) x l) [])
      else s
    | [] => s
  else s)

/-! Darkslides (R358 to R360). -/

/-- Enabled positions of a die in ascending strip, and within a strip in ascending position (R22). -/
def enabledPos (strips : List (BitVec 8)) : List Nat :=
  (List.range (8 * strips.length)).filter (fun i => (strips.getD (i / 8) 0).getLsbD (i % 8))

/-- Physical position of a core among the 8 · 104 of the package. -/
def physPos (s : State) (core : Nat) : Nat :=
  104 * dieOf s core + nth (enabledPos (s.fuses.strips.getD (dieOf s core) [])) (core % perDie s)

def setBase (k : Nat) : Nat := 0x1FF40000000 - (k + 1) * 2 * gib
def slotBase (s : State) (k core : Nat) : Nat := setBase k + 0x260000 * physPos s core
def headerBase (k : Nat) : Nat := setBase k + 0x7B800000

/-- Bytes of a slot that are not zero: scratchpad, accumulators, tiles and row tags, by their offset (R359). -/
def slotCells (k : Core) (upper : Bool) : List (Nat × List Byte) :=
  let h := b2n upper
  let mine (i : Nat) : Bool := !k.split || decide (i = h)
  let sp := k.sp.filterMap (fun e =>
    if !k.split then some (e.1, [e.2])
    else if mine (e.1 / 64 % 16 / 8) then some (0x100000 * h + e.1 / 1024 * 512 + (e.1 / 64 % 8) * 64 + e.1 % 64, [e.2]) else none)
  let acc := k.acc.filterMap (fun e => if mine (e.1 % 64 / 32) then some (0x200000 + 4 * e.1, leBytes 4 e.2.toNat) else none)
  let tiles := k.tiles.filterMap (fun e => if mine (e.1 / 2) then some (0x240000 + 0x1000 * (e.1 % 2) + 0x800 * (e.1 / 2), e.2.img) else none)
  let rows := (List.range 1024).filterMap (fun r =>
    let nib (h i : Nat) : Nat := let g := tget RowTag.clear k.rows (2 * i + h); g.kind + 4 * b2n g.sat + 8 * b2n g.nf
    let b := nib (r / 512) (2 * (r % 512)) + 16 * nib (r / 512) (2 * (r % 512) + 1)
    if b ≠ 0 ∧ mine (r / 512) = true then some (0x242000 + r, [BitVec.ofNat 8 b]) else none)
  sp ++ acc ++ tiles ++ rows

/-- Bytes the spec gives no layout for: the control block (R359) and the set header's records (R360) (log entry 16). -/
def freeBytes (s : State) (n : Nat) : List Byte := (List.range n).map (fun i => ((Config.freeWord (s.free + i)).setWidth 8))

/-- Offsets and lengths of the parts of a slot that a whole core or a half writes (R359). -/
def slotParts (split upper : Bool) : List (Nat × Nat) :=
  if !split then [(0, 0x242000), (0x242000, 0x400), (0x242400, 0x2000)]
  else
    let h := b2n upper
    [(0x100000 * h, 0x100000)] ++ (List.range 1024).map (fun r => (0x200000 + 256 * r + 128 * h, 128)) ++
      [(0x240000 + 0x800 * h, 0x800), (0x241000 + 0x800 * h, 0x800), (0x242000 + 0x200 * h, 0x200), (0x242400 + 0x2000 * h, 0x2000)]

/-- A range of memory becomes zero: bytes and poison, and every copy of its lines. -/
def wipe (s : State) (a n : Nat) : State :=
  let inR (l : Nat) : Bool := decide (lineOf a ≤ l) && decide (l * 64 < a + n)
  let held := (s.coh.dir.filter (fun e => inR e.1)).map (·.1)
  let s := held.foldl invalidate s
  { s with mem := s.mem.filter (fun e => !(decide (a ≤ e.1) && decide (e.1 < a + n)))
           poison := s.poison.filter (fun e => !(inR e.1 && decide (a ≤ e.1 * 64) && decide (e.1 * 64 + 64 ≤ a + n))) }

/-- Lines of a range that the host may hold, or that are in service: asked for first. -/
def readyRange (s : State) (a n : Nat) : Option State :=
  let ls := (s.coh.dir.map (·.1) ++ s.coh.homes.map (·.1)).filter (fun l => decide (lineOf a ≤ l) && decide (l * 64 < a + n))
  readyLines s true ls

def blocksIn (a n : Nat) : List Nat := blocksOf a n

/-- Write one program's slot, with its edge codes (R354 step 4, R359). -/
def writeSlot (s : State) (set : Nat) (p : ProgRef) : State :=
  let k := coreOf s p.core
  let b := slotBase s set p.core
  let s := (slotParts k.split p.upper).foldl (fun s x => wipe s (b + x.1) x.2) s
  let s := (slotCells k p.upper).foldl (fun s x => memWrite s (b + x.1) x.2) s
  let s := useFree (memWrite s (b + 0x242400 + 0x2000 * b2n (k.split && p.upper)) (freeBytes s 0x2000)) 0x2000
  sealBlocks s (blocksIn b 0x246400)

/-- Bytes of the set header that a save writes: the step record and a record for each program (R360). -/
def headerLen (t : StepRec) : Nat := 4096 + 64 * t.nprog

def writeHeader (s : State) (set : Nat) (t : StepRec) : State :=
  let b := headerBase set
  let s := wipe s b (headerLen t)
  sealBlocks (useFree (memWrite s b (freeBytes s (headerLen t))) (headerLen t)) (blocksIn b (headerLen t))

/-- PREEMPT_ABORT (R357): logged, and charged to the step's context. -/
def preemptAbort (s : State) (ctx : Nat) (restore : Bool) (ppa : Nat) : State :=
  let cap : BitVec 64 := BitVec.ofNat 64 (2 * b2n restore + fieldAt 30 2 (ppa >>> 12) + fieldAt 42 31 ctx)
  charge (logOnce s rSCH_ABORT_LOG cap) { code := 0x0604, ctx, detail := setBits cap 0 0 1 }

/-- Every op whose effects are made completes, with its embedded signal (R354 step 4). -/
def flushRuns (s : State) (p : ProgRef) : State :=
  allEngs.foldl (fun s e => match progOf s p with
    | some q => (List.range (engOf q e).run.length).foldl (fun s _ => completeHead s p e) s
    | none => s) s

/-- Pending signals whose engines have completed are given, in order. -/
def flushPend : Nat → State → ProgRef → State
  | 0, s, _ => s
  | n + 1, s, p =>
    match progOf s p with
    | some q =>
      (match q.pend with
       | g :: t => if sigReady q g then flushPend n (giveSig (setProg s p { q with pend := t }) p q g) p else s
       | [] => s)
    | none => s

/-- Signals on their way between programs of a step arrive. -/
def flushRemote (s : State) (t : StepRec) : State :=
  let mine := s.signals.filter (fun g => g.step == t.uid)
  mine.foldl (fun s g => addTallyOf s g.step g.target g.tally g.count g.idx) { s with signals := s.signals.filter (fun g => g.step != t.uid) }

/-- No op stands in its engine: one partly done goes on from its mark (R158). -/
def unheld (q : Prog) : Prog :=
  allEngs.foldl (fun q e => withEng q e { engOf q e with queue := (engOf q e).queue.map (fun o => { o with held := false }) }) q

/-- What a program's save keeps (R92, R93, R136, R158, R359): its state but for grain. -/
def savedOf (k : Core) (p : ProgRef) (q : Prog) : Saved where
  sci := q.sci
  core := p.core
  upper := p.upper
  ended := false
  prog := some { unheld q with ops := [], pats := [], strides := [] }
  sp := if k.split then k.sp.filter (fun e => decide (8 ≤ e.1 / 64 % 16) == p.upper) else k.sp
  acc := if k.split then k.acc.filter (fun e => decide (32 ≤ e.1 % 64) == p.upper) else k.acc
  rows := if k.split then k.rows.filter (fun e => decide (e.1 % 2 = 1) == p.upper) else k.rows
  tiles := if k.split then k.tiles.filter (fun e => decide (2 ≤ e.1) == p.upper) else k.tiles
  sel := selOf k p.upper
  drain := drainOf k p.upper

def savedEnded (sci : Nat) : Saved := ⟨sci, 0, false, true, none, [], [], [], [], false, .clear⟩

/-- The saves of a step, by step core index: the ended programs are marked (R355). -/
def savesOf (s : State) (t : StepRec) : List Saved :=
  (List.range t.nprog).map (fun i =>
    match (placedProgs s).find? (fun x => x.2.step == t.uid && x.2.sci == i) with
    | some x => savedOf (coreOf s x.1.core) x.1 x.2
    | none => savedEnded i)

/-- Steps 4 and 5 of R354 for a step whose engines stand at their boundaries. -/
def saveStep (s : State) (t : StepRec) : State :=
  let ps := livePlaces s t
  let s := ps.foldl flushRuns s
  let s := ps.foldl (fun s p => flushPend (match progOf s p with | some q => q.pend.length | none => 0) s p) s
  let s := flushRemote s t
  match stepOf s t.uid with
  | none => s
  | some t =>
    let saves := if t.saved = [] then savesOf s t else t.saved
    let s := match t.set with
      | some k => if t.saved = [] then writeHeader (ps.foldl (fun s p => writeSlot s k p) s) k t else s
      | none => s
    let s := ps.foldl (fun s p => freeHalf s p false) s
    let s := setStep s { t with st := .saved, slots := [], saved := saves, waited := 0 }
    let x := ctxOf s t.ctx
    setCtx s t.ctx { x with preempts := min (2 ^ 32 - 1) (x.preempts + 1) }

/-- PREEMPT_SAVE (R354 steps 3 to 5): once every engine of the victim stands at its op boundary, its state is written to its set and
its cores are freed. `bad` names a program whose state met an uncorrectable error as it was read (R357). -/
def execPreemptSave (ctx : Nat) (bad : Option Nat) (s : State) : Out State :=
  .next (match stepOfCtx s ctx with
  | none => s
  | some t =>
    if !(serving s && t.st == .saving) then s
    else
      let ps := livePlaces s t
      if !ps.all (fun p => hostBack s p && (match progOf s p with | some q => atBoundary s p q | none => true)) then s
      else match bad.bind (slotProg t) with
        | some p => preemptAbort s ctx false (slotBase s (t.set.getD 0) p.core)
        | none =>
          match readyRange s (setBase (t.set.getD 0)) (2 * gib) with
          | some s => s
          | none => saveStep s t)

/-! Release (R58, R356). -/

/-- The parts of every program still to run, read from the image. -/
def loadAll (m : Model) (ent : BitVec 512) : State → List Nat → Acc (List (Nat × List (BitVec 128) × List (BitVec 256) × List (BitVec 128)))
  | s, [] => .ok [] s
  | s, i :: t =>
    (progRec s m ent i).bind (fun r s => (loadParts s m r).bind (fun x s => (loadAll m ent s t).bind (fun l s => .ok ((i, x) :: l) s)))

/-- What a step's programs are loaded with: their parts of the image, or the management firmware's own for a command of the contact-sheet
window, of which only the END is seen. -/
def programsOf (s : State) (t : StepRec) : Acc (List (Nat × List (BitVec 128) × List (BitVec 256) × List (BitVec 128))) :=
  if t.csw.isSome then .ok ((List.range t.nprog).map (fun i => (i, [0], [], []))) s
  else match s.sched.model with
    | none => .bad 0x0201 0 s
    | some m => (stepEntry s m t.stepno).bind (fun e s => loadAll m e s (liveProgs t))

/-- The blocks of a saved step's slots and header, read and checked (R356 step 2, R357). -/
def checkSet (s : State) (t : StepRec) : Acc Unit :=
  match t.set with
  | none => .ok () s
  | some k =>
    (checkBlocks s (blocksIn (headerBase k) (headerLen t))).bind (fun _ s =>
      checkBlocks s ((t.saved.filter (fun x => !x.ended)).flatMap (fun x => blocksIn (slotBase s k x.core) 0x246400)))

/-- Scratchpad keys as the new half holds them: a half's bank 0 to 7 or 8 to 15 (R143). -/
def movedKey (split : Bool) (u : Bool) (key : Nat) : Nat :=
  if split then key / 1024 * 1024 + ((if u then 8 else 0) + key / 64 % 8) * 64 + key % 64 else key

/-- Put a saved program's state on its new place (R356). -/
def restoreOn (k : Core) (u : Bool) (x : Saved) : Core :=
  let h := b2n u
  let k := { k with
    sp := x.sp.foldl (fun t e => tset 0 t (movedKey k.split u e.1) e.2) ((spScrub k u).sp)
    acc := x.acc.foldl (fun t e => tset 0 t (if k.split then e.1 / 64 * 64 + 32 * h + e.1 % 32 else e.1) e.2) k.acc
    rows := x.rows.foldl (fun t e => tset RowTag.clear t (if k.split then e.1 / 2 * 2 + h else e.1) e.2) k.rows
    tiles := x.tiles.foldl (fun t e => tset Tile.empty t (if k.split then 2 * h + e.1 % 2 else e.1) e.2) k.tiles }
  withDrain (withSel k u x.sel) u x.drain

/-- Release one program: its parts loaded, its saved state restored, tallies that were signalled before its start kept (R58, R356). -/
def releaseOne (t : StepRec) (s : State) (x : Nat × List (BitVec 128) × List (BitVec 256) × List (BitVec 128)) : State :=
  match slotProg t x.1 with
  | none => s
  | some p =>
    match progOf s p with
    | none => s
    | some q =>
      match t.saved.find? (fun y => y.sci == x.1) with
      | some y =>
        (match y.prog with
         | some old =>
           let q := { old with step := q.step, ops := x.2.1, pats := x.2.2.1, strides := x.2.2.2, released := true
                               tallies := q.tallies.foldl (fun tl e => tset 0 tl e.1 (tget 0 tl e.1 + e.2)) old.tallies }
           let s := setCore s p.core (restoreOn (coreOf s p.core) p.upper y)
           setProg s p q
         | none => s)
      | none => setProg s p { q with ops := x.2.1, pats := x.2.2.1, strides := x.2.2.2, released := true }

/-- Every core of the step runs (R455). -/
def coresUp (s : State) (t : StepRec) : Bool := (livePlaces s t).all (fun p => (coreOf s p.core).pwr == .running)

/-- Release a placed or restored step: its programs together, its set freed; a contact-sheet command shows RUNNING (R502). -/
def releaseStep (s : State) (t : StepRec) (ps : List (Nat × List (BitVec 128) × List (BitVec 256) × List (BitVec 128))) : State :=
  let s := ps.foldl (releaseOne t) s
  let s := setStep s { t with st := .released, saved := [], set := none, quiet := 0 }
  match t.csw with
  | some n => setCswStatus s n 2 0
  | none => s

/-- STEP_RELEASE (R58, R356): the programs are loaded from the image, a saved step's slots are checked and restored, and all start. -/
def execStepRelease (ctx : Nat) (s : State) : Out State :=
  .next (match stepOfCtx s ctx with
  | none => s
  | some t =>
    if !(stepsGo s && (t.st == .placed || t.st == .restored) && coresUp s t) then s
    else
      match programsOf s t with
      | .wait s => s
      | .bad c a s => chargeStep s ctx c a
      | .ok ps s =>
        let s := endHost s whoSched
        if t.saved = [] then releaseStep s t ps
        else match checkSet s t with
          | .ok _ s => releaseStep s t ps
          | .wait s => s
          | .bad _ a s => preemptAbort s ctx true a)

/-! Contexts: teardown, ending, opening (R343, R344, R346, R363). -/

/-- Rings of a context. -/
def ringsOf (s : State) (ctx : Nat) : List Nat := (s.rings.ctx.filter (fun e => e.2.v && e.2.ctx == ctx)).map (·.1)

/-- A ring's watched host line is pinned no longer, unless another ring watches it (R311, R371). -/
def unpin (s : State) (n : Nat) : State :=
  let r := ringOf s n
  if r.v && r.watch && r.whost && !s.rings.ctx.any (fun e => e.1 != n && e.2.v && e.2.watch && e.2.whost && watchedLine s e.2 == watchedLine s r)
  then { s with coh := { s.coh with hlc := s.coh.hlc.map (fun e => if e.1 = watchedLine s r then (e.1, { e.2 with pinned := false }) else e) } }
  else s

/-- Take a ring away: its context, its table entry, and what the ring unit keeps of it. -/
def removeRing (s : State) (n : Nat) : State :=
  let s := unpin s n
  let s := devSend s (ringTable + 64 * n) (List.replicate 64 0)
  { s with rings := { s.rings with ctx := tdel s.rings.ctx n, unit_ := tdel s.rings.unit_ n } }

/-- A ring has nothing ready and nothing running (R344). -/
def ringIdle (s : State) (n : Nat) : Bool :=
  let r := ringOf s n
  let u := unitOf s n
  u.running.isNone && u.ready.isEmpty && (r.err || r.head == r.tail)

/-- Whether loupe, fixer or collective work of a context is queued or running (R344). -/
def ctxBusy (s : State) (ctx : Nat) : Bool :=
  s.loupes.any (fun e => e.2.queue.any (fun c => c.ctx == ctx) || (match e.2.run with | some r => r.call.ctx == ctx | none => false)) ||
    s.fixers.queue.any (fun c => c.ctx == ctx) || (match s.fixers.run with | some r => r.call.ctx == ctx | none => false) ||
    s.pod.colls.any (fun c => c.ctx == ctx)

/-- Contexts open, tearing down, gone or ending in a profile that hold one of its NINST places: those open (R343). -/
def openIn (s : State) (profile : Nat) : Nat := (s.sched.ctxs.filter (fun e => e.2.st == .openS && e.2.profile == profile)).length

/-- Why an OPEN is refused (R343, R365): 0 where it is not. `ninst` is NINST of the profile named. -/
def openReason (s : State) (ctx profile pt4 reserved ninst : Nat) : Nat :=
  match s.sched.model with
  | none => 1
  | some m =>
    if ctx = 0 ∨ (ctxOf s ctx).st = .openS then 2
    else if m.nprof ≤ profile then 6
    else if ninst ≤ openIn s profile then 3
    else if !reachable s pt4 4096 then 4
    else if reserved ≠ 0 then 5
    else 0

/-- NINST and RINGS of a profile of the resident model (R339). -/
def profileOf (s : State) (profile : Nat) : Nat × Nat :=
  match s.sched.model with
  | none => (0, 0)
  | some m => m.profs.getD profile (0, 0)

/-- Show what became of an OPEN in CTX_CTRL. -/
def showOpen (s : State) (reason : Nat) : State :=
  setField (setField s rCTX_CTRL 14 14 (b2n (reason != 0))) rCTX_CTRL 17 15 reason

/-- Set a slot up (R343): accounting zero, no rings, an entry with V = 0, no registered tables. -/
def setupCtx (s : State) (ctx profile pt4 : Nat) : State :=
  let s := (ringsOf s ctx).foldl removeRing s
  let s := setCtx s ctx { Ctx.free with st := .openS, profile := profile, pt4 := pt4 }
  flushTlb (setSe s ctx 0) (some ctx)

/-- An OPEN with the fields of CTX_DATA0 (R343, R363): latched on a slot that is tearing down or ending, and on a GONE slot whose old
rings still have descriptors to complete with CTX_GONE (log entry 17). -/
def openSlot (s : State) (ctx : Nat) (data : Nat) : State :=
  let profile := data / 16 % 16
  let pt4 := data / 4096 % 2 ^ 40 * 4096
  let x := ctxOf s ctx
  if x.st = .teardown ∨ x.st = .ending then setCtx s ctx { x with openLatch := some data }
  else
    let r := openReason s ctx profile pt4 (data / 8 % 2 + data / 256 % 16 + data >>> 52) (profileOf s profile).1
    if r ≠ 0 then showOpen (setCtx s ctx { x with openLatch := none }) r
    else if x.st = .gone && !(ringsOf s ctx).all (ringIdle s) then setCtx s ctx { x with openLatch := some data }
    else showOpen (setupCtx s ctx profile pt4) 0

/-- An OPEN that was latched takes effect (R363). -/
def takeOpen (s : State) (ctx : Nat) : State :=
  match (ctxOf s ctx).openLatch with
  | some d => openSlot s ctx d
  | none => s

/-- A slot becomes FREE (R344): its rings are removed, its entry and tables go, every END_CONTEXT that waits completes, and a latched
OPEN takes effect. Its accounting stays until the next OPEN (R364). -/
def freeSlot (s : State) (ctx : Nat) : State :=
  let x := ctxOf s ctx
  let s := (ringsOf s ctx).foldl removeRing s
  let s := setCtx s ctx { Ctx.free with waitTime := x.waitTime, preempts := x.preempts, openLatch := x.openLatch }
  let s := { s with
    fixers := { s.fixers with entries := tdel s.fixers.entries ctx, commits := s.fixers.commits.filter (fun c => c.1 != ctx) }
    tables := s.tables.filter (fun e => bits e.2.entry 13 2 != ctx) }
  let s := x.endPend.foldl (fun s r => report s r (Report.status_ 0)) (flushTlb s (some ctx))
  takeOpen s ctx

/-- Every core of a context is returned: none holds its program, none is scrubbed after it (R346). -/
def coresBack (s : State) (ctx : Nat) : Bool :=
  !(placedProgs s).any (fun x => x.2.ctx == ctx) &&
    !s.cores.any (fun e => (e.2.scrubLo && e.2.ctxLo == ctx) || (e.2.scrubHi && e.2.ctxHi == ctx))

/-- A register's value after a reset that reaches it: the reset value, but RWL fields keep theirs (R514, R539). -/
def keepRwl (off : Nat) (v : BitVec 64) : BitVec 64 :=
  let m : BitVec 64 := match regAt off with | some d => BitVec.ofNat 64 d.rwl | none => 0
  (v &&& m) ||| (regReset off &&& ~~~m)

/-- Registers at the offsets `p` names are reset. -/
def resetRegs (s : State) (p : Nat → Bool) : State :=
  { s with regs := s.regs.foldl (fun t e => if p e.1 then tset (regReset e.1) t e.1 (keepRwl e.1 e.2) else t) s.regs }

/-- An offset lies in `n` pages from `base`. -/
def inPages (base n off : Nat) : Bool := decide (base ≤ off) && decide (off < base + 0x1000 * n)

/-- The reset of a core (R441, R539): engines, queues, scratchpad and grain, which is seeded afresh (R130); its withdrawal stands. -/
def resetCore (s : State) (c : Nat) : State :=
  let k := coreOf s c
  resetRegs (reseed s c { Core.fresh with withdrawn := k.withdrawn, wdPend := k.wdPend, retLatch := k.retLatch }) (inPages (0x200000 + 0x4000 * c) 3)

/-- Cores whose reset waited for their context's teardown (R435). -/
def resetAfter (s : State) (ctx : Nat) : State :=
  let mine := (s.rst.after.filter (fun e => e.1 == ctx)).flatMap (·.2)
  mine.foldl resetCore { s with rst := { s.rst with after := s.rst.after.filter (fun e => e.1 != ctx) } }

/-- TEARDOWN_COMPLETE (R344): every core returned and every abandoned unit stopped, the slot goes to GONE, or to FREE where an
END_CONTEXT waits and the running descriptors have completed (R332, R347); and an OPEN latched on a GONE slot takes effect (R363). -/
def execTeardownComplete (ctx : Nat) (s : State) : Out State :=
  let x := ctxOf s ctx
  .next (if x.st = .teardown ∧ coresBack s ctx = true ∧ ctxBusy s ctx = false then
    if x.endPend = [] then takeOpen (setCtx (resetAfter s ctx) ctx { x with st := .gone }) ctx
    else if (ringsOf s ctx).all (fun n => (unitOf s n).running.isNone) then freeSlot (resetAfter s ctx) ctx
    else s
  else if x.st = .gone then takeOpen s ctx
  else s)

/-- ENDING_COMPLETE (R344): an ENDING context with no work left has its rings removed and its slot released. -/
def execEndingComplete (ctx : Nat) (s : State) : Out State :=
  .next (if (ctxOf s ctx).st = .ending ∧ s.sched.steps.any (fun t => t.ctx == ctx) = false
      ∧ (ringsOf s ctx).all (ringIdle s) = true ∧ ctxBusy s ctx = false
    then freeSlot s ctx else s)

/-- SCRUB_COMPLETE (R89, R348): the half's scratchpad, tiles and accumulator columns are zero, and it is free again. -/
def execScrubComplete (core : Nat) (upper : Bool) (s : State) : Out State :=
  let k := coreOf s core
  .next (if (if upper then k.scrubHi else k.scrubLo) then
    let k := zeroArray (spScrub k upper) upper
    setCore s core (settleCore (if upper then { k with scrubHi := false } else { k with scrubLo := false }))
  else s)

/-! The power of a core (R454, R455). -/

/-- A program does nothing until a signal or a barrier release reaches it: its sequencer stands at a WAIT or STEPBAR, and every engine is
empty or held at a wait. -/
def stalled (q : Prog) : Bool :=
  let seqHeld := q.atBar || (match q.ops[q.pc]? with
    | some w => opClass w == 1 && opOpc w == 0 && !decide (syCOUNT w ≤ tallyOf q (syTALLY w))
    | none => false)
  seqHeld && q.pend.isEmpty &&
    allEngs.all (fun e => (engOf q e).run.isEmpty && (match (engOf q e).queue with | [] => true | o :: _ => !waitMet q o))

def halfStalled (q : Option Prog) : Bool := match q with | some q => q.released && stalled q | none => true

/-- CORE_GATE (R454): every engine of the core has stalled on a wait for 256 cycles, or no program is placed. -/
def execCoreGate (core : Nat) (s : State) : Out State :=
  let k := coreOf s core
  .next (if k.pwr = .running ∧ halfStalled k.lo = true ∧ halfStalled k.hi = true then setCore s core { k with pwr := .gated } else s)

/-- CORE_OFF (R454): no program for 25 ticks and no scrub; nothing in the core is kept. -/
def execCoreOff (core : Nat) (s : State) : Out State :=
  let k := coreOf s core
  .next (if (k.pwr = .running ∨ k.pwr = .gated) ∧ k.lo = none ∧ k.hi = none ∧ k.scrubLo = false ∧ k.scrubHi = false then
    setCore s core { k with pwr := .off, sp := [], acc := [], rows := [], tiles := [], seeded := false }
  else s)

/-- CORE_WAKE_COMPLETE (R454, R455): a core leaving Off has a zero scratchpad and fresh grain. -/
def execCoreWakeComplete (core : Nat) (s : State) : Out State :=
  let k := coreOf s core
  .next (match k.pwr with
  | .waking z => if z then reseed s core { k with pwr := .running, sp := [] } else setCore s core { k with pwr := .running }
  | _ => s)

end Sys2Proof.Machine
end

