-- ==== Sys2Proof/Machine/Routes.lean ====
section
/-! DEFINITION. Transactions and routing (R252 to R264): virtual channels, slots, the usable sets, and the queue of a port. -/

namespace Sys2Proof.Machine

def portOf (s : State) (n : Nat) : Port := tget Port.off s.ports n
def setPort (s : State) (n : Nat) (p : Port) : State := { s with ports := tset Port.off s.ports n p }

/-- This package's id (R260) and incarnation (R290). -/
def ownId (s : State) : Nat := regField s rPRT_PKG 11 0

/-! Transaction types (R253). -/

def tRD : Nat := 0x1
def tWR : Nat := 0x2
def tATADD : Nat := 0x3
def tATCAS : Nat := 0x4
def tDBELL : Nat := 0x5
def tRDRSP : Nat := 0x8
def tWRACK : Nat := 0x9
def tATRSP : Nat := 0xA
def tCOLLSEG : Nat := 0xB
def tHBEAT : Nat := 0xC
def tINCNOTE : Nat := 0xD
def tDARK : Nat := 0xE

/-- Virtual channel of a type (R253): 0 REQ, 1 RSP, 2 COLL, 3 MGMT. -/
def vcOf (t : Nat) : Nat := if t < 8 then 0 else if t < 0xB then 1 else if t = 0xB then 2 else 3

/-- Place of a VC and class among the eight (R242). -/
def vcKey (x : Txn) : Nat := 2 * vcOf x.ttype + x.cls

/-- Slots of a transaction (R245). -/
def slotsOf (x : Txn) : Nat := 1 + x.data.length / 16

/-- Fields of a request and of a reply (R254). -/
def rqPPA (x : Txn) : Nat := bits x.hi 40 0
def rqLen (x : Txn) : Nat := bits x.hi 52 41 + 1
def rqCODED (x : Txn) : Bool := bit x.hi 53
def rpLen (x : Txn) : Nat := bits x.hi 11 0 + 1
def rpCODED (x : Txn) : Bool := bit x.hi 12
def rpPOISON (x : Txn) : Bool := bit x.hi 13
def rpSTATUS (x : Txn) : Nat := bits x.hi 17 14
def rpECODE (x : Txn) : Nat := bits x.hi 63 32

/-- The upper half of a request header (R254). -/
def requestHi (ppa len : Nat) (coded : Bool) : BitVec 64 :=
  BitVec.ofNat 64 (fieldAt 40 0 ppa + fieldAt 52 41 (len - 1) + fieldAt 53 53 (b2n coded))

/-- The upper half of a reply header (R254). -/
def replyHi (len : Nat) (coded poison : Bool) (status ecode : Nat) : BitVec 64 :=
  BitVec.ofNat 64 (fieldAt 11 0 (len - 1) + fieldAt 12 12 (b2n coded) + fieldAt 13 13 (b2n poison) + fieldAt 17 14 status + fieldAt 63 32 ecode)

/-- Bytes padded with zeros to whole slots (R253). -/
def padSlots (bs : List Byte) : List Byte := bs ++ List.replicate ((16 - bs.length % 16) % 16) 0

/-- A transaction of this package. -/
def ownTxn (s : State) (ttype dst tag : Nat) (hi : BitVec 64) (data : List Byte) : Txn :=
  ⟨ttype, dst, ownId s, s.pod.ownInc, tag, 0, 0, hi, padSlots data⟩

/-- Header bytes of a transaction (R252). -/
def headerBytes (x : Txn) : List Byte :=
  leBytes 16 (fieldAt 3 0 x.ttype + fieldAt 15 4 x.dst + fieldAt 27 16 x.src + fieldAt 43 28 x.inc + fieldAt 59 44 x.tag
    + fieldAt 60 60 x.cls + fieldAt 63 61 x.rsv + x.hi.toNat * 2 ^ 64)

/-- Data slots that follow a header (R253). -/
def dataSlots (x : Txn) : Nat :=
  let up (n : Nat) : Nat := (n + 15) / 16
  if x.ttype = tWR then up (rqLen x) + b2n (rqCODED x)
  else if x.ttype = tATADD ∨ x.ttype = tATCAS ∨ x.ttype = tDBELL ∨ x.ttype = tATRSP then 1
  else if x.ttype = tRDRSP then (if rpSTATUS x = 1 ∨ rpSTATUS x = 2 ∨ rpSTATUS x = 4 then 0 else up (rpLen x))
  else if x.ttype = tCOLLSEG then up (bits x.hi 60 50 + 1) + b2n (bit x.hi 49)
  else 0

/-- A header as read, its data still to come. -/
def parseHeader (bs : List Byte) : Txn where
  ttype := leField bs 3 0
  dst := leField bs 15 4
  src := leField bs 27 16
  inc := leField bs 43 28
  tag := leField bs 59 44
  cls := leField bs 60 60
  rsv := leField bs 63 61
  hi := BitVec.ofNat 64 (leField bs 127 64)
  data := []

/-! Routing (R261 to R264). -/

/-- A port counts as UP, the Safelight width included (R262). -/
def portUp (p : Port) : Bool := p.st == .up

/-- Bits of a port mask, ascending. -/
def maskBits (m : Nat) : List Nat := (List.range 32).filter m.testBit

/-- The ports now in use toward a package: the usable primary set, or else the alternate one (R262). -/
def portsTo (s : State) (dst : Nat) : List Nat :=
  let e := tget (0 : BitVec 128) s.pod.routes dst
  let u := tget 0 s.pod.usable dst
  if !bit e 64 then [] else if u % 2 ^ 32 ≠ 0 then maskBits (u % 2 ^ 32) else maskBits (u >>> 32)

/-- The port a transaction leaves on (R263). -/
def routeOf (s : State) (src dst vc : Nat) : Option Nat :=
  let l := portsTo s dst
  l[(src ^^^ dst ^^^ (vc <<< 10)) % max 1 l.length]?

/-- An entry's usable sets as its writing sets them (R262). -/
def usableFor (s : State) (e : BitVec 128) : Nat :=
  let up (m : Nat) : Nat := ((maskBits m).filter (fun n => portUp (portOf s n))).foldl (fun a n => a + 2 ^ n) 0
  up (bits e 31 0) + up (bits e 63 32) * 2 ^ 32

/-- Write a routing entry (R262, R265). -/
def writeRoute (s : State) (dst : Nat) (e : BitVec 128) : State :=
  { s with pod := { s.pod with routes := tset 0 s.pod.routes dst e, usable := tset 0 s.pod.usable dst (usableFor s e) } }

/-- A port that leaves UP is removed from every usable set (R262). -/
def leaveSets (s : State) (n : Nat) : State :=
  let clr (m : Nat) : Nat := m - (if m.testBit n then 2 ^ n else 0) - (if m.testBit (n + 32) then 2 ^ (n + 32) else 0)
  { s with pod := { s.pod with usable := (s.pod.usable.map (fun e => (e.1, clr e.2))).filter (fun e => e.2 != 0) } }

/-- Class on leaving a port (R264). -/
def classOn (s : State) (n : Nat) (arrival : Option Nat) (cls : Nat) : Nat :=
  let dim (p : Nat) : Nat := regField s (rPRT_CTRL p) 4 3
  let c := match arrival with
    | none => 0
    | some a => if dim a = dim n then cls else 0
  if bit (regVal s (rPRT_CTRL n)) 5 then 1 else c

/-- Put a transaction into a port's queue. -/
def enqueueOn (s : State) (n : Nat) (arrival : Option Nat) (x : Txn) : State :=
  let p := portOf s n
  setPort s n { p with txq := p.txq ++ [(arrival, { x with cls := classOn s n arrival x.cls })] }

/-- Send a transaction of this package on its way: to its own homes (R257), or by its route, none where it has none. -/
def sendOn (s : State) (x : Txn) : Option State :=
  if x.dst = ownId s then some { s with pod := { s.pod with loopq := s.pod.loopq ++ [x] } }
  else if s.pod.stale || s.pod.ownInc == 0 || inFog s then none
  else (routeOf s x.src x.dst (vcOf x.ttype)).map (fun n => enqueueOn s n none x)

/-- The port can take a reply at once: it holds credit for its slots beyond what waits there already (R251). -/
def replyRoom (s : State) (x : Txn) : Bool :=
  if x.dst = ownId s then true
  else match routeOf s x.src x.dst (vcOf x.ttype) with
    | none => false
    | some n =>
      let p := portOf s n
      let y := { x with cls := classOn s n none 0 }
      let queued := (p.txq.filter (fun e => vcKey e.2 == vcKey y)).foldl (fun a e => a + slotsOf e.2) 0
      decide (queued + slotsOf x ≤ nth p.credits (vcKey y))

/-! Receive buffers. -/

/-- Slots of a receive buffer freed: counted for the next flit's CR (R244). -/
def freeSlots (s : State) (n : Nat) (x : Txn) : State :=
  let p := portOf s n
  let f := if p.freed = [] then List.replicate 8 0 else p.freed
  setPort s n { p with freed := f.set (vcKey x) (nth f (vcKey x) + slotsOf x) }

/-- Count a dropped arrival in PRT_RXDROP: STALE at [15:0], NOROUTE at [31:16], LATE at [47:32]. -/
def countDrop (s : State) (src : Option Nat) (hi lo : Nat) : State :=
  match src with
  | some n => bump s (rPRT_RXDROP n) hi lo
  | none => s

/-- The oldest transaction of a type waiting at a port, or in the loop to this package's own homes, that none of its VC and class
precedes. -/
def takeFrom (t : Nat) : List Txn → List Nat → Option (Txn × List Txn)
  | [], _ => none
  | x :: l, seen =>
    if x.ttype = t ∧ !seen.contains (vcKey x) then some (x, l)
    else (takeFrom t l (vcKey x :: seen)).map (fun r => (r.1, x :: r.2))

/-- Take a transaction for its service: the state without it, its buffer slots freed. -/
def takeTxn (s : State) (src : Option Nat) (t : Nat) : Option (Txn × State) :=
  match src with
  | none => (takeFrom t s.pod.loopq []).map (fun r => (r.1, { s with pod := { s.pod with loopq := r.2 } }))
  | some n =>
    let p := portOf s n
    (takeFrom t p.rxq []).map (fun r => (r.1, freeSlots (setPort s n { p with rxq := r.2 }) n r.1))

/-! The incarnation check (R259, R292). -/

/-- Incarnation held for a package, and its LOST bit (R290). -/
def incOf (s : State) (pkg : Nat) : Nat := tget 0 s.pod.incs pkg
def lostBit (s : State) (pkg : Nat) : Bool := tget false s.pod.lost pkg

/-- Tell a sender whose incarnation is not the one held what is held for it: one hop, at most once per 250 ticks on a port (R292). -/
def noteBack (s : State) (n pkg : Nat) : State :=
  let p := portOf s n
  if (incOf s pkg ≠ 0 ∨ lostBit s pkg = true) ∧ p.noteHold = 0 ∧ s.pod.ownInc ≠ 0 ∧ s.pod.stale = false then
    enqueueOn (setPort s n { p with noteHold := 250 }) n none
      (ownTxn s tINCNOTE pkg 0 (BitVec.ofNat 64 (fieldAt 11 0 pkg + fieldAt 27 12 (incOf s pkg))) [])
  else s

/-- An arrival that is served: taken from its queue and checked (R259); a stale package or one in fog drops it (R293, R384). -/
inductive Arrival where
  | none
  | drop (s : State)
  | ok (x : Txn) (s : State)

def arrive (s : State) (src : Option Nat) (t : Nat) : Arrival :=
  match takeTxn s src t with
  | Option.none => .none
  | some (x, s) =>
    match src with
    | Option.none => if inFog s then .none else .ok x s
    | some n =>
      if s.pod.stale || inFog s then .drop (countDrop s src 15 0)
      else if x.inc ≠ incOf s x.src then .drop (noteBack (countDrop s src 15 0) n x.src)
      else .ok x s

end Sys2Proof.Machine
end

