-- ==== Sys2Proof/Machine/Pod.lean ====
section
/-! DEFINITION. Membership of the pod (R288 to R294): losing a member, voiding the steps in flight, going stale, and the heartbeat state
of ports. -/

namespace Sys2Proof.Machine

/-- A tag that an abandoned request used rests for a further REQ_TMO (R258). -/
def restTag (s : State) (tag : Nat) : State :=
  { s with pod := { s.pod with stuck := s.pod.stuck ++ [(tag, regField s rPRT_PKG 47 16)] } }

/-- One remote transaction of a copy op has ended: the op is done with the last of them (R147). -/
def copyReplied (s : State) (p : ProgRef) (ch : Bool) : State :=
  match progOf s p with
  | none => s
  | some q =>
    let e : Eng := if ch then .copy1 else .copy0
    let run := (engOf q e).run.map (fun o => match o.phase with
      | .remote n => if n ≤ 1 then { o with phase := .done } else { o with phase := .remote (n - 1) }
      | _ => o)
    setProg s p (withEng q e { engOf q e with run })

/-- A request is abandoned without a fault (R294). -/
def dropReq (s : State) (r : RemReq) : State :=
  let s := restTag { s with pod := { s.pod with reqs := s.pod.reqs.filter (fun x => x.tag != r.tag) } } r.tag
  match r.why with
  | .rread p ch _ _ _ _ => copyReplied s p ch
  | .rwrite p ch _ => copyReplied s p ch
  | _ => s

/-- Fixer calls that run on when their step is voided: those past pass one (R230, R294). -/
def fixRunsOn (s : State) (u : Nat) : Bool :=
  match s.fixers.run with
  | some r => r.call.uid == u && r.phase != .passOne && r.phase != .decide
  | none => false

/-- Work that a step called, in the place of a descriptor's. -/
def calledByOp : Caller → Bool
  | .op .. => true
  | .desc _ => false

/-- The calls of one context's step are abandoned; a descriptor's call of the same context runs on (R294). -/
def voidCalls (s : State) (ctx : Nat) : State :=
  let keep := fixRunsOn s
  let mine (c : Nat) (w : Caller) : Bool := c == ctx && calledByOp w
  let s := voidReqs s (fun r => match r.why with
    | .loupeRead n _ | .loupeWrite n | .loupeCursor n _ =>
      (match (tget Loupe.idle s.loupes n).run with | some x => mine x.call.ctx x.call.caller | none => false)
    | _ => false)
  let lp (l : Loupe) : Loupe :=
    { queue := l.queue.filter (fun c => !mine c.ctx c.caller)
      run := match l.run with | some r => if mine r.call.ctx r.call.caller then none else l.run | none => none }
  let s := { s with loupes := (s.loupes.map (fun (e : Nat × Loupe) => (e.1, lp e.2))).filter (fun (e : Nat × Loupe) => e.2 != Loupe.idle) }
  let gone := s.pod.colls.filter (fun (c : Coll) => c.ctx == ctx)
  { s with
    fixers := { s.fixers with
      queue := s.fixers.queue.filter (fun c => !mine c.ctx c.caller)
      run := match s.fixers.run with | some r => if mine r.call.ctx r.call.caller && !keep r.call.uid then none else s.fixers.run | none => none }
    pod := { s.pod with
      colls := s.pod.colls.filter (fun (c : Coll) => c.ctx != ctx)
      frames := s.pod.frames.filter (fun (f : Frame) => !gone.any (fun (c : Coll) => c.started && c.grp == f.grp && c.cseq == f.cseq)) } }

/-- A step is in flight: started and not yet ended (R294). A command of the contact-sheet window that waits for its cores has not
started (log entry 67). -/
def inFlight (t : StepRec) : Bool := !(t.csw.isSome && t.st == .waiting)

/-- No step is in flight. -/
def noneInFlight (s : State) : Bool := s.sched.steps.all (fun t => !inFlight t)

/-- Void every step in flight on the loss of member `n` (R294). -/
def voidSteps (s : State) (n : Nat) : State :=
  let keep := fixRunsOn s
  let ctxs := (s.sched.steps.filter inFlight).map (·.ctx)
  let s := { s with sched := { s.sched with steps := s.sched.steps.map (fun t => if inFlight t then { t with voided := true } else t) } }
  let s := (placedProgs s).foldl (fun s e => setProg s e.1 (stopProg keep e.2)) s
  let s := ctxs.foldl voidCalls s
  let lost := s.pod.reqs.filter (fun r => r.dst == n)
  let s := lost.foldl dropReq s
  let s := lost.foldl (fun s r => match r.why with
    | .dbell ring => report s ring (Report.status_ 0x0407)
    | .loupeRead k _ | .loupeWrite k | .loupeCursor k _ =>
      (match (tget Loupe.idle s.loupes k).run with
       | some x => (match x.call.caller with
         | .desc ring => report { s with loupes := tset Loupe.idle s.loupes k { tget Loupe.idle s.loupes k with run := none } } ring (Report.status_ 0x0407)
         | _ => s)
       | none => s)
    | _ => s) s
  settleStopped s

/-- Members of the pod other than this package and `n` (R289). -/
def otherMembers (s : State) (n : Nat) : List Nat := (s.pod.incs.map (·.1)).filter (fun m => m != n && m != ownId s)

/-- A member is lost, declared here (`from_` none) or learned by an INCNOTE (R289, R291). -/
def loseMember (s : State) (n : Nat) (from_ : Option Nat) : State :=
  let voids := !noneInFlight s
  let members := otherMembers s n
  let s := { s with pod := { s.pod with incs := tset 0 s.pod.incs n 0, lost := tset false s.pod.lost n true } }
  let s := voidSteps s n
  let cnt := min 65535 (regField s rSTK_LOSS 42 27 + 1)
  let cap : Nat := 1 + fieldAt 12 1 n + fieldAt 13 13 (b2n from_.isSome) + fieldAt 25 14 (from_.getD 0) + fieldAt 26 26 (b2n voids)
  let s := if bit (regVal s rSTK_LOSS) 0 then s else setField s rSTK_LOSS 26 0 cap
  let s := setField s rSTK_LOSS 42 27 cnt
  let s := pushErr s { errRec 0x0407 6 0 15 0 0 with addrv := true, addr := n, detail := BitVec.ofNat 64 (cap + fieldAt 42 27 cnt) }
  let s := raiseEvent (setAlert s 6) 0
  if from_.isSome then s
  else members.foldl (fun s m => (sendOn s (ownTxn s tINCNOTE m 0 (BitVec.ofNat 64 (fieldAt 11 0 n)) [])).getD s) s

/-! The heartbeat state of a port (R288): 0 IDLE, 1 LIVE, 3 LOST, 4 DARK. -/

def peerOf (p : Port) : Option Nat := p.peer.map (·.1)

/-- Ports that know `n` as their peer. -/
def portsOf (s : State) (n : Nat) : List Nat := (List.range 32).filter (fun k => peerOf (portOf s k) == some n)

/-- A link to `n` was lost: with no live link left, `n` is lost (R289). -/
def linkLost (s : State) (n : Nat) : State :=
  let ps := (portsOf s n).map (portOf s)
  if incOf s n ≠ 0 ∧ ps.any (·.liveSince) = true ∧ ps.all (fun p => p.hb != 1 && p.hb != 4) = true then loseMember s n none else s

/-- IDLE becomes LIVE where the port is UP and its peer a member. -/
def hbRefresh (s : State) (k : Nat) : State :=
  let p := portOf s k
  match peerOf p with
  | some n => if p.hb = 0 ∧ portUp p = true ∧ incOf s n ≠ 0 then setPort s k { p with hb := 1, misses := 0, liveSince := true } else s
  | none => s

/-- The package is stale (R293): every context is torn down, and nothing more is sent or taken. -/
def goStale (s : State) : State :=
  if s.pod.stale then s
  else
    let s := driveAlert { s with pod := { s.pod with stale := true } }
    let s := pushErr s { errRec 0x0402 7 0 15 0 0 with detail := BitVec.ofNat 64 (fieldAt 15 0 s.pod.ownInc + 2 ^ 16 + fieldAt 24 17 (regField s rSTK_MEMB 24 17)) }
    let live := (s.sched.ctxs.filter (fun e => e.2.st == .openS || e.2.st == .ending)).map (·.1)
    let s := live.foldl (fun s c => beginTeardown s c 0x0402 0x0605 (0xFFF + 65536 * 0x7FF) (ringOfStep s c)) s
    raiseEvent s 1

/-- INCNOTE (R291). -/
def execIncnote (src : Option Nat) (s : State) : Out State :=
  match arrive s src tINCNOTE with
  | .none => .next s
  | .drop s => .next s
  | .ok x s =>
    let subj := bits x.hi 11 0
    let v := bits x.hi 27 12
    .next (if subj = ownId s then (if v = s.pod.ownInc then s else goStale s)
      else if incOf s subj ≠ 0 ∧ v = 0 then loseMember s subj (some x.src)
      else s)

end Sys2Proof.Machine
end

