-- ==== Sys2Proof/Machine/Calls.lean ====
section
/-! DEFINITION. What loupe, fixer and collective calls share: the op of a core program or the descriptor that called, how its call ends,
and whom its fault is charged to (R47, R57, R487). -/

namespace Sys2Proof.Machine

/-- Where a call's unit found a fault. -/
structure UnitFault where
  code  : Nat
  unit_ : Nat
  index : Nat
  die   : Nat
  addr  : Option Nat
  detail : BitVec 64

/-- A fault of a call: charged to the caller's context. A descriptor whose call has had no effect yet is refused alone (R487). -/
def chargeCall (s : State) (ctx : Nat) (c : Caller) (early : Bool) (f : UnitFault) : State :=
  match c with
  | .op p _ sci idx =>
    charge s { code := f.code, ctx, die := f.die, unit_ := f.unit_, index := f.index, half := p.upper, addr := f.addr, detail := f.detail, idx, sci }
  | .desc r =>
    let s := if early then s else
      charge s { code := f.code, ctx, die := f.die, unit_ := f.unit_, index := f.index, addr := f.addr, detail := f.detail, ring := some r }
    report s r (Report.status_ f.code)

/-- The op of a program that waits for this call is done (R57). -/
def opCallDone (q : Prog) (uid : Nat) : Prog :=
  { q with off := { q.off with run := q.off.run.map (fun o => if o.phase = .called uid then { o with phase := .done } else o) } }

/-- A call ends: its op is done, or its descriptor reports. -/
def endCall (s : State) (c : Caller) (uid : Nat) : State :=
  match c with
  | .op p step sci _ =>
    match progOf s p with
    | some q => if q.step = step ∧ q.sci = sci then settleStopped (setProg s p (opCallDone q uid)) else s
    | none => s
  | .desc r => report s r (Report.status_ 0)

/-- The CVA of an offloaded op's call block (R43, R56). -/
def callCva (q : Prog) (o : OpSlot) : Nat := (effBase q (ofCALL o.word) (ofASI o.word) o.iters % (2 ^ 64 : Nat)).toNat

/-- A range of bytes of one address space crosses no end of it. -/
def callBlock (s : State) (r : Req) (cva : Nat) : Acc (BitVec 512) :=
  (cvaRead s r cva 64 false).bind (fun bs s => .ok (BitVec.ofNat 512 (leNat bs)) s)

/-- Whole list items read at a CVA: `n` of `k` bytes. -/
def readList (s : State) (r : Req) (cva k n : Nat) : Acc (List Nat) :=
  (cvaRead s r cva (k * n) false).bind (fun bs s => .ok ((chunks (8 * k) k n bs).map BitVec.toNat) s)

/-- Whether a unit of a die may work: the part serves, is Lit, and no block reset of kind `k` holds it (R441, R456). -/
def unitUp (s : State) (kind index die : Nat) : Bool :=
  serving s && awake s && (match s.rst.block with
    | some (k, i) => !((k == 0 && i == die) || (k == kind && i == index))
    | none => true)

/-- A collective is called: it takes the next number of its group (R274), which stays used where the call is abandoned (R286). -/
def callColl (s : State) (c : Coll) : State :=
  let q := tget 0 s.pod.cseqs c.grp
  { s with pod := { s.pod with colls := s.pod.colls ++ [{ c with cseq := q }], cseqs := tset 0 s.pod.cseqs c.grp ((q + 1) % 4096) } }

end Sys2Proof.Machine
end

