-- ==== Sys2Proof/Machine/VectorEngine.lean ====
section
/-! DEFINITION. The stream vector engine of a core (05): streams, masks, elementwise ops, compares and selects, reductions, grain. -/

namespace Sys2Proof.Machine

/-! Reading and writing one vector (R115 to R117). -/

/-- The two scale bytes of vector `v` (R116); 1 for a plain format. -/
def vecScales (k : Core) (upper : Bool) (p : SPat) (v : List Nat) : List Nat :=
  if isMX p.fmt then (spRead k upper (vScaleAddr p v) 2).map BitVec.toNat else [127, 127]

/-- Element codes and values of vector `v` of an input stream: with REP every lane has element 0. -/
def readVec (k : Core) (upper : Bool) (p : SPat) (v : List Nat) : List Nat × List Num :=
  let eb := elemBits p.fmt
  let a := vAddr p v
  let es := if p.rep then List.replicate 64 ((unpack eb 1 (spRead k upper a ((eb + 7) / 8))).getD 0 0)
    else unpack eb 64 (spRead k upper a (8 * eb))
  let sc := vecScales k upper p v
  (es, (List.range 64).map (fun i => widen p.fmt (es.getD i 0) (sc.getD (i / 32) 127)))

/-- What a lane of an op yields: a value to convert; an element's own bits, with its block's scale byte and a free word for a block that
mixes scales; or nothing, because a check found its result in error (R134): the element keeps the bits it has. -/
inductive LaneOut where
  | val (x : Num)
  | raw (n sc : Nat) (mix : BitVec 32)
  | keep (old : Nat)
  deriving DecidableEq, Repr

/-- The scale byte of a block that takes elements' own bits: their blocks' own where it is one, else a free byte (log entry 14). -/
def rawScale : List (Nat × BitVec 32) → Option Nat
  | [] => none
  | a :: t => some (if t.all (fun x => x.1 == a.1) then a.1 else a.2.toNat % 256)

/-- Bytes of an output vector at its address `a` (and scale address `sa`), one entry per lane; a lane with none is not written, or
is +0 where lanes share bytes or a block (R123, R126). `r` gives each lane's grain word. -/
def writeVec (fmt : Nat) (rnd : Rnd) (r : Nat → BitVec 32) (a sa : Nat) (outs : List (Option LaneOut)) : List (Nat × List Byte) :=
  let eb := elemBits fmt
  let lane (i : Nat) : Option LaneOut := (outs.getD i none)
  if isMX fmt then
    let f := mxElem fmt
    let vals (b : Nat) : List Num := (List.range 32).filterMap (fun j => match lane (32 * b + j) with | some (.val x) => some x | _ => none)
    let raws (b : Nat) : List (Nat × BitVec 32) :=
      (List.range 32).filterMap (fun j => match lane (32 * b + j) with | some (.raw _ sc u) => some (sc, u) | _ => none)
    let scale (b : Nat) : Nat := (rawScale (raws b)).getD (blockScale f (vals b))
    let s0 := scale 0
    let s1 := scale 1
    let es := (List.range 64).map (fun i => match lane i with
      | some (.val x) => encodeMX f (if i < 32 then s0 else s1) rnd (r i) x
      | some (.raw n _ _) => n
      | some (.keep n) => n
      | none => 0)
    [(a, pack eb es), (sa, [BitVec.ofNat 8 s0, BitVec.ofNat 8 s1])]
  else
    let enc (i : Nat) (x : LaneOut) : Nat := match x, elemFmt fmt with
      | .raw n _ _, _ => n
      | .keep n, _ => n
      | .val x, some f => encodeElem f rnd (r i) x
      | .val _, none => 0
    if eb < 8 then [(a, pack eb ((List.range 64).map (fun i => match lane i with | some x => enc i x | none => 0)))]
    else (List.range 64).filterMap (fun i => match lane i with
      | none => none
      | some (.keep _) => none
      | some x => some (a + i * (eb / 8), leBytes (eb / 8) (enc i x)))

/-! The pipeline of an op: vectors issue in order, and the result of a vector is written `lat` cycles after it is read (R125, R128). -/

structure VecRun (σ : Type) where
  core : Core
  acc  : σ
  /-- writes on their way: the vector they come from, address and bytes -/
  pend : List (Nat × Nat × List Byte)

/-- Write what is due. -/
def applyWrites (upper : Bool) (k : Core) (ws : List (Nat × Nat × List Byte)) : Core :=
  ws.foldl (fun k w => spWrite k upper w.2.1 w.2.2) k

/-- `n` vectors from index `i`: before vector `j` is read, the results of vectors at least `lat + 1` cycles older are written. -/
def vecSteps {σ : Type} (upper : Bool) (cyc lat : Nat) (f : Core → σ → Nat → σ × List (Nat × List Byte)) :
    Nat → Nat → VecRun σ → VecRun σ
  | 0, _, x => { x with core := applyWrites upper x.core x.pend, pend := [] }
  | n + 1, j, x =>
    let due := x.pend.filter (fun w => decide (lat + 1 ≤ (j - w.1) * cyc))
    let k := applyWrites upper x.core due
    let y := f k x.acc j
    vecSteps upper cyc lat f n (j + 1)
      { core := k, acc := y.1, pend := x.pend.filter (fun w => !decide (lat + 1 ≤ (j - w.1) * cyc)) ++ y.2.map (fun w => (j, w)) }

/-! Masks (R122, R123). -/

def maskOf (q : Prog) (i : Nat) : BitVec 64 := q.masks.getD i 0
def withMask (q : Prog) (i : Nat) (m : BitVec 64) : Prog := { q with masks := q.masks.set i m }

/-- The lanes of vector `v` that the op's mask leaves live. -/
def liveMask (q : Prog) (w : Op) (drv : SPat) (v : List Nat) : BitVec 64 :=
  if veMEN w && (!drv.mlast || nth v 0 + 1 == nth drv.n 0) then maskOf q (veMSEL w) else BitVec.allOnes 64

/-- A 64-bit mask from lane bits. -/
def maskFrom (bs : List Bool) : BitVec 64 := bs.foldr (fun b m => (m <<< 1) ||| (if b then 1 else 0)) 0

/-! One lane's operands. -/

structure Lane where
  a     : Num
  b     : Num
  c     : Num
  ra    : Nat
  rb    : Nat
  /-- IMM, and its value in the op's kind -/
  imm   : BitVec 32
  immN  : Num
  isInt : Bool
  i     : Nat
  v0    : Nat
  /-- the lane's grain words, and a free word for a result the spec does not state -/
  g     : BitVec 32
  g2    : BitVec 32
  fr    : BitVec 32
  /-- the lane's bit of M[MOUT] as the op began, and of stream C read as a mask -/
  mo    : Bool
  mc    : Bool
  /-- A, B and O have one format (R125), and the scale bytes of A's and B's blocks -/
  same  : Bool
  sa    : Nat
  sb    : Nat

/-- Which pattern drives an op, which kind it computes in, its cycles and latency. -/
structure VecForm where
  drvO  : Bool
  kind  : Option Bool
  cyc   : Nat
  lat   : Nat
  nA    : Bool
  nB    : Bool
  nC    : Bool
  /-- C is a mask stream (R124) -/
  cMask : Bool

/-- Ops of the arithmetic kind, by how many streams they read. -/
def form1 : VecForm := ⟨false, none, 1, 8, true, false, false, false⟩
def form2 : VecForm := ⟨false, none, 1, 8, true, true, false, false⟩
def form3 : VecForm := ⟨false, none, 1, 8, true, true, true, false⟩
def form0 (int : Option Bool) (cyc lat : Nat) : VecForm := ⟨true, int, cyc, lat, false, false, false, false⟩

/-- Free words that one vector of an op may use: its issue cycle, and one word for each lane. -/
def freePerVec : Nat := 65
def freeLane (base j i : Nat) : BitVec 32 := (Config.freeWord (base + freePerVec * j + 1 + i)).setWidth 32

/-- A lane's grain word in issue cycle `c` of vector `j` (R130, R131). How many core cycles have passed since the generator was seeded or
topped up is free (log entry 1). -/
def grainLane (s : State) (core j i c : Nat) : BitVec 32 :=
  Config.grainOut (Config.grainAt (laneGrain s core i) ((Config.freeWord (s.free + freePerVec * j)).toNat + c))

/-! Results that a check found in error (R134). -/

/-- Lane `i` of vector `v` of a stream takes bits, or its scale, from the scratchpad word at `a`. -/
def readsWord (pt : SPat) (v : List Nat) (i a : Nat) : Bool :=
  let eb := elemBits pt.fmt
  let b := vAddr pt v
  let n := if pt.rep then 0 else eb * i
  (decide ((b + n / 8) / 8 ≤ a / 8) && decide (a / 8 ≤ (b + (n + eb - 1) / 8) / 8)) || (isMX pt.fmt && (vScaleAddr pt v + i / 32) / 8 == a / 8)

/-- The finding spoils the result of lane `i` of vector `j`: its own mismatch, or a word it reads that is uncorrectable. -/
def laneHit (q : Prog) (o : OpSlot) (fm : VecForm) (f : Option HwErr) (j : Nat) (v : List Nat) (i : Nat) : Bool :=
  match f with
  | none => false
  | some (.check _ i' j') => i' == i && j' == j
  | some (.spUe a) =>
    let st (n : Nat) : SPat := spat q n (veASIN o.word) o.iters
    (fm.nA && readsWord (st (vePA o.word)) v i a) || (fm.nB && readsWord (st (vePB o.word)) v i a) ||
      (fm.nC && !fm.cMask && readsWord (st (vePC o.word)) v i a) || (fm.cMask && vAddr (st (vePC o.word)) v / 8 == a / 8)
  | some _ => true

/-- The code that lane `i` of an output vector has now. -/
def oldCode (k : Core) (upper : Bool) (po : SPat) (v : List Nat) (i : Nat) : Nat :=
  (unpack (elemBits po.fmt) 64 (spRead k upper (vAddr po v) (8 * elemBits po.fmt))).getD i 0

/-- The lanes of vector `j` of an op. -/
def lanesAt (s : State) (k : Core) (p : ProgRef) (q : Prog) (o : OpSlot) (fm : VecForm) (j : Nat) (v : List Nat) : List Lane :=
  let w := o.word
  let pa := spat q (vePA w) (veASIN w) o.iters
  let pb := spat q (vePB w) (veASIN w) o.iters
  let pc := spat q (vePC w) (veASIN w) o.iters
  let po := spat q (vePO w) (veASOUT w) o.iters
  let none64 := (List.replicate 64 0, List.replicate 64 (Num.fin false 0 0))
  let A := if fm.nA then readVec k p.upper pa v else none64
  let B := if fm.nB then readVec k p.upper pb v else none64
  let C := if fm.nC && !fm.cMask then readVec k p.upper pc v else none64
  let cm := if fm.cMask then leNat (spRead k p.upper (vAddr pc v) 8) else 0
  let isInt := match fm.kind with | some b => b | none => isIntFmt (if fm.drvO then po.fmt else pa.fmt)
  let same := pa.fmt == pb.fmt && pa.fmt == po.fmt
  let scA := if fm.nA then vecScales k p.upper pa v else [127, 127]
  let scB := if fm.nB then vecScales k p.upper pb v else [127, 127]
  (List.range 64).map (fun i =>
    { a := A.2.getD i .nan, b := B.2.getD i .nan, c := C.2.getD i .nan, ra := A.1.getD i 0, rb := B.1.getD i 0
      imm := veIMM w, immN := if isInt then ofInt (veIMM w).toInt else ofF32 (veIMM w).toNat, isInt, i, v0 := nth v 0
      g := grainLane s p.core j i 0, g2 := grainLane s p.core j i 1, fr := freeLane s.free j i
      mo := bit (maskOf q (veMOUT w)) i, mc := cm.testBit i, same, sa := scA.getD (i / 32) 127, sb := scB.getD (i / 32) 127 })

/-- The latency of an elementwise op to an MX output where R125 gives another (VSEL, VSELC, VCVT). -/
def latMX (fmt : Nat) : Nat := if isMX fmt then 10 else 8

/-- An elementwise op: each live lane's result, converted to O once (R106 to R109, R123), but for those that `found` spoils. -/
def elementwise (fm : VecForm) (rnd : Option Rnd) (f : Lane → LaneOut) (p : ProgRef) (found : Option HwErr) (s : State) (q : Prog) (o : OpSlot) :
    Acc OpPhase :=
  let w := o.word
  let po := spat q (vePO w) (veASOUT w) o.iters
  let drv := if fm.drvO then po else spat q (vePA w) (veASIN w) o.iters
  let n := vCount drv.n
  let step (k : Core) (_ : Unit) (j : Nat) : Unit × List (Nat × List Byte) :=
    let v := vIndex drv.n j
    let live := liveMask q w drv v
    let ls := lanesAt s k p q o fm j v
    ((), writeVec po.fmt (rnd.getD (rndOf (veRND w))) (fun i => grainLane s p.core j i 0) (vAddr po v) (vScaleAddr po v)
      (ls.map (fun l => if bit live l.i then some (if laneHit q o fm found j v l.i then .keep (oldCode k p.upper po v l.i) else f l) else none)))
  let x := vecSteps p.upper fm.cyc fm.lat step n 0 { core := coreOf s p.core, acc := (), pend := [] }
  .ok .done (useFree (setCore s p.core x.core) (freePerVec * n))

/-- Clamp an integer result to INT32 (R113). -/
def satInt : Num → Num
  | .fin s m e => ofInt (clampInt 32 (scaledInt s m e (if e < 0 then e else 0)))
  | x => x

/-- The result of arithmetic in the op's kind: clamped in the integer kind, exact in the float kind. -/
def arith (l : Lane) (x : Num) : LaneOut := .val (if l.isInt then satInt x else x)

/-- An element's absolute value, exact (R106): of −2^31 it is 2^31, which the output format clamps (R108). -/
def absOf (x : Num) : Num := x.magn

/-- Minus an element, exact (R106): an integer zero has no sign. -/
def negOf (l : Lane) (x : Num) : Num := if l.isInt && x.eqv (.fin false 0 0) then x else x.negate

/-- A clamped to −|IMM| to |IMM| (R125); NaN stays NaN, and a NaN bound gives NaN (log entry 104). -/
def clampTo (x lim : Num) : Num :=
  if x.isNan then .nan else if lim.isNan then .nan
  else if x.lt lim.magn.negate then lim.magn.negate else if lim.magn.lt x then lim.magn else x

/-- Bits of an INT32 value. -/
def intBits (x : Num) : BitVec 32 := match x with | .fin s m e => BitVec.ofInt 32 (scaledInt s m e (if e < 0 then e else 0)) | _ => 0

def bitwise (f : BitVec 32 → BitVec 32 → BitVec 32) (l : Lane) : LaneOut := .val (ofInt (f (intBits l.a) (intBits l.b)).toInt)

def isVop (vop : Nat) (w : Op) : Bool := opClass w == 4 && veVOP w == vop

/-- Run a VEC op of this code. -/
def runVec (s : State) (p : ProgRef) (err : HwErr) (vop : Nat) (eff : Option HwErr → State → Prog → OpSlot → Acc OpPhase) : State :=
  runOp s p .vector err (isVop vop) eff

/-! Arithmetic and fills (R125). -/

def vaddL (l : Lane) : LaneOut := arith l (l.a.add l.b)
def execVadd (p : ProgRef) (err : HwErr) (s : State) : Out State := .next (runVec s p err 0x001 (elementwise form2 none vaddL p))

def vsubL (l : Lane) : LaneOut := arith l (l.a.add l.b.negate)
def execVsub (p : ProgRef) (err : HwErr) (s : State) : Out State := .next (runVec s p err 0x002 (elementwise form2 none vsubL p))

def vmulL (l : Lane) : LaneOut := arith l (l.a.mul l.b)
def execVmul (p : ProgRef) (err : HwErr) (s : State) : Out State := .next (runVec s p err 0x003 (elementwise form2 none vmulL p))

def vfmaL (l : Lane) : LaneOut := arith l ((l.a.mul l.b).add l.c)
def execVfma (p : ProgRef) (err : HwErr) (s : State) : Out State := .next (runVec s p err 0x004 (elementwise form3 none vfmaL p))

def vfmsL (l : Lane) : LaneOut := arith l ((l.a.mul l.b).add l.c.negate)
def execVfms (p : ProgRef) (err : HwErr) (s : State) : Out State := .next (runVec s p err 0x005 (elementwise form3 none vfmsL p))

def vmaxL (l : Lane) : LaneOut := .val (l.a.maxN l.b)
def execVmax (p : ProgRef) (err : HwErr) (s : State) : Out State := .next (runVec s p err 0x006 (elementwise form2 none vmaxL p))

def vminL (l : Lane) : LaneOut := .val (l.a.minN l.b)
def execVmin (p : ProgRef) (err : HwErr) (s : State) : Out State := .next (runVec s p err 0x007 (elementwise form2 none vminL p))

def vabsL (l : Lane) : LaneOut := .val (absOf l.a)
def execVabs (p : ProgRef) (err : HwErr) (s : State) : Out State := .next (runVec s p err 0x008 (elementwise form1 none vabsL p))

def vnegL (l : Lane) : LaneOut := .val (negOf l l.a)
def execVneg (p : ProgRef) (err : HwErr) (s : State) : Out State := .next (runVec s p err 0x009 (elementwise form1 none vnegL p))

def vaddsL (l : Lane) : LaneOut := arith l (l.a.add l.immN)
def execVadds (p : ProgRef) (err : HwErr) (s : State) : Out State := .next (runVec s p err 0x00A (elementwise form1 none vaddsL p))

def vmulsL (l : Lane) : LaneOut := arith l (l.a.mul l.immN)
def execVmuls (p : ProgRef) (err : HwErr) (s : State) : Out State := .next (runVec s p err 0x00B (elementwise form1 none vmulsL p))

def vfmasL (l : Lane) : LaneOut := arith l ((l.a.mul l.immN).add l.b)
def execVfmas (p : ProgRef) (err : HwErr) (s : State) : Out State := .next (runVec s p err 0x00C (elementwise form2 none vfmasL p))

def vclampsL (l : Lane) : LaneOut := arith l (clampTo l.a l.immN)
def execVclamps (p : ProgRef) (err : HwErr) (s : State) : Out State := .next (runVec s p err 0x00D (elementwise form1 none vclampsL p))

def vandL (l : Lane) : LaneOut := bitwise (fun a b => a &&& b) l
def execVand (p : ProgRef) (err : HwErr) (s : State) : Out State := .next (runVec s p err 0x010 (elementwise form2 none vandL p))

def vorL (l : Lane) : LaneOut := bitwise (fun a b => a ||| b) l
def execVor (p : ProgRef) (err : HwErr) (s : State) : Out State := .next (runVec s p err 0x011 (elementwise form2 none vorL p))

def vxorL (l : Lane) : LaneOut := bitwise (fun a b => a ^^^ b) l
def execVxor (p : ProgRef) (err : HwErr) (s : State) : Out State := .next (runVec s p err 0x012 (elementwise form2 none vxorL p))

def vshlL (l : Lane) : LaneOut := .val (ofInt ((intBits l.a) <<< (bits l.imm 4 0)).toInt)
def execVshl (p : ProgRef) (err : HwErr) (s : State) : Out State := .next (runVec s p err 0x013 (elementwise form1 none vshlL p))

def vsraL (l : Lane) : LaneOut := .val (ofInt (BitVec.sshiftRight (intBits l.a) (bits l.imm 4 0)).toInt)
def execVsra (p : ProgRef) (err : HwErr) (s : State) : Out State := .next (runVec s p err 0x014 (elementwise form1 none vsraL p))

def vfillL (l : Lane) : LaneOut := .val l.immN
def execVfill (p : ProgRef) (err : HwErr) (s : State) : Out State := .next (runVec s p err 0x020 (elementwise (form0 none 1 8) none vfillL p))

def viotaL (l : Lane) : LaneOut := .val (ofInt (64 * l.v0 + l.i : Nat))
def execViota (p : ProgRef) (err : HwErr) (s : State) : Out State := .next (runVec s p err 0x021 (elementwise (form0 (some true) 1 8) none viotaL p))

/-! Transcendental functions (R125, R537). -/

def formT : VecForm := { form1 with lat := 20 }

/-- The one fixed FP32 result for an input and output format, then rounded to a narrower output (R537). -/
def trans (op : Nat) (p : ProgRef) (found : Option HwErr) (s : State) (q : Prog) (o : OpSlot) : Acc OpPhase :=
  elementwise formT none (fun l => .val (transFn op (spat q (vePO o.word) (veASOUT o.word) o.iters).fmt l.a)) p found s q o

def execVexp2 (p : ProgRef) (err : HwErr) (s : State) : Out State := .next (runVec s p err 0x040 (trans 0x40 p))
def execVlog2 (p : ProgRef) (err : HwErr) (s : State) : Out State := .next (runVec s p err 0x041 (trans 0x41 p))
def execVrcp (p : ProgRef) (err : HwErr) (s : State) : Out State := .next (runVec s p err 0x042 (trans 0x42 p))
def execVrsqrt (p : ProgRef) (err : HwErr) (s : State) : Out State := .next (runVec s p err 0x043 (trans 0x43 p))
def execVtanh (p : ProgRef) (err : HwErr) (s : State) : Out State := .next (runVec s p err 0x044 (trans 0x44 p))

/-! Compares (R111, R124). -/

/-- An op that makes a mask: the lane's bit for live lanes, 0 for the others; MOUT takes the last vector's mask, and a mask stream
goes to O where `stream` says so. A vector's mask that `found` spoils is not written. -/
def masking (fm : VecForm) (stream : Op → Bool) (f : Lane → Bool) (p : ProgRef) (found : Option HwErr) (s : State) (q : Prog) (o : OpSlot) :
    Acc OpPhase :=
  let w := o.word
  let po := spat q (vePO w) (veASOUT w) o.iters
  let drv := if fm.drvO then po else spat q (vePA w) (veASIN w) o.iters
  let n := vCount drv.n
  let hit (j : Nat) : Bool := (List.range 64).any (laneHit q o fm found j (vIndex drv.n j))
  let step (k : Core) (_ : BitVec 64) (j : Nat) : BitVec 64 × List (Nat × List Byte) :=
    let v := vIndex drv.n j
    let live := liveMask q w drv v
    let m := maskFrom ((lanesAt s k p q o fm j v).map (fun l => bit live l.i && f l))
    (m, if stream w && !hit j then [(vAddr po v, leBytes 8 m.toNat)] else [])
  let x := vecSteps p.upper fm.cyc fm.lat step n 0 { core := coreOf s p.core, acc := 0, pend := [] }
  let s := useFree (setCore s p.core x.core) (freePerVec * n)
  match progOf s p with
  | some q => .ok .done (if hit (n - 1) then s else setProg s p (withMask q (veMOUT w) x.acc))
  | none => .ok .done s

def cmpStream (w : Op) : Bool := bit (veIMM w) 0

def eqL (l : Lane) : Bool := l.a.eqv l.b
def execVcmpeq (p : ProgRef) (err : HwErr) (s : State) : Out State := .next (runVec s p err 0x080 (masking form2 cmpStream eqL p))

def neL (l : Lane) : Bool := !l.a.eqv l.b
def execVcmpne (p : ProgRef) (err : HwErr) (s : State) : Out State := .next (runVec s p err 0x081 (masking form2 cmpStream neL p))

def ltL (l : Lane) : Bool := l.a.lt l.b
def execVcmplt (p : ProgRef) (err : HwErr) (s : State) : Out State := .next (runVec s p err 0x082 (masking form2 cmpStream ltL p))

def leL (l : Lane) : Bool := l.a.lt l.b || l.a.eqv l.b
def execVcmple (p : ProgRef) (err : HwErr) (s : State) : Out State := .next (runVec s p err 0x083 (masking form2 cmpStream leL p))

def gtL (l : Lane) : Bool := l.b.lt l.a
def execVcmpgt (p : ProgRef) (err : HwErr) (s : State) : Out State := .next (runVec s p err 0x084 (masking form2 cmpStream gtL p))

def geL (l : Lane) : Bool := l.b.lt l.a || l.a.eqv l.b
def execVcmpge (p : ProgRef) (err : HwErr) (s : State) : Out State := .next (runVec s p err 0x085 (masking form2 cmpStream geL p))

/-! Selects and conversions (R109, R125). -/

/-- The chosen operand: its own bits where A, B and O have one format, else its value (R111, R125; log entry 14 for an MX block's scale). -/
def choose (l : Lane) (first : Bool) : LaneOut :=
  if l.same then (if first then .raw l.ra l.sa l.fr else .raw l.rb l.sb l.fr) else .val (if first then l.a else l.b)

def outFmt (q : Prog) (o : OpSlot) : Nat := (spat q (vePO o.word) (veASOUT o.word) o.iters).fmt

def vselL (l : Lane) : LaneOut := choose l l.mo
def execVsel (p : ProgRef) (err : HwErr) (s : State) : Out State :=
  .next (runVec s p err 0x088 (fun found s q o => elementwise { form2 with lat := latMX (outFmt q o) } (some .rne) vselL p found s q o))

def vselcL (l : Lane) : LaneOut := choose l l.mc
def execVselc (p : ProgRef) (err : HwErr) (s : State) : Out State :=
  .next (runVec s p err 0x089 (fun found s q o =>
    elementwise { form3 with cMask := true, lat := latMX (outFmt q o) } (some .rne) vselcL p found s q o))

def vcvtL (l : Lane) : LaneOut := .val l.a
def execVcvt (p : ProgRef) (err : HwErr) (s : State) : Out State :=
  .next (runVec s p err 0x0C0 (fun found s q o => elementwise { form1 with lat := latMX (outFmt q o) } none vcvtL p found s q o))

/-- VBSCALE (R125): steps 1 to 3 of R109 on the live lanes of each block, two bytes at O's vector address. -/
def vbscaleEff (p : ProgRef) (found : Option HwErr) (s : State) (q : Prog) (o : OpSlot) : Acc OpPhase :=
  let w := o.word
  let po := spat q (vePO w) (veASOUT w) o.iters
  let pa := spat q (vePA w) (veASIN w) o.iters
  let n := vCount pa.n
  let step (k : Core) (_ : Unit) (j : Nat) : Unit × List (Nat × List Byte) :=
    let v := vIndex pa.n j
    let live := liveMask q w pa v
    let xs := (readVec k p.upper pa v).2
    let blk (b : Nat) : List Num := (List.range 32).filterMap (fun i => if bit live (32 * b + i) then xs[32 * b + i]? else none)
    let hit (b : Nat) : Bool := (List.range 32).any (fun i => laneHit q o form1 found j v (32 * b + i))
    ((), ([0, 1].filter (fun b => !hit b)).map (fun b => (vAddr po v + b, [BitVec.ofNat 8 (blockScale (mxElem po.fmt) (blk b))])))
  let x := vecSteps p.upper 1 10 step n 0 { core := coreOf s p.core, acc := (), pend := [] }
  .ok .done (setCore s p.core x.core)

def execVbscale (p : ProgRef) (err : HwErr) (s : State) : Out State := .next (runVec s p err 0x0C1 (vbscaleEff p))

/-! Reductions (R126, R127). -/

/-- A reduction: its identity and its combination of an accumulated value with a new element, or with another lane's. -/
structure RedOp where
  ident : Bool → Num
  fold  : Bool → Num → Num → Num
  join  : Bool → Num → Num → Num
  /-- a run with no live element yields +0 in a full reduction -/
  zero  : Bool

def sumOf (int : Bool) (a b : Num) : Num := if int then satInt (a.add b) else rnd32 (a.add b)

def redSum : RedOp := ⟨fun i => .fin (!i) 0 0, sumOf, sumOf, true⟩
def redSumsq : RedOp := ⟨fun i => .fin (!i) 0 0, fun i a x => sumOf i a (x.mul x), sumOf, true⟩
def redMax : RedOp := ⟨fun i => if i then ofInt (-(2 ^ 31)) else .inf true, fun _ a b => a.maxN b, fun _ a b => a.maxN b, false⟩
def redMin : RedOp := ⟨fun i => if i then ofInt (2 ^ 31 - 1) else .inf false, fun _ a b => a.minN b, fun _ a b => a.minN b, false⟩
def redAmax : RedOp := ⟨fun _ => .fin false 0 0, fun _ a b => a.maxN b, fun _ a b => a.maxN b, false⟩

/-- Combine lanes 2k and 2k + 1, through `n` levels to one (R127). -/
def treeJoin (f : Num → Num → Num) : Nat → List Num → List Num
  | 0, xs => xs
  | n + 1, xs => treeJoin f n ((List.range (xs.length / 2)).map (fun k => f (xs.getD (2 * k) .nan) (xs.getD (2 * k + 1) .nan)))

/-- What a reduction holds between vectors: each lane's value, whether it was live in this run, and whether a
finding spoilt it, and the full results so far, none for a spoilt one. -/
structure RedAcc where
  vals : List Num
  seen : List Bool
  lost : List Bool
  full : List (Option Num)

/-- A reduction of A, lanewise with IMM[0] = 0 and full with 1. `absFirst` takes |A| of each element. -/
def reduce (r : RedOp) (absFirst : Bool) (p : ProgRef) (found : Option HwErr) (s : State) (q : Prog) (o : OpSlot) : Acc OpPhase :=
  let w := o.word
  let pa := spat q (vePA w) (veASIN w) o.iters
  let po := spat q (vePO w) (veASOUT w) o.iters
  let int := isIntFmt pa.fmt
  let n0 := nth pa.n 0
  let n := vCount pa.n
  let runs := n / n0
  let full := bit (veIMM w) 0
  let no := List.replicate 64 false
  let fresh (f : List (Option Num)) : RedAcc := ⟨List.replicate 64 (r.ident int), no, no, f⟩
  let write (k : Core) (j : Nat) (ov : List Nat) (f : Nat → Option (Option Num)) : List (Nat × List Byte) :=
    writeVec po.fmt (rndOf (veRND w)) (fun i => grainLane s p.core j i 0) (vAddr po ov) (vScaleAddr po ov)
      ((List.range 64).map (fun i => (f i).map (fun x => match x with | some y => .val y | none => .keep (oldCode k p.upper po ov i))))
  let step (k : Core) (x : RedAcc) (j : Nat) : RedAcc × List (Nat × List Byte) :=
    let v := vIndex pa.n j
    let live := liveMask q w pa v
    let ls := lanesAt s k p q o form1 j v
    let vals := ls.map (fun l => if bit live l.i then r.fold int (x.vals.getD l.i .nan) (if absFirst then absOf l.a else l.a) else x.vals.getD l.i .nan)
    let seen := (List.range 64).map (fun i => x.seen.getD i false || bit live i)
    let lost := (List.range 64).map (fun i => x.lost.getD i false || (bit live i && laneHit q o form1 found j v i))
    if nth v 0 + 1 ≠ n0 then (⟨vals, seen, lost, x.full⟩, [])
    else if full then
      let one := if r.zero && !seen.any id then Num.fin false 0 0 else (treeJoin (r.join int) 6 vals).headD .nan
      let got := x.full ++ [if lost.any id then none else some one]
      let run := j / n0
      if run % 64 = 63 ∨ run + 1 = runs then (fresh [], write k j [run / 64, 0, 0, 0] (fun i => got[i]?))
      else (fresh got, [])
    else
      (fresh [], write k j [0, nth v 1, nth v 2, nth v 3]
        (fun i => if seen.getD i false then some (if lost.getD i false then none else some (vals.getD i .nan)) else none))
  let x := vecSteps p.upper 1 (if full then 14 else 8) step n 0 { core := coreOf s p.core, acc := fresh [], pend := [] }
  .ok .done (useFree (setCore s p.core x.core) (freePerVec * n))

def execVrsum (p : ProgRef) (err : HwErr) (s : State) : Out State := .next (runVec s p err 0x100 (reduce redSum false p))
def execVrmax (p : ProgRef) (err : HwErr) (s : State) : Out State := .next (runVec s p err 0x101 (reduce redMax false p))
def execVrmin (p : ProgRef) (err : HwErr) (s : State) : Out State := .next (runVec s p err 0x102 (reduce redMin false p))
def execVrsumsq (p : ProgRef) (err : HwErr) (s : State) : Out State := .next (runVec s p err 0x103 (reduce redSumsq false p))
def execVramax (p : ProgRef) (err : HwErr) (s : State) : Out State := .next (runVec s p err 0x104 (reduce redAmax true p))

/-! Grain (R107, R125, R130, R131). -/

def vgbitsL (l : Lane) : LaneOut := .val (ofInt l.g.toInt)
def execVgbits (p : ProgRef) (err : HwErr) (s : State) : Out State := .next (runVec s p err 0x140 (elementwise (form0 (some true) 1 6) none vgbitsL p))

def vgunifL (l : Lane) : LaneOut := .val (.fin false (l.g.toNat >>> 8) (-24))
def execVgunif (p : ProgRef) (err : HwErr) (s : State) : Out State := .next (runVec s p err 0x141 (elementwise (form0 (some false) 1 6) none vgunifL p))

def vgnormL (l : Lane) : LaneOut := .val (gnorm l.g l.g2)
def execVgnorm (p : ProgRef) (err : HwErr) (s : State) : Out State := .next (runVec s p err 0x142 (elementwise (form0 (some false) 2 6) none vgnormL p))

def vgkeepL (l : Lane) : Bool := decide (l.g.toNat < l.imm.toNat)
def execVgkeep (p : ProgRef) (err : HwErr) (s : State) : Out State :=
  .next (runVec s p err 0x143 (masking (form0 (some true) 1 6) (fun _ => true) vgkeepL p))

/-! Mask ops (R125). -/

/-- M[MOUT] takes a value computed from the masks and IMM. -/
def maskOp (f : Prog → Op → BitVec 64) (p : ProgRef) (_found : Option HwErr) (s : State) (q : Prog) (o : OpSlot) : Acc OpPhase :=
  .ok .done (setProg s p (withMask q (veMOUT o.word) (f q o.word)))

/-- The low `n` bits set. -/
def lowMask (n : Nat) : BitVec 64 := BitVec.ofNat 64 (2 ^ n - 1)

def msetnM (_ : Prog) (w : Op) : BitVec 64 := lowMask (bits (veIMM w) 6 0)
def execMsetn (p : ProgRef) (err : HwErr) (s : State) : Out State := .next (runVec s p err 0x180 (maskOp msetnM p))

def msetloM (q : Prog) (w : Op) : BitVec 64 := setBits (maskOf q (veMOUT w)) 31 0 (veIMM w).toNat
def execMsetlo (p : ProgRef) (err : HwErr) (s : State) : Out State := .next (runVec s p err 0x181 (maskOp msetloM p))

def msethiM (q : Prog) (w : Op) : BitVec 64 := setBits (maskOf q (veMOUT w)) 63 32 (veIMM w).toNat
def execMsethi (p : ProgRef) (err : HwErr) (s : State) : Out State := .next (runVec s p err 0x182 (maskOp msethiM p))

def mandM (q : Prog) (w : Op) : BitVec 64 := maskOf q (veMSEL w) &&& maskOf q (bits (veIMM w) 2 0)
def execMand (p : ProgRef) (err : HwErr) (s : State) : Out State := .next (runVec s p err 0x183 (maskOp mandM p))

def morM (q : Prog) (w : Op) : BitVec 64 := maskOf q (veMSEL w) ||| maskOf q (bits (veIMM w) 2 0)
def execMor (p : ProgRef) (err : HwErr) (s : State) : Out State := .next (runVec s p err 0x184 (maskOp morM p))

def mxorM (q : Prog) (w : Op) : BitVec 64 := maskOf q (veMSEL w) ^^^ maskOf q (bits (veIMM w) 2 0)
def execMxor (p : ProgRef) (err : HwErr) (s : State) : Out State := .next (runVec s p err 0x185 (maskOp mxorM p))

def mnotM (q : Prog) (w : Op) : BitVec 64 := ~~~(maskOf q (veMSEL w))
def execMnot (p : ProgRef) (err : HwErr) (s : State) : Out State := .next (runVec s p err 0x186 (maskOp mnotM p))

/-- MLOAD (R125): the 8 bytes at A's first vector address. -/
def mloadEff (p : ProgRef) (found : Option HwErr) (s : State) (q : Prog) (o : OpSlot) : Acc OpPhase :=
  let pa := spat q (vePA o.word) (veASIN o.word) o.iters
  .ok .done (if found.isSome then s else setProg s p (withMask q (veMOUT o.word) (BitVec.ofNat 64 (leNat (spRead (coreOf s p.core) p.upper (vAddr pa [0, 0, 0, 0]) 8)))))

def execMload (p : ProgRef) (err : HwErr) (s : State) : Out State := .next (runVec s p err 0x187 (mloadEff p))

end Sys2Proof.Machine
end

