-- ==== Sys2Proof/Machine/FixProg.lean ====
section
/-! DEFINITION. Fixer programs (R205 to R213, R540): their images, what LOAD_MODEL refuses in them, and how one runs on a chunk. -/

namespace Sys2Proof.Machine

/-- A fixer program image (R206). -/
structure FixImg where
  hdr    : BitVec 512
  ops    : List (BitVec 128)
  consts : List (BitVec 32)
  deriving DecidableEq, Repr

def fxNops (h : BitVec 512) : Nat := bits h 6 0
def fxPlanes (h : BitVec 512) : Nat := bits h 10 8
def fxGrad (h : BitVec 512) : Nat := bits h 14 12
def fxNconst (h : BitVec 512) : Nat := bits h 21 16
def fxSoff (h : BitVec 512) : Nat := bits h 127 80
/-- Format code and role of plane `n`: role 0 unused, 1 IN, 2 OUT, 3 INOUT. -/
def fxFmt (h : BitVec 512) (n : Nat) : Nat := bits h (35 + 8 * n) (32 + 8 * n)
def fxRole (h : BitVec 512) (n : Nat) : Nat := bits h (37 + 8 * n) (36 + 8 * n)
def fxIn (h : BitVec 512) (n : Nat) : Bool := fxRole h n % 2 == 1
def fxOut (h : BitVec 512) (n : Nat) : Bool := 2 ≤ fxRole h n
/-- The planes a program uses. -/
def fxUsed (h : BitVec 512) : List Nat := (List.range (fxPlanes h)).filter (fun n => fxRole h n != 0)
/-- The anchor plane (R204). -/
def fxAnchor (h : BitVec 512) : Nat := (fxUsed h).headD 0

/-- Program `n` of the resident model (R206, R338): its header, then its ops and its constants. -/
def fixImg (s : State) (m : Model) (n : Nat) : Acc FixImg :=
  (imageRead s m (m.fixOff + 2048 * n) 64).bind (fun hb s =>
    let h : BitVec 512 := BitVec.ofNat 512 (leNat hb)
    (imageRead s m (m.fixOff + 2048 * n + 64) (16 * fxNops h + 224)).bind (fun bs s =>
      .ok ⟨h, chunks 128 16 (fxNops h) bs, chunks 32 4 56 (bs.drop (16 * fxNops h))⟩ s))

/-! Sizes (R184, R205, R216). -/

/-- Element bytes of `n` elements, and scale bytes. -/
def elemBytes (fmt n : Nat) : Nat := (n * elemBits fmt + 7) / 8
def scaleBytes (fmt n : Nat) : Nat := if isMX fmt then (n + 31) / 32 else 0

/-- Bytes of a chunk of `n` elements across all planes: at most 80 KiB (R205). -/
def chunkBytes (h : BitVec 512) (n : Nat) : Nat :=
  (fxUsed h).foldl (fun a p => a + elemBytes (fxFmt h p) n + scaleBytes (fxFmt h p) n) 0
def chunkFits (h : BitVec 512) (n : Nat) : Bool := decide (chunkBytes h n ≤ 81920)

/-- Formats that the vector engine and the fixers read and write: every code but the reserved ones (R95, R110). -/
def veReads (fmt : Nat) : Bool := decide (fmt < 14)
def veWrites (fmt : Nat) : Bool := decide (fmt < 14)

/-! Ops of a fixer program (R207). -/

/-- How many operands an op reads, and how many stages it is (R210): none where the code is not a fixer's. -/
def fxArity (vop : Nat) : Option Nat :=
  match vop with
  | 0x01 | 0x02 | 0x03 | 0x06 | 0x07 | 0x0C | 0x10 | 0x11 | 0x12 => some 2
  | 0x04 | 0x05 => some 3
  | 0x08 | 0x09 | 0x0A | 0x0B | 0x0D | 0x13 | 0x14 => some 1
  | 0x20 | 0x140 | 0x141 | 0x142 => some 0
  | 0x40 | 0x41 | 0x42 | 0x43 | 0x44 => some 1
  | 0x80 | 0x81 | 0x82 | 0x83 | 0x84 | 0x85 | 0x88 => some 2
  | 0x143 => some 0
  | 0x180 | 0x181 | 0x182 | 0x183 | 0x184 | 0x185 | 0x186 => some 0
  | _ => none

def isCmp (vop : Nat) : Bool := (decide (0x80 ≤ vop) && decide (vop ≤ 0x85)) || vop == 0x143
def isMaskOp (vop : Nat) : Bool := decide (0x180 ≤ vop) && decide (vop ≤ 0x186)
def fxStages (vop : Nat) : Nat := if vop = 0x142 then 2 else 1

/-- An operand in a chunk's vector: its kind and its 32 widened bits in each lane. -/
structure Opd where
  int : Bool
  w   : List Nat
  deriving DecidableEq, Repr

def Opd.num (o : Opd) (i : Nat) : Num := if o.int then ofInt (sext 32 (o.w.getD i 0)) else ofF32 (o.w.getD i 0)
def Opd.zero (int : Bool) : Opd := ⟨int, List.replicate 64 0⟩

/-- Widened bits of an element: an FP32 or INT32 element's own, else its value's (R105). -/
def widenBits (fmt v sc : Nat) : Nat :=
  if fmt = 12 ∨ fmt = 13 then v
  else match widen fmt v sc with
    | .fin s m e => if isIntFmt fmt then toBits 32 (scaledInt s m e (if e < 0 then e else 0)) else toF32 (.fin s m e)
    | x => toF32 x

/-- A vector's run of a program (R209): temporaries, masks, and what each plane was written with: elements, written lanes, scales. -/
structure FixVec where
  temps : Tbl Opd
  masks : List (BitVec 64)
  outs  : Tbl (List (Option Nat) × List Nat)
  deriving DecidableEq, Repr

/-- What an operand selector reads. -/
def fxRead (h : BitVec 512) (ins : Nat → Opd) (scal : Nat → Nat) (v : FixVec) (sel : Nat) : Opd :=
  if 1 ≤ sel ∧ sel ≤ 6 then ins (sel - 1)
  else if 0x11 ≤ sel ∧ sel ≤ 0x16 then
    let fmt := fxFmt h (sel - 0x11)
    match v.outs.find? (fun e => e.1 == sel - 0x11) with
    | some (_, es, sc) => ⟨isIntFmt fmt, (List.range 64).map (fun i =>
        match es.getD i none with | some e => widenBits fmt e (sc.getD (i / 32) 127) | none => 0)⟩
    | none => Opd.zero (isIntFmt fmt)
  else if 0x20 ≤ sel ∧ sel ≤ 0x2F then tget (Opd.zero false) v.temps sel
  else if 0x40 ≤ sel then ⟨false, List.replicate 64 (scal (sel - 0x40))⟩
  else Opd.zero false

/-- The result of a lane of an arithmetic, fill, transcendental or grain op (R125). -/
def fxLane (vop fmt : Nat) (l : Lane) : LaneOut :=
  match vop with
  | 0x01 => vaddL l | 0x02 => vsubL l | 0x03 => vmulL l | 0x04 => vfmaL l | 0x05 => vfmsL l | 0x06 => vmaxL l | 0x07 => vminL l
  | 0x08 => vabsL l | 0x09 => vnegL l | 0x0A => vaddsL l | 0x0B => vmulsL l | 0x0C => vfmasL l | 0x0D => vclampsL l
  | 0x10 => vandL l | 0x11 => vorL l | 0x12 => vxorL l | 0x13 => vshlL l | 0x14 => vsraL l | 0x20 => vfillL l
  | 0x140 => vgbitsL l | 0x141 => vgunifL l | 0x142 => vgnormL l
  | op => .val (transFn op fmt l.a)

/-- A lane's bit of a compare or VGKEEP. -/
def fxBit (vop : Nat) (l : Lane) : Bool :=
  match vop with
  | 0x80 => eqL l | 0x81 => neL l | 0x82 => ltL l | 0x83 => leL l | 0x84 => gtL l | 0x85 => geL l
  | _ => vgkeepL l

/-- What a mask op gives M[MOUT] (R125). -/
def fxMaskVal (m : Nat → BitVec 64) (w : Op) : BitVec 64 :=
  let i := bits (veIMM w) 2 0
  match veVOP w with
  | 0x180 => lowMask (bits (veIMM w) 6 0)
  | 0x181 => setBits (m (veMOUT w)) 31 0 (veIMM w).toNat
  | 0x182 => setBits (m (veMOUT w)) 63 32 (veIMM w).toNat
  | 0x183 => m (veMSEL w) &&& m i
  | 0x184 => m (veMSEL w) ||| m i
  | 0x185 => m (veMSEL w) ^^^ m i
  | _ => ~~~(m (veMSEL w))

/-- The kind an op computes in (R121, R540): of its operands; of its output's format for VFILL; fixed for the grain ops. -/
def fxKind (h : BitVec 512) (a : Opd) (w : Op) : Bool :=
  match veVOP w with
  | 0x20 => decide (0x11 ≤ vePO w ∧ vePO w ≤ 0x16) && isIntFmt (fxFmt h (vePO w - 0x11))
  | 0x140 => true
  | 0x141 => false
  | 0x142 => false
  | 0x143 => false
  | _ => a.int

/-- Elements and scales that a plane takes from live lanes' results (R108, R109, R209). -/
def fxPlane (fmt : Nat) (rnd : Rnd) (r : Nat → BitVec 32) (outs : List (Option LaneOut)) : List (Option Nat) × List Nat :=
  if isMX fmt then
    let f := mxElem fmt
    let vals (b : Nat) : List Num := (List.range 32).filterMap (fun j => match outs.getD (32 * b + j) none with | some (.val x) => some x | _ => none)
    let sc := [blockScale f (vals 0), blockScale f (vals 1)]
    ((List.range 64).map (fun i => (outs.getD i none).map (fun x => match x with | .val x => encodeMX f (nth sc (i / 32)) rnd (r i) x | .raw n _ _ => n | .keep n => n)), sc)
  else
    ((List.range 64).map (fun i => (outs.getD i none).map (fun x => match x, elemFmt fmt with
      | .val x, some e => encodeElem e rnd (r i) x
      | .raw n _ _, _ => n
      | .keep n, _ => n
      | .val _, none => 0)), [])

/-- One op of a program on a vector of `live` lanes; `gs` gives its lanes' generators as the chunk began, and `fr` is the first of the 65
free words it may use: the cycles since then, and one for each lane. -/
def fxOp (h : BitVec 512) (ins : Nat → Opd) (scal : Nat → Nat) (gs : Nat → BitVec 128) (lanes : Nat) (fr : Nat) (v : FixVec) (w : Op) : FixVec :=
  let gw (i c : Nat) : BitVec 32 := Config.grainOut (Config.grainAt (gs i) ((Config.freeWord fr).toNat + c))
  let vop := veVOP w
  let m (i : Nat) : BitVec 64 := v.masks.getD i 0
  if isMaskOp vop then { v with masks := v.masks.set (veMOUT w) (fxMaskVal m w) }
  else
    let a := fxRead h ins scal v (vePA w)
    let b := fxRead h ins scal v (vePB w)
    let c := fxRead h ins scal v (vePC w)
    let int := fxKind h a w
    let po := vePO w
    let plane := decide (0x11 ≤ po ∧ po ≤ 0x16)
    let fmt := if plane then fxFmt h (po - 0x11) else if int then 13 else 12
    let live (i : Nat) : Bool := decide (i < lanes) && (!veMEN w || bit (m (veMSEL w)) i)
    let ls : List Lane := (List.range 64).map (fun i =>
      { a := a.num i, b := b.num i, c := c.num i, ra := a.w.getD i 0, rb := b.w.getD i 0
        imm := veIMM w, immN := if int then ofInt (veIMM w).toInt else ofF32 (veIMM w).toNat, isInt := int, i, v0 := 0
        g := gw i 0, g2 := gw i 1, fr := freeLane fr 0 i
        mo := bit (m (veMOUT w)) i, mc := false, same := true, sa := 127, sb := 127 })
    let setTemp (int : Bool) (f : Lane → Option Nat) (v : FixVec) : FixVec :=
      let old := tget (Opd.zero false) v.temps po
      { v with temps := tset (Opd.zero false) v.temps po ⟨int, ls.map (fun l => (f l).getD (old.w.getD l.i 0))⟩ }
    if isCmp vop then
      let bs := ls.map (fun l => live l.i && fxBit vop l)
      let v := { v with masks := v.masks.set (veMOUT w) (maskFrom bs) }
      if po = 0 then v else setTemp true (fun l => some (b2n (bs.getD l.i false))) v
    else if vop = 0x88 then
      if po = 0 then v else setTemp a.int (fun l => if live l.i then some (if l.mo then l.ra else l.rb) else none) v
    else if plane then
      { v with outs := tput v.outs (po - 0x11) (fxPlane fmt (rndOf (veRND w)) (fun i => gw i 0)
          (ls.map (fun l => if live l.i then some (fxLane vop fmt l) else none))) }
    else if vop = 0x20 then setTemp false (fun l => if live l.i then some (veIMM w).toNat else none) v
    else
      setTemp int (fun l => if live l.i then (match fxLane vop fmt l with
        | .val x => some (encodeElem (if int then .int 32 else .flt fp32) (rndOf (veRND w)) (gw l.i 0) x)
        | .raw n _ _ => some n
        | .keep n => some n) else none) v

/-- Free words that one vector of a program may use. -/
def fxFree (img : FixImg) : Nat := freePerVec * img.ops.length

/-- A program on one vector. -/
def fxVector (img : FixImg) (ins : Nat → Opd) (scal : Nat → Nat) (gs : Nat → BitVec 128) (lanes fr : Nat) : FixVec :=
  (img.ops.foldl (fun (x : FixVec × Nat) w => (fxOp img.hdr ins scal gs lanes x.2 x.1 w, x.2 + freePerVec))
    (⟨[], List.replicate 8 0, []⟩, fr)).1

/-- A plane's bytes of a chunk as an operand of vector `j`. -/
def planeOpd (fmt : Nat) (es : List Nat) (sc : List Byte) (j : Nat) : Opd :=
  ⟨isIntFmt fmt, (List.range 64).map (fun i => widenBits fmt (es.getD (64 * j + i) 0) ((sc.getD (2 * j + i / 32) 127).toNat))⟩

/-- Bytes that a plane's vector of `lanes` lanes writes, from element `64·j` on: element writes by byte offset, and scale bytes. -/
def planeWrites (fmt lanes j : Nat) (x : List (Option Nat) × List Nat) : List (Nat × List Byte) × List (Nat × List Byte) :=
  let eb := elemBits fmt
  let es := x.1.take lanes
  if isMX fmt then
    ([(8 * eb * j, pack eb (es.map (fun e => e.getD 0)))],
     [(2 * j, (x.2.take ((lanes + 31) / 32)).map (BitVec.ofNat 8))])
  else if eb < 8 then ([(8 * eb * j, pack eb (es.map (fun e => e.getD 0)))], [])
  else ((List.range lanes).filterMap (fun i => (es.getD i none).map (fun e => (8 * eb * j + i * (eb / 8), leBytes (eb / 8) e))), [])

/-- Writes at rising offsets, joined where they touch. -/
def joinWrites : List (Nat × List Byte) → List (Nat × List Byte)
  | [] => []
  | (a, x) :: t =>
    match joinWrites t with
    | (b, y) :: r => if a + x.length = b then (a, x ++ y) :: r else (a, x) :: (b, y) :: r
    | [] => [(a, x)]

/-- What a program writes on a chunk of `n` elements: for each OUT or INOUT plane, element bytes and scale bytes by offset. `ins` gives
each input plane's element and scale bytes. -/
def fxChunk (img : FixImg) (scal : Nat → Nat) (gs : Nat → BitVec 128) (n fr : Nat) (ins : Nat → List Byte × List Byte) :
    List (Nat × List (Nat × List Byte) × List (Nat × List Byte)) :=
  let h := img.hdr
  let planes : List (Nat × List Nat × List Byte) := ((fxUsed h).filter (fxIn h)).map (fun p => (p, unpack (elemBits (fxFmt h p)) n (ins p).1, (ins p).2))
  let vecs := (List.range ((n + 63) / 64)).map (fun j =>
    (j, fxVector img (fun p => match planes.find? (fun e => e.1 == p) with
        | some (_, es, sc) => planeOpd (fxFmt h p) es sc j
        | none => Opd.zero false) scal gs (min 64 (n - 64 * j)) (fr + fxFree img * j)))
  ((fxUsed h).filter (fxOut h)).map (fun p =>
    let ws := vecs.map (fun x => planeWrites (fxFmt h p) (min 64 (n - 64 * x.1)) x.1 (tget ([], []) x.2.outs p))
    (p, joinWrites (ws.flatMap (·.1)), joinWrites (ws.flatMap (·.2))))

/-! What LOAD_MODEL refuses (R213). -/

/-- What a check of a program's ops has seen so far: kinds of temporaries written, and planes written. -/
structure FixScan where
  temps  : List (Nat × Bool)
  wrote  : List Nat
  stages : Nat
  deriving DecidableEq, Repr

/-- The kind of an input selector, none where it may not be read here. -/
def fxSelKind (h : BitVec 512) (x : FixScan) (sel : Nat) : Option Bool :=
  if 1 ≤ sel ∧ sel ≤ 6 then (if sel ≤ fxPlanes h ∧ fxIn h (sel - 1) = true then some (isIntFmt (fxFmt h (sel - 1))) else none)
  else if 0x11 ≤ sel ∧ sel ≤ 0x16 then (if x.wrote.contains (sel - 0x11) then some (isIntFmt (fxFmt h (sel - 0x11))) else none)
  else if 0x20 ≤ sel ∧ sel ≤ 0x2F then (x.temps.find? (fun e => e.1 == sel)).map (·.2)
  else if 0x40 ≤ sel ∧ sel ≤ 0x43 then some false
  else if 0x48 ≤ sel ∧ sel ≤ 0x7F then (if sel - 0x48 < fxNconst h then some false else none)
  else none

/-- Whether the RND field is one the op allows with its output (R125, R133): `wide` an FP32 output. -/
def rndOk (vop rnd : Nat) (wide : Bool) : Bool :=
  if rnd = 3 then false
  else if (0x01 ≤ vop ∧ vop ≤ 0x21) ∨ vop = 0xC0 ∨ (0x100 ≤ vop ∧ vop ≤ 0x104) ∨ vop = 0x140 then true
  else if vop = 0x141 ∨ vop = 0x142 then rnd != 1
  else if 0x40 ≤ vop ∧ vop ≤ 0x44 then rnd == 0 || !wide
  else rnd == 0

/-- One op of a program: none where R213 refuses it. -/
def fxOpCheck (h : BitVec 512) (x : FixScan) (w : Op) : Option FixScan :=
  let vop := veVOP w
  let po := vePO w
  let planeOut := decide (0x11 ≤ po ∧ po ≤ 0x16)
  let tempOut := decide (0x20 ≤ po ∧ po ≤ 0x2F)
  let sels := [vePA w, vePB w, vePC w]
  match fxArity vop with
  | none => none
  | some n =>
    let kinds := (sels.take n).map (fxSelKind h x)
    let k0 := (kinds.headD (some false)).getD false
    let masky := isCmp vop || vop == 0x88
    let outOk := if isMaskOp vop then po == 0 else if masky then po == 0 || tempOut else planeOut || tempOut
    let kindsOk := kinds.all (·.isSome) && kinds.all (· == some k0)
    let opKind := if 0x10 ≤ vop ∧ vop ≤ 0x14 then k0 else if 0x40 ≤ vop ∧ vop ≤ 0x44 then !k0 else true
    let fmt := if planeOut then fxFmt h (po - 0x11) else 12
    let usesImm := vop == 0x0A || vop == 0x0B || vop == 0x0C || vop == 0x0D || vop == 0x13 || vop == 0x14 || vop == 0x20 || vop == 0x143
      || (isMaskOp vop && vop != 0x186) || isCmp vop
    let immOk := usesImm || veIMM w == 0
    let maskFields := (if vop = 0x180 ∨ vop = 0x181 ∨ vop = 0x182 then !veMEN w && veMSEL w == 0 else if isMaskOp vop then !veMEN w
        else veMEN w || veMSEL w == 0)
      && (isMaskOp vop || isCmp vop || vop == 0x88 || veMOUT w == 0)
    if opClass w == 4 && opOpc w == 0 && bits w 117 96 == 0 && veASIN w == 0 && veASOUT w == 0
      && (sels.drop n).all (· == 0) && kindsOk && opKind && outOk && immOk && maskFields
      && (!planeOut || (decide (po - 0x11 < fxPlanes h) && fxOut h (po - 0x11) && !x.wrote.contains (po - 0x11)))
      && (vop != 0x180 || decide (bits (veIMM w) 31 0 ≤ 64))
      && rndOk vop (veRND w) (fmt == 12)
    then
      let kind := if isCmp vop then true else if vop = 0x20 then false else if vop = 0x140 then true else if vop = 0x141 ∨ vop = 0x142 then false else k0
      some { temps := if tempOut then (po, kind) :: x.temps.filter (fun e => e.1 != po) else x.temps
             wrote := if planeOut then (po - 0x11) :: x.wrote else x.wrote
             stages := x.stages + fxStages vop }
    else none

/-- Ops from index `i`: the first that is refused, or what was seen. -/
def fxScan (h : BitVec 512) : Nat → FixScan → List Op → Except Nat FixScan
  | _, x, [] => .ok x
  | i, x, w :: t => match fxOpCheck h x w with
    | some x => fxScan h (i + 1) x t
    | none => .error i

/-- The header of a program (R206, R213). -/
def fxHeaderOk (h : BitVec 512) : Bool :=
  decide (1 ≤ fxNops h ∧ fxNops h ≤ 64) && !bit h 7 && decide (1 ≤ fxPlanes h ∧ fxPlanes h ≤ 6) && !bit h 11 && !bit h 15
    && decide (fxNconst h ≤ 56) && bits h 31 22 == 0 && bits h 511 128 == 0 && fxSoff h % 64 == 0
    && (List.range 6).all (fun n => if n < fxPlanes h then bits h (39 + 8 * n) (38 + 8 * n) == 0 else bits h (39 + 8 * n) (32 + 8 * n) == 0)
    && (fxUsed h).all (fun n => (!fxIn h n || veReads (fxFmt h n)) && (!fxOut h n || veWrites (fxFmt h n)))
    && decide (fxGrad h < fxPlanes h) && fxIn h (fxGrad h)

/-- The op index that LOAD_MODEL records for a refused program (0 for its header), none where it is taken. -/
def fixRefused (img : FixImg) : Option Nat :=
  if !fxHeaderOk img.hdr || (img.consts.drop (fxNconst img.hdr)).any (· != 0) then some 0
  else match fxScan img.hdr 0 ⟨[], [], 0⟩ img.ops with
    | .error i => some i
    | .ok x =>
      if x.stages > 64 ∨ ((fxUsed img.hdr).filter (fxOut img.hdr)).any (fun n => !x.wrote.contains n) = true then some 0 else none

end Sys2Proof.Machine
end

