-- ==== Sys2Proof/Machine/LoupeMap.lean ====
section
/-! DEFINITION. Tables and partition maps of the loupes (R181 to R184). -/

namespace Sys2Proof.Machine

/-! A registry entry (R181). -/
def teV (e : BitVec 512) : Bool := bit e 0
def teCoded (e : BitVec 512) : Bool := bit e 1
def teCtx (e : BitVec 512) : Nat := bits e 13 2
def teFmt (e : BitVec 512) : Nat := bits e 17 14
def tePbits (e : BitVec 512) : Nat := bits e 22 18
def teStride (e : BitVec 512) : Nat := 2 ^ bits e 27 23
def teRowBytes (e : BitVec 512) : Nat := bits e 63 32
def teMapCva (e : BitVec 512) : Nat := bits e 127 64

/-- A row's elements, its scale bytes, and the distance of scale rows (R184). -/
def teElems (e : BitVec 512) : Nat := teRowBytes e * 8 / elemBits (teFmt e)
def teScales (e : BitVec 512) : Nat := if isMX (teFmt e) then teElems e / 32 else 0
def teSstride (e : BitVec 512) : Nat := if teFmt e = 4 ∨ teFmt e = 5 then teStride e / 32 else teStride e / 16

/-! A partition map's entry (R182). -/
def pmPkg (w : BitVec 256) : Nat := bits w 11 0
def pmRows (w : BitVec 256) : Nat := bits w 47 16
def pmBase (w : BitVec 256) : Nat := bits w 127 64
def pmSbase (w : BitVec 256) : Nat := bits w 191 128
def pmLz (w : BitVec 256) : Nat := bits w 255 192

/-- The XOR of an id's chunks of `pb` bits (R183). -/
def bucketOf (pb id : Nat) : Nat := if pb = 0 then 0 else foldBits pb 64 id

/-- Where a row lies: its package, row address, scale address and whether its local index is below ROWS (R183). -/
structure RowAt where
  pkg  : Nat
  row  : Nat
  sc   : Nat
  ok   : Bool
  deriving DecidableEq, Repr

def rowAt (t : TableReg) (id : Nat) : RowAt :=
  let pb := tePbits t.entry
  let loc := id / 2 ^ pb
  let w := t.map.getD (bucketOf pb id) 0
  ⟨pmPkg w, pmBase w + loc * teStride t.entry, pmSbase w + loc * teSstride t.entry, decide (loc < pmRows w)⟩

/-- This package's landing zone of a table, that of its first bucket here; 0 where it has none (R182, R197). -/
def lzOf (t : TableReg) (pkg : Nat) : Nat := match t.map.find? (fun w => pmPkg w == pkg) with | some w => pmLz w | none => 0

def tableReg (s : State) (tid : Nat) : TableReg := tget ⟨0, []⟩ s.tables tid

/-! A call block (R187). -/
def lcTID (b : BitVec 512) : Nat := bits b 7 0
def lcOP (b : BitVec 512) : Nat := bits b 11 8
def lcPOOLK (b : BitVec 512) : Nat := bits b 13 12
def lcWGT (b : BitVec 512) : Bool := bit b 14
def lcCSP (b : BitVec 512) : Bool := bit b 15
def lcCCODED (b : BitVec 512) : Bool := bit b 16
def lcCFMT (b : BitVec 512) : Nat := bits b 20 17
def lcMODE (b : BitVec 512) : Bool := bit b 21
def lcNIDX (b : BitVec 512) : Nat := bits b 48 32
def lcNBAGS (b : BitVec 512) : Nat := bits b 80 64
def lcCSTRIDE (b : BitVec 512) : Nat := bits b 127 96
def lcIDXCVA (b : BitVec 512) : Nat := bits b 191 128
def lcOFFCVA (b : BitVec 512) : Nat := bits b 255 192
def lcWCVA (b : BitVec 512) : Nat := bits b 319 256
def lcCADDR (b : BitVec 512) : Nat := bits b 383 320
def lcREPCVA (b : BitVec 512) : Nat := bits b 447 384
def lcFIXPROG (b : BitVec 512) : Nat := bits b 463 448

def loupeOf (s : State) (n : Nat) : Loupe := tget Loupe.idle s.loupes n
def setLoupe (s : State) (n : Nat) (l : Loupe) : State := { s with loupes := tset Loupe.idle s.loupes n l }
def setRun (s : State) (n : Nat) (r : Option LoupeRun) : State := setLoupe s n { loupeOf s n with run := r }

end Sys2Proof.Machine
end

