-- ==== Sys2Proof/Machine/Rates.lean ====
section
/-! DEFINITION. Correctly rounded divisions and square roots (R220) and the learning rate of the schedule engine (R226, R227). -/

namespace Sys2Proof.Machine

def fp64 : FFmt := ⟨11, 52, 1023, .ieee⟩
/-- One rounding to 64-bit floating point by RNE. -/
def rnd64 (x : Num) : Num := decodeFlt fp64 (encodeFlt fp64 .rne 0 x)
def enc64 (x : Num) : Nat := encodeFlt fp64 .rne 0 x

/-- A quotient with every digit that one rounding needs: 200 binary digits and a sticky last one. -/
def Num.quot : Num → Num → Num
  | .nan, _ => .nan
  | _, .nan => .nan
  | .inf _, .inf _ => .nan
  | .inf a, .fin s _ _ => .inf (a != s)
  | .fin s _ _, .inf b => .fin (s != b) 0 0
  | .fin s m e, .fin s' m' e' =>
    if m' = 0 then (if m = 0 then .nan else .inf (s != s'))
    else if m = 0 then .fin (s != s') 0 0
    else
      let k := 200 + Nat.log2 m'
      let q := (m <<< k) / m'
      .fin (s != s') (2 * q + b2n ((m <<< k) % m' != 0)) (e - e' - k - 1)

/-- A square root with a sticky last digit. -/
def Num.root : Num → Num
  | .nan => .nan
  | .inf s => if s then .nan else .inf false
  | .fin s m e =>
    if m = 0 then .fin s 0 0
    else if s then .nan
    else
      let m' := if e % 2 = 0 then m else 2 * m
      let e' := if e % 2 = 0 then e else e - 1
      let r := isqrt (m' <<< 256)
      .fin false (2 * r + b2n (r * r != m' <<< 256)) (e' / 2 - 128 - 1)

def add64 (a b : Num) : Num := rnd64 (a.add b)
def sub64 (a b : Num) : Num := rnd64 (a.add b.negate)
def mul64 (a b : Num) : Num := rnd64 (a.mul b)
def div64 (a b : Num) : Num := rnd64 (a.quot b)
def nat64 (n : Nat) : Num := rnd64 (.fin false n 0)
/-- The larger of two finite values. -/
def max64 (a b : Num) : Num := if a.lt b then b else a

/-- A 64-bit result at most one step from the exact value: which, the spec does not state (log entry 11). -/
def near64 (op : Nat) (arg : Nat) (x : Num) : Num :=
  match x with
  | .fin s m e =>
    let v := enc64 (.fin s m e)
    let o : Int := (if v.testBit 63 then -((v % 2 ^ 63 : Nat) : Int) else (v : Int)) + ((Config.transPick op arg 64 % 3 : Nat) : Int) - 1
    decodeFlt fp64 (if o < 0 then 2 ^ 63 + (-o).toNat else o.toNat)
  | y => y

/-- Terms of the cosine's series in fixed point of 160 bits: `x2` the argument's square, from term `k`. -/
def cosSeries (x2 : Nat) : Nat → Nat → Int → Int → Int
  | 0, _, _, acc => acc
  | n + 1, k, term, acc =>
    let t := -(term * x2) / (((2 * k + 1) * (2 * k + 2) * 2 ^ 160 : Nat) : Int)
    cosSeries x2 n (k + 1) t (acc + t)

/-- The cosine of a value from 0 to π. -/
def cosFx (m : Nat) (e : Int) : Num :=
  let x := shiftBy m (e + 160)
  let c := cosSeries ((x * x) >>> 160) 40 0 (2 ^ 160 : Nat) (2 ^ 160 : Nat)
  .fin (decide (c < 0)) c.natAbs (-160)

/-- π in 64-bit floating point. -/
def pi64 : Num := decodeFlt fp64 0x400921FB54442D18

/-- cos(π q) for q from 0 to 1. -/
def cosPi64 (q : Num) : Num :=
  match mul64 pi64 q with
  | .fin _ m e => if m = 0 then .fin false 1 0 else near64 0x100 (enc64 q) (cosFx m e)
  | _ => .nan

/-- gamma^u for a gamma between 0 and 1: 2 to the power u · log2 gamma, in fixed point. -/
def pow64 (gamma : Num) (u : Nat) : Num :=
  match gamma with
  | .fin _ m e =>
    if u = 0 then .fin false 1 0
    else
      let l := Nat.log2 m
      let d := log2Digits 140 (if l ≤ fxBits then m <<< (fxBits - l) else m >>> (l - fxBits)) 0
      let w : Int := ((((l : Int) + e) * (2 ^ 140 : Nat)) + d) * u
      let (i, f) := splitFx (decide (w < 0)) w.natAbs (-140) 96
      if i < -1100 then .fin false 0 0
      else near64 0x101 (enc64 gamma + u) (.fin false (exp2Frac f 96 0 (1 <<< fxBits)) (i - fxBits))
  | _ => .nan

/-! The schedule entry (R226). -/
def seBASE (e : BitVec 512) : Num := ofF32 (bits e 31 0)
def seMINLR (e : BitVec 512) : Num := ofF32 (bits e 63 32)
def seWARMUP (e : BitVec 512) : Nat := bits e 95 64
def seDECAY (e : BitVec 512) : Nat := bits e 98 96
def seDSTEPS (e : BitVec 512) : Nat := bits e 159 128
def seGAMMA (e : BitVec 512) : Num := ofF32 (bits e 191 160)
def seRPERIOD (e : BitVec 512) : Nat := bits e 223 192
def seRMULT (e : BitVec 512) : Nat := bits e 239 224
def seAPPLIED (e : BitVec 512) : Nat := bits e 319 256
def seV (e : BitVec 512) : Bool := bit e 384

def posFinite : Num → Bool
  | .fin s m _ => !s && m != 0
  | _ => false

/-- V = 1, and every field as R226 has it. -/
def seValid (e : BitVec 512) : Bool :=
  let lin := seDECAY e == 1 || seDECAY e == 2
  let one : Num := .fin false 1 0
  seV e && posFinite (seBASE e)
    && (match seMINLR e with | .fin s m _ => (m == 0 || !s) && !(seBASE e).lt (seMINLR e) | _ => false)
    && decide (seDECAY e ≤ 4) && bits e 127 99 == 0 && bits e 255 240 == 0 && bits e 511 385 == 0
    && (if lin && seRPERIOD e == 0 then decide (1 ≤ seDSTEPS e) else seDSTEPS e == 0)
    && (if seDECAY e = 3 then posFinite (seGAMMA e) && (seGAMMA e).lt one else bits e 191 160 == 0)
    && (seDECAY e != 0 || seRPERIOD e == 0)
    && (if seRPERIOD e = 0 then seRMULT e == 0 else decide (0x100 ≤ seRMULT e))

/-- The restarts of R227: the place in the present period, and that period. `fuel` is at least the place plus one. -/
def restart (rmult : Nat) : Nat → Nat → Nat → Nat × Nat
  | 0, u, p => (u, p)
  | f + 1, u, p => if p ≤ u then restart rmult f (u - p) ((p * rmult) >>> 8) else (u, p)

/-- The rate for an applied-step count, as FP32 bits (R227). -/
def rateAt (e : BitVec 512) (n : Nat) : Nat :=
  let base := seBASE e
  let lo := seMINLR e
  let w := seWARMUP e
  let one : Num := .fin false 1 0
  toF32 (
    if 0 < w ∧ n < w then div64 (mul64 base (nat64 (n + 1))) (nat64 w)
    else if seDECAY e = 0 then base
    else
      let u := n - w
      let (u, p) := if 0 < seRPERIOD e then restart (seRMULT e) (u + 1) u (seRPERIOD e) else (u, seDSTEPS e)
      let q := div64 (nat64 (min u p)) (nat64 p)
      match seDECAY e with
      | 1 => add64 lo (mul64 (sub64 base lo) (sub64 one q))
      | 2 => add64 lo (div64 (mul64 (sub64 base lo) (add64 one (cosPi64 q))) (nat64 2))
      | 3 => max64 lo (mul64 base (pow64 (seGAMMA e) u))
      | _ =>
        let m := nat64 (max w 1)
        max64 lo (mul64 base (rnd64 (div64 m (add64 (nat64 u) m)).root)))

end Sys2Proof.Machine
end

