-- ==== Sys2Proof/Machine/Fixer.lean ====
section
/-! DEFINITION. The fixers and the schedule engine (09): calls, pass one, the decision, pass two, rows, and the schedule window. -/

namespace Sys2Proof.Machine

/-! Call block and segments (R214, R215). -/

def fcNSEG (b : BitVec 512) : Nat := bits b 15 0
def fcMAXNORM (b : BitVec 512) : Nat := bits b 63 32
def fcNREPL (b : BitVec 512) : Nat := bits b 79 64
def fcGROUP (b : BitVec 512) : Nat := bits b 95 80
def fcSEGCVA (b : BitVec 512) : Nat := bits b 191 128
def fcREPCVA (b : BitVec 512) : Nat := bits b 255 192

def fsPROG (g : BitVec 1024) : Nat := bits g 9 0
def fsCODED (g : BitVec 1024) (n : Nat) : Bool := bit g (10 + n)
def fsNELEM (g : BitVec 1024) : Nat := bits g 63 16
def fsECVA (g : BitVec 1024) (n : Nat) : Nat := bits g (191 + 64 * n) (128 + 64 * n)
def fsSCVA (g : BitVec 1024) (n : Nat) : Nat := bits g (575 + 64 * n) (512 + 64 * n)

/-- A package-wide fault of a fixer call: no one fixer found it. -/
def fixFault (code : Nat) (addr : Option Nat) (detail : BitVec 64) : UnitFault := ⟨code, 3, 0, 15, addr, detail⟩

/-- The fixers read and write for a call as this agent (R204). -/
def fixReq (ctx : Nat) : Req := ⟨whoFixers, ctx⟩

/-- Whether a call block's own fields are right (R214, R216). -/
def fcBlockOk (s : State) (cva : Nat) (upd : Bool) (b : BitVec 512) : Bool :=
  let norm := ofF32 (fcMAXNORM b)
  cva % 64 == 0 && decide (1 ≤ fcNSEG b) && bits b 31 16 == 0 && bits b 127 96 == 0 && bits b 511 256 == 0 && fcSEGCVA b % 64 == 0
    && (if upd then
        (match norm with | .fin sg m _ => m == 0 || !sg | _ => false) && decide (1 ≤ fcNREPL b)
          && (fcGROUP b == 0 || (decide (fcGROUP b ≤ 255) && bit (tget (0 : BitVec 512) s.pod.groups (fcGROUP b)) 0))
        else fcMAXNORM b == 0 && fcNREPL b == 0 && fcGROUP b == 0)

/-- Whether a segment is right for its program (R215, R216). -/
def fsOk (h : BitVec 512) (g : BitVec 1024) : Bool :=
  let n := fsNELEM g
  decide (32 ≤ n ∧ n ≤ 2 ^ 47) && n % 32 == 0 && bits g 127 64 == 0 && bits g 1023 896 == 0
    && chunkFits h (min n 4096)
    && (List.range 6).all (fun p =>
      let used := (fxUsed h).contains p
      let fmt := fxFmt h p
      (used || (fsECVA g p == 0 && fsSCVA g p == 0 && !fsCODED g p))
        && (!used || isMX fmt || fsSCVA g p == 0)
        && (!(used && fsCODED g p) || (decide (8 ≤ elemBits fmt) && fsECVA g p % 4096 == 0 && n % 4096 == 0)))

/-! Planes of a chunk. -/

/-- Where a plane of a segment begins: nowhere, at a CVA with its scale plane, at a PPA with its scale plane, or in the staging buffer. -/
inductive PlaneAt where
  | absent
  | cva (a sa : Nat) (coded : Bool)
  | ppa (a sa : Nat) (coded : Bool)
  | staged (bs : List Byte)
  deriving DecidableEq, Repr

/-- Segments of `n` bytes of a plane from its byte `off`: elements, or scales. -/
def planeSegs (s : State) (ctx : Nat) (pl : PlaneAt) (scale write : Bool) (off n : Nat) : Acc (List Seg) :=
  match pl with
  | .cva a sa coded => segsOf s ctx ((if scale then sa else a) + off) n write (coded && !scale)
  | .ppa a sa _ => .ok (if n = 0 then [] else [⟨false, (if scale then sa else a) + off, n⟩]) s
  | _ => .ok [] s

def planeCoded : PlaneAt → Bool
  | .cva _ _ c => c
  | .ppa _ _ c => c
  | _ => false

/-- Read part of a plane. -/
def planeRead (s : State) (ctx : Nat) (pl : PlaneAt) (scale : Bool) (off n : Nat) : Acc (List Byte) :=
  match pl with
  | .staged bs => .ok (if scale then [] else (bs.drop off).take n) s
  | .absent => .ok [] s
  | _ => (planeSegs s ctx pl scale false off n).bind (fun gs s => segsReadC (fixReq ctx) (planeCoded pl && !scale) s gs)

/-- Writes of a plane: byte offsets from `off` and bytes. What must be asked for is asked for before the first is made. -/
def writesSegs (ctx : Nat) (pl : PlaneAt) (scale : Bool) (off : Nat) : State → List (Nat × List Byte) → Acc (List (List Seg × List Byte))
  | s, [] => .ok [] s
  | s, w :: t => (planeSegs s ctx pl scale true (off + w.1) w.2.length).bind (fun gs s =>
      (writesSegs ctx pl scale off s t).bind (fun r s => .ok ((gs, w.2) :: r) s))

/-- Write all of a list of segments and bytes. -/
def putAll (r : Req) : State → List (List Seg × List Byte) → Acc Unit
  | s, [] => .ok () s
  | s, w :: t => (segsWriteNow r s w.1 w.2).bind (fun _ s => putAll r s t)

/-- One chunk of work: its fixer where its caller names it, its program, its elements, where its planes begin, its place in the segment,
and S3. -/
structure Chunk where
  fixer  : Option Nat
  img    : FixImg
  planes : List PlaneAt
  k      : Nat
  n      : Nat
  s3     : Nat
  deriving DecidableEq, Repr

def planeOf (c : Chunk) (p : Nat) : PlaneAt := c.planes.getD p .absent
/-- Byte offsets of a chunk in an element plane and in a scale plane. -/
def elemOff (c : Chunk) (p : Nat) : Nat := elemBytes (fxFmt c.img.hdr p) (4096 * c.k)
def scaleOff (c : Chunk) : Nat := 128 * c.k

/-- The fixer of a chunk (R204, R231). -/
def fixerOf (s : State) (ctx : Nat) (c : Chunk) : Acc Nat :=
  let p := fxAnchor c.img.hdr
  match c.fixer with
  | some f => .ok f s
  | none => (planeSegs s ctx (planeOf c p) false false (elemOff c p) 1).bind (fun gs s =>
    match gs with
    | g :: _ => .ok (if g.host then c.k % 64 else let (h, ch, _) := place s g.addr; 4 * h + ch / 8) s
    | [] => .ok (c.k % 64) s)

/-- Elements and scales of an input plane of a chunk. -/
def chunkIn (s : State) (ctx : Nat) (c : Chunk) (p : Nat) : Acc (List Byte × List Byte) :=
  let fmt := fxFmt c.img.hdr p
  (planeRead s ctx (planeOf c p) false (elemOff c p) (elemBytes fmt c.n)).bind (fun e s =>
    (planeRead s ctx (planeOf c p) true (scaleOff c) (scaleBytes fmt c.n)).bind (fun x s => .ok (e, x) s))

def chunkIns (ctx : Nat) (c : Chunk) : State → List Nat → Acc (List (Nat × List Byte × List Byte))
  | s, [] => .ok [] s
  | s, p :: t => (chunkIn s ctx c p).bind (fun x s => (chunkIns ctx c s t).bind (fun r s => .ok ((p, x) :: r) s))

/-- Scalars of a call (R208). -/
def scalarOf (r : FixRun) (c : Chunk) (i : Nat) : Nat :=
  if i = 0 then r.s0.toNat else if i = 1 then r.clip.toNat else if i = 2 then r.s2.toNat else if i = 3 then c.s3
  else if 8 ≤ i then (c.img.consts.getD (i - 8) 0).toNat else 0

/-- Segments and bytes of every plane that a chunk writes. -/
def chunkWrites (ctx : Nat) (c : Chunk) : State → List (Nat × List (Nat × List Byte) × List (Nat × List Byte)) → Acc (List (List Seg × List Byte))
  | s, [] => .ok [] s
  | s, (p, es, sc) :: t =>
    (writesSegs ctx (planeOf c p) false (elemOff c p) s es).bind (fun a s =>
      (writesSegs ctx (planeOf c p) true (scaleOff c) s sc).bind (fun b s =>
        (chunkWrites ctx c s t).bind (fun r s => .ok (a ++ b ++ r) s)))

/-- Run a chunk through its program: its inputs read, what it writes made ready, then written with new edge codes (R223, R224). -/
def runChunk (s : State) (r : FixRun) (f : Nat) (c : Chunk) : Acc Unit :=
  let ctx := r.call.ctx
  let h := c.img.hdr
  (chunkIns ctx c s ((fxUsed h).filter (fxIn h))).bind (fun ins s =>
    let s := fixTopUp s f
    let outs := fxChunk c.img (scalarOf r c) (fixGrain s f) c.n s.free (fun p => match ins.find? (fun e => e.1 == p) with | some (_, x) => x | none => ([], []))
    (chunkWrites ctx c s outs).bind (fun ws s =>
      (segsReady s (ws.flatMap (·.1))).bind (fun _ s =>
        (putAll (fixReq ctx) s ws).bind (fun _ s =>
          let coded := (outs.filter (fun o => planeCoded (planeOf c o.1))).flatMap (fun o =>
            match planeOf c o.1 with
            | .ppa a _ _ => blocksOf (a + elemOff c o.1) (elemBytes (fxFmt h o.1) c.n)
            | _ => [])
          let cva := (outs.filter (fun o => match planeOf c o.1 with | .cva _ _ x => x | _ => false))
          (cva.foldl (fun (acc : Acc Unit) o => acc.bind (fun _ s =>
            (planeSegs s ctx (planeOf c o.1) false true (elemOff c o.1) (elemBytes (fxFmt h o.1) c.n)).bind (fun gs s =>
              .ok () (sealBlocks s (segBlocks gs))))) (.ok () (sealBlocks s coded))).bind (fun _ s =>
            .ok () (useFree s (fxFree c.img * ((c.n + 63) / 64))))))))

/-! The chunks of a call. -/

/-- Chunks of a segment of `n` elements (R204). -/
def cutChunks (fixer : Option Nat) (img : FixImg) (planes : List PlaneAt) (n s3 : Nat) : List Chunk :=
  (List.range ((n + 4095) / 4096)).map (fun k => ⟨fixer, img, planes, k, min 4096 (n - 4096 * k), s3⟩)

def segPlanes (h : BitVec 512) (g : BitVec 1024) : List PlaneAt :=
  (List.range 6).map (fun p => if (fxUsed h).contains p then .cva (fsECVA g p) (fsSCVA g p) (fsCODED g p) else .absent)

/-- FP32 1.0. -/
def oneF32 : Nat := 0x3F800000

def segChunks (m : Model) : State → List (BitVec 1024) → Acc (List Chunk)
  | s, [] => .ok [] s
  | s, g :: t => (fixImg s m (fsPROG g)).bind (fun img s =>
      (segChunks m s t).bind (fun r s => .ok (cutChunks none img (segPlanes img.hdr g) (fsNELEM g) oneF32 ++ r) s))

/-- The fixer of a row: that of its stack which serves its channel (R231). -/
def rowFixer (s : State) (row : Nat) : Nat := let (h, ch, _) := place s row; 4 * h + ch / 8

/-- The rows of a ROWUPDATE as segments (R231). -/
def rowChunks (s : State) (t : TableReg) (img : FixImg) (sums : List (Nat × List Nat × Nat)) : List Chunk :=
  let e := t.entry
  let soff := fxSoff img.hdr
  sums.flatMap (fun (x : Nat × List Nat × Nat) =>
    let a := rowAt t x.1
    cutChunks (some (rowFixer s a.row)) img ((List.range 6).map (fun p =>
        if p = 0 then .ppa a.row (if isMX (teFmt e) then a.sc else 0) (teCoded e)
        else if p = 1 then .staged (x.2.1.flatMap (leBytes 4))
        else .ppa (a.row + (p - 1) * soff) 0 (teCoded e)))
      (teElems e) (toF32 (.fin false x.2.2 0)))

/-- Every chunk of the running call. -/
def callChunks (s : State) (r : FixRun) : Acc (List Chunk) :=
  match s.sched.model with
  | none => .ok [] s
  | some m =>
    match r.call.rowsOf with
    | none => segChunks m s r.segs
    | some n =>
      match (loupeOf s n).run with
      | none => .ok [] s
      | some l => (fixImg s m (lcFIXPROG l.block)).bind (fun img s => .ok (rowChunks s (tableReg s (lcTID l.block)) img l.sums) s)

def setFix (s : State) (r : Option FixRun) : State := { s with fixers := { s.fixers with run := r } }

/-- Count a chunk run by a fixer (R238). -/
def countChunk (s : State) (f : Nat) : State := { s with fixers := { s.fixers with chunks := tset 0 s.fixers.chunks f (tget 0 s.fixers.chunks f + 1) } }

/-! Faults of a call (R233, R235). -/

/-- A fixer call ends in a fault: it leaves the fixers, and its context is charged; the rows' loupe call ends with it. -/
def failFix (s : State) (c : FixCall) (early : Bool) (f : UnitFault) : State :=
  let s := endHost (setFix s none) whoFixers
  let s := { s with pod := { s.pod with colls := s.pod.colls.filter (fun x => !(x.fix.isSome && x.uid == c.uid)) } }
  let s := match c.rowsOf with | some n => setRun s n none | none => s
  chargeCall s c.ctx c.caller early f

/-- A fault that a chunk's access met, with FIX_ERR_LOG of its fixer (R233, R238). -/
def fixAccess (s : State) (ctx f code addr : Nat) : State × UnitFault :=
  if code = 0x0302 ∨ code = 0x0304 then
    let cap : BitVec 64 := BitVec.ofNat 64 (1 + 2 * b2n (code == 0x0304) + fieldAt 30 2 (addr >>> 12) + fieldAt 42 31 ctx)
    (logOnce s (rFIX_ERR_LOG f) cap, ⟨code, 3, f, f / 8, some addr, cap⟩)
  else (s, ⟨code, 3, f, f / 8, accAddr code addr, accDetail s code addr⟩)

/-- ARITH_CHECK of a fixer (R233): `i` is 64 times the fixer plus the lane, `j` the stage. -/
def fixCheck (s : State) (ctx : Nat) (par : Bool) (i j : Nat) : State × UnitFault :=
  let f := i / 64 % 64
  let cap : BitVec 64 := BitVec.ofNat 64 (1 + 2 * b2n par + fieldAt 7 2 (i % 64) + fieldAt 13 8 j + fieldAt 25 14 ctx)
  (logOnce (bump s (rFIX_CHECK_COUNT f) 31 0) (rFIX_CHECK_LOG f) cap, ⟨0x0303, 3, f, f / 8, none, setBits cap 0 0 1⟩)

/-! FIXER ops (R56, R57, R217). -/

def callUid (s : State) : Nat := s.uid + 1

/-- Fixer calls that wait for a place, in offload ports and at loupes, by number in the order of arrival (R217). -/
def waitingCalls (s : State) : List Nat :=
  (placedProgs s).flatMap (fun x => x.2.off.run.filterMap (fun o => match o.phase with | .waiting n => some n | _ => none)) ++
    s.loupes.filterMap (fun e => match e.2.run with | some r => if r.fixPart = 1 ∧ r.fixAt ≠ 0 then some r.fixAt else none | none => none)

/-- The fixers' queue has a place for the call of this number, 0 for one that comes now: none that came earlier still waits. -/
def fixPlace (s : State) (n : Nat) : Bool :=
  decide (s.fixers.queue.length < 16) && (waitingCalls s).all (fun m => n != 0 && decide (n ≤ m))

/-- A FIXER op enters the queue of the fixers, or waits in its offload port where 16 are queued (R217). -/
def fixerEff (update : Bool) (p : ProgRef) (s : State) (q : Prog) (o : OpSlot) : Acc OpPhase :=
  if fixPlace s 0 = false then .ok (.waiting (callUid s)) (nextUid s)
  else
    let c : FixCall := ⟨callUid s, .op p q.step q.sci o.idx, q.ctx, callCva q o, update, none⟩
    .ok (.called (callUid s)) (nextUid { s with fixers := { s.fixers with queue := s.fixers.queue ++ [c] } })

/-- RUN (R56, R214). -/
def execRun (p : ProgRef) (s : State) : Out State := .next (runOp s p .offload .none (isOp 6 0) (whole (fixerEff false p)))

/-- UPDATE (R56, R214). -/
def execUpdate (p : ProgRef) (s : State) : Out State := .next (runOp s p .offload .none (isOp 6 1) (whole (fixerEff true p)))

/-- FIXER_CALL_ENQUEUE (R217): a call that waits in its offload port joins the queue once a place is free. -/
def execFixerCallEnqueue (p : ProgRef) (s : State) : Out State :=
  match progOf s p with
  | none => .next s
  | some q =>
    match q.off.run.find? (fun o => match o.phase with | .waiting _ => true | _ => false) with
    | none => .next s
    | some o =>
      if fixPlace s (match o.phase with | .waiting n => n | _ => 0) = false then .next s
      else
        let c : FixCall := ⟨callUid s, .op p q.step q.sci o.idx, q.ctx, callCva q o, isOp 6 1 o.word, none⟩
        let run := q.off.run.map (fun x => if x.phase = o.phase then { x with phase := .called (callUid s) } else x)
        let s := setProg s p { q with off := { q.off with run } }
        .next (nextUid { s with fixers := { s.fixers with queue := s.fixers.queue ++ [c] } })

/-! The start of a call (R208, R216, R228, R232). -/

/-- Every segment's program exists and takes it. -/
def segsOk (m : Model) : State → List (BitVec 1024) → Acc Bool
  | s, [] => .ok true s
  | s, g :: t =>
    if m.nfix ≤ fsPROG g then .ok false s
    else (fixImg s m (fsPROG g)).bind (fun img s => if fsOk img.hdr g then segsOk m s t else .ok false s)

/-- S0 and S2 of a context (R208). -/
def rateFor (s : State) (ctx : Nat) : BitVec 32 × BitVec 32 :=
  let e := seOf s ctx
  (if seValid e then BitVec.ofNat 32 (rateAt e (seAPPLIED e)) else 0, BitVec.ofNat 32 (toF32 (.fin false (seAPPLIED e + 1) 0)))

/-- The checks of a call and its first phase. -/
def fixStart (s : State) (c : FixCall) : Acc FixRun :=
  let (s0, s2) := rateFor s c.ctx
  let mk (ph : FixPhase) (b : BitVec 512) (segs : List (BitVec 1024)) : FixRun :=
    ⟨c, ph, b, segs, s0, s2, 0, 0, BitVec.ofNat 32 oneF32, 0, 0, 0, 0, 0⟩
  if c.rowsOf.isSome then .ok (mk (if s.fixers.skipped.contains c.ctx then .skipped else .runRows) 0 []) s
  else
    (callBlock s (fixReq c.ctx) c.cva).bind (fun b s =>
      if !fcBlockOk s c.cva c.update b || (c.update && !seValid (seOf s c.ctx)) then .bad 0x0123 0 s
      else match s.sched.model with
        | none => .bad 0x0123 0 s
        | some m =>
          (cvaRead s (fixReq c.ctx) (fcSEGCVA b) (128 * fcNSEG b) false).bind (fun bs s =>
            let segs : List (BitVec 1024) := chunks 1024 128 (fcNSEG b) bs
            (segsOk m s segs).bind (fun ok s => if ok then .ok (mk (if c.update then .passOne else .runRows) b segs) s else .bad 0x0123 0 s)))

/-- FIXER_CALL_START (R216 to R218): the oldest call begins, once no other runs. -/
def unitFixerCallStart (err : HwErr) (s : State) : State :=
  match s.fixers.run, s.fixers.queue with
  | none, c :: t =>
    if !(serving s && awake s) then s
    else match err with
    | .shared d => sharedError s d
    | _ =>
      match fixStart s c with
      | .wait s => s
      | .ok r s => { s with fixers := { s.fixers with queue := t, run := some r } }
      | .bad code a s =>
        let x := if code = 0x0123 then (s, fixFault code none 0) else fixAccess s c.ctx 0 code a
        (failFix { x.1 with fixers := { x.1.fixers with queue := t } } c true x.2)
  | _, _ => s

/-! Pass one (R218, R219). -/

/-- Non-finite elements and lane sums of a chunk's gradients. -/
def gradChunk (acc : List Num × Nat) (fmt : Nat) (es : List Nat) (sc : List Byte) : List Num × Nat :=
  (es.zip (List.range es.length)).foldl (fun (a : List Num × Nat) (x : Nat × Nat) =>
    let v := widen fmt x.1 ((sc.getD (x.2 / 32) 127).toNat)
    if v.nonFinite then (a.1, a.2 + 1)
    else (a.1.set (x.2 % 64) (add64 (a.1.getD (x.2 % 64) (.fin false 0 0)) (v.mul v)), a.2)) acc

/-- The sums of the 64 fixers, as chunks are read in order. -/
def passOne (ctx : Nat) : State → List Chunk → Tbl (List Num × Nat) → Acc (Tbl (List Num × Nat))
  | s, [], t => .ok t s
  | s, c :: l, t =>
    (fixerOf s ctx c).bind (fun f s =>
      let p := fxGrad c.img.hdr
      match chunkIn s ctx c p with
      | .wait s => .wait s
      | .bad code a s => .bad code a { s with fixers := { s.fixers with chunks := tset 0 s.fixers.chunks 64 f } }
      | .ok (e, x) s =>
        let fmt := fxFmt c.img.hdr p
        let old := match t.find? (fun y => y.1 == f) with | some y => y.2 | none => (List.replicate 64 (.fin false 0 0), 0)
        passOne ctx s l (tput t f (gradChunk old fmt (unpack (elemBits fmt) c.n e) x)))

/-- Pairwise folding of equal halves, as R127 folds lanes. -/
def foldPairs (f : Num → Num → Num) : Nat → List Num → Num
  | 0, l => l.headD (.fin false 0 0)
  | n + 1, l => foldPairs f n (treeJoin f 1 l)

/-- A fixer's partial. -/
def partialOf (x : List Num × Nat) : Num := rnd32 (foldPairs add64 6 x.1)

/-- The package's S and C. -/
def combine (t : Tbl (List Num × Nat)) : BitVec 32 × BitVec 64 :=
  let ps := (List.range 64).map (fun f => match t.find? (fun y => y.1 == f) with | some y => partialOf y.2 | none => .fin false 0 0)
  (BitVec.ofNat 32 (toF32 (foldPairs (fun a b => rnd32 (a.add b)) 6 ps)), BitVec.ofNat 64 (t.foldl (fun a y => a + y.2.2) 0))

/-- The decision of R220: none to skip, or the clipping factor. -/
def decide_ (b : BitVec 512) (sum : BitVec 32) (count : BitVec 64) : Option (BitVec 32) :=
  let g := rnd32 ((ofF32 sum.toNat).quot (.fin false (fcNREPL b) 0))
  if count ≠ 0 ∨ g.nonFinite = true then none
  else
    let norm := rnd32 g.root
    let mx := ofF32 (fcMAXNORM b)
    if mx.eqv (.fin false 0 0) || !mx.lt norm then some (BitVec.ofNat 32 oneF32) else some (BitVec.ofNat 32 (toF32 (mx.quot norm)))

/-- The step of a context decided to skip (R222, R232). -/
def markSkip (s : State) (ctx : Nat) : State :=
  { s with
    fixers := { s.fixers with skipped := insNat ctx s.fixers.skipped }
    sched := { s.sched with steps := s.sched.steps.map (fun t => if t.ctx = ctx && t.st != .waiting then { t with nonfin := true } else t) } }

/-- The decision is taken from S and C (R220, R222, R223). -/
def decideUpdate (s : State) (sum : BitVec 32) (count : BitVec 64) : State :=
  match s.fixers.run with
  | none => s
  | some r =>
    match decide_ r.block sum count with
    | none => markSkip (setFix s (some { r with phase := .skipped, sum, count, next := 0 })) r.call.ctx
    | some clip => setFix s (some { r with phase := .passTwo, sum, count, clip, next := 0 })

/-- The fixers' own collective, as a call block: FMT FP32, one element, a sum, SCALE 1.0, NARROW 0 (R282). -/
def fixCollBlock (grp : Nat) : BitVec 512 :=
  BitVec.ofNat 512 (fieldAt 7 0 grp + fieldAt 15 12 12 + fieldAt 63 32 oneF32 + fieldAt 93 64 1)

/-- Enter the ALLREDUCE of pass one (R219). -/
def enterColl (s : State) (r : FixRun) (x : BitVec 32 × BitVec 64) : State :=
  let s := setFix s (some { r with phase := .decide, sum := x.1, count := x.2 })
  let c : Coll := ⟨r.call.uid, r.call.caller, r.call.ctx, fcGROUP r.block, 0, 0, fixCollBlock (fcGROUP r.block), some x, false, 0, 0, [], 0, 0, 0, 0, 0⟩
  callColl s c

/-- PASS_ONE_DONE (R218 to R220): every fixer has finished; the partials combine, and the package decides alone or enters the
collective of its group. -/
def unitPassOneDone (err : HwErr) (s : State) : State :=
  match s.fixers.run with
  | none => s
  | some r =>
    if r.phase ≠ .passOne ∨ serving s = false then s
    else match err with
    | .check par i j => let (s, f) := fixCheck s r.call.ctx par i j; failFix s r.call false f
    | .shared d => sharedError s d
    | _ =>
      let go : Acc (Tbl (List Num × Nat) × List Chunk) := (callChunks s r).bind (fun cs s =>
        let order := tileOrder s cs.length
        (passOne r.call.ctx (useFree s cs.length) (order.filterMap (fun i => cs[i]?)) []).bind (fun t s => .ok (t, cs) s))
      match go with
      | .wait s => s
      | .bad code a s =>
        let f := tget 0 s.fixers.chunks 64
        let s := { s with fixers := { s.fixers with chunks := tdel s.fixers.chunks 64 } }
        let (s, u) := fixAccess s r.call.ctx f code a
        (failFix s r.call false u)
      | .ok (t, cs) s =>
        let counted := cs.foldl (fun (s : State) c => match fixerOf s r.call.ctx c with | .ok f _ => countChunk s f | _ => s) s
        let r := { r with elems1 := cs.foldl (fun a c => a + c.n) 0, chunks := cs.length }
        let s := setFix (endHost counted whoFixers) (some r)
        let x := combine t
        (if fcGROUP r.block = 0 then decideUpdate s x.1 x.2 else enterColl s r x)

/-! Pass two, RUN and rows (R223, R231, R233, R234). -/

/-- The chunks still to run, one after another; what is done is kept as the call stands. -/
def runChunks : State → FixRun → List Chunk → Acc Unit
  | s, _, [] => .ok () s
  | s, r, c :: l =>
    match fixerOf s r.call.ctx c with
    | .wait s => .wait s
    | .bad code a s => .bad code a s
    | .ok f s =>
      match runChunk s r f c with
      | .wait s => .wait s
      | .bad code a s => .bad code a { s with fixers := { s.fixers with chunks := tset 0 s.fixers.chunks 64 f } }
      | .ok _ s =>
        let r := { r with next := r.next + 1, elems2 := r.elems2 + c.n, chunks := r.chunks + 1 }
        runChunks (setFix (countChunk s f) (some r)) r l

/-- The report of R234. A RUN, which has no skip, is shown as applied (log entry 97). -/
def fixReport (r : FixRun) : List Byte :=
  leBytes 8 r.elems1 ++ leBytes 8 r.elems2 ++ leBytes 4 (b2n (r.phase != .skipped)) ++ leBytes 4 r.chunks ++ leBytes 8 r.ticks

/-- A call is complete: its report is written, then its op is done, or the loupe that handed the rows goes on (R225, R231). -/
def finishFix (s : State) (r : FixRun) : State :=
  match r.call.rowsOf with
  | some n =>
    let s := setFix s none
    match (loupeOf s n).run with
    | some l => setRun s n (some { l with fixPart := 3 })
    | none => s
  | none =>
    let rep := fcREPCVA r.block
    let w : Acc Unit := if rep = 0 then .ok () s else cvaWrite s (fixReq r.call.ctx) rep (fixReport r) false
    match w with
    | .wait s => s
    | .bad code a s => failFix s r.call false (fixFault code (accAddr code a) (accDetail s code a))
    | .ok _ s =>
      let s := if r.phase = .passTwo then { s with sched := { s.sched with steps := s.sched.steps.map (fun t =>
          if t.ctx = r.call.ctx && t.st != .waiting then { t with applied := true } else t) } } else s
      endCall (endHost (setFix s none) whoFixers) r.call.caller r.call.uid

/-- The chunks that are left run, and the call is complete; or it waits, or ends in a fault. -/
def fixRest (s : State) (r : FixRun) (left : List Chunk) : State :=
  match runChunks s r left with
  | .wait s => s
  | .bad code a s =>
    let f := tget 0 s.fixers.chunks 64
    let (s, u) := fixAccess { s with fixers := { s.fixers with chunks := tdel s.fixers.chunks 64 } } r.call.ctx f code a
    failFix s r.call false u
  | .ok _ s => match s.fixers.run with | some r => finishFix s r | none => s

/-- Chunks with the fixers that run them. -/
def withFixers (ctx : Nat) : State → List Chunk → List (Nat × Chunk)
  | _, [] => []
  | s, c :: t => (match fixerOf s ctx c with | .ok f _ => f | _ => 0, c) :: withFixers ctx s t

/-- The chunks that are written though a fixer met a mismatch in one of its own: of what is left, any (R225, R233), but for that one.
Which they are is free, one word for each chunk and one for the place of the mismatch (log entry 1). None where the fixer runs no chunk. -/
def spared (s : State) (f : Nat) (left : List (Nat × Chunk)) : Option (List Chunk) :=
  let own := (List.range left.length).filter (fun i => match left[i]? with | some x => x.1 == f | none => false)
  match own[(Config.freeWord s.free).toNat % (own.length + (if own.isEmpty then 1 else 0))]? with
  | none => none
  | some k => some ((List.range left.length).filterMap (fun i =>
      if i ≠ k ∧ bit (Config.freeWord (s.free + 1 + i)) 0 = true then (left[i]?).map (·.2) else none))

/-- FIXER_CALL_COMPLETE (R222, R225, R234). With a mismatch, the fixer that meets it writes nothing of its chunk (R233). -/
def unitFixerCallComplete (err : HwErr) (s : State) : State :=
  match s.fixers.run with
  | none => s
  | some r =>
    if serving s = false then s
    else match r.phase with
    | .passOne => s
    | .decide => s
    | .skipped => finishFix s r
    | _ =>
      match callChunks s r with
      | .wait s => s
      | .bad code a s => failFix s r.call false (fixFault code (accAddr code a) (accDetail s code a))
      | .ok cs s =>
        let left := cs.drop r.next
        match err with
        | .shared d => sharedError s d
        | .check par i j =>
          (match spared s (i / 64 % 64) (withFixers r.call.ctx s left) with
           | none => fixRest s r left
           | some cs =>
             match runChunks (useFree s (1 + left.length)) r cs with
             | .wait _ => fixRest s r left
             | .bad _ _ s => let (s, f) := fixCheck s r.call.ctx par i j; failFix s r.call false f
             | .ok _ s => let (s, f) := fixCheck s r.call.ctx par i j; (failFix s r.call false f))
        | _ => fixRest s r left

/-! The schedule window (R228, R237). -/

def rSeData (n : Nat) : Nat := rFIX_SE_DATA0 + 8 * n

/-- The window's eight words as one entry. -/
def seWindow (s : State) : BitVec 512 :=
  BitVec.ofNat 512 ((List.range 8).foldr (fun n a => (regVal s (rSeData n)).toNat + a * 2 ^ 64) 0)

/-- Load the window with an entry. -/
def loadWindow (s : State) (e : BitVec 512) : State :=
  (List.range 8).foldl (fun s n => setReg s (rSeData n) (BitVec.ofNat 64 (bits e (64 * n + 63) (64 * n)))) s

/-- FIX_SE_READ (R228). -/
def execFixSeRead (ctx : BitVec 12) (s : State) : Out State :=
  .next (if pageOpen s rFIX_SE_CTRL then loadWindow (setField (wakeBy false s) rFIX_SE_CTRL 11 0 ctx.toNat) (seOf s ctx.toNat) else s)

/-- Whether a context's slot holds a schedule entry: from OPEN until the context ends or is torn down (R228). -/
def holdsEntry (s : State) (ctx : Nat) : Bool := (ctxOf s ctx).st == .openS || (ctxOf s ctx).st == .ending

/-- A context has a step running for R228: from the start of its STEP descriptor to the step's end. -/
def stepRuns (s : State) (ctx : Nat) : Bool :=
  s.sched.steps.any (fun t => t.ctx == ctx) || s.rings.unit_.any (fun e => match e.2.running with
    | some x => x.report.isNone && bits x.desc.word 7 0 == 1 && (ringOf s e.1).ctx == ctx
    | none => false)

/-- Commits that waited for a context's step, once none runs. -/
def settleCommits (s : State) (ctx : Nat) : State :=
  if stepRuns s ctx then s
  else
    let mine := s.fixers.commits.filter (fun c => c.1 == ctx)
    let s := { s with fixers := { s.fixers with commits := s.fixers.commits.filter (fun c => c.1 != ctx) } }
    if mine.isEmpty then s else setSe s ctx (mine.foldl (fun e c => commitSe e c.2.1 c.2.2) (seOf s ctx))

/-- FIX_SE_COMMIT (R228): at once, or at the end of the context's running step; a slot with no entry takes none. A later commit takes the
place of one that waits. -/
def execFixSeCommit (ctx : BitVec 12) (wrcnt : Bool) (s : State) : Out State :=
  if !pageOpen s rFIX_SE_CTRL then .next s
  else
    let s := wakeBy false s
    let c := ctx.toNat
    let s := setField (setField s rFIX_SE_CTRL 11 0 c) rFIX_SE_CTRL 14 14 (b2n wrcnt)
    let e := seWindow s
    .next (if stepRuns s c
      then { s with fixers := { s.fixers with commits := s.fixers.commits ++ [(c, e, wrcnt)] } }
      else if holdsEntry s c then setSe s c (commitSe (seOf s c) e wrcnt) else s)

end Sys2Proof.Machine
end

