-- ==== Sys2Proof/Machine/Copies.lean ====
section
/-! DEFINITION. The copy channels of a core: LOAD, STORE, MOVE and PUT (06 R138 to R154). -/

namespace Sys2Proof.Machine

/-- Source and destination patterns of a COPY op (R53, R139). -/
def cpSrc (q : Prog) (o : OpSlot) : CPat := cpat q (cpPSRC o.word) (cpASRC o.word) o.iters
def cpDst (q : Prog) (o : OpSlot) : CPat := cpat q (cpPDST o.word) (cpADST o.word) o.iters

/-- Bytes of a half's scratchpad in a pattern's order (R141). -/
def spGather (k : Core) (upper : Bool) (rs : List (Nat × Nat)) : List Byte := rs.flatMap (fun r => spRead k upper r.1 r.2)

/-- Put bytes into a half's scratchpad in a pattern's order (R141). Where runs of one destination overlap, the later run's byte stands
(log entry 108). -/
def spScatter (upper : Bool) : Core → List (Nat × Nat) → List Byte → Core
  | k, [], _ => k
  | k, r :: t, bs => spScatter upper (spWrite k upper r.1 (bs.take r.2)) t (bs.drop r.2)

def spPut (s : State) (p : ProgRef) (rs : List (Nat × Nat)) (bs : List Byte) : State :=
  setCore s p.core (spScatter p.upper (coreOf s p.core) rs bs)

/-- The value that CPY_EDGE_LOG captures for a block that fails its code (R152, R159); `pkg` where an RREAD read it. -/
def edgeCapture (p : ProgRef) (q : Prog) (e : Eng) (ppa : Nat) (pkg : Option Nat) : BitVec 64 :=
  BitVec.ofNat 64 (1 + 2 * b2n (e == .copy1) + 4 * b2n p.upper + fieldAt 31 3 (ppa >>> 12) + fieldAt 43 32 q.ctx
    + fieldAt 44 44 (b2n pkg.isSome) + fieldAt 56 45 (pkg.getD 0))

/-- EDGE_MISMATCH of a copy channel: logged, and charged with the block's PPA (R152). -/
def edgeFault (s : State) (p : ProgRef) (q : Prog) (e : Eng) (idx ppa : Nat) (pkg : Option Nat) : State :=
  let cap := edgeCapture p q e ppa pkg
  chargeOp (logOnce s (rCPY_EDGE_LOG p.core) cap) p q idx 0x0302 (some ppa) cap

/-! A channel's pieces (R138, R145, R158). -/

/-- Bursts a channel keeps in flight (R138). -/
def channelBursts : Nat := 128

/-- Runs left after `n` bytes of a pattern's order. -/
def dropRuns : Nat → List (Nat × Nat) → List (Nat × Nat)
  | _, [] => []
  | n, (a, k) :: t => if n < k then (a + n, k - n) :: t else dropRuns (n - k) t

/-- Runs cut to `n` bytes. -/
def takeRuns : Nat → List (Nat × Nat) → List (Nat × Nat)
  | _, [] => []
  | n, (a, k) :: t => if n = 0 then [] else (a, min n k) :: takeRuns (n - k) t

/-- The runs from byte `m` of a pattern's order, `n` bytes of them. -/
def runsAt (rs : List (Nat × Nat)) (m n : Nat) : List (Nat × Nat) := takeRuns n (dropRuns m rs)

/-- Bytes of the bursts that a channel moves next from byte `m` of its memory side's order: those it can keep in flight, all of which are
complete before it issues more. A COPY command moves that much, and the op goes on with the next one (log entry 107). -/
def nextBytes (rs : List (Nat × Nat)) (m : Nat) : Nat := runBytes ((burstsOf (dropRuns m rs)).take channelBursts)

/-- Where an op stands with `m` bytes moved: done with the last byte, else in its channel. -/
def phaseAt (rs : List (Nat × Nat)) (m : Nat) : OpPhase × Nat := (if runBytes rs ≤ m then .done else .queued, m)

/-- The op stays in its channel with `m` bytes moved. -/
def opStays (s : State) (p : ProgRef) (e : Eng) (m : Nat) : State :=
  match progOf s p with
  | none => s
  | some q =>
    match (engOf q e).queue with
    | [] => s
    | o :: _ => setProg s p (withHead q e { o with held := true, mark := m })

/-- Where a COPY op's effect leaves it, EDGE_MISMATCH with its own log. -/
def copyEnds (p : ProgRef) (q : Prog) (e : Eng) (o : OpSlot) : Acc (OpPhase × Nat) → State
  | .ok (.queued, m) s => opStays (endHost s (whoOp p (engNo e))) p e m
  | .ok (ph, _) s => endHost (opDone s p e ph) (whoOp p (engNo e))
  | .wait s => opHold s p e
  | .bad c a s => if c = 0x0302 then edgeFault s p q e o.idx a none else chargeOp s p q o.idx c (accAddr c a) (accDetail s c a)

/-- Run a COPY op on the channel it names (R36). A finding that stops it leaves nothing of what it would have moved. -/
def runCopy (s : State) (p : ProgRef) (e : Eng) (err : HwErr) (opc : Nat) (eff : State → Prog → OpSlot → Acc (OpPhase × Nat)) : State :=
  match startable s p e (isOp 2 opc) with
  | none => s
  | some (q, o) =>
    let q := takeWait q e o
    let x := hwCheck (setProg s p q) p q e o err
    match x.2 with
    | none => copyEnds p q e o (eff x.1 q o)
    | some f => faultOf x.1 p q e o f

/-- A segment of device memory holds a byte of the line at a PPA. -/
def touchesLine (ppa : Nat) (g : Seg) : Bool := !g.host && (linesOf g.addr g.len).contains (lineOf ppa)

/-- LOAD (R139): memory to the program's own scratchpad, every block a coded range touches checked first (R151, R152). A line that
`spoilt` names is delivered with poison (R419). -/
def loadEff (spoilt : Option Nat) (p : ProgRef) (e : Eng) (s : State) (q : Prog) (o : OpSlot) : Acc (OpPhase × Nat) :=
  let src := cpSrc q o
  let n := nextBytes (runsOf src) o.mark
  (rangesSegs q.ctx false src.coded s (joinRuns (runsAt (runsOf src) o.mark n))).bind (fun gs s =>
    (segsReadC ⟨whoOp p (engNo e), q.ctx⟩ src.coded s gs).bind (fun bs s =>
      let moved := spPut s p (runsAt (runsOf (cpDst q o)) o.mark n) bs
      match spoilt with
      | some a => if gs.any (touchesLine a) then .bad 0x0304 (lineOf a * 64) s else .ok (phaseAt (runsOf src) (o.mark + n)) moved
      | none => .ok (phaseAt (runsOf src) (o.mark + n)) moved))

/-- STORE (R139): the program's own scratchpad to memory, each block's edge code stored with it where coded (R149, R154). A
line that `spoilt` names reaches its home with poison, and is stored so (R419). -/
def storeEff (spoilt : Option Nat) (p : ProgRef) (e : Eng) (s : State) (q : Prog) (o : OpSlot) : Acc (OpPhase × Nat) :=
  let dst := cpDst q o
  let n := nextBytes (runsOf dst) o.mark
  (rangesSegs q.ctx true dst.coded s (joinRuns (runsAt (runsOf dst) o.mark n))).bind (fun gs s =>
    (segsWriteC ⟨whoOp p (engNo e), q.ctx⟩ dst.coded s gs (spGather (coreOf s p.core) p.upper (runsAt (runsOf (cpSrc q o)) o.mark n))).bind (fun _ s =>
      .ok (phaseAt (runsOf dst) (o.mark + n)) (match spoilt with
        | some a => if gs.any (touchesLine a) then setPoison s (lineOf a) true else s
        | none => s)))

/-- The bytes a MOVE or PUT carries next, and where they go (R141). -/
def carried (s : State) (p r : ProgRef) (q : Prog) (o : OpSlot) : Acc (OpPhase × Nat) :=
  let dst := runsOf (cpDst q o)
  let n := nextBytes dst o.mark
  .ok (phaseAt dst (o.mark + n))
    (spPut s r (runsAt dst o.mark n) (spGather (coreOf s p.core) p.upper (runsAt (runsOf (cpSrc q o)) o.mark n)))

/-- MOVE (R139): within the program's own scratchpad; the extents do not overlap (R142). -/
def moveEff (p : ProgRef) (s : State) (q : Prog) (o : OpSlot) : Acc (OpPhase × Nat) := carried s p p q o

def execMove (p : ProgRef) (eng : Eng) (err : HwErr) (s : State) : Out State := .next (runCopy s p eng err 2 (moveEff p))

/-- PUT (R139): to the scratchpad of step core index TCORE. A program that has left its core is written nowhere. -/
def putEff (p : ProgRef) (s : State) (q : Prog) (o : OpSlot) : Acc (OpPhase × Nat) :=
  match (stepOf s q.step).bind (fun t => slotProg t (cpTCORE o.word)) with
  | none => .ok (.done, 0) s
  | some r =>
    match progOf s r with
    | some d => if d.step = q.step ∧ d.sci = cpTCORE o.word then carried s p r q o else .ok (.done, 0) s
    | none => .ok (.done, 0) s

def execPut (p : ProgRef) (eng : Eng) (err : HwErr) (s : State) : Out State := .next (runCopy s p eng err 3 (putEff p))

end Sys2Proof.Machine
end

