-- ==== Sys2Proof/Machine/Ports.lean ====
section
/-! DEFINITION. Chip-to-chip ports (10): their states, the flits with retry and credits, heartbeats, and what a port sends. -/

namespace Sys2Proof.Machine

/-! Port states (R266, R541). -/

/-- Error record PORT_DOWN of an entry to DOWN (R541), with the port's PRT_ERR in DETAIL (R489). -/
def portDownRec (s : State) (n : Nat) : State :=
  let p := portOf s n
  pushErr s { errRec 0x0403 5 0 (n / 4) 5 n with
    addrv := p.peerNew && p.peer.isSome, addr := if p.peerNew then (peerOf p).getD 0 else 0, detail := regVal s (rPRT_ERR n) }

/-- Return the buffer slots that transactions waiting at a port still hold on the ports they came by. -/
def freeWaiting (s : State) (n : Nat) : State :=
  (portOf s n).txq.foldl (fun s e => match e.1 with | some a => freeSlots s a e.2 | none => s) s

/-- RETRAIN written to a port (R266): from UP it retrains, from DOWN it trains. -/
def writeRetrain (s : State) (n : Nat) : State :=
  let p := portOf s n
  match p.st with
  | .up => leaveSets (bump (setPort s n { p with st := .retrain }) (rPRT_ERR n) 39 32) n
  | .down => setPort s n { p with st := .train }
  | _ => s

/-- A port enters DOWN: its replay buffer and queue are discarded, its credits reset, its usable places gone, and the pod is told
(R262, R266, R288, R541). -/
def enterDown (s : State) (n : Nat) : State :=
  let s := portDownRec (bump s (rPRT_ERR n) 47 40) n
  let s := freeWaiting s n
  let p := portOf s n
  let s := leaveSets (setPort s n { p with st := .down, replay := [], txq := [], partial_ := [], credits := [], replays := 0 }) n
  match p.hb, peerOf p with
  | 1, some m => linkLost (setPort s n { portOf s n with hb := 3 }) m
  | 3, _ => writeRetrain s n
  | _, _ => s

/-- Width and group of R240 for a set of lanes good at both ends: the widest, and the lowest group on a tie (R266). -/
def chooseWidth (good : BitVec 16) : Option (Nat × Nat) :=
  let m := good.toNat
  if m = 0xFFFF then some (0, 0)
  else match ([0, 1].find? (fun g => (m >>> (8 * g)) % 256 == 255)) with
    | some g => some (1, g)
    | none => ([0, 1, 2, 3].find? (fun g => (m >>> (4 * g)) % 16 == 15)).map (fun g => (2, g))

/-- Whether a lane is in use at a port's width: at the Safelight width the lowest lane of the group last in use (R240). -/
def laneUsed (p : Port) (lane : Nat) : Bool :=
  match p.width with
  | 0 => decide (lane < 16)
  | 1 => lane / 8 == p.group
  | 2 => lane / 4 == p.group
  | _ => match chooseWidth p.good with
    | some (0, _) => lane == 0
    | some (1, g) => lane == 8 * g
    | some (_, g) => lane == 4 * g
    | none => false

/-- Training starts from OFF (R266). -/
def leaveOff (s : State) (n : Nat) : State := setPort s n { portOf s n with st := .train, enLatch := false, peerNew := false }

/-- PORT_ENABLE (R266, R362): EN set starts training from OFF, and is latched during DRAIN or a reset of the port. -/
def enablePort (s : State) (n : Nat) : State :=
  let s := setPort (setField s (rPRT_CTRL n) 0 0 1) n { portOf s n with en := true }
  if (portOf s n).st = .drain ∨ s.rst.block = some (2, n) then setPort s n { portOf s n with enLatch := true }
  else if (portOf s n).st = .off then leaveOff s n
  else s

def execPortEnable (port : Nat) (s : State) : Out State :=
  .next (if port < 32 ∧ pageOpen s (rPRT_CTRL port) = true then enablePort (wakeBy false s) port else s)

/-- PORT_DISABLE (R266, R362): EN cleared takes the port to DRAIN; during DRAIN it cancels a latched enable. -/
def disablePort (s : State) (n : Nat) : State :=
  let s := setPort (setField s (rPRT_CTRL n) 0 0 0) n { portOf s n with en := false, enLatch := false }
  match (portOf s n).st with
  | .off => s
  | .drain => s
  | _ => leaveSets (setPort s n { portOf s n with st := .drain }) n

def execPortDisable (port : Nat) (s : State) : Out State :=
  .next (if port < 32 ∧ pageOpen s (rPRT_CTRL port) = true then disablePort (wakeBy false s) port else s)

/-- RETRAIN (R266, R268). -/
def execRetrain (port : Nat) (s : State) : Out State :=
  .next (if port < 32 ∧ pageOpen s (rPRT_CTRL port) = true then writeRetrain (wakeBy false s) port else s)

/-! Flits as they are sent (R242 to R244). -/

/-- CRC-32 of IEEE 802.3, reflected (R243). -/
def crc32 (bs : List Byte) : Nat := bs.foldl (crcStep 0xEDB88320) 0xFFFFFFFF ^^^ 0xFFFFFFFF

/-- A flit's bytes before its CRC: the link header of twelve, and fifteen slots of payload, the unused ones NULL (R242, R245). -/
def flitBody (ftype first seq ack : Nat) (cr payload : List Byte) : List Byte :=
  leBytes 4 (fieldAt 3 0 ftype + fieldAt 7 4 first + fieldAt 19 8 seq + fieldAt 31 20 ack) ++ (List.range 8).map (fun k => cr.getD k 0) ++
    payload.take 240 ++ List.replicate (240 - payload.length) 0

/-- The 256 bytes of a flit, its CRC little-endian at their end (R242, R243). -/
def flitBytes (ftype first seq ack : Nat) (cr payload : List Byte) : List Byte :=
  let b := flitBody ftype first seq ack cr payload
  b ++ leBytes 4 (crc32 b)

/-- The slots freed that the next flit tells of: at most 255 of one VC and class between two flits (R244). -/
def toldNext (p : Port) : List Nat := (List.range 8).map (fun k => min (nth p.freed k) (nth p.told k + 255))

/-- The flit's running counts of freed slots (R244). -/
def crBytes (p : Port) : List Byte := (toldNext p).map (BitVec.ofNat 8)

/-- The flit that a port sends now, of a type, FIRST, SEQ and payload: it carries ACK and CR (R242, R246). -/
def sendFlit (s : State) (n ftype first seq : Nat) (payload : List Byte) : State :=
  let p := portOf s n
  send (setPort s n { p with told := toldNext p }) (.flit n (flitBytes ftype first seq p.lastGood (crBytes p) payload))

/-- An IDLE flit (R242, R246, R267). -/
def sendIdle (s : State) (n : Nat) : State := sendFlit s n 0 0 0 []

/-- A CTRL flit (R246, R266, R461). -/
def sendCtrl (s : State) (n kind : Nat) (self : Option PeerInfo) : State :=
  let p := portOf s n
  send (setPort s n { p with told := toldNext p }) (.ctrl n kind p.lastGood (crBytes p) self)

/-- Receive buffers of a port in slots, per VC and class (R249). -/
def bufferSlots : List Nat := [2048, 2048, 4096, 4096, 4096, 4096, 128, 128]

/-- What the exchange of ALIGN tells of this end: id, port, good lanes and buffer sizes (R249, R266). -/
def selfInfo (s : State) (n : Nat) : PeerInfo := ⟨BitVec.ofNat 12 (ownId s), BitVec.ofNat 5 n, (portOf s n).good, bufferSlots⟩

/-- TRAIN_DONE (R266, R267): the width is chosen, and the CTRL exchange begins. -/
def execTrainDone (port : Nat) (good : BitVec 16) (rtt : BitVec 12) (s : State) : Out State :=
  let p := portOf s port
  .next (match p.st, chooseWidth good with
  | .train, some (w, g) =>
    let s := setPort s port { p with
      st := .align, width := w, group := g, good := good, rtt := rtt, lastGood := 0xFFF, freed := List.replicate 8 0, told := List.replicate 8 0 }
    sendCtrl s port 0 (some (selfInfo s port))
  | _, _ => s)

/-- TRAIN_TIMEOUT (R266, R267): no good quartet within the bound. -/
def execTrainTimeout (port : Nat) (s : State) : Out State :=
  .next (if (portOf s port).st = .train then enterDown s port else s)

/-- CTRL_FLIT (R266): the exchange at ALIGN records the peer and its buffers, the width is that of the lanes good at both ends, and the port
is UP. -/
def execCtrlFlit (port : Nat) (peer : PeerInfo) (s : State) : Out State :=
  let p := portOf s port
  .next (if p.st = .align then
    let (w, g) := (chooseWidth (p.good &&& peer.lanes)).getD (p.width, p.group)
    hbRefresh (setPort s port { p with
      st := .up, width := w, group := g, peer := some (peer.pkg.toNat, peer.port.toNat), peerNew := true, seqNext := 0, seqExp := 0, lastGood := 0xFFF
      acked := 0xFFF, replay := [], replays := 0, nakHeld := false, partial_ := []
      credits := peer.credits, freed := List.replicate 8 0, told := List.replicate 8 0, peerFreed := List.replicate 8 0 }) port
  else s)

/-- LANE_LOCK_LOSS (R266): on a lane in use, an UP port retrains. -/
def execLaneLockLoss (port : Nat) (lane : Nat) (s : State) : Out State :=
  let p := portOf s port
  .next (if p.st = .up ∧ laneUsed p lane = true then writeRetrain s port else s)

/-! Flits (R242 to R250). -/

/-- Resend every unacknowledged flit in order (R247). -/
def resendAll (s : State) (n : Nat) : State :=
  (portOf s n).replay.foldl (fun s f => sendFlit s n 1 f.first f.seq f.payload) s

/-- A replay (R247, R248): counted, and after RETRY_LIMIT of them with no advance of ACK the port retrains. -/
def replayPort (s : State) (n : Nat) : State :=
  let p := portOf s n
  if p.replay = [] then s
  else if regField s rPRT_LINK 19 16 ≤ p.replays then writeRetrain s n
  else resendAll (countCE (setPort s n { p with replays := p.replays + 1 }) (rPRT_ERR n) 31 16 (n / 4) 5 n) n

/-- Drop the flits that an ACK covers. -/
def coveredBy (ack : Nat) (l : List TxFlit) : List TxFlit :=
  if l.any (fun f => f.seq == ack) then (l.dropWhile (fun f => f.seq != ack)).drop 1 else l

/-- What every good flit carries: an acknowledgement and returned credits (R244, R246). -/
def takeAck (s : State) (n : Nat) (ack : BitVec 12) (cr : List Byte) : State :=
  let p := portOf s n
  let left := coveredBy ack.toNat p.replay
  let back := (List.range 8).map (fun k => ((cr.getD k 0).toNat + 256 - nth p.peerFreed k % 256) % 256)
  setPort s n { p with
    acked := if left.length < p.replay.length then ack.toNat else p.acked
    replay := left
    replays := if left.length < p.replay.length then 0 else p.replays
    credits := (List.range 8).map (fun k => nth p.credits k + nth back k)
    peerFreed := (List.range 8).map (fun k => (cr.getD k 0).toNat) }

/-- A port takes flits in UP, and in DRAIN what still arrives. -/
def takesFlits (p : Port) : Bool := p.st == .up || p.st == .drain

/-- Whole transactions of a run of slots, and the bytes of one still arriving (R245). `fuel` is at least the slots. -/
def parseSlots : Nat → List Byte → List Txn × List Byte
  | 0, bs => ([], bs)
  | fuel + 1, bs =>
    if bs.length < 16 then ([], bs)
    else
      let h := parseHeader (bs.take 16)
      if h.ttype = 0 then parseSlots fuel (bs.drop 16)
      else
        let k := 16 * dataSlots h
        if bs.length < 16 + k then ([], bs)
        else
          let r := parseSlots fuel (bs.drop (16 + k))
          ({ h with data := (bs.drop 16).take k } :: r.1, r.2)

/-- Types that R253 names. -/
def knownType (t : Nat) : Bool := (decide (1 ≤ t) && decide (t ≤ 5)) || (decide (8 ≤ t) && decide (t ≤ 0xE))

/-- A whole transaction has arrived: for this package it waits to be served; another package's is forwarded (R262, R264); a stale
package, or one in fog, drops it (R290, R293). HBEAT and DARK are never forwarded (R253). -/
def takeArrival (n : Nat) (s : State) (x : Txn) : State :=
  if s.pod.stale || inFog s then freeSlots (countDrop s (some n) 15 0) n x
  else if !knownType x.ttype then freeSlots s n x
  else
    let s := if x.ttype = tHBEAT ∨ x.ttype = tDARK then s else wakeBy false s
    if x.dst = ownId s ∨ x.ttype = tHBEAT ∨ x.ttype = tDARK then setPort s n { portOf s n with rxq := (portOf s n).rxq ++ [x] }
    else match routeOf s x.src x.dst (vcOf x.ttype) with
      | some m => enqueueOn s m (some n) x
      | none => freeSlots (countDrop s (some n) 31 16) n x

/-- One NAK, and no further one until the expected flit or the end of its hold-off (R247). -/
def sendNak (s : State) (n : Nat) : State :=
  let p := portOf s n
  if p.nakHeld then s else sendFlit (setPort s n { p with nakHeld := true }) n 2 0 0 []

/-- A flit of any type whose CRC fails is discarded and counted, and one NAK sent (R243, R247). -/
def crcFails (s : State) (port : Nat) : State := sendNak (countCE s (rPRT_ERR port) 15 0 (port / 4) 5 port) port

/-- The CRC of a received DATA flit is that of its bytes. -/
def crcGood (f : Flit) : Bool := crc32 (flitBody 1 f.first.toNat f.seq.toNat f.ack.toNat f.cr f.payload) == f.crc.toNat

/-- DATA_FLIT (R243, R245, R247): accepted only with a good CRC and the expected SEQ. -/
def execDataFlit (port : Nat) (flit : Flit) (s : State) : Out State :=
  let p := portOf s port
  .next (if !takesFlits p then s
  else if !crcGood flit then crcFails s port
  else if flit.seq.toNat ≠ p.seqExp then sendNak s port
  else
    let s := takeAck s port flit.ack flit.cr
    let p := portOf s port
    let r := parseSlots (p.partial_.length / 16 + 16) (p.partial_ ++ flit.payload.take 240)
    let s := setPort s port { p with seqExp := (p.seqExp + 1) % 4096, lastGood := flit.seq.toNat, nakHeld := false, partial_ := r.2 }
    r.1.foldl (takeArrival port) s)

/-- NAK_FLIT (R247): every unacknowledged flit is sent again. -/
def execNakFlit (port : Nat) (ack : BitVec 12) (cr : List Byte) (s : State) : Out State :=
  .next (if takesFlits (portOf s port) then replayPort (takeAck s port ack cr) port else s)

/-- IDLE_FLIT (R242, R246): it carries ACK and CR. -/
def execIdleFlit (port : Nat) (ack : BitVec 12) (cr : List Byte) (s : State) : Out State :=
  .next (if takesFlits (portOf s port) then takeAck s port ack cr else s)

/-- FLIT_CRC_FAIL (R243, R247): the flit is discarded and counted, and one NAK sent. -/
def execFlitCrcFail (port : Nat) (s : State) : Out State :=
  .next (if takesFlits (portOf s port) then crcFails s port else s)

/-- NAK_HOLDOFF_EXPIRY (R247): a further NAK may be sent. -/
def execNakHoldoffExpiry (port : Nat) (s : State) : Out State :=
  .next (setPort s port { portOf s port with nakHeld := false })

/-- RETRY_TIMEOUT (R248): the oldest unacknowledged flit has waited RETRY_TMO, in DRAIN too, whose replay buffer has still to empty (R266). -/
def execRetryTimeout (port : Nat) (s : State) : Out State :=
  .next (if takesFlits (portOf s port) then replayPort s port else s)

/-- RETRAIN_DONE (R248, R266): UP again, at the width chosen, from ACK + 1. -/
def execRetrainDone (port : Nat) (good : BitVec 16) (rtt : BitVec 12) (s : State) : Out State :=
  let p := portOf s port
  .next (match p.st, chooseWidth good with
  | .retrain, some (w, g) =>
    resendAll (hbRefresh (setPort s port { p with st := .up, width := w, group := g, good := good, rtt := rtt, replays := 0 }) port) port
  | _, _ => s)

/-- RETRAIN_TIMEOUT (R266): no good quartet within 100 µs. -/
def execRetrainTimeout (port : Nat) (s : State) : Out State :=
  .next (if (portOf s port).st = .retrain then enterDown s port else s)

/-- DRAIN_DONE (R266, R362): lanes off, what remains discarded, and a latched enable takes effect. -/
def execDrainDone (port : Nat) (s : State) : Out State :=
  let p := portOf s port
  .next (if p.st = .drain then
    let s := freeWaiting s port
    let s := setPort s port { portOf s port with st := .off, replay := [], txq := [], partial_ := [], credits := [], width := 0, group := 0 }
    if p.enLatch then leaveOff s port else s
  else s)

/-! Sending (R246, R249, R250). -/

/-- Payload of one flit: 15 slots, the unused ones NULL. -/
def flitPayload (bs : List Byte) : List Byte := bs ++ List.replicate (240 - bs.length) 0

/-- DATA flits of one transaction: its header in slot 0 of the first. `fuel` bounds them. -/
def flitsOf : Nat → Bool → List Byte → List (Nat × List Byte)
  | 0, _, _ => []
  | fuel + 1, head, bs => if bs.isEmpty then [] else (if head then 0 else 15, flitPayload (bs.take 240)) :: flitsOf fuel false (bs.drop 240)

/-- Send one DATA flit, kept for replay. -/
def sendData (n : Nat) (s : State) (f : Nat × List Byte) : State :=
  let p := portOf s n
  let s := setPort s n { p with seqNext := (p.seqNext + 1) % 4096, replay := p.replay ++ [⟨p.seqNext, f.1, f.2⟩] }
  sendFlit s n 1 f.1 p.seqNext f.2

/-- Whether a transaction may go at the port's width: the Safelight width carries HBEAT and DARK only (R240). -/
def carries (p : Port) (x : Txn) : Bool := p.width != 3 || x.ttype == tHBEAT || x.ttype == tDARK

/-- The first waiting transaction of a VC and class, if the far end has credit for it. -/
def sendable (p : Port) (key : Nat) : Option (Option Nat × Txn) :=
  match p.txq.find? (fun e => vcKey e.2 == key && carries p e.2) with
  | some e => if slotsOf e.2 ≤ nth p.credits key then some e else none
  | none => none

/-- The transaction that goes next: that of a VC and class held for 64 flit times, else by strict priority MGMT, RSP, COLL, REQ (R250). -/
def nextToSend (p : Port) (starved : Option Nat) : Option (Option Nat × Txn) :=
  match starved.bind (sendable p) with
  | some e => some e
  | none => ([6, 7, 2, 3, 4, 5, 0, 1].filterMap (sendable p)).head?

/-- Take the first entry that equals `e` out of a queue. -/
def removeFirst (e : Option Nat × Txn) : List (Option Nat × Txn) → List (Option Nat × Txn)
  | [] => []
  | x :: l => if x = e then l else x :: removeFirst e l

/-- TRANSACTION_SEND (R245, R246, R250): one waiting transaction is sent whole, if its flits fit the replay buffer; a port with none it may
send carries an IDLE flit (R246, R267). -/
def execTransactionSend (port : Nat) (starved : Option Nat) (s : State) : Out State :=
  let p := portOf s port
  .next (if p.st = .up ∧ s.pod.stale = false ∧ inFog s = false then
    match nextToSend p starved with
    | none => sendIdle s port
    | some e =>
      let fs := flitsOf (e.2.data.length / 240 + 2) true (headerBytes e.2 ++ e.2.data)
      if 512 < p.replay.length + fs.length then sendIdle s port
      else
        let k := vcKey e.2
        let s := setPort s port { p with txq := removeFirst e p.txq, credits := p.credits.set k (nth p.credits k - slotsOf e.2) }
        let s := match e.1 with | some a => freeSlots s a e.2 | none => s
        fs.foldl (sendData port) s
  else if takesFlits p then sendIdle s port
  else s)

/-! The Safelight width (R461). -/

/-- A CTRL flit of the Safelight width is taken, with the ACK and CR it carries (R246). -/
def takeCtrl (s : State) (n : Nat) (ack : BitVec 12) (cr : List Byte) : State := if takesFlits (portOf s n) then takeAck s n ack cr else s

/-- WIDTH1 (R461): the port goes to the Safelight width. -/
def execWidth1 (port : Nat) (s : State) (ack : BitVec 12 := 0) (cr : List Byte := []) : Out State :=
  let s := takeCtrl s port ack cr
  .next (if (portOf s port).st = .up then setPort s port { portOf s port with width := 3 } else s)

/-- WIDEN (R461): it wakes a package in Safelight; one in Lit or Standby retrains the port. -/
def execWiden (port : Nat) (s : State) (ack : BitVec 12 := 0) (cr : List Byte := []) : Out State :=
  let s := takeCtrl s port ack cr
  .next (if (portOf s port).st = .up then
    if s.pwr.st = 2 ∨ s.pwr.entering = some 2 then wakeBy false s else writeRetrain s port
  else s)

/-- WIDEN_RESEND_TIMER (R461): while a transaction other than HBEAT and DARK waits at a port of the Safelight width, WIDEN is sent. -/
def execWidenResendTimer (port : Nat) (s : State) : Out State :=
  let p := portOf s port
  .next (if p.st = .up ∧ p.width = 3 ∧ p.txq.any (fun e => !carries p e.2) = true then sendCtrl s port 2 none else s)

/-! Heartbeats (R287, R288). -/

/-- HBEAT_TIMER (R287): every 250 ticks each port in UP sends one HBEAT, while the own incarnation is not 0 and the package not stale;
otherwise it carries an IDLE flit (R267). -/
def execHbeatTimer (port : Nat) (s : State) : Out State :=
  let p := portOf s port
  .next (match p.st, peerOf p with
  | .up, some m =>
    if s.pod.ownInc ≠ 0 ∧ s.pod.stale = false ∧ inFog s = false then
      let x := ownTxn s tHBEAT m 0 (BitVec.ofNat 64 (p.hbseq % 2 ^ 32)) []
      enqueueOn (setPort s port { p with hbseq := (p.hbseq + 1) % 2 ^ 32 }) port none x
    else sendIdle s port
  | _, _ => s)

/-- HBEAT (R259, R288): heard, the miss count is 0 and the port LIVE. -/
def execHbeat (src : Option Nat) (s : State) : Out State :=
  match arrive s src tHBEAT with
  | .none => .next s
  | .drop s => .next s
  | .ok _ s =>
    .next (match src with
    | none => s
    | some n =>
      let p := portOf s n
      if p.hb = 1 ∨ p.hb = 4 ∨ (p.hb = 3 ∧ portUp p = true)
      then setPort s n { p with hb := 1, misses := 0, heard := true, silence := none, liveSince := true } else s)

/-- HEARTBEAT_MISS_TIMER (R288): 250 ticks with none heard; HBMISS misses lose the link. -/
def execHeartbeatMissTimer (port : Nat) (s : State) : Out State :=
  let p := portOf s port
  .next (if p.hb ≠ 1 then s
  else if p.heard then setPort s port { p with heard := false }
  else if p.misses + 1 < regField s rSTK_MEMB 24 17 then setPort s port { p with misses := p.misses + 1 }
  else
    let s := writeRetrain (setPort s port { p with hb := 3, misses := p.misses + 1 }) port
    match peerOf p with
    | some m => linkLost s m
    | none => s)

/-- DARK (R288, R295): a LIVE port counts no misses for SILENCE ticks. -/
def execDark (src : Option Nat) (s : State) : Out State :=
  match arrive s src tDARK with
  | .none => .next s
  | .drop s => .next s
  | .ok x s =>
    .next (match src with
    | none => s
    | some n =>
      let p := portOf s n
      if p.hb = 1 then setPort s n { p with hb := 4, silence := some (bits x.hi 31 0) } else s)

/-- SILENCE_TIMER_END (R288): the announced silence is over; one of 0xFFFF_FFFF never ends. -/
def execSilenceTimerEnd (port : Nat) (s : State) : Out State :=
  let p := portOf s port
  .next (if p.hb = 4 ∧ p.silence = some 0 then setPort s port { p with hb := 1, misses := 0, silence := none, liveSince := true } else s)

/-- DOWN_RETRAIN_TIMER (R288): every 10 ms a port in DOWN whose link is lost, or whose neighbour is dark, is written RETRAIN. -/
def execDownRetrainTimer (port : Nat) (s : State) : Out State :=
  let p := portOf s port
  .next (if p.st = .down ∧ (p.hb = 3 ∨ (p.hb = 4 ∧ p.silence.isSome = true)) then writeRetrain s port else s)

end Sys2Proof.Machine
end

