-- ==== Sys2Proof/Machine/Remote.lean ====
section
/-! DEFINITION. Remote requests (R147, R252 to R258): issuing them, the remote copies, and their service at a destination's homes. -/

namespace Sys2Proof.Machine

/-! Issuing requests (R258, R262, R290). -/

/-- A tag that no request holds and that does not rest (R258). `fuel` is at least the tags in use. -/
def freshTag (s : State) : Nat → Nat → Nat
  | 0, t => t
  | fuel + 1, t =>
    if s.pod.reqs.any (fun r => r.tag == t) || s.pod.stuck.any (fun r => r.1 == t) then freshTag s fuel ((t + 1) % 65536) else t

/-- Issue a request of a context: none where the package has no route, no incarnation, or is stale. -/
def issueReq (s : State) (ctx ttype dst ppa len : Nat) (coded : Bool) (hi : BitVec 64) (data : List Byte) (why : Purpose) : Option State :=
  let tag := freshTag s (s.pod.reqs.length + s.pod.stuck.length + 1) (s.uid % 65536)
  (sendOn s (ownTxn s ttype dst tag hi data)).map (fun s =>
    nextUid { s with pod := { s.pod with reqs := s.pod.reqs ++ [⟨tag, dst, ppa, len, coded, why, ctx⟩] } })

/-! RREAD and RWRITE (R147, R256). -/

/-- A range cut at multiples of `m`. `fuel` bounds the pieces. -/
def cutAt (m : Nat) : Nat → Nat → Nat → List (Nat × Nat)
  | 0, _, _ => []
  | fuel + 1, a, n => if n = 0 then [] else let k := min n (m - a % m); (a, k) :: cutAt m fuel (a + k) (n - k)

/-- The pieces of a remote side: 4 KiB blocks where coded (R256), else bursts of at most 2 KiB (R145). -/
def remotePieces (coded : Bool) (rs : List (Nat × Nat)) : List (Nat × Nat) :=
  let m := if coded then 4096 else 2048
  (joinRuns rs).flatMap (fun r => cutAt m (r.2 / m + 2) r.1 r.2)

/-- Pieces with the byte position each begins at. -/
def positions : Nat → List (Nat × Nat) → List (Nat × Nat × Nat)
  | _, [] => []
  | pos, (a, n) :: t => (pos, a, n) :: positions (pos + n) t

/-- One piece of an RREAD: a coded one reads its whole block, another is widened to whole lines (R145, R151). -/
def readPiece (p : ProgRef) (ch : Bool) (o : OpSlot) (ctx pkg : Nat) (coded : Bool) (s : State) (x : Nat × Nat × Nat) : Option State :=
  let (pos, a, n) := x
  let g := if coded then 4096 else 64
  let ppa := a / g * g
  let len := (a + n + g - 1) / g * g - ppa
  issueReq s ctx tRD pkg ppa len coded (requestHi ppa len coded) [] (.rread p ch o.idx pos (a % g) n)

/-- One piece of an RWRITE, with its block's edge code in a trailer slot where coded (R256). -/
def writePiece (p : ProgRef) (ch : Bool) (o : OpSlot) (ctx pkg : Nat) (coded : Bool) (bs : List Byte) (s : State) (x : Nat × Nat × Nat) : Option State :=
  let (pos, a, n) := x
  let d := (bs.drop pos).take n
  let data := if coded then padSlots d ++ padSlots (leBytes 4 (crc32c d)) else padSlots d
  issueReq s ctx tWR pkg a n coded (requestHi a n coded) data (.rwrite p ch o.idx)

/-- Slots of 16 B that the reply to a read or atomic takes: a header, the data, and a block's code (R255, R256). -/
def replySlots (len : Nat) : Nat := 2 + (len + 15) / 16

/-- Slots set aside for replies that have not come (R251). -/
def replySlotsOut (s : State) : Nat :=
  s.pod.reqs.foldl (fun n r => match r.why with
    | .rread .. => n + replySlots r.len
    | .loupeRead .. => n + replySlots r.len
    | .loupeCursor .. => n + replySlots r.len
    | _ => n) 0

/-- The package holds room for the reply to a read or atomic (R251). How much room it has is open; it has room for one reply (log entry
115). -/
def roomFor (s : State) (len : Nat) : Bool :=
  replySlotsOut s == 0 || decide (replySlotsOut s + replySlots len ≤ Config.replyRoom)

/-- Issue pieces in turn, up to the first that finds no room; those left. -/
def issueAll (room : State → Nat × Nat × Nat → Bool) (f : State → Nat × Nat × Nat → Option State) :
    State → List (Nat × Nat × Nat) → Option (State × Nat)
  | s, [] => some (s, 0)
  | s, x :: t => if room s x then (f s x).bind (fun s => issueAll room f s t) else some (s, t.length + 1)

/-- Transactions of a channel's op that are out. -/
def copyOut (s : State) (p : ProgRef) (ch : Bool) : Nat :=
  (s.pod.reqs.filter (fun r => match r.why with
    | .rread p' c .. => p' == p && c == ch
    | .rwrite p' c _ => p' == p && c == ch
    | _ => false)).length

/-- Issue what a channel may of the pieces that are left: 128 are out at once (R138). PORT_DOWN at the source where there is no way
(R262, R290). With the last piece issued the op leaves its queue and waits for the answers. -/
def issueSome (room : State → Nat × Nat × Nat → Bool) (f : State → Nat × Nat × Nat → Option State) (p : ProgRef) (e : Eng) (s : State) (o : OpSlot) (coded : Bool) (rs : List (Nat × Nat)) :
    Acc (OpPhase × Nat) :=
  let ps := positions o.mark (remotePieces coded (dropRuns o.mark rs))
  let now := ps.take (channelBursts - copyOut s p (e == .copy1))
  match issueAll room f s now with
  | some (t, left) =>
    if now.length = ps.length ∧ left = 0 then .ok (.remote (copyOut t p (e == .copy1)), 0) t
    else .ok (.queued, o.mark + runBytes ((now.take (now.length - left)).map (·.2))) t
  | none => .bad 0x0403 (cpTPKG o.word) s

/-- RREAD (R147): one remote read for each piece. -/
def rreadEff (p : ProgRef) (e : Eng) (s : State) (q : Prog) (o : OpSlot) : Acc (OpPhase × Nat) :=
  let src := cpSrc q o
  issueSome (fun s x => roomFor s x.2.2) (readPiece p (e == .copy1) o q.ctx (cpTPKG o.word) src.coded) p e s o src.coded (runsOf src)

def execRread (p : ProgRef) (eng : Eng) (err : HwErr) (s : State) : Out State := .next (runCopy s p eng err 4 (rreadEff p eng))

/-- RWRITE (R147): one remote write for each piece. -/
def rwriteEff (p : ProgRef) (e : Eng) (s : State) (q : Prog) (o : OpSlot) : Acc (OpPhase × Nat) :=
  let dst := cpDst q o
  let bs := spGather (coreOf s p.core) p.upper (runsOf (cpSrc q o))
  issueSome (fun _ _ => true) (writePiece p (e == .copy1) o q.ctx (cpTPKG o.word) dst.coded bs) p e s o dst.coded (runsOf dst)

def execRwrite (p : ProgRef) (eng : Eng) (err : HwErr) (s : State) : Out State := .next (runCopy s p eng err 5 (rwriteEff p eng))

/-! Service of requests (R255, R256). -/

/-- STATUS of a request that its own fields refuse: 1 or 2, 0 where they are right. Conditions in the table's order. -/
def requestStatus (s : State) (x : Txn) (atomic : Bool) : Nat :=
  let a := rqPPA x
  let n := rqLen x
  let whole := a % 4096 = 0 ∧ n = 4096
  if !reachable s a n then 1
  else if !atomic && !rqCODED x && (decide (2048 < n) || decide (a / 2048 ≠ (a + n - 1) / 2048)) then 1
  else if !atomic && rqCODED x && !decide whole then 2
  else if atomic && (decide (a % 8 ≠ 0) || decide (n ≠ 8) || rqCODED x) then 2
  else if x.rsv ≠ 0 ∨ x.hi.toNat >>> 54 ≠ 0 then 2
  else 0

/-- A reply of this package. -/
def replyTo (s : State) (x : Txn) (ttype : Nat) (poison : Bool) (status ecode : Nat) (data : List Byte) : Txn :=
  ownTxn s ttype x.src x.tag (replyHi (rqLen x) (rqCODED x) poison status ecode) data

/-- Count a request answered with STATUS 1, 2 or 4 (R268). -/
def countRefused (s : State) (src : Option Nat) (status : Nat) : State :=
  match src with
  | some n => if status = 1 ∨ status = 2 ∨ status = 4 then bump s (rPRT_RXDROP n) 63 48 else s
  | none => s

/-- Device bytes as they stand, and whether a line of them is poisoned; a poisoned line is logged (R176). -/
def readRaw (s : State) (a n : Nat) : List Byte × Bool × State :=
  let ls := linesOf a n
  let all := (ls.map (fun l => (lineNow s l).1)).flatten
  let bad := ls.find? (fun l => (lineNow s l).2)
  ((all.drop (a % 64)).take n, bad.isSome, match bad with | some l => logUe s l false false | none => s)

/-- Serve a request that has arrived, its STATUS decided: `s` is the state before it was taken, `s1` after. -/
def serveNow (s s1 : State) (x : Txn) (st : Nat) (src : Option Nat) (write : Bool) (eff : State → Txn → Nat → Txn × State) : State :=
  match (if st = 0 then readyLines s write (linesOf (rqPPA x) (rqLen x)) else none) with
  | some s => s
  | none =>
    let r := eff s1 x st
    if replyRoom s1 r.1 then (sendOn (countRefused r.2 src st) r.1).getD s else s

/-- Serve a request: once its reply can go (R251) and its lines are free, it is taken, its effect made and its reply sent. `eff` answers
the reply and the state after the effect. -/
def serveReq (s : State) (src : Option Nat) (t : Nat) (write atomic : Bool) (eff : State → Txn → Nat → Txn × State) : State :=
  match arrive s src t with
  | .none => s
  | .drop s => s
  | .ok x s1 => serveNow s s1 x (requestStatus s1 x atomic) src write eff

/-- RD (R255, R256). -/
def rdEff (s : State) (x : Txn) (st : Nat) : Txn × State :=
  if st ≠ 0 then (replyTo s x tRDRSP false st 0 [], s)
  else
    let (d, p, s) := readRaw s (rqPPA x) (rqLen x)
    (replyTo s x tRDRSP p (if p then 3 else 0) (if rqCODED x then codeAt s (rqPPA x) else 0) d, s)

def unitRd (src : Option Nat) (s : State) : State := serveReq s src tRD false false rdEff

/-- WR (R255, R256): a coded block and its code are stored as one unit (R154). -/
def wrEff (s : State) (x : Txn) (st : Nat) : Txn × State :=
  if st ≠ 0 then (replyTo s x tWRACK false st 0 [], s)
  else
    let s := devWriteNow s (rqPPA x) (x.data.take (rqLen x))
    let s := if rqCODED x then devSend s (slotOf (rqPPA x)) ((x.data.drop (rqLen x)).take 4) else s
    (replyTo s x tWRACK false 0 0 [], s)

def execWr (src : Option Nat) (s : State) : Out State := .next (serveReq s src tWR true false wrEff)

/-- The earlier value in the reply of an atomic that changed nothing: the spec states none (log entry 1). -/
def noValue (s : State) : List Byte := leBytes 8 (Config.freeWord s.free).toNat

/-- An atomic of 8 bytes at its home (R29, R255): `f` gives the new value from the earlier one. -/
def atomicEff (f : Txn → Nat → Nat) (s : State) (x : Txn) (st : Nat) : Txn × State :=
  if st ≠ 0 then (replyTo s x tATRSP false st 0 (noValue s), useFree s 1)
  else
    let (d, p, s) := readRaw s (rqPPA x) 8
    if p then (replyTo s x tATRSP false 3 0 (noValue s), useFree s 1)
    else (replyTo s x tATRSP false 0 0 d, devWriteNow s (rqPPA x) (leBytes 8 (f x (leNat d))))

/-- ATADD (R253): adds the addend, modulo 2^64. -/
def execAtadd (src : Option Nat) (s : State) : Out State :=
  .next (serveReq s src tATADD true true (atomicEff (fun x v => v + leNat (x.data.take 8))))

/-- ATCAS (R253): writes the new value where the earlier one equals the compare value. -/
def execAtcas (src : Option Nat) (s : State) : Out State :=
  .next (serveReq s src tATCAS true true (atomicEff (fun x v => if v = leNat (x.data.take 8) then leNat ((x.data.drop 8).take 8) else v)))

end Sys2Proof.Machine
end

