-- ==== Sys2Proof/Machine/Loupe.lean ====
section
/-! DEFINITION. The loupes (08): calls, gather, pool, scatter and row updates. -/

namespace Sys2Proof.Machine

/-! Faults (R200, R203). -/

/-- KIND of LPE_ERR_LOG for a code. -/
def lpeKind (code : Nat) : Option Nat :=
  match code with
  | 0x0302 => some 0 | 0x0121 => some 1 | 0x0122 => some 2 | 0x0120 => some 3 | _ => none

/-- The value that LPE_ERR_LOG captures. -/
def lpeCapture (kind ppa pkg ctx tid : Nat) : BitVec 64 :=
  BitVec.ofNat 64 (1 + fieldAt 2 1 kind + fieldAt 31 3 (if kind = 0 then ppa >>> 12 else 0) + fieldAt 43 32 pkg + fieldAt 55 44 ctx + fieldAt 63 56 tid)

/-- A loupe's fault: logged where LPE_ERR_LOG takes its code. `pkg` holds the block or landing zone. -/
def lpeFault (s : State) (n ctx tid code addr pkg : Nat) : State × UnitFault :=
  match lpeKind code with
  | some k =>
    let cap := lpeCapture k addr pkg ctx tid
    (logOnce s (rLPE_ERR_LOG n) cap, ⟨code, 2, n, n / 2, accAddr code addr, cap⟩)
  | none => (s, ⟨code, 2, n, n / 2, accAddr code addr, accDetail s code addr⟩)

/-- Requests of a loupe's running call are answered into nothing. -/
def voidLoupe (s : State) (n : Nat) : State :=
  voidReqs s (fun r => match r.why with
    | .loupeRead m _ => m == n | .loupeWrite m => m == n | .loupeCursor m _ => m == n | _ => false)

/-- The running call of a loupe ends in a fault. -/
def failLoupe (s : State) (n : Nat) (c : LoupeCall) (early : Bool) (f : UnitFault) : State :=
  chargeCall (endHost (voidLoupe (setRun s n none) n) (whoLoupe n)) c.ctx c.caller early f

/-- A fault of the running call, its log first. -/
def loupeBad (s : State) (n : Nat) (r : LoupeRun) (early : Bool) (code addr pkg : Nat) : State :=
  let (s, f) := lpeFault s n r.call.ctx (lcTID r.block) code addr pkg
  failLoupe s n r.call early f

/-! TABLE ops (R186). -/

/-- Calls queued at a loupe. -/
def queuedAt (s : State) (n : Nat) : Nat := (loupeOf s n).queue.length

/-- The loupe with fewest calls queued among some, the first of them on a tie. -/
def fewest (s : State) : List Nat → Nat
  | [] => 0
  | [n] => n
  | n :: t => let m := fewest s t; if queuedAt s n ≤ queuedAt s m then n else m

def pickLoupe (s : State) (unit_ : Nat) (among : List Nat) : Nat := if unit_.testBit 15 then fewest s among else unit_ % 16

/-- A TABLE op is queued at its loupe, or held in the offload port while that queue is full. -/
def tableEff (op : Nat) (p : ProgRef) (s : State) (q : Prog) (o : OpSlot) : Acc OpPhase :=
  let d := dieOf s p.core
  let n := pickLoupe s (ofUNIT o.word) [2 * d, 2 * d + 1]
  if queuedAt s n ≥ 16 then .wait s
  else
    let c : LoupeCall := ⟨callUid s, .op p q.step q.sci o.idx, q.ctx, callCva q o, some op⟩
    .ok (.called (callUid s)) (nextUid (setLoupe s n { loupeOf s n with queue := (loupeOf s n).queue ++ [c] }))

/-- GATHER (R193). -/
def execGather (p : ProgRef) (s : State) : Out State := .next (runOp s p .offload .none (isOp 5 0) (whole (tableEff 0 p)))
/-- POOL (R194). -/
def execPool (p : ProgRef) (s : State) : Out State := .next (runOp s p .offload .none (isOp 5 1) (whole (tableEff 1 p)))
/-- SCATTER_ADD (R195). -/
def execScatterAdd (p : ProgRef) (s : State) : Out State := .next (runOp s p .offload .none (isOp 5 2) (whole (tableEff 2 p)))
/-- ROWUPDATE (R197). -/
def execRowupdate (p : ProgRef) (s : State) : Out State := .next (runOp s p .offload .none (isOp 5 3) (whole (tableEff 3 p)))

/-! Checks (R187, R188, R231). -/

/-- Caller-side rows of a call: how many, and bytes of each. -/
def callerRows (e b : BitVec 512) : Nat × Nat :=
  match lcOP b with
  | 0 => (lcNIDX b, teRowBytes e + teScales e)
  | 1 => (lcNBAGS b, 4 * teElems e)
  | 2 => (lcNIDX b, teElems e * (if lcCFMT b = 0 then 2 else 4))
  | _ => (0, 0)

/-- Where the caller-side rows lie, in order. -/
def callerRanges (e b : BitVec 512) : List (Nat × Nat) :=
  let x := callerRows e b
  (List.range x.1).map (fun k => (lcCADDR b + k * lcCSTRIDE b, x.2))

/-- The fields of a call block (R187), its table (R188), and its caller side; one caller-side row overlaps nothing, whatever CSTRIDE
(log entry 112). `half` a half-core caller, `opWant` the op's opcode. -/
def lpeBlockOk (s : State) (c : LoupeCall) (half : Bool) (b : BitVec 512) : Bool :=
  let t := tableReg s (lcTID b)
  let e := t.entry
  let op := lcOP b
  let x := callerRows e b
  let sp := if half then 2 ^ 20 else 2 ^ 21
  let pool := op == 1
  let isDesc := match c.caller with | .desc _ => true | _ => false
  c.cva % 64 == 0 && decide (op ≤ 3) && (match c.op with | some k => k == op | none => true)
    && bits b 31 22 == 0 && bits b 63 49 == 0 && bits b 95 81 == 0 && bits b 511 464 == 0
    && !(pool && lcPOOLK b == 3)
    && (if op = 2 then lcCFMT b == 0 || lcCFMT b == 12 else lcCFMT b == 0)
    && (if op = 3 then lcNIDX b == 0 else decide (1 ≤ lcNIDX b ∧ lcNIDX b ≤ 65536))
    && (if pool then decide (1 ≤ lcNBAGS b ∧ lcNBAGS b ≤ 65536) else lcNBAGS b == 0 && lcOFFCVA b == 0)
    && ((pool && lcWGT b) || lcWCVA b == 0)
    && teV e && teCtx e == c.ctx
    && (!pool || teFmt e == 12 || decide (teFmt e ≤ 5))
    && (op == 3 || decide (x.2 ≤ lcCSTRIDE b) || decide (x.1 ≤ 1))
    && (op == 3 || (if lcCSP b then true else decide (lcCADDR b + (x.1 - 1) * lcCSTRIDE b + x.2 ≤ sp)))
    && !(isDesc && !lcCSP b)

/-- The bag offsets start at 0, ascend and end at NIDX. -/
def offsOk (n : Nat) (offs : List Nat) : Bool :=
  offs.headD 1 == 0 && offs.getLast? == some n && (offs.zip offs.tail).all (fun x => decide (x.1 ≤ x.2))

/-- A MODE 1 program takes rows of this table (R231): its planes keep R205 and R216 for the row's size. -/
def rowProgOk (e h : BitVec 512) : Bool :=
  let n := teElems e
  chunkFits h (min n 4096)
    && (fxUsed h).all (fun p => isMX (fxFmt h p) == (p == 0 && isMX (teFmt e)))
    && (!(teCoded e) || (fxUsed h).all (fun p => p == 1 ||
          (decide (8 ≤ elemBits (fxFmt h p)) && n % 4096 == 0 && teStride e % 4096 == 0 && (decide (p < 2) || fxSoff h % 4096 == 0))))

/-! Rows (R189 to R191). -/

/-- Distinct ids with their positions, in ascending id order. -/
def distinct (ids : List Nat) : List (Nat × List Nat) :=
  ((List.range ids.length).zip ids).foldl (fun (t : Tbl (List Nat)) x => tput t x.2 ((match t.find? (fun e => e.1 == x.2) with | some e => e.2 | none => []) ++ [x.1])) []

/-- Parts of a row: its element bytes, and its scale bytes. -/
def rowParts (t : TableReg) (id : Nat) : List (Nat × Nat) :=
  let a := rowAt t id
  [(a.row, teRowBytes t.entry)] ++ (if teScales t.entry = 0 then [] else [(a.sc, teScales t.entry)])

/-- Key of a fetched byte. -/
def dataKey (pkg ppa : Nat) : Nat := pkg * 2 ^ 41 + ppa

/-- A row's bytes out of what was fetched: elements, then scales (R102, R193). -/
def rowBytesOf (t : TableReg) (r : LoupeRun) (id : Nat) : List Byte :=
  (rowParts t id).flatMap (fun x => getBytes r.data (dataKey (rowAt t id).pkg x.1) x.2)

/-- Ranges of ascending addresses, joined where they touch or overlap. -/
def joinSorted : List (Nat × Nat) → List (Nat × Nat)
  | [] => []
  | (a, n) :: t =>
    match joinSorted t with
    | (b, m) :: r => if b ≤ a + n then (a, max (a + n) (b + m) - a) :: r else (a, n) :: (b, m) :: r
    | [] => [(a, n)]

/-- Ranges sorted by address. -/
def sortRanges (l : List (Nat × Nat)) : List (Nat × Nat) := l.foldl (fun acc x => insKey x acc) []

/-- Ranges widened to whole blocks of `m` bytes. -/
def widenTo (m : Nat) (l : List (Nat × Nat)) : List (Nat × Nat) :=
  l.map (fun x => (x.1 / m * m, (x.1 + x.2 + m - 1) / m * m - x.1 / m * m))

/-- The local ranges of a call's rows, joined in each plane: elements, then scales (R190). -/
def localRanges (t : TableReg) (own : Nat) (rows : List (Nat × List Nat)) : List (Nat × Nat) :=
  let parts := (rows.filter (fun x => (rowAt t x.1).pkg == own)).map (fun x => rowParts t x.1)
  joinSorted (sortRanges (parts.flatMap (·.take 1))) ++ joinSorted (sortRanges (parts.flatMap (·.drop 1)))

/-- Remote reads of a call: package, address and length, windows of at least 512 B or whole blocks, joined up to 2 KiB (R191). -/
def remoteReads (t : TableReg) (own : Nat) (rows : List (Nat × List Nat)) : List (Nat × Nat × Nat) :=
  let far := rows.filter (fun x => (rowAt t x.1).pkg != own)
  let pkgs := far.foldl (fun l x => insNat (rowAt t x.1).pkg l) []
  let coded := teCoded t.entry
  pkgs.flatMap (fun k =>
    let rs := (far.filter (fun x => (rowAt t x.1).pkg == k)).flatMap (fun x => rowParts t x.1)
    let ws := joinSorted (sortRanges (widenTo (if coded then 4096 else 512) rs))
    ws.flatMap (fun x => (cutAt (if coded then 4096 else 2048) (x.2 / 512 + 2) x.1 x.2).map (fun y => (k, y.1, y.2))))

/-- Read local ranges into the fetched bytes, whole blocks checked where the table is coded. -/
def fetchLocal (n ctx own : Nat) (coded : Bool) : State → List (Nat × Nat) → Tbl Byte → Acc (Tbl Byte)
  | s, [], d => .ok d s
  | s, (a, k) :: l, d =>
    (segsReadC ⟨whoLoupe n, ctx⟩ coded s [⟨false, a, k⟩]).bind (fun bs s =>
      fetchLocal n ctx own coded s l (putBytes d (dataKey own a) bs))

/-! Sums (R189, R197). -/

/-- FP32 sum of terms in a free order (log entry 15): from the first term on. -/
def sumFree (base : Nat) (terms : List Num) : Num :=
  let order := (((List.range terms.length).map (fun i => ((Config.freeWord (base + i)).toNat, i))).foldl (fun l x => insKey x l) []).map (·.2)
  match order.filterMap (fun i => terms[i]?) with
  | [] => .fin false 0 0
  | x :: t => t.foldl (fun a b => rnd32 (a.add b)) x

/-- Elementwise sums of rows of FP32 bits, `base` the first of `n` free words for each element. -/
def sumRows (base e : Nat) (rows : List (List Nat)) : List Nat :=
  (List.range e).map (fun i => toF32 (sumFree (base + i * rows.length) (rows.map (fun r => ofF32 (nth r i)))))

/-- Sums by id of rows given with their ids. -/
def sumsBy (base e : Nat) (rows : List (Nat × List Nat)) : List (Nat × List Nat × Nat) :=
  (distinct (rows.map (·.1))).map (fun x =>
    let rs := x.2.filterMap (fun k => (rows[k]?).map (·.2))
    (x.1, if rs.length = 1 then rs.headD [] else sumRows base e rs, rs.length))

/-- Gradient rows of a SCATTER_ADD as FP32 bits. -/
def gradRow (cfmt e : Nat) (bs : List Byte) : List Nat := (unpack (elemBits cfmt) e bs).map (fun v => widenBits cfmt v 127)

/-- Records of a package's group (R196). -/
def recordsOf (own : Nat) (sums : List (Nat × List Nat × Nat)) : List Byte :=
  sums.flatMap (fun (x : Nat × List Nat × Nat) => leBytes 8 x.1 ++ leBytes 2 own ++ List.replicate 54 0 ++ x.2.1.flatMap (leBytes 4))

/-- Caller-side bytes of `rows` at ranges, from the caller's scratchpad or its memory. -/
def callerRead (s : State) (n : Nat) (c : LoupeCall) (b : BitVec 512) (rs : List (Nat × Nat)) : Acc (List Byte) :=
  if lcCSP b then
    (rangesSegs c.ctx false (lcCCODED b) s (joinRuns rs)).bind (fun gs s => segsReadC ⟨whoLoupe n, c.ctx⟩ (lcCCODED b) s gs)
  else match c.caller with
    | .op p _ _ _ => .ok (rs.flatMap (fun x => spRead (coreOf s p.core) p.upper x.1 x.2)) s
    | .desc _ => .ok [] s

/-- Write the caller side. -/
def callerWrite (s : State) (n : Nat) (c : LoupeCall) (b : BitVec 512) (rs : List (Nat × Nat)) (bs : List Byte) : Acc Unit :=
  if lcCSP b then
    (rangesSegs c.ctx true (lcCCODED b) s (joinRuns rs)).bind (fun gs s => segsWriteC ⟨whoLoupe n, c.ctx⟩ (lcCCODED b) s gs bs)
  else match c.caller with
    | .op p step sci _ =>
      (match progOf s p with
       | some q => if q.step = step ∧ q.sci = sci then .ok () (spPut s p rs bs) else .ok () s
       | none => .ok () s)
    | .desc _ => .ok () s

/-! The start of a call. -/

/-- What a call reads before any row: its block, checked, its index list, offsets and weights. A fault code in place of it. -/
def loupeHead (s : State) (n : Nat) (c : LoupeCall) : Acc LoupeRun :=
  let rq : Req := ⟨whoLoupe n, c.ctx⟩
  let half := match c.caller with | .op p _ _ _ => (coreOf s p.core).split | .desc _ => false
  (callBlock s rq c.cva).bind (fun b s =>
    if !lpeBlockOk s c half b then .bad 0x0120 (lcTID b) s
    else if lcCCODED b && lcCSP b && decide (lcOP b < 2) && !wholeBlocks (callerRanges (tableReg s (lcTID b)).entry b) then .bad 0x0301 0 s
    else
      (readList s rq (lcIDXCVA b) 8 (lcNIDX b)).bind (fun ids s =>
        (readList s rq (lcOFFCVA b) 4 (if lcOP b = 1 then lcNBAGS b + 1 else 0)).bind (fun offs s =>
          if lcOP b = 1 ∧ offsOk (lcNIDX b) offs = false then .bad 0x0120 (lcTID b) s
          else
            (readList s rq (lcWCVA b) 4 (if lcOP b = 1 ∧ lcWGT b then lcNIDX b else 0)).bind (fun wts s =>
              .ok ⟨c, b, ids, offs, wts, distinct ids, [], [], [], [], [], [], 0, 0, 0, 0, 0, 0, 0, 0, 0⟩ s))))

/-- Local bursts of ranges (R190, R199). -/
def burstCount (rs : List (Nat × Nat)) : Nat := (rs.flatMap (fun r => cutBursts (r.2 / 2048 + 2) r.1 r.2)).length

/-- GATHER and POOL: local rows fetched, remote reads listed. -/
def startRows (s : State) (n : Nat) (r : LoupeRun) : Acc LoupeRun :=
  let t := tableReg s (lcTID r.block)
  let own := ownId s
  let rs := localRanges t own r.rows
  (fetchLocal n r.call.ctx own (teCoded t.entry) s rs []).bind (fun d s =>
    .ok { r with data := d, todo := remoteReads t own r.rows, bursts := burstCount rs } s)

/-- SCATTER_ADD: gradients read and summed, groups formed. -/
def startScatter (s : State) (n : Nat) (r : LoupeRun) : Acc LoupeRun :=
  let t := tableReg s (lcTID r.block)
  let e := teElems t.entry
  let rs := callerRanges t.entry r.block
  (callerRead s n r.call r.block rs).bind (fun bs s =>
    let len := (callerRows t.entry r.block).2
    let rows := ((List.range r.ids.length).zip r.ids).map (fun x => (x.2, gradRow (lcCFMT r.block) e ((bs.drop (x.1 * len)).take len)))
    let sums := sumsBy s.free e rows
    let pkgs := sums.foldl (fun l x => insNat (rowAt t x.1).pkg l) []
    let groups : List LoupeGroup := pkgs.map (fun k =>
      ⟨k, lzOf t k, recordsOf (ownId s) (sums.filter (fun x => (rowAt t x.1).pkg == k)), false, none, none, false⟩)
    let s := useFree s (e * rows.length)
    match groups.find? (fun g => g.lz == 0) with
    | some _ => .bad 0x0120 (lcTID r.block) s
    | none => .ok { r with sums, groups } s)

/-- Records of a landing zone: ids and FP32 rows. -/
def recordRows (e : Nat) : Nat → List Byte → List (Nat × List Nat)
  | 0, _ => []
  | k + 1, bs => (leNat (bs.take 8), unpack 32 e ((bs.drop 64).take (4 * e))) :: recordRows e k (bs.drop (64 + 4 * e))

/-- ROWUPDATE: CURSOR, LIMIT and records read, sums formed; a MODE 1 call's program checked (R197, R231). -/
def startUpdate (s : State) (r : LoupeRun) : Acc LoupeRun :=
  let t := tableReg s (lcTID r.block)
  let e := teElems t.entry
  let lz := lzOf t (ownId s)
  let prog : Acc Bool :=
    if lcMODE r.block then
      (match s.sched.model with
       | none => .ok false s
       | some m => if m.nfix ≤ lcFIXPROG r.block then .ok false s
         else (fixImg s m (lcFIXPROG r.block)).bind (fun img s => .ok (rowProgOk t.entry img.hdr) s))
    else .ok true s
  prog.bind (fun ok s =>
    if !ok || lz == 0 then .bad 0x0120 (lcTID r.block) s
    else
      (devRead s lz 16).bind (fun hb s =>
        let c := leNat (hb.take 8)
        if leNat (hb.drop 8) < c then .bad 0x0122 0 s
        else
          (devRead s (lz + 64) c).bind (fun bs s =>
            let k := c / (64 + 4 * e)
            let rows := recordRows e k bs
            if rows.any (fun x => !((rowAt t x.1).ok && (rowAt t x.1).pkg == ownId s)) then .bad 0x0121 0 s
            else
              .ok { r with
                cursor := c, nrec := k, sums := sumsBy s.free e rows
                rows := (distinct (rows.map (·.1)))
                bursts := burstCount [(lz, 16), (lz + 64, c)]
                fixPart := if lcMODE r.block then 1 else 0 } (useFree s (e * rows.length)))))

/-- The whole start of a call. -/
def loupeStart (s : State) (n : Nat) (c : LoupeCall) : Acc LoupeRun :=
  (loupeHead s n c).bind (fun r s =>
    let t := tableReg s (lcTID r.block)
    match r.rows.find? (fun x => !(rowAt t x.1).ok) with
    | some _ => .bad 0x0121 0 s
    | none => match lcOP r.block with
      | 2 => startScatter s n r
      | 3 => startUpdate s r
      | _ => startRows s n r)

/-! Remote work of a running call. -/

/-- One request of a loupe's call: none where there is no way to its package. -/
def loupeIssue (s : State) (r : LoupeRun) (ttype pkg ppa len : Nat) (coded : Bool) (data : List Byte) (why : Purpose) : Option (State × LoupeRun) :=
  let tag := freshTag s (s.pod.reqs.length + s.pod.stuck.length + 1) (s.uid % 65536)
  (issueReq s r.call.ctx ttype pkg ppa len coded (requestHi ppa len coded) data why).map (fun s =>
    (s, { r with tags := r.tags ++ [tag], remTx := r.remTx + 1, remBytes := r.remBytes + (if ttype = tATADD then 0 else len) }))

/-- Remote transactions that a loupe keeps in flight (R191). -/
def loupeBursts : Nat := 1024

/-- The atomic add of a remote group's CURSOR and the read of its LIMIT (R195). -/
def issueCursor (n : Nat) (s : State) (r : LoupeRun) (g : LoupeGroup) : Option (State × LoupeRun) :=
  let r := { r with groups := r.groups.map (fun x => if x.pkg = g.pkg then { x with asked := true } else x) }
  (loupeIssue s r tATADD g.pkg g.lz 8 false (leBytes 16 g.bytes.length) (.loupeCursor n g.pkg)).bind (fun (s, r) =>
    loupeIssue s r tRD g.pkg (g.lz + 8) 8 false [] (.loupeCursor n g.pkg))

/-- Issue what is listed while fewer than 1,024 transactions are in flight and their replies have room (R191, R251): reads of rows, then
CURSOR and LIMIT of the remote groups, then records, each by a package that is named where there is no way to it. `fuel` bounds them. -/
def issueMore (n : Nat) : Nat → State → LoupeRun → Except Nat (State × LoupeRun)
  | 0, s, r => .ok (s, r)
  | fuel + 1, s, r =>
    match r.todo with
    | (pkg, a, len) :: t =>
      let coded := teCoded (tableReg s (lcTID r.block)).entry
      if loupeBursts ≤ r.tags.length ∨ roomFor s len = false then .ok (s, r)
      else match loupeIssue s { r with todo := t } tRD pkg a len coded [] (.loupeRead n a) with
        | some (s, r) => issueMore n fuel s r
        | none => .error pkg
    | [] =>
      match r.groups.find? (fun g => g.pkg != ownId s && !g.asked) with
      | some g =>
        if loupeBursts < r.tags.length + 2 ∨ roomFor s 16 = false then .ok (s, r)
        else match issueCursor n s r g with
          | some (s, r) => issueMore n fuel s r
          | none => .error g.pkg
      | none =>
        match r.puts with
        | [] => .ok (s, r)
        | (pkg, pos, a, len) :: t =>
          if loupeBursts ≤ r.tags.length then .ok (s, r)
          else
            let bs := match r.groups.find? (fun g => g.pkg == pkg) with | some g => g.bytes | none => []
            match loupeIssue s { r with puts := t } tWR pkg a len false (padSlots ((bs.drop pos).take len)) (.loupeWrite n) with
            | some (s, r) => issueMore n fuel s r
            | none => .error pkg

/-- Something of a call is still to be issued. -/
def leftToIssue (s : State) (r : LoupeRun) : Bool :=
  !r.todo.isEmpty || !r.puts.isEmpty || r.groups.any (fun g => g.pkg != ownId s && !g.asked)

/-- Everything a call may issue now. -/
def issueAllOf (n : Nat) (s : State) (r : LoupeRun) : Except Nat (State × LoupeRun) :=
  issueMore n (r.todo.length + r.groups.length + r.puts.length + 1) s r

/-- Store a run, or end it with PORT_DOWN toward a package (R262, R290). -/
def putIssued (s : State) (n : Nat) (r : LoupeRun) : Except Nat (State × LoupeRun) → State
  | .ok (s, r) => setRun s n (some r)
  | .error pkg => loupeBad s n r false 0x0403 pkg pkg

/-- The table that a call which cannot start names, for its log: 0 where its block cannot be read. -/
def callTid (s : State) (n : Nat) (c : LoupeCall) : Nat :=
  match callBlock s ⟨whoLoupe n, c.ctx⟩ c.cva with
  | .ok b _ => lcTID b
  | _ => 0

/-- ARITH_CHECK of a loupe's adders and multipliers (R200): unit `i` and lane `j`. -/
def lpeCheck (s : State) (n : Nat) (r : LoupeRun) (par : Bool) (i j : Nat) : State :=
  let cap : BitVec 64 :=
    BitVec.ofNat 64 (1 + 2 * b2n par + fieldAt 3 2 i + fieldAt 9 4 j + fieldAt 21 10 r.call.ctx + fieldAt 29 22 (lcTID r.block))
  failLoupe (logOnce (bump s (rLPE_CHECK_COUNT n) 31 0) (rLPE_CHECK_LOG n) cap) n r.call false ⟨0x0303, 2, n, n / 2, none, setBits cap 0 0 1⟩

/-- The mismatch that the last stage of a call meets: in a POOL's adders, or those of a ROWUPDATE of MODE 0 (R194, R197). -/
def endCheck (r : LoupeRun) (err : HwErr) : Option (Bool × Nat × Nat) :=
  match err with
  | .check par i j => if lcOP r.block = 1 ∨ (lcOP r.block = 3 ∧ lcMODE r.block = false) then some (par, i, j) else none
  | _ => none

/-- LOUPE_CALL_START (R188 to R191): the oldest call of loupe `n` begins. A mismatch is met where gradients are summed. -/
def unitLoupeCallStart (n : Nat) (err : HwErr) (s : State) : State :=
  let l := loupeOf s n
  match l.run, l.queue with
  | none, c :: t =>
    if n ≥ 16 ∨ unitUp s 4 n (n / 2) = false then s
    else match loupeStart s n c with
      | .wait s => s
      | .bad code a s =>
        let tid := callTid s n c
        let s := setLoupe s n { l with queue := t }
        let (s, f) := lpeFault s n c.ctx tid code a (ownId s)
        (failLoupe s n c true f)
      | .ok r s =>
        let s := setLoupe s n ⟨t, some r⟩
        match err with
        | .shared d => sharedError s d
        | .check par i j =>
          if lcOP r.block = 2 ∨ lcOP r.block = 3 then lpeCheck s n r par i j else putIssued s n r (issueAllOf n s r)
        | _ => putIssued s n r (issueAllOf n s r)
  | _, _ => s

/-- A group's CURSOR and LIMIT are known: LPE_LANDING where it does not fit, else its records are to be written (R195). -/
def groupReady (s : State) (n : Nat) (r : LoupeRun) (g : LoupeGroup) : State :=
  match g.cur, g.lim with
  | some c, some lim =>
    if g.sent then putIssued s n r (issueAllOf n s r)
    else if lim < c + g.bytes.length then loupeBad s n r false 0x0122 0 g.pkg
    else
      let ps := (positions 0 (cutAt 2048 (g.bytes.length / 2048 + 2) (g.lz + 64 + c) g.bytes.length)).map (fun x => (g.pkg, x))
      let r := { r with puts := r.puts ++ ps, groups := r.groups.map (fun x => if x.pkg = g.pkg then { x with sent := true } else x) }
      putIssued s n r (issueAllOf n s r)
  | _, _ => putIssued s n r (issueAllOf n s r)

/-! The end of a call. -/

/-- A row widened to FP32 values (R105, R194). -/
def rowWide (e : BitVec 512) (bs : List Byte) : List Num :=
  let fmt := teFmt e
  let es := unpack (elemBits fmt) (teElems e) (bs.take (teRowBytes e))
  let sc := bs.drop (teRowBytes e)
  (es.zip (List.range es.length)).map (fun x => widen fmt x.1 ((sc.getD (x.2 / 32) 127).toNat))

/-- One output row of a POOL (R194): the weighted rows of its positions, combined elementwise. -/
def poolRow (base k e : Nat) (rows : List (List Num)) : List Nat :=
  (List.range e).map (fun i =>
    let xs := rows.map (fun r => r.getD i .nan)
    toF32 (match xs with
      | [] => .fin false 0 0
      | x :: t =>
        if k = 2 then t.foldl (fun a b => a.maxN b) x
        else
          let sum := sumFree (base + i * rows.length) xs
          if k = 1 then sum.quot (.fin false xs.length 0) else sum))

/-- Caller-side bytes of a GATHER or POOL. -/
def deliverBytes (s : State) (t : TableReg) (r : LoupeRun) : List Byte :=
  let e := t.entry
  if lcOP r.block = 0 then r.ids.flatMap (rowBytesOf t r)
  else
    let term (k : Nat) : List Num :=
      let xs := rowWide e (rowBytesOf t r (nth r.ids k))
      if lcWGT r.block then xs.map (fun x => rnd32 (x.mul (ofF32 (nth r.wts k)))) else xs
    (List.range (lcNBAGS r.block)).flatMap (fun b =>
      let lo := nth r.offs b
      let rows := (List.range (nth r.offs (b + 1) - lo)).map (fun k => term (lo + k))
      (poolRow (s.free + teElems e * lo) (lcPOOLK r.block) (teElems e) rows).flatMap (leBytes 4))

/-- A table row plus a sum, narrowed by RNE: element bytes and scale bytes (R197 step 4). The sum of row and gradient is exact, and is
rounded once, to the table's format (log entry 113). -/
def addRow (e : BitVec 512) (bs : List Byte) (sum : List Nat) : List Byte × List Byte :=
  let fmt := teFmt e
  let n := teElems e
  let xs := ((rowWide e bs).zip (List.range n)).map (fun x => x.1.add (ofF32 (nth sum x.2)))
  let out : List (Option LaneOut) := xs.map (fun x => some (.val x))
  if isMX fmt then
    let vs := (List.range ((n + 63) / 64)).map (fun j =>
      let k := min 64 (n - 64 * j)
      let y := fxPlane fmt .rne (fun _ => 0) ((out.drop (64 * j)).take k)
      ((y.1.take k).map (fun o => o.getD 0), y.2.take ((k + 31) / 32)))
    (pack (elemBits fmt) (vs.flatMap (·.1)), (vs.flatMap (·.2)).map (BitVec.ofNat 8))
  else
    (pack (elemBits fmt) (xs.map (fun x => match elemFmt fmt with | some f => encodeElem f .rne 0 x | none => 0)), [])

/-- Write bytes into a coded tensor: each block they touch is read, checked, updated and written whole, with a new edge code (R197). -/
def putCoded : List Nat → State → Nat → List Byte → Acc Unit
  | [], s, _, _ => .ok () s
  | b :: t, s, a, bs =>
    (checkBlock s b).bind (fun _ s =>
      let old := blockBytes s b
      let lo := a - b * 4096
      let new := old.take lo ++ bs.drop (b * 4096 - a) ++ old.drop (lo + (bs.drop (b * 4096 - a)).length)
      putCoded t (putCode (devWriteNow s (b * 4096) (new.take 4096)) b (crc32c (new.take 4096))) a bs)

/-- Write bytes of a table's plane. -/
def putPlane (coded : Bool) (s : State) (a : Nat) (bs : List Byte) : Acc Unit :=
  if coded then putCoded (blocksOf a bs.length) s a bs else .ok () (devWriteNow s a bs)

/-- MODE 0: each sum added to its row, through the homes; every line of them is free (`updateLines`). -/
def updateRows (t : TableReg) (n ctx : Nat) : State → List (Nat × List Nat × Nat) → Acc Unit
  | s, [] => .ok () s
  | s, (id, sum, _) :: l =>
    let coded := teCoded t.entry
    let a := rowAt t id
    let rq : Req := ⟨whoLoupe n, ctx⟩
    (segsReadC rq coded s [⟨false, a.row, teRowBytes t.entry⟩]).bind (fun eb s =>
      (if teScales t.entry = 0 then (.ok [] s : Acc (List Byte)) else segsReadC rq coded s [⟨false, a.sc, teScales t.entry⟩]).bind (fun sb s =>
        let (x, y) := addRow t.entry (eb ++ sb) sum
        (putPlane coded s a.row x).bind (fun _ s =>
          (if teScales t.entry = 0 then (.ok () s : Acc Unit) else putPlane coded s a.sc y).bind (fun _ s => updateRows t n ctx s l))))

/-- Parts of the rows that MODE 0 reads and writes. -/
def updateParts (t : TableReg) (sums : List (Nat × List Nat × Nat)) : List (Nat × Nat) := sums.flatMap (fun x => rowParts t x.1)

/-- Lines that MODE 0 reads and writes: of a coded table the lines of whole blocks, and of their codes. -/
def updateLines (t : TableReg) (sums : List (Nat × List Nat × Nat)) : List Nat :=
  let ps := updateParts t sums
  if teCoded t.entry then
    (widenTo 4096 ps).flatMap (fun p => linesOf p.1 p.2) ++ (ps.flatMap (fun p => blocksOf p.1 p.2)).map (fun b => lineOf (slotOf (b * 4096)))
  else ps.flatMap (fun p => linesOf p.1 p.2)

/-- The group deposited here: CURSOR's home atomic, LIMIT, and the records (R195). -/
def depositLocal (s : State) (g : LoupeGroup) : Acc Nat :=
  match readyLines s true (linesOf g.lz 64) with
  | some s => .wait s
  | none =>
    (devReadNow s g.lz 16).bind (fun hb s =>
      let c := leNat (hb.take 8)
      match (if leNat (hb.drop 8) < c + g.bytes.length then none else readyLines s true (linesOf (g.lz + 64 + c) g.bytes.length)) with
      | some s => .wait s
      | none =>
        let s := devWriteNow s g.lz (leBytes 8 (c + g.bytes.length))
        if leNat (hb.drop 8) < c + g.bytes.length then .bad 0x0122 0 s
        else .ok (burstCount [(g.lz + 64 + c, g.bytes.length)]) (devWriteNow s (g.lz + 64 + c) g.bytes))

/-- The effect of a call whose remote work is done: rows delivered, table rows updated, or the local group deposited; with the bursts of
table rows and landing zone that it takes here (R199; log entry 114). -/
def loupeEffect (s : State) (n : Nat) (r : LoupeRun) : Acc Nat :=
  let t := tableReg s (lcTID r.block)
  match lcOP r.block with
  | 2 => match r.groups.find? (fun g => g.pkg == ownId s) with
    | some g => depositLocal s g
    | none => .ok 0 s
  | 3 => if lcMODE r.block then .ok 0 s
    else match readyLines s true (updateLines t r.sums) with
      | some s => .wait s
      | none => (updateRows t n r.call.ctx s r.sums).bind (fun _ s =>
          .ok (2 * burstCount (if teCoded t.entry then widenTo 4096 (updateParts t r.sums) else updateParts t r.sums)) s)
  | _ => (callerWrite s n r.call r.block (callerRanges t.entry r.block) (deliverBytes s t r)).bind (fun _ s =>
      .ok 0 (useFree s (if lcOP r.block = 1 then teElems t.entry * r.ids.length else 0)))

/-- CURSOR from c to 0 by compare-swap (R197 step 6). -/
def swapCursor (s : State) (r : LoupeRun) : Acc Unit :=
  let lz := lzOf (tableReg s (lcTID r.block)) (ownId s)
  match readyLines s true (linesOf lz 8) with
  | some s => .wait s
  | none => (devReadNow s lz 8).bind (fun bs s => if leNat bs = r.cursor then .ok () (devWriteNow s lz (leBytes 8 0)) else .bad 0x0122 0 s)

/-- The report of R199. -/
def loupeReport (r : LoupeRun) : List Byte :=
  leBytes 4 (if lcOP r.block = 3 then r.nrec else lcNIDX r.block) ++ leBytes 4 r.rows.length ++ leBytes 4 r.bursts ++ leBytes 4 r.remTx
    ++ leBytes 8 r.remBytes ++ leBytes 8 r.ticks

/-- The report is written and the call ends. -/
def loupeFinish (s : State) (n : Nat) (r : LoupeRun) : State :=
  let rep := lcREPCVA r.block
  match (if rep = 0 then (.ok () s : Acc Unit) else cvaWrite s ⟨whoLoupe n, r.call.ctx⟩ rep (loupeReport r) false) with
  | .wait s => s
  | .bad code a s => loupeBad s n r false code a (ownId s)
  | .ok _ s => endCall (endHost (setRun s n none) (whoLoupe n)) r.call.caller r.call.uid

/-- The second stage of a ROWUPDATE, then the end. -/
def loupeSwap (s : State) (n : Nat) (r : LoupeRun) : State :=
  if lcOP r.block = 3 ∧ r.stage < 2 then
    match swapCursor s r with
    | .wait s => s
    | .bad code a s => loupeBad s n r false code a (ownId s)
    | .ok _ s => let r := { r with stage := 2 }; loupeFinish (setRun s n (some r)) n r
  else loupeFinish s n r

/-- The rows of a MODE 1 call go to the fixers, once their queue has a place and no earlier call waits for it (R217, R231). -/
def handRows (s : State) (n : Nat) (r : LoupeRun) : State :=
  if fixPlace s r.fixAt = false then
    (if r.fixAt = 0 then nextUid (setRun s n (some { r with fixAt := callUid s })) else s)
  else
    let c : FixCall := ⟨callUid s, r.call.caller, r.call.ctx, 0, false, some n⟩
    nextUid (setRun { s with fixers := { s.fixers with queue := s.fixers.queue ++ [c] } } n (some { r with fixPart := 2 }))

/-- LOUPE_CALL_COMPLETE (R193 to R199). -/
def unitLoupeCallComplete (n : Nat) (err : HwErr) (s : State) : State :=
  match (loupeOf s n).run with
  | none => s
  | some r =>
    if n ≥ 16 ∨ unitUp s 4 n (n / 2) = false ∨ r.tags ≠ [] then s
    else if leftToIssue s r then putIssued s n r (issueAllOf n s r)
    else if r.fixPart = 1 then handRows s n r
    else if r.fixPart = 2 then s
    else if r.stage ≠ 0 then loupeSwap s n r
    else match loupeEffect s n r with
      | .wait s => s
      | .bad code a s => loupeBad s n r false code a (ownId s)
      | .ok k t =>
        match endCheck r err with
        | some (par, i, j) => lpeCheck s n r par i j
        | none => let r := { r with stage := 1, bursts := r.bursts + k }; loupeSwap (setRun t n (some r)) n r

end Sys2Proof.Machine
end

