-- ==== Sys2Proof/Machine/Stacker.lean ====
section
/-! DEFINITION. The stackers and collectives (R270 to R286). -/

namespace Sys2Proof.Machine

/-! Group entries (R270). -/

/-- Group 0 is this package alone: the root of one tree, with no child. -/
def groupOf_ (s : State) (g : Nat) : BitVec 512 :=
  if g = 0 then BitVec.ofNat 512 (1 + 2 + 2 ^ 128) else tget (0 : BitVec 512) s.pod.groups g

def geV (e : BitVec 512) : Bool := bit e 0
def geTrees (e : BitVec 512) : Nat := bits e 15 14 + 1
def geRoot (e : BitVec 512) (t : Nat) : Bool := bit e (128 + 96 * t)
def geParent (e : BitVec 512) (t : Nat) : Nat := bits e (140 + 96 * t) (129 + 96 * t)
def geChildren (e : BitVec 512) (t : Nat) : List Nat :=
  (List.range (min 6 (bits e (143 + 96 * t) (141 + 96 * t)))).map (fun k => bits e (155 + 96 * t + 12 * k) (144 + 96 * t + 12 * k))

/-! A call block (R272). -/
def sbGRP (b : BitVec 512) : Nat := bits b 7 0
def sbOP (b : BitVec 512) : Nat := bits b 9 8
def sbRED (b : BitVec 512) : Nat := bits b 11 10
def sbFMT (b : BitVec 512) : Nat := bits b 15 12
def sbNARROW (b : BitVec 512) : Bool := bit b 16
def sbSCODED (b : BitVec 512) : Bool := bit b 17
def sbDCODED (b : BitVec 512) : Bool := bit b 18
def sbSCALE (b : BitVec 512) : Nat := bits b 63 32
def sbNELEM (b : BitVec 512) : Nat := bits b 93 64
def sbSRC (b : BitVec 512) : Nat := bits b 191 128
def sbSSC (b : BitVec 512) : Nat := bits b 255 192
def sbDST (b : BitVec 512) : Nat := bits b 319 256
def sbDSC (b : BitVec 512) : Nat := bits b 383 320
def sbREP (b : BitVec 512) : Nat := bits b 447 384

/-- The result's format (R272, R279). -/
def resFmt (b : BitVec 512) : Nat := if sbNARROW b then sbFMT b else 12

/-- Formats of a payload (R110, R272). -/
def stkFmt (f : Nat) : Bool := f == 12 || f == 0 || isMX f

/-- What R273 lets run. -/
def stkOk (s : State) (c : Coll) : Bool :=
  let b := c.block
  let n := sbNELEM b
  let planeOk (coded : Bool) (fmt cva : Nat) : Bool := !coded || (!(isMX fmt && decide (elemBits fmt < 8)) && cva % 4096 == 0 && n % 4096 == 0)
  c.cva % 64 == 0 && sbOP b == c.op && decide (c.op ≤ 2) && sbRED b != 3 && (c.op != 2 || sbRED b == 0) && stkFmt (sbFMT b)
    && bits b 31 19 == 0 && bits b 127 94 == 0 && bits b 511 448 == 0
    && posFinite (ofF32 (sbSCALE b)) && ((sbRED b == 0 && c.op != 2) || sbSCALE b == oneF32)
    && decide (1 ≤ n ∧ n ≤ 2 ^ 29) && (!isMX (sbFMT b) || n % 32 == 0)
    && (isMX (sbFMT b) || sbSSC b == 0) && (isMX (resFmt b) || sbDSC b == 0)
    && geV (groupOf_ s (sbGRP b))
    && planeOk (sbSCODED b) (sbFMT b) (sbSRC b) && planeOk (sbDCODED b) (resFmt b) (sbDST b)

/-! REDUCE ops (R56). -/

/-- A REDUCE op calls its collective: the group is known once its block is read. -/
def reduceEff (op : Nat) (p : ProgRef) (s : State) (q : Prog) (o : OpSlot) : Acc OpPhase :=
  let cva := callCva q o
  (callBlock s ⟨whoOp p 4, q.ctx⟩ cva).bind (fun b s =>
    let c : Coll := ⟨callUid s, .op p q.step q.sci o.idx, q.ctx, sbGRP b, op, cva, b, none, false, 0, 0, [], 0, 0, 0, 0, 0⟩
    .ok (.called (callUid s)) (nextUid (callColl s c)))

/-- ALLREDUCE (R272). -/
def execAllreduce (p : ProgRef) (s : State) : Out State := .next (runOp s p .offload .none (isOp 7 0) (whole (reduceEff 0 p)))
/-- REDUCE_TO_ROOT (R272). -/
def execReduceToRoot (p : ProgRef) (s : State) : Out State := .next (runOp s p .offload .none (isOp 7 1) (whole (reduceEff 1 p)))
/-- BROADCAST (R272). -/
def execBroadcast (p : ProgRef) (s : State) : Out State := .next (runOp s p .offload .none (isOp 7 2) (whole (reduceEff 2 p)))

/-! Collectives and frames as stored. -/

def collOf (s : State) (grp : Nat) : Option Coll := s.pod.colls.find? (fun c => c.started && c.grp == grp)
def setColl (s : State) (c : Coll) : State := { s with pod := { s.pod with colls := s.pod.colls.map (fun x => if x.uid = c.uid && x.fix.isSome == c.fix.isSome then c else x) } }
def dropColl (s : State) (c : Coll) : State :=
  { s with pod := { s.pod with
      colls := s.pod.colls.filter (fun x => !(x.uid == c.uid && x.fix.isSome == c.fix.isSome))
      frames := s.pod.frames.filter (fun f => !(c.started && f.grp == c.grp && f.cseq == c.cseq)) } }

/-- The stacker of a segment, and how many frames it has open (R275, R278). -/
def stkOf (seg : Nat) : Nat := (seg / 8) % 8
def framesAt (s : State) (d : Nat) : Nat := (s.pod.frames.filter (fun f => stkOf f.seg == d)).length
def frameOf (s : State) (c : Coll) (seg : Nat) : Option Frame := s.pod.frames.find? (fun f => f.grp == c.grp && f.cseq == c.cseq && f.seg == seg)
def setFrame (s : State) (f : Frame) : State :=
  { s with pod := { s.pod with frames := s.pod.frames.map (fun x => if x.grp = f.grp && x.cseq = f.cseq && x.seg = f.seg then f else x) } }
def dropFrame (s : State) (f : Frame) : State :=
  { s with pod := { s.pod with frames := s.pod.frames.filter (fun x => !(x.grp == f.grp && x.cseq == f.cseq && x.seg == f.seg)) } }

/-- The `k`-th segment of stacker `d`, and the place of a segment among its stacker's. -/
def segAt (d k : Nat) : Nat := k / 8 * 64 + d * 8 + k % 8
def segRank (seg : Nat) : Nat := seg / 64 * 8 + seg % 8
def segOpened (c : Coll) (seg : Nat) : Bool := decide (segRank seg < nth c.opened (stkOf seg))

/-- A segment's tree (R275) and elements. -/
def segTree (s : State) (c : Coll) (seg : Nat) : Nat := if c.op = 0 then seg % geTrees (groupOf_ s c.grp) else 0
def segElems (c : Coll) (seg : Nat) : Nat := min 512 (sbNELEM c.block - 512 * seg)
/-- Payload bytes of `n` elements (R277). -/
def payBytes (fmt n : Nat) : Nat := elemBytes fmt n + scaleBytes fmt n

/-- A collective ends in a fault found on a stacker (R273, R283, R284). -/
def failColl (s : State) (c : Coll) (seg code : Nat) (addr : Option Nat) (detail : BitVec 64) : State :=
  let d := stkOf seg
  let s := endHost (dropColl s c) (whoColl c.uid)
  let s := if c.fix.isSome then setFix s none else s
  chargeCall s c.ctx c.caller false ⟨code, 4, d, d, addr, detail⟩

/-- ARITH_CHECK of a stacker (R284): the lane `i` and segment `j`. -/
def stkCheck (s : State) (c : Coll) (j : Nat) (par : Bool) (i : Nat) : State :=
  let d := stkOf j
  let cap : BitVec 64 := BitVec.ofNat 64 (1 + 2 * b2n par + fieldAt 9 2 i + fieldAt 21 10 c.ctx + fieldAt 29 22 c.grp + fieldAt 49 30 j)
  failColl (logOnce (bump s (rSTK_CHECK_COUNT d) 31 0) (rSTK_CHECK_LOG d) cap) c j 0x0303 none (setBits cap 0 0 1)

/-! Segments on the wire (R276, R277). -/

/-- A COLLSEG of this package. -/
def collTxn (s : State) (c : Coll) (dst seg tree : Nat) (down : Bool) (fmt : Nat) (pay : List Byte) (cnt : BitVec 64) : Txn :=
  let aux := c.fix.isSome
  let hi : BitVec 64 := BitVec.ofNat 64 (fieldAt 7 0 c.grp + fieldAt 19 8 c.cseq + fieldAt 39 20 seg + fieldAt 41 40 tree + fieldAt 42 42 (b2n down)
    + fieldAt 46 43 fmt + fieldAt 48 47 (sbRED c.block) + fieldAt 49 49 (b2n aux) + fieldAt 60 50 (pay.length - 1))
  ownTxn s tCOLLSEG dst 0 hi ((if aux then leBytes 16 cnt.toNat else []) ++ padSlots pay)

def csGRP (x : Txn) : Nat := bits x.hi 7 0
def csCSEQ (x : Txn) : Nat := bits x.hi 19 8
def csSEG (x : Txn) : Nat := bits x.hi 39 20
def csTREE (x : Txn) : Nat := bits x.hi 41 40
def csDOWN (x : Txn) : Bool := bit x.hi 42
def csFMT (x : Txn) : Nat := bits x.hi 46 43
def csRED (x : Txn) : Nat := bits x.hi 48 47
def csAUX (x : Txn) : Bool := bit x.hi 49
def csLen (x : Txn) : Nat := bits x.hi 60 50 + 1
def csPay (x : Txn) : List Byte := ((if csAUX x then x.data.drop 16 else x.data).take (csLen x))
def csCnt (x : Txn) : BitVec 64 := if csAUX x then BitVec.ofNat 64 (leNat (x.data.take 8)) else 0

/-- Send a segment to some packages; the package with no way to it is the fault (R262, R290). -/
def sendSegs (c : Coll) (seg tree : Nat) (down : Bool) (fmt : Nat) (pay : List Byte) (cnt : BitVec 64) : State → List Nat → Except Nat State
  | s, [] => .ok s
  | s, d :: t => match sendOn s (collTxn s c d seg tree down fmt pay cnt) with
    | some s => sendSegs c seg tree down fmt pay cnt s t
    | none => .error d

/-- FP32 bits of a payload's elements (R105). -/
def payVals (fmt n : Nat) (pay : List Byte) : List Nat :=
  let sc := pay.drop (elemBytes fmt n)
  let es := unpack (elemBits fmt) n pay
  (es.zip (List.range n)).map (fun x => widenBits fmt x.1 ((sc.getD (x.2 / 32) 127).toNat))

/-- Combine two contributions (R278). -/
def stkRed (red : Nat) (a b : List Nat) : List Nat :=
  (a.zip b).map (fun x =>
    let u := ofF32 x.1
    let v := ofF32 x.2
    toF32 (if red = 1 then u.maxN v else if red = 2 then u.minN v else u.add v))

/-- Join a contribution to a sum that may be empty. -/
def stkJoin (red : Nat) (a b : List Nat) : List Nat := if a = [] then b else if b = [] then a else stkRed red a b

/-- Finishing a segment scales or narrows it. -/
def finishes (b : BitVec 512) : Bool := (sbRED b == 0 && sbSCALE b != oneF32) || resFmt b != 12

/-- The finished bytes of a segment at the root: elements then scales (R279). -/
def finishSeg (b : BitVec 512) (vals : List Nat) : List Byte :=
  let fmt := resFmt b
  let xs := vals.map (fun v => if sbRED b = 0 ∧ sbSCALE b ≠ oneF32 then toF32 ((ofF32 v).mul (ofF32 (sbSCALE b))) else v)
  if fmt = 12 then xs.flatMap (leBytes 4)
  else
    let n := xs.length
    let out : List (Option LaneOut) := xs.map (fun v => some (.val (ofF32 v)))
    let vs := (List.range ((n + 63) / 64)).map (fun j =>
      let k := min 64 (n - 64 * j)
      let y := fxPlane fmt .rne (fun _ => 0) ((out.drop (64 * j)).take k)
      ((y.1.take k).map (fun o => o.getD 0), y.2.take ((k + 31) / 32)))
    pack (elemBits fmt) (vs.flatMap (·.1)) ++ (if isMX fmt then (vs.flatMap (·.2)).map (BitVec.ofNat 8) else [])

/-! A result on this package (R279, R281, R282). -/

/-- Blocks of a coded destination whose segments are now all final are given their codes. -/
def sealSegs (s : State) (c : Coll) (seg : Nat) : Acc Unit :=
  let b := c.block
  if !sbDCODED b then .ok () s
  else
    let bytes := elemBytes (resFmt b) 512
    let per := 4096 / bytes
    let k := seg / per
    if (List.range per).all (fun i => c.got.testBit (k * per + i)) then
      (segsOf s c.ctx (sbDST b + 4096 * k) 4096 true true).bind (fun gs s => .ok () (sealBlocks s (segBlocks gs)))
    else .ok () s

/-- Write a segment's result at its destination. -/
def writeSeg (s : State) (c : Coll) (seg : Nat) (pay : List Byte) : Acc Unit :=
  let b := c.block
  let fmt := resFmt b
  let n := segElems c seg
  (segsOf s c.ctx (sbDST b + elemBytes fmt (512 * seg)) (elemBytes fmt n) true (sbDCODED b)).bind (fun gs s =>
    (segsOf s c.ctx (sbDSC b + 16 * seg) (scaleBytes fmt n) true false).bind (fun gx s =>
      (segsWrite s ⟨whoColl c.uid, c.ctx⟩ (gs ++ gx) pay)))

/-- A segment has its result here: written, or taken by the fixers; then sent on to the children (R279). -/
def takeResult (s : State) (c : Coll) (seg : Nat) (pay : List Byte) (cnt : BitVec 64) : Acc (Except Nat Unit) :=
  let w : Acc Unit := if c.fix.isSome then .ok () s else writeSeg s c seg pay
  w.bind (fun _ s =>
    let tree := segTree s c seg
    let kids := geChildren (groupOf_ s c.grp) tree
    let down := c.op != 1
    match (if down then sendSegs c seg tree true (resFmt c.block) pay cnt s kids else .ok s) with
    | .error d => .ok (.error d) s
    | .ok s =>
      let c := { c with got := c.got ||| 2 ^ seg, bytesOut := c.bytesOut + (if down then kids.length * pay.length else 0) }
      let s := setColl s c
      if c.fix.isSome then .ok (.ok ()) (decideUpdate (dropColl s c) (BitVec.ofNat 32 (leNat (pay.take 4))) cnt)
      else (sealSegs s c seg).bind (fun _ s => .ok (.ok ()) s))

/-- A frame has every contribution: the root finishes it, another member sends its partial to its parent (R279). -/
def closeFrame (s : State) (c : Coll) (f : Frame) : Acc (Except Nat Unit) :=
  let e := groupOf_ s c.grp
  let vals := stkJoin (sbRED c.block) f.acc f.own
  if geRoot e f.tree then
    (takeResult s c f.seg (finishSeg c.block vals) f.cnt).bind (fun r s => .ok r (dropFrame s f))
  else
    match sendSegs c f.seg f.tree false 12 (vals.flatMap (leBytes 4)) f.cnt s [geParent e f.tree] with
    | .error d => .ok (.error d) s
    | .ok s => .ok (.ok ()) (dropFrame (setColl s { c with sentN := c.sentN + 1, bytesOut := c.bytesOut + 4 * vals.length }) f)

/-! Opening segments (R275, R278). -/

/-- This package's own contribution to a segment: its bytes in FMT, and the count. -/
def ownSeg (s : State) (c : Coll) (seg : Nat) : Acc (List Byte × BitVec 64) :=
  match c.fix with
  | some (v, n) => .ok (leBytes 4 v.toNat, n) s
  | none =>
    let b := c.block
    let fmt := sbFMT b
    let n := segElems c seg
    (cvaRead s ⟨whoColl c.uid, c.ctx⟩ (sbSRC b + elemBytes fmt (512 * seg)) (elemBytes fmt n) (sbSCODED b)).bind (fun e s =>
      (cvaRead s ⟨whoColl c.uid, c.ctx⟩ (sbSSC b + 16 * seg) (scaleBytes fmt n) false).bind (fun x s => .ok (e ++ x, 0) s))

/-- Note that a stacker's next segment is opened. -/
def noteOpen (c : Coll) (d : Nat) : Coll := { c with opened := c.opened.set d (nth c.opened d + 1) }

/-- Open one segment: a leaf sends its contribution unchanged; a member with children opens a frame; the root of a BROADCAST
makes the result of its source. -/
def openSeg (s : State) (c : Coll) (seg : Nat) : Acc (Except Nat Unit) :=
  let e := groupOf_ s c.grp
  let t := segTree s c seg
  let kids := geChildren e t
  let c' := noteOpen c (stkOf seg)
  if c.op = 2 ∧ geRoot e t = false then .ok (.ok ()) (setColl s c')
  else
    (ownSeg s c seg).bind (fun x s =>
      let vals := payVals (sbFMT c.block) (segElems c seg) x.1
      if c.op = 2 ∨ (kids = [] ∧ geRoot e t = true) then takeResult s c' seg (finishSeg c.block vals) x.2
      else if kids = [] then
        match sendSegs c seg t false (sbFMT c.block) x.1 x.2 s [geParent e t] with
        | .error d => .ok (.error d) s
        | .ok s => .ok (.ok ()) (setColl s { c' with sentN := c'.sentN + 1, bytesOut := c'.bytesOut + x.1.length })
      else
        let at_ := (freeWord s).toNat % (kids.length + 1)
        let f : Frame := ⟨c.grp, c.cseq, seg, t, kids, [], vals, at_, 0, x.2⟩
        let s := setColl (useFree s 1) c'
        .ok (.ok ()) { s with pod := { s.pod with frames := s.pod.frames ++ [f] } })

/-- Opening a segment makes its result here, through the scale multiplier or the narrowing paths. -/
def opensThrough (s : State) (c : Coll) (seg : Nat) : Bool :=
  let e := groupOf_ s c.grp
  let root := geRoot e (segTree s c seg)
  root && finishes c.block && (c.op == 2 || (geChildren e (segTree s c seg)).isEmpty)

/-- A mismatch in lane `i` that a segment's arithmetic meets (R284). -/
def laneCheck (err : HwErr) (adds : Bool) (seg : Nat) : Option (Bool × Nat) :=
  match err with
  | .check par i j => if adds && j == seg then some (par, i) else none
  | _ => none

/-- Why opening stopped. -/
inductive Opened where
  | ok (s : State)
  | check (s : State) (c : Coll) (seg : Nat) (par : Bool) (lane : Nat)
  | fault (s : State) (c : Coll) (seg code addr : Nat)
  | noWay (s : State) (c : Coll) (seg dst : Nat)

/-- Open the segments of one stacker while it has a free frame. -/
def openOn (err : HwErr) (grp d : Nat) : Nat → State → Opened
  | 0, s => .ok s
  | f + 1, s =>
    match collOf s grp with
    | none => .ok s
    | some c =>
      let seg := segAt d (nth c.opened d)
      if c.nseg ≤ seg ∨ 256 ≤ framesAt s d then .ok s
      else match openSeg s c seg with
        | .wait s => .ok s
        | .bad code a s => .fault s c seg code a
        | .ok (.error dst) s => .noWay s c seg dst
        | .ok (.ok _) t =>
          match laneCheck err (opensThrough s c seg) seg with
          | some (par, i) => .check s c seg par i
          | none => openOn err grp d f t

/-- Open what can be opened on every stacker. -/
def openAll (err : HwErr) (grp : Nat) : State → List Nat → Opened
  | s, [] => .ok s
  | s, d :: t =>
    match collOf s grp with
    | none => .ok s
    | some c => match openOn err grp d (c.nseg + 1) s with
      | .ok s => openAll err grp s t
      | x => x

/-- A collective's fault as opening or a result met it. -/
def collFault (s : State) (c : Coll) (seg code addr : Nat) : State := failColl s c seg code (accAddr code addr) (accDetail s code addr)

/-- Open segments of a group's collective, and end it where that meets a fault. -/
def advanceColl (err : HwErr) (s : State) (grp : Nat) : State :=
  match openAll err grp s (List.range 8) with
  | .ok s => s
  | .check s c seg par i => stkCheck s c seg par i
  | .fault s c seg code a => collFault s c seg code a
  | .noWay s c seg dst => collFault s c seg 0x0403 dst

/-- An error in what several contexts share is charged to all of them (R25); any other finding leaves the stacker to its work. -/
def orShared (err : HwErr) (s : State) (f : State → State) : State := match err with | .shared d => sharedError s d | _ => f s

/-- COLLECTIVE_START (R273, R274): the oldest call of a group that runs none. -/
def unitCollectiveStart (grp : Nat) (err : HwErr) (s : State) : State :=
  if !(serving s && awake s) || (collOf s grp).isSome then s
  else match s.pod.colls.find? (fun c => c.grp == grp) with
    | none => s
    | some c =>
      if c.fix.isNone && !stkOk s c then chargeCall (dropColl s c) c.ctx c.caller true ⟨0x0124, 4, 0, 0, none, 0⟩
      else
        let c := { c with started := true, nseg := (sbNELEM c.block + 511) / 512, opened := List.replicate 8 0 }
        orShared err (setColl s c) (fun s => advanceColl err s grp)

/-! Arrivals (R278, R279, R283). -/

/-- What an arriving segment is. -/
inductive Verdict where
  | late | mismatch | hold | up (c : Coll) (f : Frame) | down (c : Coll)

/-- Check a segment (R283). -/
def verdict (s : State) (x : Txn) : Verdict :=
  let e := groupOf_ s (csGRP x)
  let t := csTREE x
  let seg := csSEG x
  let named := if csDOWN x then !geRoot e t && geParent e t == x.src else (geChildren e t).contains x.src
  if !geV e || decide (geTrees e ≤ t) || !named then .late
  else
    let cur := match s.pod.colls.find? (fun c => c.grp == csGRP x) with | some c => c.cseq | none => tget 0 s.pod.cseqs (csGRP x)
    let behind := (cur + 4096 - csCSEQ x) % 4096
    if 1 ≤ behind ∧ behind ≤ 2048 then .late
    else match collOf s (csGRP x) with
      | none => .hold
      | some c =>
        if behind ≠ 0 then .hold
        else
          let n := segElems c seg
          let common := csRED x == sbRED c.block && csAUX x == c.fix.isSome && decide (seg < c.nseg)
          if csDOWN x then
            if c.op = 1 ∨ c.got.testBit seg = true ∨ (seg < c.nseg ∧ t ≠ segTree s c seg) then .late
            else if common && csFMT x == resFmt c.block && csLen x == payBytes (resFmt c.block) n then .down c else .mismatch
          else
            if c.op = 2 ∨ (seg < c.nseg ∧ t ≠ segTree s c seg) then .late
            else match frameOf s c seg with
              | none => if decide (seg < c.nseg) && !segOpened c seg then .hold else if seg < c.nseg then .late else .mismatch
              | some f =>
                if !f.need.contains x.src then .late
                else if common && ((csFMT x == sbFMT c.block && csLen x == payBytes (sbFMT c.block) n) || (csFMT x == 12 && csLen x == 4 * n))
                then .up c f else .mismatch

/-- Hold a segment in its COLL buffer: its slots stay taken (R278). -/
def holdSeg (s : State) (src : Option Nat) (x : Txn) : State := { s with pod := { s.pod with waiting := s.pod.waiting ++ [(src, x)] } }

/-- A child's contribution joins its frame in the order of arrival. -/
def joinUp (c : Coll) (f : Frame) (x : Txn) : Frame :=
  let red := sbRED c.block
  let vals := payVals (csFMT x) (segElems c f.seg) (csPay x)
  let f := if f.own ≠ [] ∧ f.ownAt = f.seen then { f with acc := stkJoin red f.acc f.own, own := [] } else f
  { f with acc := stkJoin red f.acc vals, need := f.need.filter (· != x.src), seen := f.seen + 1, cnt := f.cnt + csCnt x }

/-- A contribution that joins its frame goes through the adders, or the last one's result through the scale multiplier or the narrowing paths. -/
def joinAdds (s : State) (c : Coll) (f : Frame) (x : Txn) : Bool :=
  let g := joinUp c f x
  !f.acc.isEmpty || (!f.own.isEmpty && (g.own.isEmpty || g.need.isEmpty)) || (g.need.isEmpty && geRoot (groupOf_ s c.grp) f.tree && finishes c.block)

/-- A segment is served, or must be held with what was asked for. -/
inductive Served where
  | done (s : State)
  | hold (s : State)

/-- What an access has asked the homes and the host for, kept while the rest of its command is not made. -/
def keepAsks (s w : State) : State := { s with coh := w.coh, cxl := w.cxl, out := w.out }

/-- Serve a segment. A mismatch in its arithmetic is raised once the segment's accesses can be made: its value is neither written nor
sent (R284). -/
def serveSeg (err : HwErr) (s : State) (x : Txn) : Served :=
  let d := stkOf (csSEG x)
  match verdict s x with
  | .hold => .hold s
  | .late => .done (bump s (rSTK_STATE d) 37 22)
  | .mismatch =>
    let s := bump s (rSTK_STATE d) 53 38
    match collOf s (csGRP x) with
    | some c => .done (failColl s c (csSEG x) 0x0406 (some x.src) (regVal s (rSTK_STATE d)))
    | none => .done s
  | .up c f =>
    let c := { c with bytesIn := c.bytesIn + csLen x }
    let checked (done : State) : Served := .done (match laneCheck err (joinAdds s c f x) f.seg with | some (par, i) => stkCheck s c f.seg par i | none => done)
    let f := joinUp c f x
    if f.need ≠ [] then checked (setFrame (setColl s c) f)
    else match closeFrame (setFrame (setColl s c) f) c f with
      | .wait w => .hold w
      | .bad code a s => checked (collFault s c f.seg code a)
      | .ok (.error dst) s => checked (collFault s c f.seg 0x0403 dst)
      | .ok (.ok _) s => checked (advanceColl err s c.grp)
  | .down c =>
    let c := { c with bytesIn := c.bytesIn + csLen x }
    match takeResult s c (csSEG x) (csPay x) (csCnt x) with
    | .wait w => .hold w
    | .bad code a s => .done (collFault s c (csSEG x) code a)
    | .ok (.error dst) s => .done (collFault s c (csSEG x) 0x0403 dst)
    | .ok (.ok _) s => .done s

/-- Take a segment out of its receive buffer, its slots still held. -/
def takeHeld (s : State) (src : Option Nat) : State :=
  match src with
  | none => match takeFrom tCOLLSEG s.pod.loopq [] with
    | some r => { s with pod := { s.pod with loopq := r.2 } }
    | none => s
  | some n => match takeFrom tCOLLSEG (portOf s n).rxq [] with
    | some r => setPort s n { portOf s n with rxq := r.2 }
    | none => s

/-- COLLSEG (R278, R279, R283). -/
def unitCollseg (src : Option Nat) (err : HwErr) (s : State) : State :=
  match arrive s src tCOLLSEG with
  | .none => s
  | .drop s => s
  | .ok x s1 =>
    orShared err s1 (fun s1 => match serveSeg err s1 x with
      | .done s => s
      | .hold w => holdSeg (takeHeld (keepAsks s w) src) src x)

/-- COLLSEG_ACCEPT (R278): the `n`-th held segment is served, once its collective is called, a frame is free and its lines are. -/
def unitCollsegAccept (n : Nat) (err : HwErr) (s : State) : State :=
  match s.pod.waiting[n]? with
  | none => s
  | some (src, x) =>
    let s1 := { s with pod := { s.pod with waiting := s.pod.waiting.eraseIdx n } }
    let s1 := match src with | some p => freeSlots s1 p x | none => s1
    orShared err s1 (fun s1 => match serveSeg err s1 x with
      | .done s => s
      | .hold w => keepAsks s w)

/-! Completion (R285). -/

/-- Upward segments of a collective still in a port's queue. -/
def segsQueued (s : State) (c : Coll) : Bool :=
  s.ports.any (fun e => e.2.txq.any (fun t => t.2.ttype == tCOLLSEG && t.2.src == ownId s && csGRP t.2 == c.grp && csCSEQ t.2 == c.cseq && !csDOWN t.2))

/-- What completes a collective on this member. -/
def collDone (s : State) (c : Coll) : Bool :=
  if c.op = 1 ∧ geRoot (groupOf_ s c.grp) 0 = false then c.sentN == c.nseg && !segsQueued s c
  else (List.range c.nseg).all c.got.testBit

/-- The report of R285. -/
def collReport (c : Coll) : List Byte := leBytes 8 c.nseg ++ leBytes 8 c.bytesOut ++ leBytes 8 c.bytesIn ++ leBytes 8 c.ticks

/-- COLLECTIVE_COMPLETE (R285): segments go on where one had to wait; then the report, and the end of the call. -/
def unitCollectiveComplete (grp : Nat) (err : HwErr) (s : State) : State :=
  if !serving s then s
  else orShared err s (fun s =>
    let s := advanceColl err s grp
    match collOf s grp with
    | none => s
    | some c =>
      if !collDone s c then s
      else
        let rep := sbREP c.block
        match (if rep = 0 then (.ok () s : Acc Unit) else cvaWrite s ⟨whoColl c.uid, c.ctx⟩ rep (collReport c) false) with
        | .wait s => s
        | .bad code a s => collFault s c 0 code a
        | .ok _ s => endCall (endHost (dropColl s c) (whoColl c.uid)) c.caller c.uid)

/-! The group window (R271, R300). -/

def rGrpData (n : Nat) : Nat := rSTK_GRP_DATA0 + 8 * n

/-- STK_GRP_READ. -/
def execStkGrpRead (grp : BitVec 8) (s : State) : Out State :=
  if !pageOpen s rSTK_GRP_CTRL then .next s
  else
    let s := wakeBy false s
    let e := if grp = 0 then (0 : BitVec 512) else tget 0 s.pod.groups grp.toNat
    .next ((List.range 8).foldl (fun s n => setReg s (rGrpData n) (BitVec.ofNat 64 (bits e (64 * n + 63) (64 * n))))
      (setField s rSTK_GRP_CTRL 7 0 grp.toNat))

/-- Write a group's entry; its collectives start again from sequence 0. -/
def writeGroup (s : State) (grp : Nat) (e : BitVec 512) : State :=
  { s with pod := { s.pod with groups := tset 0 s.pod.groups grp e, cseqs := tdel s.pod.cseqs grp } }

/-- STK_GRP_WRITE (R271). -/
def execStkGrpWrite (grp : BitVec 8) (s : State) : Out State :=
  if !pageOpen s rSTK_GRP_CTRL then .next s
  else
    let s := wakeBy false s
    let s := setField s rSTK_GRP_CTRL 7 0 grp.toNat
    let refused := grp == 0 || s.rst.strict || s.pod.colls.any (fun c => c.grp == grp.toNat)
    let e : BitVec 512 := BitVec.ofNat 512 ((List.range 8).foldr (fun n a => (regVal s (rGrpData n)).toNat + a * 2 ^ 64) 0)
    let s := setField s rSTK_GRP_CTRL 10 10 (b2n refused)
    .next (if refused then s else writeGroup s grp.toNat e)

end Sys2Proof.Machine
end

