-- ==== Sys2Proof/Machine/Replies.lean ====
section
/-! DEFINITION. Replies to remote requests and the end of the wait for them (R147, R152, R255, R258). -/

namespace Sys2Proof.Machine

/-- A request has its answer: it is outstanding no more. -/
def closeReq (s : State) (r : RemReq) : State := { s with pod := { s.pod with reqs := s.pod.reqs.filter (fun x => x.tag != r.tag) } }

/-- The code a reply's STATUS makes its requester raise (R255), 0 for none. -/
def statusCode (st : Nat) : Nat := if st = 0 then 0 else if st = 3 then 0x0304 else 0x0404

/-- ADDR of a remote request's fault: the package for class 0x04, the line for HBM_POISON (R489). -/
def reqAddr (r : RemReq) (code : Nat) : Nat := if code = 0x0304 then r.ppa else r.dst

/-- The copy op that a request belongs to, still issuing or waiting for its answers. -/
def copyOp (q : Prog) (ch : Bool) (idx : Nat) : Option OpSlot :=
  let g := engOf q (if ch then .copy1 else .copy0)
  ((g.queue.take 1).filter (·.held) ++ g.run).find? (fun o => o.idx == idx && (match o.phase with | .remote _ => true | ph => ph == .queued))

/-- One remote transaction of a copy op ends, with a fault of its op where `code` is not 0. -/
def copyEnd (s : State) (p : ProgRef) (ch : Bool) (idx code addr : Nat) : State :=
  let s := copyReplied s p ch
  let s := match progOf s p with
    | some q => if code = 0 then s else chargeOp s p q idx code (accAddr code addr)
    | none => s
  settleStopped s

/-- The bytes of a read reply reach the scratchpad, each whole block against its edge code first (R152, R256). -/
def rreadReply (s : State) (r : RemReq) (x : Txn) (p : ProgRef) (ch : Bool) (idx pos skip want : Nat) : State :=
  let code := statusCode (rpSTATUS x)
  if code ≠ 0 then copyEnd s p ch idx code (reqAddr r code)
  else match progOf s p with
    | none => s
    | some q =>
      let bs := x.data.take r.len
      if r.coded && crc32c bs != rpECODE x then
        let s := copyReplied s p ch
        settleStopped (edgeFault s p q (if ch then .copy1 else .copy0) idx r.ppa (some r.dst))
      else
        let s := match copyOp q ch idx with
          | some o => spPut s p (runsAt (runsOf (cpDst q o)) pos want) ((bs.drop skip).take want)
          | none => s
        copyEnd s p ch idx 0 0

/-- A loupe's running call, with one tag fewer. -/
def loupeTagged (s : State) (n tag : Nat) : Option LoupeRun :=
  match (loupeOf s n).run with
  | some l => if l.tags.contains tag then some { l with tags := l.tags.filter (· != tag) } else none
  | none => none

/-- A loupe's read is answered. -/
def loupeReadReply (s : State) (r : RemReq) (x : Txn) (n : Nat) : State :=
  match loupeTagged s n r.tag with
  | none => s
  | some l =>
    let code := statusCode (rpSTATUS x)
    let bs := x.data.take r.len
    if code ≠ 0 then loupeBad s n l false code (reqAddr r code) r.dst
    else if r.coded && crc32c bs != rpECODE x then loupeBad s n l false 0x0302 r.ppa r.dst
    else
      let l := { l with data := putBytes l.data (dataKey r.dst r.ppa) bs }
      putIssued s n l (issueAllOf n s l)

/-- A loupe's record write is answered. -/
def loupeWriteReply (s : State) (r : RemReq) (x : Txn) (n : Nat) : State :=
  match loupeTagged s n r.tag with
  | none => s
  | some l =>
    let code := statusCode (rpSTATUS x)
    if code ≠ 0 then loupeBad s n l false code (reqAddr r code) r.dst else putIssued s n l (issueAllOf n s l)

/-- The earlier CURSOR (`atomic`) or the LIMIT of a group's landing zone. -/
def loupeCursorReply (s : State) (r : RemReq) (x : Txn) (n pkg : Nat) (atomic : Bool) : State :=
  match loupeTagged s n r.tag with
  | none => s
  | some l =>
    let code := statusCode (rpSTATUS x)
    if code ≠ 0 then loupeBad s n l false code (reqAddr r code) r.dst
    else
      let v := leNat (x.data.take 8)
      let l := { l with groups := l.groups.map (fun g => if g.pkg = pkg then (if atomic then { g with cur := some v } else { g with lim := some v }) else g) }
      match l.groups.find? (fun g => g.pkg == pkg) with
      | some g => groupReady s n l g
      | none => setRun s n (some l)

/-- The doorbell of a SIGNAL is answered: a refusal refuses its descriptor alone, since it changed nothing (R255, R487). -/
def dbellReply (s : State) (r : RemReq) (x : Txn) (ring : Nat) : State :=
  let code := statusCode (rpSTATUS x)
  if code = 0 then report s ring (Report.status_ 0)
  else chargeCall s r.ctx (.desc ring) true ⟨code, 7, 0, 8, accAddr code (reqAddr r code), 0⟩

/-- A reply reaches what waits for it. -/
def deliverReply (s : State) (r : RemReq) (x : Txn) : State :=
  match r.why with
  | .rread p ch idx pos skip want => rreadReply s r x p ch idx pos skip want
  | .rwrite p ch idx => let code := statusCode (rpSTATUS x); copyEnd s p ch idx code (reqAddr r code)
  | .loupeRead n _ => loupeReadReply s r x n
  | .loupeWrite n => loupeWriteReply s r x n
  | .loupeCursor n pkg => loupeCursorReply s r x n pkg (x.ttype == tATRSP)
  | .dbell ring => dbellReply s r x ring
  | .void => s

/-- An arriving reply: one that names no outstanding request is dropped and counted (R258). -/
def reply (t : Nat) (src : Option Nat) (s : State) : State :=
  match arrive s src t with
  | .none => s
  | .drop s => s
  | .ok x s =>
    match s.pod.reqs.find? (fun r => r.tag == x.tag && r.dst == x.src) with
    | none => countDrop s src 47 32
    | some r => deliverReply (closeReq s r) r x

/-- RDRSP (R255, R256). -/
def execRdrsp (src : Option Nat) (s : State) : Out State := .next (reply tRDRSP src s)
/-- WRACK (R255). -/
def execWrack (src : Option Nat) (s : State) : Out State := .next (reply tWRACK src s)
/-- ATRSP (R255). -/
def execAtrsp (src : Option Nat) (s : State) : Out State := .next (reply tATRSP src s)

/-- A request to this package itself whose line waits for an answer of the host while the link is out of L0: its wait does not count (R407). -/
def hostStalls (s : State) (r : RemReq) : Bool :=
  r.dst == ownId s && s.cxl.link != .l0 && (linesOf r.ppa r.len).any (fun l =>
    match (homeLine s l).active with | some a => a.wait.contains .host | none => false)

/-- REQ_TIMEOUT (R258): the request is abandoned, its tag rests, and PRT_TIMEOUT is raised for what issued it. -/
def execReqTimeout (tag : Nat) (s : State) : Out State :=
  match s.pod.reqs.find? (fun r => r.tag == tag) with
  | none => .next s
  | some r =>
    if hostStalls s r then .next s
    else
    let s := restTag (closeReq s r) tag
    .next (match r.why with
      | .rread p ch idx _ _ _ => copyEnd s p ch idx 0x0405 r.dst
      | .rwrite p ch idx => copyEnd s p ch idx 0x0405 r.dst
      | .loupeRead n _ => (match (loupeOf s n).run with | some l => loupeBad s n l false 0x0405 r.dst r.dst | none => s)
      | .loupeWrite n => (match (loupeOf s n).run with | some l => loupeBad s n l false 0x0405 r.dst r.dst | none => s)
      | .loupeCursor n _ => (match (loupeOf s n).run with | some l => loupeBad s n l false 0x0405 r.dst r.dst | none => s)
      | .dbell ring => chargeCall s r.ctx (.desc ring) false ⟨0x0405, 7, 0, 8, some r.dst, 0⟩
      | .void => s)

end Sys2Proof.Machine
end

