-- ==== Sys2Proof/Machine/Negative.lean ====
section
/-! DEFINITION. The option negative (R442 to R448): images and their records, option load, the counter log, and the key functions of 19
they are checked with (R467, R470, R474, R477 to R479). -/

namespace Sys2Proof.Machine

/-! Keys and tags. -/

/-- Bytes of an ASCII customisation string, by character codes. -/
def ascii (l : List Nat) : List Byte := l.map (BitVec.ofNat 8 ·)
/-- "ZUMARTH-" and the customisation strings of R334, R443, R448, R474 and R479. -/
def csBase : List Byte := ascii [0x5A, 0x55, 0x4D, 0x41, 0x52, 0x54, 0x48, 0x2D]
def csAuth : List Byte := csBase ++ ascii [0x41, 0x55, 0x54, 0x48]
def csNeg : List Byte := csBase ++ ascii [0x4E, 0x45, 0x47]
def csCtr : List Byte := csBase ++ ascii [0x43, 0x54, 0x52]
def csOwn : List Byte := csBase ++ ascii [0x4F, 0x57, 0x4E]
def csRot : List Byte := csBase ++ ascii [0x52, 0x4F, 0x54]
def csId : List Byte := csBase ++ ascii [0x49, 0x44]

/-- KMAC256 of `bytes` bytes under a key with a customisation string. -/
def kmac (key cs msg : List Byte) (bytes : Nat) : List Byte := leBytes bytes (Config.kmac256 key cs msg bytes)

/-- SHA3-256 of the identity public key (R467). -/
def identityHash : List Byte := Config.sha3 (leBytes 1312 (Config.identityKey (leNat (kmac (leBytes 32 Config.deviceSeed) csId [] 32))))

/-- The package has a command key (R477). -/
def owned (s : State) : Bool := s.flash.current.isSome

/-- Keys that count for a tag: CURRENT, and PREVIOUS while present (R479). -/
def liveKeys (s : State) : List (List Byte) := s.flash.current.toList ++ s.flash.previous.toList

/-! The counter log (R448). -/

/-- A record of the log: the counter, eight bytes of zero, and a tag under a command key. -/
def ctrRecord (key : List Byte) (c : Nat) : List Byte :=
  let h := leBytes 8 c ++ List.replicate 8 0
  h ++ kmac key csCtr h 16

/-- A record's tag is that of one of some keys. -/
def ctrVerifies (keys : List (List Byte)) (r : List Byte) : Bool := keys.any (fun k => kmac k csCtr (r.take 16) 16 == r.drop 16)

/-- The last accepted AUTH counter: the greatest of the records that verify, all ones where a key is installed and none does, and 0 on an
unowned package. -/
def lastCounter (s : State) : Nat :=
  if !owned s then 0
  else match (s.flash.logA ++ s.flash.logB).filter (ctrVerifies (liveKeys s)) with
    | [] => 2 ^ 64 - 1
    | l => (l.map (fun r => leNat (r.take 8))).foldl max 0

/-- Append a record to the half in use. A full half leaves the log to the other one, which takes the newest record before the full one is
erased. -/
def appendCtr (f : Flash) (r : List Byte) : Flash :=
  if f.logHalf then (if f.logB.length < 1024 then { f with logB := f.logB ++ [r] } else { f with logA := [r], logB := [], logHalf := false })
  else (if f.logA.length < 1024 then { f with logA := f.logA ++ [r] } else { f with logB := [r], logA := [], logHalf := true })

/-- Owner commitment of R474: zero if unowned. -/
def ownerMark (s : State) : List Byte :=
  match s.flash.current with | some k => kmac k csOwn [] 32 | none => List.replicate 32 0

/-! Measurement log (R474): entry `k` is held as its EXTRA and DIGEST. -/

def logEntry (k : Nat) (extra : Nat) (digest : List Byte) : List Byte :=
  [BitVec.ofNat 8 k] ++ List.replicate 7 0 ++ leBytes 8 extra ++ digest

def zeros (n : Nat) : List Byte := List.replicate n 0

/-- The firmware slots that booted. -/
def mcSlot (s : State) : FwSlot := if s.flash.mcBooted then s.flash.mcB else s.flash.mcA
def sSlot (s : State) : FwSlot := if s.flash.sBooted then s.flash.sB else s.flash.sA

/-- The log as it stands: entries 3 and 4 keep their digests in the state, the others follow from it. -/
def measures (s : State) : List (List Byte) :=
  [ logEntry 0 0 Config.romDigest,
    logEntry 1 (mcSlot s).version.toNat (mcSlot s).digest,
    logEntry 2 (sSlot s).version.toNat (sSlot s).digest,
    logEntry 3 s.rst.generation.toNat (s.sec.mlog.getD 0 (zeros 32)),
    logEntry 4 s.sec.loads (s.sec.mlog.getD 1 (zeros 32)),
    logEntry 5 (s.sec.scope.toNat + 256 * b2n s.sec.vendor) (zeros 32),
    logEntry 6 s.sec.rotations (ownerMark s),
    logEntry 7 (b2n s.rst.strict + 2 * b2n (s.rst.opten || s.csw.authen)) (zeros 32),
    logEntry 8 (s.fuses.revoked.toNat + 256 * s.fuses.svnMc + 65536 * s.fuses.svnS) (zeros 32) ]

def setMlog (s : State) (k : Nat) (d : List Byte) : State :=
  let l := [s.sec.mlog.getD 0 (zeros 32), s.sec.mlog.getD 1 (zeros 32)]
  { s with sec := { s.sec with mlog := l.set k d } }

/-! Firmware images at boot (R470, R471). -/

/-- First condition of R470 that an image fails, 1 to 4; 0 where it verifies. An image held as not right fails the first
(log entry 6). -/
def fwFails (s : State) (svnMin : Nat) (f : FwSlot) : Nat :=
  if !f.ok then 1 else if bit s.fuses.revoked f.keySlot then 2 else if f.svn < svnMin then 3 else 0

/-- Count a security failure, and log the first (R483). -/
def secFail (s : State) (what slot step : Nat) : State :=
  let v := regVal s rSEC_FAIL
  let n := min 65535 (bits v 23 8 + 1)
  if bit v 0 then setReg s rSEC_FAIL (setBits v 23 8 n)
  else setReg s rSEC_FAIL (BitVec.ofNat 64 (1 + fieldAt 2 1 what + fieldAt 3 3 slot + fieldAt 7 4 step + fieldAt 23 8 n))

/-- The slot that boots: the one that verifies, of two the greater VERSION, slot A on a tie (R471); `true` for B. -/
def bootSlot (s : State) (svnMin : Nat) (a b : FwSlot) : Option Bool :=
  let oa := fwFails s svnMin a == 0
  let ob := fwFails s svnMin b == 0
  if oa && ob then some (decide (a.version.toNat < b.version.toNat)) else if oa then some false else if ob then some true else none

/-! Records (R445). -/

/-- A record: TYPE, LEN and value bytes. -/
structure Rec where
  ty  : Nat
  len : Nat
  val : List Byte
  deriving DecidableEq, Repr

/-- Cut records; none where a header or value runs over the end, or padding is not zero. `fuel` bounds the count. -/
def parseRecs : Nat → List Byte → Option (List Rec)
  | _, [] => some []
  | 0, _ :: _ => none
  | f + 1, bs =>
    let ty := leNat (bs.take 2)
    let len := leNat ((bs.drop 2).take 2)
    let full := (len + 3) / 4 * 4
    let v := (bs.drop 4).take full
    if bs.length < 4 + full then none
    else if (v.drop len).any (· != 0) then none
    else (parseRecs f (bs.drop (4 + full))).map (⟨ty, len, v.take len⟩ :: ·)

def rNum (r : Rec) : Nat := leNat r.val
def rBits (r : Rec) (hi lo : Nat) : Nat := leField r.val hi lo

/-- The nibbles of a lane map. -/
def laneNibbles (m : Nat) : List Nat := (List.range 16).map (fun i => m / 16 ^ i % 16)

def between (lo hi x : Nat) : Bool := decide (lo ≤ x) && decide (x ≤ hi)

/-- A record's TYPE is known, its LEN right, its value in range and its reserved bits zero (R445, R450, R241). -/
def recOk (r : Rec) : Bool :=
  let n (k : Nat) : Bool := r.len == k
  match r.ty with
  | 0x0001 => n 1 && between 0 15 (rNum r)
  | 0x0002 => n 1 && between 1 16 (rNum r)
  | 0x0003 => n 1 && between 1 168 (rNum r)
  | 0x0010 => n 2 && between 0 4095 (rNum r)
  | 0x0011 => n 12 && rBits r 31 9 == 0 && (laneNibbles (rBits r 95 32)).Nodup
  | 0x0012 => n 5 && rBits r 7 5 == 0
  | 0x0013 => n 4 && decide (250 ≤ rNum r)
  | 0x0014 => n 4 && decide (10 ≤ rBits r 15 0) && decide (1 ≤ rBits r 19 16) && rBits r 31 20 == 0
  | 0x0015 => n 1 && between 2 255 (rNum r)
  | 0x0020 => n 4
  | 0x0021 => n 4
  | 0x0030 => n 4 && between 2500 250000 (rNum r)
  | 0x0031 => n 4 && between 25000 16777215 (rNum r)
  | 0x0032 => n 1 && between 0 1 (rNum r)
  | 0x0040 => n 1 && between 0 1 (rNum r)
  | 0x0041 => n 1 && between 0 1 (rNum r)
  | 0x0050 => n 4 && rBits r 3 2 == 0 && between 1200 3600 (rBits r 15 4) && between 70 105 (rBits r 23 16) && rBits r 31 24 == 0
  | 0x0060 => n 20 && rBits r 11 0 == 0 && rBits r 75 64 == 0 && between 4 20 (rBits r 135 128) && rBits r 143 136 == 0 && between 0 2047 (rBits r 159 144)
  | 0x0070 => n 8 && r.val.all (fun b => decide (b.toNat ≤ 5))
  | _ => false

/-- Ascending TYPE; only PORT repeats, with distinct ports. -/
def orderOk : List Rec → Bool
  | [] => true
  | a :: t =>
    (match t with
     | [] => true
     | b :: _ => decide (a.ty < b.ty) || (a.ty == 0x0011 && b.ty == 0x0011)) &&
    !(a.ty == 0x0011 && t.any (fun b => b.ty == 0x0011 && rBits a 4 0 == rBits b 4 0)) && orderOk t

def recsOk (rs : List Rec) : Bool := rs.all recOk && orderOk rs

/-! Images (R443). -/

def imGeneration (im : List Byte) : Nat := leField im 127 64
def imRlen (im : List Byte) : Nat := leField im 159 128

/-- The header is right: MAGIC, VERSION, reserved bytes and RLEN. -/
def headOk (im : List Byte) : Bool :=
  leField im 31 0 == 0x47454E5A && leField im 47 32 == 1 && leField im 63 48 == 0 && leField im 511 160 == 0 &&
    imRlen im % 4 == 0 && decide (imRlen im ≤ 1048432) && decide (64 + imRlen im ≤ im.length)

def imRecs (im : List Byte) : Option (List Rec) :=
  let bs := (im.drop 64).take (imRlen im)
  (parseRecs (imRlen im) bs).bind (fun rs => if recsOk rs then some rs else none)

/-- Step 2 of R444: DIGEST, TAG under a live key, and every record. -/
def slotPasses (s : State) (im : List Byte) : Option (List Rec) :=
  let body := im.take (64 + imRlen im)
  if (im.drop (64 + imRlen im)).take 32 ≠ Config.sha3 body then none
  else if !(liveKeys s).any (fun k => kmac k csNeg body 16 == (im.drop (96 + imRlen im)).take 16) then none
  else imRecs im

/-- The slots in the order they are tried: those whose header is right, the greater GENERATION first. -/
def slotOrder (s : State) (bad : Bool × Bool) : List (Bool × List Byte) :=
  let a := match s.flash.slotA with | some x => if !bad.1 && headOk x.img then [(false, x.img)] else [] | none => []
  let b := match s.flash.slotB with | some x => if !bad.2 && headOk x.img then [(true, x.img)] else [] | none => []
  match a, b with
  | [x], [y] => if imGeneration x.2 < imGeneration y.2 then [y, x] else [x, y]
  | _, _ => a ++ b

/-! Option values into the state (R445). -/

/-- The master negative's values. -/
def loadMaster (s : State) : State :=
  let s := setField (setField s rMEM_MAP 3 0 0) rMEM_MAP 8 4 4
  let s := (List.range 16).foldl (fun s h => setField s (rMEM_SCRUB h) 7 0 24) s
  let s := setField (setField s rPRT_PKG 11 0 0) rPRT_PKG 47 16 25000
  let s := (List.range 32).foldl (fun s n =>
    setReg (setReg (setField (setField (setField s (rPRT_CTRL n) 0 0 1) (rPRT_CTRL n) 4 3 3) (rPRT_CTRL n) 5 5 0) (rPRT_LANEMAP n) 0xFEDCBA9876543210)
      (rPRT_POLARITY n) 0) s
  let s := setField (setField s rPRT_LINK 15 0 50) rPRT_LINK 19 16 8
  let s := setField s rSTK_MEMB 24 17 20
  let s := setField (setField s rSCH_OPT 31 0 50000) rSCH_OPT 63 32 125000
  let s := setField s rCOH_CTRL 31 0 25000
  let s := setField (setField s rCXL_CTRL 31 8 250000) rCXL_CTRL 0 0 0
  let s := setField (setField (setField s rPWR_CTRL 1 0 3) rPWR_CTRL 13 2 3600) rPWR_CTRL 20 14 95
  { s with rst := { s.rst with opten := false, strict := false, adminRing := none, func := 0 } }

/-- One record's value. -/
def loadRec (s : State) (r : Rec) : State :=
  match r.ty with
  | 0x0001 => setField s rMEM_MAP 3 0 (rNum r)
  | 0x0002 => setField s rMEM_MAP 8 4 (rNum r)
  | 0x0003 => (List.range 16).foldl (fun s h => setField s (rMEM_SCRUB h) 7 0 (rNum r)) s
  | 0x0010 => setField s rPRT_PKG 11 0 (rNum r)
  | 0x0011 =>
    let n := rBits r 4 0
    let s := setField (setField (setField s (rPRT_CTRL n) 0 0 (rBits r 5 5)) (rPRT_CTRL n) 4 3 (rBits r 7 6)) (rPRT_CTRL n) 5 5 (rBits r 8 8)
    setReg s (rPRT_LANEMAP n) (BitVec.ofNat 64 (rBits r 95 32))
  | 0x0012 => setReg s (rPRT_POLARITY (rBits r 4 0)) (BitVec.ofNat 64 (rBits r 39 8))
  | 0x0013 => setField s rPRT_PKG 47 16 (rNum r)
  | 0x0014 => setField (setField s rPRT_LINK 15 0 (rBits r 15 0)) rPRT_LINK 19 16 (rBits r 19 16)
  | 0x0015 => setField s rSTK_MEMB 24 17 (rNum r)
  | 0x0020 => setField s rSCH_OPT 31 0 (rNum r)
  | 0x0021 => setField s rSCH_OPT 63 32 (rNum r)
  | 0x0030 => setField s rCOH_CTRL 31 0 (rNum r)
  | 0x0031 => setField s rCXL_CTRL 31 8 (rNum r)
  | 0x0032 => setField s rCXL_CTRL 0 0 (rNum r)
  | 0x0040 => { s with rst := { s.rst with opten := decide (rNum r = 1) } }
  | 0x0041 => { s with rst := { s.rst with strict := decide (rNum r = 1) } }
  | 0x0050 => setField (setField (setField s rPWR_CTRL 1 0 (rBits r 1 0)) rPWR_CTRL 13 2 (rBits r 15 4)) rPWR_CTRL 20 14 (rBits r 23 16)
  | 0x0060 => { s with rst := { s.rst with adminRing := some r.val } }
  | 0x0070 => { s with rst := { s.rst with func := BitVec.ofNat 64 (rNum r) } }
  | _ => s

/-- Every port's EN as the options leave it. -/
def takeEnables (s : State) : State :=
  (List.range 32).foldl (fun s n => setPort s n { portOf s n with en := bit (regVal s (rPRT_CTRL n)) 0 }) s

/-- OPTION_FALLBACK (R446): its record of reach Package, the alert bit and the event. -/
def optionFallback (s : State) : State :=
  let s := pushErr s (errRec 0x0803 7 0 8 11 0)
  raiseEvent (setAlert s 2) 3

/-- The end of an option load: the restart count is shown, and is zero again (R446). -/
def loadEnds (s : State) : State :=
  let s := setField s rRST_STATUS 17 14 (min 15 s.rst.restarts)
  takeEnables { s with rst := { s.rst with restarts := 0 } }

/-- The master negative alone; `raised` where OPTION_FALLBACK is raised (R446, R477). -/
def loadsMaster (s : State) (raised : Bool) : State :=
  let s := loadMaster s
  let s := setMlog { s with rst := { s.rst with fallback := true, generation := 0 } } 0 Config.masterDigest
  let s := loadEnds s
  if raised then optionFallback s else s

/-- A slot's image. -/
def loadsSlot (s : State) (b : Bool) (im : List Byte) (rs : List Rec) : State :=
  let s := rs.foldl loadRec (loadMaster s)
  let s := { s with
    rst := { s.rst with fallback := false, slot := b, generation := BitVec.ofNat 64 (imGeneration im) }
    flash := { s.flash with lastLoaded := b, lastWritten := b } }
  loadEnds (setMlog s 0 ((im.drop (64 + imRlen im)).take 32))

/-- A slot's image with its tag under the new key, where the old one's verifies. -/
def retag (img old new : List Byte) : List Byte :=
  let body := img.take (64 + imRlen img)
  if (img.drop (96 + imRlen img)).take 16 = kmac old csNeg body 16 then img.take (96 + imRlen img) ++ kmac new csNeg body 16 else img

/-- Steps 2 to 4 of a rotation, by its command or after a reset that struck it (R479): the last counter is appended under the new key, both
slots get tags under it, and PREVIOUS goes. -/
def finishRotation (s : State) : State :=
  match s.flash.current, s.flash.previous with
  | some new, some old =>
    let f (x : Option NegSlot) : Option NegSlot := x.map (fun x => ⟨retag x.img old new⟩)
    { s with flash := { appendCtr s.flash (ctrRecord new (lastCounter s)) with slotA := f s.flash.slotA, slotB := f s.flash.slotB, previous := none } }
  | _, _ => s

/-- First slot of the order that passes. -/
def firstPass (s : State) : List (Bool × List Byte) → Option (Bool × List Byte × List Rec)
  | [] => none
  | x :: t => match slotPasses s x.2 with | some rs => some (x.1, x.2, rs) | none => firstPass s t

/-- How an option load comes out (R444, R446, R477). -/
inductive Loaded where
  | done (s : State)
  /-- no slot passes: source 10 -/
  | noSlot
  /-- the master negative fails its check -/
  | badMaster

def optionLoad (s : State) (bad : Bool × Bool) (masterBad : Bool) : Loaded :=
  if masterBad then .badMaster
  else if s.rst.restarts ≥ 8 then .done (loadsMaster s true)
  else if !owned s then .done (loadsMaster s false)
  else match firstPass s (slotOrder s bad) with
    | some (b, im, rs) => .done (finishRotation (loadsSlot s b im rs))
    | none => .noSlot

end Sys2Proof.Machine
end

