-- ==== Sys2Proof/Machine/Resets.lean ====
section
/-! DEFINITION. Resets (17): levels, sources and the reach table, how resets meet, bring-up from level 0 or 1, the level-2 sequence,
die and block resets, and the sources that have a command of their own. -/

namespace Sys2Proof.Machine

/-! The reach table (R434 to R436). -/

/-- The value that the fuses give a source (R436). -/
def fuseReach (f : Fuses) (n : Nat) : Nat :=
  if bit f.flock n then nth f.fval n else if bit f.bset n then nth f.bval n else nth f.fval n

/-- The value in force since the fuses were last sensed. -/
def reachOf (s : State) (n : Nat) : Nat := nth s.rst.reach n

/-! What a reset returns to its reset values (R433). -/

/-- A register's value across a reset of level 0 or 1: what such a reset does not reach stays. -/
def keepDeep (lvl off : Nat) (v : BitVec 64) : BitVec 64 :=
  if off = rRST_STATUS then v
  else if lvl = 0 then regReset off
  else if off = rSEC_FAIL then v
  else if inPages 0x90000 14 off then
    (if off % 0x1000 = 0 then v else if off % 0x1000 = 8 then setBits (regReset off) 57 48 (bits v 57 48) else regReset off)
  else regReset off

/-- Cores after a reset of level 0, 1 or 2: fresh, seeded, their withdrawals kept but at level 0. -/
def freshCores (s : State) (keep : Bool) : Tbl Core :=
  s.cores.foldl (fun t e => tset Core.fresh t e.1 { Core.fresh with withdrawn := keep && (e.2.withdrawn || (e.2.wdPend && !e.2.retLatch)) }) []

/-- How many ticks after a reset the counter of each of `n` dies starts: free values, as no die's counter agrees with another's (R10, R33). -/
def freshWaits (free n : Nat) : List Nat := (List.range n).map (fun i => (Config.freeWord (free + 1 + i)).toNat)

/-- A reset of level 0 or 1 begins (R433, R439 step 1): all it reaches is at its reset value, and its first step runs. An FLR leaves the
decoders committed (R411); strict-AUTH stays as last loaded until step 8 loads it again (log entry 4), or the vendor's unlock could not be
refused at the hold point before that step (R480, R482). -/
def deepReset (s : State) (lvl src : Nat) : State :=
  { State.reset with
    pending := s.pending
    free := s.free + 11
    aonWait := freshWaits s.free 10
    cxl := if src = 3 then { Cxl.reset with base := s.cxl.base, committed := s.cxl.committed, biEn := s.cxl.biEn, lockD := s.cxl.lockD } else .reset
    seeding := s.free
    uid := s.uid
    out := s.out
    regs := s.regs.foldl (fun t e => tset (regReset e.1) t e.1 (keepDeep lvl e.1 e.2)) []
    cores := freshCores s (lvl != 0)
    msix := s.msix
    fuses := s.fuses
    flash := s.flash
    rst := { Rst.reset with
      phase := .seq lvl 1, lastLvl := lvl, lastSrc := src, restarts := s.rst.restarts, fallback := s.rst.fallback, slot := s.rst.slot
      marked := if lvl = 0 then [] else s.rst.marked
      strict := s.rst.strict, hold := s.rst.hold, warmCnt := s.rst.warmCnt, perstCnt := s.rst.perstCnt, seen := s.rst.seen, reach := s.rst.reach
      count := if lvl = 0 then 0 else min (2 ^ 32 - 1) (s.rst.count + 1) }
    pins := { s.pins with alertN := true }
    sec := { Sec.reset with scope := s.sec.scope, vendor := s.sec.vendor, tap := s.sec.tap, rotations := s.sec.rotations } }

/-- The package wakes or stays Lit for a reset. -/
def resetPwr (w : Pwr) : Pwr := { w with st := 0, entering := none, waking := false, wakeAt := none, darkSent := false }

/-- A reset of level 2 begins (R440): nothing serves from now on, and the counters of S0 and S1 start again (R433). -/
def domainBegin (s : State) (src : Nat) : State :=
  { s with
    rst := { s.rst with phase := .seq 2 1, lastLvl := 2, lastSrc := src, count := min (2 ^ 32 - 1) (s.rst.count + 1), next := none, block := none }
    aon := s.aon.take 8 ++ [0, 0]
    aonWait := s.aonWait.take 8 ++ freshWaits s.free 2
    free := s.free + 3
    sec := { s.sec with auth := none }
    pwr := resetPwr s.pwr }

def beginReset (s : State) (lvl src : Nat) : State := if lvl ≤ 1 then deepReset s lvl src else domainBegin s src

/-! How resets meet (R438, R446, R411). -/

def seen (s : State) (src : Nat) : State := { s with rst := { s.rst with seen := s.rst.seen ||| BitVec.ofNat 16 (2 ^ src) } }

/-- Writes to the host whose answer is awaited. -/
def hostOwed (s : State) : Bool := s.coh.hout.any (fun o => o.kind == .write || o.kind == .evict)

/-- The host-line cache writes back its M lines and holds no line any more (R411, R440). -/
def evictAll (s : State) : State :=
  let dirty := s.coh.hlc.filter (fun e => e.2.st == .m)
  let s := dirty.foldl (fun s e => send s (.cxl mDirtyEvict (e.1 * 64) e.2.data)) s
  let s := loseRsv s (fun _ v => decide (2 ^ 40 < v))
  { s with coh := { s.coh with hlc := [], hout := s.coh.hout ++ dirty.map (fun e => ⟨e.1, .evict, whoSched, 0, none⟩) } }

def hasDirty (s : State) : Bool := s.coh.hlc.any (fun e => e.2.st == .m)

/-- A reset that waits for the host begins once nothing is owed (R335, R411). -/
def pendingReset (s : State) : State :=
  match s.rst.next with
  | some (l, src) => if hostOwed s then s else beginReset { s with rst := { s.rst with next := none } } l src
  | none => s

/-- A reset waits: the deeper of two that do. -/
def waitReset (s : State) (lvl src : Nat) : State :=
  match s.rst.next with
  | some (l, _) => if lvl < l then { s with rst := { s.rst with next := some (lvl, src) } } else s
  | none => { s with rst := { s.rst with next := some (lvl, src) } }

/-- A reset of a level arrives (R438): begun, deepened, merged, or kept until the host has the cache's M lines (R411). -/
def raiseAt (s : State) (lvl src : Nat) : State :=
  match s.rst.phase with
  | .off => s
  | .stopped _ => if lvl ≤ 1 then beginReset (seen s src) lvl src else s
  | .ready =>
    let s := seen s src
    if lvl ≤ 1 ∧ s.cxl.link = .l0 ∧ inFog s = false ∧ (hasDirty s = true ∨ s.rst.next.isSome = true) then pendingReset (waitReset (evictAll s) lvl src)
    else if s.rst.next.isSome then waitReset s lvl src
    else beginReset s lvl src
  | .seq l n =>
    let s := seen s src
    let s := if l ≤ 1 ∧ n = 8 then { s with rst := { s.rst with restarts := min 15 (s.rst.restarts + 1) } } else s
    if lvl < l then beginReset s lvl src else s

/-- Bring-up stops with a code, and ALERT_N is asserted (R435, R439, R449). -/
def stopBringup (s : State) (code : Nat) : State :=
  { s with rst := { s.rst with phase := .stopped code }, pins := { s.pins with alertN := false } }

/-- A source other than 8 and 15 is raised: its value of the reach table, as R435 reads it. -/
def raiseSrc (s : State) (n : Nat) : State :=
  let v := reachOf s n
  if n = 9 ∨ n = 10 then
    (if v = 7 then stopBringup s (if n = 9 then 0x0819 else 0x081A) else raiseAt s (min v 1) n)
  else if v = 7 then s
  else raiseAt s (min v 2) n

/-- PERST_N, hot reset or FLR: PRESERVE_ON_HOST_RESET makes a level 0 or 1 act as 2 (R412). -/
def raiseHost (s : State) (n : Nat) : State :=
  let v := reachOf s n
  if v = 7 then s
  else if v ≤ 1 ∧ bit (regVal s rCXL_CTRL) 0 = true then
    let s := if bit (regVal s rCXL_LOSS_LOG) 0 then setField s rCXL_LOSS_LOG 5 5 1 else s
    raiseAt s 2 n
  else raiseAt s (min v 2) n

/-! Bring-up from level 0 or 1 (R439). -/

/-- The edges of R432 by the identities at their ends. -/
def edgeEnds : List (Nat × Nat) :=
  [(8, 0), (8, 4), (0, 1), (0, 4), (1, 2), (1, 5), (2, 3), (2, 6), (3, 7), (3, 9), (4, 5), (5, 6), (6, 7), (7, 9)]

def isEdge (a b : Nat) : Bool := edgeEnds.contains (a, b) || edgeEnds.contains (b, a)

/-- The dies that a message passes from an A-die along its row to another one's column, first to last (R432: A0 to A3 are the upper row). -/
def alongRow (a col : Nat) : List Nat :=
  let c := a % 4
  (if c ≤ col then (List.range (col + 1 - c)).map (c + ·) else (List.range (c + 1 - col)).map (c - ·)).map (a / 4 * 4 + ·)

/-- The column beside an S-die: S0 stands at the left end of both rows, S1 at the right. -/
def besideS (d : Nat) : Nat := if d = 8 then 0 else 3

/-- The fixed route from die `a` to die `b`, both ends included (R16). -/
def route (a b : Nat) : List Nat :=
  if a = b then [a]
  else if a < 8 then
    (if b < 8 then alongRow a (b % 4) ++ (if a / 4 = b / 4 then [] else [b]) else alongRow a (besideS b) ++ [b])
  else if b < 8 then a :: alongRow (b / 4 * 4 + besideS a) (b % 4)
  else a :: alongRow (besideS a) (besideS b) ++ [b]

/-- The hops of a route, in order. -/
def hopsOf (l : List Nat) : List (Nat × Nat) := l.zip (l.drop 1)

/-- The route from `a` to `b` crosses an edge, from END0 to END1 or the reverse (`dir` true). -/
def onRoute (a b edge : Nat) (dir : Bool) : Bool :=
  let ends := edgeEnds.getD edge (0, 0)
  let lo := min ends.1 ends.2
  let hi := max ends.1 ends.2
  decide (edge < 14) && (hopsOf (route a b)).contains (if dir then (hi, lo) else (lo, hi))

/-- A strap position is in conflict (R424). Position `i` of the chain is taken to be the die of identity `i` (log entry 19). -/
def strapBad (codes : List Nat) (i : Nat) : Bool :=
  let c := nth codes i
  decide (9 < c) || (decide (i < 8) != decide (c < 8)) ||
    (List.range codes.length).any (fun j => j != i && nth codes j == c) ||
    (List.range codes.length).any (fun j => isEdge i j && !isEdge c (nth codes j))

/-- Straps sensed and exchanged: the codes are shown, with the first position in conflict. -/
def senseStraps (s : State) (straps : List (BitVec 4)) : State :=
  let codes := straps.map BitVec.toNat
  let v := (List.range 10).foldl (fun a i => a + fieldAt (4 * i + 3) (4 * i) (nth codes i)) 0
  let s := setReg s rD2D_STRAP (BitVec.ofNat 64 v)
  match (List.range 10).find? (strapBad codes) with
  | none => { s with rst := { s.rst with phase := .seq s.rst.lastLvl 6 } }
  | some i => stopBringup (setField (setField s rD2D_STRAP 40 40 1) rD2D_STRAP 44 41 i) 0x0801

/-- A wire of an edge, by group, number and direction (R417, R422). -/
def wireKey (edge group wire : Nat) (dir : Bool) : Nat := ((edge * 128 + group) * 76 + wire) * 2 + b2n dir
def wireEdge (k : Nat) : Nat := k / (128 * 76 * 2)
def wireGroup (k : Nat) : Nat := k / (76 * 2) % 128

/-- Marked wires of an edge. -/
def marksOf (s : State) (e : Nat) : List Nat := s.rst.marked.filter (fun k => wireEdge k == e)

/-- The first group of an edge with more marked wires in one direction than its two spares (R420, R421). -/
def overMarked (s : State) (e : Nat) : Option Nat :=
  let ms := marksOf s e
  ((ms.filter (fun k => decide (2 < (ms.filter (fun j => wireGroup j == wireGroup k && j % 2 == k % 2)).length))).map wireGroup).head?

/-- Training begins the count of a wire's errors again (R422). -/
def freshWires (s : State) (edges : List Nat) : State :=
  { s with rst := { s.rst with wires := s.rst.wires.filter (fun x => !edges.contains (wireEdge x.1)) } }

/-- Group in which an edge's third attempt fails, if it does: as the training found, or too many marked wires (R421). -/
def edgeFails (s : State) (info : StepInfo) (e : Nat) : Option Nat :=
  match info.edgeFail with
  | some (f, g) => if f = e then some g else overMarked s e
  | none => overMarked s e

/-- One edge's training shown in D2D_STATUS (R420, R421): `fail` names the group that failed. -/
def showEdge (s : State) (e : Nat) (spares : Nat) (fail : Option Nat) : State :=
  let ends := edgeEnds.getD e (0, 0)
  let r := rD2D_STATUS e
  let s := setField (setField s r 3 0 (min ends.1 ends.2)) r 7 4 (max ends.1 ends.2)
  let s := setField (setField s r 8 8 (b2n fail.isNone)) r 9 9 (b2n fail.isSome)
  let s := match fail with | some g => setField s r 17 10 g | none => s
  bump (setField s r 27 18 spares) r 35 28 (if fail.isSome then 3 else 1)

/-- Edges trained: an edge that fails its third attempt raises source 9 (R421). -/
def trainEdges (s : State) (edges : List Nat) (info : StepInfo) (ok : State → State) : State :=
  let s := edges.foldl (fun s e => showEdge s e (nth info.spares e) (edgeFails s info e)) (freshWires s edges)
  if edges.any (fun e => (edgeFails s info e).isSome) then (if reachOf s 9 = 7 then raiseSrc s 9 else ok (raiseSrc s 9)) else ok s

/-- Failing firmware slots of a kind are counted (R483). -/
def countFw (s : State) (svnMin : Nat) (a b : FwSlot) : State :=
  let one (s : State) (slot : Nat) (f : FwSlot) : State := if fwFails s svnMin f = 0 then s else secFail s 0 slot (fwFails s svnMin f)
  one (one s 0 a) 1 b

/-- The S-die boot firmware is verified and started, or bring-up stops with FW_NONE (R471). -/
def bootS (s : State) (ok : State → State) : State :=
  let s := countFw s s.fuses.svnS s.flash.sA s.flash.sB
  match bootSlot s s.fuses.svnS s.flash.sA s.flash.sB with
  | none => stopBringup s 0x0505
  | some b => ok { s with flash := { s.flash with sBooted := b } }

/-- Bytes of a ring's entry in the ring-context table (R301). -/
def ringBits (r : Ring) : BitVec 512 :=
  BitVec.ofNat 512 (b2n r.v + 2 * b2n r.dhost + 4 * b2n r.chost + 8 * b2n r.shost + 16 * b2n r.watch + 32 * b2n r.whost + 64 * b2n r.rdb
    + fieldAt 8 7 r.prio + fieldAt 9 9 (b2n r.err) + fieldAt 14 10 r.logsize + fieldAt 25 15 r.msix + fieldAt 37 26 r.ctx
    + fieldAt 127 64 r.dbase + fieldAt 191 128 r.cbase + fieldAt 215 192 r.head + fieldAt 239 216 r.tail + fieldAt 263 240 r.done
    + fieldAt 279 264 r.errcode + fieldAt 319 288 r.defwdog + fieldAt 383 320 r.wline + fieldAt 447 384 r.sigaddr + fieldAt 511 448 r.sigword.toNat)

/-- Write a ring's context: to the cache, or to its table entry where the cache does not hold it (R306). -/
def putRing (s : State) (n : Nat) (r : Ring) : State :=
  let s := setRing s n r
  if (unitOf s n).onchip then s else devSend s (ringTable + 64 * n) (leBytes 64 (ringBits r).toNat)

/-- The administrative ring of the working negative (R444 step 5, R445). -/
def adminRing (s : State) : State :=
  match s.rst.adminRing with
  | none => s
  | some v => putRing s 0 { Ring.none with
      v := true, dbase := leField v 63 0, cbase := leField v 127 64, logsize := leField v 135 128, msix := leField v 159 144 }

/-- READY: Memory_Active, the locks of R514, the READY event (R439 step 10, R440 step 7). -/
def readyNow (s : State) : State :=
  let s := { s with rst := { s.rst with phase := .ready, memActive := true, locks := 0x3F } }
  let s := setField (setField (setField (setField (setField s rMEM_MAP 9 9 1) rPRT_PKG 12 12 1) rCOH_CTRL 32 32 1) rCXL_CTRL 32 32 1) rPWR_CTRL 21 21 1
  driveAlert (raiseEvent (adminRing s) 2)

def toStep (s : State) (n : Nat) : State := { s with rst := { s.rst with phase := .seq s.rst.lastLvl n } }

/-- Ports with EN begin to train beside step 9 (R439, R267). -/
def startPorts (s : State) : State := (List.range 32).foldl (fun s n => if (portOf s n).en then leaveOff s n else s) s

/-- The end of option load (R444, R446). -/
def loadStep (s : State) (info : StepInfo) : State :=
  match optionLoad s info.slotBad info.masterBad with
  | .done s => driveAlert (startPorts (toStep s 9))
  | .noSlot => raiseSrc s 10
  | .badMaster => stopBringup s 0x0803

/-- BRINGUP_STEP_DONE (R439). -/
def execBringupStepDone (info : StepInfo) (s : State) : Out State :=
  .next (match s.rst.phase with
  | .seq 2 _ => s
  | .seq l 1 => toStep s (if l = 0 then 2 else 4)
  | .seq _ 2 => if s.pins.pwrOk then toStep s 3 else s
  | .seq _ 3 => toStep { s with rst := { s.rst with reach := (List.range 16).map (fuseReach s.fuses) } } 4
  | .seq _ 4 =>
    let s := countFw s s.fuses.svnMc s.flash.mcA s.flash.mcB
    (match bootSlot s s.fuses.svnMc s.flash.mcA s.flash.mcB with
     | none => stopBringup s 0x0505
     | some b => toStep { s with flash := { s.flash with mcBooted := b } } 5)
  | .seq _ 5 => senseStraps s info.straps
  | .seq l 6 => trainEdges s (List.range 14) info (fun s => if s.rst.phase = .seq l 6 then toStep s 7 else s)
  | .seq _ 7 => if s.rst.hold || !s.rst.dietest.isEmpty then s else toStep s 8
  | .seq _ 8 => loadStep s info
  | .seq _ 9 => if info.laneFail.isSome then stopBringup s 0x0802 else toStep s 10
  | .seq _ 10 => bootS s readyNow
  | _ => s)

/-! Level 2 (R440). -/

/-- Pages that a level-2 reset reaches: the error, ring, scheduler, package fixer, pod and coherence pages, the home, loupe, stacker and
fixer pages, those of the cores, and PKG_DRVTAG; not PKG_ALERT, nor the memory pages and those of the ports (R433, R179, R495, R515). -/
def reachedTwo (off : Nat) : Bool :=
  (inPages 0x1000 1 off && off != rPKG_ALERT) || inPages 0x5000 2 off || inPages 0x8000 1 off || inPages 0xA000 2 off ||
    inPages 0x40000 32 off || inPages 0x80000 8 off || inPages 0x100000 64 off || decide (0x200000 ≤ off) || off == rPKG_DRVTAG

/-- A port keeps its link and loses its heartbeat state, since the incarnation is 0 (R287, R288). -/
def domainPort (p : Port) : Port := { p with hb := 0, misses := 0, silence := none, heard := false, liveSince := false, noteHold := 0 }

/-- Step 4 of R440: the S-dies, the coherent domain, ring unit, scheduler and A-die engines are reset and incarnations cleared. -/
def domainReset (s : State) : State :=
  let s := wipe (resetRegs s reachedTwo) ringTable (64 * 2 ^ 20)
  { s with
    free := s.free + 1
    seeding := s.free
    cores := freshCores s true
    signals := []
    tlb := []
    coh := .reset
    cxl := { s.cxl with viralTx := false, atc := [], atsWait := [], invs := [], held := [], reads := [] }
    rings := .reset
    sched := .reset
    loupes := []
    tables := []
    fixers := .reset
    ports := s.ports.map (fun e => (e.1, domainPort e.2))
    pod := { Pod.reset with routes := s.pod.routes, usable := s.pod.usable }
    errs := .reset
    rst := { s.rst with after := [] }
    sec := { s.sec with loads := 0, auth := none, mlog := [s.sec.mlog.getD 0 (zeros 32), zeros 32], spdm := 0, secured := false }
    csw := { Csw.reset with authen := s.csw.authen } }

/-- DOMAIN_RESET_STEP_DONE (R440). Step 2 ends once the host has answered every write-back, or cannot any more (R411). -/
def execDomainResetStepDone (info : StepInfo) (s : State) : Out State :=
  .next (match s.rst.phase with
  | .seq 2 1 =>
    if s.cxl.link = .l0 ∧ s.cxl.lost = false ∧ inFog s = false then toStep (evictAll s) 2
    else toStep { s with coh := { s.coh with hlc := [], hout := [] } } 2
  | .seq 2 2 => if hostOwed s && s.cxl.link == .l0 then s else toStep s 3
  | .seq 2 3 => toStep { s with rst := { s.rst with memActive := false } } 4
  | .seq 2 4 => driveAlert (toStep (domainReset s) 5)
  | .seq 2 5 => trainEdges s [0, 1, 9, 13] info (fun s => if s.rst.phase = .seq 2 5 then toStep s 6 else s)
  | .seq 2 6 => toStep s 7
  | .seq 2 7 => bootS s readyNow
  | _ => s)

/-! Die and block resets (R24, R441, R539). -/

/-- A die holds no program and no loupe work, and no call spans it (R24). -/
def dieIdle (s : State) (d : Nat) : Bool :=
  !(placedProgs s).any (fun x => dieOf s x.1.core == d) &&
    !s.loupes.any (fun e => e.1 / 2 == d && (!e.2.queue.isEmpty || e.2.run.isSome)) &&
    s.fixers.queue.isEmpty && s.fixers.run.isNone && s.pod.colls.isEmpty

/-- A request of RST_CTRL (R441): refused unless its block is idle and no reset runs. -/
def blockReset (s : State) (kind index : Nat) (idle : Bool) (f : State → State) : State :=
  if !pageOpen s rRST_CTRL then s
  else
    let s := wakeBy false s
    let s := setField (setField s rRST_CTRL 2 0 kind) rRST_CTRL 13 3 index
    if (s.rst.phase == .ready) && s.rst.block.isNone && idle then f { s with rst := { s.rst with refused := false, block := some (kind, index) } }
    else { s with rst := { s.rst with refused := true } }

/-- A fixer's own state: its page, the chunks it counts, and its generators, which are seeded again (R212). -/
def resetFixer (s : State) (f : Nat) : State :=
  let s := fixReseed s f
  resetRegs { s with fixers := { s.fixers with chunks := tdel s.fixers.chunks f } } (inPages (0x100000 + 0x1000 * f) 1)

def resetLoupe (s : State) (n : Nat) : State := resetRegs (setLoupe s n Loupe.idle) (inPages (0x50000 + 0x1000 * n) 1)
def resetStacker (s : State) (d : Nat) : State := resetRegs s (inPages (0x80000 + 0x1000 * d) 1)

/-- A die reset: its cores, loupes, fixers and stacker; the mark of R25 goes. -/
def resetDie (s : State) (d : Nat) : State :=
  let s := (List.range (perDie s)).foldl (fun s i => resetCore s (d * perDie s + i)) s
  let s := [2 * d, 2 * d + 1].foldl resetLoupe s
  let s := (List.range 8).foldl (fun s i => resetFixer s (8 * d + i)) s
  let s := resetStacker s d
  { s with rst := { s.rst with dieMark := s.rst.dieMark.filter (· != d) } }

/-- DIE_RESET. -/
def execDieReset (index : BitVec 11) (s : State) : Out State :=
  let d := index.toNat
  .next (blockReset s 0 d (decide (d < 8) && dieIdle s d) (fun s => resetDie s d))

/-- CORE_RESET: a withdrawn core that holds no program. -/
def execCoreReset (index : BitVec 11) (s : State) : Out State :=
  let c := index.toNat
  let k := coreOf s c
  .next (blockReset s 1 c (decide (c < coreCount s) && k.withdrawn && k.lo.isNone && k.hi.isNone) (fun s => resetCore s c))

/-- PORT_RESET: a port in OFF or DOWN returns to OFF with EN clear. -/
def execPortReset (index : BitVec 11) (s : State) : Out State :=
  let n := index.toNat
  .next (blockReset s 2 n (decide (n < 32) && ((portOf s n).st == .off || (portOf s n).st == .down))
    (fun s => setPort (resetRegs (leaveSets s n) (inPages (0x60000 + 0x1000 * n) 1)) n Port.off))

/-- FIXER_RESET. -/
def execFixerReset (index : BitVec 11) (s : State) : Out State :=
  let f := index.toNat
  .next (blockReset s 3 f (decide (f < 64) && s.fixers.queue.isEmpty && s.fixers.run.isNone) (fun s => resetFixer s f))

/-- LOUPE_RESET. -/
def execLoupeReset (index : BitVec 11) (s : State) : Out State :=
  let n := index.toNat
  .next (blockReset s 4 n (decide (n < 16) && (loupeOf s n).queue.isEmpty && (loupeOf s n).run.isNone) (fun s => resetLoupe s n))

/-- STACKER_RESET. -/
def execStackerReset (index : BitVec 11) (s : State) : Out State :=
  let d := index.toNat
  .next (blockReset s 5 d (decide (d < 8) && s.pod.colls.isEmpty && s.pod.frames.isEmpty) (fun s => resetStacker s d))

/-- A ring as RING_CTRL RESET leaves it (R330): empty, running on, with nothing read ahead; a watched line it gave up is held again. -/
def resetRing (s : State) (n : Nat) : State :=
  let r := ringOf s n
  let u := unitOf s n
  let s := putRing s n { r with head := 0, tail := 0, done := 0, err := false, errcode := 0 }
  setUnit s n { u with ready := [], marks := [], pend := false, reread := u.reread || (r.watch && !u.held), fresh := u.fresh || (r.watch && !u.held && !u.reread) }

/-- RING_GROUP_RESET: the 512 rings of one BAR2 page. -/
def execRingGroupReset (index : BitVec 11) (s : State) : Out State :=
  let g := index.toNat
  let mine := (s.rings.ctx.filter (fun e => e.2.v && e.1 / 512 == g)).map (·.1)
  .next (blockReset s 6 g (mine.all (fun n => (unitOf s n).running.isNone)) (fun s => mine.foldl resetRing s))

/-- A core or port whose reset is over is enabled, and takes the enable it has latched (R362, R441). -/
def blockEnabled (s : State) (k i : Nat) : State :=
  let mine (c : Nat) : Bool := (k == 0 && dieOf s c == i) || (k == 1 && c == i)
  let s := { s with cores := s.cores.map (fun e => if mine e.1 then (e.1, settleCore e.2) else e) }
  if k = 2 ∧ (portOf s i).enLatch = true then leaveOff s i else s

/-! Sources (R434, R437). -/

/-- ALL_PORTS_DOWN_TIMER: every port with EN set has been in DOWN for 1 ms together. -/
def execAllPortsDownTimer (s : State) : Out State :=
  let on := s.ports.filter (fun e => e.2.en)
  .next (if s.rst.phase = .ready ∧ on ≠ [] ∧ on.all (fun e => e.2.st == .down) = true then raiseSrc s 13 else s)

/-- MC_WATCHDOG_EXPIRY: the management controller runs from step 4 of R439 on. -/
def execMcWatchdogExpiry (s : State) : Out State :=
  .next (match s.rst.phase with
  | .ready => raiseSrc s 5
  | .seq 2 _ => raiseSrc s 5
  | .seq _ n => if 4 < n then raiseSrc s 5 else s
  | .stopped _ => raiseSrc s 5
  | .off => s)

/-- PKGRST over JTAG: with scope bit 0 unlocked (R434, R481); under strict-AUTH by AUTH alone (R480). -/
def jtagScope (s : State) : Bool := bit s.sec.scope 0 && (!s.rst.strict || !s.sec.vendor)

def execPkgrst (s : State) : Out State :=
  let s := { s with sec := { s.sec with tap := 5 } }
  .next (if jtagScope s then raiseSrc s 11 else s)

/-- POWER_ON: PWR_OK rises, source 0. Nothing but fuses, flash and the log of sources is kept from before. -/
def execPowerOn (s : State) : Out State :=
  .next (if s.rst.phase = .off then
    let s := { s with
      pins := { Pins.reset with pwrOk := true, i3cAddr := s.pins.i3cAddr, throttleN := s.pins.throttleN }
      msix := .reset, sec := { Sec.reset with rotations := s.sec.rotations }, rst := { s.rst with restarts := 0, phase := .seq 0 1 } }
    beginReset (seen s 0) 0 0
  else s)

/-- PWR_OK_FALL (R528): every activity ends, without record or write-back. -/
def execPwrOkFall (s : State) : Out State :=
  let s := { deepReset s 0 s.rst.lastSrc with msix := .reset }
  .next { s with
    rst := { s.rst with phase := .off, restarts := 0, count := 0, warmCnt := false, perstCnt := false, hold := false }
    pins := { s.pins with pwrOk := false, thermTrip := true }
    sec := { s.sec with scope := 0, vendor := false, tap := 0 } }

/-- WARM_RST_N_ASSERT: its count starts (R437). -/
def execWarmRstNAssert (s : State) : Out State :=
  .next { s with pins := { s.pins with warmRst := false }, rst := { s.rst with warmCnt := true } }

/-- PERST_N_ASSERT: its count starts (R437, R409). -/
def execPerstNAssert (s : State) : Out State :=
  .next { s with pins := { s.pins with perst := false }, rst := { s.rst with perstCnt := true } }

end Sys2Proof.Machine
end

