-- ==== Sys2Proof/Machine/Homes.lean ====
section
/-! DEFINITION. Fog (R383 to R386) and the homes of device memory (R372 to R382): the directory, requests in service, snoops and
their responses, write-backs, grants and acknowledgements. -/

namespace Sys2Proof.Machine

/-! Fog. -/

/-- Agent ids of R366; 7 for none. -/
def agentId : Agent → Nat
  | .s0 => 0
  | .s1 => 1
  | .host => 2
  | .ring => 3

/-- A CXL.cache request: in fog the host-line cache issues none (R384 step 3). -/
def toCache (m : Msg) : Bool := match m with | .cxl k _ _ => decide (mRdShared ≤ k) && decide (k ≤ mCleanEvict) | _ => false

def hpaOf (s : State) (line : Nat) : Nat := s.cxl.base.toNat + line * 64

/-- Data a host request gets: the granted state and poison stand in a last byte (log entry 10). -/
def hostData (s : State) (line : Nat) (d : List Byte) (st : Nat) (poison : Bool) : State :=
  send s (.cxl mMemData (hpaOf s line) (d ++ [BitVec.ofNat 8 (st + 128 * b2n poison)]))

/-- A free line, for a read that fog answers with poison (R385, log entry 1). -/
def freeLine (s : State) (n : Nat) : List Byte := (List.range n).map (fun i => ((Config.freeWord (s.free + i)).setWidth 8))

/-- Lines that host reads on their way or at their homes name. -/
def hostReads (s : State) : List Nat :=
  let is (r : HReq) : Bool := r.who == .agent .host
  s.coh.msgs.filterMap (fun m => match m with | .req r => if is r then some r.line else none | _ => none) ++
    s.coh.homes.flatMap (fun e => (e.2.queue.filter is).map (·.line) ++ (match e.2.active with | some a => if is a.req then [a.req.line] else [] | none => []))

/-- Reads of the host and of UIO peers that stand open when fog is found are answered with poison; no home serves them (R384, R385). -/
def foggedReads (s : State) : State :=
  let is (r : HReq) : Bool := r.who == .agent .host
  let s := (hostReads s).foldl (fun s l => hostData (useFree s 64) l (freeLine s 64) 0 true) s
  let s := s.cxl.reads.foldl (fun s r => send (useFree s r.len) (.cpl r.req (freeLine s r.len) 2)) s
  { s with
    cxl := { s.cxl with reads := [] }
    coh := { s.coh with
      msgs := s.coh.msgs.filter (fun m => match m with | .req r => !is r | _ => true)
      homes := (s.coh.homes.map (fun (e : Nat × HomeLine) => (e.1, { e.2 with
        queue := e.2.queue.filter (fun r => !is r), active := e.2.active.filter (fun a => !is a.req) }))).filter (fun (e : Nat × HomeLine) => e.2 != HomeLine.idle) } }

/-- Fog (R383, R384): the first cause is logged and later ones counted; records not yet visible are discarded, every context open or
ending is torn down with the code, the host-line cache gives up every line, and source 7 is raised once all this is done (R386). -/
def fog (s : State) (code die home line agent : Nat) : State :=
  let s := bump s rCOH_HLC_STAT 63 50
  if inFog s then s
  else
    let s := setReg s rCOH_FOG_LOG (BitVec.ofNat 64 (1 + fieldAt 16 1 code + fieldAt 20 17 die + fieldAt 25 21 home + fieldAt 60 26 line + fieldAt 63 61 agent))
    let s := setField s rPKG_ALERT 31 16 code
    let live := (s.sched.ctxs.filter (fun e => e.2.st == .openS || e.2.st == .ending)).map (·.1)
    let s := live.foldl (fun s c => beginTeardown s c code code 0 none) { s with errs := { s.errs with held := [], hostWait := none } }
    let s : State := { s with
      coh := { s.coh with hlc := [], hout := [], hbuf := [], fills := [], halted := true }
      cxl := { s.cxl with viralTx := true, held := s.cxl.held.filter (fun m => !toCache m) }
      csw := { s.csw with busy := none }
      rst := { s.rst with memActive := false } }
    let s : State := if s.cxl.link == .l0 then send s (.cxl mViral 0 []) else s
    let s := if code = 0x0703 then setAlert s 7 else s
    pendingReset (raiseSrc (driveAlert (foggedReads s)) 7)

/-- Fog that a home detects, on a device line. -/
def homeFog (s : State) (code line : Nat) (a : Nat) : State := fog s code (homeOf s line / 2) (homeOf s line) line a

/-! The directory (R372, R373). -/

/-- Tick of use: recency in the directory and the host-line cache. -/
def nowUse (s : State) : Nat := s.coh.clock
def tickUse (s : State) : State := { s with coh := { s.coh with clock := s.coh.clock + 1 } }

/-- Record a line's state. An entry that keeps the ring unit keeps the moment it was pinned (R371). -/
def setDir (s : State) (line : Nat) (d : DirSt) : State :=
  let d := match d with | .s [] => DirSt.i | d => d
  let old := tget (⟨.i, 0⟩ : DirEnt) s.coh.dir line
  let u := if old.st.agents.contains .ring && d.agents.contains .ring then old.used else nowUse s
  tickUse { s with coh := { s.coh with dir := if d = DirSt.i then tdel s.coh.dir line else tput s.coh.dir line ⟨d, u⟩ } }

def setHome (s : State) (line : Nat) (h : HomeLine) : State := { s with coh := { s.coh with homes := tset HomeLine.idle s.coh.homes line h } }

/-- The set of a line in its home's directory, by a hash of channel and channel-local address. -/
def dirSet (s : State) (line : Nat) : Nat :=
  let (h, c, l) := place s (line * 64)
  h * 65536 + Config.lineSet 0 (c * 2 ^ 32 + l) 65536 % 65536

/-- Entries of a line's set. -/
def setEntries (s : State) (line : Nat) : List (Nat × DirEnt) := s.coh.dir.filter (fun e => dirSet s e.1 == dirSet s line)

/-- The least recently used of some entries. -/
def leastUsed : List (Nat × DirEnt) → Option (Nat × DirEnt)
  | [] => none
  | e :: t => match leastUsed t with | some x => if x.2.used < e.2.used then some x else some e | none => some e

/-- The entry a full set gives up: the least recently used that no request in progress holds; a watched line only where every way holds
one (R371, R373). -/
def victimOf (s : State) (line : Nat) : Option (Nat × DirEnt) :=
  let es := setEntries s line
  let free (e : Nat × DirEnt) : Bool := (homeLine s e.1).active.isNone
  let plain := es.filter (fun e => !e.2.st.agents.contains .ring)
  if plain.isEmpty then leastUsed (es.filter free) else leastUsed (plain.filter free)

/-! Messages (R374). -/

/-- Take the first message that `p` accepts. -/
def takeMsg {α : Type} (p : CohMsg → Option α) : List CohMsg → Option (α × List CohMsg)
  | [] => none
  | m :: t => match p m with | some x => some (x, t) | none => (takeMsg p t).map (fun r => (r.1, m :: r.2))

def withMsgs (s : State) (l : List CohMsg) : State := { s with coh := { s.coh with msgs := l } }

/-- Snoop some agents; toward the host a back-invalidate (R374). -/
def snoop (s : State) (line : Nat) (k : Snp) (as_ : List Agent) : State :=
  as_.foldl (fun s a => if a = .host then send s (.cxl (if k = .x then mBISnpInv else mBISnpData) (hpaOf s line) []) else post s (.snp a line k)) s

/-- What a request needs to have snooped (R375). -/
def needSnoop (d : DirSt) (r : HReq) : List Agent × Snp :=
  let others := match r.who with | .agent a => dropAgent d.agents a | _ => d.agents
  match r.kind with
  | .rds _ => (d.owner.toList, .s)
  | .rdcur => (d.owner.toList, .cur)
  | .rdx => (others, .x)
  | .upg => (others, .x)
  | .wrinv .. => (d.agents, .x)
  | .ath .. => (d.agents, .x)

def wantsEntry (r : HReq) : Bool := match r.kind with | .rds _ => true | .rdx => true | .upg => true | _ => false

/-- A line in service. -/
def activeOf (r : HReq) (wait : List Agent) (entry recalling : Bool) : Active := ⟨r, wait, none, none, false, false, entry, recalling⟩

/-- Recall an entry of a full set (R373): SnpX to every recorded agent. A watched line so released is counted (R371). -/
def recallLine (s : State) (v : Nat × DirEnt) : State :=
  let h := homeOf s v.1
  let s := bump s (rCOH_HOME_STAT h) 36 21
  let s := if v.2.st.agents.contains .ring then bump s (rCOH_HOME_STAT h) 46 37 else s
  snoop (setHome s v.1 { homeLine s v.1 with active := some (activeOf ⟨.engine, v.1, .rdx⟩ v.2.st.agents false true) }) v.1 .x v.2.st.agents

/-- Write a whole line to memory, with its poison. -/
def storeLine (s : State) (line : Nat) (d : List Byte) (bad : Bool) : State := setPoison (memWrite s (line * 64) d) line bad

/-- Grant a line: to the host at once, to others as a message whose Ack is awaited (R377). Poison goes with the data (R176). -/
def grant (s : State) (line : Nat) (act : Active) (a : Agent) (st : LineSt) (data : Option (List Byte)) (poison : Bool) : State :=
  if a = .host then
    hostData (setHome s line { homeLine s line with active := none }) line (data.getD []) (if st = .s then 1 else 2) poison
  else
    let s := setHome s line { homeLine s line with active := some { act with granted := true, wait := [], wbFrom := none } }
    post (if data.isSome then taint s a line poison else s) (.grant a line st data)

/-- The 8 bytes an atomic leaves from those it finds. -/
def athNew (cas : Bool) (a b : BitVec 64) (v : Nat) : Nat := if cas then (if v = a.toNat then b.toNat else v) else v + a.toNat

/-- A request whose answer carries the line's data to a reader that the home itself answers (R176); an engine's own read follows its
retry, and logs what it meets. -/
def readsLine (r : HReq) : Bool := r.who != .engine && (match r.kind with | .rds _ => true | .rdx => true | .rdcur => true | _ => false)

/-- A request whose snoops are answered is completed (R375, R379); one of a host whose link is lost is granted nothing (R409 step 3). -/
def complete (s : State) (line : Nat) (act : Active) : State :=
  let mem := memRead s (line * 64) 64
  let d := act.data.getD mem
  let bad := if act.data.isSome then act.bad else poisoned s line
  let s := if act.data.isNone && bad && readsLine act.req then logUe s line false false else s
  let free (s : State) : State := setHome s line { homeLine s line with active := none }
  if act.req.who = .agent .host ∧ s.cxl.lost = true then
    (match act.req.kind with
     | .rdx => free (setDir (if act.data.isSome then storeLine s line d bad else s) line .i)
     | _ => free s)
  else match act.req.kind with
  | .rds want =>
    let a := match act.req.who with | .agent a => a | _ => .host
    let st := if act.req.who = .agent .host && want == .shared then LineSt.s else LineSt.e
    (match dirOf s line with
     | .i => grant (setDir (if act.data.isSome then storeLine s line d bad else s) line (.x a)) line act a st (some d) bad
     | .s v => grant (setDir (if act.data.isSome then storeLine s line d bad else s) line (.s (addAgent v a))) line act a .s (some d) bad
     | .x b => grant (setDir s line (.s (addAgent [b] a))) line act a .s (some d) bad
     | .o b v => grant (setDir s line (.o b (addAgent v a))) line act a .s (some d) bad)
  | .rdx =>
    let a := match act.req.who with | .agent a => a | _ => .host
    let s := if act.data.isSome then storeLine s line d bad else s
    grant (setDir s line (.x a)) line act a .e (some d) bad
  | .upg =>
    let a := match act.req.who with | .agent a => a | _ => .host
    grant (setDir s line (.x a)) line act a .m none false
  | .rdcur =>
    let s := free s
    if act.req.who = .agent .host then hostData s line d 0 bad
    else match act.req.who with | .engine => s | w => post s (.done w line 0)
  | .wrinv off bs poison =>
    let s := setDir s line .i
    let s := memWrite s (line * 64) (d.take off ++ bs ++ d.drop (off + bs.length))
    let s := if poison || (act.data.isSome && bad && decide (bs.length < 64)) then setPoison s line true else if act.data.isSome || decide (bs.length = 64) then setPoison s line false else s
    let s := free s
    (match act.req.who with
     | .engine => s
     | .hostWr => send s (.cxl mCmp (hpaOf s line) [])
     | w => post s (.done w line 0))
  | .ath off cas a b =>
    let s := setDir s line .i
    let v := leNat ((d.drop off).take 8)
    let s := if act.data.isSome then storeLine s line d bad else s
    let s := if bad then s else memWrite s (line * 64 + off) (leBytes 8 (athNew cas a b v % 2 ^ 64))
    post (free s) (.done act.req.who line (BitVec.ofNat 64 v))

/-- A request that needs a directory entry finds none of its line, and its set full (R372, R373). -/
def noWay (s : State) (line : Nat) (r : HReq) : Bool := wantsEntry r && dirOf s line == .i && decide (16 ≤ (setEntries s line).length)

/-- A recall is under way in a line's set. -/
def recallOn (s : State) (line : Nat) : Bool :=
  s.coh.homes.any (fun e => dirSet s e.1 == dirSet s line && (match e.2.active with | some a => a.recalling | none => false))

/-- It waits for an entry: one is recalled, where one can be and none of the set is already. -/
def awaitEntry (s : State) (line : Nat) (r : HReq) : State :=
  let s := setHome s line { homeLine s line with active := some (activeOf r [] true false) }
  if recallOn s line then s else match victimOf s line with | some v => recallLine s v | none => s

/-- Begin to serve a request on a line whose home serves none: an Upg of an agent not recorded counts as RdX; a request that needs an
entry waits for a recall where the set is full; the others are snooped for, or completed at once (R373, R375, R381). -/
def start (s : State) (line : Nat) (r : HReq) : State :=
  let d := dirOf s line
  let lostUpg := r.kind == .upg && !(match r.who with | .agent a => d.agents.contains a | _ => false)
  let s := if lostUpg then bump s (rCOH_HOME_RACE (homeOf s line)) 47 32 else s
  let r := if lostUpg then { r with kind := .rdx } else r
  if noWay s line r then awaitEntry s line r
  else
    let (as_, k) := needSnoop d r
    let act := activeOf r as_ false false
    let s := setHome s line { homeLine s line with active := some act }
    if as_.isEmpty then complete s line act else snoop s line k as_

/-- Serve the waiting requests of a line as far as they go, oldest first (R377). -/
def pump : Nat → State → Nat → State
  | 0, s, _ => s
  | n + 1, s, line =>
    let h := homeLine s line
    match h.active, h.queue with
    | none, r :: t => pump n (start (setHome s line { h with queue := t }) line r) line
    | _, _ => s

def pumpLine (s : State) (line : Nat) : State := pump ((homeLine s line).queue.length + 1) s line

/-- Requests that wait for a directory entry are tried again. -/
def retryEntries (s : State) : State :=
  ((s.coh.homes.filter (fun e => match e.2.active with | some a => a.entry | none => false)).map (·.1)).foldl (fun s l =>
    match (homeLine s l).active with
    | some a => if a.entry then pumpLine (start (setHome s l { homeLine s l with active := none }) l a.req) l else s
    | none => s) s

/-- Go on with a line once a response or write-back has come: a recall frees its entry, another request is completed. One whose entry was
freed meanwhile, and whose way another line has taken, waits for an entry, dirty data given to memory first. -/
def advance (s : State) (line : Nat) : State :=
  match (homeLine s line).active with
  | none => pumpLine s line
  | some act =>
    if act.entry || act.granted || !act.wait.isEmpty || act.wbFrom.isSome then s
    else if act.recalling then
      let s := match act.data with | some d => storeLine s line d act.bad | none => s
      retryEntries (pumpLine (setHome (setDir s line .i) line { homeLine s line with active := none }) line)
    else if noWay s line act.req then awaitEntry (match act.data with | some d => storeLine s line d act.bad | none => s) line act.req
    else retryEntries (pumpLine (complete s line act) line)

/-! Requests reach the home. -/

/-- A write of the host's that is not yet visible (R404). -/
def hostWriting (s : State) : Bool :=
  let is (r : HReq) : Bool := r.who == .hostWr
  s.coh.msgs.any (fun m => match m with | .req r => is r | _ => false) ||
    s.coh.homes.any (fun e => e.2.queue.any is || (match e.2.active with | some a => is a.req | none => false))

/-- The first request for a line that `is` accepts reaches its home: served, or queued behind the others (R377). -/
def deliver (s : State) (line : Nat) (is : HReq → Bool) : State :=
  if !serving s then s
  else match takeMsg (fun m => match m with | .req r => if r.line = line ∧ is r then some r else none | _ => none) s.coh.msgs with
    | none => s
    | some (r, t) =>
      if r.who = .agent .host ∧ hostWriting s = true then s
      else
        let s := withMsgs s t
        pumpLine (setHome s line { homeLine s line with queue := (homeLine s line).queue ++ [r] }) line

/-- ACK (R377): the caching request it names is finished. -/
def execAckMsg (a : Agent) (line : Nat) (s : State) : Out State :=
  .next (if !serving s then s
  else match takeMsg (fun m => match m with | .ack b l => if b = a ∧ l = line then some () else none | _ => none) s.coh.msgs with
    | none => s
    | some (_, t) =>
      let s := withMsgs s t
      match (homeLine s line).active with
      | some act =>
        if act.granted && act.req.who == .agent a then retryEntries (pumpLine (setHome s line { homeLine s line with active := none }) line)
        else homeFog s 0x0701 line (agentId a)
      | none => homeFog s 0x0701 line (agentId a))

/-- A write-back at its home (R378): applied at once; from an agent not recorded as owner it changes memory alone. -/
def applyWb (s : State) (a : Agent) (line off : Nat) (bs : List Byte) (poison : Bool) : State :=
  let s := memWrite s (line * 64 + off) bs
  let s := if poison then setPoison s line true else if bs.length = 64 then setPoison s line false else s
  let s := match dirOf s line with
    | .x b => if a = b then setDir s line .i else s
    | .o b v => if a = b then setDir s line (.s (dropAgent v a)) else s
    | _ => s
  match (homeLine s line).active with
  | some act => retryEntries (advance (if act.wbFrom = some a then setHome s line { homeLine s line with active := some { act with wbFrom := none } } else s) line)
  | none => retryEntries s

/-! Snoops at their holders (R376). -/

/-- A caching agent's copies: S0's or S1's. -/
def setCopy (s : State) (a : Agent) (line : Nat) (c : Option CLine) : State :=
  let f (t : Tbl CLine) : Tbl CLine := match c with | some x => tput t line x | none => tdel t line
  let s := if c.isNone then loseRsv s (fun k v => k / 48 == agentId a && v == rsvLine false line) else s
  match a with
  | .s0 => { s with coh := { s.coh with s0 := f s.coh.s0 } }
  | .s1 => { s with coh := { s.coh with s1 := f s.coh.s1 } }
  | _ => s

def wbOnWay (s : State) (a : Agent) (line : Nat) : Bool :=
  s.coh.msgs.any (fun m => match m with | .wb b l _ => decide (b = a ∧ l = line) | _ => false)

/-- Answer a snoop from the state at this moment: response, data, and what is kept. -/
def answer (s : State) (a : Agent) (line : Nat) (k : Snp) : State :=
  if a = .ring then
    (if ringHolds s line then post (wakeWatch s false line) (.rsp a line .i none) else post s (.rsp a line .miss none))
  else match copyOf s a line with
    | none => post s (.rsp a line (if wbOnWay s a line then .wbif else .miss) none)
    | some c =>
      let data := if isDirty c then some c.data else none
      match k with
      | .s => post (setCopy s a line (some { c with st := if isDirty c then .o else .s })) (.rsp a line (if isDirty c then .o else .s) data)
      | .x =>
        let s := setCopy s a line none
        post (if isDirty c then s else taint s a line false) (.rsp a line .i data)
      | .cur => post s (.rsp a line (if isDirty c then .o else .s) data)

/-- A snoop reaches its holder. -/
def snooped (s : State) (a : Agent) (line : Nat) (k : Snp) : State :=
  if !serving s then s
  else match takeMsg (fun m => match m with | .snp b l j => if b = a ∧ l = line ∧ j = k then some () else none | _ => none) s.coh.msgs with
    | none => s
    | some (_, t) => answer (withMsgs s t) a line k

/-- SNPS. -/
def execSnps (a : Agent) (line : Nat) (s : State) : Out State := .next (snooped s a line .s)
/-- SNPX. -/
def execSnpx (a : Agent) (line : Nat) (s : State) : Out State := .next (snooped s a line .x)
/-- SNPCUR. -/
def execSnpcur (a : Agent) (line : Nat) (s : State) : Out State := .next (snooped s a line .cur)

/-! Responses at the home. -/

def kindSnp (act : Active) : Snp := if act.recalling then .x else (needSnoop .i act.req).2

/-- Responses allowed to a snoop: the state after it must be one the snoop leaves, I after SnpX alone, and O is for S-dies (R368, R374). -/
def allowedRsp (a : Agent) (snp : Snp) (k : Rsp) : Bool :=
  match k with
  | .s => snp != .x && a != .ring
  | .o => snp != .x && (a == .s0 || a == .s1)
  | .i => snp == .x
  | _ => true

/-- What a response does to the directory and to the data in hand (R375, R378): the answer to a SnpCur leaves the entry, but for the
host, which keeps S. -/
def takeRsp (s : State) (a : Agent) (line : Nat) (act : Active) (k : Rsp) (data : Option (List Byte)) : State :=
  let d := dirOf s line
  let cur := kindSnp act == .cur && a != .host
  let act := { act with wait := dropAgent act.wait a }
  let bad := data.isSome && tainted s a line
  let act := if data.isSome then { act with bad := bad } else act
  let put (s : State) (act : Active) : State := setHome s line { homeLine s line with active := some act }
  let h := homeOf s line
  match k with
  | .miss => put (setDir (bump s (rCOH_HOME_RACE h) 15 0) line (withoutAgent d a)) act
  | .i => put (setDir (taint s a line false) line (withoutAgent d a)) (if data.isSome then { act with data := data } else act)
  | .s =>
    if cur then put s (if data.isSome then { act with data := data } else act)
    else
      let s := match data with | some x => storeLine s line x bad | none => s
      put (match d with | .x b => if b = a then setDir s line (.s [a]) else s | _ => s) act
  | .o =>
    if cur then put s { act with data := data }
    else put (match d with | .x b => if b = a then setDir s line (.o a []) else s | _ => s) (if data.isSome then { act with data := data } else act)
  | .wbif => put (bump s (rCOH_HOME_RACE h) 31 16) (if d.owner = some a then { act with wbFrom := some a } else act)

/-- A response reaches the home: one that no snoop awaits, or that its snoop does not allow, is fog (R383). -/
def respond (s : State) (a : Agent) (line : Nat) (k : Rsp) (data : Option (List Byte)) : State :=
  match (homeLine s line).active with
  | some act =>
    if act.wait.contains a && allowedRsp a (kindSnp act) k then advance (takeRsp s a line act k data) line
    else homeFog s 0x0701 line (agentId a)
  | none => homeFog s 0x0701 line (agentId a)

/-- The message of a response: the host's comes with its command, another agent's is on its way (R374). -/
def rspFrom (s : State) (a : Agent) (line : Nat) (k : Rsp) (data : Option (List Byte)) : State :=
  if !serving s then s
  else if a = .host then (if s.cxl.link = .l0 then respond s a line k (data.map (fun d => d.take 64 ++ List.replicate (64 - d.length) 0)) else s)
  else match takeMsg (fun m => match m with | .rsp b l j d => if b = a ∧ l = line ∧ j = k then some d else none | _ => none) s.coh.msgs with
    | none => s
    | some (d, t) => respond (withMsgs s t) a line k d

/-- RSPMISS. -/
def execRspmiss (a : Agent) (line : Nat) (data : Option (List Byte)) (s : State) : Out State := .next (rspFrom s a line .miss (data.bind (fun _ => none)))
/-- RSPS. -/
def execRsps (a : Agent) (line : Nat) (data : Option (List Byte)) (s : State) : Out State := .next (rspFrom s a line .s data)
/-- RSPO. -/
def execRspo (a : Agent) (line : Nat) (data : Option (List Byte)) (s : State) : Out State := .next (rspFrom s a line .o data)
/-- RSPI. -/
def execRspi (a : Agent) (line : Nat) (data : Option (List Byte)) (s : State) : Out State := .next (rspFrom s a line .i data)
/-- RSPWBIF. -/
def execRspwbif (a : Agent) (line : Nat) (s : State) : Out State := .next (rspFrom s a line .wbif none)

/-! Grants and Dones at their requesters. -/

/-- Lines of device memory that an S-die can hold: the L2 of its 48 cores and what its L3 leaves for them (R6, R369). -/
def copyRoom (a : Agent) : Nat := if a = .s0 then (48 * 2 + 32) * 2 ^ 14 else (48 * 2 + 96) * 2 ^ 14

def copiesOf (s : State) (a : Agent) : Tbl CLine := match a with | .s0 => s.coh.s0 | .s1 => s.coh.s1 | _ => []

/-- An S-die drops a line: dirty data is written back, a clean copy goes silently (R368). -/
def evictCopy (s : State) (a : Agent) (line : Nat) (c : CLine) : State :=
  let s := setCopy s a line none
  if isDirty c then post s (.wb a line c.data) else taint s a line false

/-- Room for one more line of an S-die: a full one evicts a line, which the spec does not choose (log entry 1). -/
def copyWay (s : State) (a : Agent) (line : Nat) : State :=
  let l := (copiesOf s a).filter (fun e => e.1 != line)
  if l.length < copyRoom a then s
  else match l[(freeWord s).toNat % l.length]? with
    | some e => evictCopy (useFree s 1) a e.1 e.2
    | none => s

/-- A Grant (R375): the line is held as granted, and the Ack goes out. An upgrade's grant carries no data: the copy's own stands. -/
def takeGrant (a : Agent) (line : Nat) (s : State) : State :=
  if !serving s then s
  else match takeMsg (fun m => match m with | .grant b l st d => if b = a ∧ l = line then some (st, d) else none | _ => none) s.coh.msgs with
    | none => s
    | some ((st, d), t) =>
      let s := withMsgs s t
      let data := match d with | some d => d | none => (match copyOf s a line with | some c => c.data | none => memRead s (line * 64) 64)
      post (setCopy (copyWay s a line) a line (some ⟨st, data⟩)) (.ack a line)

/-- The `n`-th Done on its way. -/
def takeDone : Nat → List CohMsg → Option ((Asker × Nat × BitVec 64) × List CohMsg)
  | _, [] => none
  | n, .done w l v :: t =>
    (match n with
     | 0 => some ((w, l, v), t)
     | k + 1 => (takeDone k t).map (fun r => (r.1, CohMsg.done w l v :: r.2)))
  | n, m :: t => (takeDone n t).map (fun r => (r.1, m :: r.2))

/-- DONE (R374): a non-caching agent learns that its write is visible, or an atomic's result. A ring's SIGNAL is then done, or met poison. -/
def execDoneMsg (n : Nat) (s : State) : Out State :=
  .next (match takeDone n s.coh.msgs with
  | none => s
  | some ((w, l, _), t) =>
    let s := withMsgs s t
    match w with
    | .ring r =>
      if poisoned s l then
        chargeCall (logUe s l false false) (ringOf s r).ctx (.desc r) true ⟨0x0304, 7, 0, 8, some (l * 64), 0⟩
      else report s r (Report.status_ 0)
    | _ => s)

/-! Timeouts, machine checks and conflicts. -/

/-- SNOOP_TIMEOUT (R382, R383): a home's wait for an agent, or the host-line cache's for the host, ran out. Waits for the host do not
count while the link is out of L0 (R407). -/
def execSnoopTimeout (line : Nat) (s : State) : Out State :=
  .next (if !serving s then s
  else
    let l0 := s.cxl.link == .l0
    match (homeLine s line).active with
    | some act =>
      (match (act.wait.filter (fun a => a != .host || l0)) ++ act.wbFrom.toList with
       | a :: _ => homeFog s 0x0702 line (agentId a)
       | [] => if l0 && s.coh.hout.any (fun o => o.hline == line) then fog s 0x0703 8 31 line 2 else s)
    | none => if l0 && s.coh.hout.any (fun o => o.hline == line) then fog s 0x0703 8 31 line 2 else s)

/-- MACHINE_CHECK (R383, R434): fog with FOG_MCHECK, and source 12. -/
def execMachineCheck (cause : MCheck) (s : State) : Out State :=
  .next (if s.rst.phase = .ready then raiseSrc (fog s 0x0705 (8 + cause.die % 2) 31 cause.line 7) 12 else s)

/-- BICONFLICT (R377): the handshake is answered and counted; it has nothing to settle where no back-invalidate is out, which is fog. -/
def execBiconflict (line : Nat) (s : State) : Out State :=
  .next (if !serving s || s.cxl.link != .l0 then s
  else match (homeLine s line).active with
    | some act =>
      if act.wait.contains .host then send (bump s (rCOH_HOME_RACE (homeOf s line)) 63 48) (.cxl mBIConflictAck (hpaOf s line) [])
      else homeFog s 0x0701 line 2
    | none => homeFog s 0x0701 line 2)

end Sys2Proof.Machine
end

