-- ==== Sys2Proof/Machine/Doorbells.lean ====
section
/-! DEFINITION. The ring unit (12): doorbells and what stops a ring (R307 to R313, R329), watched lines (R311, R371), the on-chip ring
cache (R314, R315), descriptor reads (R316) and the RING_CTRL window (R301 to R306, R330, R336). -/

namespace Sys2Proof.Machine

/-! Indices modulo 2^24. -/

/-- How far index `x` is ahead of DONE (R309). -/
def ahead (r : Ring) (x : Nat) : Nat := (x + 2 ^ 24 - r.done) % 2 ^ 24

/-- Hint ticks of M · 2^E (R313). -/
def hintTicks (h : Nat) : Nat := h % 2 ^ 11 * 2 ^ (h / 2 ^ 11 % 32)

/-- Moment at which the descriptor of index `k` was made ready (R319). -/
def stampOf (r : Ring) (marks : List (Nat × Nat)) (k : Nat) : Nat :=
  match marks.find? (fun m => ahead r k < ahead r m.1) with | some m => m.2 | none => 0

/-- Marks of descriptors whose record is not written yet. -/
def liveMarks (r : Ring) (marks : List (Nat × Nat)) : List (Nat × Nat) :=
  marks.filter (fun m => decide (0 < ahead r m.1) && decide (ahead r m.1 ≤ 2 ^ r.logsize))

/-- Marks cut to `lim` descriptors ahead of DONE: what a TAIL set back leaves ready (R308). -/
def cutMarks (r : Ring) (lim : Nat) : Nat → List (Nat × Nat) → List (Nat × Nat)
  | _, [] => []
  | at_, m :: t => if at_ < lim then ((r.done + min (ahead r m.1) lim) % 2 ^ 24, m.2) :: cutMarks r lim (ahead r m.1) t else []

/-! Stopping a ring (R329). -/

/-- A ring stops: ERR and ERRCODE, its log, its record of reach Ring, and its vector, but not after a link loss (R409 step 5). What it
has read ahead is not run. -/
def stopRing (s : State) (n code index : Nat) (vec : Bool := true) : State :=
  let r := ringOf s n
  let log : BitVec 64 := BitVec.ofNat 64 (1 + fieldAt 20 1 n + fieldAt 36 21 code + fieldAt 60 37 index)
  let s := putRing s n { r with err := true, errcode := code }
  let s := setUnit s n { unitOf s n with ready := [] }
  let s := logOnce s rRING_ERR_LOG log
  let s := pushErr s { errRec code 4 0 8 7 0 with addrv := true, addr := n, detail := log }
  if vec then sendVec s r.msix else s

/-! Doorbells (R307 to R309). -/

/-- Set a ring's TAIL from an accepted doorbell that changes it (R308, R314, R319). -/
def setTail (s : State) (n : Nat) (r : Ring) (tail : Nat) : State :=
  let u := unitOf s n
  let lim := max (ahead r tail) (ahead r r.head)
  let k := s.rings.arrivals + 1
  let marks := cutMarks r lim 0 (liveMarks r u.marks)
  let last := match marks.getLast? with | some m => ahead r m.1 | none => 0
  let marks := if last < ahead r tail then marks ++ [(tail, k)] else marks
  let s := { s with rings := { s.rings with arrivals := k } }
  putRing (setUnit s n { u with marks := marks, pend := u.pend || !u.onchip }) n { r with tail := tail }

/-- A doorbell word reaches the ring unit (R308, R309): the cases in the order R309 gives. -/
def ringBell (s : State) (n : Nat) (w : Word) : State :=
  let r := ringOf s n
  let tail := bits w 23 0
  let hint := if bit w 44 then some (hintTicks (bits w 39 24)) else none
  if !r.v then bump s rRING_DBDROP 15 0
  else if r.err then bump s rRING_DBDROP 47 32
  else if bits w 63 48 ≠ 0 ∨ bits w 43 40 ≠ 0 ∨ bits w 47 45 ≠ 0 then bump s rRING_DBDROP 31 16
  else if 2 ^ r.logsize < ahead r tail then stopRing s n 0x0607 tail
  else
    let s := setUnit s n { unitOf s n with hint := hint }
    if tail = r.tail then s else setTail s n r tail

/-- DOORBELL (R307, R308): a 64-bit write to the doorbell of a ring in BAR2; a narrower one has no effect. -/
def execDoorbell (off size : Nat) (word : Word) (s : State) : Out State :=
  .next (if serving s && size == 8 && off % 8 == 0 && decide (off < 2 ^ 23) then
    ringBell (wakeBy false s) (512 * (off / 4096) + off % 4096 / 8) word
  else s)

/-- STATUS of a DBELL (R253, R255, R310). -/
def dbellStatus (s : State) (x : Txn) : Nat :=
  if x.rsv ≠ 0 ∨ x.hi.toNat >>> 20 ≠ 0 then 2
  else
    let r := ringOf s (bits x.hi 19 0)
    if r.v && r.rdb then 0 else 4

/-- DBELL (R310): a doorbell from another package, answered by WRACK once the reply can go (R251). -/
def execDbell (src : Option Nat) (s : State) : Out State :=
  .next (match arrive s src tDBELL with
  | .none => s
  | .drop s => s
  | .ok x s1 =>
    let st := dbellStatus s1 x
    let rep := replyTo s1 x tWRACK false st 0 []
    let s2 := if st = 0 then ringBell (wakeBy false s1) (bits x.hi 19 0) (BitVec.ofNat 64 (leNat (x.data.take 8))) else countRefused s1 src st
    if replyRoom s2 rep then (sendOn s2 rep).getD s else s)

/-! The host-line cache's sets (R369, R371). -/

def hlcSet (h : Nat) : Nat := Config.lineSet 1 h 65536 % 65536

/-- The least recently used of some host lines. -/
def oldestLine : List (Nat × HlcLine) → Option (Nat × HlcLine)
  | [] => none
  | e :: t => match oldestLine t with | some x => if x.2.used < e.2.used then some x else some e | none => some e

/-- Drop a line of the host-line cache, dirty data written back (R370). -/
def evictHost (s : State) (h : Nat) (l : HlcLine) : State :=
  let s := loseRsv s (fun _ v => v == rsvLine true h)
  let s : State := { s with coh := { s.coh with hlc := tdel s.coh.hlc h } }
  if l.st = .m then send { s with coh := { s.coh with hout := s.coh.hout ++ [⟨h, .evict, whoSched, 0, none⟩] } } (.cxl mDirtyEvict (h * 64) l.data)
  else send s (.cxl mCleanEvict (h * 64) [])

/-- Room in the set of a host line: where every way is taken, an unpinned line that no request holds is evicted; where there is none, the
one pinned longest ago is released, counted, and its rings read it again (R371). None where every way is held by a request. -/
def hlcRoom (s : State) (h : Nat) : Option State :=
  let es := s.coh.hlc.filter (fun e => hlcSet e.1 == hlcSet h)
  if es.length < 16 then some s
  else
    let free := es.filter (fun e => !e.2.pinned && !s.coh.hout.any (fun o => o.hline == e.1))
    (if free.isEmpty then oldestLine (es.filter (fun e => e.2.pinned)) else oldestLine free).map (fun e =>
      evictHost (if e.2.pinned then wakeWatch (bump s rCOH_HLC_STAT 33 18) true e.1 else s) e.1 e.2)

/-- Pin a line that the cache holds: the moment counts only where it was not pinned yet (R371). -/
def pinLine (s : State) (h : Nat) (l : HlcLine) : State :=
  if l.pinned then s else tickUse { s with coh := { s.coh with hlc := tput s.coh.hlc h { l with pinned := true, used := nowUse s } } }

/-- A host line in the cache: over a line held, whose pin and its moment stand, or in a way of its own; none where there is no way. -/
def hlcPut (s : State) (h : Nat) (st : LineSt) (d : List Byte) : Option State :=
  match hlcLine s h with
  | some l =>
    let l := { l with st := st, data := d, used := if l.pinned then l.used else nowUse s }
    some (tickUse { s with coh := { s.coh with hlc := tput s.coh.hlc h l } })
  | none => (hlcRoom s h).map (fun s => tickUse { s with coh := { s.coh with hlc := tput s.coh.hlc h ⟨st, d, false, nowUse s⟩ } })

/-! Watched lines (R311). -/

/-- A watched line cannot be read: no doorbell is taken, and it is not held again until the ring is rewritten or reset. -/
def watchFails (s : State) (n : Nat) : State :=
  let s := setUnit s n { unitOf s n with reread := false, held := false, fresh := false }
  if (ringOf s n).err then s else stopRing s n 0x0608 (ringOf s n).head

/-- The line is held. After an invalidation, its word 0 is a doorbell; at the first hold it is none (log entry 35). -/
def watchHeld (s : State) (n : Nat) (w : Word) : State :=
  let u := unitOf s n
  let s := setUnit s n { u with reread := false, held := true, fresh := false }
  if u.fresh then s else ringBell s n w

/-- An S-die that owns a watched line answers the home's SnpS: the directory, and the copy it keeps (R375, R376). -/
def shareFrom (s : State) (line : Nat) (b : Agent) (v : List Agent) : State :=
  match copyOf s b line with
  | none => setDir (bump s (rCOH_HOME_RACE (homeOf s line)) 15 0) line (.s (addAgent v .ring))
  | some c =>
    let s := setCopy s b line (some { c with st := if isDirty c then .o else .s })
    setDir s line (if isDirty c then .o b (addAgent v .ring) else .s (addAgent (addAgent v b) .ring))

/-- The ring unit joins the holders of a device line, as a caching agent that holds S. -/
def shareLine (s : State) (line : Nat) : State :=
  match dirOf s line with
  | .i => setDir s line (.s [.ring])
  | .s v => setDir s line (.s (addAgent v .ring))
  | .x b => shareFrom s line b []
  | .o b v => shareFrom s line b v

/-- A watched line of device memory. -/
def watchDevice (s : State) (n line : Nat) : State :=
  match readyLines s false [line] with
  | some s => s
  | none =>
    if dirOf s line = .i ∧ 16 ≤ (setEntries s line).length then
      (if recallOn s line then s else match victimOf s line with | some v => recallLine s v | none => s)
    else
      let (d, bad) := lineNow s line
      if bad then watchFails (logUe s line false false) n
      else watchHeld (shareLine s line) n (BitVec.ofNat 64 (leNat (d.take 8)))

/-- A ring waits for a host line that it watches. -/
def watchesHost (s : State) (n h : Nat) : Bool :=
  let r := ringOf s n
  r.v && r.watch && r.whost && (unitOf s n).reread && watchedLine s r == h

/-- A watched line of host memory that the cache holds is pinned, and its word 0 taken. -/
def watchTake (s : State) (n h : Nat) (l : HlcLine) : State := watchHeld (pinLine s h l) n (BitVec.ofNat 64 (leNat (l.data.take 8)))

/-- A watched line of host memory: held in the host-line cache and pinned, or asked for by RdShared (R370). -/
def watchHost (s : State) (n : Nat) : State :=
  let r := ringOf s n
  match hostPieces s r.wline 64 false with
  | .wait s => s
  | .bad _ _ s => watchFails s n
  | .ok _ s =>
    let h := watchedLine s r
    match hlcLine s h with
    | some l => watchTake s n h l
    | none =>
      if linkHeld s || s.coh.hout.any (fun o => o.who == whoWatch n) || s.coh.fills.any (fun x => x.1 == h) then s
      else if !hostUp s then watchFails s n
      else send { s with coh := { s.coh with hout := s.coh.hout ++ [⟨h, .rdShared, whoWatch n, 0, none⟩] } } (.cxl mRdShared (h * 64) [])

/-- WATCHED_LINE_INVALIDATE (R311): the ring unit reads the line again, takes word 0 as a doorbell, and holds the line. -/
def readWatched (ring : Nat) (s : State) : State :=
  let r := ringOf s ring
  if !(serving s && r.v && r.watch && (unitOf s ring).reread) then s
  else if r.whost then watchHost (wakeBy false s) ring
  else watchDevice (wakeBy false s) ring (lineOf r.wline)

/-! Service order (R316) and the on-chip cache (R314, R315). -/

/-- Distance of ring `n` behind the ring of its class served last. -/
def turnOf (s : State) (prio n : Nat) : Nat := (n + 2 ^ 20 - (nth s.rings.last prio + 1)) % 2 ^ 20

/-- Ring `a` is served before ring `b`: by class, then round-robin by ring number. -/
def servedBefore (s : State) (a b : Nat) : Bool :=
  let pa := (ringOf s a).prio
  let pb := (ringOf s b).prio
  decide (pa < pb) || (pa == pb && decide (turnOf s pa a < turnOf s pb b))

/-- `n` is of `l`, and none of `l` comes before it. -/
def isNext (s : State) (l : List Nat) (n : Nat) : Bool := l.contains n && l.all (fun m => m == n || !servedBefore s m n)

/-- Rings by what the ring unit keeps of them. -/
def ringsWith (s : State) (f : RingUnit → Bool) : List Nat := (s.rings.unit_.filter (fun e => f e.2)).map (·.1)

/-- A ring on chip that may be written back and dropped (R315): with nothing read ahead either, which is to run on it. -/
def droppable (s : State) (n : Nat) : Bool :=
  let r := ringOf s n
  let u := unitOf s n
  u.onchip && u.running.isNone && u.ready.isEmpty && r.head == r.tail && !u.pend

/-- The least recently serviced of some rings. -/
def leastServed (s : State) : List Nat → Option Nat
  | [] => none
  | n :: t => match leastServed s t with | some m => if (unitOf s m).served < (unitOf s n).served then some m else some n | none => some n

/-- Write a ring back to its table entry and drop it from the cache. -/
def dropRing (s : State) (n : Nat) : State :=
  putRing (setUnit s n { unitOf s n with onchip := false }) n (ringOf s n)

/-- Take a ring into the cache. -/
def cacheRing (s : State) (n : Nat) : State :=
  setUnit s n { unitOf s n with onchip := true, pend := false, served := s.rings.services }

/-- PENDING_RING_FETCH (R314, R315): the next pending ring in the order of R316 comes on chip, where there is room or an idle ring
can go. -/
def execPendingRingFetch (ring : Nat) (s : State) : Out State :=
  .next (if !(serving s && awake s && isNext s (ringsWith s (·.pend)) ring) then s
  else
    let on := ringsWith s (·.onchip)
    if on.length < 16384 then cacheRing s ring
    else match leastServed s (on.filter (droppable s)) with
      | some v => cacheRing (dropRing s v) ring
      | none => s)

/-! Descriptor reads (R302, R316). -/

/-- The ring unit's read of descriptors, as the host-line cache tells it from the descriptor's own accesses. -/
def whoFetch (n : Nat) : Nat := 0x500000 + n

/-- A ring whose next descriptor may be read: on chip, not stopped, TAIL beyond HEAD, fewer than 4 read ahead of the one running, and no
read of it out to the host. -/
def fetchable (s : State) (n : Nat) : Bool :=
  let r := ringOf s n
  let u := unitOf s n
  r.v && u.onchip && !r.err && decide (ahead r r.head < ahead r r.tail) && decide (u.ready.length < 4)
    && !s.coh.hout.any (fun o => o.who == whoFetch n)

/-- Read `n` bytes at a ring's own address, of host or device memory. -/
def ringRead (s : State) (who ctx : Nat) (host : Bool) (a n : Nat) : Acc (List Byte) :=
  if host then hostRead s ⟨who, ctx⟩ a n else devRead s a n

/-- The ring unit may read the next descriptor of a ring now. -/
def fetchesNow (s : State) (ring : Nat) : Bool := serving s && awake s && isNext s ((ringsWith s (·.onchip)).filter (fetchable s)) ring

/-- The next ring in order has its next descriptor read, and HEAD counts it (R316). -/
def fetchDesc (ring : Nat) (s : State) : State :=
  if !fetchesNow s ring then s
  else
    let r := ringOf s ring
    match ringRead s (whoFetch ring) r.ctx r.dhost (r.dbase + 64 * (r.head % 2 ^ r.logsize)) 64 with
    | .wait s => s
    | .bad _ _ s => stopRing (endHost s (whoFetch ring)) ring 0x0608 r.head (hostUp s || !r.dhost)
    | .ok bs s =>
      let s := endHost s (whoFetch ring)
      let u := unitOf s ring
      let d : Desc := ⟨r.head, BitVec.ofNat 512 (leNat bs), stampOf r u.marks r.head⟩
      let k := s.rings.services + 1
      let s : State := { s with rings := { s.rings with services := k, last := s.rings.last.set r.prio ring } }
      setRing (setUnit s ring { u with ready := u.ready ++ [d], served := k }) ring { r with head := (r.head + 1) % 2 ^ 24 }

/-! The RING_CTRL window (R304, R330, R336). -/

/-- A ring context read from 512 bits (R301), as a WRITE takes it: HEAD, TAIL, DONE, ERR and ERRCODE zero (R304). -/
def ringFrom (w : BitVec 512) : Ring where
  v := bit w 0
  dhost := bit w 1
  chost := bit w 2
  shost := bit w 3
  watch := bit w 4
  whost := bit w 5
  rdb := bit w 6
  prio := bits w 8 7
  err := false
  logsize := bits w 14 10
  msix := bits w 25 15
  ctx := bits w 37 26
  dbase := bits w 127 64
  cbase := bits w 191 128
  head := 0
  tail := 0
  done := 0
  errcode := 0
  defwdog := bits w 319 288
  wline := bits w 383 320
  sigaddr := bits w 447 384
  sigword := BitVec.ofNat 64 (bits w 511 448)

/-- RING_DATA0 to 7 as one number. -/
def ringWindow (s : State) : BitVec 512 :=
  BitVec.ofNat 512 (leNat ((List.range 8).flatMap (fun i => leBytes 8 (regVal s (rRING_DATA0 + 8 * i)).toNat)))

/-- A base of a ring is right (R301, R302): 4 KiB aligned, and for a PPA wholly reachable. -/
def baseOk (s : State) (host : Bool) (a n : Nat) : Bool := a % 4096 == 0 && (if host then decide (a + n ≤ 2 ^ 52) else reachable s a n)

/-- Rings a context may hold (R303). -/
def ringLimit (s : State) (ctx : Nat) : Nat := if ctx = 0 then 256 else min 256 (profileOf s (ctxOf s ctx).profile).2

/-- Whether a WRITE of `w` to ring `n` is refused (R304). -/
def writeRefused (s : State) (n : Nat) (w : BitVec 512) : Bool :=
  let old := ringOf s n
  let r := ringFrom w
  let others := s.rings.ctx.filter (fun e => e.1 != n && e.2.v)
  (old.v && (old.head != old.done || (unitOf s n).running.isSome)) ||
    (r.v &&
      (bits w 63 38 != 0 || bits w 287 280 != 0 || !between 4 20 r.logsize || !baseOk s r.dhost r.dbase (64 * 2 ^ r.logsize) ||
        !baseOk s r.chost r.cbase (32 * 2 ^ r.logsize) || (if r.watch then r.wline % 64 != 0 else r.wline != 0) || r.sigaddr % 8 != 0 ||
        !(r.ctx == 0 || (ctxOf s r.ctx).st == .openS) || decide (ringLimit s r.ctx ≤ (others.filter (fun e => e.2.ctx == r.ctx)).length) ||
        (r.watch && decide (65536 ≤ (others.filter (fun e => e.2.watch)).length))))

/-- What a WRITE leaves of a ring: gone, or as the window gives it, its watched line to be held (R304, R311). -/
def writeRing (s : State) (n : Nat) (r : Ring) : State :=
  let on := (unitOf s n).onchip
  let s := removeRing s n
  if r.v then putRing (setUnit s n { RingUnit.none with onchip := on, served := s.rings.services, reread := r.watch, fresh := r.watch }) n r else s

/-- Whether the RING_CTRL window answers a command that changes a ring: the part serves (R511, R384). -/
def showRing (s : State) (n : BitVec 20) : State := setField s rRING_CTRL 19 0 n.toNat

/-- RING_CTRL_READ (R306, R336): the current context. -/
def execRingCtrlRead (ring : BitVec 20) (s : State) : Out State :=
  .next (if !pageOpen s rRING_CTRL then s
  else
    let s := wakeBy false s
    let w := ringBits (ringOf s ring.toNat)
    (List.range 8).foldl (fun s i => setReg s (rRING_DATA0 + 8 * i) (BitVec.ofNat 64 (bits w (64 * i + 63) (64 * i)))) (showRing s ring))

/-- A ring's group is in reset (R441). -/
def groupInReset (s : State) (n : Nat) : Bool := s.rst.block == some (6, n / 512)

/-- A WRITE of `w` to ring `n` is made, or refused. -/
def tryWrite (s : State) (n : Nat) (w : BitVec 512) : State :=
  let no := writeRefused s n w || !serving s
  let s := setField s rRING_CTRL 23 23 (b2n no)
  if no then s else writeRing s n (ringFrom w)

/-- RING_CTRL_WRITE (R304). While the ring's group is in reset a WRITE that enables the ring is latched, the last one standing, and one
that removes it cancels it (R362). -/
def execRingCtrlWrite (ring : BitVec 20) (s : State) : Out State :=
  .next (if !pageOpen s rRING_CTRL then s
  else
    let n := ring.toNat
    let s := showRing (wakeBy false s) ring
    let w := ringWindow s
    if groupInReset s n then
      (if bit w 0 then { s with rings := { s.rings with latched := tput s.rings.latched n w } }
       else tryWrite { s with rings := { s.rings with latched := tdel s.rings.latched n } } n w)
    else tryWrite s n w)

/-- BLOCK_RESET_COMPLETE (R441, R362): the block is enabled, and a latched enable takes effect. -/
def execBlockResetComplete (s : State) : Out State :=
  .next (match s.rst.block with
  | none => s
  | some (k, i) =>
    let s := blockEnabled { s with rst := { s.rst with block := none } } k i
    s.rings.latched.foldl (fun s e => tryWrite s e.1 e.2) { s with rings := { s.rings with latched := [] } })

/-- RING_CTRL_RESET (R330). -/
def execRingCtrlReset (ring : BitVec 20) (s : State) : Out State :=
  .next (if !pageOpen s rRING_CTRL then s
  else
    let s := wakeBy false s
    let s := showRing s ring
    let no := (unitOf s ring.toNat).running.isSome || !serving s
    let s := setField s rRING_CTRL 23 23 (b2n no)
    if no || !(ringOf s ring.toNat).v then s else resetRing s ring.toNat)

end Sys2Proof.Machine
end

