-- ==== Sys2Proof/Machine/HostPort.lean ====
section
/-! DEFINITION. The CXL port (15): host and peer requests at device memory (R396, R397, R402 to R404), the host-line cache toward the
host (R370, R399), ATS (R401), and the HDM decoder (R395). -/

namespace Sys2Proof.Machine

/-! The port. -/

/-- CXL.io traffic reaches the package. -/
def ioUp (s : State) : Bool := s.cxl.link == .l0 && s.rst.phase != .off

/-- CXL.mem traffic reaches the package (R392). -/
def memUp (s : State) : Bool := ioUp s && s.cxl.mode && s.cxl.memEn && s.cxl.committed

/-- PPA of an HPA within the committed decoder (R161, R395). -/
def ppaOf (s : State) (hpa : BitVec 52) : Option Nat :=
  if s.cxl.committed && decide (s.cxl.base.toNat ≤ hpa.toNat) && decide (hpa.toNat < s.cxl.base.toNat + ppaTop)
  then some (hpa.toNat - s.cxl.base.toNat) else none

/-- Log a dropped write to a reserved region (R165, R179): agent 0 host, 1 UIO, 2 server core. -/
def logRsv (s : State) (agent ppa : Nat) : State :=
  let s := bump s rMEM_RSV_LOG 63 36
  if bit (regVal s rMEM_RSV_LOG) 0 then s
  else setReg s rMEM_RSV_LOG (setBits (regVal s rMEM_RSV_LOG) 35 0 (1 + fieldAt 2 1 agent + fieldAt 35 3 (ppa / 256)))

/-! CXL.mem (R397). -/

/-- MEMRD: the host asks the line's home for S, for ownership, or for data alone. In fog its answer carries poison (R385). -/
def execMemrd (hpa : BitVec 52) (want : Want) (s : State) : Out State :=
  .next (if !memUp s then s
  else match ppaOf s hpa with
    | none => s
    | some p =>
      if inFog s then hostData (useFree s 64) (lineOf p) (freeBytes s 64) 0 true
      else if !serving s then s
      else
        let kind : HKind := match want with | .shared => .rds .shared | .any => .rdx | .none => .rdcur
        post (wakeBy false s) (.req ⟨.agent .host, lineOf p, kind⟩))

/-- A host write of part of a line: a WB where the directory records the host as its owner, else a WrInv; dropped, but answered, in a
reserved region (R165, R397). -/
def hostStore (s : State) (p : Nat) (bs : List Byte) (poison : Bool) : State :=
  let line := lineOf p
  let cmp (s : State) : State := send s (.cxl mCmp (hpaOf s line) [])
  if reserved s p then cmp (logRsv s 0 p)
  else if (dirOf s line).owner = some .host then cmp (applyWb s .host line (p % 64) bs poison)
  else post s (.req ⟨.hostWr, line, .wrinv (p % 64) bs poison⟩)

/-- A host write reaches the port; in fog it is dropped (R385). -/
def hostWrites (s : State) (hpa : BitVec 52) (bs : List Byte) (poison : Bool) : State :=
  if !memUp s || !serving s then s
  else match ppaOf s hpa with
    | none => s
    | some p => hostStore (wakeBy false s) p bs poison

/-- `n` bytes of `bs`, zeros where it has fewer. -/
def fitBytes (n : Nat) (bs : List Byte) : List Byte := bs.take n ++ List.replicate (n - bs.length) 0

/-- MEMWR: a whole line. -/
def execMemwr (w : BusWrite) (s : State) : Out State :=
  .next (hostWrites s (setBits w.hpa 5 0 0) (fitBytes 64 w.data) w.poison)

/-- MEMWRPTL: bytes of one line. -/
def execMemwrptl (w : BusWrite) (s : State) : Out State :=
  .next (hostWrites s w.hpa (w.data.take (64 - w.hpa.toNat % 64)) w.poison)

/-! UIO peers (R402 to R404). -/

/-- A UIO request that no decoder claims completes with Unsupported Request and is counted. -/
def uioUnsupported (s : State) : State := bump (nextUid (send s (.cpl s.uid [] 1))) rCXL_ERR 55 40

/-- Whether `n` bytes at an HPA lie within the committed decoder. -/
def uioRange (s : State) (hpa : BitVec 52) (n : Nat) : Option Nat :=
  match ppaOf s hpa with
  | some p => if p + n ≤ ppaTop then some p else none
  | none => none

/-- A UIO write's lines on their way to their homes; what falls in a reserved region is dropped, and the write logged once (R165). -/
def uioPieces (s : State) (rid req p : Nat) (data : List Byte) (poison : Bool) : State :=
  let at_ (x : Nat × Nat × List Byte) : Nat := x.1 * 64 + x.2.1
  let all := cutLines (data.length + 1) p data
  let s := match all.find? (fun x => reserved s (at_ x)) with | some x => logRsv s 1 (at_ x) | none => s
  (all.filter (fun x => !reserved s (at_ x))).foldl (fun s x => post s (.req ⟨.uio rid req, x.1, .wrinv x.2.1 x.2.2 poison⟩)) s

/-- UIO_WRITE: completed on acceptance, then served at each line's home; dropped in fog (R385). -/
def execUioWrite (w : BusWrite) (s : State) : Out State :=
  .next (if !ioUp s then s
  else
    let s := wakeBy false s
    match uioRange s w.hpa w.data.length with
    | none => uioUnsupported s
    | some p =>
      let req := s.uid
      let s := nextUid (send s (.cpl req [] 0))
      if inFog s then s else uioPieces s w.rid req p w.data w.poison)

/-- UIO writes of a requester accepted and not yet visible (R404). -/
def uioWriting (s : State) (rid : Nat) : Bool :=
  let is (r : HReq) : Bool := match r.who with | .uio r _ => r == rid | _ => false
  s.coh.msgs.any (fun m => match m with | .req r => is r | _ => false) ||
    s.coh.homes.any (fun e => e.2.queue.any is || (match e.2.active with | some a => is a.req | none => false))

/-- A UIO read is answered with current data once its requester's earlier writes are visible and its lines may be read; until then the
port keeps it (R404). -/
def serveRead (s : State) (r : UioRead) : State :=
  let keep (s : State) : State := { s with cxl := { s.cxl with reads := s.cxl.reads ++ [r] } }
  if !serving s || uioWriting s r.rid then keep s
  else match readyLines s false (linesOf r.ppa r.len) with
    | some s => keep s
    | none =>
      let (d, bad, s) := readRaw s r.ppa r.len
      send s (.cpl r.req d (if bad then 2 else 0))

/-- The UIO reads that the port keeps are tried again, oldest first. -/
def settleReads (s : State) : State := s.cxl.reads.foldl serveRead { s with cxl := { s.cxl with reads := [] } }

/-- A UIO read arrives (R402, R404); poisoned in fog. -/
def uioRead (rid : Nat) (hpa : BitVec 52) (len : Nat) (s : State) : State :=
  if !ioUp s then s
  else
    let s := wakeBy false s
    match uioRange s hpa len with
    | none => uioUnsupported s
    | some p =>
      if inFog s then nextUid (send (useFree s len) (.cpl s.uid (freeBytes s len) 2))
      else nextUid (serveRead s ⟨rid, p, len, s.uid⟩)

/-! The host-line cache toward the host (R370, R399). -/

/-- The host-line cache gave up a line or answered: its response, with data where it held the line dirty. -/
def snpAnswer (s : State) (h : Nat) (d : List Byte) (st : Nat) : State := send s (.cxl mSnpRsp (h * 64) (d ++ [BitVec.ofNat 8 st]))

/-- A host snoop reaches the host-line cache, if the link carries it and the cache answers at all. -/
def hostSnoop (s : State) (hpa : BitVec 52) (f : State → Nat → Option HlcLine → State) : State :=
  if !ioUp s || !s.cxl.mode || !serving s then s
  else f (wakeBy false s) (lineOf hpa.toNat) (hlcLine s (lineOf hpa.toNat))

/-- SNPDATA: the line is kept in S; dirty data goes with the answer. -/
def execSnpdata (hpa : BitVec 52) (s : State) : Out State :=
  .next (hostSnoop s hpa (fun s h l => match l with
    | none => snpAnswer s h [] 0
    | some l => snpAnswer { s with coh := { s.coh with hlc := tput s.coh.hlc h { l with st := .s } } } h (if l.st = .m then l.data else []) 1))

/-- HOST_SNPCUR: current data, the state unchanged. -/
def execHostSnpcur (hpa : BitVec 52) (s : State) : Out State :=
  .next (hostSnoop s hpa (fun s h l => match l with
    | none => snpAnswer s h [] 0
    | some l => snpAnswer s h (if l.st = .m then l.data else []) (match l.st with | .m => 3 | .o => 3 | .e => 2 | .s => 1)))

/-- Take the first outstanding request that `p` accepts. -/
def takeOut (p : HostOut → Bool) : List HostOut → Option (HostOut × List HostOut)
  | [] => none
  | o :: t => if p o then some (o, t) else (takeOut p t).map (fun r => (r.1, o :: r.2))

/-- A host response that names no outstanding request is fog (R383). -/
def hostFog (s : State) : State := fog s 0x0701 8 31 0 2

/-- A record of the error queue in host memory has its GO: its line is read back, as R400 has it (R490). -/
def errGo (s : State) (h : Nat) : State :=
  if s.errs.hostWait = some h ∧ !s.coh.hout.any (fun o => o.who == whoErrq)
  then send { s with coh := { s.coh with hout := s.coh.hout ++ [⟨h, .rdCurr, whoErrq, 0, none⟩] } } (.cxl mRdCurr (h * 64) []) else s

/-- The read-back has returned: the record is visible (R490, R491). -/
def errBack (s : State) : State := flushErrs 65 (errVisible { s with errs := { s.errs with hostWait := none } })

/-- What a server core's access gave it. -/
def give (s : State) (k : Nat) (g : CoreGot) : State := { s with coh := { s.coh with got := tput s.coh.got k g } }

/-- Requests for host lines that server cores make, by core. -/
def whoServer (k : Nat) : Nat := 0x240000 + k

/-- A host line returned takes its place in the cache; with no way free it waits for one. A ring that waits for it takes it (R311). -/
def takeFill (s : State) (x : Nat × LineSt × List Byte × Nat) : State :=
  let (h, st, d, who) := x
  let n := who - whoWatch 0
  let s' := match hlcLine s h with
    | some _ => if st = .s then some s else hlcPut s h st d
    | none => hlcPut s h st d
  match s' with
  | none => { s with coh := { s.coh with fills := s.coh.fills ++ [x] } }
  | some s =>
    if whoWatch 0 ≤ who ∧ watchesHost s n h = true then (match hlcLine s h with | some l => watchTake s n h l | none => s) else s

/-- Lines that wait for a way are tried again. -/
def settleFills (s : State) : State := s.coh.fills.foldl takeFill { s with coh := { s.coh with fills := [] } }

/-- SNPINV: every copy inside is invalidated, a watched line's included (R311). -/
def execSnpinv (hpa : BitVec 52) (s : State) : Out State :=
  .next (hostSnoop s hpa (fun s h l => match l with
    | none => snpAnswer s h [] 0
    | some l =>
      let s := loseRsv s (fun _ v => v == rsvLine true h)
      settleFills (snpAnswer (wakeWatch { s with coh := { s.coh with hlc := tdel s.coh.hlc h } } true h) h (if l.st = .m then l.data else []) 0)))

/-- A host line returned with poison is not held: the ring or the core that asked for it is told (R176, R311). -/
def poisonedFill (s : State) (h who : Nat) : State :=
  let n := who - whoWatch 0
  if whoWatch 0 ≤ who then (if watchesHost s n h then watchFails s n else s)
  else give s (who - whoServer 0) .memoryError

/-! ATS (R401). -/

/-- Message kind of an ATS Invalidate Completion in `out`. -/
def mAtsInvCpl : Nat := 21

/-- Invalidations are completed once no request that uses their translation is out. -/
def settleInvs (s : State) : State :=
  let busy (x : Nat × List Nat) : Bool := s.coh.hout.any (fun o => x.2.contains (o.hline / 64))
  (s.cxl.invs.filter (fun x => !busy x)).foldl (fun s x => send s (.cxl mAtsInvCpl (x.1 * 4096) []))
    { s with cxl := { s.cxl with invs := s.cxl.invs.filter busy } }

/-- GO (R399): the oldest write of a host line is visible to the host; a reset that waited for it may begin (R411). -/
def execGo (hpa : BitVec 52) (s : State) : Out State :=
  let h := lineOf hpa.toNat
  .next (if !ioUp s || !s.cxl.mode || inFog s then s
  else match takeOut (fun o => o.hline == h && (o.kind == .write || o.kind == .evict)) s.coh.hout with
    | some (_, t) => pendingReset (settleInvs (settleFills (errGo { s with coh := { s.coh with hout := t } } h)))
    | none => if serving s then hostFog s else s)

/-- The data of a request reaches the one that asked. -/
def hostGives (s : State) (o : HostOut) (d : List Byte) (poison : Bool) : State :=
  match o.kind with
  | .rdCurr =>
    if o.who = whoNone then s
    else if o.who = whoErrq then errBack s
    else { s with coh := { s.coh with hbuf := s.coh.hbuf ++ [(o.who, o.hline, d, poison)] } }
  | .rdShared => if poison then poisonedFill s o.hline o.who else takeFill s (o.hline, .s, d, o.who)
  | .rdOwn => if poison then poisonedFill s o.hline o.who else takeFill s (o.hline, .e, d, o.who)
  | _ => s

/-- The host returns data (R370): that of a RdCurr waits for its engine; a RdShared or RdOwn allocates the line, but not poisoned data. -/
def takeHostData (hpa : BitVec 52) (data : List Byte) (poison : Bool) (s : State) : State :=
  let h := lineOf hpa.toNat
  if !ioUp s || !s.cxl.mode || !serving s then s
  else match takeOut (fun o => o.hline == h && (o.kind == .rdCurr || o.kind == .rdShared || o.kind == .rdOwn)) s.coh.hout with
    | none => hostFog s
    | some (o, t) => settleInvs (settleFills (hostGives { s with coh := { s.coh with hout := t } } o (fitBytes 64 data) poison))

/-- ATS_TRANSLATION_COMPLETION: the answer enters the translation cache of 4,096 entries; a refusal is met by the access that asked. -/
def execAtsTranslationCompletion (answer : AtsAnswer) (s : State) : Out State :=
  .next (if !ioUp s || !s.cxl.atsWait.contains answer.page then s
  else
    let e : Nat × Nat × Bool × Bool := (answer.page, answer.phys, answer.granted && answer.read, answer.granted && answer.write)
    let old := s.cxl.atc.filter (fun x => x.1 != answer.page)
    flushErrs 65 { s with cxl := { s.cxl with atsWait := s.cxl.atsWait.filter (· != answer.page), atc := old.drop (old.length - 4095) ++ [e] } })

/-- ATS_INVALIDATE_REQUEST: the translation is used no more, and the request is completed once nothing that uses it is out. The address
space is the function's one. -/
def execAtsInvalidateRequest (_ctx page : Nat) (s : State) : Out State :=
  let phys := (s.cxl.atc.filter (fun e => e.1 == page)).map (fun e => e.2.1)
  .next (if !ioUp s then s
  else settleInvs { s with cxl := { s.cxl with atc := s.cxl.atc.filter (fun e => e.1 != page), invs := s.cxl.invs ++ [(page, phys)] } })

/-! The HDM decoder (R395, R396). -/

/-- HDM_COMMIT: a right commit sets the decoder; any other, or one before Memory_Active, commits nothing and shows error-not-committed. A
decoder locked on its commit takes no other. -/
def execHdmCommit (set : HdmSet) (s : State) : Out State :=
  .next (if !ioUp s || s.cxl.lockD then s
  else
    let ok := s.cxl.mode && s.rst.memActive && set.base.toNat % 2 ^ 28 == 0 && set.size == ppaTop && set.ways == 1 && set.biEn
      && decide (set.base.toNat + ppaTop ≤ 2 ^ 52)
    if ok then { s with cxl := { s.cxl with base := set.base, committed := true, errNC := false, biEn := true, lockD := set.lock } }
    else { s with cxl := { s.cxl with errNC := true, biEn := set.biEn } })

end Sys2Proof.Machine
end

