-- ==== Sys2Proof/Machine/CxlLink.lean ====
section
/-! DEFINITION. The CXL link (15): training, Recovery and loss (R392, R407 to R412), L2 (R462), IDE (R415), and the DOE mailboxes' own
protocols (R413, R414). -/

namespace Sys2Proof.Machine

/-! Link loss (R409, R410). -/

/-- Numbers of a list, each once. -/
def nodup (l : List Nat) : List Nat := l.foldl (fun a x => insNat x a) []

/-- Rings whose running descriptor made one of some requests, each once (R410). -/
def ringsBehind (s : State) (l : List HostOut) : List Nat :=
  nodup (l.filterMap (fun o => o.own.bind (fun x => (unitOf s x.1).running.bind (fun y => if y.desc.idx = x.2 then some x.1 else none))))

/-- A running descriptor is to write no record (R410). -/
def noRecord (s : State) (ring : Nat) : State := report s ring { Report.status_ 0x0706 with norec := true }

/-- The link's loss in its log and counter (R416). -/
def logLoss (s : State) (cause abandoned : Nat) (dirty : Bool) : State :=
  let s := bump s rCXL_ERR 39 32
  logOnce s rCXL_LOSS_LOG (BitVec.ofNat 64 (fieldAt 3 1 cause + fieldAt 4 4 (b2n dirty) + fieldAt 25 6 (min (2 ^ 20 - 1) abandoned)))

/-- Agent 2 is absent from every directory entry (R409 step 3). -/
def dropHost (s : State) : State :=
  { s with coh := { s.coh with dir := s.coh.dir.foldl (fun t e =>
      match (match withoutAgent e.2.st .host with | .s [] => DirSt.i | d => d) with
      | .i => t
      | d => tput t e.1 { e.2 with st := d }) [] } }

/-- Snoops outstanding to the host are completed as RspI without data, and no write-back of it is awaited. -/
def endHostWaits (s : State) : State :=
  let ls := (s.coh.homes.filter (fun e => match e.2.active with
    | some a => a.wait.contains .host || a.wbFrom == some .host | none => false)).map (·.1)
  ls.foldl (fun s l => match (homeLine s l).active with
    | some a => advance (setHome s l { homeLine s l with active := some { a with
        wait := dropAgent a.wait .host, wbFrom := if a.wbFrom = some .host then none else a.wbFrom } }) l
    | none => s) s

/-- Requests of the host that no home serves yet are gone with the link. -/
def dropHostReads (s : State) : State :=
  let keep (r : HReq) : Bool := r.who != .agent .host
  let msgs := s.coh.msgs.filter (fun m => match m with | .req r => keep r | _ => true)
  let homes := (s.coh.homes.map (fun (e : Nat × HomeLine) => (e.1, { e.2 with queue := e.2.queue.filter keep }))).filter (fun (e : Nat × HomeLine) => e.2 != HomeLine.idle)
  { s with coh := { s.coh with msgs := msgs, homes := homes } }

/-- How a ring with host addresses stops at a loss: as it meets it (R331), and with RING_CMPL where its running descriptor is to write no
record (R410). -/
def lossStop (s : State) (n : Nat) : State :=
  let r := ringOf s n
  let u := unitOf s n
  let s := setUnit s n { u with held := u.held && !r.whost, reread := u.reread && !r.whost }
  match u.running with
  | some x => if r.chost || (match x.report with | some p => p.norec | none => false) then stopRing s n 0x0609 x.desc.idx false else stopRing s n 0x0608 r.head false
  | none => if r.dhost || r.whost then stopRing s n 0x0608 r.head false else stopRing s n 0x0609 r.done false

/-- Steps 3 to 5 of R409, the host-line cache holding no line in M. `out` are the requests abandoned. -/
def settleLoss (s : State) (out : List HostOut) : State :=
  let s := endHostWaits (dropHostReads (dropHost s))
  let s := (ringsBehind s (out.filter (fun o => o.kind == .write))).foldl noRecord s
  let ctxs := nodup ((out.map (·.ctx)).filter (fun c => c != 0 && ((ctxOf s c).st == .openS || (ctxOf s c).st == .ending)))
  let s := if bit (regVal s rCXL_LOSS_LOG) 0 then setField s rCXL_LOSS_LOG 37 26 (min 4095 ctxs.length) else s
  let log := regVal s rCXL_LOSS_LOG
  let admin := ringsBehind s (out.filter (fun o => o.ctx == 0))
  let s := ctxs.foldl (fun s c => charge s { code := 0x0706, ctx := c, die := 8, unit_ := 10, detail := log }) s
  let s := admin.foldl (fun s n => report (charge s { code := 0x0706, ctx := 0, die := 8, unit_ := 10, detail := log, ring := some n }) n (Report.status_ 0x0706)) s
  let rings := (s.rings.ctx.filter (fun e => e.2.v && !e.2.err && (e.2.dhost || e.2.chost || (e.2.watch && e.2.whost)))).map (·.1)
  let s := rings.foldl lossStop s
  { s with cxl := { s.cxl with atc := [], atsWait := [], cacheEn := false, memEn := false, mode := false } }

/-- A link loss (R409): requests to the host are abandoned; a line in M makes it fog, else every host line is dropped, watched ones
without a re-read, and the loss is settled. Of a link that is down already, PERST_N is still a loss that is logged. -/
def linkLoss (s : State) (cause : Nat) : State :=
  if s.cxl.link = .down then (if cause = 2 ∧ s.rst.phase ≠ .off then logLoss s cause 0 false else s)
  else
    let out := s.coh.hout
    let line := match s.coh.hlc.find? (fun e => e.2.st == .m) with | some e => e.1 | none => 0
    let dirty := hasDirty s && !inFog s
    let s := logLoss s cause ((out.filter (fun o => o.kind == .write || o.kind == .evict)).length) dirty
    let s := { s with cxl := { s.cxl with link := .down, width := 0, rate := 0, lost := true, held := [], reads := [], invs := [] }
                      coh := { s.coh with hout := [], hbuf := [], fills := [], rsv := s.coh.rsv.filter (fun e => decide (e.2 ≤ 2 ^ 40)) }
                      errs := { s.errs with hostWait := none } }
    let s := if dirty then fog s 0x0703 8 31 line 2
      else
        let s := { s with coh := { s.coh with hlc := [] } }
        if inFog s then { s with cxl := { s.cxl with cacheEn := false, memEn := false, mode := false, atc := [], atsWait := [] } } else settleLoss s out
    pendingReset s

/-- What PERST_N and a hot reset return to reset values whatever their level (R411, R515): configuration space, decoders, IDE, and the
MSI-X table with PKG_EVT_CTRL. -/
def hostPartReset (s : State) : State :=
  setReg { s with
    msix := .reset
    cxl := { s.cxl with base := 0, committed := false, errNC := false, lockD := false, biEn := false, cacheEn := false, memEn := false, mode := false
                        ide := false, ideKeys := 0, ideProg := false, atsEn := false, atc := [], atsWait := []
                        bars := [0, 0, 0] } } rPKG_EVT_CTRL 0

/-- The link may train: from step 4 of a bring-up on, and in any later phase (R439). -/
def trainsFrom (s : State) : Bool :=
  match s.rst.phase with
  | .off => false
  | .seq l n => l == 2 || decide (4 ≤ n)
  | _ => true

/-- LINK_UP (R392): the link trains into L0; CXL.cache and CXL.mem at 32 or 64 GT/s alone. What the host then enables in configuration
space comes with it, there being no command for such a write. -/
def execLinkUp (width rate : Nat) (cxl cacheEn memEn ats : Bool) (s : State) (bars : List (BitVec 64) := []) : Out State :=
  .next (if trainsFrom s = false ∨ (s.cxl.link ≠ .down ∧ s.cxl.link ≠ .l2) ∨ ¬ (width = 4 ∨ width = 8 ∨ width = 16) ∨ rate = 0 ∨ 6 < rate then s
  else
    let mode := cxl && decide (5 ≤ rate)
    let s := wakeBy false s
    flushErrs 65 (sendWaiting { s with cxl := { s.cxl with
      link := .l0, width := width, rate := rate, mode := mode, cacheEn := mode && cacheEn, memEn := mode && memEn, atsEn := ats
      bars := bars, lost := false, trained := true } }))

/-- LINK_RECOVERY (R407). -/
def execLinkRecovery (s : State) : Out State :=
  .next (if s.cxl.link = .l0 then bump { s with cxl := { s.cxl with link := .recovery } } rCXL_ERR 31 16 else s)

/-- LINK_L0_RETURN (R407): what was held goes on its way, in its order. -/
def execLinkL0Return (s : State) : Out State :=
  .next (if s.cxl.link = .recovery then flushErrs 65 (sendWaiting { s with cxl := { s.cxl with link := .l0 } }) else s)

/-- LINK_HOLD_EXPIRY (R408). -/
def execLinkHoldExpiry (s : State) : Out State := .next (if s.cxl.link = .recovery then linkLoss s 1 else s)

/-- DL_DOWN (R409); after the handshake of R462 it is no loss. -/
def execDlDown (s : State) : Out State := .next (if s.cxl.link = .l2 then s else linkLoss s 0)

/-- HOT_RESET (R411): the loss first, then reset source 2. -/
def execHotReset (s : State) : Out State :=
  .next (if s.cxl.link = .l0 ∨ s.cxl.link = .recovery then raiseHost (hostPartReset (linkLoss s 3)) 2 else s)

/-- FLR (R411): the function's CXL.io state, and reset source 3; decoders stay committed. -/
def execFlr (s : State) : Out State :=
  .next (if ioUp s then
    raiseHost (setReg { s with msix := .reset, cxl := { s.cxl with atsEn := false, atc := [], atsWait := [], bars := [0, 0, 0] } } rPKG_EVT_CTRL 0) 3
  else s)

/-- IDE_INTEGRITY_FAILURE (R415): counted, and a link loss. -/
def execIdeIntegrityFailure (s : State) : Out State :=
  .next (if ioUp s && s.cxl.ide then linkLoss (bump { s with cxl := { s.cxl with ide := false } } rCXL_ERR 63 56) 4 else s)

/-- VIRAL_RECEIVED (R409). -/
def execViralReceived (s : State) : Out State :=
  .next (if ioUp s then linkLoss { s with cxl := { s.cxl with viralRx := true } } 5 else s)

/-- PIN_RESET_CONFIRM (R437, R409, R411): a pin held for 10 ticks is a reset; PERST_N is a link loss first. -/
def execPinResetConfirm (pin : RstPin) (s : State) : Out State :=
  .next (match pin with
  | .warm => if s.rst.warmCnt then raiseSrc { s with rst := { s.rst with warmCnt := false } } 4 else s
  | .perst => if s.rst.perstCnt then raiseHost (hostPartReset (linkLoss { s with rst := { s.rst with perstCnt := false } } 2)) 1 else s)

/-- PME_TURN_OFF (R462): dirty lines are written back and every host line is dropped, the host answering within the handshake; the link
is in L2. A watched line is to be held again once the link is back. -/
def execPmeTurnOff (s : State) : Out State :=
  .next (if ioUp s && !inFog s then
    let s := s.coh.hlc.foldl (fun s e => wakeWatch s true e.1) s
    let s := evictAll s
    { s with coh := { s.coh with hout := s.coh.hout.filter (fun o => o.kind != .evict) }, cxl := { s.cxl with link := .l2 } }
  else s)

/-! The DOE mailboxes' own protocols (R413, R414), and IDE_KM (R415). -/

/-- The management controller answers mailboxes and messages: from step 4 of R439 on, in fog too (R385). -/
def mcUp (s : State) : Bool :=
  match s.rst.phase with
  | .ready => true
  | .seq 2 _ => true
  | .seq _ n => decide (4 < n)
  | .stopped _ => true
  | .off => false

def doeUp (s : State) : Bool := ioUp s && mcUp s

/-- Protocols of a mailbox: 0 DOE Discovery, 1 CXL Table Access, 2 CMA/SPDM, 3 secured CMA/SPDM, 4 the vendor-defined protocol 0x01. -/
def doeProtocols (mailbox : Nat) : List Nat := if mailbox = 0 then [0, 1] else if mailbox = 1 then [0, 2, 3, 4] else []

/-- DOE_DISCOVERY: the protocol at an index, and the next index, 0 after the last. -/
def execDoeDiscovery (mailbox index : Nat) (s : State) : Out State :=
  .next (if !doeUp s then s
  else match (doeProtocols mailbox)[index]? with
    | some p => send s (.doe mailbox 0 [BitVec.ofNat 8 p, BitVec.ofNat 8 (if index + 1 < (doeProtocols mailbox).length then index + 1 else 0)])
    | none => s)

/-- An entry of the CDAT: its type, its length and twenty bytes (log entry 8). -/
def cdatEntry (ty : Nat) (body : List Byte) : List Byte := leBytes 2 ty ++ leBytes 2 24 ++ body

/-- A DSMAS or DSEMTS entry: handle 0, a byte of flags or of memory type, and the range from DPA 0 on. -/
def cdatRange (ty kind : Nat) : List Byte := cdatEntry ty (leBytes 1 0 ++ leBytes 3 kind ++ leBytes 8 0 ++ leBytes 8 (2 ^ 41))

/-- A DSLBIS entry of handle 0: what it gives, and the value in units of `unit`: picoseconds of a latency, MB/s of a bandwidth. -/
def cdatBound (what unit v : Nat) : List Byte := cdatEntry 1 (leBytes 2 0 ++ leBytes 2 what ++ leBytes 8 unit ++ leBytes 8 v)

/-- The CDAT's entries (R414): one DSMAS, one DSEMTS of specific-purpose memory, and DSLBIS for read and write latency of 540 ns and read
and write bandwidth of 128,000 MB/s. -/
def cdat : List (List Byte) :=
  [cdatRange 0 0, cdatRange 4 1, cdatBound 1 1000 540, cdatBound 2 1000 540, cdatBound 4 1000 128, cdatBound 5 1000 128]

/-- CXL_TABLE_ACCESS on DOE 0. -/
def execCxlTableAccess (entry : Nat) (s : State) : Out State :=
  .next (if !doeUp s then s else match cdat[entry]? with | some d => send s (.doe 0 1 d) | none => s)

/-- IDE_KM over a secured session on DOE 1: keys are programmed, the stream starts, is refreshed without a break, or stops. -/
def execIdeKm (msg : IdeMsg) (s : State) : Out State :=
  .next (if !doeUp s || !s.sec.secured then s
  else
    let answer (s : State) : State := send s (.doe 1 3 [BitVec.ofNat 8 (match msg with | .program => 0 | .start => 1 | .refresh => 2 | .stop => 3)])
    match msg with
    | .program => answer { s with cxl := { s.cxl with ideProg := true } }
    | .start => if s.cxl.ideProg then answer { s with cxl := { s.cxl with ide := true, ideProg := false, ideKeys := s.cxl.ideKeys + 1 } } else s
    | .refresh => if s.cxl.ide && s.cxl.ideProg then answer { s with cxl := { s.cxl with ideProg := false, ideKeys := s.cxl.ideKeys + 1 } } else s
    | .stop => answer { s with cxl := { s.cxl with ide := false, ideProg := false } })

end Sys2Proof.Machine
end

