-- ==== Sys2Proof/Machine/LoadChecks.lean ====
section
/-! DEFINITION. The checks of a model image at LOAD_MODEL (R341, R342, with R62, R71, R88, R96, R120, R133, R142, R150, R213, R217) and
of a step's memory extents at STEP (R62 checks 11 and 12, R352). -/

namespace Sys2Proof.Machine

/-- A core program as the checks see it, with the scratchpad in bytes and the count of programs that its step declares. -/
structure LoadProg where
  ops     : List Op
  pats    : List (BitVec 256)
  strides : List (BitVec 128)
  half    : Bool
  scratch : Nat
  nprog   : Nat
  deriving DecidableEq, Repr

/-! Extents. Addresses are linear in every count, so their extremes lie at the first and last iterations. -/

/-- Lowest and highest offset of strides over counts. -/
def span : List (Nat × Int) → Int × Int
  | [] => (0, 0)
  | (c, st) :: t =>
    let d := st * ((c : Int) - 1)
    ((span t).1 + min 0 d, (span t).2 + max 0 d)

/-- Offsets that a step-table entry adds over the open loops' counts, outermost first (R43). -/
def loopSpan (ent : BitVec 128) (cnts : List Nat) : Int × Int :=
  span ((List.range cnts.length).map (fun d => (nth cnts d, sext 32 (bits ent (32 * d + 31) (32 * d)))))

/-- An extent: its lowest byte, and the byte after its highest. -/
abbrev Extent := Int × Int

/-- Bytes `[base + lo, base + hi + unit)`, moved over the loops. -/
def extent (base : Int) (sp lp : Int × Int) (unit : Nat) : Extent := (base + sp.1 + lp.1, base + sp.2 + lp.2 + unit)

/-- Extent of a copy pattern. -/
def copyExtent (p : CPat) (lp : Int × Int) : Extent :=
  extent p.base (span ((List.range 3).map (fun i => (nth p.n i, p.s.getD i 0)))) lp p.l0

def prodOf (l : List Nat) : Nat := l.foldl (· * ·) 1

/-! Vector ops (R118, R124 to R126, R133). -/

/-- How an op uses a stream. -/
inductive StreamUse where
  | vec | mask | pair | word
  deriving DecidableEq, Repr

/-- Streams A, B, C and O that a VOP uses (R125); none for a reserved code. -/
def vopStreams (vop : Nat) (imm0 : Bool) : Option (List (Option StreamUse)) :=
  let v := some StreamUse.vec
  let aO := some [v, none, none, v]
  let abO := some [v, v, none, v]
  if vop = 4 ∨ vop = 5 then some [v, v, v, v]
  else if (1 ≤ vop ∧ vop ≤ 3) ∨ vop = 6 ∨ vop = 7 ∨ vop = 0xC ∨ (0x10 ≤ vop ∧ vop ≤ 0x12) ∨ vop = 0x88 then abO
  else if (8 ≤ vop ∧ vop ≤ 0xD) ∨ vop = 0x13 ∨ vop = 0x14 ∨ (0x40 ≤ vop ∧ vop ≤ 0x44) ∨ vop = 0xC0 ∨ (0x100 ≤ vop ∧ vop ≤ 0x104) then aO
  else if vop = 0xC1 then some [v, none, none, some .pair]
  else if 0x80 ≤ vop ∧ vop ≤ 0x85 then some [v, v, none, if imm0 then some .mask else none]
  else if vop = 0x89 then some [v, v, some .mask, v]
  else if vop = 0x20 ∨ vop = 0x21 ∨ (0x140 ≤ vop ∧ vop ≤ 0x142) then some [none, none, none, v]
  else if vop = 0x143 then some [none, none, none, some .mask]
  else if 0x180 ≤ vop ∧ vop ≤ 0x186 then some [none, none, none, none]
  else if vop = 0x187 then some [some .word, none, none, none]
  else none

/-- VOPs that use IMM. -/
def usesImm (vop : Nat) : Bool :=
  (decide (0xA ≤ vop) && decide (vop ≤ 0xD)) || vop == 0x13 || vop == 0x14 || vop == 0x20 || vop == 0x143 ||
    (decide (0x80 ≤ vop) && decide (vop ≤ 0x85)) || (decide (0x100 ≤ vop) && decide (vop ≤ 0x104)) || (decide (0x180 ≤ vop) && decide (vop ≤ 0x185))

/-- A stream pattern is one: its PKIND and reserved fields (R114). -/
def streamKind (w : BitVec 256) : Bool := bits w 1 0 == 0 && bits w 31 29 == 0 && bits w 255 224 == 0

/-- Bytes that a pattern addresses, whole vectors counted, one of a REP pattern too (R133); of a block-scaled run, along dimension 0 with
its scales. -/
def streamExtent (u : StreamUse) (p : SPat) (lp : Int × Int) : Extent :=
  let dims (l : List Nat) : List (Nat × Int) := l.map (fun i => (nth p.n i, p.s.getD i 0))
  let vb := 8 * elemBits p.fmt
  match u with
  | .mask => extent p.base (span (dims [0, 1, 2, 3])) lp 8
  | .word => extent p.base (span (dims [0, 1, 2, 3])) lp 8
  | .pair => extent p.base (span (dims [0, 1, 2, 3])) lp 2
  | .vec =>
    if isMX p.fmt then extent p.base (span (dims [1, 2, 3])) lp (nth p.n 0 * (vb + 2))
    else extent p.base (span (dims [0, 1, 2, 3])) lp vb

/-- Counts that a stream must have, from those of the driving pattern (R118, R124, R126). -/
def countsFor (vop : Nat) (full out : Bool) (drv : List Nat) : List Nat :=
  if vop = 0x187 then [1, 1, 1, 1]
  else if 0x100 ≤ vop ∧ vop ≤ 0x104 ∧ out = true then
    (if full then [(nth drv 1 * nth drv 2 * nth drv 3 + 63) / 64, 1, 1, 1] else 1 :: drv.drop 1)
  else drv

/-- One stream of a vector op breaks a condition of R133. -/
def streamBad (P : LoadProg) (vop : Nat) (full out : Bool) (drv : List Nat) (u : StreamUse) (w : BitVec 256) : Bool :=
  let p := spatOf w (bits w 28 8)
  let eb := elemBits p.fmt / 8
  let scaled := isMX p.fmt && u != .pair
  !streamKind w || p.n != countsFor vop full out drv || !veReads p.fmt
    || (u == .mask && p.fmt != 8) || (u == .pair && !isMX p.fmt)
    || (p.rep && (out || u == .mask || isMX p.fmt)) || (scaled && p.s.getD 0 0 != (8 * elemBits p.fmt : Nat))
    || ((eb == 2 || eb == 4) && (p.base % eb != 0 || p.s.any (fun x => x % eb != 0)))
    || (P.half && (decide ((streamExtent u p (0, 0)).1 < 0) || decide (0x100000 < (streamExtent u p (0, 0)).2)))

/-- The streams of a vector op: use, pattern word, whether it is the output. -/
def streamsOf (P : LoadProg) (w : Op) (us : List (Option StreamUse)) : List (StreamUse × BitVec 256 × Bool) :=
  ([(us.getD 0 none, vePA w, false), (us.getD 1 none, vePB w, false), (us.getD 2 none, vePC w, false), (us.getD 3 none, vePO w, true)]).filterMap
    (fun x => x.1.map (fun u => (u, P.pats.getD x.2.1 0, x.2.2)))

/-- Kinds of the inputs of a vector op are right (R121, R125). -/
def kindsOk (vop : Nat) (ss : List (StreamUse × BitVec 256 × Bool)) : Bool :=
  match (ss.filter (fun x => x.1 == .vec && !x.2.2)).map (fun x => isIntFmt (bits x.2.1 7 4)) with
  | [] => true
  | k :: t => t.all (· == k) &&
      (if 0x10 ≤ vop ∧ vop ≤ 0x14 then k else if (0x40 ≤ vop ∧ vop ≤ 0x44) ∨ vop = 0xC1 then !k else true)

/-- What is wrong with a vector op: conditions with their rank in R341 and their check number, first things first. -/
def vecFinds (P : LoadProg) (cnts : List Nat) (w : Op) : List (Bool × Nat × Nat) :=
  let vop := veVOP w
  match vopStreams vop (bit (veIMM w) 0) with
  | none => [(true, 5, 2)]
  | some us =>
    let used (i : Nat) : Bool := (us.getD i none).isSome
    let ss := streamsOf P w us
    let ins := used 0 || used 1 || used 2
    let drvW := P.pats.getD (if used 0 then vePA w else vePO w) 0
    let drv := (spatOf drvW 0).n
    let full := bit (veIMM w) 0
    let oFmt := bits (P.pats.getD (vePO w) 0) 7 4
    let mop := decide (0x180 ≤ vop)
    let idx := [(used 0, vePA w), (used 1, vePB w), (used 2, vePC w), (used 3, vePO w)]
    [ (opOpc w != 0 || (!usesImm vop && veIMM w != 0) || idx.any (fun x => !x.1 && x.2 != 0) || (!ins && veASIN w != 0) || (!used 3 && veASOUT w != 0)
        || (veMOUT w != 0 && !(mop || vop == 0x143 || vop == 0x88 || (decide (0x80 ≤ vop) && decide (vop ≤ 0x85))))
        || (veMSEL w != 0 && !(veMEN w || (decide (0x183 ≤ vop) && decide (vop ≤ 0x186)))), 5, 2),
      (idx.any (fun x => x.1 && decide (P.pats.length ≤ x.2)) || decide (P.strides.length ≤ veASIN w) || decide (P.strides.length ≤ veASOUT w), 5, 6),
      ((mop && veMEN w) || (vop == 0x180 && decide (64 < bits (veIMM w) 6 0))
        || (vop == 0x143 && vePO w == 0) || veRND w == 3 || (!mop && !rndOk vop (veRND w) (used 3 && oFmt == 12)) || (mop && veRND w != 0)
        || (!ss.isEmpty && decide (4096 < vCount drv)) || ss.any (fun x => streamBad P vop full x.2.2 drv x.1 x.2.1) || !kindsOk vop ss, 5, 0),
      (ss.any (fun x =>
        let e := streamExtent x.1 (spatOf x.2.1 (bits x.2.1 28 8)) (loopSpan (P.strides.getD (if x.2.2 then veASOUT w else veASIN w) 0) cnts)
        decide (e.1 < 0) || decide ((P.scratch : Int) < e.2)), 6, 10) ]

/-! Copies (R142, R150). -/

/-- SPACE of source and destination by opcode (R139). -/
def copySpaces (opc : Nat) : Bool × Bool := (opc == 0 || opc == 4, opc == 1 || opc == 5)

/-- One side of a copy breaks a condition of R142. -/
def sideBad (w : BitVec 256) (space : Bool) : Bool :=
  bits w 1 0 != 1 || bits w 7 4 != 0 || bits w 255 248 != 0 || bit w 2 != space || (!space && (bit w 3 || bits w 127 85 != 0))

def rawCopy (w : BitVec 256) : CPat := cpatOf w (bits w 127 64)

def cpBytes (p : CPat) : Nat := p.l0 * prodOf p.n

/-- A coded destination keeps whole blocks (R150). -/
def codedWhole (w : BitVec 256) (ent : BitVec 128) (cnts : List Nat) : Bool :=
  wholeBlocks (runsOf (cpatOf w 0)) && bits w 127 64 % 4096 == 0
    && (List.range cnts.length).all (fun d => nth cnts d ≤ 1 || bits ent (32 * d + 31) (32 * d) % 4096 == 0)

def copyFinds (P : LoadProg) (cnts : List Nat) (w : Op) : List (Bool × Nat × Nat) :=
  let opc := opOpc w
  let sp := copySpaces opc
  let a := P.pats.getD (cpPSRC w) 0
  let b := P.pats.getD (cpPDST w) 0
  let ea := copyExtent (rawCopy a) (loopSpan (P.strides.getD (cpASRC w) 0) cnts)
  let eb := copyExtent (rawCopy b) (loopSpan (P.strides.getD (cpADST w) 0) cnts)
  let out (space : Bool) (e : Extent) : Bool := !space && (decide (e.1 < 0) || decide ((P.scratch : Int) < e.2))
  [ (decide (5 < opc) || bits w 95 52 != 0 || (opc != 3 && cpTCORE w != 0) || (opc != 4 && opc != 5 && cpTPKG w != 0), 5, 2),
    (decide (P.pats.length ≤ cpPSRC w) || decide (P.pats.length ≤ cpPDST w) || decide (P.strides.length ≤ cpASRC w) || decide (P.strides.length ≤ cpADST w), 5, 6),
    (opc == 3 && decide (P.nprog ≤ cpTCORE w), 5, 7),
    (sideBad a sp.1 || sideBad b sp.2 || cpBytes (rawCopy a) != cpBytes (rawCopy b) || (opc == 2 && decide (ea.1 < eb.2) && decide (eb.1 < ea.2)), 5, 0),
    (out sp.1 ea || out sp.2 eb, 6, 10),
    (sp.2 && bit b 3 && !codedWhole b (P.strides.getD (cpADST w) 0) cnts, 7, 0) ]

/-! Array ops (R71, R88, R96, R120). -/

def arrayFinds (P : LoadProg) (cnts : List Nat) (w : Op) : List (Bool × Nat × Nat) :=
  let opc := opOpc w
  let pat := opc == 1 || opc == 3 || opc == 4
  let rows := opc == 0 || opc == 3 || opc == 4
  let fmtU := opc == 1 || opc == 3
  let pw := P.pats.getD (arPAT w) 0
  let p := spatOf pw (bits pw 28 8)
  let wd := if P.half then 32 else 64
  let unit := if opc = 1 then tileBytes (arFMT w) wd else if opc = 3 then rowBytes (arFMT w) wd (arTR w) else 4 * wd
  let n := if opc = 1 then 1 else arROWS w
  let e := extent p.base (span [(n, p.s.getD 1 0)]) (loopSpan (P.strides.getD (arASI w) 0) cnts) unit
  [ (decide (4 < opc) || bits w 95 40 != 0 || (!pat && (arPAT w != 0 || arASI w != 0)) || (!rows && (arAROW w != 0 || bits w 33 24 != 0))
      || (!fmtU && arFMT w != 0) || (opc != 3 && (arTR w || arACC w)) || (fmtU && (groupOf (arFMT w)).isNone), 5, 2),
    (pat && (decide (P.pats.length ≤ arPAT w) || decide (P.strides.length ≤ arASI w)), 5, 6),
    (rows && decide (1024 < arAROW w + arROWS w), 5, 9),
    ((P.half && opc == 3 && arTR w && (groupOf (arFMT w) == some 3 || groupOf (arFMT w) == some 4))
      || (pat && (!streamKind pw || p.rep || p.mlast || p.fmt != (if opc = 4 then 0 else arFMT w) || p.n != [1, 1, 1, 1]
        || p.s.getD 0 0 != 0 || p.s.getD 2 0 != 0 || p.s.getD 3 0 != 0)), 5, 0),
    (pat && (decide (e.1 < 0) || decide ((P.scratch : Int) < e.2)), 6, 10) ]

/-! CTRL, SYNC and offloaded ops (R41, R48, R49, R56). -/

def ctrlFinds (last : Bool) (w : Op) : List (Bool × Nat × Nat) :=
  let opc := opOpc w
  [ (decide (3 < opc) || bits w 117 96 != 0 || (decide (opc < 2) && bits w 95 0 != 0) || (opc == 2 && bits w 95 24 != 0) || (opc == 3 && bits w 95 12 != 0), 5, 2),
    ((opc == 0 && !last) || (opc != 0 && last), 5, 3) ]

def tallyTop (P : LoadProg) : Nat := if P.half then 16 else 32

def syncFinds (P : LoadProg) (w : Op) : List (Bool × Nat × Nat) :=
  let opc := opOpc w
  [ (decide (3 < opc) || bits w 117 96 != 0 || (opc == 3 && bits w 95 0 != 0) || bits w 23 21 != 0 || bits w 31 29 != 0 || bits w 95 43 != 0
      || (opc == 0 && syAFTER w != 0) || (opc != 2 && syTARGET w != 0), 5, 2),
    (opc != 3 && (decide (tallyTop P ≤ syTALLY w) || syCOUNT w == 0), 5, 5),
    (opc == 2 && decide (P.nprog ≤ syTARGET w), 5, 7) ]

/-- UNIT: a loupe's selector uses bits 3:0 and 15; of FIXER and REDUCE it is zero. -/
def offFinds (P : LoadProg) (w : Op) : List (Bool × Nat × Nat) :=
  let c := opClass w
  let top := if c = 5 then 3 else if c = 6 then 1 else 2
  [ (decide (top < opOpc w) || bits w 95 86 != 0 || (if c = 5 then ofUNIT w / 16 % 2048 != 0 else ofUNIT w != 0), 5, 2),
    (decide (P.strides.length ≤ ofASI w), 5, 6) ]

/-- The embedded wait and signal of an engine op. -/
def embedFinds (P : LoadProg) (w : Op) : List (Bool × Nat × Nat) :=
  [ ((!opWE w && (opWT w != 0 || opWN w != 1 || opWF w)) || (!opSE w && (opST w != 0 || opSN w != 1 || opSL w)), 5, 2),
    (decide (tallyTop P ≤ opWT w) || decide (tallyTop P ≤ opST w), 5, 5) ]

/-- What is wrong with one op, by its class. -/
def opFinds (P : LoadProg) (cnts : List Nat) (last : Bool) (w : Op) : List (Bool × Nat × Nat) :=
  let c := opClass w
  let notEnd := (last && c != 0, 5, 3)
  if 8 ≤ c then [(true, 5, 2)]
  else if c = 0 then ctrlFinds last w
  else if c = 1 then notEnd :: syncFinds P w
  else notEnd :: embedFinds P w ++ (if c = 2 then copyFinds P cnts w else if c = 3 then arrayFinds P cnts w else if c = 4 then vecFinds P cnts w else offFinds P w)

/-! A core program. -/

/-- What the walk over a program has found: the first refusal of the best rank by rank, check and op, STEPBARs executed, and the
UPDATE ops by op index and how often each is executed. -/
structure ProgLook where
  bad  : Option (Nat × Nat × Nat)
  bars : Nat
  upds : List (Nat × Nat)
  deriving DecidableEq, Repr

def ProgLook.note (x : ProgLook) (rank check op : Nat) : ProgLook :=
  match x.bad with
  | some (r, _, _) => if rank < r then { x with bad := some (rank, check, op) } else x
  | none => { x with bad := some (rank, check, op) }

/-- Every finding of an op. -/
def noteAll (x : ProgLook) (op : Nat) (l : List (Bool × Nat × Nat)) : ProgLook := l.foldl (fun x f => if f.1 then x.note f.2.1 f.2.2 op else x) x

/-- Walk over a program's ops, `stack` the open loops, innermost first, by op index and count. -/
def walkOps (P : LoadProg) : Nat → List (Nat × Nat) → ProgLook → List Op → ProgLook
  | _, [], x, [] => x
  | _, l :: _, x, [] => x.note 5 4 l.1
  | i, stack, x, w :: t =>
    let cnts := (stack.map (·.2)).reverse
    let x := noteAll x i (opFinds P cnts t.isEmpty w)
    if isOp 0 2 w then
      walkOps P (i + 1) ((i, ctCNTM1 w + 1) :: stack) (if stack.length = 4 then x.note 5 4 i else x) t
    else if isOp 0 3 w then
      (match stack with
       | l :: r => walkOps P (i + 1) r (if l.1 = ctLOOPAT w then x else x.note 5 4 i) t
       | [] => walkOps P (i + 1) [] (x.note 5 4 i) t)
    else if isOp 1 3 w then walkOps P (i + 1) stack { x with bars := x.bars + prodOf cnts } t
    else if isOp 6 1 w then walkOps P (i + 1) stack { x with upds := x.upds ++ [(i, prodOf cnts)] } t
    else walkOps P (i + 1) stack x t

/-- A program: check 1 of R62 (the op index recorded is the first beyond the mode's ops), then its ops. -/
def progLook (P : LoadProg) : ProgLook :=
  let x : ProgLook := ⟨none, 0, []⟩
  let x := if P.half && decide (2048 < P.ops.length) then x.note 5 1 2048 else x
  walkOps P 0 [] x P.ops

/-! The image (R338 to R342). -/

/-- Why a LOAD_MODEL is refused, with what R342 records; `rank` orders the rows of R341. -/
structure LoadBad where
  rank  : Nat
  code  : Nat
  step  : Nat := 0xFFFF
  check : Nat := 0
  op    : Nat := 0
  sci   : Nat := 0
  fix   : Bool := false
  prof  : Nat := 0
  deriving DecidableEq, Repr

/-- The refusal of the better rank, and of two of one rank the earlier. -/
def firstBad (a b : Option LoadBad) : Option LoadBad :=
  match a, b with
  | some x, some y => if y.rank < x.rank then b else a
  | none, _ => b
  | _, none => a

/-- A read that fails is a finding, not an end. -/
def Acc.caught {α : Type} (x : Acc α) (f : Nat → α) : Acc α := match x with | .bad c _ s => .ok (f c) s | x => x

/-- An error that the reads of a check met, with its row: HBM_POISON, or the loss of the host's memory. -/
def readBad (code : Nat) : LoadBad := { rank := 3, code }

def rankCode (rank : Nat) : Nat := if rank ≤ 5 then 0x0103 else if rank = 6 then 0x0102 else 0x0301

/-- Bytes of the image, none where they run beyond it. -/
def imageGet (s : State) (m : Model) (off n : Nat) : Acc (Option (List Byte)) :=
  if m.len < off + n then .ok none s else (imageRead s m off n).bind (fun b s => .ok (some b) s)

/-- What the checks learn of a step. -/
structure StepLook where
  bad  : Option LoadBad
  need : Nat × Bool × Option Nat
  upd  : Bool
  deriving DecidableEq, Repr

/-- One program record of a step, of step core index `i`: its findings, none where the record is wrong, or the code its reads met. -/
def lookProg (m : Model) (off nprog scratch : Nat) (half : Bool) (s : State) (i : Nat) : Acc (Except Nat (Option ProgLook)) :=
    Acc.caught ((imageGet s m (off + 32 * i) 32).bind (fun rb s =>
      let r : BitVec 256 := BitVec.ofNat 256 (leNat (rb.getD []))
      let no := bits r 75 64 + 1
      let np := bits r 83 76 + 1
      let ns := bits r 89 84 + 1
      let out := rb.isNone || bits r 63 0 % 16 != 0 || bits r 127 90 != 0 || (half && (decide (128 < np) || decide (32 < ns)))
        || decide (m.len < bits r 63 0 + 16 * no) || decide (m.len < bits r 191 128 + 32 * np) || decide (m.len < bits r 255 192 + 16 * ns)
      if out then .ok (.ok none) s
      else (loadParts s m r).bind (fun x s =>
        .ok (.ok (if x.2.2.getD 0 0 ≠ 0 then none else some (progLook ⟨x.1, x.2.1, x.2.2, half, scratch, nprog⟩))) s))) .error

/-- Program records of a step, from step core index `i` on. -/
def lookProgs (m : Model) (off nprog scratch : Nat) (half : Bool) : Nat → State → Nat → Acc (List (Except Nat (Option ProgLook)))
  | 0, s, _ => .ok [] s
  | k + 1, s, i => (lookProg m off nprog scratch half s i).bind (fun y s =>
      (lookProgs m off nprog scratch half k s (i + 1)).bind (fun t s => .ok (y :: t) s))

/-- What a program's look found, where there is one. -/
def lookOf (x : Except Nat (Option ProgLook)) : Option ProgLook := match x with | .ok y => y | .error _ => none

/-- The first refusal among a step's programs: a read that failed, record faults, findings, unequal STEPBAR counts (check 8), UPDATE
(R217). -/
def progsBad (step : Nat) (xs : List (Except Nat (Option ProgLook))) : Option LoadBad :=
  let ps := xs.map lookOf
  let bars0 := match ps.head? with | some (some x) => x.bars | _ => 0
  let each := (List.range xs.length).map (fun i => match xs.getD i (.ok none) with
    | .error c => some { readBad c with step, sci := i }
    | .ok none => some { rank := 4, code := 0x0103, step, sci := i : LoadBad }
    | .ok (some x) =>
      let one := x.bad.map (fun b => { rank := b.1, code := rankCode b.1, step, check := b.2.1, op := b.2.2, sci := i : LoadBad })
      let bar := if x.bars ≠ bars0 then some { rank := 5, code := 0x0103, step, check := 8, sci := i : LoadBad } else none
      let multi := (x.upds.find? (fun u => 1 < u.2)).map (fun u => { rank := 5, code := 0x0103, step, op := u.1, sci := i : LoadBad })
      let before := ((ps.take i).map (fun y => match y with | some z => z.upds.length | none => 0)).foldl (· + ·) 0
      let second := if before + x.upds.length < 2 then none
        else (x.upds[(if before = 0 then 1 else 0)]?).map (fun u => { rank := 5, code := 0x0103, step, op := u.1, sci := i : LoadBad })
      firstBad (firstBad one bar) (firstBad multi second))
  each.foldl firstBad none

/-- Cores that placement may use, of the package or of one die (R341, R351). -/
def placeable (s : State) (aff : Option Nat) : Nat :=
  ((List.range (coreCount s)).filter (fun c => !(coreOf s c).withdrawn && (match aff with | some d => dieOf s c == d | none => true))).length

/-- NPROG is above the placeable cores, or half-cores. -/
def tooMany (s : State) (need : Nat × Bool × Option Nat) : Bool := decide (placeable s need.2.2 * (if need.2.1 then 2 else 1) < need.1)

/-- One step of the image. -/
def lookStep (s : State) (m : Model) (step : Nat) : Acc StepLook :=
  Acc.caught ((imageGet s m (m.stepOff + 64 * step) 64).bind (fun eb s =>
    let e : BitVec 512 := BitVec.ofNat 512 (leNat (eb.getD []))
    let np := bits e 10 0
    let half := bit e 11
    let aff := if bit e 12 then some (bits e 15 13) else none
    let scr := bits e 21 16
    let need := (np, half, aff)
    if eb.isNone || !between 1 1600 np || bits e 63 22 != 0 || bits e 511 192 != 0 || bits e 127 64 == 0 || bits e 127 64 % 4 != 0
        || decide (m.len < bits e 191 128 + 32 * np)
    then .ok ⟨some { rank := 4, code := 0x0103, step }, need, false⟩ s
    else
      (lookProgs m (bits e 191 128) np (65536 * scr) half np s 0).bind (fun ps s =>
        let b := progsBad step ps
        let b := if between 1 (if half then 16 else 32) scr then b else firstBad b (some { rank := 6, code := 0x0102, step })
        let b := if tooMany s need then firstBad b (some { rank := 8, code := 0x0101, step }) else b
        .ok ⟨b, need, ps.any (fun x => match lookOf x with | some y => !y.upds.isEmpty | none => false)⟩ s)))
    (fun c => ⟨some { readBad c with step }, (0, false, none), false⟩)

def lookSteps (m : Model) : Nat → State → Nat → Acc (List StepLook)
  | 0, s, _ => .ok [] s
  | k + 1, s, i => (lookStep s m i).bind (fun x s => (lookSteps m k s (i + 1)).bind (fun t s => .ok (x :: t) s))

/-- Fixer programs of the image (R213), the first refusal of the best row. -/
def lookFixers (m : Model) : Nat → State → Nat → Acc (Option LoadBad)
  | 0, s, _ => .ok none s
  | k + 1, s, i =>
    (Acc.caught ((fixImg s m i).bind (fun img s => .ok ((fixRefused img).map (fun op => ({ rank := 5, code := 0x0103, op, sci := i, fix := true } : LoadBad))) s))
      (fun c => some { readBad c with sci := i, fix := true })).bind (fun b s =>
        (lookFixers m k s (i + 1)).bind (fun t s => .ok (firstBad b t) s))

/-- A profile's fields: NINST, RINGS, FOOTPRINT, and whether they are right. -/
def profFields (w : BitVec 256) : Nat × Nat × Nat × Bool :=
  (bits w 15 0, bits w 31 16, bits w 127 64, between 1 4095 (bits w 15 0) && between 1 256 (bits w 31 16) && bits w 63 32 == 0 && bits w 255 128 == 0)

/-- Running sums over the profiles: the first at which a sum passes a limit. -/
def sumPast (f : Nat × Nat × Nat × Bool → Nat) (lim : Nat) : Nat → Nat → List (Nat × Nat × Nat × Bool) → Option Nat
  | _, _, [] => none
  | i, a, p :: t => if lim < a + f p then some i else sumPast f lim (i + 1) (a + f p) t

/-- What the profiles alone refuse: a field out of range, then LOAD_FOOTPRINT and LOAD_RINGS. Context 0 counts with the 256 rings it
may hold (R303). -/
def profsBad (s : State) (ps : List (Nat × Nat × Nat × Bool)) : Option LoadBad :=
  let wrong := ((List.range ps.length).find? (fun i => match ps[i]? with | some p => !p.2.2.2 | none => false)).map
    (fun i => { rank := 4, code := 0x0103, prof := i : LoadBad })
  let foot := (sumPast (fun p => p.1 * p.2.2.1) (rsvBase s) 0 0 ps).map (fun i => { rank := 9, code := 0x0104, prof := i : LoadBad })
  let rings := (sumPast (fun p => p.1 * p.2.1) (2 ^ 20) 0 256 ps).map (fun i => { rank := 10, code := 0x0105, prof := i : LoadBad })
  firstBad wrong (firstBad foot rings)

/-- The image as its header gives it. -/
def headModel (cva len : Nat) (h : BitVec 512) : Model :=
  ⟨cva, len, bits h 63 48, bits h 71 64, bits h 95 80, bits h 255 192, bits h 319 256, [], [], []⟩

/-- The header is right (R338), and its tables lie in the image. -/
def headRight (len : Nat) (h : BitVec 512) : Bool :=
  bits h 31 0 == 0x4C444D5A && bits h 47 32 == 1 && decide (1 ≤ bits h 63 48) && between 1 15 (bits h 71 64) && bits h 79 72 == 0
    && decide (bits h 95 80 ≤ 1024) && bits h 127 96 == 0 && bits h 319 256 % 2048 == 0 && bits h 511 320 == 0
    && decide (bits h 191 128 + 32 * bits h 71 64 ≤ len) && decide (bits h 255 192 + 64 * bits h 63 48 ≤ len)
    && decide (bits h 319 256 + 2048 * bits h 95 80 ≤ len)

/-- A profile of the image, or the refusal of a read that failed. -/
def lookProf (m : Model) (off : Nat) (s : State) (i : Nat) : Acc (Except LoadBad (Nat × Nat × Nat × Bool)) :=
  Acc.caught ((imageRead s m (off + 32 * i) 32).bind (fun b s => .ok (.ok (profFields (BitVec.ofNat 256 (leNat b)))) s))
    (fun c => .error { readBad c with prof := i })

/-- The image's profiles, from profile `i` on, or the one whose read failed. -/
def lookProfs (m : Model) (off : Nat) : Nat → State → Nat → Acc (Except LoadBad (List (Nat × Nat × Nat × Bool)))
  | 0, s, _ => .ok (.ok []) s
  | k + 1, s, i => (lookProf m off s i).bind (fun x s =>
      (lookProfs m off k s (i + 1)).bind (fun t s => .ok (x.bind (fun p => t.map (p :: ·))) s))

/-- The checks of an image that is mapped: the model it gives, or the refusal. -/
def lookImage (s : State) (cva len : Nat) : Acc (Except LoadBad Model) :=
  let m0 : Model := ⟨cva, len, 0, 0, 0, 0, 0, [], [], []⟩
  Acc.caught ((imageGet s m0 0 64).bind (fun hb s =>
    let h : BitVec 512 := BitVec.ofNat 512 (leNat (hb.getD []))
    if hb.isNone || !headRight len h then .ok (.error { rank := 4, code := 0x0103 }) s
    else
      let m := headModel cva len h
      (lookProfs m (bits h 191 128) m.nprof s 0).bind (fun pr s => match pr with
       | .error b => .ok (.error b) s
       | .ok ps =>
        (lookSteps m m.nsteps s 0).bind (fun st s =>
          (lookFixers m m.nfix s 0).bind (fun fb s =>
            let b := firstBad (st.foldl (fun b x => firstBad b x.bad) none) fb
            -- a header or profile comes before every step of its row
            let b := match profsBad s ps with
              | some x => if x.rank = 4 then some x else firstBad b (some x)
              | none => b
            match b with
            | some x => .ok (.error x) s
            | none => .ok (.ok { m with
                upds := (List.range st.length).filter (fun i => match st[i]? with | some x => x.upd | none => false)
                profs := ps.map (fun p => (p.1, p.2.1)), needs := st.map (·.need) }) s))))) (fun c => .error (readBad c))

/-- DETAIL0 and DETAIL1 of a refusal (R342). -/
def badDetail (b : LoadBad) : Nat × Nat :=
  (fieldAt 15 0 b.step + fieldAt 19 16 b.check + fieldAt 31 20 b.op, fieldAt 10 0 b.sci + fieldAt 11 11 (b2n b.fix) + fieldAt 15 12 b.prof)

/-! The checks of a step at STEP (R62, R352). -/

/-- A memory extent of an op, and whether it is written and coded. -/
structure MemExt where
  ext   : Extent
  write : Bool
  coded : Bool

/-- The memory extents of one op: the memory side of a LOAD or STORE, or a call block. The memory of an RREAD or RWRITE is another
package's. -/
def memExtent (P : LoadProg) (cnts : List Nat) (w : Op) : Option MemExt :=
  let side (pi ai : Nat) (write : Bool) : Option MemExt :=
    let p := rawCopy (P.pats.getD pi 0)
    some ⟨copyExtent p (loopSpan (P.strides.getD ai 0) cnts), write, p.coded⟩
  if isOp 2 0 w then side (cpPSRC w) (cpASRC w) false
  else if isOp 2 1 w then side (cpPDST w) (cpADST w) true
  else if 5 ≤ opClass w then some ⟨extent (ofCALL w : Nat) (0, 0) (loopSpan (P.strides.getD (ofASI w) 0) cnts) 64, false, false⟩
  else none

/-- Memory extents of a program by op index. -/
def memExtents (P : LoadProg) : Nat → List Nat → List Op → List (Nat × MemExt)
  | _, _, [] => []
  | i, stack, w :: t =>
    let here := match memExtent P stack.reverse w with | some e => [(i, e)] | none => []
    here ++ memExtents P (i + 1) (if isOp 0 2 w then (ctCNTM1 w + 1) :: stack else if isOp 0 3 w then stack.tail else stack) t

/-- Why a step is refused at STEP: code, check and op, and where. -/
structure StepBad where
  code  : Nat
  check : Nat
  op    : Nat
  sci   : Nat
  deriving DecidableEq, Repr

/-- One extent: mapped in whole and as its op uses it (check 11, with the code of R173 for what the walk meets), and not in a near window
where the step has no affinity (check 12). -/
def extentBad (s : State) (ctx : Nat) (near : Bool) (x : MemExt) : Acc (Option (Nat × Nat)) :=
  let e := x.ext
  if e.1 < 0 ∨ (2 ^ 57 : Int) < e.2 then .ok (some (0x0201, 11)) s
  else match segsOf s ctx e.1.toNat (e.2 - e.1).toNat x.write x.coded with
    | .wait s => .wait s
    | .bad c a s => if c = 0x0201 ∨ c = 0x0202 ∨ c = 0x0203 then .ok (some (c, 11)) s else .bad c a s
    | .ok gs s => .ok (if near && gs.any (fun g => !g.host && (nearDie s g.addr).isSome) then some (0x0202, 12) else none) s

def extentsBad (ctx : Nat) (near : Bool) (sci : Nat) : State → List (Nat × MemExt) → Acc (Option StepBad)
  | s, [] => .ok none s
  | s, x :: t => (extentBad s ctx near x.2).bind (fun r s => match r with
    | some (c, k) => .ok (some ⟨c, k, x.1, sci⟩) s
    | none => extentsBad ctx near sci s t)

/-- Every program of a step, in step core index order. -/
def stepExtents (m : Model) (ent : BitVec 512) (ctx : Nat) (near : Bool) : Nat → State → Nat → Acc (Option StepBad)
  | 0, s, _ => .ok none s
  | k + 1, s, i =>
    (progRec s m ent i).bind (fun r s => (loadParts s m r).bind (fun x s =>
      let P : LoadProg := ⟨x.1, x.2.1, x.2.2, bit ent 11, 0, 0⟩
      (extentsBad ctx near i s (memExtents P 0 [] x.1)).bind (fun b s => match b with
        | some b => .ok (some b) s
        | none => stepExtents m ent ctx near k s (i + 1))))

end Sys2Proof.Machine
end

