-- ==== Sys2Proof/Machine/Descriptors.lean ====
section
/-! DEFINITION. Descriptors (12, 13): how one starts, what each type does, and its completion. -/

namespace Sys2Proof.Machine

/-! Fields (R317, R320). -/

abbrev DWord := BitVec 512

def dType (d : DWord) : Nat := bits d 7 0
/-- Flags: 0 READBACK, 1 SIGNAL_ON_DONE, 2 FENCE_BEFORE, 3 INTERRUPT, 4 HINT_VALID. -/
def dFlag (d : DWord) (i : Nat) : Bool := bit d (8 + i)
def dHint (d : DWord) : Nat := bits d 31 16
/-- The reserved flags and bytes of the header. -/
def headReserved (d : DWord) : Bool := bits d 15 13 != 0 || bits d 63 32 != 0
/-- Payload bytes from byte `i` to byte `j`. -/
def dBytes (d : DWord) (j i : Nat) : Nat := bits d (8 * j + 7) (8 * i)

def knownDesc (d : DWord) : Bool := (decide (1 ≤ dType d) && decide (dType d ≤ 9)) || dType d == 0x10

/-! Starting a descriptor (R318, R319, R322, R332). -/

/-- The context of a ring takes no descriptor any more. -/
def ctxClosed (s : State) (ctx : Nat) : Bool := ctx != 0 && (ctxOf s ctx).st != .openS && (ctxOf s ctx).st != .ending

/-- A ring holds a descriptor not yet completed, and still to be, that was made ready before moment `k`. Of a stopped ring the one running
alone completes, and not where its record cannot be written. -/
def waitsOn (s : State) (n k : Nat) : Bool :=
  let r := ringOf s n
  r.v && (if r.err then r.errcode != 0x0609 && (match (unitOf s n).running with | some x => decide (x.desc.stamp < k) | none => false)
    else decide (0 < max (ahead r r.tail) (ahead r r.head)) && decide (stampOf r (unitOf s n).marks r.done < k))

/-- The condition of R319 for a descriptor made ready at moment `k` on ring `n`. -/
def fenceMet (s : State) (n k : Nat) (all : Bool) : Bool :=
  let ctx := (ringOf s n).ctx
  s.rings.ctx.all (fun e => e.1 == n || !(all || e.2.ctx == ctx) || !waitsOn s e.1 k)

def setRunning (s : State) (n : Nat) (x : Running) : State := setUnit s n { unitOf s n with running := some x }

/-- Report of a refusal common to all types: an AUTH names its CMD (R326). -/
def refusal (d : DWord) (code : Nat) : Report :=
  { Report.status_ code with detail0 := if dType d = 0x10 then bits d 143 128 else 0 }

/-- Run the descriptor of ring `n` that `is` names: the one running, or the front one, where it may start. A refusal common to all types
ends it; else `body` has its effect, told whether it starts now. -/
def runDesc (s : State) (n : Nat) (is bad : DWord → Bool) (body : State → Ring → Running → Bool → State) : State :=
  let r := ringOf s n
  let u := unitOf s n
  if !(serving s && awake s && r.v) then s
  else match u.running with
    | some x => if is x.desc.word && x.report.isNone then body s r x false else s
    | none =>
      match u.ready with
      | [] => s
      | d :: t =>
        if r.err || !is d.word || (dFlag d.word 2 && !fenceMet s n d.stamp false) then s
        else
          let x : Running := ⟨d, false, 0, 0, 0, 0, none, [], 0, []⟩
          let s := setUnit s n { u with ready := t, running := some x }
          if ctxClosed s r.ctx then report s n (refusal d.word 0x0605)
          else if headReserved d.word || bad d.word then report s n (refusal d.word 0x0606)
          else body s r x true

/-- What the host gave a ring's descriptor and its service channels is discarded. -/
def endServ (s : State) (n : Nat) : State := (List.range 16).foldl (fun s c => endHost s (whoServ n c)) (endHost s (whoRing n))

/-- A fault that a descriptor's own work meets: alone where it has had no effect, else charged to its context (R487). -/
def descFault (s : State) (n : Nat) (early : Bool) (code addr : Nat) (rep : Report) : State :=
  let r := ringOf s n
  let s := endServ (report s n { rep with status := code }) n
  if early then s
  else charge s { code, ctx := r.ctx, die := 8, unit_ := 7, addr := accAddr code addr, detail := accDetail s code addr, ring := some n }

/-- A descriptor completes without a fault. -/
def descDone (s : State) (n : Nat) (rep : Report) : State := endServ (report s n rep) n

/-! NOP and FENCE. -/

/-- NOP (R321). -/
def execDescNop (ring : Nat) (s : State) : Out State :=
  .next (runDesc s ring (fun d => dType d == 9) (fun d => dBytes d 63 16 != 0) (fun s _ _ _ => report s ring (Report.status_ 0)))

/-- FENCE (R319, R321, R174): it waits for what was made ready before it, and discards cached translations. -/
def execFence (ring : Nat) (s : State) : Out State :=
  .next (runDesc s ring (fun d => dType d == 5) (fun d => bits d 511 130 != 0 || (bit d 129 && (ringOf s ring).ctx != 0))
    (fun s r x _ =>
      let all := bit x.desc.word 129
      if !fenceMet s ring x.desc.stamp all then s
      else
        let s := if bit x.desc.word 128 then flushTlb s (if all then none else some r.ctx) else s
        report s ring (Report.status_ 0)))

/-! SIGNAL. -/

def sgKind (d : DWord) : Nat := bits d 129 128
def sgPkg (d : DWord) : Nat := bits d 155 144
def sgRing (d : DWord) : Nat := bits d 179 160
def sgAddr (d : DWord) : Nat := dBytes d 31 24
def sgValue (d : DWord) : Nat := dBytes d 39 32
def isSignal (k : Nat) (d : DWord) : Bool := dType d == 6 && sgKind d == k
def sgBad (d : DWord) : Bool :=
  bits d 143 130 != 0 || bits d 159 156 != 0 || bits d 191 180 != 0 || bits d 511 320 != 0 || (decide (sgKind d < 2) && sgAddr d % 8 != 0)

/-- SIGNAL KIND 0. -/
def execSignalWrite (ring : Nat) (s : State) : Out State :=
  .next (runDesc s ring (isSignal 0) sgBad (fun s r x _ =>
    match cvaWrite s ⟨whoRing ring, r.ctx⟩ (sgAddr x.desc.word) (leBytes 8 (sgValue x.desc.word)) false with
    | .wait s => s
    | .bad c a s => descFault s ring true c a (Report.status_ c)
    | .ok _ s => descDone s ring (Report.status_ 0)))

/-- SIGNAL KIND 1: an atomic at the word's home, which answers with a Done; of a host word, a read and a write (the spec gives host
memory no home atomic). -/
def signalAdd (ring : Nat) (s : State) (r : Ring) (x : Running) (_ : Bool) : State :=
  let a := sgAddr x.desc.word
  let v := sgValue x.desc.word
  if x.begun then s
  else match xlate s r.ctx a true false with
    | .wait s => s
    | .bad c a s => descFault s ring true c a (Report.status_ c)
    | .ok g s =>
      if g.host then
        match (hostRead s ⟨whoRing ring, r.ctx⟩ g.addr 8).bind (fun bs s => hostWrite s ⟨whoRing ring, r.ctx⟩ g.addr (leBytes 8 (leNat bs + v))) with
        | .wait s => s
        | .bad c a s => descFault s ring true c a (Report.status_ c)
        | .ok _ s => descDone s ring (Report.status_ 0)
      else post (setRunning s ring { x with begun := true }) (.req ⟨.ring ring, lineOf g.addr, .ath (g.addr % 64) false (BitVec.ofNat 64 v) 0⟩)

def execSignalAdd (ring : Nat) (s : State) : Out State := .next (runDesc s ring (isSignal 1) sgBad (signalAdd ring))

/-- SIGNAL KIND 2: a doorbell of a local ring (R321). -/
def execSignalRing (ring : Nat) (s : State) : Out State :=
  .next (runDesc s ring (isSignal 2) sgBad (fun s _ x _ =>
    report (ringBell s (sgRing x.desc.word) (BitVec.ofNat 64 (sgValue x.desc.word))) ring (Report.status_ 0)))

/-- SIGNAL KIND 3: a DBELL to another package's ring, done once it is acknowledged (R253, R310). -/
def execSignalRemoteRing (ring : Nat) (s : State) : Out State :=
  .next (runDesc s ring (isSignal 3) sgBad (fun s r x _ =>
    if x.begun then s
    else
      let d := x.desc.word
      match issueReq (setRunning s ring { x with begun := true }) r.ctx tDBELL (sgPkg d) 0 8 false (BitVec.ofNat 64 (sgRing d))
          (padSlots (leBytes 8 (sgValue d))) (.dbell ring) with
      | some s => s
      | none => descFault s ring true 0x0403 (sgPkg d) (Report.status_ 0x0403)))

/-! COPY (R157, R320, R321). -/

/-- The pattern words of a COPY with PAT set, as read before, or read now. -/
def copyPats (s : State) (n ctx : Nat) (x : Running) : Acc (List (BitVec 256)) :=
  if !x.pats.isEmpty then .ok x.pats s
  else (cvaRead s ⟨whoRing n, ctx⟩ (dBytes x.desc.word 23 16) 32 false).bind (fun a s =>
    (cvaRead s ⟨whoRing n, ctx⟩ (dBytes x.desc.word 31 24) 32 false).bind (fun b s => .ok [BitVec.ofNat 256 (leNat a), BitVec.ofNat 256 (leNat b)] s))

/-- The two sides of a COPY, and the pattern words they were read from; none where a field is out of its range. -/
def copySides (s : State) (n ctx : Nat) (x : Running) : Acc (Option (CPat × CPat × List (BitVec 256))) :=
  let d := x.desc.word
  let len := dBytes d 39 32
  let plain (a : Nat) (coded : Bool) : CPat := ⟨true, coded, len, a, [1, 1, 1], [0, 0, 0]⟩
  if !bit d 320 then
    .ok (if between 1 (2 ^ 40) len then some (plain (dBytes d 23 16) (bit d 321), plain (dBytes d 31 24) (bit d 322), []) else none) s
  else if len ≠ 0 ∨ bit d 321 = true ∨ bit d 322 = true then .ok none s
  else (copyPats s n ctx x).bind (fun ps s =>
    let wa := ps.getD 0 0
    let wb := ps.getD 1 0
    .ok (if sideBad wa true || sideBad wb true || cpBytes (rawCopy wa) != cpBytes (rawCopy wb) then none else some (rawCopy wa, rawCopy wb, ps)) s)

/-- Extents of two patterns overlap. -/
def overlap (a b : CPat) : Bool :=
  let ea := copyExtent a (0, 0)
  let eb := copyExtent b (0, 0)
  decide (ea.1 < eb.2) && decide (eb.1 < ea.2)

/-- What a COPY checks at acceptance. -/
def copyAccept (s : State) (ctx : Nat) (a b : CPat) : Acc Unit :=
  if b.coded && !wholeBlocks (runsOf b) then .bad 0x0301 0 s
  else
    (rangesSegs ctx false a.coded s (joinRuns (runsOf a))).bind (fun _ s =>
      (rangesSegs ctx true b.coded s (joinRuns (runsOf b))).bind (fun _ s => if overlap a b then .bad 0x0202 0 s else .ok () s))

/-- One piece of 2 MiB from byte `pos` on, on its service channel: read, checked, written. -/
def copyPiece (s : State) (n ctx pos : Nat) (a b : CPat) : Acc Unit :=
  let k := min (2 ^ 21) (cpBytes a - pos)
  let q : Req := ⟨whoServ n (pos / 2 ^ 21 % 16), ctx⟩
  let cut (p : CPat) : List (Nat × Nat) := joinRuns (takeRuns k (dropRuns pos (runsOf p)))
  (rangesSegs ctx false a.coded s (cut a)).bind (fun ga s =>
    (rangesSegs ctx true b.coded s (cut b)).bind (fun gb s =>
      (segsReadC q a.coded s ga).bind (fun bs s => segsWriteC q b.coded s gb bs)))

def copyReport (status pos : Nat) : Report := { Report.status_ status with detail1 := pos }

/-- COPY: accepted once, then a piece each time it is run. What a piece meets is charged to the context (R152, R157). -/
def copyDesc (ring : Nat) (s : State) (r : Ring) (x : Running) (_ : Bool) : State :=
  match copySides s ring r.ctx x with
  | .wait s => s
  | .bad c a s => descFault s ring (!x.begun) c a (copyReport c x.pos)
  | .ok none s => descDone s ring (Report.status_ 0x0606)
  | .ok (some (a, b, ps)) s =>
    let x := { x with pats := ps }
    match (if x.begun then Acc.ok () s else copyAccept s r.ctx a b) with
    | .wait s => s
    | .bad c ad s => descFault s ring true c ad (copyReport c 0)
    | .ok _ s =>
      let s := setRunning s ring { x with begun := true }
      match copyPiece s ring r.ctx x.pos a b with
      | .wait s => s
      | .bad c ad s => descFault s ring false c ad (copyReport c x.pos)
      | .ok _ s =>
        let pos := min (cpBytes a) (x.pos + 2 ^ 21)
        let s := setRunning s ring { x with begun := true, pos := pos }
        if pos = cpBytes a then descDone s ring (copyReport 0 pos) else s

def unitCopy (ring : Nat) (s : State) : State := runDesc s ring (fun d => dType d == 2) (fun d => bits d 511 323 != 0) (copyDesc ring)

/-! SEAL (R155, R156). -/

def slCva (d : DWord) : Nat := dBytes d 23 16
def slLen (d : DWord) : Nat := dBytes d 31 24

/-- A block's bytes as current at the homes, and its code as stored. -/
def blockNow (s : State) (b : Nat) : Acc (List Byte) := devRead s (b * 4096) 4096

/-- Seal blocks in turn: how many were sealed, and the poisoned line that ended it. -/
def sealRun : List Nat → State → Nat → Acc (Nat × Option Nat)
  | [], s, k => .ok (k, none) s
  | b :: t, s, k =>
    match blockNow s b with
    | .ok bs s => sealRun t (putCode s b (crc32c bs)) (k + 1)
    | .wait s => .wait s
    | .bad _ a s => .ok (k, some a) s

/-- Verify blocks in turn, `cva` the first one's CVA: mismatches, and the first mismatch's CVA. -/
def verifyRun : List Nat → State → Nat → Nat × Nat → Acc (Nat × Nat)
  | [], s, _, x => .ok x s
  | b :: t, s, cva, x =>
    (blockNow s b).bind (fun bs s =>
      verifyRun t s (cva + 4096) (if crc32c bs = codeAt s (b * 4096) then x else (x.1 + 1, if x.1 = 0 then cva else x.2)))

/-- A SEAL's range is right: aligned, and wholly mapped. -/
def sealAccept (s : State) (ctx : Nat) (d : DWord) : Acc Unit :=
  if slCva d % 4096 ≠ 0 ∨ slLen d % 4096 ≠ 0 then .bad 0x0301 0 s else cvaCheck s ctx (slCva d) (slLen d) false true

/-- Blocks of the piece of 2 MiB from byte `pos` on, all of whose lines may be read now. -/
def sealBlocksOf (s : State) (ctx : Nat) (d : DWord) (pos : Nat) : Acc (List Nat) :=
  (segsOf s ctx (slCva d + pos) (min (2 ^ 21) (slLen d - pos)) false true).bind (fun gs s =>
    match readyLines s false ((gs.filter (fun g => !g.host)).flatMap (fun g => linesOf g.addr g.len)) with
    | some s => .wait s
    | none => .ok (segBlocks gs) s)

/-- SEAL MODE 0: a piece each time it is run; a poisoned line ends it, the blocks before it keeping their new codes. -/
def sealDesc (ring : Nat) (s : State) (r : Ring) (x : Running) (_ : Bool) : State :=
  let d := x.desc.word
  match (if x.begun then Acc.ok () s else sealAccept s r.ctx d).bind (fun _ s => sealBlocksOf s r.ctx d x.pos) with
  | .wait s => s
  | .bad c a s => descFault s ring (x.pos == 0) c a (Report.status_ c)
  | .ok bs s =>
    match sealRun bs s 0 with
    | .wait s => s
    | .bad c a s => descFault s ring (x.pos == 0) c a (Report.status_ c)
    | .ok (k, some a) s => descFault s ring (x.pos + k == 0) 0x0304 a (Report.status_ 0x0304)
    | .ok (_, none) s =>
      let pos := min (slLen d) (x.pos + 2 ^ 21)
      let s := setRunning s ring { x with begun := true, pos := pos }
      if pos = slLen d then descDone s ring (Report.status_ 0) else s

def sealBad (d : DWord) : Bool := bits d 511 257 != 0

def unitSealRange (ring : Nat) (s : State) : State := runDesc s ring (fun d => dType d == 3 && !bit d 256) sealBad (sealDesc ring)

/-- SEAL MODE 1: nothing is written; mismatches are counted and the first is reported. -/
def verifyDesc (ring : Nat) (s : State) (r : Ring) (x : Running) (_ : Bool) : State :=
  let d := x.desc.word
  match ((if x.begun then Acc.ok () s else sealAccept s r.ctx d).bind (fun _ s => sealBlocksOf s r.ctx d x.pos)).bind (fun bs s =>
      verifyRun bs s (slCva d + x.pos) (x.bad, x.badAt)) with
  | .wait s => s
  | .bad c a s => descFault s ring true c a { Report.status_ c with detail0 := x.bad % 2 ^ 32, detail1 := x.badAt }
  | .ok (n, at_) s =>
    let pos := min (slLen d) (x.pos + 2 ^ 21)
    let s := setRunning s ring { x with begun := true, pos := pos, bad := n, badAt := at_ }
    if pos = slLen d then descDone s ring { Report.status_ 0 with detail0 := n % 2 ^ 32, detail1 := at_ } else s

def unitSealVerify (ring : Nat) (s : State) : State :=
  runDesc s ring (fun d => dType d == 3 && bit d 256) sealBad (verifyDesc ring)

/-! TABLE (R181 to R186, R321). -/

def tbUnit (d : DWord) : Nat := bits d 159 144
def tbTid (d : DWord) : Nat := bits d 143 136
def tbCva (d : DWord) : Nat := dBytes d 31 24
def tbReserved (d : DWord) : Bool := bits d 135 129 != 0 || bits d 191 160 != 0 || bits d 511 256 != 0

/-- TABLE CALL: queued at its loupe, of all sixteen with UNIT[15], once a place is free. -/
def execTableCall (ring : Nat) (s : State) : Out State :=
  .next (runDesc s ring (fun d => dType d == 4 && !bit d 128) (fun d => tbReserved d || tbUnit d / 16 % 2048 != 0)
    (fun s r x _ =>
      let n := pickLoupe s (tbUnit x.desc.word) (List.range 16)
      if x.begun || decide (16 ≤ queuedAt s n) then s
      else
        let c : LoupeCall := ⟨callUid s, .desc ring, r.ctx, tbCva x.desc.word, none⟩
        nextUid (setLoupe (setRunning s ring { x with begun := true, uid := callUid s }) n { loupeOf s n with queue := (loupeOf s n).queue ++ [c] })))

/-- The 64 B entry of a registration is right (R181), for a ring of this context. -/
def entryOk (ctx : Nat) (e : BitVec 512) : Bool :=
  let f := teFmt e
  teCtx e == ctx && decide (f < 14) && decide (tePbits e ≤ 16) && between 6 16 (bits e 27 23) && bits e 31 28 == 0
    && teRowBytes e % 64 == 0 && between 64 65536 (teRowBytes e) && decide (teRowBytes e ≤ teStride e)
    && (!isMX f || teRowBytes e * 8 % (32 * elemBits f) == 0) && bits e 511 128 == 0

/-- One entry of a partition map is right (R182, R185). -/
def bucketOk (s : State) (e : BitVec 512) (w : BitVec 256) : Bool :=
  let own := pmPkg w == ownId s
  let n := pmRows w
  bits w 15 12 == 0 && bits w 63 48 == 0 && pmBase w % 4096 == 0 && pmSbase w % 64 == 0 && pmLz w % 4096 == 0
    && (isMX (teFmt e) || pmSbase w == 0)
    && (!own || ((n == 0 || reachable s (pmBase w) ((n - 1) * teStride e + teRowBytes e))
      && (n == 0 || !isMX (teFmt e) || reachable s (pmSbase w) ((n - 1) * teSstride e + teScales e))
      && (pmLz w == 0 || reachable s (pmLz w) 64)))

/-- A call naming a table is queued or running (R185). What a queued call names stands in its block, which the ring's own access reads;
while it cannot be read, the answer waits (log entry 116). -/
def tableBusy (s : State) (ring tid : Nat) : Acc Bool :=
  if s.loupes.any (fun e => match e.2.run with | some r => lcTID r.block == tid | none => false) then .ok true s
  else (s.loupes.flatMap (fun e => e.2.queue)).foldl (fun (acc : Acc Bool) c => acc.bind (fun b s =>
    if b then .ok true s
    else match cvaRead s ⟨whoRing ring, c.ctx⟩ c.cva 1 false with
      | .ok bs s => .ok (leNat bs == tid) s
      | .wait s => .wait s
      | .bad _ _ s => .wait s)) (.ok false s)

/-- TABLE REGISTER (R181, R185). -/
def registerTable (ring : Nat) (s : State) (r : Ring) (x : Running) (_ : Bool) : State :=
  let tid := tbTid x.desc.word
  let q : Req := ⟨whoRing ring, r.ctx⟩
  match cvaRead s q (tbCva x.desc.word) 64 false with
  | .wait s => s
  | .bad c a s => descFault s ring true c a (Report.status_ c)
  | .ok bs s =>
    let e : BitVec 512 := BitVec.ofNat 512 (leNat bs)
    match tableBusy s ring tid with
    | .wait s => s
    | .bad c a s => descFault s ring true c a (Report.status_ c)
    | .ok true s => descDone s ring (Report.status_ 0x0120)
    | .ok false s =>
    if !teV e then descDone (if teCtx e = r.ctx then { s with tables := tdel s.tables tid } else s) ring (Report.status_ (if teCtx e = r.ctx then 0 else 0x0120))
    else if !entryOk r.ctx e then descDone s ring (Report.status_ 0x0120)
    else match cvaRead s q (teMapCva e) (32 * 2 ^ tePbits e) false with
      | .wait s => s
      | .bad c a s => descFault s ring true c a (Report.status_ c)
      | .ok mb s =>
        let map := chunks 256 32 (2 ^ tePbits e) mb
        let held := (s.tables.filter (fun t => t.1 != tid)).foldl (fun n t => n + 32 * t.2.map.length) 0
        if !map.all (bucketOk s e) || decide (2 ^ 26 < held + 32 * map.length) then descDone s ring (Report.status_ 0x0120)
        else descDone { s with tables := tset ⟨0, []⟩ s.tables tid ⟨e, map⟩ } ring (Report.status_ 0)

def execTableRegister (ring : Nat) (s : State) : Out State :=
  .next (runDesc s ring (fun d => dType d == 4 && bit d 128) tbReserved (registerTable ring))

/-! STEP (R321, R345, R352). -/

def stNo (d : DWord) : Nat := bits d 143 128
def stWdog (d : DWord) : Nat := bits d 191 160

/-- A step as it joins the order of waiting steps. -/
def newStep (s : State) (ring : Nat) (r : Ring) (x : Running) (e : BitVec 512) (upd : Bool) : StepRec where
  uid := s.uid
  ctx := r.ctx
  stepno := stNo x.desc.word
  cls := r.prio
  ring := some ring
  didx := x.desc.idx
  csw := none
  nprog := bits e 10 0
  split := bit e 11
  aff := if bit e 12 then some (bits e 15 13) else none
  scratch := bits e 21 16
  loss := bits e 127 64
  wdog := if stWdog x.desc.word = 0 then r.defwdog else stWdog x.desc.word
  used := 0
  st := .waiting
  first := s.sched.stamp
  waited := 0
  placedAt := 0
  quiet := 0
  slots := []
  set := none
  saved := []
  endedN := 0
  ended := []
  sat := false
  nf := false
  upd := upd
  applied := false
  nonfin := false
  voided := false

/-- A step joins the order. -/
def joinOrder (s : State) (t : StepRec) : State :=
  nextUid { s with sched := { s.sched with steps := s.sched.steps ++ [t], stamp := s.sched.stamp + 1 } }

/-- What STEP checks once its step may start: LOSSCVA, and the memory extents of every program (R352). -/
def stepCheck (s : State) (m : Model) (ctx : Nat) (e : BitVec 512) : Acc (Option StepBad) :=
  match segsOf s ctx (bits e 127 64) 4 false false with
  | .wait s => .wait s
  | .bad c a s => if c = 0x0304 then .bad c a s else .ok (some ⟨0x0201, 0, 0xFFF, 0x7FF⟩) s
  | .ok _ s => stepExtents m e ctx (!bit e 12) (bits e 10 0) s 0

/-- A STEP of the same context that was handed over before moment `k` waits on another ring (R316, R345). -/
def earlierStep (s : State) (ring ctx k : Nat) : Bool :=
  s.rings.unit_.any (fun e => e.1 != ring && (ringOf s e.1).ctx == ctx
    && match e.2.running with | some x => !x.begun && x.report.isNone && dType x.desc.word == 1 && decide (x.pos < k) | none => false)

/-- A STEP is refused; a commit that waited for the context's step may then be made (R228). -/
def refuseStep (s : State) (ring : Nat) (rep : Report) : State := settleCommits (report (endHost s whoSched) ring rep) (ringOf s ring).ctx

/-- STEP: refused, waiting on its ring behind another step of its context (R345), or joined to the order. Steps of one context go in the
order in which the rings handed them over. -/
def stepDesc (ring : Nat) (s : State) (r : Ring) (x : Running) (fresh : Bool) : State :=
  let no := stNo x.desc.word
  let x := if fresh then { x with pos := s.sched.stamp } else x
  let s := if fresh then setRunning { s with sched := { s.sched with stamp := s.sched.stamp + 1 } } ring x else s
  if x.begun then s
  else if (ctxOf s r.ctx).st == .ending then refuseStep s ring (Report.status_ 0x0605)
  else match s.sched.model with
    | none => refuseStep s ring (Report.status_ 0x0606)
    | some m =>
      if r.ctx = 0 ∨ m.nsteps ≤ no then refuseStep s ring (Report.status_ 0x0606)
      else if s.sched.steps.any (fun t => t.ctx == r.ctx) || earlierStep s ring r.ctx x.pos then s
      else match (stepEntry s m no).bind (fun e s => (stepCheck s m r.ctx e).bind (fun b s => .ok (e, b) s)) with
        | .wait s => s
        | .bad c _ s => refuseStep s ring { Report.status_ c with detail0 := 0xFFF + 65536 * 0x7FF }
        | .ok (_, some b) s =>
          refuseStep s ring { Report.status_ b.code with detail0 := fieldAt 11 0 b.op + fieldAt 15 12 b.check + fieldAt 26 16 b.sci }
        | .ok (e, none) s =>
          let s := endHost s whoSched
          joinOrder (setRunning s ring { x with begun := true, uid := s.uid }) (newStep s ring r x e (m.upds.contains no))

/-- STEP (R352); none starts while a change of membership is waiting for the steps in flight (R296). -/
def execStep (ring : Nat) (s : State) : Out State :=
  .next (if s.pod.holdSteps then s
    else runDesc s ring (fun d => dType d == 1) (fun d => bits d 159 144 != 0 || dBytes d 63 24 != 0) (stepDesc ring))

/-! LOAD_MODEL and END_CONTEXT (R341, R344, R347). -/

/-- A LOAD_MODEL is past its BUSY check on another ring. -/
def otherLoad (s : State) (ring : Nat) : Bool :=
  s.rings.unit_.any (fun e => e.1 != ring && (match e.2.running with | some x => x.begun && dType x.desc.word == 7 && x.report.isNone | none => false))

/-- A context other than 0 is open, tearing down or ending. -/
def anyLive (s : State) : Bool := s.sched.ctxs.any (fun e => e.1 != 0 && (e.2.st == .openS || e.2.st == .teardown || e.2.st == .ending))

/-- A refusal of a LOAD_MODEL that names no step, program or profile (R342). -/
def loadRefusal (code : Nat) : Report := { Report.status_ code with detail0 := 0xFFFF }

/-- The image is read once more for its digest, and becomes the resident model (R474). -/
def takeModel (s : State) (ring : Nat) (m : Model) : State :=
  match imageRead s m 0 m.len with
  | .wait s => s
  | .bad c _ s => report (endHost s whoSched) ring (loadRefusal c)
  | .ok bs s =>
    let s := setMlog (endHost s whoSched) 1 (Config.sha3 bs)
    let s := { s with sched := { s.sched with model := some m }, sec := { s.sec with loads := s.sec.loads + 1 } }
    report s ring { Report.status_ 0 with detail0 := m.nsteps, detail1 := m.nprof + 65536 * m.nfix }

/-- LOAD_MODEL: BUSY first; then the resident model goes, and the image is checked. -/
def loadDesc (ring : Nat) (s : State) (_ : Ring) (x : Running) (_ : Bool) : State :=
  let cva := dBytes x.desc.word 23 16
  let len := dBytes x.desc.word 31 24
  if !x.begun && (anyLive s || otherLoad s ring) then report s ring (loadRefusal 0x0106)
  else
    let s := setRunning (setMlog { s with sched := { s.sched with model := none } } 1 (zeros 32)) ring { x with begun := true }
    if len = 0 then report s ring (Report.status_ 0)
    else match segsOf s 0 cva len false false with
      | .wait s => s
      | .bad c _ s => report s ring (loadRefusal (if c = 0x0304 then c else 0x0201))
      | .ok _ s =>
        match lookImage s cva len with
        | .wait s => s
        | .bad c _ s => report (endHost s whoSched) ring (loadRefusal c)
        | .ok (.error b) s =>
          report (endHost s whoSched) ring { Report.status_ b.code with detail0 := (badDetail b).1, detail1 := (badDetail b).2 }
        | .ok (.ok m) s => takeModel s ring m

def execLoadModel (ring : Nat) (s : State) : Out State :=
  .next (runDesc s ring (fun d => dType d == 7) (fun d => dBytes d 63 32 != 0 || (ringOf s ring).ctx != 0) (loadDesc ring))

def ecCtx (d : DWord) : Nat := bits d 139 128
def ecBad (s : State) (ring : Nat) (d : DWord) : Bool :=
  bits d 143 140 != 0 || bits d 511 145 != 0 || (ringOf s ring).ctx != 0 || ecCtx d == 0

/-- An END_CONTEXT is held as pending on its slot; it cancels an OPEN latched there (R362). -/
def holdEnd (s : State) (ring c : Nat) : State :=
  setCtx s c { ctxOf s c with endPend := (ctxOf s c).endPend ++ [ring], openLatch := none }

/-- END_CONTEXT of a FREE slot, or of a GONE one: its rings go once none has a descriptor running. -/
def endShut (s : State) (ring c : Nat) : State :=
  if (ctxOf s c).st = .gone then
    (if (ringsOf s c).all (fun n => (unitOf s n).running.isNone) then freeSlot (holdEnd s ring c) c else s)
  else report s ring (Report.status_ 0x0606)

/-- END_CONTEXT with ABORT 0: an open context is ENDING; one ending or tearing down holds the descriptor as pending. -/
def execEndContext (ring : Nat) (s : State) : Out State :=
  .next (runDesc s ring (fun d => dType d == 8 && !bit d 144) (ecBad s ring) (fun s _ x _ =>
    let c := ecCtx x.desc.word
    let held (s : State) : State := holdEnd (setRunning s ring { x with begun := true }) ring c
    if x.begun then s
    else match (ctxOf s c).st with
      | .openS => held (setCtx s c { ctxOf s c with st := .ending })
      | .ending => held s
      | .teardown => held s
      | .gone => endShut s ring c
      | .free => endShut s ring c))

/-- END_CONTEXT with ABORT 1: a teardown with CTX_GONE as the code on every running descriptor. -/
def execEndContextAbort (ring : Nat) (s : State) : Out State :=
  .next (runDesc s ring (fun d => dType d == 8 && bit d 144) (ecBad s ring) (fun s _ x _ =>
    let c := ecCtx x.desc.word
    let held (s : State) : State := holdEnd (setRunning s ring { x with begun := true }) ring c
    if x.begun then s
    else match (ctxOf s c).st with
      | .openS => beginTeardown (held s) c 0x0605 0x0605 0 none
      | .ending => beginTeardown (held s) c 0x0605 0x0605 0 none
      | .teardown => held s
      | .gone => endShut s ring c
      | .free => endShut s ring c))

/-! Completion (R324 to R329). -/

/-- A completion record's 32 bytes (R324). -/
def recordBytes (r : Ring) (x : Running) (p : Report) : List Byte :=
  let k := x.desc.idx
  leBytes 8 (dBytes x.desc.word 15 8) ++ leBytes 3 k ++ leBytes 1 (dType x.desc.word) ++ leBytes 2 p.status
    ++ leBytes 1 (p.cflags + (1 - (k >>> r.logsize) % 2)) ++ [0] ++ leBytes 4 p.loss.toNat ++ leBytes 4 p.detail0 ++ leBytes 8 p.detail1

/-- Engines of a descriptor that the host has given GO for all they wrote. -/
def backReady (s : State) (x : Running) : List (Nat × Nat) := x.wrote.filter (fun e => !s.coh.hout.any (fun o => o.kind == .write && o.who == e.1))

/-- The read-backs of R328 and R400: the last line each engine wrote, once it holds GO for all it wrote. A link that is lost gives none. -/
def readBack (s : State) (n : Nat) (x : Running) : State :=
  if s.cxl.link = .down then setRunning s n { x with phase := 1, wrote := [] }
  else
    let now := backReady s x
    let s := now.foldl (fun s e =>
      send { s with coh := { s.coh with hout := s.coh.hout ++ [⟨e.2, .rdCurr, whoRing n, (ringOf s n).ctx, some (n, x.desc.idx)⟩] } } (.cxl mRdCurr (e.2 * 64) [])) s
    setRunning s n { x with phase := 1, wrote := x.wrote.filter (fun e => !now.contains e) }

/-- Anything of the ring's own accesses is out to the host. -/
def ownOut (s : State) (n : Nat) : Bool := s.coh.hout.any (fun o => o.who == whoRing n)

/-- The ring runs no descriptor any more. -/
def dropRunning (s : State) (n : Nat) : State := setUnit s n { unitOf s n with running := none }

/-- The descriptor leaves its ring without a record; an AUTH among them is over, and the reset it armed does not come (R335). -/
def loseRunning (s : State) (n : Nat) : State :=
  dropRunning { s with sec := { s.sec with auth := match s.sec.auth with | some (m, a) => if m = n then none else some (m, a) | none => none } } n

def setPhase (s : State) (n : Nat) (x : Running) (k : Nat) : State := setRunning s n { x with phase := k }

/-- Step 5: the next descriptor may start; a package or domain reset that an AUTH armed begins (R335). A ring that a link loss has stopped
sends no vector (R409 step 5). -/
def endRunning (s : State) (n : Nat) (x : Running) : State :=
  let s := if dFlag x.desc.word 3 && !((ringOf s n).err && s.cxl.lost) then sendVec s (ringOf s n).msix else s
  let s := dropRunning (endHost s (whoRing n)) n
  match s.sec.auth with
  | some (m, false, [lvl]) => if m = n then raiseAt { s with sec := { s.sec with auth := none } } lvl.toNat 8 else s
  | _ => s

/-- Step 3: SIGWORD. A write the host cannot take is lost with the link, which stops the ring by itself; one whose translation is refused
stops it with RING_CMPL (R401). -/
def signalDone (s : State) (n : Nat) (x : Running) : State :=
  let r := ringOf s n
  if !dFlag x.desc.word 1 || r.sigaddr == 0 then endRunning s n x
  else if r.shost then
    match hostWrite s ⟨whoRing n, r.ctx⟩ r.sigaddr (leBytes 8 r.sigword.toNat) with
    | .wait s => s
    | .bad c _ s => endRunning (if c = 0x0201 ∧ (ringOf s n).err = false then stopRing s n 0x0609 x.desc.idx else s) n x
    | .ok _ s => setPhase s n x 3
  else if ppaTop < r.sigaddr + 8 then endRunning s n x
  else match devWrite s r.sigaddr (leBytes 8 r.sigword.toNat) with
    | .wait s => s
    | .bad _ _ s => endRunning s n x
    | .ok _ s => endRunning s n x

/-- Step 2 is over: DONE advances, and a descriptor's own hint counts from now (R313). -/
def recordSeen (s : State) (n : Nat) (x : Running) : State :=
  let r := ringOf s n
  let r := { r with done := (r.done + 1) % 2 ^ 24 }
  let u := unitOf s n
  let u := { u with marks := liveMarks r u.marks, hint := if dFlag x.desc.word 4 then some (hintTicks (dHint x.desc.word)) else u.hint }
  let x := { x with phase := 4 }
  signalDone (setRunning (putRing (setUnit s n u) n r) n x) n x

/-- Step 2: the record is written; a write that cannot be completed stops the ring (R329). -/
def writeRecord (s : State) (n : Nat) (x : Running) (p : Report) : State :=
  let r := ringOf s n
  let a := r.cbase + 32 * (x.desc.idx % 2 ^ r.logsize)
  let fails (s : State) : State :=
    let s := loseRunning (endHost s (whoRing n)) n
    if (ringOf s n).err then s else stopRing s n 0x0609 x.desc.idx (hostUp s)
  if r.chost then
    match hostWrite s ⟨whoRing n, r.ctx⟩ a (recordBytes r x p) with
    | .wait s => s
    | .bad _ _ s => fails s
    | .ok _ s => setPhase s n x 2
  else match devWrite s a (recordBytes r x p) with
    | .wait s => s
    | .bad _ _ s => fails s
    | .ok _ s => recordSeen s n x

/-- The record of an error must be visible before a completion record that carries its code (R490). -/
def errorAhead (s : State) (p : Report) : Bool := p.status != 0 && (s.errs.hostWait.isSome || s.errs.held.any (fun e => e.code == p.status))

/-- A descriptor with its report goes through the steps of R327, as far as they go. -/
def completeDesc (s : State) (n : Nat) (x : Running) (p : Report) : State :=
  let r := ringOf s n
  if p.norec then (if r.err then loseRunning s n else stopRing (loseRunning s n) n 0x0609 x.desc.idx (hostUp s))
  else if r.err && r.errcode == 0x0609 && decide (x.phase < 3) then loseRunning s n
  else if x.phase = 0 then
    (if dFlag x.desc.word 0 && !x.wrote.isEmpty then readBack s n x
     else if errorAhead s p then s else writeRecord s n x p)
  else if x.phase = 1 then
    (if !x.wrote.isEmpty then readBack s n x
     else if ownOut s n || errorAhead s p then s else writeRecord (endHost s (whoRing n)) n x p)
  else if ownOut s n then s
  else if x.phase = 2 then recordSeen s n x
  else if x.phase = 3 then endRunning s n x
  else signalDone s n x

/-- DESCRIPTOR_COMPLETE (R322, R327, R332): what its ring runs completes; a front descriptor of a reserved type, or of a context gone, is
refused first. -/
def execDescriptorComplete (ring : Nat) (s : State) : Out State :=
  let r := ringOf s ring
  let u := unitOf s ring
  .next (if !(serving s && r.v) then s
  else match u.running with
    | some x => (match x.report with | some p => completeDesc s ring x p | none => s)
    | none =>
      match u.ready with
      | [] => s
      | d :: t =>
        let gone := ctxClosed s r.ctx
        if r.err || !(gone || (!knownDesc d.word && (!dFlag d.word 2 || fenceMet s ring d.stamp false))) then s
        else
          let p := refusal d.word (if gone then 0x0605 else 0x0606)
          let x : Running := ⟨d, true, 0, 0, 0, 0, some p, [], 0, []⟩
          completeDesc (setUnit s ring { u with ready := t, running := some x }) ring x p)

end Sys2Proof.Machine
end

