-- ==== Sys2Proof/Machine/Auth.lean ====
section
/-! DEFINITION. Authenticated commands (R334, R335): the AUTH descriptor, and what each command does at step 5. -/

namespace Sys2Proof.Machine

/-! The descriptor (R320, R334). -/

def auCmd (d : DWord) : Nat := bits d 143 128
def auLen (d : DWord) : Nat := bits d 191 160
def auCva (d : DWord) : Nat := bits d 255 192
def auCounter (d : DWord) : Nat := bits d 319 256
def auBad (s : State) (ring : Nat) (d : DWord) : Bool :=
  bits d 159 144 != 0 || bits d 383 320 != 0 || (ringOf s ring).ctx != 0 || !between 1 0xA (auCmd d) || decide (2 ^ 24 < auLen d)

/-- An AUTH runs on its ring and is not finished with. -/
def authWaiting (u : RingUnit) : Option Nat :=
  match u.running with
  | some x => if dType x.desc.word = 0x10 ∧ x.report = none ∧ x.begun = false then some x.desc.stamp else none
  | none => none

/-- It is this AUTH's turn: none is in progress, and none that waits was ready before it. -/
def authTurn (s : State) (ring stamp : Nat) : Bool :=
  s.sec.auth.isNone && !s.rings.unit_.any (fun e => e.1 != ring && (match authWaiting e.2 with | some k => decide (k < stamp) | none => false))

def auReport (d : DWord) (status : Nat) (accepted : Bool) : Report :=
  { Report.status_ status with detail0 := auCmd d, detail1 := if accepted then auCounter d else 0 }

/-- Steps 1 to 4: the payload is copied, the tag and the counter are checked, and the counter is kept. -/
def authDesc (ring : Nat) (s : State) (_ : Ring) (x : Running) (_ : Bool) : State :=
  let d := x.desc.word
  if x.begun || !authTurn s ring x.desc.stamp then s
  else match s.flash.current with
    | none => descDone s ring (auReport d 0x0503 false)
    | some key =>
      match cvaRead s ⟨whoRing ring, 0⟩ (auCva d) (auLen d) false with
      | .wait s => s
      | .bad c a s => descFault s ring true c a (auReport d c false)
      | .ok pl s =>
        if kmac key csAuth ((leBytes 64 d.toNat).take 48 ++ pl) 16 ≠ (leBytes 64 d.toNat).drop 48 then descDone s ring (auReport d 0x0501 false)
        else if auCounter d ≤ lastCounter s then descDone s ring (auReport d 0x0502 false)
        else
          let s := endHost (setRunning s ring { x with begun := true }) (whoRing ring)
          { s with flash := appendCtr s.flash (ctrRecord key (auCounter d)), sec := { s.sec with auth := some (ring, true, pl) } }

/-- AUTH (R334 steps 1 to 4). -/
def execAuth (ring : Nat) (s : State) : Out State := .next (runDesc s ring (fun d => dType d == 0x10) (auBad s ring) (authDesc ring))

/-! Step 5. -/

/-- The AUTH at step 5 with this command: its ring, what runs there, and its payload. -/
def authOf (s : State) (cmd : Nat) : Option (Nat × Running × List Byte) :=
  match s.sec.auth with
  | some (n, true, pl) =>
    (match (unitOf s n).running with
     | some x => if auCmd x.desc.word = cmd ∧ x.report = none then some (n, x, pl) else none
     | none => none)
  | _ => none

/-- The command ends with a status: the AUTH is in progress no more. -/
def authEnd (s : State) (n : Nat) (x : Running) (status : Nat) : State :=
  let s := report (endHost s (whoRing n)) n (auReport x.desc.word status true)
  { s with sec := { s.sec with auth := none } }

/-- Run a command at its step 5. -/
def atStep5 (s : State) (cmd : Nat) (f : State → Nat → Running → List Byte → State) : State :=
  if !serving s then s else match authOf s cmd with | some (n, x, pl) => f s n x pl | none => s

/-! The option negative (R447). -/

def slotImage (s : State) (b : Bool) : List Byte :=
  match (if b then s.flash.slotB else s.flash.slotA) with | some x => x.img | none => []

def putSlot (s : State) (b : Bool) (im : List Byte) : State :=
  if b then { s with flash := { s.flash with slotB := some ⟨im⟩, lastWritten := true } }
  else { s with flash := { s.flash with slotA := some ⟨im⟩, lastWritten := false } }

/-- GENERATION of the slot last loaded or written, 0 where it holds no image. -/
def lastGeneration (s : State) : Nat :=
  let im := slotImage s s.flash.lastWritten
  if headOk im then imGeneration im else 0

/-- An image without DIGEST and TAG is right. -/
def newImageOk (pl : List Byte) : Bool :=
  headOk pl && decide (pl.length = 64 + imRlen pl) && imGeneration pl == 0 && (imRecs pl).isSome

/-- The image as it is written: GENERATION, DIGEST and TAG set. -/
def finishImage (key pl : List Byte) (gen : Nat) : List Byte :=
  let body := pl.take 8 ++ leBytes 8 gen ++ pl.drop 16
  body ++ Config.sha3 body ++ kmac key csNeg body 16

/-- OPTION_NEGATIVE_WRITE. A slot whose readback differs ends in bytes that no one knows. -/
def execOptionNegativeWrite (readBackOk : Bool) (s : State) : Out State :=
  .next (atStep5 s 1 (fun s n x pl =>
    match s.flash.current with
    | none => authEnd s n x 0x0804
    | some key =>
      if !newImageOk pl then authEnd s n x 0x0804
      else
        let im := finishImage key pl ((lastGeneration s + 1) % 2 ^ 64)
        let b := !s.flash.lastWritten
        if readBackOk then authEnd (putSlot s b im) n x 0
        else authEnd (useFree (putSlot s b (im.take (64 + imRlen pl) ++ freeBytes s 48)) 48) n x 0x0804))

/-! Firmware (R469, R470, R472). -/

/-- Bytes of a slot of a kind. -/
def fwSlotBytes (kind : Nat) : Nat := if kind = 1 then 2 ^ 23 else 2 ^ 24

def fwKind (im : List Byte) : Nat := leField im 39 32
def fwKeySlot (im : List Byte) : Nat := leField im 47 40
def fwSvn (im : List Byte) : Nat := leField im 55 48
def fwCommit (im : List Byte) : Bool := leField im 56 56 == 1
def fwRevoke (im : List Byte) : Nat := leField im 67 64
def fwVersion (im : List Byte) : Nat := leField im 191 128
def fwBlen (im : List Byte) : Nat := leField im 223 192
/-- PK, and D of R470. -/
def fwPk (im : List Byte) : List Byte := (im.drop 64).take 1312
def fwDigest (im : List Byte) : List Byte := Config.sha3 (im.take 1376 ++ (im.drop 4096).take (fwBlen im))

/-- The header is as R469 lays it out, with every reserved byte zero. -/
def fwHeadOk (im : List Byte) : Bool :=
  leField im 31 0 == 0x57465A5A && between 1 2 (fwKind im) && decide (fwKeySlot im < 4) && decide (fwSvn im ≤ 32) && leField im 63 57 == 0
    && leField im 71 68 == 0 && leField im 127 72 == 0 && leField im 511 224 == 0 && ((im.drop 3796).take 300).all (· == 0)
    && fwBlen im % 4096 == 0 && decide (fwBlen im ≤ fwSlotBytes (fwKind im) - 4096) && decide (im.length = 4096 + fwBlen im)

/-- Minimum SVN of a kind. -/
def svnMin (s : State) (kind : Nat) : Nat := if kind = 1 then s.fuses.svnMc else s.fuses.svnS

/-- First condition of R470 that an image fails, 0 for none. -/
def fwCheck (s : State) (im : List Byte) : Nat :=
  if !fwHeadOk im then 1
  else if bit s.fuses.revoked (fwKeySlot im) || Config.sha3 (fwPk im) != s.fuses.keyHash.getD (fwKeySlot im) [] then 2
  else if fwSvn im < svnMin s (fwKind im) then 3
  else if !Config.mldsaVerify (fwPk im) (fwDigest im) ((im.drop 1376).take 2420) then 4
  else 0

/-- The slot of a kind that did not boot: true for B. -/
def otherSlot (s : State) (kind : Nat) : Bool := if kind = 1 then !s.flash.mcBooted else !s.flash.sBooted

def putFw (s : State) (kind : Nat) (b : Bool) (f : FwSlot) : State :=
  let fl := s.flash
  { s with flash :=
      if kind = 1 then (if b then { fl with mcB := f } else { fl with mcA := f }) else (if b then { fl with sB := f } else { fl with sA := f }) }

/-- Fuses that an accepted image blows: the slots it revokes, and its kind's minimum SVN with COMMITSVN (R472 steps 3 and 4). -/
def blowFw (f : Fuses) (im : List Byte) : Fuses :=
  let f := { f with revoked := f.revoked ||| BitVec.ofNat 4 (fwRevoke im) }
  if fwCommit im then (if fwKind im = 1 then { f with svnMc := fwSvn im } else { f with svnS := fwSvn im }) else f

/-- FIRMWARE_UPDATE. -/
def execFirmwareUpdate (readBackOk : Bool) (s : State) : Out State :=
  .next (atStep5 s 2 (fun s n x im =>
    let k := fwKind im
    let b := otherSlot s k
    let c := fwCheck s im
    if c ≠ 0 then authEnd (secFail s 1 (b2n b) c) n x 0x0504
    else if (fwRevoke im).testBit (fwKeySlot im) then authEnd (secFail s 1 (b2n b) 0) n x 0x0504
    else
      let f : FwSlot := ⟨readBackOk, BitVec.ofNat 64 (fwVersion im), fwSvn im, fwDigest im, fwKeySlot im⟩
      let s := putFw s k b f
      if !readBackOk then authEnd (secFail s 1 (b2n b) 4) n x 0x0504
      else
        authEnd { s with fuses := blowFw s.fuses im } n x 0))

/-! Resets by command (R335, R435). -/

/-- The record comes first, with STATUS 0; the reset follows once it is visible. -/
def armReset (s : State) (lvl n : Nat) (x : Running) (pl : List Byte) : State :=
  if pl ≠ [] then authEnd s n x 0x0606
  else
    let s := report s n (auReport x.desc.word 0 true)
    { s with sec := { s.sec with auth := some (n, false, [BitVec.ofNat 8 lvl]) } }

/-- PACKAGE_RESET. -/
def execPackageReset (s : State) : Out State := .next (atStep5 s 3 (fun s n x pl => armReset s 1 n x pl))

/-- DOMAIN_RESET. -/
def execDomainReset (s : State) : Out State := .next (atStep5 s 4 (fun s n x pl => armReset s 2 n x pl))

/-! Membership (R296 to R298). -/

/-- The four parts of a membership change. -/
structure Change where
  clear  : Bool
  incs   : List (BitVec 32)
  routes : List (BitVec 256)
  groups : List (BitVec 576)

/-- `n` words of `k` bytes and `w` bits. -/
def wordsOf (w k n : Nat) (bs : List Byte) : List (BitVec w) := chunks w k n bs

/-- An entry of the group table is right (R270): its reserved bits are zero, its members and children in range. -/
def groupEntryOk (e : BitVec 512) : Bool :=
  bits e 127 16 == 0 && (List.range 4).all (fun k => bits e (223 + 96 * k) (216 + 96 * k) == 0) &&
    (!bit e 0 || (between 1 4096 (bits e 13 1) && (List.range (bits e 15 14 + 1)).all (fun k => decide (bits e (143 + 96 * k) (141 + 96 * k) ≤ 6))))

/-- Read a payload; none where R298 refuses it. -/
def parseChange (pl : List Byte) : Option Change :=
  let ninc := leField pl 15 0
  let nrt := leField pl 31 16
  let ngrp := leField pl 47 32
  let ipart := 16 * ((ninc + 3) / 4)
  if pl.length < 64 ∨ 4096 < ninc ∨ 4096 < nrt ∨ 255 < ngrp ∨ pl.length ≠ 64 + ipart + 32 * nrt + 72 * ngrp then none
  else if leField pl 63 49 ≠ 0 ∨ leField (pl.take 64) 511 64 ≠ 0 ∨ (((pl.drop 64).take ipart).drop (4 * ninc)).any (· != 0) = true then none
  else
    let incs := wordsOf 32 4 ninc (pl.drop 64)
    let routes := wordsOf 256 32 nrt (pl.drop (64 + ipart))
    let groups := wordsOf 576 72 ngrp (pl.drop (64 + ipart + 32 * nrt))
    let ok := incs.all (fun r => bits r 15 12 == 0) && (incs.map (fun r => bits r 11 0)).Nodup
      && routes.all (fun r => bits r 127 12 == 0 && bits r 255 193 == 0) && (routes.map (fun r => bits r 11 0)).Nodup
      && groups.all (fun r => bits r 7 0 != 0 && bits r 63 8 == 0 && groupEntryOk (BitVec.ofNat 512 (bits r 575 64)))
      && (groups.map (fun r => bits r 7 0)).Nodup
    if ok then some ⟨bit (BitVec.ofNat 64 (leField pl 63 0)) 48, incs, routes, groups⟩ else none

def holdNew (s : State) (h : Bool) : State := { s with pod := { s.pod with holdSteps := h } }

/-- POD_MEMBERSHIP_CHANGE: checked, and no further step starts. -/
def execPodMembershipChange (s : State) : Out State :=
  .next (atStep5 s 5 (fun s n x pl => if (parseChange pl).isNone then authEnd s n x 0x0606 else holdNew s true))

/-- Set one member's incarnation; the own one is not touched. -/
def setInc (s : State) (pkg v : Nat) : State :=
  if pkg = ownId s then s else { s with pod := { s.pod with incs := tset 0 s.pod.incs pkg v } }

/-- Step 3 of R296: the tables are written, every LOST bit is clear, and ports follow the table (R288). -/
def applyChange (s : State) (c : Change) : State :=
  let named := c.incs.map (fun r => bits r 11 0)
  let s := if c.clear then { s with pod := { s.pod with incs := s.pod.incs.filter (fun e => named.contains e.1 || e.1 == ownId s) } } else s
  let s := c.incs.foldl (fun s r => setInc s (bits r 11 0) (bits r 31 16)) s
  let s := c.routes.foldl (fun s r => writeRoute s (bits r 11 0) (BitVec.ofNat 128 (bits r 255 128))) s
  let s := c.groups.foldl (fun s r => writeGroup s (bits r 7 0) (BitVec.ofNat 512 (bits r 575 64))) s
  let s := { s with pod := { s.pod with lost := [] } }
  (List.range 32).foldl (fun s k =>
    let p := portOf s k
    let out := match peerOf p with | some m => incOf s m == 0 && (c.clear || named.contains m) | none => false
    let s := setPort s k { p with hb := if out then 0 else p.hb, misses := if out then 0 else p.misses, liveSince := p.hb == 1 && !out }
    hbRefresh s k) s

/-- MEMBERSHIP_APPLY: no step is in flight any more. -/
def execMembershipApply (s : State) : Out State :=
  .next (atStep5 s 5 (fun s n x pl =>
    if !s.pod.holdSteps || !noneInFlight s then s
    else match parseChange pl with
      | none => authEnd (holdNew s false) n x 0x0606
      | some c => authEnd (holdNew (applyChange s c) false) n x 0))

/-- INCARNATION_SET. -/
def execIncarnationSet (s : State) : Out State :=
  .next (atStep5 s 10 (fun s n x pl =>
    if pl.length ≠ 8 ∨ leNat pl / 2 ^ 16 ≠ 0 ∨ s.pod.stale = true then authEnd s n x 0x0606 else holdNew s true))

/-- INCARNATION_APPLY. -/
def execIncarnationApply (s : State) : Out State :=
  .next (atStep5 s 10 (fun s n x pl =>
    if !s.pod.holdSteps || !noneInFlight s then s
    else authEnd (holdNew { s with pod := { s.pod with ownInc := leNat pl % 2 ^ 16 } } false) n x 0))

/-! The command key (R479). -/

/-- The package becomes unowned: the key store and the counter log are erased. -/
def disown (s : State) : State :=
  { s with flash := { s.flash with current := none, previous := none, logA := [], logB := [], logHalf := false }, sec := { s.sec with rotations := 0 } }

def xorBytes : List Byte → List Byte → List Byte
  | a :: s, b :: t => (a ^^^ b) :: xorBytes s t
  | _, _ => []

/-- COMMAND_KEY_ROTATION: whole, since the AUTH in progress is one command. -/
def execCommandKeyRotation (s : State) : Out State :=
  .next (atStep5 s 6 (fun s n x pl =>
    if pl.length ≠ 40 ∨ leField pl 63 1 ≠ 0 then authEnd s n x 0x0606
    else if leField pl 0 0 = 1 then authEnd (disown s) n x 0
    else match s.flash.current with
      | none => authEnd s n x 0x0606
      | some old =>
        let new := xorBytes (pl.drop 8) (kmac old (leBytes 8 (auCounter x.desc.word)) csRot 32)
        let s := { s with flash := { s.flash with current := some new, previous := some old }, sec := { s.sec with rotations := s.sec.rotations + 1 } }
        authEnd (finishRotation s) n x 0))

/-! HBM repair (R428 to R430). -/

/-- A channel, and a bank of it. -/
def chanKey (stack chan : Nat) : Nat := 32 * stack + chan
def bankKey (stack chan pc bank : Nat) : Nat := (2 * chanKey stack chan + pc) * 64 + bank

/-- Banks of each pseudo-channel, and hard and soft resources left (MEM_PPR_INV, R432). -/
def hbmBanks (c : Nat) : Nat := Config.hbmRepair 0 c % 64
def hardLeft (s : State) (c : Nat) : Nat := Config.hbmRepair 1 c % 256 - (s.fuses.hard.filter (fun e => e.1 / 128 == c)).length
def softLeftBank (s : State) (b : Nat) : Nat := Config.hbmRepair 2 b % 256 - (s.rst.soft.filter (fun e => e.1 == b)).length
def softLeft (s : State) (c : Nat) : Nat := Config.hbmRepair 3 c % 256 - (s.rst.soft.filter (fun e => e.1 / 128 == c)).length

/-- An entry of the payload names a row. -/
def repairOk (e : BitVec 128) : Bool := bits e 127 48 == 0 && decide (bits e 15 10 < hbmBanks (chanKey (bits e 3 0) (bits e 8 4)))

/-- Repair one row: its result word, and what the fuses keep. -/
def repairRow (s : State) (e : BitVec 128) (how : RepairEnd) : Nat × State :=
  let b := bankKey (bits e 3 0) (bits e 8 4) (bits e 9 9) (bits e 15 10)
  let row := bits e 47 16
  let fuse (ok : Bool) : State := { s with fuses := { s.fuses with hard := s.fuses.hard ++ [(b, row, ok)] } }
  if s.fuses.hard.contains (b, row, true) then (2, s)
  else match how with
    | .already => (2, s)
    | .noResource => (1, s)
    | .repaired => if hardLeft s (b / 128) = 0 then (1, s) else (0, fuse true)
    | .verifyFailed => if hardLeft s (b / 128) = 0 then (1, s) else (3, fuse false)

/-- Entries in order, with their result words. -/
def repairRows : State → List (BitVec 128) → List RepairEnd → List Nat × State
  | s, [], _ => ([], s)
  | s, e :: t, hs =>
    let r := repairRow s e (hs.headD .repaired)
    let q := repairRows r.2 t (hs.drop 1)
    (r.1 :: q.1, q.2)

/-- HBM_REPAIR_COMMIT: `ends` is what the stacks report of each row. -/
def execHbmRepairCommit (ends : List RepairEnd) (s : State) : Out State :=
  .next (atStep5 s 7 (fun s n x pl =>
    let nent := leField pl 4 0
    let resc := leField pl 127 64
    let es := wordsOf 128 16 nent (pl.drop 16)
    if s.sched.ctxs.any (fun e => e.1 != 0 && e.2.st == .openS) then authEnd s n x 0x0805
    else if pl.length ≠ 16 + 16 * nent ∨ ¬ between 1 16 nent = true ∨ leField pl 63 5 ≠ 0 ∨ resc % 4 ≠ 0 ∨ es.all repairOk = false then authEnd s n x 0x0606
    else match segsOf s 0 resc (4 * nent) true false with
      | .wait s => s
      | .bad _ _ s => authEnd s n x 0x0606
      | .ok gs s =>
        match segsReady s gs with
        | .wait s => s
        | .bad _ _ s => authEnd s n x 0x0606
        | .ok _ s =>
          let r := repairRows s es ends
          match segsWriteNow ⟨whoRing n, 0⟩ r.2 gs (r.1.flatMap (leBytes 4)) with
          | .wait s => s
          | .bad c _ s => authEnd s n x c
          | .ok _ s => authEnd s n x 0))

/-- DEBUG_UNLOCK (R481): the scope before it is replaced, the vendor's with it. -/
def execDebugUnlock (s : State) : Out State :=
  .next (atStep5 s 8 (fun s n x pl =>
    if pl.length ≠ 8 ∨ leNat pl / 8 ≠ 0 then authEnd s n x 0x0606
    else authEnd { s with sec := { s.sec with scope := BitVec.ofNat 3 (leNat pl), vendor := false } } n x 0))

/-- CONTACT_SHEET_ENABLE (R497). -/
def execContactSheetEnable (s : State) : Out State :=
  .next (atStep5 s 9 (fun s n x pl =>
    if pl.length ≠ 8 ∨ leNat pl / 2 ≠ 0 ∨ s.rst.strict = true then authEnd s n x 0x0606
    else authEnd { s with csw := { s.csw with authen := decide (leNat pl = 1) } } n x 0))

end Sys2Proof.Machine
end

