-- ==== Sys2Proof/Machine/Contact.lean ====
section
/-! DEFINITION. The contact-sheet window (21): its slots, GO, and the four commands. -/

namespace Sys2Proof.Machine

/-- The window is available (R496); where AUTHEN was cleared while a command runs, until that command ends (R497). -/
def cswOpen (s : State) : Bool := (s.rst.opten || s.csw.authen || s.csw.busy.isSome) && !s.rst.strict && !inFog s && s.rst.phase == .ready

/-- An access that is dropped is counted (R496, R498). -/
def cswDrop (s : State) : State := bump s rCSW_STAT 63 48

/-- CSW_ACCESS_DROPPED. While the part does not serve BAR0's own page of the window, nothing is counted (R511). -/
def execCswAccessDropped (s : State) : Out State :=
  .next (if ioUp s && s.rst.phase == .ready then cswDrop (wakeBy false s) else s)

/-- Word `w` of a slot (R498). -/
def slotWord (s : State) (slot w : Nat) : BitVec 32 := tget 0 s.csw.words (16 * slot + w)

/-- The bytes of a word are big-endian (R498): what a bus value of little-endian bytes spells, and back. -/
def swap32 (v : BitVec 32) : BitVec 32 := BitVec.ofNat 32 (leNat (leBytes 4 v.toNat).reverse)

/-! What a command needs (R499, R501). -/

/-- The first byte beyond a range that starts at an offset. -/
def gib64 : Nat := 2 ^ 36

/-- Words of a command not yet taken. -/
def cmdOf (s : State) (slot : Nat) : List (BitVec 32) := (List.range 9).map (fun i => slotWord s slot (i + 1))
def cmdWord (c : List (BitVec 32)) (w : Nat) : Nat := (c.getD (w - 1) 0).toNat
def cmdPair (c : List (BitVec 32)) (w : Nat) : Nat := cmdWord c w * 2 ^ 32 + cmdWord c (w + 1)
def cmdCode (c : List (BitVec 32)) : Nat := cmdWord c 1 >>> 24
def cmdReserved (c : List (BitVec 32)) : Bool := cmdWord c 1 % 2 ^ 24 != 0

/-- Why a COPY is refused: 0 for not at all. -/
def copyRefused (c : List (BitVec 32)) : Nat :=
  let src := cmdPair c 2
  let dst := cmdPair c 4
  let len := cmdPair c 6
  if cmdReserved c || !between 1 gib64 len || (decide (src < dst + len) && decide (dst < src + len)) then 0x0606
  else if gib64 < src + len ∨ gib64 < dst + len then 0x0202 else 0

/-- Why a FILL is refused. -/
def fillRefused (c : List (BitVec 32)) : Nat :=
  let dst := cmdPair c 4
  let len := cmdPair c 6
  if cmdReserved c || !between 1 gib64 len || len % 4 != 0 then 0x0606 else if gib64 < dst + len then 0x0202 else 0

/-- Why a GEMM is refused. -/
def gemmRefused (c : List (BitVec 32)) : Nat :=
  let a := cmdPair c 2
  let b := cmdPair c 6
  let d := cmdPair c 4
  let m := 64 * (cmdWord c 8 >>> 20)
  let n := 64 * ((cmdWord c 8 >>> 8) % 4096)
  let k := 64 * (cmdWord c 8 % 256)
  if cmdReserved c || m == 0 || n == 0 || k == 0 || decide (16320 < k) || a % 4096 != 0 || b % 4096 != 0 || d % 4096 != 0 then 0x0606
  else if gib64 < a + 2 * m * k ∨ gib64 < b + 2 * k * n ∨ gib64 < d + 4 * m * n then 0x0202 else 0

/-! GO (R500 to R502). -/

/-- A write to GO of the slot, where the slot's command is one that `is` names; dropped and counted while a command runs. -/
def cswGo (s : State) (slot : Nat) (go : BitVec 32) (is : Nat → Bool) (f : State → List (BitVec 32) → State) : State :=
  if !(ioUp s && decide (slot < 64)) || !is (cmdCode (cmdOf s slot)) then s
  else if !cswOpen s then (if s.rst.phase == .ready then cswDrop s else s)
  else if go ≠ 1 then wakeBy false s
  else if s.csw.busy.isSome then bump (wakeBy false s) rCSW_STAT 47 32
  else f (wakeBy false s) (cmdOf s slot)

/-- The step of a command: 16 or 64 whole-core programs, normal class, no affinity (R502). -/
def cswStep (s : State) (slot n : Nat) (c : List (BitVec 32)) : StepRec where
  uid := s.uid
  ctx := 0
  stepno := 0xFFFF
  cls := 2
  ring := none
  didx := 0
  csw := some slot
  nprog := n
  split := false
  aff := none
  scratch := 0
  loss := 0
  wdog := if cmdWord c 9 = 0 then 25000000 else cmdWord c 9
  used := 0
  st := .waiting
  first := s.sched.stamp
  waited := 0
  placedAt := 0
  quiet := 0
  slots := []
  set := none
  saved := []
  endedN := 0
  ended := []
  sat := false
  nf := false
  upd := false
  applied := false
  nonfin := false
  voided := false

/-- Submit a command, or refuse it with nothing started. -/
def submit (slot n refused : Nat) (s : State) (c : List (BitVec 32)) : State :=
  if refused ≠ 0 then endCsw s slot refused
  else joinOrder (setCswStatus { s with csw := { s.csw with busy := some slot, cmd := c } } slot 1 0) (cswStep s slot n c)

/-- CSW_NOP: done at once. A reserved OPCODE is refused (R501). -/
def execCswNop (slot : Nat) (go : BitVec 32) (s : State) : Out State :=
  .next (cswGo s slot go (fun k => k == 0 || decide (3 < k)) (fun s c => endCsw s slot (if cmdCode c ≠ 0 ∨ cmdReserved c = true then 0x0606 else 0)))

/-- CSW_COPY. -/
def execCswCopy (slot : Nat) (go : BitVec 32) (s : State) : Out State :=
  .next (cswGo s slot go (· == 1) (fun s c => submit slot 16 (copyRefused c) s c))

/-- CSW_FILL. -/
def execCswFill (slot : Nat) (go : BitVec 32) (s : State) : Out State :=
  .next (cswGo s slot go (· == 2) (fun s c => submit slot 16 (fillRefused c) s c))

/-- CSW_GEMM. -/
def execCswGemm (slot : Nat) (go : BitVec 32) (s : State) : Out State :=
  .next (cswGo s slot go (· == 3) (fun s c => submit slot 64 (gemmRefused c) s c))

/-- A GO, whichever command its slot holds. -/
def cswStart (s : State) (slot : Nat) (go : BitVec 32) : State :=
  cswGo s slot go (fun _ => true) (fun s c => match cmdCode c with
    | 1 => submit slot 16 (copyRefused c) s c
    | 2 => submit slot 16 (fillRefused c) s c
    | 3 => submit slot 64 (gemmRefused c) s c
    | k => endCsw s slot (if k ≠ 0 ∨ cmdReserved c = true then 0x0606 else 0))

/-- A write of BAR4 (R496, R498): one word, STATUS aside. -/
def cswWrite (s : State) (off : Nat) (wide : Bool) (v : BitVec 32) : State :=
  if !(ioUp s && s.rst.phase == .ready) then s
  else if !cswOpen s || wide || off % 4 != 0 || decide (4096 ≤ off) then cswDrop (wakeBy false s)
  else
    let s := wakeBy false s
    if off % 64 = 0 then s
    else if off % 64 = 60 then cswStart s (off / 64) (swap32 v)
    else { s with csw := { s.csw with words := tset 0 s.csw.words (off / 4) (swap32 v) } }

end Sys2Proof.Machine
end

