-- ==== Sys2Proof/Machine/RegRead.lean ====
section
/-! DEFINITION. What a register reads as (R508 to R511, and the tables of the register pages): its stored value, with the fields that
show the state of a block. -/

namespace Sys2Proof.Machine

/-- A register value with fields put in: high bit, low bit and value. -/
def withFields (v : BitVec 64) (l : List (Nat × Nat × Nat)) : BitVec 64 := l.foldl (fun v f => setBits v f.1 f.2.1 f.2.2) v

/-- Bits of truth values, bit 0 first. -/
def flagsOf (l : List Bool) : Nat := l.foldr (fun b a => b2n b + 2 * a) 0

/-- Numbers of `w` bits side by side, the first lowest. -/
def packed (w : Nat) (l : List Nat) : Nat := l.foldr (fun x a => x % 2 ^ w + 2 ^ w * a) 0

/-- Enabled positions of a strip. -/
def popCount8 (m : BitVec 8) : Nat := ((List.range 8).filter (fun i => m.getLsbD i)).length

/-! Global and die pages (R515, R518). -/

def readPkg (s : State) (off : Nat) (v : BitVec 64) : BitVec 64 :=
  if off = rPKG_IDENT then
    withFields v [(15, 0, if s.fuses.grade736 then 0x0736 else 0x0800), (23, 16, 0xA2), (25, 24, b2n s.fuses.grade736), (33, 26, perDie s),
      (43, 34, coreCount s), (47, 44, 1)]
  else if off = rPKG_SERIAL then s.fuses.serial
  else if off = rPKG_STATUS then
    withFields v [(0, 0, b2n (s.rst.phase == .ready)), (1, 1, b2n (inFog s)), (2, 2, b2n s.pod.stale), (3, 3, b2n s.sched.model.isSome),
      (5, 4, s.pwr.st), (6, 6, b2n s.rst.fallback), (14, 7, flagsOf ((List.range 8).map (fun d => s.rst.dieMark.contains d)))]
  else if off = rPKG_LOCKS then withFields v [(5, 0, s.rst.locks.toNat)]
  else v

def readDie (s : State) (d off : Nat) (v : BitVec 64) : BitVec 64 :=
  if off = rPKG_DIE_INFO d then withFields v [(2, 0, d), (9, 3, perDie s), (19, 10, d * perDie s), (23, 20, 13)]
  else if off = rPKG_DIE_STRIPS d then withFields v [(51, 0, packed 4 ((s.fuses.strips.getD d []).map popCount8))]
  else if off = rPKG_DIE_STATE d then
    withFields v [(0, 0, b2n (dieIdle s d)), (1, 1, b2n (s.rst.dieMark.contains d)),
      (10, 2, (s.cores.filter (fun e => dieOf s e.1 == d && e.2.withdrawn)).length)]
  else if off = rPKG_DIE_AON d then withFields v [(47, 0, (s.aon.getD d 0).toNat)]
  else v

/-! Error, reset, power and security pages (R495, R451, R466, R483). -/

def readErr (s : State) (off : Nat) (v : BitVec 64) : BitVec 64 :=
  if off = rPKG_ERRQ_TAIL then withFields v [(31, 0, s.errs.tail)]
  else if off = rPKG_ERRQ_STAT then withFields v [(6, 0, s.errs.held.length), (7, 7, b2n s.errs.pending), (31, 8, s.errs.overflow)]
  else if off = rPKG_ALERT then alertVal s
  else v

/-- The step shown while bring-up runs, and the code of a stop. -/
def stepShown (p : Phase) : Nat := match p with | .seq _ n => n | _ => 0
def stopShown (p : Phase) : Option Nat := match p with | .stopped c => some c | _ => none

def readRst (s : State) (off : Nat) (v : BitVec 64) : BitVec 64 :=
  if off = rRST_STATUS then
    withFields v [(2, 0, s.rst.lastLvl), (6, 3, s.rst.lastSrc), (10, 7, stepShown s.rst.phase), (11, 11, b2n (s.rst.phase == .ready)),
      (12, 12, b2n s.rst.fallback), (13, 13, b2n s.rst.slot), (18, 18, b2n (stopShown s.rst.phase).isSome), (34, 19, (stopShown s.rst.phase).getD 0)]
  else if off = rRST_SOURCES then withFields v [(15, 0, s.rst.seen.toNat), (47, 16, s.rst.count)]
  else if off = rRST_REACH then withFields v [(47, 0, packed 3 s.rst.reach), (63, 48, s.fuses.flock.toNat)]
  else if off = rRST_REACH_B then withFields v [(15, 0, s.fuses.bset.toNat)]
  else if off = rRST_CTRL then withFields v [(15, 15, b2n s.rst.block.isSome), (16, 16, b2n s.rst.refused)]
  else if off = rRST_NEG then s.rst.generation
  else if off = rRST_PINS then s.rst.func
  else v

/-- The lowest core clock of the A-dies in MHz, and the highest reading with its die. -/
def minClock (s : State) : Nat := s.pwr.clocks.foldl min 1800
def hottest : List Nat → Nat → Nat × Nat → Nat × Nat
  | [], _, m => m
  | t :: l, i, m => hottest l (i + 1) (if m.1 < t then (t, i) else m)

def readPwr (s : State) (off : Nat) (v : BitVec 64) : BitVec 64 :=
  if off = rPWR_STATUS then
    let h := hottest s.pwr.temps 0 (0, 0)
    withFields v [(1, 0, s.pwr.st), (2, 2, b2n (decide (minClock s < 1800))), (3, 3, b2n (s.pwr.byTemp.any id || s.pwr.ceil.any (· < 1800))), (4, 4, b2n s.pwr.byCap),
      (5, 5, b2n (!s.pins.throttleN)), (27, 16, s.pwr.watts), (39, 28, minClock s), (47, 40, h.1), (51, 48, h.2)]
  else if off = rPWR_HORIZON then withFields v [(47, 0, s.pwr.horizon), (49, 48, s.pwr.picked), (50, 50, b2n s.pwr.unhinted)]
  else v

def readSec (s : State) (off : Nat) (v : BitVec 64) : BitVec 64 :=
  if off = rSEC_STATUS then
    withFields v [(0, 0, b2n (owned s)), (1, 1, b2n s.rst.strict), (4, 2, s.sec.scope.toNat), (5, 5, b2n s.sec.vendor), (6, 6, b2n s.flash.mcBooted),
      (7, 7, b2n s.flash.sBooted), (8, 8, b2n s.flash.previous.isSome), (63, 32, leNat ((ownerMark s).take 4))]
  else if off = rSEC_FUSE then withFields v [(3, 0, s.fuses.revoked.toNat), (9, 4, s.fuses.svnMc), (15, 10, s.fuses.svnS)]
  else if off = rSEC_FWVER_MC then (mcSlot s).version
  else if off = rSEC_FWVER_S then (sSlot s).version
  else v

/-! Ring and scheduler pages (R336, R365). -/

def readRing (s : State) (off : Nat) (v : BitVec 64) : BitVec 64 :=
  if off = rRING_CTRL then
    let u := unitOf s (bits v 19 0)
    withFields v [(24, 24, b2n u.running.isSome), (25, 25, b2n u.pend)]
  else if off = rRING_AUTHCNT then BitVec.ofNat 64 (lastCounter s)
  else v

/-- Steps of a class that wait, saved ones included. -/
def waitingOf (s : State) (cls : Nat) : Nat :=
  (s.sched.steps.filter (fun t => t.cls == cls && (t.st == .waiting || t.st == .saved))).length

/-- Context shown of a half: that of its program, 0 where it holds none. -/
def ctxShown (q : Option Prog) : Nat := match q with | some q => q.ctx | none => 0

def readSched (s : State) (off : Nat) (v : BitVec 64) : BitVec 64 :=
  if off = rSCH_INFO then
    withFields v [(9, 0, coreCount s), (19, 10, placeable s none), (24, 20, dsSets s), (29, 25, (freeSets s).length),
      (45, 30, match s.sched.model with | some m => m.nsteps | none => 0)]
  else if off = rSCH_CORE then
    let k := coreOf s (bits v 9 0)
    withFields v [(12, 12, b2n k.withdrawn), (13, 13, b2n (k.wdPend || k.retLatch)), (15, 15, b2n (k.split && (k.lo.isSome || k.hi.isSome))),
      (27, 16, ctxShown k.lo), (39, 28, ctxShown k.hi)]
  else if off = rSCH_QUEUE then withFields v [(15, 0, waitingOf s 0), (31, 16, waitingOf s 1), (47, 32, waitingOf s 2), (63, 48, waitingOf s 3)]
  else if off = rCTX_CTRL then withFields v [(18, 18, b2n (ctxOf s (bits v 11 0)).openLatch.isSome)]
  else if off = rCTX_DATA0 then v &&& 0x000FFFFFFFFFF0F7
  else v

/-! Memory, repair and coherence pages (R179, R432, R388, R389). -/

def repairsFilled (p : Phase) : Bool := match p with | .ready => true | .seq 2 _ => true | .seq _ n => decide (9 < n) | _ => false

def readPpr (s : State) (h off : Nat) (v : BitVec 64) : BitVec 64 :=
  if off = rMEM_PPR_INV h ∧ repairsFilled s.rst.phase = true then
    let c := chanKey h (bits v 4 0)
    withFields v [(10, 5, hbmBanks c), (18, 11, hardLeft s c), (26, 19, softLeft s c), (34, 27, Config.hbmRepair 4 c)]
  else v

/-- Lines of one stack. -/
def stackLines : Nat := 2 ^ 31

def readMem (s : State) (h off : Nat) (v : BitVec 64) : BitVec 64 :=
  if off = rMEM_SCRUB h then withFields v [(8, 8, b2n (!(tget [] s.scrub h).isEmpty)), (63, 48, (tget [] s.scrub h).length * 2 ^ 16 / stackLines)] else v

def readHome (s : State) (h off : Nat) (v : BitVec 64) : BitVec 64 :=
  if off = rCOH_HOME_STAT h then withFields v [(20, 0, (s.coh.dir.filter (fun e => homeOf s e.1 == h)).length)] else v

def readCoh (s : State) (off : Nat) (v : BitVec 64) : BitVec 64 :=
  if off = rCOH_HLC_STAT then withFields v [(17, 0, (s.coh.hlc.filter (fun e => e.2.pinned)).length)] else v

/-! Loupe, fixer and stacker pages (R203, R237, R238, R299, R300). -/

def readLoupe (s : State) (n off : Nat) (v : BitVec 64) : BitVec 64 :=
  if off = rLPE_STATE n then
    let l := loupeOf s n
    let v := withFields v [(0, 0, b2n l.run.isSome), (5, 1, l.queue.length)]
    match l.run with
    | some r => withFields v [(7, 6, lcOP r.block), (19, 8, r.call.ctx), (27, 20, lcTID r.block)]
    | none => v
  else v

def phaseCode (p : FixPhase) : Nat := match p with | .passOne => 0 | .decide => 1 | .passTwo => 2 | .runRows => 3 | .skipped => 1

def readFixPkg (s : State) (off : Nat) (v : BitVec 64) : BitVec 64 :=
  if off = rFIX_QUEUE then
    let v := withFields v [(0, 0, b2n s.fixers.run.isSome), (7, 3, s.fixers.queue.length)]
    match s.fixers.run with
    | some r => withFields v [(2, 1, phaseCode r.phase), (19, 8, r.call.ctx)]
    | none => v
  else if off = rFIX_SE_CTRL then withFields v [(15, 15, b2n (s.fixers.commits.any (fun c => c.1 == bits v 11 0)))]
  else v

/-- A fixer runs a chunk: one of those left in the running pass is its own (R231, R238). -/
def fixerBusy (s : State) (r : FixRun) (f : Nat) : Bool :=
  (r.phase == .passOne || r.phase == .passTwo || r.phase == .runRows) && (match callChunks s r with
    | .ok cs s => (if r.phase == .passOne then cs else cs.drop r.next).any (fun c => match fixerOf s r.call.ctx c with | .ok g _ => g == f | _ => false)
    | _ => false)

def readFix (s : State) (f off : Nat) (v : BitVec 64) : BitVec 64 :=
  if off = rFIX_STATE f then
    let v := withFields v [(63, 15, tget 0 s.fixers.chunks f)]
    match s.fixers.run with
    | some r => if fixerBusy s r f then withFields v [(0, 0, 1), (2, 1, phaseCode r.phase), (14, 3, r.call.ctx)] else v
    | none => v
  else v

def readStk (s : State) (d off : Nat) (v : BitVec 64) : BitVec 64 :=
  if off = rSTK_STATE d then
    withFields v [(0, 0, b2n (decide (0 < framesAt s d))), (9, 1, framesAt s d),
      (21, 10, match s.pod.colls.find? (·.started) with | some c => c.ctx | none => 0)]
  else v

def readPod (s : State) (off : Nat) (v : BitVec 64) : BitVec 64 :=
  if off = rSTK_MEMB then withFields v [(15, 0, s.pod.ownInc), (16, 16, b2n s.pod.stale), (25, 25, b2n s.rst.strict)]
  else if off = rSTK_GRP_CTRL then withFields v [(22, 11, tget 0 s.pod.cseqs (bits v 7 0))]
  else if off = rSTK_INC then withFields v [(27, 12, incOf s (bits v 11 0)), (28, 28, b2n (lostBit s (bits v 11 0)))]
  else v

/-! Port, CXL and contact-sheet pages (R268, R269, R416, R507). -/

def portCode (p : Port) : Nat :=
  match p.st with
  | .off => 0
  | .train => 1
  | .align => 2
  | .up => if p.width = 3 then 7 else 3
  | .retrain => 4
  | .drain => 5
  | .down => 6

def readPort (s : State) (n off : Nat) (v : BitVec 64) : BitVec 64 :=
  let p := portOf s n
  if off = rPRT_CTRL n then withFields v [(0, 0, b2n p.en), (2, 2, b2n p.enLatch)]
  else if off = rPRT_STATUS n then
    withFields v [(2, 0, portCode p), (4, 3, p.width), (6, 5, p.group), (18, 7, (p.peer.getD (0, 0)).1), (23, 19, (p.peer.getD (0, 0)).2),
      (39, 24, p.good.toNat), (51, 40, p.rtt.toNat)]
  else v

def readPrtPkg (s : State) (off : Nat) (v : BitVec 64) : BitVec 64 :=
  if off = rPRT_RT_CTRL then withFields v [(14, 14, b2n s.rst.strict)] else v

def readCxl (s : State) (off : Nat) (v : BitVec 64) : BitVec 64 :=
  if off = rCXL_STATUS then
    let c := s.cxl
    withFields v [(0, 0, b2n (c.link == .l0 || c.link == .recovery)), (3, 1, c.rate), (8, 4, c.width), (9, 9, b2n (c.mode && s.rst.phase == .ready)), (10, 10, b2n c.committed),
      (11, 11, b2n c.cacheEn), (12, 12, b2n c.biEn), (13, 13, b2n c.ide), (14, 14, b2n c.viralTx), (15, 15, b2n c.viralRx), (16, 16, b2n (linkHeld s)),
      (17, 17, b2n c.atsEn)]
  else v

def readCsw (s : State) (off : Nat) (v : BitVec 64) : BitVec 64 :=
  if off = rCSW_CTRL then
    withFields v [(0, 0, b2n (cswOpen s)), (1, 1, b2n s.rst.opten), (2, 2, b2n s.csw.authen), (3, 3, b2n s.rst.strict), (9, 4, s.csw.busy.getD 0),
      (10, 10, b2n s.csw.busy.isSome)]
  else v

/-! Core pages (R94, R137, R159). -/

/-- An engine of a program has an op started and not completed: it has left its queue, or its effects are under way. -/
def engBusy (q : Option Prog) (e : Eng) : Bool :=
  match q with
  | some q => !(engOf q e).run.isEmpty || (match (engOf q e).queue with | o :: _ => o.held || decide (0 < o.mark) | [] => false)
  | none => false

/-- A copy op of a saved step stands partly done (R158). -/
def partSaved (s : State) (core : Nat) : Bool :=
  s.sched.steps.any (fun t => t.saved.any (fun x => x.core == core && (match x.prog with
    | some q => [Eng.copy0, Eng.copy1].any (fun e => match (engOf q e).queue with | o :: _ => decide (0 < o.mark) | [] => false)
    | none => false)))

def coreFields (s : State) (c : Nat) (v : BitVec 64) : BitVec 64 :=
  let k := coreOf s c
  withFields v [(15, 4, ctxShown k.lo), (27, 16, ctxShown k.hi)]

/-- A core's pages. No rule says when a core leaves split mode: SPLIT shows 1 while a core in split mode holds a program (log entry 109). -/
def readCore (s : State) (c off : Nat) (v : BitVec 64) : BitVec 64 :=
  let k := coreOf s c
  let sp := b2n (k.split && (k.lo.isSome || k.hi.isSome))
  if off = rARR_STATE c then
    withFields (coreFields s c v) [(0, 0, sp), (1, 1, b2n (engBusy k.lo .array)), (2, 2, b2n (engBusy k.hi .array))]
  else if off = rARR_DRAIN_FLAGS c then
    withFields v [(3, 0, flagsOf [k.drainLo.sat, k.drainLo.nf, k.drainHi.sat, k.drainHi.nf]), (25, 16, k.drainLo.satRow), (35, 26, k.drainLo.nfRow),
      (45, 36, k.drainHi.satRow), (55, 46, k.drainHi.nfRow)]
  else if off = rVEC_STATE c then
    withFields (coreFields s c v) [(0, 0, sp), (1, 1, b2n (engBusy k.lo .vector)), (2, 2, b2n (engBusy k.hi .vector))]
  else if off = rVEC_GRAIN_STAT c then withFields v [(0, 0, b2n k.seeded)]
  else if off = rCPY_STATE c then
    withFields (coreFields s c v) [(0, 0, b2n (engBusy k.lo .copy0 || engBusy k.hi .copy0)), (1, 1, b2n (engBusy k.lo .copy1 || engBusy k.hi .copy1)),
      (2, 2, b2n (partSaved s c))]
  else v

/-! Configuration space, the CXL component registers, and the MSI-X structures (R390 to R396, R513, R517). -/

/-- Sizes of BAR0, BAR2 and BAR4 (R393). -/
def barBytes (n : Nat) : Nat := nth [2 ^ 24, 2 ^ 23, 2 ^ 12] (n / 2)

/-- A field of configuration space as the host reads it. What the port does not support has its enable bit hardwired to zero (R391); the
low bits of a BAR say a 64-bit, non-prefetchable memory BAR. -/
def configField (s : State) (f : CfgField) : Nat :=
  match f with
  | .bar n => (s.cxl.bars.getD (n / 2) 0).toNat / barBytes n * barBytes n + 4
  | .barSize n => barBytes n
  | .cacheEnable => b2n s.cxl.cacheEn
  | .memEnable => b2n s.cxl.memEn
  | .atsEnable => b2n s.cxl.atsEn
  | .memActive => b2n s.rst.memActive
  | .viralStatus => b2n s.cxl.viralTx
  | .msixEnable => b2n s.msix.enabled
  | .msixFunctionMask => b2n s.msix.fmask
  | .msixTableSize => 2048
  | .componentRegs => 0x180000
  | .deviceRegs => 0x190000
  | .enableOf _ => 0

/-- A word of 32 bits of the component register block, by its offset from the CXL.cachemem range: the capability list with RAS, HDM Decoder
and BI Decoder, and these (log entry 47). -/
def componentWord (s : State) (off : Nat) : Nat :=
  let c := s.cxl
  match off with
  | 0x000 => 0x03110001
  | 0x004 => 0x10020002
  | 0x008 => 0x20020005
  | 0x00C => 0x3001000C
  | 0x200 => fieldAt 13 13 1
  | 0x204 => fieldAt 1 1 (b2n c.memEn)
  | 0x210 => bits c.base 31 28 * 2 ^ 28
  | 0x214 => bits c.base 51 32
  | 0x21C => 0x200
  | 0x220 => fieldAt 8 8 (b2n c.lockD) + fieldAt 10 10 (b2n c.committed) + fieldAt 11 11 (b2n c.errNC) + fieldAt 13 13 (b2n c.biEn)
  | 0x304 => fieldAt 1 1 (b2n c.biEn)
  | _ => 0

/-- The MSI-X table's two words of an entry, data with the mask bit, and the pending-bit array, 64 vectors a word. -/
def msixWord (s : State) (i : Nat) : BitVec 64 :=
  let w := tget 0 s.msix.words i
  if i % 2 = 0 then w else setBits w 32 32 (b2n (!s.msix.open_.contains (i / 2)))
def pbaWord (s : State) (i : Nat) : Nat := flagsOf ((List.range 64).map (fun k => s.msix.pba.contains (64 * i + k)))

/-- The blocks of BAR0 that CXL and PCIe lay out. -/
def readBlocks (s : State) (off : Nat) : BitVec 64 :=
  if 0x181000 ≤ off ∧ off < 0x182000 then BitVec.ofNat 64 (componentWord s (off - 0x181000) + 2 ^ 32 * componentWord s (off - 0x180FFC))
  else if 0x1A0000 ≤ off ∧ off < 0x1A8000 then msixWord s ((off - 0x1A0000) / 8)
  else if 0x1A8000 ≤ off ∧ off < 0x1A8100 then BitVec.ofNat 64 (pbaWord s ((off - 0x1A8000) / 8))
  else 0

/-! The map (R13, R511, R513). -/

/-- Whether BAR0 has a register at an offset: one of the map, and of a core that the part has. -/
def hasReg (s : State) (off : Nat) : Bool := (regAt off).isSome && (decide (off < 0x200000) || decide ((off - 0x200000) / 0x4000 < coreCount s))

/-- The register at an offset that is a multiple of 8, as it stands now. -/
def regNow (s : State) (off : Nat) : BitVec 64 :=
  let v := regVal s off
  let pg := off / 0x1000
  if pg = 0 then readPkg s off v
  else if pg = 1 then readErr s off v
  else if pg = 2 then readRst s off v
  else if pg = 3 then readPwr s off v
  else if pg = 4 then readSec s off v
  else if pg = 5 then readRing s off v
  else if pg = 6 then readSched s off v
  else if pg = 7 then (if off = rMEM_MAP then withFields v [(40, 16, rsvBase s / 2 ^ 16)] else v)
  else if pg = 8 then readFixPkg s off v
  else if pg = 9 then readPrtPkg s off v
  else if pg = 0xA then readPod s off v
  else if pg = 0xB then readCoh s off v
  else if pg = 0xC then readCxl s off v
  else if pg = 0xD then readCsw s off v
  else if pg < 0x10 then v
  else if pg < 0x18 then readDie s (pg - 0x10) off v
  else if pg < 0x20 then v
  else if pg < 0x30 then readMem s (pg - 0x20) off v
  else if pg < 0x40 then readPpr s (pg - 0x30) off v
  else if pg < 0x50 then readHome s (pg - 0x40) off v
  else if pg < 0x60 then readLoupe s (pg - 0x50) off v
  else if pg < 0x80 then readPort s (pg - 0x60) off v
  else if pg < 0x90 then readStk s (pg - 0x80) off v
  else if pg < 0x100 then v
  else if pg < 0x140 then readFix s (pg - 0x100) off v
  else if pg < 0x200 then v
  else readCore s ((pg - 0x200) / 4) off v

/-- The edge pages are not filled yet: step 6 of R439 fills them, and a bring-up that stops before it has not (R511). A stop for want of
management-controller firmware comes before step 5, which fills the strap page. -/
def edgesUnfilled (s : State) : Bool :=
  match s.rst.phase with
  | .seq 2 _ => false
  | .seq _ n => decide (n ≤ 6)
  | .stopped c => c == 0x0801 || regVal s rD2D_STRAP == 0
  | _ => false

/-- A read of BAR0, of 8 bytes: zero where the page does not answer or has no register there; an edge page that is not filled reads as its reset
values, whatever it keeps. -/
def readReg (s : State) (off : Nat) : BitVec 64 :=
  if !pageOpen s off then 0
  else if 0x180000 ≤ off ∧ off < 0x200000 then readBlocks s off
  else if !hasReg s off then 0
  else if inPages 0x90000 14 off && edgesUnfilled s then regReset off
  else regNow s off

end Sys2Proof.Machine
end

