-- ==== Sys2Proof/Machine/Regs.lean ====
section
/-! DEFINITION. Writes of registers (R508 to R514), the windows of contexts, cores and routes (R343, R351, R265, R365), the error queue
(R490, R491), MSI-X masks (R517), soft repair (R428), and the I3C sideband (R512). -/

namespace Sys2Proof.Machine

/-! Contexts and cores (R343, R351, R363, R365). -/

def ctxCode (c : CtxSt) : Nat := match c with | .free => 0 | .openS => 1 | .teardown => 2 | .gone => 3 | .ending => 4

/-- STATE of a slot. Context 0 exists throughout. -/
def ctxStateShown (s : State) (c : Nat) : Nat := if c = 0 then 1 else ctxCode (ctxOf s c).st

/-- A CTX_CTRL READ: the four data registers are loaded. -/
def readCtx (s : State) (c : Nat) : State :=
  let x := ctxOf s c
  let t := stepOfCtx s c
  let s := setField s rCTX_CTRL 11 0 c
  let s := setReg s rCTX_DATA0 (BitVec.ofNat 64 (ctxStateShown s c + fieldAt 7 4 x.profile + fieldAt 51 12 (pt4Of s c / 4096)))
  let s := setReg s rCTX_DATA1 (BitVec.ofNat 64 (fieldAt 15 0 x.fault + fieldAt 31 16 (match t with | some t => t.stepno | none => 0)
    + fieldAt 32 32 (b2n (match t with | some t => onCores t | none => false)) + fieldAt 33 33 (b2n (match t with | some t => t.st == .saved | none => false))
    + fieldAt 42 34 (ringsOf s c).length))
  setReg (setReg s rCTX_DATA2 x.waitTime) rCTX_DATA3 (BitVec.ofNat 64 x.preempts)

/-- CTX_READ. -/
def execCtxRead (ctx : BitVec 12) (s : State) : Out State :=
  .next (if pageOpen s rCTX_CTRL then readCtx (wakeBy false s) ctx.toNat else s)

/-- A CTX_CTRL OPEN with CTX_DATA0. In fog no context is opened. -/
def openWith (s : State) (c : Nat) : State :=
  let s := setField s rCTX_CTRL 11 0 c
  if serving s then openSlot s c (regVal s rCTX_DATA0).toNat else s

/-- OPEN. -/
def execOpenCtx (ctx : BitVec 12) (s : State) : Out State :=
  .next (if pageOpen s rCTX_CTRL then openWith (wakeBy false s) ctx.toNat else s)

/-- Withdrawals that wait are counted as made when another is asked for. -/
def withdrawnIf (s : State) (c : Nat) : State :=
  let s := { s with cores := s.cores.map (fun e => (e.1, if e.2.wdPend && !e.2.retLatch then { e.2 with withdrawn := true } else e.2)) }
  setCore s c { coreOf s c with withdrawn := true }

/-- The part, or a die with a loaded step's affinity, would have too few cores (R351). -/
def withdrawRefused (s : State) (c : Nat) : Bool :=
  decide (coreCount s ≤ c) ||
    (match s.sched.model with | some m => m.needs.any (tooMany (withdrawnIf s c)) | none => false)

/-- A WITHDRAW: at once, or at the end of the program that the core holds; it cancels a latched RETURN (R362). -/
def withdrawCore (s : State) (c : Nat) : State :=
  let s := setField s rSCH_CORE 9 0 c
  let no := withdrawRefused s c
  let s := setField s rSCH_CORE 14 14 (b2n no)
  if no then s
  else
    let k := coreOf s c
    if k.lo.isSome || k.hi.isSome then setCore s c { k with wdPend := !k.withdrawn, retLatch := false }
    else setCore s c { k with withdrawn := k.withdrawn || !k.wdPend, retLatch := false }

/-- WITHDRAW. -/
def execWithdraw (core : BitVec 10) (s : State) : Out State :=
  .next (if pageOpen s rSCH_CORE then withdrawCore (wakeBy false s) core.toNat else s)

/-- A RETURN: latched while a withdrawal or a scrub is in progress (R363). -/
def returnTo (s : State) (c : Nat) : State :=
  let s := setField s rSCH_CORE 9 0 c
  let k := coreOf s c
  if coreCount s ≤ c then s
  else if k.wdPend || (k.withdrawn && (k.scrubLo || k.scrubHi || coreInReset s c)) then setCore s c { k with retLatch := true }
  else setCore s c { k with withdrawn := false }

/-- RETURN. -/
def execReturnCore (core : BitVec 10) (s : State) : Out State :=
  .next (if pageOpen s rSCH_CORE then returnTo (wakeBy false s) core.toNat else s)

/-! Routing entries (R265, R269). -/

def readRoute (s : State) (n : Nat) : State :=
  let s := setField s rPRT_RT_CTRL 11 0 n
  let e := tget (0 : BitVec 128) s.pod.routes n
  setReg (setReg s rPRT_RT_DATA0 (BitVec.ofNat 64 (bits e 63 0))) rPRT_RT_DATA1 (BitVec.ofNat 64 (bits e 127 64))

/-- PRT_RT_READ. -/
def execPrtRtRead (entry : BitVec 12) (s : State) : Out State :=
  .next (if pageOpen s rPRT_RT_CTRL then readRoute (wakeBy false s) entry.toNat else s)

/-- A PRT_RT_CTRL WRITE, which strict-AUTH mode refuses. -/
def routeFrom (s : State) (n : Nat) : State :=
  let s := setField s rPRT_RT_CTRL 11 0 n
  if s.rst.strict then s
  else writeRoute s n (BitVec.ofNat 128 ((regVal s rPRT_RT_DATA0).toNat + 2 ^ 64 * (regVal s rPRT_RT_DATA1).toNat))

/-- PRT_RT_WRITE. -/
def execPrtRtWrite (entry : BitVec 12) (s : State) : Out State :=
  .next (if pageOpen s rPRT_RT_CTRL then routeFrom (wakeBy false s) entry.toNat else s)

/-! Soft repair (R428). -/

/-- A soft repair of the row that a stack's MEM_PPR_CTRL names; the row's bytes, poison and edge codes stand. -/
def repairSoft (s : State) (h : Nat) : State :=
  let v := regVal s (rMEM_PPR_CTRL h)
  let b := bankKey h (bits v 4 0) (bits v 5 5) (bits v 11 6)
  if !serving s then s
  else if hbmBanks (b / 128) ≤ bits v 11 6 ∨ softLeftBank s b = 0 then setField s (rMEM_PPR_CTRL h) 46 46 1
  else
    let s := setField s (rMEM_PPR_CTRL h) 46 46 0
    { s with rst := { s.rst with soft := s.rst.soft ++ [(b, bits v 43 12)] } }

/-- SOFT_REPAIR. -/
def execSoftRepair (stack : Nat) (chan : BitVec 5) (pc : Bool) (bank : BitVec 6) (row : BitVec 32) (s : State) : Out State :=
  .next (if stack < 16 ∧ pageOpen s (rMEM_PPR_CTRL stack) = true then
    let s := wakeBy false s
    let s := setField (setField s (rMEM_PPR_CTRL stack) 4 0 chan.toNat) (rMEM_PPR_CTRL stack) 5 5 (b2n pc)
    repairSoft (setField (setField s (rMEM_PPR_CTRL stack) 11 6 bank.toNat) (rMEM_PPR_CTRL stack) 43 12 row.toNat) stack
  else s)

/-! The error queue (R490, R491, R495). -/

/-- A queue's base is right: aligned to the queue, and for device memory clear of the reserved regions. -/
def errBaseOk (s : State) (v : BitVec 64) : Bool :=
  let n := 32 * 2 ^ bits v 5 1
  let a := bits v 63 12 * 4096
  a % n == 0 && (bit v 0 || decide (a + n ≤ rsvBase s))

/-- A write of PKG_ERRQ_BASE, refused while EN is 1. -/
def writeErrBase (s : State) (v : BitVec 64) : State :=
  if bit (regVal s rPKG_ERRQ_CTRL) 0 then setField s rPKG_ERRQ_CTRL 18 18 1
  else setReg (setField s rPKG_ERRQ_CTRL 18 18 0) rPKG_ERRQ_BASE (v &&& 0xFFFFFFFFFFFFF03F)

/-- A write of PKG_ERRQ_CTRL: a bad base makes EN fail; with EN set, the records held are written. -/
def writeErrCtrl (s : State) (v : BitVec 64) : State :=
  let no := bit v 0 && !errBaseOk s (regVal s rPKG_ERRQ_BASE)
  let s := setReg s rPKG_ERRQ_CTRL (withFields (v &&& 0x3FFFF) [(0, 0, b2n (bit v 0 && !no)), (18, 18, b2n no)])
  flushErrs 65 s

/-- A write of PKG_ERRQ_HEAD: PENDING goes, and the vector is sent again where records are left. -/
def writeErrHead (s : State) (v : BitVec 64) : State :=
  let s := setField s rPKG_ERRQ_HEAD 31 0 (bits v 31 0)
  let again := bit (regVal s rPKG_ERRQ_CTRL) 1 && s.errs.tail != bits v 31 0
  let s := { s with errs := { s.errs with pending := false } }
  flushErrs 65 (if again then errVisible s else s)

/-- ERRQ_BASE_WRITE. -/
def execErrqBaseWrite (v : Word) (s : State) : Out State :=
  .next (if pageOpen s rPKG_ERRQ_BASE then writeErrBase (wakeBy false s) v else s)

/-- ERRQ_CTRL_WRITE. -/
def execErrqCtrlWrite (v : Word) (s : State) : Out State :=
  .next (if pageOpen s rPKG_ERRQ_CTRL then writeErrCtrl (wakeBy false s) v else s)

/-- ERRQ_HEAD_WRITE. -/
def execErrqHeadWrite (v : Word) (s : State) : Out State :=
  .next (if pageOpen s rPKG_ERRQ_HEAD then writeErrHead (wakeBy false s) v else s)

/-! MSI-X (R517). -/

/-- Messages held in the pending-bit array that nothing masks any more are sent. -/
def sendHeld (s : State) : State :=
  if !s.msix.enabled || s.msix.fmask then s
  else
    let go := s.msix.pba.filter (fun v => s.msix.open_.contains v)
    go.foldl (fun s v => send s (.msix v)) { s with msix := { s.msix with pba := s.msix.pba.filter (fun v => !s.msix.open_.contains v) } }

/-- MSIX_UNMASK: of one vector, or of the function, which the host then has enabled. -/
def execMsixUnmask (what : MaskWhat) (s : State) : Out State :=
  .next (if !ioUp s then s
  else
    let s := wakeBy false s
    match what with
    | .vector v => if v < 2048 then sendHeld { s with msix := { s.msix with open_ := insNat v s.msix.open_ } } else s
    | .function => sendHeld { s with msix := { s.msix with enabled := true, fmask := false } })

/-! Register writes (R509, R510). -/

/-- The state a command leaves, for a register write that runs the command. -/
def runs (o : Out State) (s : State) : State := match o with | .next t => t | _ => s

/-- A register's stored value after a write of the bits in `m`: RW fields are written, RW1C bits cleared, RWL fields written while their
lock is open (R11, R514). -/
def merged (s : State) (off : Nat) (d : RegDef) (v m : BitVec 64) : BitVec 64 :=
  let old := regVal s off
  let locked := decide (0 < d.lock) && bit s.rst.locks (d.lock - 1)
  let rw : BitVec 64 := BitVec.ofNat 64 d.rw ||| (if locked then 0 else BitVec.ofNat 64 d.rwl)
  let rw := (if off = rCTX_DATA0 then rw ||| 0xFFF0000000000F08 else rw) &&& m
  ((old &&& ~~~rw) ||| (v &&& rw)) &&& ~~~(v &&& m &&& BitVec.ofNat 64 d.w1c)

/-- A requested reset of RST_CTRL (R441). -/
def resetAsked (s : State) (kind index : Nat) : State :=
  let i := BitVec.ofNat 11 index
  match kind with
  | 0 => runs (execDieReset i s) s
  | 1 => runs (execCoreReset i s) s
  | 2 => runs (execPortReset i s) s
  | 3 => runs (execFixerReset i s) s
  | 4 => runs (execLoupeReset i s) s
  | 5 => runs (execStackerReset i s) s
  | 6 => runs (execRingGroupReset i s) s
  | _ => { s with rst := { s.rst with refused := true } }

/-- Act where a trigger bit is written as 1. -/
def onBit (b : Bool) (f : State → State) (s : State) : State := if b then f s else s

/-- What the trigger bits of a write start, in ascending bit order: `t` holds the bits written as 1. -/
def triggers (s : State) (off : Nat) (t m : BitVec 64) : State :=
  let v := regVal s off
  if off = rRST_CTRL then onBit (bit t 14) (fun s => resetAsked s (bits v 2 0) (bits v 13 3)) s
  else if off = rRST_SOURCES then { s with rst := { s.rst with seen := s.rst.seen &&& ~~~(t.setWidth 16) } }
  else if off = rPKG_ALERT then driveAlert s
  else if off = rRING_CTRL then
    let n := BitVec.ofNat 20 (bits v 19 0)
    onBit (bit t 22) (fun s => runs (execRingCtrlReset n s) s)
      (onBit (bit t 21) (fun s => runs (execRingCtrlWrite n s) s) (onBit (bit t 20) (fun s => runs (execRingCtrlRead n s) s) s))
  else if off = rSCH_CORE then onBit (bit t 11) (fun s => returnTo s (bits v 9 0)) (onBit (bit t 10) (fun s => withdrawCore s (bits v 9 0)) s)
  else if off = rCTX_CTRL then onBit (bit t 13) (fun s => openWith s (bits v 11 0)) (onBit (bit t 12) (fun s => readCtx s (bits v 11 0)) s)
  else if off = rFIX_SE_CTRL then
    let c := BitVec.ofNat 12 (bits v 11 0)
    onBit (bit t 13) (fun s => runs (execFixSeCommit c (bit v 14) s) s) (onBit (bit t 12) (fun s => runs (execFixSeRead c s) s) s)
  else if off = rPRT_RT_CTRL then onBit (bit t 13) (fun s => routeFrom s (bits v 11 0)) (onBit (bit t 12) (fun s => readRoute s (bits v 11 0)) s)
  else if off = rSTK_GRP_CTRL then
    let g := BitVec.ofNat 8 (bits v 7 0)
    onBit (bit t 9) (fun s => runs (execStkGrpWrite g s) s) (onBit (bit t 8) (fun s => runs (execStkGrpRead g s) s) s)
  else if inPages 0x30000 16 off then onBit (bit t 44) (fun s => repairSoft s ((off - 0x30000) / 0x1000)) s
  else if inPages 0x60000 32 off ∧ off % 0x1000 = 0 then
    let n := (off - 0x60000) / 0x1000
    let s := if bit m 0 then (if bit t 0 then (if (portOf s n).en then s else enablePort s n) else if (portOf s n).en then disablePort s n else s) else s
    onBit (bit t 1) (fun s => writeRetrain s n) s
  else s

/-- A write of the MSI-X table: address and data words, and the mask bit of the vector (R517). -/
def writeMsix (s : State) (i : Nat) (v m : BitVec 64) : State :=
  let s := { s with msix := { s.msix with words := tset 0 s.msix.words i ((tget 0 s.msix.words i &&& ~~~m) ||| (v &&& m)) } }
  if i % 2 = 1 ∧ bit m 32 = true then
    (if bit v 32 then { s with msix := { s.msix with open_ := s.msix.open_.filter (· != i / 2) } }
     else sendHeld { s with msix := { s.msix with open_ := insNat (i / 2) s.msix.open_ } })
  else s

/-- A write of `v` to the bits `m` of the register at an offset, where its page answers. -/
def writeReg (s : State) (off : Nat) (v m : BitVec 64) : State :=
  if pageOpen s off = true ∧ 0x1A0000 ≤ off ∧ off < 0x1A8000 then writeMsix s ((off - 0x1A0000) / 8) v m
  else if !(pageOpen s off && hasReg s off) then s
  else
    let all := (regVal s off &&& ~~~m) ||| (v &&& m)
    if off = rPKG_ERRQ_BASE then writeErrBase s all
    else if off = rPKG_ERRQ_CTRL then writeErrCtrl s all
    else if off = rPKG_ERRQ_HEAD then writeErrHead s all
    else match regAt off with
      | none => s
      | some d => triggers (setReg s off (merged s off d v m)) off (v &&& m) m

/-- The bits of a write: all, or those of the half that the offset names, and the value in its place. -/
def halfMask (off : Nat) (wide : Bool) : BitVec 64 := if wide then BitVec.allOnes 64 else if off % 8 = 4 then 0xFFFFFFFF00000000 else 0xFFFFFFFF
def halfValue (off : Nat) (wide : Bool) (v : BitVec 64) : BitVec 64 := if wide then v else if off % 8 = 4 then v <<< 32 else v

/-- An access that R509 drops: counted, and the first logged. -/
def accErr (s : State) (off size : Nat) (write i3c : Bool) : State :=
  let s := bump s rPKG_ACCERR 47 32
  if bit (regVal s rPKG_ACCERR) 0 then s
  else setReg s rPKG_ACCERR (withFields (regVal s rPKG_ACCERR) [(0, 0, 1), (1, 1, b2n write), (2, 2, b2n i3c), (26, 3, off), (30, 27, size)])

/-- An access is one that R509 allows. -/
def alignedAccess (off size : Nat) : Bool := (size == 8 && off % 8 == 0) || (size == 4 && off % 4 == 0)

/-- A write of BAR0. -/
def barWrite (s : State) (off : Nat) (wide : Bool) (v : Word) : State :=
  if !pageOpen s off then s
  else if !alignedAccess off (if wide then 8 else 4) then accErr s off (if wide then 8 else 4) true false
  else writeReg s (off / 8 * 8) (halfValue off wide v) (halfMask off wide)

/-- A word of the contact-sheet window as BAR4 reads (R496, R498). -/
def cswRead (s : State) (off : Nat) : BitVec 32 :=
  if cswOpen s && off % 4 == 0 && decide (off < 4096) && off % 64 != 60 then swap32 (tget 0 s.csw.words (off / 4)) else 0

/-- What a CXL.io read of a BAR by a requester returns (R393, R509): none while a write of the same requester that has arrived is not dealt
with (R404). Writes of registers and doorbells are made as they arrive. No command of the table is such a read (log entry 85). -/
def barRead (s : State) (rid bar off size : Nat) : Option Word :=
  if uioWriting s rid then none
  else some (match bar with
    | 0 =>
      if !alignedAccess off size then 0
      else if size = 8 then readReg s off
      else if off % 8 = 4 then readReg s (off - 4) >>> 32 else readReg s off &&& 0xFFFFFFFF
    | 4 => if size = 4 then (cswRead s off).setWidth 64 else 0
    | _ => 0)

/-- REGISTER_WRITE: of BAR0, or of a word of the contact-sheet window (R498). -/
def execRegisterWrite (bar : Bar) (off : Nat) (wide : Bool) (v : Word) (s : State) : Out State :=
  .next (if !ioUp s then s
  else match bar with
    | .bar0 => if off < 2 ^ 24 then barWrite (wakeBy false s) off wide v else s
    | .bar4 => cswWrite s off wide (v.setWidth 32))

/-- Pages that I3C reaches (R512). -/
def i3cPage (off : Nat) : Bool :=
  let pg := off / 0x1000
  decide (pg ≤ 4) || pg == 0xE || (decide (0x10 ≤ pg) && decide (pg < 0x18)) || (decide (0x90 ≤ pg) && decide (pg < 0x9E)) ||
    (decide (0x30 ≤ pg) && decide (pg < 0x40))

/-- DROPPED_REGISTER_ACCESS (R509): a read of that kind returns zero. An access to a page that does not answer is not counted (R511). -/
def execDroppedRegisterAccess (off : Nat) (size : Nat) (write : Bool) (i3c : Bool) (s : State) : Out State :=
  .next (if alignedAccess off size || !pageOpen s off || (if i3c then !i3cPage off else !ioUp s) || decide (2 ^ 24 ≤ off) then s
  else
    let s := accErr (wakeBy i3c s) off size write i3c
    if write then s else if i3c then send s (.i3c (zeros size)) else nextUid (send s (.cpl s.uid (zeros size) 0)))

/-! The I3C sideband (R512). -/

/-- A transfer addressed to the package: it is answered from step 4 of R439 on, and in Dark it only wakes (R460). -/
def i3cUse (s : State) (f : State → State) : State :=
  if !pageOpen s 0 then s
  else if s.pwr.st = 3 then wakeBy true s
  else f (wakeBy true s)

def setPtr (s : State) (p : BitVec 24) : State := { s with pins := { s.pins with i3cPtr := p } }

/-- I3C_POINTER_WRITE. -/
def execI3cPointerWrite (off : BitVec 24) (s : State) : Out State := .next (i3cUse s (fun s => setPtr s off))

/-- I3C_READ: the register at the pointer, zero elsewhere; the pointer advances. -/
def execI3cRead (s : State) : Out State :=
  .next (i3cUse s (fun s =>
    let off := s.pins.i3cPtr.toNat
    let s := setPtr s (s.pins.i3cPtr + 8)
    if !i3cPage off then send s (.i3c (zeros 8))
    else if off % 8 ≠ 0 then send (if pageOpen s off then accErr s off 8 false true else s) (.i3c (zeros 8))
    else send s (.i3c (leBytes 8 (readReg s off).toNat))))

/-- I3C_REGISTER_WRITE: refused under strict-AUTH mode (R480). -/
def execI3cRegisterWrite (off : BitVec 24) (v : Word) (s : State) : Out State :=
  .next (i3cUse s (fun s =>
    let s := setPtr s off
    let o := off.toNat
    if s.rst.strict || !i3cPage o then s
    else if o % 8 ≠ 0 then (if pageOpen s o then accErr s o 8 true true else s)
    else writeReg s o v (BitVec.allOnes 64)))

end Sys2Proof.Machine
end

