-- ==== Sys2Proof/Machine/Power.lean ====
section
/-! DEFINITION. Power (18): the throttles of R463 and R464, the trip of R465, the choice of a sleeping state, its entry and the wake
(R456 to R462, R295); the patrol scrub (R175 to R178) and the upkeep of the grain generators (R130, R132). -/

namespace Sys2Proof.Machine

/-- The management controller and its power controller run. -/
def pwrUp (s : State) : Bool := mcUp s

/-! Temperature (R463, R465). -/

/-- A die's clock steps down from the throttle temperature on, until every sensor is 3 °C below it. -/
def hotNow (lim : Nat) (was : Bool) (t : Nat) : Bool := decide (lim ≤ t) || (was && decide (lim < t + 3))

def lowTrip (s : State) : State := { s with pins := { s.pins with thermTrip := false } }

/-- THERMAL_SAMPLE: the highest reading of each die; a throttle or trip wakes the package (R460), and the first reading of 115 °C is
reset source 6. -/
def execThermalSample (readings : List Nat) (s : State) : Out State :=
  .next (if !pwrUp s then s
  else
    let ts := (List.range 10).map (nth readings)
    let lim := regField s rPWR_CTRL 20 14
    let hot := (List.range 8).map (fun d => hotNow lim (s.pwr.byTemp.getD d false) (nth ts d))
    let began := (List.range 8).any (fun d => hot.getD d false && !s.pwr.byTemp.getD d false)
    let s : State := { s with pwr := { s.pwr with temps := ts, byTemp := hot } }
    let trip := ts.any (fun t => decide (115 ≤ t))
    let s := if began || trip then wakeBy true s else s
    if trip && s.pins.thermTrip then raiseSrc (lowTrip s) 6 else s)

/-- Set one of a list of numbers. -/
def setNth (l : List Nat) (i v : Nat) : List Nat := l.set i v

/-- THROTTLE_STEP (R463): 100 MHz down while the die is hot, to 900 MHz; else 100 MHz up, the clock itself unless the cap throttles. -/
def execThrottleStep (die : Nat) (s : State) : Out State :=
  .next (if !pwrUp s || decide (8 ≤ die) then s
  else
    let w := s.pwr
    let c := w.clocks.getD die 1800
    if w.byTemp.getD die false then
      let c := max 900 (c - 100)
      { s with pwr := { w with clocks := setNth w.clocks die c, ceil := setNth w.ceil die c } }
    else
      let top := min 1800 (w.ceil.getD die 1800 + 100)
      { s with pwr := { w with ceil := setNth w.ceil die top, clocks := if w.byCap then w.clocks else setNth w.clocks die (min top (c + 100)) } })

/-! The cap (R464). -/

/-- The cap in force. -/
def capNow (s : State) : Nat :=
  let c := regField s rPWR_CTRL 13 2
  if s.pins.throttleN then c else max 1200 (c / 2)

/-- POWER_WINDOW: every A-die clock steps down after a window above the cap, and up after one below 0.95 of it. -/
def execPowerWindow (watts : Nat) (s : State) : Out State :=
  .next (if !pwrUp s then s
  else
    let w := { s.pwr with watts := min 4095 watts }
    let s : State := { s with pwr := w }
    if capNow s < watts then { s with pwr := { w with clocks := w.clocks.map (fun c => max 900 (c - 100)), byCap := true } }
    else if 100 * watts < 95 * capNow s then
      let cs := (List.range 8).map (fun d => min (w.ceil.getD d 1800) (w.clocks.getD d 1800 + 100))
      { s with pwr := { w with clocks := cs, byCap := w.byCap && (List.range 8).any (fun d => decide (nth cs d < w.ceil.getD d 1800)) } }
    else s)

/-- THROTTLE_N_CHANGE. -/
def execThrottleNChange (level : Bool) (s : State) : Out State := .next { s with pins := { s.pins with throttleN := level } }

/-! The choice of a state (R457 to R459). -/

/-- Entry, wake and break-even of a state, in ticks (R456). -/
def entryTicks (st : Nat) : Nat := nth [0, 50, 5000, 125000] st
def wakeTicks (st : Nat) : Nat := nth [0, 125, 10000, 750000] st
def breakEven (st : Nat) : Nat := nth [0, 500, 50000, 7500000] st

/-- A ring has a descriptor ready or running. -/
def ringWorks (s : State) (n : Nat) : Bool := !ringIdle s n

/-- The package is idle (R457). -/
def pkgIdle (s : State) : Bool :=
  s.rst.phase == .ready && s.rst.block.isNone && s.rst.next.isNone && s.sec.auth.isNone && !inFog s && s.cxl.link != .recovery
    && s.sched.steps.isEmpty && !s.rings.ctx.any (fun e => e.2.v && ringWorks s e.1)
    && s.loupes.all (fun e => e.2.queue.isEmpty && e.2.run.isNone) && s.fixers.queue.isEmpty && s.fixers.run.isNone
    && s.pod.colls.isEmpty && s.pod.frames.isEmpty && s.pod.waiting.isEmpty && s.pod.loopq.isEmpty && s.pod.reqs.isEmpty
    && s.ports.all (fun e => e.2.rxq.isEmpty)
    && s.coh.msgs.isEmpty && s.coh.homes.isEmpty && s.coh.hout.isEmpty && decide (s.coh.wfi.length = 96)

/-- Ticks to an armed server-core timer, by 48 · die + core. -/
def timerLeft (s : State) (e : Nat × BitVec 48) : Option Nat :=
  let now := (s.aon.getD (8 + e.1 / 48) 0).toNat
  if now < e.2.toNat then some (e.2.toNat - now) else none

/-- Least of some durations: none is no event. -/
def leastOf (l : List Nat) : Option Nat := l.foldl (fun m x => match m with | some y => some (min x y) | none => some x) none

/-- Valid rings not stopped, by whether their hint is live. -/
def openRings (s : State) : List Nat := (s.rings.ctx.filter (fun e => e.2.v && !e.2.err)).map (·.1)
def hintLive (s : State) (n : Nat) : Bool := match (unitOf s n).hint with | some k => decide (0 < k) | none => false

/-- The horizon, without the neighbours' silence. -/
def horizonOf (s : State) : Option Nat :=
  leastOf ((openRings s).filterMap (fun n => (unitOf s n).hint.filter (fun k => decide (0 < k))) ++ s.coh.timers.filterMap (timerLeft s))

/-- Least of the neighbours' announced silences; one of 0xFFFF_FFFF is no event (R288). -/
def silenceLeft (s : State) : Option Nat :=
  leastOf ((s.ports.filter (fun e => e.2.hb == 4)).filterMap (fun e => e.2.silence.filter (fun k => decide (k < 2 ^ 32 - 1))))

/-- Dark may be chosen (R462): the link is in L2, or has never trained. -/
def darkAllowed (s : State) : Bool := s.cxl.link == .l2 || (s.cxl.link == .down && !s.cxl.trained)

/-- An unhinted ring is open. -/
def anyUnhinted (s : State) : Bool := (openRings s).any (fun n => !hintLive s n)

/-- Deepest state to consider. -/
def deepestNow (s : State) : Nat :=
  let cap := regField s rPWR_CTRL 1 0
  let cap := if s.pins.throttleN then cap else min cap 2
  let cap := if anyUnhinted s then min cap 1 else cap
  if (horizonOf s).isNone then min cap 1 else cap

def minOpt (a b : Option Nat) : Option Nat := match a, b with | some x, some y => some (min x y) | none, y => y | x, none => x

/-- The horizon of a state. -/
def horizonFor (s : State) (st : Nat) : Option Nat := if st = 3 then minOpt (horizonOf s) (silenceLeft s) else horizonOf s

/-- The loop of pick(), from state `n` down. -/
def pickFrom (s : State) : Nat → Nat
  | 0 => 0
  | n + 1 =>
    let st := n + 1
    if st = 3 ∧ darkAllowed s = false then pickFrom s n
    else match horizonFor s st with
      | none => if st = 1 then 1 else pickFrom s n
      | some h => if entryTicks st + wakeTicks st ≤ h ∧ breakEven st ≤ h then st else pickFrom s n

/-- pick() of R459. -/
def pickState (s : State) : Nat := if pkgIdle s then pickFrom s (deepestNow s) else 0

/-- The decision as PWR_HORIZON shows it. -/
def noteChoice (s : State) (st : Nat) : State :=
  { s with pwr := { s.pwr with picked := st, horizon := (horizonOf s).getD (2 ^ 48 - 1), unhinted := anyUnhinted s } }

/-- Ports in UP. -/
def upPorts (s : State) : List Nat := (s.ports.filter (fun e => e.2.st == .up)).map (·.1)

/-- Safelight begins: every port in UP sends WIDTH1 and goes to the Safelight width (R461). -/
def narrowPorts (s : State) : State :=
  (upPorts s).foldl (fun s n => sendCtrl (setPort s n { portOf s n with width := 3 }) n 1 none) s

/-- DARK on every port in UP, with SILENCE (R295, R462). -/
def announceDark (s : State) (hs : Nat) : State :=
  let sil := if 2 ^ 32 - 1 ≤ hs + 12525500 then 2 ^ 32 - 1 else hs + 12525500
  if s.pod.ownInc = 0 ∨ s.pod.stale = true then s
  else (upPorts s).foldl (fun s n => match peerOf (portOf s n) with
    | some m => enqueueOn s n none (ownTxn s tDARK m 0 (BitVec.ofNat 64 sil) [])
    | none => s) s

/-- The entry into a state begins, with its own wake scheduled. The bytes that Dark keeps in the package service region are read by
nothing else, and are not modelled. -/
def beginEntry (s : State) (st : Nat) : State :=
  let h := horizonFor s st
  let s : State := { s with pwr := { s.pwr with entering := some st, wakeAt := h.map (· - wakeTicks st), darkSent := st == 3 } }
  if st = 2 then narrowPorts s else if st = 3 then announceDark s (h.getD (2 ^ 32)) else s

/-- POWER_PICK (R459): decided in Lit, and again in a sleeping state; no decision is made during an entry or a wake. -/
def execPowerPick (s : State) : Out State :=
  let w := s.pwr
  .next (if !pwrUp s || w.entering.isSome || w.waking then s
  else
    let st := pickState s
    let s := noteChoice s st
    if w.st = st then (if st = 0 then s else { s with pwr := { s.pwr with wakeAt := (horizonFor s st).map (· - wakeTicks st) } })
    else if w.st < st then beginEntry s st
    else wakeBy true s)

/-- ENTRY_COMPLETE (R456): into Standby or Safelight. -/
def execEntryComplete (s : State) : Out State :=
  .next (match s.pwr.entering with
  | some 1 => bump { s with pwr := { s.pwr with st := 1, entering := none } } rPWR_COUNTS 23 0
  | some 2 => bump { s with pwr := { s.pwr with st := 2, entering := none } } rPWR_COUNTS 43 24
  | _ => s)

/-- A port's lanes go down: what it held is discarded, and it leaves every usable set. -/
def darkPort (s : State) (n : Nat) : State :=
  let p := portOf s n
  let s := leaveSets s n
  setPort s n { p with st := .off, width := 0, group := 0, replay := [], txq := [], rxq := [], partial_ := [], credits := [], freed := [], told := [], peerFreed := [], nakHeld := false }

/-- DARK_LANES_DOWN (R295, R462): lanes down, and every domain but AON off; nothing in a core is kept (R454). -/
def execDarkLanesDown (s : State) : Out State :=
  .next (if s.pwr.entering = some 3 ∧ s.pwr.darkSent = true then
    let s := (s.ports.map (·.1)).foldl darkPort s
    let s := s.cores.foldl (fun s e => setCore s e.1 { e.2 with pwr := .off, sp := [], acc := [], rows := [], tiles := [], seeded := false }) s
    bump { s with pwr := { s.pwr with st := 3, entering := none, darkSent := false } } rPWR_COUNTS 55 44
  else s)

/-- SCHEDULED_WAKE (R459): its time is over. -/
def execScheduledWake (s : State) : Out State := .next (if s.pwr.wakeAt = some 0 then wakeBy true s else s)

/-- Message kind of the L2 wake Beacon in `out` (R462). -/
def mBeacon : Nat := 22

/-- A port of the Safelight width sends WIDEN and retrains (R461). -/
def widenPort (s : State) (n : Nat) : State :=
  if (portOf s n).st = .up ∧ (portOf s n).width = 3 then writeRetrain (sendCtrl s n 2 none) n else s

/-- The package is in Lit, nothing under way. -/
def litNow (s : State) : State := { s with pwr := { s.pwr with st := 0, waking := false, wakeAt := none, darkSent := false } }

/-- WAKE_COMPLETE (R460 to R462): Lit again, ports wide or training anew. -/
def execWakeComplete (s : State) : Out State :=
  .next (if !s.pwr.waking || s.pwr.entering.isSome then s
  else
    let dark := s.pwr.st == 3
    let s := (s.ports.map (·.1)).foldl widenPort (litNow s)
    if dark then
      let s := startPorts s
      if s.cxl.link = .l2 then send s (.cxl mBeacon 0 []) else s
    else s)

/-! The patrol scrub (R175, R177, R178, R180). -/

/-- A line of the pass, by channel and place; once every line of the stack has been visited, the pass is counted. -/
def scrubbed (s : State) (h chan line : Nat) : State :=
  let l := insNat (2 ^ 26 * chan + line) (tget [] s.scrub h)
  if stackLines ≤ l.length then bumpWrap { s with scrub := tset [] s.scrub h [] } (rMEM_SCRUB h) 47 16 else { s with scrub := tset [] s.scrub h l }

/-- PATROL_SCRUB of a line of a stack's channel, `line` in the channel's own addresses: a correction is written back and counted; an
uncorrectable line is poisoned, or one of edge-code slots zeroed. It pauses in self-refresh. -/
def execPatrolScrub (stack : Nat) (chan : Nat) (line : Nat) (find : ScrubFind) (s : State) : Out State :=
  .next (if !serving s || decide (2 ≤ s.pwr.st) || decide (16 ≤ stack) || decide (32 ≤ chan) || decide (2 ^ 26 ≤ line) then s
  else
    let s := scrubbed s stack chan line
    let p := unplace s stack chan (line * 64)
    match find with
    | .clean => s
    | .corrected => hbmCe s stack chan line
    | .uncorrectable =>
      if edgeBase ≤ p then zeroSlots s p true
      else logUe (setPoison s (lineOf p) true) (lineOf p) false true)

/-! Grain (R130, R132). -/

/-- The generators of a core run: it is powered. -/
def grainRuns (s : State) (core : Nat) : Bool :=
  decide (core < coreCount s) && s.rst.phase != .off && (match (coreOf s core).pwr with | .running => true | .gated => true | _ => false)

/-- GRAIN_TOPUP. -/
def execGrainTopup (core : Nat) (s : State) : Out State :=
  .next (if grainRuns s core && !(coreOf s core).topupsOff then bumpWrap (topUp s core) (rVEC_GRAIN_STAT core) 63 32 else s)

/-- HEALTH_TEST_FAIL. -/
def execHealthTestFail (core : Nat) (s : State) : Out State :=
  .next (if grainRuns s core then setCore (setField s (rVEC_GRAIN_STAT core) 1 1 1) core { coreOf s core with topupsOff := true } else s)

/-- HEALTH_TEST_PASS: top-ups go on. -/
def execHealthTestPass (core : Nat) (s : State) : Out State :=
  .next (if grainRuns s core then setCore s core { coreOf s core with topupsOff := false } else s)

/-! The step watchdog (R321, R35, R435, R504). -/

/-- Cores that a step's programs hold. -/
def coresOfStep (s : State) (t : StepRec) : List Nat := nodup ((livePlaces s t).map (·.core))

/-- STEP_WATCHDOG_EXPIRY: a step that has run longer than its watchdog ends with STEP_WATCHDOG; a contact-sheet command ends with it
and raises no source, another step raises source 15: the cores alone once the teardown is over, or a reset of the level. -/
def execStepWatchdogExpiry (ctx : Nat) (s : State) : Out State :=
  .next (match stepOfCtx s ctx with
  | none => s
  | some t =>
    if !serving s || t.wdog == 0 || decide (t.used < t.wdog) || !(t.st == .released || t.st == .saving) then s
    else
      let v := reachOf s 15
      let cs := coresOfStep s t
      let s := if t.csw.isNone && (v == 3 || v == 4) then { s with rst := { s.rst with after := s.rst.after ++ [(ctx, cs)] } } else s
      let s := chargeStep s ctx 0x0603 0
      if t.csw.isNone && decide (v ≤ 2) then raiseAt s v 15 else s)

end Sys2Proof.Machine
end

