-- ==== Sys2Proof/Machine/Server.lean ====
section
/-! DEFINITION. The server cores (R366 to R369, R380): loads, stores and atomics through the caches of S0 and S1 and through the host-line
cache, their uncached ranges, timers and interrupts, and what each access gives its core. -/

namespace Sys2Proof.Machine

/-- The caching agent of an S-die, and a core's number among the 96. -/
def agentOf (die : Nat) : Agent := if die = 0 then .s0 else .s1
def coreKey (die core : Nat) : Nat := 48 * die + core

/-- The agent has a request for a line on its way or in service, or a grant or write-back of it on its way. -/
def agentBusy (s : State) (a : Agent) (line : Nat) : Bool :=
  let mine (r : HReq) : Bool := r.who == .agent a && r.line == line
  s.coh.msgs.any (fun m => match m with
    | .req r => mine r
    | .grant b l _ _ => decide (b = a ∧ l = line)
    | .wb b l _ => decide (b = a ∧ l = line)
    | _ => false) ||
    (homeLine s line).queue.any mine || (match (homeLine s line).active with | some x => mine x.req && !x.recalling | none => false)

/-- Ask a line's home, once. -/
def askLine (s : State) (a : Agent) (line : Nat) (k : HKind) : State := if agentBusy s a line then s else post s (.req ⟨.agent a, line, k⟩)

/-- Ask the host for a line, once. -/
def askHost (s : State) (k h : Nat) (q : HostReq) : State :=
  if s.coh.hout.any (fun o => o.hline == h) || s.coh.fills.any (fun x => x.1 == h) then s
  else send { s with coh := { s.coh with hout := s.coh.hout ++ [⟨h, q, whoServer k, 0, none⟩] } } (.cxl (if q = .rdOwn then mRdOwn else mRdShared) (h * 64) [])

/-! Lines as a core meets them: of device memory in its S-die's caches, of the host in the host-line cache (R369, R370). -/

/-- First core address of host memory (R367). -/
def hostBase : Nat := 2 ^ 51

/-- A line that a core names. -/
structure CoreLine where
  host : Bool
  line : Nat
  deriving DecidableEq, Repr

def lineData (s : State) (die : Nat) (x : CoreLine) : Option (List Byte) :=
  if x.host then (hlcLine s x.line).map (·.data) else (copyOf s (agentOf die) x.line).map (·.data)

/-- The line may be written without asking: it is held in M or E (R368). -/
def lineOwned (s : State) (die : Nat) (x : CoreLine) : Bool :=
  let mine (st : LineSt) : Bool := st == .m || st == .e
  if x.host then (match hlcLine s x.line with | some l => mine l.st | none => false)
  else (match copyOf s (agentOf die) x.line with | some c => mine c.st | none => false)

/-- The copy is poisoned (R176). -/
def lineBad (s : State) (die : Nat) (x : CoreLine) : Bool := !x.host && tainted s (agentOf die) x.line

/-- Ask for a host line for a core; where the host cannot be reached, the core is told (R409). -/
def askFor (s : State) (k : Nat) (h : Nat) (q : HostReq) : State :=
  if hostUp s then askHost s k h q else if linkHeld s then s else give s k .memoryError

/-- Ask for a line to read it, and to write it: by RdS, by RdX or Upg, or by the host's RdShared and RdOwn (R370, R375). -/
def askShared (s : State) (k : Nat) (x : CoreLine) : State :=
  if x.host then askFor s k x.line .rdShared else askLine s (agentOf (k / 48)) x.line (.rds .any)
def askOwned (s : State) (k : Nat) (x : CoreLine) : State :=
  if x.host then askFor s k x.line .rdOwn
  else askLine s (agentOf (k / 48)) x.line (if (copyOf s (agentOf (k / 48)) x.line).isSome then .upg else .rdx)

/-- A use of a host line moves its place in the order of R371. -/
def touchHost (s : State) (h : Nat) (l : HlcLine) : State :=
  tickUse { s with coh := { s.coh with hlc := tput s.coh.hlc h { l with used := if l.pinned then l.used else nowUse s } } }
def touched (s : State) (x : CoreLine) : State := if x.host then (match hlcLine s x.line with | some l => touchHost s x.line l | none => s) else s

/-- Bytes put into an owned line, which is M from then on: a write of the whole line ends its poison (R175), a ring that watches it reads
it again (R311), and other cores' reservations of it are lost. -/
def putLine (s : State) (k : Nat) (x : CoreLine) (off : Nat) (bs : List Byte) : State :=
  let patch (d : List Byte) : List Byte := d.take off ++ bs ++ d.drop (off + bs.length)
  let s := loseRsv s (fun j v => j != k && v == rsvLine x.host x.line)
  if x.host then
    (match hlcLine s x.line with
     | some l => wakeWatch (touchHost s x.line { l with st := .m, data := patch l.data }) true x.line
     | none => s)
  else
    let a := agentOf (k / 48)
    match copyOf s a x.line with
    | some c => setCopy (if bs.length = 64 then taint s a x.line false else s) a x.line (some ⟨.m, patch c.data⟩)
    | none => s

/-! A core's pending stores (R380). -/

def storesOf (s : State) (k : Nat) : List (Nat × List Byte) := tget [] s.coh.stores k
def setStores (s : State) (k : Nat) (l : List (Nat × List Byte)) : State := { s with coh := { s.coh with stores := tset [] s.coh.stores k l } }

/-- The line of a pending store, which keeps the address after its translation. -/
def storeLineOf (a : Nat) : CoreLine := if hostBase ≤ a then ⟨true, lineOf (a - hostBase)⟩ else ⟨false, lineOf a⟩

/-- An earlier store of the core to the line is pending. -/
def storePends (s : State) (k : Nat) (x : CoreLine) : Bool := (storesOf s k).any (fun e => storeLineOf e.1 == x)

/-- Make a store of one line, or let it wait for the line. One to a host that cannot be reached ends in an error (R409). -/
def makeStore (s : State) (k : Nat) (e : Nat × List Byte) : State :=
  let x := storeLineOf e.1
  if storePends s k x then setStores s k (storesOf s k ++ [e])
  else if lineOwned s (k / 48) x then putLine s k x (e.1 % 64) e.2
  else if x.host && !hostUp s && !linkHeld s then give s k .memoryError
  else askOwned (setStores s k (storesOf s k ++ [e])) k x

/-- A core's pending stores are tried again, oldest first. -/
def drainCore (s : State) (k : Nat) : State := (storesOf s k).foldl (fun s e => makeStore s k e) (setStores s k [])
def drainAll (s : State) : State := (s.coh.stores.map (·.1)).foldl drainCore s

/-! What an instruction gives its core: one that gives nothing has not been executed yet, and the core's next command is the same one
(log entry 52). -/

def gave (s : State) (k : Nat) : Bool := s.coh.got.any (fun e => e.1 == k)
def ungive (s : State) (k : Nat) : State := { s with coh := { s.coh with got := tdel s.coh.got k } }

/-- The instruction is executed, and gives no value. -/
def executed (s : State) (k : Nat) : State := if gave s k then s else give s k (.data [])

/-! Accesses to cacheable ranges. -/

/-- Bytes an access touches. -/
def accessLen (op : CoreOp) : Nat :=
  match op with
  | .load n => n
  | .store bs => bs.length
  | .amoAdd _ => 8
  | .amo _ w _ => if w then 8 else 4
  | .lr w => if w then 8 else 4
  | .sc w _ => if w then 8 else 4
  | _ => 1

/-- A range of bytes cut at lines: address and length. -/
def lineCuts (a n : Nat) : List (Nat × Nat) := (cutLines (n + 1) a (zeros n)).map (fun x => (x.1 * 64 + x.2.1, x.2.2.length))

/-- The lines of an access, as the addresses of its pieces: a host address is translated first (R401). -/
def corePieces (s : State) (addr n : Nat) (write : Bool) : Acc (List (Nat × Nat)) :=
  if addr < hostBase then .ok (lineCuts addr n) s
  else (hostPieces s (addr - hostBase) n write).bind (fun ps s => .ok ((ps.flatMap (fun x => lineCuts x.1 x.2)).map (fun x => (x.1 + hostBase, x.2))) s)

/-- A load: its bytes once every line is held and no earlier store of the core to one is pending; a poisoned one is an error (R176). -/
def coreLoad (s : State) (k : Nat) (ps : List (Nat × Nat)) : State :=
  let die := k / 48
  let lines := ps.map (fun x => storeLineOf x.1)
  let need := lines.filter (fun x => (lineData s die x).isNone)
  if lines.any (storePends s k) then s
  else if !need.isEmpty then need.foldl (fun s x => askShared s k x) s
  else if lines.any (lineBad s die) then give s k .memoryError
  else give (lines.foldl touched s) k (.data (ps.flatMap (fun x => (((lineData s die (storeLineOf x.1)).getD []).drop (x.1 % 64)).take x.2)))

/-- A store: dropped in a reserved region (R165), else made line by line. -/
def coreStore (s : State) (k : Nat) (ps : List (Nat × Nat)) (bs : List Byte) : State :=
  match ps.find? (fun x => decide (x.1 < hostBase) && reserved s x.1) with
  | some x => executed (logRsv s 2 x.1) k
  | none => executed (ps.foldl (fun (a : State × List Byte) x => (makeStore a.1 k (x.1, a.2.take x.2), a.2.drop x.2)) (s, bs)).1 k

/-- The value an atomic leaves, of `n` bytes. -/
def amoNew (fn : AmoFn) (n old v : Nat) : Nat :=
  let top := 2 ^ (8 * n)
  let sg (x : Nat) : Int := if x < top / 2 then x else (x : Int) - top
  match fn with
  | .swap => v
  | .add => (old + v) % top
  | .and => old &&& v
  | .or => old ||| v
  | .xor => old ^^^ v
  | .min => if sg old ≤ sg v then old else v
  | .max => if sg old ≤ sg v then v else old
  | .minu => min old v
  | .maxu => max old v

/-- An atomic in the core's own cache (R380), aligned: made once the line is held in M or E and the core's earlier stores to it are made. Its
core gets the earlier value; of a store conditional, 0 where it was made and 1 where its reservation is lost. -/
def coreAtomic (s : State) (k a : Nat) (op : CoreOp) : State :=
  let die := k / 48
  let x := storeLineOf a
  let n := accessLen op
  let amo (fn : AmoFn) (v : Nat) (old : List Byte) : State := give (putLine s k x (a % 64) (leBytes n (amoNew fn n (leNat old) v))) k (.data old)
  let held := tget 0 s.coh.rsv k == rsvLine x.host x.line
  let unheld (s : State) : State := loseRsv s (fun j _ => j == k)
  if storePends s k x then s
  else match op, lineData s die x with
    | .sc _ v, d =>
      if !held then give (unheld s) k (.data (leBytes n 1))
      else if d.isNone || !lineOwned s die x then askOwned s k x
      else give (putLine (unheld s) k x (a % 64) (leBytes n (v.toNat % 2 ^ (8 * n)))) k (.data (leBytes n 0))
    | .lr _, none => askShared s k x
    | .lr _, some d =>
      if lineBad s die x then give s k .memoryError
      else give { s with coh := { s.coh with rsv := tput s.coh.rsv k (rsvLine x.host x.line) } } k (.data ((d.drop (a % 64)).take n))
    | op, some d =>
      if !lineOwned s die x then askOwned s k x
      else if lineBad s die x then give s k .memoryError
      else
        let old := (d.drop (a % 64)).take n
        match op with
        | .amoAdd v => amo .add v.toNat old
        | .amo fn _ v => amo fn (v.toNat % 2 ^ (8 * n)) old
        | _ => s
    | _, none => askOwned s k x

/-- An atomic in a reserved region: its write is dropped and logged (R165), and its core gets what the line holds; a store conditional is not
made. -/
def atomicDropped (s : State) (k a : Nat) (op : CoreOp) : State :=
  let n := accessLen op
  match lineData s (k / 48) (storeLineOf a) with
  | none => askShared s k (storeLineOf a)
  | some d => give (logRsv s 2 a) k (.data (match op with | .sc .. => leBytes n 1 | _ => (d.drop (a % 64)).take n))

/-- A line is evicted from the cache that holds it (R368, R370); not one that is pinned, or that a request holds. -/
def coreEvict (s : State) (die : Nat) (x : CoreLine) : State :=
  if x.host then
    (match hlcLine s x.line with
     | some l =>
       if l.pinned || s.coh.hout.any (fun o => o.hline == x.line) || (l.st == .m && !hostUp s) then s else settleFills (evictHost s x.line l)
     | none => s)
  else match copyOf s (agentOf die) x.line with
    | some c => evictCopy s (agentOf die) x.line c
    | none => s

/-- An access to a cacheable range. An atomic that is not aligned is an access fault (log entry 52). -/
def cacheable (s : State) (k addr : Nat) (op : CoreOp) : State :=
  let write := match op with | .load _ => false | .lr _ => false | .evict => false | _ => true
  match corePieces s addr (accessLen op) write with
  | .wait s => s
  | .bad _ _ s => give s k .memoryError
  | .ok ps s =>
    match op with
    | .load _ => coreLoad s k ps
    | .store bs => coreStore s k ps bs
    | .evict => executed (match ps with | x :: _ => coreEvict s (k / 48) (storeLineOf x.1) | [] => s) k
    | op =>
      match ps with
      | x :: _ =>
        if addr % accessLen op ≠ 0 then give s k .accessFault
        else if x.1 < hostBase ∧ reserved s x.1 = true ∧ write = true then atomicDropped s k x.1 op
        else coreAtomic s k x.1 op
      | [] => s

/-! The uncached ranges and the address map (R367). -/

/-- The uncached ranges: registers as BAR0 has them, and doorbell pages as BAR2 has them (R307, R508, R509). An atomic there is an access
fault (log entry 52). -/
def uncached (s : State) (k addr : Nat) (op : CoreOp) : State :=
  let base : Nat := 0x1000000000000
  match op with
  | .load n =>
    if addr < base + 0x1000000 then
      let off := addr - base
      let v := readReg s (off / 8 * 8)
      let s := if alignedAccess off n || !pageOpen s off then s else accErr s off n false false
      give s k (.data (if alignedAccess off n then leBytes n (v.toNat >>> (8 * (off % 8))) else zeros n))
    else give s k (.data (zeros n))
  | .store bs =>
    executed (if addr < base + 0x1000000 then
      let off := addr - base
      if alignedAccess off bs.length then barWrite s off (bs.length == 8) (BitVec.ofNat 64 (leNat bs))
      else if pageOpen s off then accErr s off bs.length true false else s
    else
      let off := addr - base - 0x1000000
      if bs.length = 8 ∧ off % 8 = 0 then ringBell s (512 * (off / 4096) + off % 4096 / 8) (BitVec.ofNat 64 (leNat bs)) else s) k
  | .evict => executed s k
  | _ => give s k .accessFault

/-- Where an access goes (R367): a reserved range raises an access fault and is never sent to memory; an uncached access waits for the core's
earlier cacheable stores (R380). Of the platform block the spec gives the timer compares alone. -/
def coreAccess (s : State) (k addr : Nat) (op : CoreOp) : State :=
  let n := accessLen op
  if addr + n ≤ 2 ^ 41 then cacheable s k addr op
  else if 0x1000000000000 ≤ addr ∧ addr + n ≤ 0x1000001800000 then (if (storesOf s k).isEmpty then uncached s k addr op else s)
  else if hostBase ≤ addr ∧ addr + n ≤ hostBase + 2 ^ 52 then cacheable s k addr op
  else match op with | .evict => executed s k | _ => give s k .accessFault

/-- What a cache finds first (R383, R387): an error corrected in tags or states is counted, the S-die's own in its machine-check registers;
one that is not is FOG_STRUCT; in a line held in M or O it is a machine check, and one held in E or S is dropped and will be read again. -/
def cacheFinds (s : State) (die addr : Nat) (err : CacheErr) : State :=
  let a := agentOf die
  match err with
  | .none => s
  | .tagCe => countCE s rCOH_HLC_STAT 49 34 8 0 0
  | .ownCe => { s with coh := { s.coh with corrected := s.coh.corrected.set die (s.coh.corrected.getD die 0 + 1) } }
  | .tagUe true => fog s 0x0704 8 31 0 7
  | .tagUe false => fog s 0x0704 (8 + die) 31 0 7
  | .lineUe =>
    if hostBase ≤ addr then
      let h := lineOf (hostAddr s (addr - hostBase))
      match hlcLine s h with
      | none => s
      | some l =>
        if l.st = .m ∨ l.st = .o then raiseSrc (fog s 0x0705 8 31 h 7) 12
        else settleFills (evictHost (wakeWatch s true h) h l)
    else
      match copyOf s a (lineOf addr) with
      | none => s
      | some c =>
        if isDirty c then raiseSrc (fog s 0x0705 (8 + die) 31 (lineOf addr) 7) 12
        else taint (setCopy s a (lineOf addr) none) a (lineOf addr) false

/-- What an instruction does on core `k`: a fence waits for the core's stores, a timer write is done at once, WFI waits for an interrupt not
yet raised, and the rest are accesses. -/
def coreRuns (s : State) (k addr : Nat) : CoreOp → State
  | .fence => if (storesOf s k).isEmpty then executed s k else s
  | .timer v => executed { s with coh := { s.coh with timers := tset 0 s.coh.timers k v, irq := s.coh.irq.filter (· != k) } } k
  | .wfi =>
    executed (if s.coh.irq.contains k then { s with coh := { s.coh with irq := s.coh.irq.filter (· != k) } }
      else { s with coh := { s.coh with wfi := insNat k s.coh.wfi } }) k
  | op => coreAccess s k addr op

/-- SERVER_CORE_INSTRUCTION: a core that runs, neither waiting for an interrupt nor halted by fog. Its pending stores go on first; a FENCE is
executed once none is left. -/
def execServerCoreInstruction (die : Nat) (core : Nat) (addr : Nat) (op : CoreOp) (err : CacheErr) (s : State) : Out State :=
  let k := coreKey die core
  .next (if !serving s || s.coh.halted || decide (2 ≤ die) || decide (48 ≤ core) || s.coh.wfi.contains k then s
  else
    let s := cacheFinds s die addr err
    if !serving s then s
    else
      coreRuns (drainCore (ungive s k) k) k addr op)

/-- GRANT (R375): an S-die takes the line, and its cores' stores that waited for it are made. -/
def execGrantMsg (a : Agent) (line : Nat) (s : State) : Out State := .next (drainAll (takeGrant a line s))

/-- CXL_CACHE_DATA (R370): the host's data is taken, and stores that waited for the line are made. -/
def execCxlCacheData (hpa : BitVec 52) (data : List Byte) (poison : Bool) (s : State) : Out State := .next (drainAll (takeHostData hpa data poison s))

/-- TIMER_COMPARE (R367, R458, R460): the compare has fallen due on the S-die's own counter; the core is interrupted, and a sleeping
package wakes. -/
def execTimerCompare (die : Nat) (core : Nat) (s : State) : Out State :=
  let k := coreKey die core
  let v := tget 0 s.coh.timers k
  .next (if s.rst.phase != .ready || s.coh.halted || decide (2 ≤ die) || decide (48 ≤ core) || v == 0 || decide ((s.aon.getD (8 + die) 0).toNat < v.toNat)
      || s.coh.irq.contains k then s
  else wakeBy true { s with coh := { s.coh with irq := insNat k s.coh.irq, wfi := s.coh.wfi.filter (· != k) } })

end Sys2Proof.Machine
end

