-- ==== Sys2Proof/Machine/Security.lean ====
section
/-! DEFINITION. Security at its ports (19): SPDM and the vendor-defined protocol on DOE mailbox 1 (R473 to R478), and the JTAG instructions
(R425, R436, R439, R480, R482). -/

namespace Sys2Proof.Machine

/-! SPDM (R473). Its messages are the standard's; `out` holds their kind, and what of their content the spec gives. -/

/-- Content kinds of `Config.stdMessage`: the request's number, the certificate chain, and the identification register. -/
def stdChain : Nat := 100
def stdIdcode : Nat := 101

def spdmSend (s : State) (code : Nat) (body : List Byte) : State :=
  send s (.doe 1 (if s.sec.secured then 3 else 2) (BitVec.ofNat 8 code :: Config.stdMessage code 0 ++ body))

/-- An SPDM error answer. -/
def spdmError (s : State) : State := spdmSend s 0x7F []

def setSpdm (s : State) (k : Nat) : State := { s with sec := { s.sec with spdm := k } }

/-- A request that the connection has come far enough for (SPDM 1.2: version, capabilities, algorithms, in this order); else an error. -/
def spdmAt (s : State) (least : Nat) (f : State → State) : State :=
  if !doeUp s then s else if s.sec.spdm < least then spdmError s else f s

/-- A signature over bytes, under the identity key. -/
def signed (s : State) (msg : List Byte) : List Byte := leBytes 2420 (leNat (Config.mldsaSign msg s.free))

/-- GET_VERSION: the connection begins again. -/
def execGetVersion (s : State) : Out State :=
  .next (spdmAt s 0 (fun s => spdmSend (setSpdm { s with sec := { s.sec with secured := false } } 1) 0x04 [0x12]))

/-- GET_CAPABILITIES. -/
def execGetCapabilities (s : State) : Out State := .next (spdmAt s 1 (fun s => spdmSend (setSpdm s (max 2 s.sec.spdm)) 0x61 []))

/-- NEGOTIATE_ALGORITHMS: SHA3-256, ML-DSA-44, secp384r1 and AES-256-GCM. -/
def execNegotiateAlgorithms (s : State) : Out State := .next (spdmAt s 2 (fun s => spdmSend (setSpdm s (max 3 s.sec.spdm)) 0x63 []))

/-- GET_DIGESTS: the digest of the chain in slot 0. -/
def execGetDigests (s : State) : Out State := .next (spdmAt s 3 (fun s => spdmSend s 0x01 (Config.sha3 (Config.stdMessage stdChain 0))))

/-- GET_CERTIFICATE: slot 0 alone is populated. -/
def execGetCertificate (slot : Nat) (s : State) : Out State :=
  .next (spdmAt s 3 (fun s => if slot = 0 then spdmSend s 0x02 (Config.stdMessage stdChain 0) else spdmError s))

/-- CHALLENGE, answered under the identity key. -/
def execSpdmChallenge (nonce : List Byte) (s : State) : Out State :=
  .next (spdmAt s 3 (fun s =>
    let body := fitBytes 32 nonce ++ Config.sha3 (Config.stdMessage stdChain 0)
    useFree (spdmSend s 0x03 (body ++ signed s (Config.sha3 body))) 1))

/-- GET_MEASUREMENTS: one block for each entry of the log. -/
def execGetMeasurements (s : State) : Out State := .next (spdmAt s 3 (fun s => spdmSend s 0x60 (measures s).flatten))

/-- KEY_EXCHANGE: a session is being set up. -/
def execKeyExchange (s : State) : Out State := .next (spdmAt s 3 (fun s => useFree (spdmSend (setSpdm s 4) 0x64 (signed s [])) 1))

/-- FINISH: the session is secured. -/
def execFinish (s : State) : Out State :=
  .next (spdmAt s 4 (fun s => spdmSend { s with sec := { s.sec with secured := true, spdm := 3 } } 0x65 []))

/-- END_SESSION. -/
def execEndSession (s : State) : Out State :=
  .next (spdmAt s 3 (fun s => if s.sec.secured then (let t := spdmSend s 0x6C []; { t with sec := { t.sec with secured := false } }) else spdmError s))

/-! The vendor-defined protocol 0x01 (R476, R478). -/

/-- Bytes 0 to 503 of a QUOTE response. -/
def quoteBody (s : State) (nonce : List Byte) : List Byte :=
  [0x81, 0, 0, 0] ++ fitBytes 32 nonce ++ identityHash ++ leBytes 4 s.rst.count ++ (measures s).flatten

/-- QUOTE: in or out of a session, and during fog. -/
def execQuote (nonce : List Byte) (s : State) : Out State :=
  .next (if !doeUp s then s
  else
    let b := quoteBody s nonce
    useFree (send s (.doe 1 4 (b ++ signed s (Config.sha3 b)))) 1)

/-- SETKEY: on an unowned package, inside a secured session; else an error and nothing more, which is counted. -/
def execSetkey (key : List Byte) (s : State) : Out State :=
  .next (if !doeUp s then s
  else if s.sec.secured && !owned s && key.length == 32 then
    send { s with flash := { appendCtr s.flash (ctrRecord key 0) with current := some key, previous := none }, sec := { s.sec with rotations := 0 } } (.doe 1 4 [0x82])
  else send (secFail s 3 0 0) (.doe 1 4 [0xFF]))

/-! JTAG. The instruction loaded: 0 IDCODE, as after reset, 1 BYPASS, 2 HOLDBOOT, 3 CHALLENGE, 4 UNLOCK, 5 PKGRST, 6 DIETEST, 7 REACHPROG. -/

def loadTap (s : State) (k : Nat) : State := { s with sec := { s.sec with tap := k } }

/-- Bring-up stands at its hold point, held (R439 step 7). -/
def heldBoot (s : State) : Bool := s.rst.hold && (match s.rst.phase with | .seq _ 7 => true | _ => false)

/-- The hold is let go: HOLDBOOT is loaded no more. -/
def unhold (s : State) : State := { s with rst := { s.rst with hold := false } }

/-- IDCODE. -/
def execIdcode (s : State) : Out State := .next (send (unhold (loadTap s 0)) (.tdo (fitBytes 4 (Config.stdMessage stdIdcode 0))))

/-- BYPASS. -/
def execBypass (s : State) : Out State := .next (unhold (loadTap s 1))

/-- HOLDBOOT. -/
def execHoldboot (s : State) : Out State :=
  .next (let s := loadTap s 2; { s with rst := { s.rst with hold := true } })

/-- CHALLENGE: 32 bytes of the true random source, at the hold point (R482). -/
def execChallenge (s : State) : Out State :=
  let s := loadTap s 3
  .next (if heldBoot s then
    let c := freeBytes s 32
    send (useFree { s with sec := { s.sec with challenge := some c } } 32) (.tdo c)
  else s)

/-- The vendor's signature verifies under a key slot that is not revoked (R470, R482). -/
def unlockOk (s : State) (req : UnlockReq) (c : List Byte) : Bool :=
  decide (req.keySlot < 4) && !bit s.fuses.revoked req.keySlot && Config.sha3 req.pk == s.fuses.keyHash.getD req.keySlot []
    && Config.mldsaVerify req.pk (Config.sha3 (c ++ identityHash ++ leBytes 8 req.scope.toNat)) req.sig

/-- UNLOCK (R482): the package becomes unowned and the scope is set; any other outcome is counted and is reset source 14. -/
def execUnlock (req : UnlockReq) (s : State) : Out State :=
  let s := loadTap s 4
  .next (if !heldBoot s || s.rst.strict then s
  else
    let ok := match s.sec.challenge with | some c => unlockOk s req c | none => false
    let s : State := { s with sec := { s.sec with challenge := none } }
    if ok then
      let s := disown s
      { s with sec := { s.sec with scope := req.scope, vendor := true } }
    else raiseSrc (secFail s 2 0 0) 14)

/-! Stand-alone die test (R425, R426). -/

/-- Errors that the wires of an edge show in a die's loop-back, from the near end or through the neighbour (`far`): it passes at zero. -/
def edgePasses (die edge : Nat) (far : Bool) : Bool :=
  (List.range (76 * 128)).all (fun w => Config.loopErrors (b2n far) die edge w == 0)

/-- A chip-to-chip port's loop-back passes where every lane's bit error ratio, here in units of 10^-12, lies below 10^-5. -/
def lanesPass (die port : Nat) (far : Bool) : Bool := (List.range 16).all (fun l => decide (Config.loopErrors (2 + b2n far) die port l < 10 ^ 7))

/-- The die at the other end of an edge. -/
def otherEnd (die edge : Nat) : Nat := let e := edgeEnds.getD edge (0, 0); if e.1 = die then e.2 else e.1

/-- What a die's tests show over JTAG, a byte for each loop-back, 1 where it passes: its edges in their order, near end and, with the
neighbour in test too, far end; then its ports. -/
def dieResults (s : State) (die : Nat) : List Byte :=
  let edges := (List.range 14).filter (fun e => let x := edgeEnds.getD e (0, 0); x.1 == die || x.2 == die)
  let ports := if die < 8 then (List.range 4).map (4 * die + ·) else []
  (edges.flatMap (fun e => [edgePasses die e false] ++ (if s.rst.dietest.contains (otherEnd die e) then [edgePasses die e true] else []))
    ++ ports.flatMap (fun p => [lanesPass die p false, lanesPass die p true])).map (fun b => BitVec.ofNat 8 (b2n b))

/-- DIETEST: one die goes into its stand-alone test, whose results come out over JTAG. -/
def execDietest (die : Nat) (s : State) : Out State :=
  let s := loadTap s 6
  .next (if heldBoot s && jtagScope s && decide (die < 10) then
    send { s with rst := { s.rst with dietest := insNat die s.rst.dietest } } (.tdo (dieResults s die))
  else s)

/-- REACHPROG (R436): BVAL is blown and sensed again, and BSET blown only if it reads as asked. -/
def execReachprog (source : Nat) (val : BitVec 3) (readBack : BitVec 3) (s : State) : Out State :=
  let s := loadTap s 7
  let f := s.fuses
  let old := nth f.bval source
  let refused := bit f.flock source || bit f.bset source || val == 5 || val == 6 || (BitVec.ofNat 3 old &&& ~~~val) != 0
  .next (if !(heldBoot s && jtagScope s && decide (source < 16)) || refused then s
  else
    let now := BitVec.ofNat 3 old ||| readBack
    let f := { f with bval := f.bval.set source now.toNat }
    { s with fuses := if now = val then { f with bset := f.bset ||| BitVec.ofNat 16 (2 ^ source) } else f })

end Sys2Proof.Machine
end

