-- ==== Sys2Proof/Machine/Wires.lean ====
section
/-! DEFINITION. The die-to-die wires in use (R16, R419, R422), what a read of device memory or a directory finds (R175 to R177, R383), and the
commands that meet them. -/

namespace Sys2Proof.Machine

/-! Beats in error (R419). -/

/-- The die that receives a beat of an edge: END1, or END0 in the other direction. -/
def receiver (edge : Nat) (dir : Bool) : Nat :=
  let ends := edgeEnds.getD edge (0, 0)
  if dir then min ends.1 ends.2 else max ends.1 ends.2

/-- A corrected beat: shown and counted in D2D_CE, and its wire is marked once 256 of its errors have been corrected since its training
(R422). -/
def countWire (s : State) (edge group wire : Nat) (dir : Bool) : State :=
  let k := wireKey edge group wire dir
  let n := tget 0 s.rst.wires k + 1
  let s := { s with rst := { s.rst with
    wires := tset 0 s.rst.wires k n, marked := if 256 ≤ n then insNat k s.rst.marked else s.rst.marked } }
  let r := rD2D_CE edge
  let s := setField (setField (setField s r 39 32 group) r 46 40 wire) r 47 47 (b2n dir)
  countCE (setField s r 57 48 (min 1023 (marksOf s edge).length)) r 31 0 (receiver edge dir) 8 edge

/-- An uncorrectable beat in D2D_UE_LOG: the first is logged, all are counted. -/
def logBeat (s : State) (edge group : Nat) (dir header : Bool) : State :=
  let r := rD2D_UE_LOG edge
  let s := bump s r 26 11
  if bit (regVal s r) 0 then s
  else setField (setField (setField (setField s r 0 0 1) r 1 1 (b2n header)) r 2 2 (b2n dir)) r 10 3 group

/-- The line whose message a beat belongs to. -/
def beatPpa : WireErr → Nat
  | .corrected _ _ _ _ a => a
  | .data _ _ _ a => a
  | .header _ _ _ a => a

/-- The data beat of a message is spoilt. -/
def beatIsData : WireErr → Bool
  | .data .. => true
  | _ => false

/-- A header is lost. -/
def beatIsHeader : WireErr → Bool
  | .header .. => true
  | _ => false

/-- The beat's edge, in the beat's direction, lies on the fixed route from die `a` to die `b` (R16). -/
def beatAlong (w : WireErr) (a b : Nat) : Bool :=
  match w with
  | .corrected e _ _ d _ => onRoute a b e d
  | .data e _ d _ => onRoute a b e d
  | .header e _ d _ => onRoute a b e d

/-- A beat in error is met; one of a header is fog, whoever's message it was. -/
def meetBeat (s : State) (w : WireErr) : State :=
  match w with
  | .corrected e g n d _ => countWire s e g n d
  | .data e g d _ => logBeat s e g d false
  | .header e g d a => fog (logBeat s e g d true) 0x0704 (receiver e d) 31 (lineOf a) 7

/-- The beat can be one of a message between the home of its line and one of the dies given: data only the way it goes, to the home
(`store`) or from it (`load`); a header either way, since a request and its answer both have one. -/
def beatOn (s : State) (dies : List Nat) (load store : Bool) (w : WireErr) : Bool :=
  let h := homeOf s (lineOf (beatPpa w)) / 2
  dies.any (fun d => (beatAlong w h d && (load || !beatIsData w)) || (beatAlong w d h && (store || !beatIsData w)))

/-! What memory and its directory hold. -/

/-- A line of memory is found uncorrectable: poisoned, or zeroed where it holds edge-code slots (R175, R177). -/
def memSpoils (s : State) (a : Nat) : State := if edgeBase ≤ a then zeroSlots s a false else setPoison s (lineOf a) true

/-- A line of memory is read with a correction. -/
def memCorrects (s : State) (a : Nat) : State := let x := place s a; hbmCe s x.1 x.2.1 (x.2.2 / 64)

/-- A correction in a directory entry (R387). -/
def entryCorrects (s : State) (line : Nat) : State := let h := homeOf s line; countCE s (rCOH_HOME_STAT h) 62 47 (h / 2) 6 h

/-- Lines that a home's controller has logged as uncorrectable. -/
def loggedUe (s : State) (line : Nat) : Nat := regField s (rMEM_UE_LOG (homeOf s line)) 63 34

/-- A read that met an uncorrectable line has logged it; its controller does where the reader has not (R176). -/
def logMet (s t : State) (line : Nat) : State := if loggedUe t line = loggedUe s line then logUe t line false false else t

/-- Work on a line whose data is delivered with poison (R419): memory itself changes only where the work writes the line, which is then
stored with poison (R175). -/
def spoilt (s : State) (line : Nat) (f : State → State) : State :=
  let t := f (setPoison s line true)
  let wrote := !poisoned t line || memRead t (line * 64) 64 != memRead s (line * 64) 64
  let r := rMEM_UE_LOG (homeOf s line)
  if poisoned s line then t
  else if wrote then setPoison t line true
  else setReg (setPoison t line false) r (regVal s r)

/-! Commands of the units that read memory. -/

/-- A unit's work with what its way to memory and memory itself find, from the dies its work stands on (R16, R175, R383, R419). A header
or a directory entry that cannot be trusted is fog, and the work is not done. -/
def unitFinds (dies : List Nat) : State → (State → State) → HwErr → State
  | s, f, .wire w =>
    if !beatOn s dies true true w then f s
    else if beatIsHeader w then meetBeat s w
    else if beatIsData w then spoilt (meetBeat s w) (lineOf (beatPpa w)) f
    else f (meetBeat s w)
  | s, f, .memCe a => f (memCorrects s a)
  | s, f, .memUe a => if edgeBase ≤ a then f (memSpoils s a) else logMet s (f (memSpoils s a)) (lineOf a)
  | s, f, .dirCe a => f (entryCorrects s (lineOf a))
  | s, _, .dirUe a => homeFog s 0x0704 (lineOf a) 7
  | s, f, .both a b => unitFinds dies s (fun s => unitFinds dies s f b) a
  | s, f, _ => f s

/-- A unit's work, which finds nothing where it does nothing. -/
def meetUnit (dies : List Nat) (err : HwErr) (f : State → State) (s : State) : State := if f s = s then s else unitFinds dies s f err

/-- The dies of the block with memory, and the die of the ring unit and the CXL port. -/
def aDies : List Nat := List.range 8
def portDie : List Nat := [8]

/-- LOUPE_CALL_START. -/
def execLoupeCallStart (n : Nat) (err : HwErr) (s : State) : Out State := .next (meetUnit [n / 2] err (unitLoupeCallStart n err) s)
/-- LOUPE_CALL_COMPLETE. -/
def execLoupeCallComplete (n : Nat) (s : State) (err : HwErr := .none) : Out State := .next (meetUnit [n / 2] err (unitLoupeCallComplete n err) s)
/-- FIXER_CALL_START. -/
def execFixerCallStart (err : HwErr) (s : State) : Out State := .next (meetUnit aDies err (unitFixerCallStart err) s)
/-- PASS_ONE_DONE. -/
def execPassOneDone (err : HwErr) (s : State) : Out State := .next (meetUnit aDies err (unitPassOneDone err) s)
/-- FIXER_CALL_COMPLETE. -/
def execFixerCallComplete (err : HwErr) (s : State) : Out State := .next (meetUnit aDies err (unitFixerCallComplete err) s)
/-- COLLECTIVE_START. -/
def execCollectiveStart (grp : Nat) (err : HwErr) (s : State) : Out State := .next (meetUnit aDies err (unitCollectiveStart grp err) s)
/-- COLLSEG. -/
def execCollseg (src : Option Nat) (err : HwErr) (s : State) : Out State := .next (meetUnit aDies err (unitCollseg src err) s)
/-- COLLSEG_ACCEPT. -/
def execCollsegAccept (n : Nat) (s : State) (err : HwErr := .none) : Out State := .next (meetUnit aDies err (unitCollsegAccept n err) s)
/-- COLLECTIVE_COMPLETE. -/
def execCollectiveComplete (grp : Nat) (s : State) (err : HwErr := .none) : Out State := .next (meetUnit aDies err (unitCollectiveComplete grp err) s)
/-- COPY, on the service channels of every A-die (R157). -/
def execCopy (ring : Nat) (s : State) (err : HwErr := .none) : Out State := .next (meetUnit aDies err (unitCopy ring) s)
/-- SEAL of MODE 0. -/
def execSealRange (ring : Nat) (s : State) (err : HwErr := .none) : Out State := .next (meetUnit aDies err (unitSealRange ring) s)
/-- SEAL of MODE 1. -/
def execSealVerify (ring : Nat) (s : State) (err : HwErr := .none) : Out State := .next (meetUnit aDies err (unitSealVerify ring) s)
/-- WATCHED_LINE_INVALIDATE. -/
def execWatchedLineInvalidate (ring : Nat) (err : HwErr) (s : State) : Out State := .next (meetUnit portDie err (readWatched ring) s)
/-- DESCRIPTOR_FETCH. -/
def execDescriptorFetch (ring : Nat) (s : State) (err : HwErr := .none) : Out State := .next (meetUnit portDie err (fetchDesc ring) s)
/-- UIO_READ. -/
def execUioRead (hpa : BitVec 52) (len : Nat) (s : State) (rid : Nat := 0) (err : HwErr := .none) : Out State :=
  .next (meetUnit portDie err (uioRead rid hpa len) s)
/-- RD, at the port it arrives by, or from this package itself. -/
def execRd (src : Option Nat) (s : State) (err : HwErr := .none) : Out State :=
  .next (meetUnit (match src with | some n => [n / 4] | none => aDies) err (unitRd src) s)

/-! LOAD and STORE (R139). -/

/-- What a LOAD or STORE meets on its way to memory: the state, and the line delivered with poison, if any; none where a header or a
directory entry ends the op in fog. -/
def onWay (load : Bool) (die : Nat) : State → HwErr → Option (State × Option Nat) × State
  | s, .wire w =>
    if !beatOn s [die] load (!load) w then (some (s, none), s)
    else
      let t := meetBeat s w
      if beatIsHeader w then (none, t) else (some (t, if beatIsData w then some (beatPpa w) else none), t)
  | s, .memCe a => let t := memCorrects s a; (some (t, none), t)
  | s, .memUe a => let t := memSpoils s a; (some (t, none), t)
  | s, .dirCe a => let t := entryCorrects s (lineOf a); (some (t, none), t)
  | s, .dirUe a => (none, homeFog s 0x0704 (lineOf a) 7)
  | s, .both a b =>
    match onWay load die s a with
    | (some (t, x), _) =>
      (match onWay load die t b with
       | (some (u, y), v) => (some (u, x.or y), v)
       | z => z)
    | z => z
  | s, _ => (some (s, none), s)

/-- The line of memory an error names, of those an op's data comes from or goes to. -/
def metLine : HwErr → Option Nat
  | .memUe a => if edgeBase ≤ a then none else some (lineOf a)
  | .both a b => (metLine a).or (metLine b)
  | _ => none

/-- Run a LOAD or STORE that may start, over its way; what it meets there may end it in fog. -/
def runOnWay (s : State) (p : ProgRef) (e : Eng) (err : HwErr) (opc : Nat)
    (eff : Option Nat → State → Prog → OpSlot → Acc (OpPhase × Nat)) : State :=
  if (startable s p e (isOp 2 opc)).isNone then s
  else match onWay (opc == 0) (dieOf s p.core) s err with
    | (none, t) => t
    | (some (t, x), _) =>
      let u := runCopy t p e err opc (eff x)
      match metLine err with
      | some l => logMet s u l
      | none => u

/-- LOAD. -/
def execLoad (p : ProgRef) (eng : Eng) (err : HwErr) (s : State) : Out State := .next (runOnWay s p eng err 0 (fun x => loadEff x p eng))

/-- STORE. -/
def execStore (p : ProgRef) (eng : Eng) (err : HwErr) (s : State) : Out State := .next (runOnWay s p eng err 1 (fun x => storeEff x p eng))

/-! Requests and write-backs at their homes (R375, R378). -/

/-- Dies a request can come from. -/
def askerDies : Asker → List Nat
  | .agent .s1 => [9]
  | .engine => List.range 10
  | _ => portDie

/-- The request for a line that `is` accepts and that reaches its home now. -/
def arriving (s : State) (line : Nat) (is : HReq → Bool) : Option HReq :=
  if !serving s then none
  else match takeMsg (fun m => match m with | .req r => if r.line = line ∧ is r then some r else none | _ => none) s.coh.msgs with
    | none => none
    | some (r, _) => if r.who == .agent .host && hostWriting s then none else some r

/-- A request is answered with the line's data; it brings data to the home; and serving it reads the line from memory. -/
def asksData (r : HReq) : Bool := match r.kind with | .rds _ => true | .rdx => true | .rdcur => true | _ => false
def bringsData (r : HReq) : Bool := match r.kind with | .wrinv .. => true | .ath .. => true | _ => false
def readsMem (r : HReq) : Bool := asksData r || (match r.kind with | .wrinv _ bs _ => decide (bs.length < 64) | .ath .. => true | _ => false)

/-- A request still waits at the home of its line, not answered. -/
def stillAt (s : State) (r : HReq) : Bool :=
  let h := homeLine s r.line
  h.queue.contains r || (match h.active with | some a => a.req == r && !a.granted | none => false)

/-- A write on its way to its home is spoilt: it is stored with poison; what an atomic would change is poisoned instead (R175, R419). -/
def spoilWrite (s : State) (r : HReq) : State :=
  match r.kind with
  | .wrinv off bs _ =>
    (match takeMsg (fun m => match m with | .req q => if q = r then some () else none | _ => none) s.coh.msgs with
     | some (_, t) => withMsgs s (.req { r with kind := .wrinv off bs true } :: t)
     | none => s)
  | _ => setPoison s r.line true

/-- A request reaches its home, with what the wires, the home's entry and memory show then (R175, R383, R387, R419). -/
def homeTakes (s : State) (line : Nat) (err : HomeErr) (is : HReq → Bool) : State :=
  match arriving s line is with
  | none => s
  | some r =>
    match err with
    | .none => deliver s line is
    | .entryCe => deliver (entryCorrects s line) line is
    | .entryUe => homeFog s 0x0704 line 7
    | .memCe => deliver (if readsMem r then memCorrects s (line * 64) else s) line is
    | .memUe =>
      if !readsMem r then deliver s line is
      else if edgeBase ≤ line * 64 then deliver (memSpoils s (line * 64)) line is
      else logMet s (deliver (memSpoils s (line * 64)) line is) line
    | .wire w =>
      if !(lineOf (beatPpa w) == line && beatOn s (askerDies r.who) (asksData r) (bringsData r) w) then deliver s line is
      else if beatIsHeader w then meetBeat s w
      else if !beatIsData w then deliver (meetBeat s w) line is
      else if bringsData r then deliver (spoilWrite (meetBeat s w) r) line is
      else if stillAt (deliver s line is) r then deliver s line is
      else spoilt (meetBeat s w) line (fun s => deliver s line is)

/-- RDS. -/
def execRds (a : Agent) (line : Nat) (err : HomeErr) (s : State) : Out State :=
  .next (homeTakes s line err (fun r => r.who == .agent a && (match r.kind with | .rds _ => true | _ => false)))
/-- RDX. -/
def execRdx (a : Agent) (line : Nat) (s : State) (err : HomeErr := .none) : Out State := .next (homeTakes s line err (fun r => r.who == .agent a && r.kind == .rdx))
/-- UPG. -/
def execUpg (a : Agent) (line : Nat) (s : State) (err : HomeErr := .none) : Out State := .next (homeTakes s line err (fun r => r.who == .agent a && r.kind == .upg))
/-- RDCUR. -/
def execRdcur (line : Nat) (s : State) (err : HomeErr := .none) : Out State := .next (homeTakes s line err (fun r => r.kind == .rdcur))
/-- WRINV. -/
def execWrinv (line : Nat) (s : State) (err : HomeErr := .none) : Out State :=
  .next (homeTakes s line err (fun r => match r.kind with | .wrinv .. => true | _ => false))
/-- ATH. -/
def execAth (line : Nat) (s : State) (err : HomeErr := .none) : Out State :=
  .next (homeTakes s line err (fun r => match r.kind with | .ath .. => true | _ => false))

/-- What a home finds as a write-back reaches it: the state, whether its data is spoilt, and whether it can be taken at all. A whole line
is written, so memory is not read. -/
def wbFinds (s : State) (a : Agent) (line : Nat) (err : HomeErr) : State × Bool × Bool :=
  match err with
  | .wire w =>
    if !(lineOf (beatPpa w) == line && beatOn s (askerDies (.agent a)) false true w) then (s, false, true)
    else (meetBeat s w, beatIsData w, !beatIsHeader w)
  | .entryCe => (entryCorrects s line, false, true)
  | .entryUe => (homeFog s 0x0704 line 7, false, false)
  | _ => (s, false, true)

/-- WB. -/
def execWb (a : Agent) (line : Nat) (err : HomeErr) (s : State) : Out State :=
  .next (if !serving s then s
  else match takeMsg (fun m => match m with | .wb b l d => if b = a ∧ l = line then some d else none | _ => none) s.coh.msgs with
    | none => s
    | some (d, t) =>
      match wbFinds (withMsgs s t) a line err with
      | (_, _, false) => (wbFinds s a line err).1
      | (s, bad, true) => applyWb (taint s a line false) a line 0 d (tainted s a line || bad))

end Sys2Proof.Machine
end

