-- ==== Sys2Proof/Machine/Dispatch.lean ====
section
/-! DEFINITION. One arm per command, each a direct call of its meaning. -/

namespace Sys2Proof.Machine

/-- The effect of a command on everything but the queue. -/
def exec (i : Instr) (s : State) : Host.Outcome State Fault Refusal :=
  match i with
  | .opDispatch p => Sys2Proof.Machine.execOpDispatch p s
  | .endProg p => Sys2Proof.Machine.execEndProg p s
  | .nop p => Sys2Proof.Machine.execNop p s
  | .loop p => Sys2Proof.Machine.execLoop p s
  | .endloop p => Sys2Proof.Machine.execEndloop p s
  | .wait p => Sys2Proof.Machine.execWait p s
  | .signal p => Sys2Proof.Machine.execSignal p s
  | .rsignal p => Sys2Proof.Machine.execRsignal p s
  | .pendingSignalGiven p => Sys2Proof.Machine.execPendingSignalGiven p s
  | .remoteSignalDelivery n => Sys2Proof.Machine.execRemoteSignalDelivery n s
  | .stepbar p => Sys2Proof.Machine.execStepbar p s
  | .stepbarArrival p => Sys2Proof.Machine.execStepbarArrival p s
  | .opComplete p eng => Sys2Proof.Machine.execOpComplete p eng s
  | .load p eng err => Sys2Proof.Machine.execLoad p eng err s
  | .store p eng err => Sys2Proof.Machine.execStore p eng err s
  | .move p eng err => Sys2Proof.Machine.execMove p eng err s
  | .put p eng err => Sys2Proof.Machine.execPut p eng err s
  | .rread p eng err => Sys2Proof.Machine.execRread p eng err s
  | .rwrite p eng err => Sys2Proof.Machine.execRwrite p eng err s
  | .azero p err => Sys2Proof.Machine.execAzero p err s
  | .aload p err => Sys2Proof.Machine.execAload p err s
  | .aswap p err => Sys2Proof.Machine.execAswap p err s
  | .astream p err => Sys2Proof.Machine.execAstream p err s
  | .adrain p err => Sys2Proof.Machine.execAdrain p err s
  | .vadd p err => Sys2Proof.Machine.execVadd p err s
  | .vsub p err => Sys2Proof.Machine.execVsub p err s
  | .vmul p err => Sys2Proof.Machine.execVmul p err s
  | .vfma p err => Sys2Proof.Machine.execVfma p err s
  | .vfms p err => Sys2Proof.Machine.execVfms p err s
  | .vmax p err => Sys2Proof.Machine.execVmax p err s
  | .vmin p err => Sys2Proof.Machine.execVmin p err s
  | .vabs p err => Sys2Proof.Machine.execVabs p err s
  | .vneg p err => Sys2Proof.Machine.execVneg p err s
  | .vadds p err => Sys2Proof.Machine.execVadds p err s
  | .vmuls p err => Sys2Proof.Machine.execVmuls p err s
  | .vfmas p err => Sys2Proof.Machine.execVfmas p err s
  | .vclamps p err => Sys2Proof.Machine.execVclamps p err s
  | .vand p err => Sys2Proof.Machine.execVand p err s
  | .vor p err => Sys2Proof.Machine.execVor p err s
  | .vxor p err => Sys2Proof.Machine.execVxor p err s
  | .vshl p err => Sys2Proof.Machine.execVshl p err s
  | .vsra p err => Sys2Proof.Machine.execVsra p err s
  | .vfill p err => Sys2Proof.Machine.execVfill p err s
  | .viota p err => Sys2Proof.Machine.execViota p err s
  | .vexp2 p err => Sys2Proof.Machine.execVexp2 p err s
  | .vlog2 p err => Sys2Proof.Machine.execVlog2 p err s
  | .vrcp p err => Sys2Proof.Machine.execVrcp p err s
  | .vrsqrt p err => Sys2Proof.Machine.execVrsqrt p err s
  | .vtanh p err => Sys2Proof.Machine.execVtanh p err s
  | .vcmpeq p err => Sys2Proof.Machine.execVcmpeq p err s
  | .vcmpne p err => Sys2Proof.Machine.execVcmpne p err s
  | .vcmplt p err => Sys2Proof.Machine.execVcmplt p err s
  | .vcmple p err => Sys2Proof.Machine.execVcmple p err s
  | .vcmpgt p err => Sys2Proof.Machine.execVcmpgt p err s
  | .vcmpge p err => Sys2Proof.Machine.execVcmpge p err s
  | .vsel p err => Sys2Proof.Machine.execVsel p err s
  | .vselc p err => Sys2Proof.Machine.execVselc p err s
  | .vcvt p err => Sys2Proof.Machine.execVcvt p err s
  | .vbscale p err => Sys2Proof.Machine.execVbscale p err s
  | .vrsum p err => Sys2Proof.Machine.execVrsum p err s
  | .vrmax p err => Sys2Proof.Machine.execVrmax p err s
  | .vrmin p err => Sys2Proof.Machine.execVrmin p err s
  | .vrsumsq p err => Sys2Proof.Machine.execVrsumsq p err s
  | .vramax p err => Sys2Proof.Machine.execVramax p err s
  | .vgbits p err => Sys2Proof.Machine.execVgbits p err s
  | .vgunif p err => Sys2Proof.Machine.execVgunif p err s
  | .vgnorm p err => Sys2Proof.Machine.execVgnorm p err s
  | .vgkeep p err => Sys2Proof.Machine.execVgkeep p err s
  | .msetn p err => Sys2Proof.Machine.execMsetn p err s
  | .msetlo p err => Sys2Proof.Machine.execMsetlo p err s
  | .msethi p err => Sys2Proof.Machine.execMsethi p err s
  | .mand p err => Sys2Proof.Machine.execMand p err s
  | .mor p err => Sys2Proof.Machine.execMor p err s
  | .mxor p err => Sys2Proof.Machine.execMxor p err s
  | .mnot p err => Sys2Proof.Machine.execMnot p err s
  | .mload p err => Sys2Proof.Machine.execMload p err s
  | .gather p => Sys2Proof.Machine.execGather p s
  | .pool p => Sys2Proof.Machine.execPool p s
  | .scatterAdd p => Sys2Proof.Machine.execScatterAdd p s
  | .rowupdate p => Sys2Proof.Machine.execRowupdate p s
  | .loupeCallStart n err => Sys2Proof.Machine.execLoupeCallStart n err s
  | .loupeCallComplete n err => Sys2Proof.Machine.execLoupeCallComplete n s err
  | .run p => Sys2Proof.Machine.execRun p s
  | .update p => Sys2Proof.Machine.execUpdate p s
  | .fixerCallEnqueue p => Sys2Proof.Machine.execFixerCallEnqueue p s
  | .fixerCallStart err => Sys2Proof.Machine.execFixerCallStart err s
  | .passOneDone err => Sys2Proof.Machine.execPassOneDone err s
  | .fixerCallComplete err => Sys2Proof.Machine.execFixerCallComplete err s
  | .allreduce p => Sys2Proof.Machine.execAllreduce p s
  | .reduceToRoot p => Sys2Proof.Machine.execReduceToRoot p s
  | .broadcast p => Sys2Proof.Machine.execBroadcast p s
  | .collectiveStart grp err => Sys2Proof.Machine.execCollectiveStart grp err s
  | .collseg src err => Sys2Proof.Machine.execCollseg src err s
  | .collsegAccept n err => Sys2Proof.Machine.execCollsegAccept n s err
  | .collectiveComplete grp err => Sys2Proof.Machine.execCollectiveComplete grp s err
  | .step ring => Sys2Proof.Machine.execStep ring s
  | .copy ring err => Sys2Proof.Machine.execCopy ring s err
  | .sealRange ring err => Sys2Proof.Machine.execSealRange ring s err
  | .sealVerify ring err => Sys2Proof.Machine.execSealVerify ring s err
  | .tableCall ring => Sys2Proof.Machine.execTableCall ring s
  | .tableRegister ring => Sys2Proof.Machine.execTableRegister ring s
  | .fence ring => Sys2Proof.Machine.execFence ring s
  | .signalWrite ring => Sys2Proof.Machine.execSignalWrite ring s
  | .signalAdd ring => Sys2Proof.Machine.execSignalAdd ring s
  | .signalRing ring => Sys2Proof.Machine.execSignalRing ring s
  | .signalRemoteRing ring => Sys2Proof.Machine.execSignalRemoteRing ring s
  | .loadModel ring => Sys2Proof.Machine.execLoadModel ring s
  | .endContext ring => Sys2Proof.Machine.execEndContext ring s
  | .endContextAbort ring => Sys2Proof.Machine.execEndContextAbort ring s
  | .descNop ring => Sys2Proof.Machine.execDescNop ring s
  | .auth ring => Sys2Proof.Machine.execAuth ring s
  | .optionNegativeWrite readBackOk => Sys2Proof.Machine.execOptionNegativeWrite readBackOk s
  | .firmwareUpdate readBackOk => Sys2Proof.Machine.execFirmwareUpdate readBackOk s
  | .packageReset => Sys2Proof.Machine.execPackageReset s
  | .domainReset => Sys2Proof.Machine.execDomainReset s
  | .podMembershipChange => Sys2Proof.Machine.execPodMembershipChange s
  | .membershipApply => Sys2Proof.Machine.execMembershipApply s
  | .commandKeyRotation => Sys2Proof.Machine.execCommandKeyRotation s
  | .hbmRepairCommit ends => Sys2Proof.Machine.execHbmRepairCommit ends s
  | .debugUnlock => Sys2Proof.Machine.execDebugUnlock s
  | .contactSheetEnable => Sys2Proof.Machine.execContactSheetEnable s
  | .incarnationSet => Sys2Proof.Machine.execIncarnationSet s
  | .incarnationApply => Sys2Proof.Machine.execIncarnationApply s
  | .doorbell off size word => Sys2Proof.Machine.execDoorbell off size word s
  | .watchedLineInvalidate ring err => Sys2Proof.Machine.execWatchedLineInvalidate ring err s
  | .pendingRingFetch ring => Sys2Proof.Machine.execPendingRingFetch ring s
  | .descriptorFetch ring err => Sys2Proof.Machine.execDescriptorFetch ring s err
  | .descriptorComplete ring => Sys2Proof.Machine.execDescriptorComplete ring s
  | .ringCtrlRead ring => Sys2Proof.Machine.execRingCtrlRead ring s
  | .ringCtrlWrite ring => Sys2Proof.Machine.execRingCtrlWrite ring s
  | .ringCtrlReset ring => Sys2Proof.Machine.execRingCtrlReset ring s
  | .ctxRead ctx => Sys2Proof.Machine.execCtxRead ctx s
  | .openCtx ctx => Sys2Proof.Machine.execOpenCtx ctx s
  | .withdraw core => Sys2Proof.Machine.execWithdraw core s
  | .returnCore core => Sys2Proof.Machine.execReturnCore core s
  | .fixSeRead ctx => Sys2Proof.Machine.execFixSeRead ctx s
  | .fixSeCommit ctx wrcnt => Sys2Proof.Machine.execFixSeCommit ctx wrcnt s
  | .prtRtRead entry => Sys2Proof.Machine.execPrtRtRead entry s
  | .prtRtWrite entry => Sys2Proof.Machine.execPrtRtWrite entry s
  | .stkGrpRead grp => Sys2Proof.Machine.execStkGrpRead grp s
  | .stkGrpWrite grp => Sys2Proof.Machine.execStkGrpWrite grp s
  | .dieReset index => Sys2Proof.Machine.execDieReset index s
  | .coreReset index => Sys2Proof.Machine.execCoreReset index s
  | .portReset index => Sys2Proof.Machine.execPortReset index s
  | .fixerReset index => Sys2Proof.Machine.execFixerReset index s
  | .loupeReset index => Sys2Proof.Machine.execLoupeReset index s
  | .stackerReset index => Sys2Proof.Machine.execStackerReset index s
  | .ringGroupReset index => Sys2Proof.Machine.execRingGroupReset index s
  | .blockResetComplete => Sys2Proof.Machine.execBlockResetComplete s
  | .portEnable port => Sys2Proof.Machine.execPortEnable port s
  | .portDisable port => Sys2Proof.Machine.execPortDisable port s
  | .retrain port => Sys2Proof.Machine.execRetrain port s
  | .softRepair stack chan pc bank row => Sys2Proof.Machine.execSoftRepair stack chan pc bank row s
  | .errqBaseWrite v => Sys2Proof.Machine.execErrqBaseWrite v s
  | .errqCtrlWrite v => Sys2Proof.Machine.execErrqCtrlWrite v s
  | .errqHeadWrite v => Sys2Proof.Machine.execErrqHeadWrite v s
  | .msixUnmask what => Sys2Proof.Machine.execMsixUnmask what s
  | .registerWrite bar off wide v => Sys2Proof.Machine.execRegisterWrite bar off wide v s
  | .droppedRegisterAccess off size write i3c => Sys2Proof.Machine.execDroppedRegisterAccess off size write i3c s
  | .i3cPointerWrite off => Sys2Proof.Machine.execI3cPointerWrite off s
  | .i3cRead => Sys2Proof.Machine.execI3cRead s
  | .i3cRegisterWrite off v => Sys2Proof.Machine.execI3cRegisterWrite off v s
  | .cswNop slot go => Sys2Proof.Machine.execCswNop slot go s
  | .cswCopy slot go => Sys2Proof.Machine.execCswCopy slot go s
  | .cswFill slot go => Sys2Proof.Machine.execCswFill slot go s
  | .cswGemm slot go => Sys2Proof.Machine.execCswGemm slot go s
  | .cswAccessDropped => Sys2Proof.Machine.execCswAccessDropped s
  | .placement => Sys2Proof.Machine.execPlacement s
  | .preemptPatienceExpiry => Sys2Proof.Machine.execPreemptPatienceExpiry s
  | .preemptSave ctx bad => Sys2Proof.Machine.execPreemptSave ctx bad s
  | .blockSwapExpiry => Sys2Proof.Machine.execBlockSwapExpiry s
  | .stepRelease ctx => Sys2Proof.Machine.execStepRelease ctx s
  | .stepWatchdogExpiry ctx => Sys2Proof.Machine.execStepWatchdogExpiry ctx s
  | .teardownComplete ctx => Sys2Proof.Machine.execTeardownComplete ctx s
  | .scrubComplete core upper => Sys2Proof.Machine.execScrubComplete core upper s
  | .endingComplete ctx => Sys2Proof.Machine.execEndingComplete ctx s
  | .coreGate core => Sys2Proof.Machine.execCoreGate core s
  | .coreOff core => Sys2Proof.Machine.execCoreOff core s
  | .coreWakeComplete core => Sys2Proof.Machine.execCoreWakeComplete core s
  | .dataFlit port flit => Sys2Proof.Machine.execDataFlit port flit s
  | .nakFlit port ack cr => Sys2Proof.Machine.execNakFlit port ack cr s
  | .idleFlit port ack cr => Sys2Proof.Machine.execIdleFlit port ack cr s
  | .ctrlFlit port peer => Sys2Proof.Machine.execCtrlFlit port peer s
  | .width1 port ack cr => Sys2Proof.Machine.execWidth1 port s ack cr
  | .widen port ack cr => Sys2Proof.Machine.execWiden port s ack cr
  | .widenResendTimer port => Sys2Proof.Machine.execWidenResendTimer port s
  | .nakHoldoffExpiry port => Sys2Proof.Machine.execNakHoldoffExpiry port s
  | .retryTimeout port => Sys2Proof.Machine.execRetryTimeout port s
  | .trainDone port good rtt => Sys2Proof.Machine.execTrainDone port good rtt s
  | .trainTimeout port => Sys2Proof.Machine.execTrainTimeout port s
  | .laneLockLoss port lane => Sys2Proof.Machine.execLaneLockLoss port lane s
  | .retrainDone port good rtt => Sys2Proof.Machine.execRetrainDone port good rtt s
  | .retrainTimeout port => Sys2Proof.Machine.execRetrainTimeout port s
  | .drainDone port => Sys2Proof.Machine.execDrainDone port s
  | .transactionSend port starved => Sys2Proof.Machine.execTransactionSend port starved s
  | .rd src err => Sys2Proof.Machine.execRd src s err
  | .wr src => Sys2Proof.Machine.execWr src s
  | .atadd src => Sys2Proof.Machine.execAtadd src s
  | .atcas src => Sys2Proof.Machine.execAtcas src s
  | .dbell src => Sys2Proof.Machine.execDbell src s
  | .rdrsp src => Sys2Proof.Machine.execRdrsp src s
  | .wrack src => Sys2Proof.Machine.execWrack src s
  | .atrsp src => Sys2Proof.Machine.execAtrsp src s
  | .hbeat src => Sys2Proof.Machine.execHbeat src s
  | .incnote src => Sys2Proof.Machine.execIncnote src s
  | .dark src => Sys2Proof.Machine.execDark src s
  | .reqTimeout tag => Sys2Proof.Machine.execReqTimeout tag s
  | .hbeatTimer port => Sys2Proof.Machine.execHbeatTimer port s
  | .heartbeatMissTimer port => Sys2Proof.Machine.execHeartbeatMissTimer port s
  | .silenceTimerEnd port => Sys2Proof.Machine.execSilenceTimerEnd port s
  | .downRetrainTimer port => Sys2Proof.Machine.execDownRetrainTimer port s
  | .allPortsDownTimer => Sys2Proof.Machine.execAllPortsDownTimer s
  | .rds a line err => Sys2Proof.Machine.execRds a line err s
  | .rdx a line err => Sys2Proof.Machine.execRdx a line s err
  | .upg a line err => Sys2Proof.Machine.execUpg a line s err
  | .ackMsg a line => Sys2Proof.Machine.execAckMsg a line s
  | .wb a line err => Sys2Proof.Machine.execWb a line err s
  | .rdcur line err => Sys2Proof.Machine.execRdcur line s err
  | .wrinv line err => Sys2Proof.Machine.execWrinv line s err
  | .ath line err => Sys2Proof.Machine.execAth line s err
  | .snps a line => Sys2Proof.Machine.execSnps a line s
  | .snpx a line => Sys2Proof.Machine.execSnpx a line s
  | .snpcur a line => Sys2Proof.Machine.execSnpcur a line s
  | .rspmiss a line data => Sys2Proof.Machine.execRspmiss a line data s
  | .rsps a line data => Sys2Proof.Machine.execRsps a line data s
  | .rspo a line data => Sys2Proof.Machine.execRspo a line data s
  | .rspi a line data => Sys2Proof.Machine.execRspi a line data s
  | .rspwbif a line => Sys2Proof.Machine.execRspwbif a line s
  | .grantMsg a line => Sys2Proof.Machine.execGrantMsg a line s
  | .doneMsg n => Sys2Proof.Machine.execDoneMsg n s
  | .snoopTimeout line => Sys2Proof.Machine.execSnoopTimeout line s
  | .machineCheck cause => Sys2Proof.Machine.execMachineCheck cause s
  | .memrd hpa want => Sys2Proof.Machine.execMemrd hpa want s
  | .memwr w => Sys2Proof.Machine.execMemwr w s
  | .memwrptl w => Sys2Proof.Machine.execMemwrptl w s
  | .biconflict line => Sys2Proof.Machine.execBiconflict line s
  | .snpdata hpa => Sys2Proof.Machine.execSnpdata hpa s
  | .snpinv hpa => Sys2Proof.Machine.execSnpinv hpa s
  | .hostSnpcur hpa => Sys2Proof.Machine.execHostSnpcur hpa s
  | .go hpa => Sys2Proof.Machine.execGo hpa s
  | .cxlCacheData hpa data poison => Sys2Proof.Machine.execCxlCacheData hpa data poison s
  | .uioWrite w => Sys2Proof.Machine.execUioWrite w s
  | .uioRead hpa len rid err => Sys2Proof.Machine.execUioRead hpa len s rid err
  | .hdmCommit set => Sys2Proof.Machine.execHdmCommit set s
  | .atsInvalidateRequest ctx page => Sys2Proof.Machine.execAtsInvalidateRequest ctx page s
  | .linkRecovery => Sys2Proof.Machine.execLinkRecovery s
  | .linkL0Return => Sys2Proof.Machine.execLinkL0Return s
  | .linkHoldExpiry => Sys2Proof.Machine.execLinkHoldExpiry s
  | .dlDown => Sys2Proof.Machine.execDlDown s
  | .hotReset => Sys2Proof.Machine.execHotReset s
  | .flr => Sys2Proof.Machine.execFlr s
  | .ideIntegrityFailure => Sys2Proof.Machine.execIdeIntegrityFailure s
  | .viralReceived => Sys2Proof.Machine.execViralReceived s
  | .pmeTurnOff => Sys2Proof.Machine.execPmeTurnOff s
  | .doeDiscovery mailbox index => Sys2Proof.Machine.execDoeDiscovery mailbox index s
  | .cxlTableAccess entry => Sys2Proof.Machine.execCxlTableAccess entry s
  | .getVersion => Sys2Proof.Machine.execGetVersion s
  | .getCapabilities => Sys2Proof.Machine.execGetCapabilities s
  | .negotiateAlgorithms => Sys2Proof.Machine.execNegotiateAlgorithms s
  | .getDigests => Sys2Proof.Machine.execGetDigests s
  | .getCertificate slot => Sys2Proof.Machine.execGetCertificate slot s
  | .spdmChallenge nonce => Sys2Proof.Machine.execSpdmChallenge nonce s
  | .getMeasurements => Sys2Proof.Machine.execGetMeasurements s
  | .keyExchange => Sys2Proof.Machine.execKeyExchange s
  | .finish => Sys2Proof.Machine.execFinish s
  | .endSession => Sys2Proof.Machine.execEndSession s
  | .quote nonce => Sys2Proof.Machine.execQuote nonce s
  | .setkey key => Sys2Proof.Machine.execSetkey key s
  | .idcode => Sys2Proof.Machine.execIdcode s
  | .bypass => Sys2Proof.Machine.execBypass s
  | .holdboot => Sys2Proof.Machine.execHoldboot s
  | .challenge => Sys2Proof.Machine.execChallenge s
  | .unlock req => Sys2Proof.Machine.execUnlock req s
  | .dietest die => Sys2Proof.Machine.execDietest die s
  | .reachprog source val readBack => Sys2Proof.Machine.execReachprog source val readBack s
  | .pkgrst => Sys2Proof.Machine.execPkgrst s
  | .powerOn => Sys2Proof.Machine.execPowerOn s
  | .pwrOkFall => Sys2Proof.Machine.execPwrOkFall s
  | .warmRstNAssert => Sys2Proof.Machine.execWarmRstNAssert s
  | .perstNAssert => Sys2Proof.Machine.execPerstNAssert s
  | .pinResetConfirm pin => Sys2Proof.Machine.execPinResetConfirm pin s
  | .mcWatchdogExpiry => Sys2Proof.Machine.execMcWatchdogExpiry s
  | .bringupStepDone info => Sys2Proof.Machine.execBringupStepDone info s
  | .domainResetStepDone info => Sys2Proof.Machine.execDomainResetStepDone info s
  | .thermalSample readings => Sys2Proof.Machine.execThermalSample readings s
  | .throttleStep die => Sys2Proof.Machine.execThrottleStep die s
  | .powerWindow watts => Sys2Proof.Machine.execPowerWindow watts s
  | .throttleNChange level => Sys2Proof.Machine.execThrottleNChange level s
  | .powerPick => Sys2Proof.Machine.execPowerPick s
  | .darkLanesDown => Sys2Proof.Machine.execDarkLanesDown s
  | .scheduledWake => Sys2Proof.Machine.execScheduledWake s
  | .wakeComplete => Sys2Proof.Machine.execWakeComplete s
  | .patrolScrub stack chan line find => Sys2Proof.Machine.execPatrolScrub stack chan line find s
  | .grainTopup core => Sys2Proof.Machine.execGrainTopup core s
  | .healthTestFail core => Sys2Proof.Machine.execHealthTestFail core s
  | .serverCoreInstruction die core addr op err => Sys2Proof.Machine.execServerCoreInstruction die core addr op err s
  | .timerCompare die core => Sys2Proof.Machine.execTimerCompare die core s
  | .healthTestPass core => Sys2Proof.Machine.execHealthTestPass core s
  | .flitCrcFail port => Sys2Proof.Machine.execFlitCrcFail port s
  | .linkUp width rate cxl cacheEn memEn ats bars => Sys2Proof.Machine.execLinkUp width rate cxl cacheEn memEn ats s bars
  | .atsTranslationCompletion answer => Sys2Proof.Machine.execAtsTranslationCompletion answer s
  | .ideKm msg => Sys2Proof.Machine.execIdeKm msg s
  | .entryComplete => Sys2Proof.Machine.execEntryComplete s

end Sys2Proof.Machine
end

