-- ==== Sys2Proof/Machine/Tick.lean ====
section
/-! DEFINITION. One tick of the AON clock, 40 ns (R32, R33): what the timed rules measure moves by one tick. No command of the table
is a tick: it passes where no command waits (log entry 3). The rules that act when a time is over are commands of their own. -/

namespace Sys2Proof.Machine

/-- A change of every entry of a table; an entry left at what an unlisted one reads as is not listed. -/
def tmap {α : Type} [DecidableEq α] (d : α) (f : Nat → α → α) (t : Tbl α) : Tbl α :=
  (t.map (fun e => (e.1, f e.1 e.2))).filter (fun e => decide (e.2 ≠ d))

/-- One tick less, down to none. -/
def lessOne (l : List (Nat × Nat)) : List (Nat × Nat) :=
  (l.map (fun e => (e.1, e.2 - 1))).filter (fun e => decide (0 < e.2))

/-- The counters of the ten dies, wrapping after 2^48 ticks (R33); one whose die has not started since its reset stands (R10). -/
def tickAon (l : List (BitVec 48)) (wait : List Nat) : List (BitVec 48) :=
  (l.zip (List.range l.length)).map (fun x => if nth wait x.2 = 0 then x.1 + 1 else x.1)

/-- A ring's hint and a neighbour's announced silence run out at 0; a silence of 0xFFFF_FFFF does not run (R288, R313). -/
def tickUnit (u : RingUnit) : RingUnit := { u with hint := u.hint.map (· - 1) }
def tickPort (p : Port) : Port :=
  { p with silence := p.silence.map (fun k => if k = 2 ^ 32 - 1 then k else k - 1), noteHold := p.noteHold - 1 }

/-- A step's times: waiting or saved (R353), on its cores with nothing moving (R361), and released (R321). -/
def tickStep (t : StepRec) : StepRec :=
  { t with
    waited := if t.st = .waiting ∨ t.st = .saved then t.waited + 1 else t.waited
    used := if t.st = .released ∨ t.st = .saving then t.used + 1 else t.used
    quiet := if t.st = .waiting ∨ t.st = .saved then t.quiet else t.quiet + 1 }

/-- STEP descriptors that have started under R318 and wait behind another step of their context (R345). -/
def stepsQueued (s : State) (ctx : Nat) : Nat :=
  (s.rings.unit_.filter (fun e => (ringOf s e.1).ctx == ctx
    && match e.2.running with | some x => !x.begun && x.report.isNone && dType x.desc.word == 1 | none => false)).length

/-- How many of the context's steps wait in this tick (R364): each that stands between the start of its descriptor and its release, or
between the start of a save and its restore, or waits under R345. -/
def ctxWaits (s : State) (ctx : Nat) : Nat :=
  (s.sched.steps.filter (fun t => t.ctx == ctx && t.csw.isNone && t.st != .released)).length + stepsQueued s ctx

def tickCtx (s : State) (c : Nat) (x : Ctx) : Ctx := { x with waitTime := x.waitTime + BitVec.ofNat 64 (ctxWaits s c) }

/-- Durations that loupe, fixer and collective reports give (R199, R225, R285). -/
def tickLoupe (l : Loupe) : Loupe := { l with run := l.run.map (fun r => { r with ticks := r.ticks + 1 }) }
def tickFixers (f : Fixers) : Fixers := { f with run := f.run.map (fun r => { r with ticks := r.ticks + 1 }) }
def tickPod (p : Pod) : Pod :=
  { p with colls := p.colls.map (fun c => { c with ticks := c.ticks + 1 }), stuck := lessOne p.stuck }

/-- What moves by one tick: nothing runs while PWR_OK is low (R440). -/
def tickClocks (s : State) : State :=
  if s.rst.phase = .off then s
  else { s with
    aon := tickAon s.aon s.aonWait
    aonWait := s.aonWait.map (· - 1)
    rings := { s.rings with unit_ := tmap RingUnit.none (fun _ u => tickUnit u) s.rings.unit_ }
    ports := tmap Port.off (fun _ p => tickPort p) s.ports
    sched := { s.sched with steps := s.sched.steps.map tickStep, ctxs := tmap Ctx.free (tickCtx s) s.sched.ctxs }
    loupes := tmap Loupe.idle (fun _ l => tickLoupe l) s.loupes
    fixers := tickFixers s.fixers
    pod := tickPod s.pod
    errs := { s.errs with noticed := lessOne s.errs.noticed }
    pwr := { s.pwr with wakeAt := s.pwr.wakeAt.map (· - 1) } }

/-- One tick, in which the error queue writes the records it holds as far as it can (R490) and the port tries the UIO reads it keeps again
(R404). -/
def tick (s : State) : State :=
  let t := tickClocks s
  let t := if t.errs.held.isEmpty then t else flushErrs 65 t
  if t.cxl.reads.isEmpty then t else settleReads t

end Sys2Proof.Machine
end

