-- ==== Sys2Proof/Safety.lean ====
section
/-! DEFINITION. What a good state and a good step are, in the terms the statements use. -/

namespace Sys2Proof.Machine

/-- Device memory and its poison marks stand in their canonical form: addresses strictly rising, and nothing listed that reads as an
unlisted address does (log entry 2). -/
def memWf (s : State) : Bool := twf 0 s.mem && twf false s.poison

/-- What is in the fuses stays there (R436, R472): factory values never change, revocations, BSET and repaired rows are only added,
minimum SVNs only rise, and the reach value of a source with BSET stands. -/
structure FusesGrow (a b : Fuses) : Prop where
  grade   : b.grade736 = a.grade736
  serial  : b.serial = a.serial
  strips  : b.strips = a.strips
  fval    : b.fval = a.fval
  flock   : b.flock = a.flock
  keys    : b.keyHash = a.keyHash
  revoked : ∀ i, bit a.revoked i = true → bit b.revoked i = true
  bset    : ∀ i, bit a.bset i = true → bit b.bset i = true
  bval    : ∀ i, bit a.bset i = true → nth b.bval i = nth a.bval i
  svnMc   : a.svnMc ≤ b.svnMc
  svnS    : a.svnS ≤ b.svnS
  hard    : a.hard <+: b.hard

end Sys2Proof.Machine
end

