-- ==== Sys2Proof/WellFormed.lean ====
section
/-! DEFINITION. Which commands the outside can send: the ranges of their operands (R3, R4, R239, R301, R343, R366, R498). Every
meaning is total all the same: what it does with an operand out of range is to change nothing. -/

namespace Sys2Proof

/-- A logical core of the part (R4). -/
def ProgRef.wf (p : ProgRef) : Bool := decide (p.core < 800)

/-- A copy channel (R36). -/
def isCopy : Eng → Bool
  | .copy0 | .copy1 => true
  | .array | .vector | .offload => false

/-- A wire of one of the fourteen edges (R417, R432), and a line of device memory. -/
def WireErr.wf : WireErr → Bool
  | .corrected edge group wire _ ppa => decide (edge < 14 ∧ group < 128 ∧ wire < 76 ∧ ppa < 2 ^ 41)
  | .data edge group _ ppa => decide (edge < 14 ∧ group < 128 ∧ ppa < 2 ^ 41)
  | .header edge group _ ppa => decide (edge < 14 ∧ group < 128 ∧ ppa < 2 ^ 41)

/-- What a home finds names a wire. -/
def HomeErr.wf : HomeErr → Bool
  | .wire w => w.wf
  | .none | .entryCe | .entryUe | .memCe | .memUe => true

/-- What a check can find (R83, R91, R144, R175, R419): places inside a core, one of the ten dies, a wire, or a line. -/
def HwErr.wf : HwErr → Bool
  | .none | .check _ _ _ => true
  | .spCe off | .spUe off | .putCe off | .putUe off => decide (off < 2 ^ 21)
  | .accCe row _ | .accUe row _ => decide (row < 1024)
  | .tileUe group => decide (group < 32)
  | .shared die => decide (die < 10)
  | .wire w => w.wf
  | .memCe ppa | .memUe ppa | .dirCe ppa | .dirUe ppa => decide (ppa < 2 ^ 41)
  | .both a b => a.wf && b.wf

/-- A transaction arrives on one of the 32 ports, or from the package itself. -/
def portIn : Option Nat → Bool
  | none => true
  | some n => decide (n < 32)

/-- A snoop response carries a line or nothing (R374). -/
def lineData : Option (List Byte) → Bool
  | none => true
  | some d => decide (d.length = 64)

/-- Access sizes of the bus (R308, R509). -/
def busSize (n : Nat) : Bool := decide (n = 1 ∨ n = 2 ∨ n = 4 ∨ n = 8)

/-- A DATA flit: eight counts and at most fifteen slots of 16 bytes (R242, R247). -/
def Flit.wf (f : Flit) : Bool := decide (f.cr.length = 8 ∧ f.payload.length ≤ 240)

/-- Buffer sizes for four VCs and two classes (R249). -/
def PeerInfo.wf (p : PeerInfo) : Bool := decide (p.credits.length = 8)

/-- A UIO write of at most 4 KiB. -/
def BusWrite.uioWf (w : BusWrite) : Bool := decide (0 < w.data.length ∧ w.data.length ≤ 4096)

/-- A host write inside one line (R397). -/
def BusWrite.wf (w : BusWrite) : Bool := decide (0 < w.data.length ∧ w.hpa.toNat % 64 + w.data.length ≤ 64)

/-- Ten strap codes, and places on the package. -/
def StepInfo.wf (i : StepInfo) : Bool :=
  decide (i.straps.length = 10) && (match i.edgeFail with | some (e, _) => decide (e < 14) | none => true)
    && (match i.laneFail with | some (k, c) => decide (k < 16 ∧ c < 32) | none => true)

/-- A server core reads and writes 1 to 64 bytes. -/
def CoreOp.wf : CoreOp → Bool
  | .load n => decide (0 < n ∧ n ≤ 64)
  | .store d => decide (0 < d.length ∧ d.length ≤ 64)
  | .amoAdd _ | .amo _ _ _ | .lr _ | .sc _ _ | .evict | .fence | .timer _ | .wfi => true

/-- The command's operands are in their ranges. -/
def Instr.wf : Instr → Bool
  | .opDispatch p | .endProg p | .nop p | .loop p | .endloop p | .wait p | .signal p | .rsignal p | .pendingSignalGiven p
    | .stepbar p | .stepbarArrival p | .opComplete p _ | .gather p | .pool p | .scatterAdd p | .rowupdate p | .run p | .update p
    | .fixerCallEnqueue p | .allreduce p | .reduceToRoot p | .broadcast p =>
      p.wf
  | .remoteSignalDelivery _ | .optionNegativeWrite _ | .firmwareUpdate _ | .packageReset | .domainReset | .podMembershipChange
    | .membershipApply | .commandKeyRotation | .debugUnlock | .contactSheetEnable | .incarnationSet | .incarnationApply
    | .ringCtrlRead _ | .ringCtrlWrite _ | .ringCtrlReset _ | .ctxRead _ | .openCtx _ | .withdraw _ | .returnCore _
    | .fixSeRead _ | .fixSeCommit _ _ | .prtRtRead _ | .prtRtWrite _ | .stkGrpRead _ | .stkGrpWrite _ | .dieReset _
    | .coreReset _ | .portReset _ | .fixerReset _ | .loupeReset _ | .stackerReset _ | .ringGroupReset _ | .blockResetComplete
    | .errqBaseWrite _ | .errqCtrlWrite _ | .errqHeadWrite _ | .msixUnmask _ | .i3cPointerWrite _ | .i3cRead
    | .i3cRegisterWrite _ _ | .cswAccessDropped | .placement | .preemptPatienceExpiry | .blockSwapExpiry | .allPortsDownTimer
    | .doneMsg _ | .memrd _ _ | .snpdata _ | .snpinv _ | .hostSnpcur _ | .go _ | .hdmCommit _ | .linkRecovery | .linkL0Return
    | .linkHoldExpiry | .dlDown | .hotReset | .flr | .ideIntegrityFailure | .viralReceived | .pmeTurnOff | .cxlTableAccess _
    | .getVersion | .getCapabilities | .negotiateAlgorithms | .getDigests | .getMeasurements | .keyExchange | .finish
    | .endSession | .idcode | .bypass | .holdboot | .challenge | .pkgrst | .powerOn | .pwrOkFall | .warmRstNAssert
    | .perstNAssert | .pinResetConfirm _ | .mcWatchdogExpiry | .powerWindow _ | .throttleNChange _ | .powerPick | .darkLanesDown
    | .scheduledWake | .wakeComplete | .atsTranslationCompletion _ | .ideKm _ | .entryComplete =>
      true
  | .load p eng err | .store p eng err | .move p eng err | .put p eng err | .rread p eng err | .rwrite p eng err =>
      p.wf && isCopy eng && err.wf
  | .azero p err | .aload p err | .aswap p err | .astream p err | .adrain p err | .vadd p err | .vsub p err | .vmul p err
    | .vfma p err | .vfms p err | .vmax p err | .vmin p err | .vabs p err | .vneg p err | .vadds p err | .vmuls p err
    | .vfmas p err | .vclamps p err | .vand p err | .vor p err | .vxor p err | .vshl p err | .vsra p err | .vfill p err
    | .viota p err | .vexp2 p err | .vlog2 p err | .vrcp p err | .vrsqrt p err | .vtanh p err | .vcmpeq p err | .vcmpne p err
    | .vcmplt p err | .vcmple p err | .vcmpgt p err | .vcmpge p err | .vsel p err | .vselc p err | .vcvt p err | .vbscale p err
    | .vrsum p err | .vrmax p err | .vrmin p err | .vrsumsq p err | .vramax p err | .vgbits p err | .vgunif p err
    | .vgnorm p err | .vgkeep p err | .msetn p err | .msetlo p err | .msethi p err | .mand p err | .mor p err | .mxor p err
    | .mnot p err | .mload p err =>
      p.wf && err.wf
  | .loupeCallStart n err | .loupeCallComplete n err =>
      decide (n < 16) && err.wf
  | .fixerCallStart err | .passOneDone err | .fixerCallComplete err | .collsegAccept _ err =>
      err.wf
  | .collectiveStart grp err | .collectiveComplete grp err =>
      decide (grp < 256) && err.wf
  | .collseg src err | .rd src err =>
      portIn src && err.wf
  | .step ring | .tableCall ring | .tableRegister ring | .fence ring | .signalWrite ring | .signalAdd ring | .signalRing ring
    | .signalRemoteRing ring | .loadModel ring | .endContext ring | .endContextAbort ring | .descNop ring | .auth ring
    | .pendingRingFetch ring | .descriptorComplete ring =>
      decide (ring < 2 ^ 20)
  | .copy ring err | .sealRange ring err | .sealVerify ring err | .watchedLineInvalidate ring err | .descriptorFetch ring err =>
      decide (ring < 2 ^ 20) && err.wf
  | .hbmRepairCommit ends =>
      decide (ends.length ≤ 64)
  | .doorbell off size _ =>
      decide (off < 2 ^ 23) && busSize size
  | .portEnable port | .portDisable port | .retrain port | .widenResendTimer port | .nakHoldoffExpiry port | .retryTimeout port
    | .trainDone port _ _ | .trainTimeout port | .retrainDone port _ _ | .retrainTimeout port | .drainDone port
    | .transactionSend port _ | .hbeatTimer port | .heartbeatMissTimer port | .silenceTimerEnd port | .downRetrainTimer port
    | .flitCrcFail port =>
      decide (port < 32)
  | .softRepair stack _ _ _ _ =>
      decide (stack < 16)
  | .registerWrite _ off wide _ =>
      decide (off < 2 ^ 24 ∧ off % 4 = 0 ∧ (wide = true → off % 8 = 0))
  | .droppedRegisterAccess off size _ _ =>
      decide (off < 2 ^ 24) && decide (0 < size ∧ ¬ ((size = 4 ∨ size = 8) ∧ off % size = 0))
  | .cswNop slot _ | .cswCopy slot _ | .cswFill slot _ | .cswGemm slot _ =>
      decide (slot < 64)
  | .preemptSave ctx _ | .stepRelease ctx | .stepWatchdogExpiry ctx | .teardownComplete ctx | .endingComplete ctx
    | .atsInvalidateRequest ctx _ =>
      decide (ctx < 4096)
  | .scrubComplete core _ | .coreGate core | .coreOff core | .coreWakeComplete core | .grainTopup core | .healthTestFail core
    | .healthTestPass core =>
      decide (core < 800)
  | .dataFlit port flit =>
      decide (port < 32) && flit.wf
  | .nakFlit port _ cr | .idleFlit port _ cr | .width1 port _ cr | .widen port _ cr =>
      decide (port < 32) && decide (cr.length = 8)
  | .ctrlFlit port peer =>
      decide (port < 32) && peer.wf
  | .laneLockLoss port lane =>
      decide (port < 32) && decide (lane < 16)
  | .wr src | .atadd src | .atcas src | .dbell src | .rdrsp src | .wrack src | .atrsp src | .hbeat src | .incnote src
    | .dark src =>
      portIn src
  | .reqTimeout tag =>
      decide (tag < 65536)
  | .rds _ line err | .rdx _ line err | .upg _ line err | .wb _ line err | .rdcur line err | .wrinv line err | .ath line err =>
      decide (line < 2 ^ 52) && err.wf
  | .ackMsg _ line | .snps _ line | .snpx _ line | .snpcur _ line | .rspwbif _ line | .grantMsg _ line | .snoopTimeout line
    | .biconflict line =>
      decide (line < 2 ^ 52)
  | .rspmiss _ line data | .rsps _ line data | .rspo _ line data | .rspi _ line data =>
      decide (line < 2 ^ 52) && lineData data
  | .machineCheck cause =>
      decide (cause.die < 2)
  | .memwr w | .memwrptl w =>
      w.wf
  | .cxlCacheData _ data _ =>
      decide (data.length = 64)
  | .uioWrite w =>
      w.uioWf
  | .uioRead _ len _ err =>
      decide (0 < len ∧ len ≤ 4096) && err.wf
  | .doeDiscovery mailbox index =>
      decide (mailbox < 2) && decide (index < 256)
  | .getCertificate slot =>
      decide (slot < 8)
  | .spdmChallenge nonce | .quote nonce =>
      decide (nonce.length = 32)
  | .setkey key =>
      decide (key.length = 32)
  | .unlock req =>
      decide (req.keySlot < 4)
  | .dietest die =>
      decide (die < 10)
  | .reachprog source _ _ =>
      decide (source < 16)
  | .bringupStepDone info | .domainResetStepDone info =>
      info.wf
  | .thermalSample readings =>
      decide (readings.length = 10)
  | .throttleStep die =>
      decide (die < 8)
  | .patrolScrub stack chan line _ =>
      decide (stack < 16) && decide (chan < 32) && decide (line < 2 ^ 26)
  | .serverCoreInstruction die core addr op _ =>
      decide (die < 2) && decide (core < 48) && decide (addr < 2 ^ 52) && op.wf
  | .timerCompare die core =>
      decide (die < 2) && decide (core < 48)
  | .linkUp width rate _ _ _ _ bars =>
      decide (width = 4 ∨ width = 8 ∨ width = 16) && decide (1 ≤ rate ∧ rate ≤ 6) && decide (bars.length = 3)

end Sys2Proof
end

