-- ==== Sys2Proof/Certificates/Slice0/Obligations.lean ====
section
/-! DEFINITION. The statements about the model, each a proposition for a prover: what every command does where it does what the spec
gives it, what it leaves as it was, and what every step keeps. -/

open Sys2Proof Sys2Proof.Machine

/-- A step takes the command at the front of the queue and makes its effect on the state with the rest of the queue (the form of a block
with commands waiting first in, first out). -/
def Obligations.StepRunsFrontCommand : Prop :=
  ∀ (c : Instr) (q : List Instr) (s : State), step { s with pending := c :: q } = exec c { s with pending := q }

/-- On an empty queue a step is one tick of the AON clock: each counter of R33 that its die has started advances by one, and nothing at all happens
while PWR_OK is low; cores, tables, fuses, flash, security state and the contact-sheet window stand. Where no error record is held back and no UIO
read is kept, which a tick may write and answer, registers, memory, caches, links, ring contexts, reset state, pins and what was sent stand too. That
a step on an empty queue is a tick is the model's choice (log entry 3). -/
def Obligations.EmptyQueueTicks : Prop :=
  ∀ s : State, s.pending = [] →
    ∃ t, step s = .next t ∧
      (s.rst.phase ≠ .off → t.aon = tickAon s.aon s.aonWait ∧ t.aonWait = s.aonWait.map (· - 1)) ∧
      (s.rst.phase = .off → s.errs.held = [] → s.cxl.reads = [] → t = s) ∧
      t.pending = [] ∧ t.cores = s.cores ∧ t.tables = s.tables ∧ t.rst.phase = s.rst.phase ∧ t.fuses = s.fuses ∧ t.flash = s.flash ∧ t.sec = s.sec ∧
      t.csw = s.csw ∧
      (s.errs.held = [] → s.cxl.reads = [] → t.regs = s.regs ∧ t.mem = s.mem ∧ t.poison = s.poison ∧ t.coh = s.coh ∧ t.cxl = s.cxl ∧
        t.rings.ctx = s.rings.ctx ∧ t.rst = s.rst ∧ t.pins = s.pins ∧ t.out = s.out)

/-- Whatever the state and the command (or tick), a step from a state whose device memory and poison marks stand in canonical form leads to one
whose memory and poison marks do: keys strictly rising, no entry that reads as an unlisted one (the model's form of memory, log entry 2). -/
def Obligations.EveryStepKeepsMemoryForm : Prop :=
  ∀ s t : State, memWf s = true → step s = .next t → memWf t = true

/-- No command and no tick ever takes back what is in the fuses: grade, serial, strips, factory reach values, locks and key digests stand;
revocations, BSET bits and repaired rows are only added; the reach value of a source with BSET stands; minimum SVNs never fall. -/
def Obligations.FusesOnlyGrow : Prop :=
  ∀ s t : State, step s = .next t → FusesGrow s.fuses t.fuses

/-- A step never takes back a message sent out, never uses a free value twice (the model's counter, log entry 1), and takes exactly one command
from the queue. -/
def Obligations.SentMessagesStand : Prop :=
  ∀ s t : State, step s = .next t → s.out <+: t.out ∧ s.free ≤ t.free ∧ t.pending = s.pending.tail

/-- No command of the table stops the machine: each one, on every state and all operands, answers a next state. What the spec calls a fault is
an effect (a record, a teardown, a stopped ring, fog). -/
def Obligations.NoCommandStops : Prop :=
  ∀ (c : Instr) (s : State), ∃ t, exec c s = .next t

/-- Reset leaves a level-0 bring-up at its first step, an empty queue, memory in canonical form with nothing listed, the host link down, MSI-X
disabled, no model resident, contact-sheet commands disabled, debug locked, every port OFF, every core fresh, every ring context invalid, every
context slot free, and every register at the reset value of its table (with the values log entries 4 to 8 name where the spec gives none). -/
def Obligations.ResetState : Prop :=
  memWf State.reset = true ∧ State.reset.pending = [] ∧ State.reset.rst.phase = .seq 0 1 ∧ State.reset.cxl.link = .down ∧
    State.reset.msix.enabled = false ∧ State.reset.sched.model = none ∧ State.reset.csw.authen = false ∧ State.reset.sec.scope = 0 ∧
    (∀ n, portOf State.reset n = Port.off) ∧ (∀ n, coreOf State.reset n = Core.fresh) ∧ (∀ n, ringOf State.reset n = Ring.none) ∧
    (∀ c, ctxOf State.reset c = Ctx.free) ∧ (∀ off, regVal State.reset off = regReset off)

/-- An op at the sequencer goes to the queue of its engine with the iteration indices of its loops and its embedded wait and signal as WF and SL
leave them; a queue of 16 stalls it, and nothing changes. NOP takes a dispatch. LOOP opens a loop of CNTM1 + 1 iterations at index 0; ENDLOOP goes
back to the op after its LOOP while iterations remain, and else closes the loop. Nothing but the program's own record changes, and its step is
noted as not blocked. -/
def Obligations.DispatchAndControl : Prop :=
  ∀ (s : State) (p : ProgRef),
    (∀ q w e, seqOp s p = some (q, w) → opEng w = some e → (engOf q e).queue.length < 16 →
      exec (.opDispatch p) s = .next (putProg s p { withEng q e { engOf q e with
        queue := (engOf q e).queue ++ [{
            word := w, idx := q.pc, iters := q.loops.map (·.i),
            waitEn := opWE w && (!opWF w || firstIter q.loops),
            sigEn := opSE w && (!opSL w || lastIter q.loops),
            phase := .queued, mark := 0, held := false }],
        sent := (engOf q e).sent + 1 } with pc := q.pc + 1 })) ∧
    (∀ q w e, seqOp s p = some (q, w) → opEng w = some e → 16 ≤ (engOf q e).queue.length → exec (.opDispatch p) s = .next s) ∧
    (∀ q w, seqIs s p 0 1 = some (q, w) → exec (.nop p) s = .next (putProg s p { q with pc := q.pc + 1 })) ∧
    (∀ q w, seqIs s p 0 2 = some (q, w) →
      exec (.loop p) s = .next (putProg s p { q with pc := q.pc + 1, loops := q.loops ++ [⟨q.pc, bits w 23 0 + 1, 0⟩] })) ∧
    (∀ q w ls at_ n i, seqIs s p 0 3 = some (q, w) → q.loops = ls ++ [⟨at_, n, i⟩] →
      exec (.endloop p) s = .next (putProg s p (
        if i + 1 < n then { q with pc := at_ + 1, loops := ls ++ [⟨at_, n, i + 1⟩] } else { q with pc := q.pc + 1, loops := ls })))

/-- WAIT with its COUNT in the tally subtracts it and the sequencer goes on; with less nothing changes. SIGNAL with AFTER 0 adds
COUNT to the program's own tally at dispatch, where that stays at most 65,535; RSIGNAL with AFTER 0 sends its signal on to the program of index
TARGET. With AFTER set either waits as pending, behind those before it, with the ops of each named engine that must complete first. -/
def Obligations.TallyOps : Prop :=
  ∀ (s : State) (p : ProgRef),
    (∀ q w, seqIs s p 1 0 = some (q, w) → bits w 20 5 ≤ tallyOf q (bits w 4 0) →
      exec (.wait p) s = .next (putProg s p { q with
        pc := q.pc + 1,
        tallies := tset 0 q.tallies (bits w 4 0) (tallyOf q (bits w 4 0) - bits w 20 5) })) ∧
    (∀ q w, seqIs s p 1 0 = some (q, w) → tallyOf q (bits w 4 0) < bits w 20 5 → exec (.wait p) s = .next s) ∧
    (∀ q w, seqIs s p 1 1 = some (q, w) → bits w 28 24 = 0 → tallyOf q (bits w 4 0) + bits w 20 5 ≤ 65535 →
      ∃ t, exec (.signal p) s = .next t ∧
        progOf t p = some { q with pc := q.pc + 1, tallies := tset 0 q.tallies (bits w 4 0) (tallyOf q (bits w 4 0) + bits w 20 5) } ∧
        t.mem = s.mem ∧ t.regs = s.regs ∧ t.signals = s.signals) ∧
    (∀ q w, seqIs s p 1 1 = some (q, w) → bits w 28 24 ≠ 0 →
      exec (.signal p) s = .next (putProg s p { q with
        pc := q.pc + 1,
        pend := q.pend ++ [⟨bits w 4 0, bits w 20 5, none, afterNeed q (bits w 28 24), q.pc⟩] })) ∧
    (∀ q w, seqIs s p 1 2 = some (q, w) →
      exec (.rsignal p) s = .next (
        if bits w 28 24 = 0 then
          { putProg s p { q with pc := q.pc + 1 } with
            signals := s.signals ++ [⟨q.step, bits w 42 32, bits w 4 0, bits w 20 5, q.pc⟩] }
        else putProg s p { q with
          pc := q.pc + 1,
          pend := q.pend ++ [⟨bits w 4 0, bits w 20 5, some (bits w 42 32), afterNeed q (bits w 28 24), q.pc⟩] }))

/-- The oldest pending signal is given once every engine it names has completed the ops dispatched before it, to the program's own tally or on to
the program it targets; until then nothing changes. A remote signal on its way that reaches its program adds its count to that program's tally,
and is on its way no more. Memory and registers stand. -/
def Obligations.SignalsReachTallies : Prop :=
  ∀ (s : State) (p : ProgRef),
    (∀ q g r, canRun s p = some q → q.pend = g :: r → g.target = none →
      (∀ x ∈ allEngs.zip g.need, x.2 ≤ (engOf q x.1).fin) → tallyOf q g.tally + g.count ≤ 65535 →
      ∃ t, exec (.pendingSignalGiven p) s = .next t ∧ t.mem = s.mem ∧ t.regs = s.regs ∧ t.signals = s.signals ∧
        progOf t p = some { q with pend := r, tallies := tset 0 q.tallies g.tally (tallyOf q g.tally + g.count) }) ∧
    (∀ q g r n, canRun s p = some q → q.pend = g :: r → g.target = some n → (∀ x ∈ allEngs.zip g.need, x.2 ≤ (engOf q x.1).fin) →
      exec (.pendingSignalGiven p) s = .next { setProg s p { q with pend := r } with
        signals := s.signals ++ [⟨q.step, n, g.tally, g.count, g.idx⟩] }) ∧
    (∀ q g r x, canRun s p = some q → q.pend = g :: r → x ∈ allEngs.zip g.need → (engOf q x.1).fin < x.2 →
      exec (.pendingSignalGiven p) s = .next s) ∧
    (∀ n g t q, s.signals[n]? = some g → stepOf s g.step = some t → slotProg t g.target = some p → progOf s p = some q →
      q.step = g.step → q.sci = g.target → tallyOf q g.tally + g.count ≤ 65535 →
      ∃ u, exec (.remoteSignalDelivery n) s = .next u ∧ u.signals = s.signals.eraseIdx n ∧ u.mem = s.mem ∧ u.regs = s.regs ∧
        progOf u p = some { q with tallies := tset 0 q.tallies g.tally (tallyOf q g.tally + g.count) })

/-- A SIGNAL that would carry its tally above 65,535 leaves the tally as it is: the program with its sequencer advanced is charged with
TALLY_OVERFLOW (0x0111) of its own context. -/
def Obligations.TallyOverflowLeavesTally : Prop :=
  ∀ (s : State) (p : ProgRef) (q : Prog) (w : Op), seqIs s p 1 1 = some (q, w) → bits w 28 24 = 0 →
    65535 < tallyOf q (bits w 4 0) + bits w 20 5 →
    exec (.signal p) s = .next (chargeOp (putProg s p { q with pc := q.pc + 1 }) p { q with pc := q.pc + 1 } q.pc 0x0111)

/-- STEPBAR stops the sequencer. The program arrives once no op of any engine of it is left; while another program of the step has not arrived,
only its arrival is recorded, and a step of one program is released at once, its sequencer going on after the STEPBAR. The oldest op of an engine
completes once its effects are made, in order, and gives its embedded signal of SN + 1 to tally ST; an op whose effects are not made does not. -/
def Obligations.BarriersAndOpCompletion : Prop :=
  ∀ (s : State) (p : ProgRef),
    (∀ q w, seqIs s p 1 3 = some (q, w) → exec (.stepbar p) s = .next (putProg s p { q with atBar := true })) ∧
    (∀ q t, canRun s p = some q → q.atBar = true → q.arrived = false →
      (∀ e, (engOf q e).queue = [] ∧ (engOf q e).run = []) → stepOf s q.step = some t →
      ∃ u, exec (.stepbarArrival p) s = .next u ∧ u.mem = s.mem ∧ u.regs = s.regs ∧ u.signals = s.signals ∧
        ((∃ r ∈ stepPlaces t, r ≠ p ∧ (∀ d, progOf s r = some d → d.arrived = false)) →
          u = setProg s p { q with arrived := true, bars := q.bars + 1 }) ∧
        (stepPlaces t = [p] →
          progOf u p = some { q with bars := q.bars + 1, atBar := false, pc := q.pc + 1 })) ∧
    (∀ q e o r, canRun s p = some q → (engOf q e).run = o :: r → o.phase = .done → o.sigEn = false →
      exec (.opComplete p e) s = .next (putProg s p (withEng q e { engOf q e with run := r, fin := (engOf q e).fin + 1 }))) ∧
    (∀ q e o r, canRun s p = some q → (engOf q e).run = o :: r → o.phase = .done → o.sigEn = true →
      tallyOf q (bits o.word 106 102) + (bits o.word 101 98 + 1) ≤ 65535 →
      ∃ u, exec (.opComplete p e) s = .next u ∧ u.mem = s.mem ∧ u.regs = s.regs ∧
        progOf u p = some { withEng q e { engOf q e with run := r, fin := (engOf q e).fin + 1 } with
          tallies := tset 0 q.tallies (bits o.word 106 102) (tallyOf q (bits o.word 106 102) + (bits o.word 101 98 + 1)) }) ∧
    (∀ q e o r, canRun s p = some q → (engOf q e).run = o :: r → o.phase ≠ .done → exec (.opComplete p e) s = .next s)

namespace Sys2Proof.Stated

/-- The core as an op's effect finds it: the op's embedded wait has taken its count (R44). -/
def coreAtOp (s : State) (p : ProgRef) (e : Eng) (q : Prog) (o : OpSlot) : Core :=
  withProg (coreOf s p.core) p.upper (some (takeWait q e o))

/-- A program whose engine's oldest queued op has left its queue, its wait taken; it stands in the phase
`ph`: done, or waiting for what it called (R37, R47, R57). -/
def leftQueue (q : Prog) (e : Eng) (o : OpSlot) (ph : OpPhase := .done) : Prog :=
  let q := takeWait q e o
  withEng q e { engOf q e with
    queue := (engOf q e).queue.tail,
    run := (engOf q e).run ++ [{ o with waitEn := false, phase := ph }] }

/-- The state after an op of an engine of `p`: the core's arrays are those of `k`, the program that of `q`, `n` free values are used,
the op is out of its queue, the engine has served this half, what the host returned for it is used up, and nothing else has changed. -/
def afterOp (s : State) (p : ProgRef) (e : Eng) (q : Prog) (o : OpSlot) (k : Core) (n : Nat) (ph : OpPhase := .done) : State :=
  { s with
    free := s.free + n,
    cores := tset Core.fresh s.cores p.core (setLast (withProg k p.upper (some (leftQueue q e o ph))) e p.upper),
    coh := (endHost s (whoOp p (engNo e))).coh }

/-- `c` is the array op of opcode `opc` of `p`, and makes of the core at its op what `f` says. -/
def ArrayOp (c : Instr) (p : ProgRef) (opc : Nat) (f : Prog → OpSlot → Core → Core) : Prop :=
  ∀ s q o, startable s p .array (isOp 3 opc) = some (q, o) →
    exec c s = .next (afterOp s p .array q o (f (takeWait q .array o) o (coreAtOp s p .array q o)) 0)

/-- `c` is the vector op of code `vop` of `p`; its lanes are computed by `f` from the streams of `fm` and written in the rounding mode
`rnd` (none for the op's own). -/
def LaneOp (c : Instr) (p : ProgRef) (vop : Nat) (fm : Prog → OpSlot → VecForm) (rnd : Option Rnd) (f : Prog → OpSlot → Lane → LaneOut) : Prop :=
  ∀ s q o, startable s p .vector (isVop vop) = some (q, o) →
    let q' := takeWait q .vector o
    let po := spat q' (vePO o.word) (veASOUT o.word) o.iters
    let drv := if (fm q' o).drvO then po else spat q' (vePA o.word) (veASIN o.word) o.iters
    let issue (k : Core) (_ : Unit) (j : Nat) : Unit × List (Nat × List Byte) :=
      ((), writeVec po.fmt (rnd.getD (rndOf (veRND o.word))) (fun i => grainLane s p.core j i 0)
        (vAddr po (vIndex drv.n j)) (vScaleAddr po (vIndex drv.n j))
        ((lanesAt s k p q' o (fm q' o) j (vIndex drv.n j)).map (fun l =>
          if bit (liveMask q' o.word drv (vIndex drv.n j)) l.i then some (f q' o l) else none)))
    exec c s = .next (afterOp s p .vector q o
      (vecSteps p.upper (fm q' o).cyc (fm q' o).lat issue (vCount drv.n) 0 ⟨coreAtOp s p .vector q o, (), []⟩).core
      (65 * vCount drv.n))

/-- `c` is the vector op of code `vop` of `p` that makes a mask of its lanes by `f`, writes it to M[MOUT], and to stream O where
`stream` says so. -/
def MaskingOp (c : Instr) (p : ProgRef) (vop : Nat) (fm : VecForm) (stream : Op → Bool) (f : Lane → Bool) : Prop :=
  ∀ s q o, startable s p .vector (isVop vop) = some (q, o) →
    let q' := takeWait q .vector o
    let po := spat q' (vePO o.word) (veASOUT o.word) o.iters
    let drv := if fm.drvO then po else spat q' (vePA o.word) (veASIN o.word) o.iters
    let mask (k : Core) (j : Nat) : BitVec 64 :=
      maskFrom ((lanesAt s k p q' o fm j (vIndex drv.n j)).map (fun l => bit (liveMask q' o.word drv (vIndex drv.n j)) l.i && f l))
    let issue (k : Core) (_ : BitVec 64) (j : Nat) : BitVec 64 × List (Nat × List Byte) :=
      (mask k j, if stream o.word then [(vAddr po (vIndex drv.n j), leBytes 8 (mask k j).toNat)] else [])
    let x := vecSteps p.upper fm.cyc fm.lat issue (vCount drv.n) 0 ⟨coreAtOp s p .vector q o, 0, []⟩
    exec c s = .next (afterOp s p .vector (withMask q (veMOUT o.word) x.acc) o x.core (65 * vCount drv.n))

/-- `c` is the mask op of code `vop` of `p`: M[MOUT] takes `f` of the program and the core, and nothing of the core's arrays changes. -/
def MaskOp (c : Instr) (p : ProgRef) (vop : Nat) (f : Prog → OpSlot → Core → BitVec 64) : Prop :=
  ∀ s q o, startable s p .vector (isVop vop) = some (q, o) →
    exec c s = .next (afterOp s p .vector
      (withMask q (veMOUT o.word) (f (takeWait q .vector o) o (coreAtOp s p .vector q o))) o (coreAtOp s p .vector q o) 0)

end Sys2Proof.Stated

open Sys2Proof.Stated

/-- AZERO makes the entries, kinds and flags of its rows zero. ALOAD puts the tile image at its pattern's first address, with its format, into the
tile the selector does not name. ASWAP toggles this half's selector. ADRAIN writes each row's raw entries to scratchpad in ascending columns and
takes the row's flags into ARR_DRAIN_FLAGS. Each leaves its queue as done, uses its embedded wait, and changes no memory, register or other core. -/
def Obligations.ArrayOps : Prop :=
  ∀ p : ProgRef,
    ArrayOp (.azero p .none) p 0 (fun _ o k =>
      (List.range (arROWS o.word)).foldl (fun k m =>
        { k with
          acc := setAccs k.acc ((arAROW o.word + m) * 64 + arrCol0 k p.upper) (List.replicate (arrW k) 0),
          rows := tset RowTag.clear k.rows (2 * (arAROW o.word + m) + b2n p.upper) RowTag.clear }) k) ∧
    ArrayOp (.aload p .none) p 1 (fun q o k =>
      { k with
        tiles := tset Tile.empty k.tiles (tileKey p.upper (!selOf k p.upper))
          ⟨some (bits o.word 37 34), spRead k p.upper (vAddr (spat q (bits o.word 7 0) (bits o.word 13 8) o.iters) [0, 0, 0, 0])
            (tileBytes (bits o.word 37 34) (arrW k))⟩ }) ∧
    ArrayOp (.aswap p .none) p 2 (fun _ _ k => if p.upper then { k with selHi := !k.selHi } else { k with selLo := !k.selLo }) ∧
    ArrayOp (.adrain p .none) p 4 (fun q o k0 =>
      (List.range (arROWS o.word)).foldl (fun k m =>
        let d := drainSee (drainOf k p.upper) (rowTag k p.upper (arAROW o.word + m)) (arAROW o.word + m)
        withDrain (spWrite k p.upper (vAddr (spat q (bits o.word 7 0) (bits o.word 13 8) o.iters) [0, m, 0, 0])
          ((List.range (arrW k)).flatMap (fun j => leBytes 4 (accOf k (arAROW o.word + m) (arrCol0 k0 p.upper + j)).toNat)))
          p.upper d) k0)

/-- ASTREAM multiplies each stream row by the tile the selector names and writes or adds the sums to its accumulator row. It raises ARR_MISMATCH
(0x0110), charged to its context, and makes no effect where the tile is empty, its format is of another group, or it would add to a row of the
other kind. -/
def Obligations.ArrayStream : Prop :=
  ∀ (s : State) (p : ProgRef) (q : Prog) (o : OpSlot), startable s p .array (isOp 3 3) = some (q, o) →
    let k := coreAtOp s p .array q o
    let q' := takeWait q .array o
    let fmt := bits o.word 37 34
    let tile := tileOf k p.upper (selOf k p.upper)
    let clash := arACC o.word && ((List.range (arROWS o.word)).map (arAROW o.word + ·)).any (fun r =>
      (rowTag k p.upper r).kind == (if isIntFmt fmt then 1 else 2))
    (∀ wf, tile.fmt = some wf → groupOf wf = groupOf fmt → clash = false →
      exec (.astream p .none) s = .next (afterOp s p .array q o
        (streamRows p.upper fmt wf (arTR o.word) (arACC o.word) (tileVals wf (arrW k) tile.img) (fun _ _ => false) k
          ((List.range (arROWS o.word)).map (fun m => (arAROW o.word + m,
            spRead k p.upper (vAddr (spat q' (bits o.word 7 0) (bits o.word 13 8) o.iters) [0, m, 0, 0])
              (rowBytes fmt (arrW k) (arTR o.word))))) 0) 0)) ∧
    (tile.fmt = none ∨ (∃ wf, tile.fmt = some wf ∧ (groupOf wf ≠ groupOf fmt ∨ clash = true)) →
      exec (.astream p .none) s = .next (chargeOp (setProg s p q') p q' o.idx 0x0110))

/-- The arithmetic ops of the vector engine: over every live lane the sum, difference, product, fused multiply-add or -subtract, larger, smaller,
absolute value, negation, or the forms with the immediate, in the op's kind, converted once to the output format; the pipeline writes each
vector's result its latency after the vector is read. The op leaves its queue as done; no memory, register or other core changes. -/
def Obligations.VectorArithmetic : Prop :=
  ∀ p : ProgRef,
    LaneOp (.vadd p .none) p 0x001 (fun _ _ => form2) none (fun _ _ l => arith l (l.a.add l.b)) ∧
    LaneOp (.vsub p .none) p 0x002 (fun _ _ => form2) none (fun _ _ l => arith l (l.a.add l.b.negate)) ∧
    LaneOp (.vmul p .none) p 0x003 (fun _ _ => form2) none (fun _ _ l => arith l (l.a.mul l.b)) ∧
    LaneOp (.vfma p .none) p 0x004 (fun _ _ => form3) none (fun _ _ l => arith l ((l.a.mul l.b).add l.c)) ∧
    LaneOp (.vfms p .none) p 0x005 (fun _ _ => form3) none (fun _ _ l => arith l ((l.a.mul l.b).add l.c.negate)) ∧
    LaneOp (.vmax p .none) p 0x006 (fun _ _ => form2) none (fun _ _ l => .val (l.a.maxN l.b)) ∧
    LaneOp (.vmin p .none) p 0x007 (fun _ _ => form2) none (fun _ _ l => .val (l.a.minN l.b)) ∧
    LaneOp (.vabs p .none) p 0x008 (fun _ _ => form1) none (fun _ _ l => .val (absOf l.a)) ∧
    LaneOp (.vneg p .none) p 0x009 (fun _ _ => form1) none (fun _ _ l => .val (negOf l l.a)) ∧
    LaneOp (.vadds p .none) p 0x00A (fun _ _ => form1) none (fun _ _ l => arith l (l.a.add l.immN)) ∧
    LaneOp (.vmuls p .none) p 0x00B (fun _ _ => form1) none (fun _ _ l => arith l (l.a.mul l.immN)) ∧
    LaneOp (.vfmas p .none) p 0x00C (fun _ _ => form2) none (fun _ _ l => arith l ((l.a.mul l.immN).add l.b)) ∧
    LaneOp (.vclamps p .none) p 0x00D (fun _ _ => form1) none (fun _ _ l => arith l (clampTo l.a l.immN))

/-- The bitwise ops and shifts on INT32, the fills, the five functions of R537 (each a fixed result within its bound: the model leaves which one
free, log entry 11), conversion, the selects by M[MOUT] or a mask stream, and the grain ops over the lane's words of its generator. -/
def Obligations.VectorBitsFillsAndFunctions : Prop :=
  ∀ p : ProgRef,
    LaneOp (.vand p .none) p 0x010 (fun _ _ => form2) none (fun _ _ l => .val (ofInt (intBits l.a &&& intBits l.b).toInt)) ∧
    LaneOp (.vor p .none) p 0x011 (fun _ _ => form2) none (fun _ _ l => .val (ofInt (intBits l.a ||| intBits l.b).toInt)) ∧
    LaneOp (.vxor p .none) p 0x012 (fun _ _ => form2) none (fun _ _ l => .val (ofInt (intBits l.a ^^^ intBits l.b).toInt)) ∧
    LaneOp (.vshl p .none) p 0x013 (fun _ _ => form1) none (fun _ _ l => .val (ofInt (intBits l.a <<< bits l.imm 4 0).toInt)) ∧
    LaneOp (.vsra p .none) p 0x014 (fun _ _ => form1) none (fun _ _ l => .val (ofInt (BitVec.sshiftRight (intBits l.a) (bits l.imm 4 0)).toInt)) ∧
    LaneOp (.vfill p .none) p 0x020 (fun _ _ => form0 none 1 8) none (fun _ _ l => .val l.immN) ∧
    LaneOp (.viota p .none) p 0x021 (fun _ _ => form0 (some true) 1 8) none (fun _ _ l => .val (ofInt (64 * l.v0 + l.i : Nat))) ∧
    LaneOp (.vexp2 p .none) p 0x040 (fun _ _ => { form1 with lat := 20 }) none (fun q o l => .val (transFn 0x40 (outFmt q o) l.a)) ∧
    LaneOp (.vlog2 p .none) p 0x041 (fun _ _ => { form1 with lat := 20 }) none (fun q o l => .val (transFn 0x41 (outFmt q o) l.a)) ∧
    LaneOp (.vrcp p .none) p 0x042 (fun _ _ => { form1 with lat := 20 }) none (fun q o l => .val (transFn 0x42 (outFmt q o) l.a)) ∧
    LaneOp (.vrsqrt p .none) p 0x043 (fun _ _ => { form1 with lat := 20 }) none (fun q o l => .val (transFn 0x43 (outFmt q o) l.a)) ∧
    LaneOp (.vtanh p .none) p 0x044 (fun _ _ => { form1 with lat := 20 }) none (fun q o l => .val (transFn 0x44 (outFmt q o) l.a)) ∧
    LaneOp (.vcvt p .none) p 0x0C0 (fun q o => { form1 with lat := latMX (outFmt q o) }) none (fun _ _ l => .val l.a) ∧
    LaneOp (.vsel p .none) p 0x088 (fun q o => { form2 with lat := latMX (outFmt q o) }) (some .rne) (fun _ _ l => choose l l.mo) ∧
    LaneOp (.vselc p .none) p 0x089 (fun q o => { form3 with cMask := true, lat := latMX (outFmt q o) }) (some .rne) (fun _ _ l => choose l l.mc) ∧
    LaneOp (.vgbits p .none) p 0x140 (fun _ _ => form0 (some true) 1 6) none (fun _ _ l => .val (ofInt l.g.toInt)) ∧
    LaneOp (.vgunif p .none) p 0x141 (fun _ _ => form0 (some false) 1 6) none (fun _ _ l => .val (.fin false (l.g.toNat >>> 8) (-24))) ∧
    LaneOp (.vgnorm p .none) p 0x142 (fun _ _ => form0 (some false) 2 6) none (fun _ _ l => .val (gnorm l.g l.g2))

/-- Compares and VGKEEP write the mask of the last vector's live lanes to M[MOUT], and each vector's mask to stream O where IMM[0] asks for it (VGKEEP
always); the mask ops set M[MOUT] to a low mask, a half from the immediate, a combination of masks, or the 8 bytes at A's first vector address.
No other mask of the program changes. -/
def Obligations.VectorMasks : Prop :=
  ∀ p : ProgRef,
    MaskingOp (.vcmpeq p .none) p 0x080 form2 (fun w => bit (veIMM w) 0) (fun l => l.a.eqv l.b) ∧
    MaskingOp (.vcmpne p .none) p 0x081 form2 (fun w => bit (veIMM w) 0) (fun l => !l.a.eqv l.b) ∧
    MaskingOp (.vcmplt p .none) p 0x082 form2 (fun w => bit (veIMM w) 0) (fun l => l.a.lt l.b) ∧
    MaskingOp (.vcmple p .none) p 0x083 form2 (fun w => bit (veIMM w) 0) (fun l => l.a.lt l.b || l.a.eqv l.b) ∧
    MaskingOp (.vcmpgt p .none) p 0x084 form2 (fun w => bit (veIMM w) 0) (fun l => l.b.lt l.a) ∧
    MaskingOp (.vcmpge p .none) p 0x085 form2 (fun w => bit (veIMM w) 0) (fun l => l.b.lt l.a || l.a.eqv l.b) ∧
    MaskingOp (.vgkeep p .none) p 0x143 (form0 (some true) 1 6) (fun _ => true) (fun l => decide (l.g.toNat < l.imm.toNat)) ∧
    MaskOp (.msetn p .none) p 0x180 (fun _ o _ => BitVec.ofNat 64 (2 ^ bits (veIMM o.word) 6 0 - 1)) ∧
    MaskOp (.msetlo p .none) p 0x181 (fun q o _ => setBits (maskOf q (veMOUT o.word)) 31 0 (veIMM o.word).toNat) ∧
    MaskOp (.msethi p .none) p 0x182 (fun q o _ => setBits (maskOf q (veMOUT o.word)) 63 32 (veIMM o.word).toNat) ∧
    MaskOp (.mand p .none) p 0x183 (fun q o _ => maskOf q (veMSEL o.word) &&& maskOf q (bits (veIMM o.word) 2 0)) ∧
    MaskOp (.mor p .none) p 0x184 (fun q o _ => maskOf q (veMSEL o.word) ||| maskOf q (bits (veIMM o.word) 2 0)) ∧
    MaskOp (.mxor p .none) p 0x185 (fun q o _ => maskOf q (veMSEL o.word) ^^^ maskOf q (bits (veIMM o.word) 2 0)) ∧
    MaskOp (.mnot p .none) p 0x186 (fun q o _ => ~~~maskOf q (veMSEL o.word)) ∧
    MaskOp (.mload p .none) p 0x187 (fun q o k =>
      BitVec.ofNat 64 (leNat (spRead k p.upper (vAddr (spat q (vePA o.word) (veASIN o.word) o.iters) [0, 0, 0, 0]) 8)))

namespace Sys2Proof.Stated

/-- `c` is the reduction of code `vop` of `p`: the runs of A along its innermost dimension, lanewise with IMM[0] = 0 and in full with 1.
Each vector folds its live lanes into the run's values; at a run's end the lanewise form writes the lanes that were live, and the full form
joins the lanes and writes its results 64 at a time. -/
def ReductionOp (c : Instr) (p : ProgRef) (vop : Nat) (r : RedOp) (absFirst : Bool) : Prop :=
  ∀ s q o, startable s p .vector (isVop vop) = some (q, o) →
    let q' := takeWait q .vector o
    let pa := spat q' (vePA o.word) (veASIN o.word) o.iters
    let po := spat q' (vePO o.word) (veASOUT o.word) o.iters
    let int := isIntFmt pa.fmt
    let full := bit (veIMM o.word) 0
    let n := vCount pa.n
    let fresh (f : List (Option Machine.Num)) : RedAcc := ⟨List.replicate 64 (r.ident int), List.replicate 64 false, List.replicate 64 false, f⟩
    let write (k : Core) (j : Nat) (ov : List Nat) (f : Nat → Option (Option Machine.Num)) : List (Nat × List Byte) :=
      writeVec po.fmt (rndOf (veRND o.word)) (fun i => grainLane s p.core j i 0) (vAddr po ov) (vScaleAddr po ov)
        ((List.range 64).map (fun i => (f i).map (fun x => match x with | some y => .val y | none => .keep (oldCode k p.upper po ov i))))
    let issue (k : Core) (x : RedAcc) (j : Nat) : RedAcc × List (Nat × List Byte) :=
      let v := vIndex pa.n j
      let live := liveMask q' o.word pa v
      let vals := (lanesAt s k p q' o form1 j v).map (fun l =>
        if bit live l.i then r.fold int (x.vals.getD l.i .nan) (if absFirst then absOf l.a else l.a) else x.vals.getD l.i .nan)
      let seen := (List.range 64).map (fun i => x.seen.getD i false || bit live i)
      let lost := (List.range 64).map (fun i => x.lost.getD i false)
      if nth v 0 + 1 ≠ nth pa.n 0 then (⟨vals, seen, lost, x.full⟩, [])
      else if full then
        let one := if r.zero && !seen.any id then Machine.Num.fin false 0 0 else (treeJoin (r.join int) 6 vals).headD .nan
        let got := x.full ++ [if lost.any id then none else some one]
        let run := j / nth pa.n 0
        if run % 64 = 63 ∨ run + 1 = n / nth pa.n 0 then (fresh [], write k j [run / 64, 0, 0, 0] (fun i => got[i]?)) else (fresh got, [])
      else (fresh [], write k j [0, nth v 1, nth v 2, nth v 3]
        (fun i => if seen.getD i false then some (if lost.getD i false then none else some (vals.getD i .nan)) else none))
    exec c s = .next (afterOp s p .vector q o
      (vecSteps p.upper 1 (if full then 14 else 8) issue n 0 ⟨coreAtOp s p .vector q o, fresh [], []⟩).core (65 * n))

end Sys2Proof.Stated

/-- The five reductions run over A's vectors with their identities, accumulate lane by lane in FP32 or saturating INT32, and write one vector a run
(lanewise) or one element a run (full, the lanes joined in pairs through six levels to one). VBSCALE writes the two block scales of each vector of A
at O's vector address. The op leaves its queue as done; accumulators, tiles, memory, registers and other cores stand. -/
def Obligations.VectorReductions : Prop :=
  (∀ p : ProgRef,
    ReductionOp (.vrsum p .none) p 0x100 redSum false ∧
    ReductionOp (.vrmax p .none) p 0x101 redMax false ∧
    ReductionOp (.vrmin p .none) p 0x102 redMin false ∧
    ReductionOp (.vrsumsq p .none) p 0x103 redSumsq false ∧
    ReductionOp (.vramax p .none) p 0x104 redAmax true ∧
    (∀ s q o, startable s p .vector (isVop 0x0C1) = some (q, o) →
      let q' := takeWait q .vector o
      let pa := spat q' (vePA o.word) (veASIN o.word) o.iters
      let po := spat q' (vePO o.word) (veASOUT o.word) o.iters
      let blk (k : Core) (j b : Nat) : Nat := blockScale (mxElem po.fmt) ((List.range 32).filterMap (fun i =>
        if bit (liveMask q' o.word pa (vIndex pa.n j)) (32 * b + i) then (readVec k p.upper pa (vIndex pa.n j)).2[32 * b + i]? else none))
      let issue (k : Core) (_ : Unit) (j : Nat) : Unit × List (Nat × List Byte) :=
        ((), [(vAddr po (vIndex pa.n j), [BitVec.ofNat 8 (blk k j 0)]), (vAddr po (vIndex pa.n j) + 1, [BitVec.ofNat 8 (blk k j 1)])])
      exec (.vbscale p .none) s = .next (afterOp s p .vector q o
        (vecSteps p.upper 1 10 issue (vCount pa.n) 0 ⟨coreAtOp s p .vector q o, (), []⟩).core 0))) ∧
  (∀ i a b, redSum.fold i a b = (if i then satInt (a.add b) else rnd32 (a.add b)) ∧ redSumsq.fold i a b = redSum.fold i a (b.mul b)) ∧
  (∀ i a b, redMax.fold i a b = a.maxN b ∧ redMin.fold i a b = a.minN b ∧ redAmax.fold i a b = a.maxN b) ∧
  (∀ (f : Machine.Num → Machine.Num → Machine.Num) (xs : List Machine.Num), xs.length = 64 → (treeJoin f 6 xs).length = 1)

namespace Sys2Proof.Stated

/-- What a command of a unit that reads memory from these dies does with what its way to memory and memory find: it works on what they then
hold, and where a directory entry or a header cannot be trusted there is fog in place of its work. -/
def MemoryFinds (c : HwErr → Instr) (dies : List Nat) : Prop :=
  ∀ s t, exec (c .none) s = .next t → t ≠ s →
    (∀ a, exec (c (.memCe a)) s = exec (c .none) (memCorrects s a)) ∧
    (∀ a u, exec (c .none) (memSpoils s a) = .next u →
      exec (c (.memUe a)) s = .next (if edgeBase ≤ a then u else logMet s u (lineOf a))) ∧
    (∀ a, exec (c (.dirCe a)) s = exec (c .none) (entryCorrects s (lineOf a))) ∧
    (∀ a, exec (c (.dirUe a)) s = .next (homeFog s 0x0704 (lineOf a) 7)) ∧
    (∀ e g d x, beatOn s dies true true (.header e g d x) = true →
      exec (c (.wire (.header e g d x))) s = .next (fog (logBeat s e g d true) 0x0704 (receiver e d) 31 (lineOf x) 7)) ∧
    (∀ e g n d x, beatOn s dies true true (.corrected e g n d x) = true →
      exec (c (.wire (.corrected e g n d x))) s = exec (c .none) (countWire s e g n d)) ∧
    (∀ w, beatOn s dies true true w = false → exec (c (.wire w)) s = .next t)

end Sys2Proof.Stated

/-- What an engine's own checks find ends its op: a residue or parity mismatch of a running ASTREAM or vector op is counted, logged and charged as
ARITH_CHECK, and only the result of its own lane of its own vector (or its own entry) is left unwritten; an op without arithmetic makes no such check; an
uncorrectable scratchpad error is logged with the reader's code and charged; an error of a structure that several contexts share is charged to each and
marks the die. The commands of loupes, fixers, stackers, service channels, the ring unit, ports and UIO that read memory work on what a correction or an
uncorrectable line leaves there, and an uncorrectable directory entry or header on their route is fog in place of their work. -/
def Obligations.EngineChecksStopTheirOp : Prop :=
  ∀ (s : State) (p : ProgRef) (q : Prog) (o : OpSlot),
    let a := takeWait q .array o
    let v := takeWait q .vector o
    (∀ par i j, startable s p .array (isOp 3 0) = some (q, o) →
      exec (.azero p (.check par i j)) s = exec (.azero p .none) s) ∧
    (∀ par i j k, startable s p .array (isOp 3 3) = some (q, o) →
      astreamEff p (some (.check par i j)) (setProg s p a) a o = .ok .done k →
      exec (.astream p (.check par i j)) s = .next (arrayCheck k p a o par i j)) ∧
    (∀ par i j k, startable s p .vector (isVop 1) = some (q, o) →
      elementwise form2 none vaddL p (some (.check par i j)) (setProg s p v) v o = .ok .done k →
      exec (.vadd p (.check par i j)) s = .next (vectorCheck k p v o par i j)) ∧
    (∀ die, startable s p .array (isOp 3 0) = some (q, o) →
      exec (.azero p (.shared die)) s = .next (sharedError (setProg s p a) die)) ∧
    (∀ x k, startable s p .vector (isVop 1) = some (q, o) →
      elementwise form2 none vaddL p (some (.spUe x)) (setProg s p v) v o = .ok .done k →
      exec (.vadd p (.spUe x)) s = .next (chargeLog k p v o.idx 0x0305 (rCPY_SP_UE p.core)
        (BitVec.ofNat 64 (1 + fieldAt 18 1 (x / 8) + fieldAt 21 19 1 + fieldAt 33 22 v.ctx)))) ∧
    (∀ (fm : VecForm) (j i i2 j2 : Nat) (par : Bool) (vi : List Nat), laneHit v o fm (some (.check par i j)) j2 vi i2 = true ↔ i2 = i ∧ j2 = j) ∧
    (∀ n : Nat, MemoryFinds (.loupeCallStart n) [n / 2] ∧ MemoryFinds (fun e => .loupeCallComplete n e) [n / 2] ∧ MemoryFinds (.collectiveStart n) aDies ∧
      MemoryFinds (fun e => .collsegAccept n e) aDies ∧ MemoryFinds (fun e => .collectiveComplete n e) aDies ∧ MemoryFinds (fun e => .copy n e) aDies ∧
      MemoryFinds (fun e => .sealRange n e) aDies ∧ MemoryFinds (fun e => .sealVerify n e) aDies ∧ MemoryFinds (.watchedLineInvalidate n) portDie ∧
      MemoryFinds (fun e => .descriptorFetch n e) portDie) ∧
    MemoryFinds .fixerCallStart aDies ∧ MemoryFinds .passOneDone aDies ∧ MemoryFinds .fixerCallComplete aDies ∧
    MemoryFinds (.collseg none) aDies ∧ MemoryFinds (fun e => .rd none e) aDies ∧
    (∀ n, MemoryFinds (.collseg (some n)) aDies ∧ MemoryFinds (fun e => .rd (some n) e) [n / 4]) ∧
    (∀ hpa len rid, MemoryFinds (fun e => .uioRead hpa len rid e) portDie)

namespace Sys2Proof.Stated

/-- The state as an op of engine `e` finds it: its embedded wait has taken its count. -/
def atOp (s : State) (p : ProgRef) (e : Eng) (q : Prog) (o : OpSlot) : State := setProg s p (takeWait q e o)

/-- An op whose effect is made leaves its queue in phase `ph`, and what the host returned for it is used up. -/
def leaves (s : State) (p : ProgRef) (e : Eng) (ph : OpPhase) : State := endHost (opDone s p e ph) (whoOp p (engNo e))

/-- A copy op with `m` bytes of the runs `rs` moved: it leaves its queue with the last of them, else it goes on in its channel. -/
def copyGoes (s : State) (p : ProgRef) (e : Eng) (rs : List (Nat × Nat)) (m : Nat) : State :=
  if runBytes rs ≤ m then leaves s p e .done else opStays (endHost s (whoOp p (engNo e))) p e m

/-- The byte of device memory at `x` as its home gives it: a dirty copy before memory (R375). -/
def byteNow (s : State) (x : Nat) : Byte := (lineNow s (x / 64)).1.getD (x % 64) 0

end Sys2Proof.Stated

/-- A copy op at the head of its channel moves what its bursts in flight carry where its ranges are mapped and its accesses answer, and leaves its queue with
the last byte. LOAD puts the bytes read in its source pattern's order into scratchpad in its destination pattern's order; STORE writes them the other way,
with edge codes where coded; MOVE stays in the scratchpad; PUT writes the scratchpad of step core index TCORE. RREAD and RWRITE send one request for each
piece, at most 128 of the channel out at once, and the op waits for the replies. A LOAD of a line of which a beat on its way was in error charges
HBM_POISON at that line. -/
def Obligations.CopiesComplete : Prop :=
  ∀ (s : State) (p : ProgRef) (e : Eng) (q : Prog) (o : OpSlot),
    let q' := takeWait q e o
    let src := runsOf (cpSrc q' o)
    let dst := runsOf (cpDst q' o)
    let r : Req := ⟨whoOp p (engNo e), q'.ctx⟩
    let nSrc := nextBytes src o.mark
    let nDst := nextBytes dst o.mark
    (∀ gs bs s2 s3, startable s p e (isOp 2 0) = some (q, o) →
      rangesSegs q'.ctx false (cpSrc q' o).coded (atOp s p e q o) (joinRuns (runsAt src o.mark nSrc)) = .ok gs s2 →
      segsReadC r (cpSrc q' o).coded s2 gs = .ok bs s3 →
      exec (.load p e .none) s = .next (copyGoes (spPut s3 p (runsAt dst o.mark nSrc) bs) p e src (o.mark + nSrc))) ∧
    (∀ w gs bs s2 s3, beatIsData w = true → beatIsHeader w = false → beatOn s [dieOf s p.core] true false w = true → let s1 := meetBeat s w
      startable s p e (isOp 2 0) ≠ none → startable s1 p e (isOp 2 0) = some (q, o) →
      rangesSegs q'.ctx false (cpSrc q' o).coded (atOp s1 p e q o) (joinRuns (runsAt src o.mark nSrc)) = .ok gs s2 →
      segsReadC r (cpSrc q' o).coded s2 gs = .ok bs s3 → let a := lineOf (beatPpa w) * 64
      gs.any (touchesLine (beatPpa w)) = true →
      exec (.load p e (.wire w)) s = .next (chargeOp s3 p q' o.idx 0x0304 (some a) (accDetail s3 0x0304 a))) ∧
    (∀ gs s2 s3, startable s p e (isOp 2 1) = some (q, o) →
      rangesSegs q'.ctx true (cpDst q' o).coded (atOp s p e q o) (joinRuns (runsAt dst o.mark nDst)) = .ok gs s2 →
      segsWriteC r (cpDst q' o).coded s2 gs (spGather (coreOf s2 p.core) p.upper (runsAt src o.mark nDst)) = .ok () s3 →
      exec (.store p e .none) s = .next (copyGoes s3 p e dst (o.mark + nDst))) ∧
    (startable s p e (isOp 2 2) = some (q, o) → let s' := atOp s p e q o
      exec (.move p e .none) s = .next (copyGoes
        (spPut s' p (runsAt dst o.mark nDst) (spGather (coreOf s' p.core) p.upper (runsAt src o.mark nDst))) p e dst (o.mark + nDst))) ∧
    (∀ t u d, startable s p e (isOp 2 3) = some (q, o) → let s' := atOp s p e q o
      stepOf s' q'.step = some t → slotProg t (bits o.word 39 29) = some u → progOf s' u = some d → d.step = q'.step →
      d.sci = bits o.word 39 29 →
      exec (.put p e .none) s = .next (copyGoes
        (spPut s' u (runsAt dst o.mark nDst) (spGather (coreOf s' p.core) p.upper (runsAt src o.mark nDst))) p e dst (o.mark + nDst))) ∧
    (∀ s2 left, startable s p e (isOp 2 4) = some (q, o) → let s' := atOp s p e q o
      let ps := positions o.mark (remotePieces (cpSrc q' o).coded (dropRuns o.mark src))
      let now := ps.take (128 - copyOut s' p (e == .copy1))
      issueAll (fun s x => roomFor s x.2.2) (readPiece p (e == .copy1) o q'.ctx (bits o.word 51 40) (cpSrc q' o).coded) s' now = some (s2, left) →
      exec (.rread p e .none) s = .next (if now.length = ps.length ∧ left = 0 then leaves s2 p e (.remote (copyOut s2 p (e == .copy1)))
        else opStays (endHost s2 (whoOp p (engNo e))) p e (o.mark + runBytes ((now.take (now.length - left)).map (·.2))))) ∧
    (∀ s2 left, startable s p e (isOp 2 5) = some (q, o) → let s' := atOp s p e q o
      let ps := positions o.mark (remotePieces (cpDst q' o).coded (dropRuns o.mark dst))
      let now := ps.take (128 - copyOut s' p (e == .copy1))
      let bs := spGather (coreOf s' p.core) p.upper src
      issueAll (fun _ _ => true) (writePiece p (e == .copy1) o q'.ctx (bits o.word 51 40) (cpDst q' o).coded bs) s' now = some (s2, left) →
      exec (.rwrite p e .none) s = .next (if now.length = ps.length ∧ left = 0 then leaves s2 p e (.remote (copyOut s2 p (e == .copy1)))
        else opStays (endHost s2 (whoOp p (engNo e))) p e (o.mark + runBytes ((now.take (now.length - left)).map (·.2)))))

/-- A read of a CVA range that an engine completes changes no memory, poison, cache, core or ring: only cached translations, the model's count of free
values (log entry 1), registers (the log of an uncorrectable line that a page-table walk met where a cached translation still served, and the count of
snoops that missed) and the directory, which learns of a copy that its holder had dropped in silence, may differ afterwards. -/
def Obligations.ReadsChangeNothingButTranslations : Prop :=
  ∀ (s t : State) (r : Req) (cva n : Nat) (coded : Bool) (bs : List Byte), cvaRead s r cva n coded = .ok bs t →
    t = { s with
      tlb := t.tlb, free := t.free, regs := t.regs
      coh := { s.coh with dir := t.coh.dir } } ∧ s.free ≤ t.free

/-- A write of device memory that completes stores its bytes at its addresses. The other bytes of the lines it touches are stored as their home gave
them before, dirty copies merged, and memory outside those lines is untouched; cores, tables, the contact-sheet window, fuses and flash
stand, and so do registers, but for the counts of snoops that found a copy dropped. (Cached lines are 64 bytes, memory in canonical form.) -/
def Obligations.DeviceWritesAreExact : Prop :=
  ∀ (s t : State) (a : Nat) (bs : List Byte), memWf s = true → (∀ l d, dirtyCopy s l = some d → d.length = 64) →
    devWrite s a bs = .ok () t →
    (∀ i, i < bs.length → memGet t (a + i) = bs.getD i 0) ∧
    (∀ x, ¬ (a ≤ x ∧ x < a + bs.length) → x / 64 ∈ linesOf a bs.length → memGet t x = byteNow s x) ∧
    (∀ x, x / 64 ∉ linesOf a bs.length → memGet t x = memGet s x) ∧
    (∀ r, (∀ d, r ≠ rCOH_HOME_RACE d) → regVal t r = regVal s r) ∧ t.cores = s.cores ∧ t.tables = s.tables ∧ t.csw = s.csw ∧ t.fuses = s.fuses ∧ t.flash = s.flash ∧ t.out = s.out

/-- END with every earlier op completed ends the core program: its SAT and NF join its step's and its half of the core is free. The last END of a step
reads the FP32 loss at the step's location, closes the step with status 0 (0x0601 where the update was skipped for non-finite gradients), counters
and report, or, for a contact-sheet command, with the command's own work done. -/
def Obligations.EndOfProgramAndStep : Prop :=
  ∀ (s : State) (p : ProgRef) (q : Prog) (w : Op) (t : StepRec),
    seqIs s p 0 0 = some (q, w) → (∀ e, (engOf q e).queue = [] ∧ (engOf q e).run = []) → q.pend = [] → stepOf s q.step = some t →
    let d := if p.upper then (coreOf s p.core).drainHi else (coreOf s p.core).drainLo
    let t' : StepRec := { t with
      endedN := t.endedN + 1, sat := t.sat || d.sat, nf := t.nf || d.nf, ended := tput t.ended q.sci q.tallies, quiet := 0 }
    let ended (s : State) : State := freeHalf (setStep s t') p false
    (t.endedN + 1 ≠ t.nprog → exec (.endProg p) s = .next (ended s)) ∧
    (∀ bs s2, t.endedN + 1 = t.nprog → t.csw = none → cvaRead s ⟨whoSched, t.ctx⟩ t.loss 4 false = .ok bs s2 →
      exec (.endProg p) s = .next (closeStep (ended (endHost s2 whoSched)) t'
        (if t.nonfin then 0x0601 else 0) (some (BitVec.ofNat 32 (leNat bs))))) ∧
    (∀ u s2, t.endedN + 1 = t.nprog → t.csw = some u → cswWork s = .ok () s2 → t.nonfin = false →
      exec (.endProg p) s = .next (closeStep (ended s2) t' 0 none))

namespace Sys2Proof.Stated

/-- The loupe a TABLE op of a core of die `d` names: UNIT[3:0], or with UNIT[15] the loupe of the die with fewer calls queued, the first
on a tie (R186). -/
def loupeFor (s : State) (d unit_ : Nat) : Nat :=
  if unit_.testBit 15 then (if (loupeOf s (2 * d)).queue.length ≤ (loupeOf s (2 * d + 1)).queue.length then 2 * d else 2 * d + 1)
  else unit_ % 16

/-- `c` is the TABLE op of opcode `k` of `p`: its call joins the queue of its loupe, which has a place, and the op waits for it. -/
def TableOp (c : Instr) (p : ProgRef) (k : Nat) : Prop :=
  ∀ s q o, startable s p .offload (isOp 5 k) = some (q, o) →
    let n := loupeFor s (dieOf s p.core) (bits o.word 79 64)
    (loupeOf s n).queue.length < 16 →
    exec c s = .next { afterOp s p .offload q o (coreAtOp s p .offload q o) 0 (.called (s.uid + 1)) with
      uid := s.uid + 1,
      loupes := tset Loupe.idle s.loupes n { loupeOf s n with
        queue := (loupeOf s n).queue ++ [⟨s.uid + 1, .op p q.step q.sci o.idx, q.ctx, callCva q o, some k⟩] } }

/-- `c` is the FIXER op of opcode `k` of `p`: its call joins the fixers' queue, or waits in the offload port while 16 are queued or an earlier
call waits. -/
def FixerOp (c : Instr) (p : ProgRef) (k : Nat) : Prop :=
  ∀ s q o, startable s p .offload (isOp 6 k) = some (q, o) →
    exec c s = .next (
      if 16 ≤ s.fixers.queue.length ∨ waitingCalls (atOp s p .offload q o) ≠ [] then
        { afterOp s p .offload q o (coreAtOp s p .offload q o) 0 (.waiting (s.uid + 1)) with uid := s.uid + 1 }
      else { afterOp s p .offload q o (coreAtOp s p .offload q o) 0 (.called (s.uid + 1)) with
        uid := s.uid + 1,
        fixers := { s.fixers with
          queue := s.fixers.queue ++ [⟨s.uid + 1, .op p q.step q.sci o.idx, q.ctx, callCva q o, decide (k = 1), none⟩] } })

/-- `c` is the REDUCE op of opcode `k` of `p`: once its call block is read, its collective takes the next number of its group and waits. -/
def ReduceOp (c : Instr) (p : ProgRef) (k : Nat) : Prop :=
  ∀ s q o b s2, startable s p .offload (isOp 7 k) = some (q, o) →
    callBlock (atOp s p .offload q o) ⟨whoOp p 4, q.ctx⟩ (callCva q o) = .ok b s2 →
    exec c s = .next (leaves { s2 with
      uid := s2.uid + 1,
      pod := { s2.pod with
        colls := s2.pod.colls ++ [⟨s2.uid + 1, .op p q.step q.sci o.idx, q.ctx, sbGRP b, k, callCva q o, b, none, false,
          tget 0 s2.pod.cseqs (sbGRP b), 0, [], 0, 0, 0, 0, 0⟩],
        cseqs := tset 0 s2.pod.cseqs (sbGRP b) ((tget 0 s2.pod.cseqs (sbGRP b) + 1) % 4096) } }
      p .offload (.called (s2.uid + 1)))

end Sys2Proof.Stated

/-- A TABLE, FIXER or REDUCE op leaves the offload port's queue and waits for the work it called: a TABLE op's call joins the queue of its loupe, a
FIXER op's the queue of the fixers, or, while 16 are queued there or an earlier call waits, the op waits in the port and FIXER_CALL_ENQUEUE puts it
into the queue once a place is free and no earlier call waits; a REDUCE op's call block is read and its collective takes its group's next number and
waits. Nothing else changes. -/
def Obligations.OffloadedCalls : Prop :=
  ∀ p : ProgRef,
    (TableOp (.gather p) p 0 ∧ TableOp (.pool p) p 1 ∧ TableOp (.scatterAdd p) p 2 ∧ TableOp (.rowupdate p) p 3) ∧
    (FixerOp (.run p) p 0 ∧ FixerOp (.update p) p 1) ∧
    (ReduceOp (.allreduce p) p 0 ∧ ReduceOp (.reduceToRoot p) p 1 ∧ ReduceOp (.broadcast p) p 2) ∧
    (∀ s q o n, progOf s p = some q →
      q.off.run.find? (fun o => match o.phase with | .waiting _ => true | _ => false) = some o → o.phase = .waiting n → n ≠ 0 →
      s.fixers.queue.length < 16 → (∀ m ∈ waitingCalls s, n ≤ m) →
      exec (.fixerCallEnqueue p) s = .next { s with
        uid := s.uid + 1,
        cores := tset Core.fresh s.cores p.core (withProg (coreOf s p.core) p.upper (some { q with off := { q.off with
          run := q.off.run.map (fun x => if x.phase = .waiting n then { x with phase := .called (s.uid + 1) } else x) } })),
        fixers := { s.fixers with
          queue := s.fixers.queue ++ [⟨s.uid + 1, .op p q.step q.sci o.idx, q.ctx, callCva q o, isOp 6 1 o.word, none⟩] } })

/-- A loupe with no running call takes the oldest of its queue, whose checks pass: its rows are fetched and its remote requests sent, as far as 1,024 in
flight and the room for replies let them; a call with no remote part sends none. With its remote work answered the call's effect is made (a GATHER delivers the bytes of its rows in index order), a
ROWUPDATE swaps CURSOR to 0, the report is written where one is asked for, and the caller's op or descriptor has its end. -/
def Obligations.LoupeCalls : Prop :=
  ∀ (s : State) (n : Nat),
    (∀ c l r s2, n < 16 → unitUp s 4 n (n / 2) = true → loupeOf s n = ⟨c :: l, none⟩ → loupeStart s n c = .ok r s2 →
      let s3 := setLoupe s2 n ⟨l, some r⟩
      (∀ s4 r4, issueAllOf n s3 r = .ok (s4, r4) → exec (.loupeCallStart n .none) s = .next (setRun s4 n (some r4))) ∧
      (leftToIssue s3 r = false → exec (.loupeCallStart n .none) s = .next s3)) ∧
    (∀ r k s2, n < 16 → unitUp s 4 n (n / 2) = true → (loupeOf s n).run = some r → r.tags = [] → leftToIssue s r = false → r.fixPart = 0 →
      r.stage = 0 → loupeEffect s n r = .ok k s2 → lcOP r.block ≠ 3 → lcREPCVA r.block = 0 →
      exec (.loupeCallComplete n .none) s = .next
        (endCall (endHost (setRun (setRun s2 n (some { r with stage := 1, bursts := r.bursts + k })) n none) (whoLoupe n)) r.call.caller r.call.uid)) ∧
    (∀ r k s2 s3 s4, n < 16 → unitUp s 4 n (n / 2) = true → (loupeOf s n).run = some r → r.tags = [] → leftToIssue s r = false →
      (r.fixPart = 0 ∨ r.fixPart = 3) → r.stage = 0 → loupeEffect s n r = .ok k s2 → lcOP r.block = 3 →
      let r1 := { r with stage := 1, bursts := r.bursts + k }
      let r2 := { r with stage := 2, bursts := r.bursts + k }
      swapCursor (setRun s2 n (some r1)) r1 = .ok () s3 → lcREPCVA r.block ≠ 0 →
      cvaWrite (setRun s3 n (some r2)) ⟨whoLoupe n, r.call.ctx⟩ (lcREPCVA r.block) (loupeReport r2) false = .ok () s4 →
      exec (.loupeCallComplete n .none) s = .next (endCall (endHost (setRun s4 n none) (whoLoupe n)) r.call.caller r.call.uid)) ∧
    (∀ r k s2, lcOP r.block = 0 →
      loupeEffect s n r = .ok k s2 → ∃ s3, callerWrite s n r.call r.block (callerRanges (tableReg s (lcTID r.block)).entry r.block)
        (r.ids.flatMap (rowBytesOf (tableReg s (lcTID r.block)) r)) = .ok () s3 ∧ s2 = s3 ∧ k = 0)

/-- The fixers with no running call take the oldest queued, once its block, segments and programs are right. With pass one done the partials combine
in their order and the package decides alone, or enters the ALLREDUCE of its group. A non-finite gradient skips the update and marks the step; with
MAXNORM 0 and a finite sum pass two runs with clipping factor 1.0. Pass two, RUN and row calls run their chunks and finish; a skipped call finishes
without writing. -/
def Obligations.FixerCalls : Prop :=
  ∀ s : State,
    (∀ c l r s2, serving s = true → awake s = true → s.fixers.run = none → s.fixers.queue = c :: l → fixStart s c = .ok r s2 →
      exec (.fixerCallStart .none) s = .next { s2 with fixers := { s2.fixers with queue := l, run := some r } }) ∧
    (∀ r cs s2 s3 t, serving s = true → s.fixers.run = some r → r.phase = .passOne → callChunks s r = .ok cs s2 →
      passOne r.call.ctx (useFree s2 cs.length) ((tileOrder s2 cs.length).filterMap (fun i => cs[i]?)) [] = .ok t s3 →
      let s4 := setFix (endHost (cs.foldl (fun (s : State) c => match fixerOf s r.call.ctx c with | .ok f _ => countChunk s f | _ => s) s3) whoFixers)
        (some { r with elems1 := cs.foldl (fun a c => a + c.n) 0, chunks := cs.length })
      exec (.passOneDone .none) s = .next (
        if fcGROUP r.block = 0 then decideUpdate s4 (combine t).1 (combine t).2
        else enterColl s4 { r with elems1 := cs.foldl (fun a c => a + c.n) 0, chunks := cs.length } (combine t))) ∧
    (∀ r cs s2 s3 r3, serving s = true → s.fixers.run = some r → (r.phase = .passTwo ∨ r.phase = .runRows) → callChunks s r = .ok cs s2 →
      runChunks s2 r (cs.drop r.next) = .ok () s3 → s3.fixers.run = some r3 →
      exec (.fixerCallComplete .none) s = .next (finishFix s3 r3)) ∧
    (∀ r, serving s = true → s.fixers.run = some r → r.phase = .skipped → exec (.fixerCallComplete .none) s = .next (finishFix s r)) ∧
    (∀ r sum count, s.fixers.run = some r → count ≠ 0 →
      decideUpdate s sum count = markSkip (setFix s (some { r with phase := .skipped, sum, count, next := 0 })) r.call.ctx) ∧
    (∀ r sum, s.fixers.run = some r → fcMAXNORM r.block = 0 → (rnd32 ((ofF32 sum.toNat).quot (.fin false (fcNREPL r.block) 0))).nonFinite = false →
      decideUpdate s sum 0 = setFix s (some { r with phase := .passTwo, sum, count := 0, clip := 0x3F800000#32, next := 0 }))

/-- The oldest collective of a group that runs none starts, with the number it took at its call, and opens its segments. A COLLSEG of a sequence or
sender that is past is counted and dropped, one whose collective is not called yet is held with its slots, and one that its frame still needs joins
the sum, also when it was held first and is accepted later. A collective whose results (or, at REDUCE_TO_ROOT, contributions) are all made writes its
report where one is asked for and ends its call. -/
def Obligations.Collectives : Prop :=
  ∀ s : State,
    (∀ grp c, serving s = true → awake s = true → collOf s grp = none → s.pod.colls.find? (fun c => c.grp == grp) = some c →
      (c.fix.isSome = true ∨ stkOk s c = true) →
      exec (.collectiveStart grp .none) s = .next (advanceColl .none (setColl s
        { c with started := true, nseg := (sbNELEM c.block + 511) / 512, opened := List.replicate 8 0 }) grp)) ∧
    (∀ src x s2, arrive s src tCOLLSEG = .ok x s2 →
      (verdict s2 x = .late → exec (.collseg src .none) s = .next (bump s2 (rSTK_STATE (stkOf (csSEG x))) 37 22)) ∧
      (verdict s2 x = .hold → exec (.collseg src .none) s = .next (holdSeg (takeHeld s src) src x)) ∧
      (∀ c f, verdict s2 x = .up c f → f.need ≠ [x.src] → x.src ∈ f.need → f.need.Nodup →
        exec (.collseg src .none) s = .next (setFrame (setColl s2 { c with bytesIn := c.bytesIn + csLen x })
          (joinUp { c with bytesIn := c.bytesIn + csLen x } f x))) ∧
      (∀ c f s3, verdict s2 x = .up c f → f.need = [x.src] →
        let c' := { c with bytesIn := c.bytesIn + csLen x }
        closeFrame (setFrame (setColl s2 c') (joinUp c' f x)) c' (joinUp c' f x) = .ok (.ok ()) s3 →
        exec (.collseg src .none) s = .next (advanceColl .none s3 c.grp)) ∧
      (∀ c s3, verdict s2 x = .down c →
        takeResult s2 { c with bytesIn := c.bytesIn + csLen x } (csSEG x) (csPay x) (csCnt x) = .ok (.ok ()) s3 →
        exec (.collseg src .none) s = .next s3)) ∧
    (∀ n p x, s.pod.waiting[n]? = some (some p, x) →
      let s1 := freeSlots { s with pod := { s.pod with waiting := s.pod.waiting.eraseIdx n } } p x
      (∀ c f, verdict s1 x = .up c f → f.need ≠ [x.src] → x.src ∈ f.need → f.need.Nodup →
        exec (.collsegAccept n .none) s = .next (setFrame (setColl s1 { c with bytesIn := c.bytesIn + csLen x })
          (joinUp { c with bytesIn := c.bytesIn + csLen x } f x)))) ∧
    (∀ grp c, serving s = true → collOf (advanceColl .none s grp) grp = some c → collDone (advanceColl .none s grp) c = true → sbREP c.block = 0 →
      exec (.collectiveComplete grp .none) s = .next
        (endCall (endHost (dropColl (advanceColl .none s grp) c) (whoColl c.uid)) c.caller c.uid)) ∧
    (∀ grp c s2, serving s = true → collOf (advanceColl .none s grp) grp = some c → collDone (advanceColl .none s grp) c = true → sbREP c.block ≠ 0 →
      cvaWrite (advanceColl .none s grp) ⟨whoColl c.uid, c.ctx⟩ (sbREP c.block) (collReport c) false = .ok () s2 →
      exec (.collectiveComplete grp .none) s = .next (endCall (endHost (dropColl s2 c) (whoColl c.uid)) c.caller c.uid))

namespace Sys2Proof.Stated

/-- A descriptor just taken from its ring. -/
def justTaken (d : Desc) : Running := ⟨d, false, 0, 0, 0, 0, none, [], 0, []⟩

/-- Ring `n` may start its front descriptor `d`: the part serves and is awake, the ring is valid, not stopped and runs none, the fence before
it is met, its context takes descriptors, and the header's reserved fields are zero. -/
def MayStart (s : State) (n : Nat) (d : Desc) (t : List Desc) : Prop :=
  serving s = true ∧ awake s = true ∧ (ringOf s n).v = true ∧ (ringOf s n).err = false ∧ (unitOf s n).running = none ∧
    (unitOf s n).ready = d :: t ∧ (dFlag d.word 2 = true → fenceMet s n d.stamp false = true) ∧ ctxClosed s (ringOf s n).ctx = false ∧
    headReserved d.word = false

/-- `x` is what ring `n` runs as its command comes, in state `s1`: its front descriptor, which starts, or the one running already. -/
def Runs (s : State) (n : Nat) (x : Running) (s1 : State) : Prop :=
  (∃ d t, MayStart s n d t ∧ x = justTaken d ∧ s1 = setUnit s n { unitOf s n with
    ready := t, running := some x }) ∨
  (serving s = true ∧ awake s = true ∧ (ringOf s n).v = true ∧ (unitOf s n).running = some x ∧ x.report = none ∧ s1 = s)

end Sys2Proof.Stated

open Sys2Proof.Stated

/-- NOP completes with status 0. FENCE, once nothing made ready before it is incomplete in its scope, discards the context's cached translations where
INVTLB says so (all contexts' with ALL) and completes. SIGNAL KIND 0 writes VALUE to its word; KIND 1 sends one atomic add to the word's home (of a
host word: a read and a write, by log entry 32); KIND 2 is a doorbell of a local ring; KIND 3 sends one DBELL and waits for its
acknowledgement. -/
def Obligations.NopFenceAndSignal : Prop :=
  ∀ (s s1 : State) (n : Nat) (x : Running), Runs s n x s1 →
    let d := x.desc.word
    let r := ringOf s n
    (dType d = 9 → dBytes d 63 16 = 0 → exec (.descNop n) s = .next (report s1 n (Report.status_ 0))) ∧
    (dType d = 5 → bits d 511 130 = 0 → (bit d 129 = true → r.ctx = 0) → fenceMet s1 n x.desc.stamp (bit d 129) = true →
      exec (.fence n) s = .next (report (if bit d 128 then flushTlb s1 (if bit d 129 then none else some r.ctx) else s1) n (Report.status_ 0))) ∧
    (∀ s2, isSignal 0 d = true → sgBad d = false →
      cvaWrite s1 ⟨whoRing n, r.ctx⟩ (sgAddr d) (leBytes 8 (sgValue d)) false = .ok () s2 →
      exec (.signalWrite n) s = .next (descDone s2 n (Report.status_ 0))) ∧
    (∀ g s2, isSignal 1 d = true → sgBad d = false → x.begun = false → xlate s1 r.ctx (sgAddr d) true false = .ok g s2 → g.host = false →
      exec (.signalAdd n) s = .next (post (setRunning s2 n { x with begun := true })
        (.req ⟨.ring n, g.addr / 64, .ath (g.addr % 64) false (BitVec.ofNat 64 (sgValue d)) 0⟩))) ∧
    (∀ g s2 bs s3 s4, isSignal 1 d = true → sgBad d = false → x.begun = false → xlate s1 r.ctx (sgAddr d) true false = .ok g s2 → g.host = true →
      hostRead s2 ⟨whoRing n, r.ctx⟩ g.addr 8 = .ok bs s3 →
      hostWrite s3 ⟨whoRing n, r.ctx⟩ g.addr (leBytes 8 (leNat bs + sgValue d)) = .ok () s4 →
      exec (.signalAdd n) s = .next (descDone s4 n (Report.status_ 0))) ∧
    (isSignal 2 d = true → sgBad d = false →
      exec (.signalRing n) s = .next (report (ringBell s1 (sgRing d) (BitVec.ofNat 64 (sgValue d))) n (Report.status_ 0))) ∧
    (∀ s2, isSignal 3 d = true → sgBad d = false → x.begun = false →
      issueReq (setRunning s1 n { x with begun := true }) r.ctx tDBELL (sgPkg d) 0 8 false (BitVec.ofNat 64 (sgRing d))
        (padSlots (leBytes 8 (sgValue d))) (.dbell n) = some s2 →
      exec (.signalRemoteRing n) s = .next s2)

/-- A descriptor of a context that is tearing down, gone or free is refused with CTX_GONE and has no effect; one whose header holds a reserved bit is
refused with 0x0606, whatever its type; the report of an AUTH names its CMD. Only the report is made: memory, contexts and tables stand. -/
def Obligations.RefusedDescriptors : Prop :=
  ∀ (s : State) (n : Nat) (d : Desc) (t : List Desc), serving s = true → awake s = true → (ringOf s n).v = true → (ringOf s n).err = false →
    (unitOf s n).running = none → (unitOf s n).ready = d :: t → (dFlag d.word 2 = true → fenceMet s n d.stamp false = true) →
    let taken (code : Nat) := setUnit s n { unitOf s n with
      ready := t, running := some { justTaken d with report := some (refusal d.word code) } }
    let refuses (c : Instr) : Prop :=
      (ctxClosed s (ringOf s n).ctx = true → exec c s = .next (taken 0x0605)) ∧
      (ctxClosed s (ringOf s n).ctx = false → headReserved d.word = true → exec c s = .next (taken 0x0606))
    (dType d.word = 9 → refuses (.descNop n)) ∧ (dType d.word = 5 → refuses (.fence n)) ∧
    (dType d.word = 2 → refuses (.copy n .none)) ∧ (dType d.word = 3 → bit d.word 256 = false → refuses (.sealRange n .none)) ∧
    (dType d.word = 3 → bit d.word 256 = true → refuses (.sealVerify n .none)) ∧
    (dType d.word = 4 → bit d.word 128 = false → refuses (.tableCall n)) ∧
    (dType d.word = 4 → bit d.word 128 = true → refuses (.tableRegister n)) ∧
    (dType d.word = 7 → refuses (.loadModel n)) ∧ (dType d.word = 8 → bit d.word 144 = false → refuses (.endContext n)) ∧
    (dType d.word = 8 → bit d.word 144 = true → refuses (.endContextAbort n)) ∧ (dType d.word = 16 → refuses (.auth n))

/-- COPY and the two modes of SEAL go a piece of 2 MiB each time they are run (one after the other, log entry 94) and complete after their
last byte: COPY with the byte count in DETAIL1, a seal with a new edge code on every block, a verify with its mismatches and the first one's CVA and
nothing written. A table call joins its loupe's queue. A registration removes its own context's table (V 0) or keeps the entry and its partition map as
read. -/
def Obligations.MemoryDescriptors : Prop :=
  ∀ (s s1 : State) (n : Nat) (x : Running), Runs s n x s1 →
    let d := x.desc.word
    let r := ringOf s n
    (∀ a b ps s2 s3 s4, dType d = 2 → bits d 511 323 = 0 → copySides s1 n r.ctx x = .ok (some (a, b, ps)) s2 →
      (if x.begun then Acc.ok () s2 else copyAccept s2 r.ctx a b) = .ok () s3 →
      copyPiece (setRunning s3 n { x with
        pats := ps, begun := true }) n r.ctx x.pos a b = .ok () s4 →
      let pos := min (cpBytes a) (x.pos + 2 ^ 21)
      let s5 := setRunning s4 n { x with
        pats := ps, begun := true, pos := pos }
      exec (.copy n .none) s = .next (if pos = cpBytes a then descDone s5 n (copyReport 0 pos) else s5)) ∧
    (∀ bs k s2 s3, dType d = 3 → bit d 256 = false → bits d 511 257 = 0 →
      (if x.begun then Acc.ok () s1 else sealAccept s1 r.ctx d).bind (fun _ s => sealBlocksOf s r.ctx d x.pos) = .ok bs s2 →
      sealRun bs s2 0 = .ok (k, none) s3 →
      let pos := min (slLen d) (x.pos + 2 ^ 21)
      let s4 := setRunning s3 n { x with
        begun := true, pos := pos }
      exec (.sealRange n .none) s = .next (if pos = slLen d then descDone s4 n (Report.status_ 0) else s4)) ∧
    (∀ bs k at_ s2 s3, dType d = 3 → bit d 256 = true → bits d 511 257 = 0 →
      (if x.begun then Acc.ok () s1 else sealAccept s1 r.ctx d).bind (fun _ s => sealBlocksOf s r.ctx d x.pos) = .ok bs s2 →
      verifyRun bs s2 (slCva d + x.pos) (x.bad, x.badAt) = .ok (k, at_) s3 →
      let pos := min (slLen d) (x.pos + 2 ^ 21)
      let s4 := setRunning s3 n { x with
        begun := true, pos := pos, bad := k, badAt := at_ }
      exec (.sealVerify n .none) s = .next (if pos = slLen d then descDone s4 n { Report.status_ 0 with
        detail0 := k % 2 ^ 32, detail1 := at_ } else s4)) ∧
    (dType d = 4 → bit d 128 = false → tbReserved d = false → tbUnit d / 16 % 2048 = 0 → x.begun = false →
      let m := pickLoupe s1 (tbUnit d) (List.range 16)
      queuedAt s1 m < 16 →
      exec (.tableCall n) s = .next (nextUid (setLoupe (setRunning s1 n { x with
        begun := true, uid := callUid s1 }) m { loupeOf s1 m with
        queue := (loupeOf s1 m).queue ++ [⟨callUid s1, .desc n, r.ctx, tbCva d, none⟩] }))) ∧
    (∀ bs s0 s2, dType d = 4 → bit d 128 = true → tbReserved d = false →
      cvaRead s1 ⟨whoRing n, r.ctx⟩ (tbCva d) 64 false = .ok bs s0 → tableBusy s0 n (tbTid d) = .ok false s2 →
      let e : BitVec 512 := BitVec.ofNat 512 (leNat bs)
      (teV e = false → teCtx e = r.ctx →
        exec (.tableRegister n) s = .next (descDone { s2 with tables := tdel s2.tables (tbTid d) } n (Report.status_ 0))) ∧
      (∀ mb s3, teV e = true → entryOk r.ctx e = true → cvaRead s2 ⟨whoRing n, r.ctx⟩ (teMapCva e) (32 * 2 ^ tePbits e) false = .ok mb s3 →
        let map := chunks 256 32 (2 ^ tePbits e) mb
        let held := (s3.tables.filter (fun t => t.1 != tbTid d)).foldl (fun n t => n + 32 * t.2.map.length) 0
        map.all (bucketOk s3 e) = true → held + 32 * map.length ≤ 2 ^ 26 →
        exec (.tableRegister n) s = .next (descDone { s3 with tables := tset ⟨0, []⟩ s3.tables (tbTid d) ⟨e, map⟩ } n
          (Report.status_ 0))))

/-- A seal that meets no poisoned line, and whose codes' lines no host holds and no home has in service, stores for each block, as its edge code, the
CRC-32C of the block's bytes as its home gives them (dirty copies merged): no cache keeps an older code. It changes no byte below the edge-code region,
in memory or in a cache, and no core, table, window, fuse, flash, message sent or step. (Cached lines are 64 bytes, memory in canonical form.) -/
def Obligations.SealStoresCodes : Prop :=
  ∀ (s t : State) (bs : List Nat) (k : Nat), memWf s = true → (∀ l d, dirtyCopy s l = some d → d.length = 64) →
    (∀ b, b ∈ bs → (b + 1) * 4096 ≤ edgeBase ∧ lineBlocked s true (slotOf (b * 4096) / 64) = false) → sealRun bs s 0 = .ok (k, none) t →
    k = bs.length ∧
    (∀ b, b ∈ bs → codeAt t (b * 4096) = crc32c ((List.range 4096).map (fun i => byteNow s (b * 4096 + i)))) ∧
    (∀ a, a < edgeBase → byteNow t a = byteNow s a ∧ memGet t a = memGet s a) ∧
    t.cores = s.cores ∧ t.tables = s.tables ∧ t.csw = s.csw ∧ t.fuses = s.fuses ∧ t.flash = s.flash ∧ t.out = s.out ∧ t.sched = s.sched

/-- STEP of a resident model, in a context that has no step and no STEP handed over before it, joins the order of waiting steps once its entry and
extents are checked. LOAD_MODEL, with no
context live and no other load past its check, first lets the resident model go; LEN 0 then completes, and an image that passes its checks becomes the
model, with its counts in the details and its SHA3-256 in the measurement. END_CONTEXT makes an open context ENDING, or with ABORT tears it down with
CTX_GONE; it is held as pending there, and refused for a free slot. -/
def Obligations.StepModelAndEndContext : Prop :=
  ∀ (s s1 : State) (n : Nat) (x : Running), Runs s n x s1 →
    let d := x.desc.word
    let r := ringOf s n
    let begun (s : State) : State := setRunning s n { x with begun := true }
    (∀ m e s2, dType d = 1 → bits d 159 144 = 0 → dBytes d 63 24 = 0 → s.pod.holdSteps = false → x.begun = false →
      let x1 : Running := if (unitOf s n).running.isNone then { x with pos := s1.sched.stamp } else x
      let s1 := if (unitOf s n).running.isNone then
        setRunning { s1 with sched := { s1.sched with stamp := s1.sched.stamp + 1 } } n x1 else s1
      (ctxOf s1 r.ctx).st ≠ .ending → s1.sched.model = some m → r.ctx ≠ 0 → stNo d < m.nsteps →
      s1.sched.steps.any (fun t => t.ctx == r.ctx) = false → earlierStep s1 n r.ctx x1.pos = false →
      (stepEntry s1 m (stNo d)).bind (fun e s => (stepCheck s m r.ctx e).bind (fun b s => .ok (e, b) s)) = .ok (e, none) s2 →
      let s3 := endHost s2 whoSched
      exec (.step n) s = .next (joinOrder (setRunning s3 n { x1 with
        begun := true, uid := s3.uid }) (newStep s3 n r x1 e (m.upds.contains (stNo d))))) ∧
    (dType d = 7 → dBytes d 63 32 = 0 → r.ctx = 0 → (x.begun = true ∨ (anyLive s1 = false ∧ otherLoad s1 n = false)) →
      let gone := begun (setMlog { s1 with sched := { s1.sched with model := none } } 1 (zeros 32))
      (dBytes d 31 24 = 0 → exec (.loadModel n) s = .next (report gone n (Report.status_ 0))) ∧
      (∀ gs s2 m s3 bs s4, dBytes d 31 24 ≠ 0 → segsOf gone 0 (dBytes d 23 16) (dBytes d 31 24) false false = .ok gs s2 →
        lookImage s2 (dBytes d 23 16) (dBytes d 31 24) = .ok (.ok m) s3 → imageRead s3 m 0 m.len = .ok bs s4 →
        let s5 := setMlog (endHost s4 whoSched) 1 (Config.sha3 bs)
        exec (.loadModel n) s = .next (report { s5 with
          sched := { s5.sched with model := some m }
          sec := { s5.sec with loads := s5.sec.loads + 1 } } n { Report.status_ 0 with
          detail0 := m.nsteps, detail1 := m.nprof + 65536 * m.nfix }))) ∧
    (dType d = 8 → bit d 144 = false → ecBad s n d = false → x.begun = false →
      let c := ecCtx d
      ((ctxOf s1 c).st = .openS → exec (.endContext n) s =
        .next (holdEnd (begun (setCtx s1 c { ctxOf s1 c with st := .ending })) n c)) ∧
      ((ctxOf s1 c).st = .ending ∨ (ctxOf s1 c).st = .teardown → exec (.endContext n) s = .next (holdEnd (begun s1) n c)) ∧
      ((ctxOf s1 c).st = .free → exec (.endContext n) s = .next (report s1 n (Report.status_ 0x0606)))) ∧
    (dType d = 8 → bit d 144 = true → ecBad s n d = false → x.begun = false →
      let c := ecCtx d
      ((ctxOf s1 c).st = .openS ∨ (ctxOf s1 c).st = .ending → exec (.endContextAbort n) s =
        .next (beginTeardown (holdEnd (begun s1) n c) c 0x0605 0x0605 0 none)) ∧
      ((ctxOf s1 c).st = .teardown → exec (.endContextAbort n) s = .next (holdEnd (begun s1) n c)) ∧
      ((ctxOf s1 c).st = .free → exec (.endContextAbort n) s = .next (report s1 n (Report.status_ 0x0606))))

/-- AUTH in its turn copies its payload and checks its tag, then its counter. With both right the counter is appended to its log and the command accepted; a
wrong tag is 0x0501, and a counter not above the kept one 0x0502, which leave the flash and the commands as they were. -/
def Obligations.AuthAccepted : Prop :=
  ∀ (s s1 : State) (n : Nat) (x : Running), Runs s n x s1 → dType x.desc.word = 0x10 → auBad s n x.desc.word = false → x.begun = false →
    authTurn s1 n x.desc.stamp = true → ∀ (key pl : List Byte) (s2 : State), s1.flash.current = some key →
    cvaRead s1 ⟨whoRing n, 0⟩ (auCva x.desc.word) (auLen x.desc.word) false = .ok pl s2 →
    let d := x.desc.word
    let good := kmac key csAuth ((leBytes 64 d.toNat).take 48 ++ pl) 16 = (leBytes 64 d.toNat).drop 48
    let s3 := endHost (setRunning s2 n { x with begun := true }) (whoRing n)
    (good → lastCounter s2 < auCounter d →
      exec (.auth n) s = .next { s3 with
        flash := appendCtr s3.flash (ctrRecord key (auCounter d))
        sec := { s3.sec with auth := some (n, true, pl) } }) ∧
    (¬ good → exec (.auth n) s = .next (descDone s2 n (auReport d 0x0501 false))) ∧
    (good → auCounter d ≤ lastCounter s2 → exec (.auth n) s = .next (descDone s2 n (auReport d 0x0502 false)))

/-- An accepted option write puts the image, with its new GENERATION, DIGEST and TAG, into the slot not written last. An accepted firmware image that passes
every check goes to the slot of its kind that did not boot, and its revocations and committed SVN are fused. A key rotation keeps the old key as
previous and installs the decrypted new one, or makes the package unowned. Each ends with status 0 and its counter. -/
def Obligations.KeyFirmwareAndOptionCommands : Prop :=
  ∀ (s : State) (n : Nat) (x : Running) (pl : List Byte), serving s = true →
    (∀ key, authOf s 1 = some (n, x, pl) → s.flash.current = some key → newImageOk pl = true →
      let im := finishImage key pl ((lastGeneration s + 1) % 2 ^ 64)
      exec (.optionNegativeWrite true) s = .next (authEnd (putSlot s (!s.flash.lastWritten) im) n x 0)) ∧
    (authOf s 2 = some (n, x, pl) → fwCheck s pl = 0 → (fwRevoke pl).testBit (fwKeySlot pl) = false →
      let f : FwSlot := ⟨true, BitVec.ofNat 64 (fwVersion pl), fwSvn pl, fwDigest pl, fwKeySlot pl⟩
      let s1 := putFw s (fwKind pl) (otherSlot s (fwKind pl)) f
      exec (.firmwareUpdate true) s = .next (authEnd { s1 with fuses := blowFw s.fuses pl } n x 0)) ∧
    (authOf s 6 = some (n, x, pl) → pl.length = 40 → leField pl 63 1 = 0 →
      (leField pl 0 0 = 1 → exec .commandKeyRotation s = .next (authEnd { s with
        flash := { s.flash with current := none, previous := none, logA := [], logB := [], logHalf := false }
        sec := { s.sec with rotations := 0 } } n x 0)) ∧
      (∀ old, leField pl 0 0 = 0 → s.flash.current = some old →
        let new := xorBytes (pl.drop 8) (kmac old (leBytes 8 (auCounter x.desc.word)) csRot 32)
        exec .commandKeyRotation s = .next (authEnd (finishRotation { s with
          flash := { s.flash with current := some new, previous := some old }
          sec := { s.sec with rotations := s.sec.rotations + 1 } }) n x 0)))

/-- The other authenticated commands at their step 5: a reset reports status 0 and is armed until its record is out; a membership change and an incarnation
first stop new steps and are applied once no step is in flight; an HBM repair with no open context repairs its rows in order and writes their results;
a debug unlock replaces the scope; the contact-sheet window is enabled or disabled where STRICT is not set. -/
def Obligations.OtherAuthCommands : Prop :=
  ∀ (s : State) (n : Nat) (x : Running) (pl : List Byte), serving s = true →
    let armed (lvl : Byte) : State :=
      let s1 := report s n (auReport x.desc.word 0 true)
      { s1 with sec := { s1.sec with auth := some (n, false, [lvl]) } }
    (authOf s 3 = some (n, x, pl) → pl = [] → exec .packageReset s = .next (armed 1)) ∧
    (authOf s 4 = some (n, x, pl) → pl = [] → exec .domainReset s = .next (armed 2)) ∧
    (authOf s 5 = some (n, x, pl) → (parseChange pl).isSome = true →
      exec .podMembershipChange s = .next { s with pod := { s.pod with holdSteps := true } }) ∧
    (∀ c, authOf s 5 = some (n, x, pl) → s.pod.holdSteps = true → noneInFlight s = true → parseChange pl = some c →
      exec .membershipApply s = .next (authEnd (holdNew (applyChange s c) false) n x 0)) ∧
    (authOf s 10 = some (n, x, pl) → pl.length = 8 → leNat pl < 2 ^ 16 → s.pod.stale = false →
      exec .incarnationSet s = .next { s with pod := { s.pod with holdSteps := true } }) ∧
    (authOf s 10 = some (n, x, pl) → s.pod.holdSteps = true → noneInFlight s = true →
      exec .incarnationApply s = .next (authEnd { s with
        pod := { s.pod with ownInc := leNat pl % 2 ^ 16, holdSteps := false } } n x 0)) ∧
    (∀ ends gs s1 s2 s3, authOf s 7 = some (n, x, pl) → s.sched.ctxs.any (fun e => e.1 != 0 && e.2.st == .openS) = false →
      let nent := leField pl 4 0
      let es := wordsOf 128 16 nent (pl.drop 16)
      pl.length = 16 + 16 * nent → between 1 16 nent = true → leField pl 63 5 = 0 → leField pl 127 64 % 4 = 0 → es.all repairOk = true →
      segsOf s 0 (leField pl 127 64) (4 * nent) true false = .ok gs s1 → segsReady s1 gs = .ok () s2 →
      let r := repairRows s2 es ends
      segsWriteNow ⟨whoRing n, 0⟩ r.2 gs (r.1.flatMap (leBytes 4)) = .ok () s3 →
      exec (.hbmRepairCommit ends) s = .next (authEnd s3 n x 0)) ∧
    (authOf s 8 = some (n, x, pl) → pl.length = 8 → leNat pl < 8 →
      exec .debugUnlock s = .next (authEnd { s with
        sec := { s.sec with scope := BitVec.ofNat 3 (leNat pl), vendor := false } } n x 0)) ∧
    (authOf s 9 = some (n, x, pl) → pl.length = 8 → leNat pl < 2 → s.rst.strict = false →
      exec .contactSheetEnable s = .next (authEnd { s with
        csw := { s.csw with authen := decide (leNat pl = 1) } } n x 0))

/-- With no authenticated command accepted, none of the commands that act at step 5 of an AUTH has an effect: what needs the command key does nothing
without it. -/
def Obligations.CommandsNeedAnAcceptedAuth : Prop :=
  ∀ (c : Instr) (s t : State), exec c s = .next t → s.sec.auth = none →
    (∃ ends, c = .hbmRepairCommit ends) ∨ c ∈ [.optionNegativeWrite true, .optionNegativeWrite false, .firmwareUpdate true, .firmwareUpdate false, .packageReset, .domainReset,
      .podMembershipChange, .membershipApply, .commandKeyRotation, .debugUnlock, .contactSheetEnable, .incarnationSet, .incarnationApply] →
    t = s

/-- A doorbell to a ring in BAR2 is dealt with by its first case: a ring with V 0, a stopped ring, reserved bits or flags (each dropped and counted in its
field of RING_DBDROP), a TAIL too far ahead of DONE (the ring stops with RING_TAIL), the ring's own TAIL (only the hint is taken), and else TAIL is set.
None that is refused changes TAIL or HEAD. -/
def Obligations.DoorbellCases : Prop :=
  ∀ (s : State) (n : Nat) (w : Word), n < 2 ^ 20 → serving s = true →
    let s1 := wakeBy false s
    let r := ringOf s1 n
    let tail := bits w 23 0
    let bad := bits w 63 48 ≠ 0 ∨ bits w 43 40 ≠ 0 ∨ bits w 47 45 ≠ 0
    let far := 2 ^ r.logsize < (tail + 2 ^ 24 - r.done) % 2 ^ 24
    let hint := if bit w 44 then some (bits w 39 24 % 2 ^ 11 * 2 ^ (bits w 39 24 / 2 ^ 11 % 32)) else none
    ∃ t, exec (.doorbell (4096 * (n / 512) + 8 * (n % 512)) 8 w) s = .next t ∧
      (r.v = false → t = bump s1 rRING_DBDROP 15 0) ∧
      (r.v = true → r.err = true → t = bump s1 rRING_DBDROP 47 32) ∧
      (r.v = true → r.err = false → bad → t = bump s1 rRING_DBDROP 31 16) ∧
      (r.v = true → r.err = false → ¬ bad → far → ringOf t n = { r with
        err := true, errcode := 0x0607 }) ∧
      (r.v = true → r.err = false → ¬ bad → ¬ far → tail = r.tail → t = setUnit s1 n { unitOf s1 n with hint := hint }) ∧
      (r.v = true → r.err = false → ¬ bad → ¬ far → tail ≠ r.tail → ringOf t n = { r with tail := tail })

/-- The ring unit: an invalidated watched line is read again (a host line from the cache, or asked for with RdShared; a device line as a holder at its home),
held, and its word 0 taken as a doorbell (but not at its first hold: the model's reading, log entry 35); the next pending ring comes on
chip, in place of the least recently serviced idle ring where 16,384 are there; the next ring has its next descriptor read, which joins what is ready, and
HEAD counts it. -/
def Obligations.RingUnitWork : Prop :=
  ∀ (s : State) (n : Nat), serving s = true → (ringOf s n).v = true →
    let r := ringOf s n
    let u := unitOf s n
    (∀ ps s2, r.watch = true → u.reread = true → r.whost = true → hostPieces (wakeBy false s) r.wline 64 false = .ok ps s2 →
      let h := watchedLine s2 r
      (∀ l, hlcLine s2 h = some l → exec (.watchedLineInvalidate n .none) s =
        .next (watchHeld (pinLine s2 h l) n (BitVec.ofNat 64 (leNat (l.data.take 8))))) ∧
      (hlcLine s2 h = none → hostUp s2 = true → linkHeld s2 = false → (∀ o ∈ s2.coh.hout, o.who ≠ whoWatch n) →
        (∀ f ∈ s2.coh.fills, f.1 ≠ h) → exec (.watchedLineInvalidate n .none) s =
        .next (send { s2 with
          coh := { s2.coh with hout := s2.coh.hout ++ [⟨h, .rdShared, whoWatch n, 0, none⟩] } } (.cxl mRdShared (h * 64) [])))) ∧
    (r.watch = true → u.reread = true → r.whost = false →
      let s1 := wakeBy false s
      let line := r.wline / 64
      readyLines s1 false [line] = none → (dirOf s1 line ≠ .i ∨ (setEntries s1 line).length < 16) → (lineNow s1 line).2 = false →
      exec (.watchedLineInvalidate n .none) s =
        .next (watchHeld (shareLine s1 line) n (BitVec.ofNat 64 (leNat ((lineNow s1 line).1.take 8))))) ∧
    (awake s = true → isNext s (ringsWith s (·.pend)) n = true →
      ((ringsWith s (·.onchip)).length < 16384 → exec (.pendingRingFetch n) s = .next (cacheRing s n)) ∧
      (∀ v, 16384 ≤ (ringsWith s (·.onchip)).length → leastServed s ((ringsWith s (·.onchip)).filter (droppable s)) = some v →
        exec (.pendingRingFetch n) s = .next (cacheRing (dropRing s v) n))) ∧
    (∀ bs s2, awake s = true → isNext s ((ringsWith s (·.onchip)).filter (fetchable s)) n = true →
      ringRead s (whoFetch n) r.ctx r.dhost (r.dbase + 64 * (r.head % 2 ^ r.logsize)) 64 = .ok bs s2 →
      let d : Desc := ⟨r.head, BitVec.ofNat 512 (leNat bs), stampOf r (unitOf (endHost s2 (whoFetch n)) n).marks r.head⟩
      ∃ t, exec (.descriptorFetch n .none) s = .next t ∧ ringOf t n = { r with head := (r.head + 1) % 2 ^ 24 } ∧
        (unitOf t n).ready = (unitOf (endHost s2 (whoFetch n)) n).ready ++ [d])

/-- A finished descriptor completes step by step, each once the one before is visible: with READBACK, a read-back of the last host line of every engine that
wrote for it, once that engine holds GO for all it wrote; then its 32-byte
record at its place in the completion ring, held back while an error record of its code is not yet visible; then DONE; then SIGWORD; then the interrupt,
after which the ring runs nothing. In between it waits while its own accesses are out. -/
def Obligations.CompletionSteps : Prop :=
  ∀ (s : State) (n : Nat) (x : Running) (p : Report), serving s = true → (ringOf s n).v = true → (ringOf s n).err = false →
    (unitOf s n).running = some x → x.report = some p → p.norec = false →
    let r := ringOf s n
    let a := r.cbase + 32 * (x.desc.idx % 2 ^ r.logsize)
    ((x.phase = 0 ∧ dFlag x.desc.word 0 = true ∨ x.phase = 1) → x.wrote ≠ [] → exec (.descriptorComplete n) s = .next (readBack s n x)) ∧
    (x.phase = 0 → (dFlag x.desc.word 0 = false ∨ x.wrote = []) → errorAhead s p = false →
      (∀ s2, r.chost = true → hostWrite s ⟨whoRing n, r.ctx⟩ a (recordBytes r x p) = .ok () s2 →
        exec (.descriptorComplete n) s = .next (setPhase s2 n x 2)) ∧
      (∀ s2, r.chost = false → devWrite s a (recordBytes r x p) = .ok () s2 → exec (.descriptorComplete n) s = .next (recordSeen s2 n x))) ∧
    (x.phase = 1 → x.wrote = [] → ownOut s n = false → errorAhead s p = false →
      exec (.descriptorComplete n) s = .next (writeRecord (endHost s (whoRing n)) n x p)) ∧
    (x.phase = 2 → ownOut s n = false → exec (.descriptorComplete n) s = .next (recordSeen s n x)) ∧
    (x.phase = 3 → ownOut s n = false → exec (.descriptorComplete n) s = .next (endRunning s n x)) ∧
    (x.phase = 4 → ownOut s n = false → exec (.descriptorComplete n) s = .next (signalDone s n x)) ∧
    (∀ k, 0 < k → k < 5 → x.phase = k → (k = 1 → x.wrote = []) → ownOut s n = true → exec (.descriptorComplete n) s = .next s)

/-- The RING_CTRL window: READ shows the ring's current context in RING_DATA0 to 7; a WRITE that is refused sets REFUSED and leaves the ring; one that is not
gives the ring (while its group is in reset, latches for it) the window's fields with HEAD, TAIL, DONE, ERR and ERRCODE zero, or removes it with V 0; RESET is refused while a descriptor runs, and
else zeroes the indices and clears ERR. -/
def Obligations.RingControl : Prop :=
  ∀ (s : State) (k : BitVec 20), pageOpen s rRING_CTRL = true →
    let n := k.toNat
    let s1 := showRing (wakeBy false s) k
    let w := ringWindow s1
    exec (.ringCtrlRead k) s = .next ((List.range 8).foldl (fun s i =>
      setReg s (rRING_DATA0 + 8 * i) (BitVec.ofNat 64 (bits (ringBits (ringOf (wakeBy false s) n)) (64 * i + 63) (64 * i)))) s1) ∧
    (groupInReset s1 n = true → bit w 0 = true →
      exec (.ringCtrlWrite k) s = .next { s1 with rings := { s1.rings with latched := tput s1.rings.latched n w } }) ∧
    (groupInReset s1 n = false → (writeRefused s1 n w = true ∨ serving s1 = false) →
      exec (.ringCtrlWrite k) s = .next (setField s1 rRING_CTRL 23 23 1)) ∧
    (groupInReset s1 n = false → writeRefused s1 n w = false → serving s1 = true → bit w 0 = true → ∃ t, exec (.ringCtrlWrite k) s = .next t ∧ ringOf t n = ringFrom w) ∧
    (groupInReset s1 n = false → writeRefused s1 n w = false → serving s1 = true → bit w 0 = false →
      exec (.ringCtrlWrite k) s = .next (removeRing (setField s1 rRING_CTRL 23 23 0) n)) ∧
    (((unitOf s1 n).running.isSome = true ∨ serving s1 = false) → exec (.ringCtrlReset k) s = .next (setField s1 rRING_CTRL 23 23 1)) ∧
    ((unitOf s1 n).running = none → serving s1 = true → (ringOf s1 n).v = true → ∃ t, exec (.ringCtrlReset k) s = .next t ∧
      ringOf t n = { ringOf s1 n with
        head := 0, tail := 0, done := 0, err := false, errcode := 0 })

/-- The context and core windows: READ shows a slot; OPEN of a free slot sets it up, or shows the REASON why not, and is latched while the slot is tearing
down or ending; WITHDRAW takes a core out of use at once, or when the program it holds has ended, unless it is refused; RETURN gives a core back, or is
latched while its withdrawal is not complete. -/
def Obligations.ContextAndCoreWindows : Prop :=
  ∀ (s : State) (k : BitVec 12) (m : BitVec 10),
    let c := k.toNat
    let d := m.toNat
    let s1 := wakeBy false s
    let o := setField s1 rCTX_CTRL 11 0 c
    let w := setField s1 rSCH_CORE 9 0 d
    let data := (regVal o rCTX_DATA0).toNat
    let profile := data / 16 % 16
    let pt4 := data / 4096 % 2 ^ 40 * 4096
    let reason := openReason o c profile pt4 (data / 8 % 2 + data / 256 % 16 + data >>> 52) (profileOf o profile).1
    (pageOpen s rCTX_CTRL = true → exec (.ctxRead k) s = .next (readCtx s1 c)) ∧
    (pageOpen s rCTX_CTRL = true → serving o = true → (ctxOf o c).st = .free → reason = 0 →
      exec (.openCtx k) s = .next (showOpen (setupCtx o c profile pt4) 0)) ∧
    (pageOpen s rCTX_CTRL = true → serving o = true → (ctxOf o c).st = .free → reason ≠ 0 →
      exec (.openCtx k) s = .next (showOpen (setCtx o c { ctxOf o c with openLatch := none }) reason)) ∧
    (pageOpen s rCTX_CTRL = true → serving o = true → ((ctxOf o c).st = .teardown ∨ (ctxOf o c).st = .ending) →
      exec (.openCtx k) s = .next (setCtx o c { ctxOf o c with openLatch := some data })) ∧
    (pageOpen s rSCH_CORE = true → withdrawRefused w d = true → exec (.withdraw m) s = .next (setField w rSCH_CORE 14 14 1)) ∧
    (pageOpen s rSCH_CORE = true → withdrawRefused w d = false →
      let y := setField w rSCH_CORE 14 14 0
      ((coreOf w d).lo = none → (coreOf w d).hi = none → exec (.withdraw m) s = .next (setCore y d { coreOf w d with
        withdrawn := (coreOf w d).withdrawn || !(coreOf w d).wdPend, retLatch := false })) ∧
      ((coreOf w d).lo ≠ none → exec (.withdraw m) s = .next (setCore y d { coreOf w d with
        wdPend := !(coreOf w d).withdrawn, retLatch := false }))) ∧
    (pageOpen s rSCH_CORE = true → d < coreCount w → (coreOf w d).wdPend = false →
      ((coreOf w d).withdrawn = false ∨ ((coreOf w d).scrubLo = false ∧ (coreOf w d).scrubHi = false ∧ coreInReset w d = false)) →
      exec (.returnCore m) s = .next (setCore w d { coreOf w d with withdrawn := false })) ∧
    (pageOpen s rSCH_CORE = true → d < coreCount w → (coreOf w d).wdPend = true →
      exec (.returnCore m) s = .next (setCore w d { coreOf w d with retLatch := true }))

/-- The windows of schedule entries, routes and groups: a READ loads the data registers from the entry; a COMMIT writes a schedule entry, its counters only
with WRCNT, at once or at the end of the context's step (a slot that holds no entry takes none: the model's reading, log entry 97); a WRITE writes a routing entry or a group, which strict-AUTH mode refuses, as is a group of a
collective in progress and group 0. -/
def Obligations.TableWindows : Prop :=
  ∀ (s : State),
    let s1 := wakeBy false s
    (∀ k : BitVec 12, pageOpen s rFIX_SE_CTRL = true →
      exec (.fixSeRead k) s = .next (loadWindow (setField s1 rFIX_SE_CTRL 11 0 k.toNat) (seOf s k.toNat))) ∧
    (∀ (k : BitVec 12) (b : Bool), pageOpen s rFIX_SE_CTRL = true →
      let y := setField (setField s1 rFIX_SE_CTRL 11 0 k.toNat) rFIX_SE_CTRL 14 14 (b2n b)
      (stepRuns y k.toNat = false → holdsEntry y k.toNat = false → exec (.fixSeCommit k b) s = .next y) ∧
      (stepRuns y k.toNat = false → holdsEntry y k.toNat = true →
        exec (.fixSeCommit k b) s = .next (setSe y k.toNat (commitSe (seOf y k.toNat) (seWindow y) b))) ∧
      (stepRuns y k.toNat = true → exec (.fixSeCommit k b) s = .next { y with
        fixers := { y.fixers with commits := y.fixers.commits ++ [(k.toNat, seWindow y, b)] } })) ∧
    (∀ k : BitVec 12, pageOpen s rPRT_RT_CTRL = true →
      let y := setField s1 rPRT_RT_CTRL 11 0 k.toNat
      exec (.prtRtRead k) s = .next (setReg (setReg y rPRT_RT_DATA0 (BitVec.ofNat 64 (bits (tget 0 y.pod.routes k.toNat) 63 0)))
        rPRT_RT_DATA1 (BitVec.ofNat 64 (bits (tget 0 y.pod.routes k.toNat) 127 64))) ∧
      (y.rst.strict = true → exec (.prtRtWrite k) s = .next y) ∧
      (y.rst.strict = false → exec (.prtRtWrite k) s = .next (writeRoute y k.toNat
        (BitVec.ofNat 128 ((regVal y rPRT_RT_DATA0).toNat + 2 ^ 64 * (regVal y rPRT_RT_DATA1).toNat))))) ∧
    (∀ k : BitVec 8, pageOpen s rSTK_GRP_CTRL = true →
      let y := setField s1 rSTK_GRP_CTRL 7 0 k.toNat
      let e : BitVec 512 := BitVec.ofNat 512 ((List.range 8).foldr (fun n a => (regVal y (rGrpData n)).toNat + a * 2 ^ 64) 0)
      let shown : BitVec 512 := if k = 0 then 0 else tget 0 s1.pod.groups k.toNat
      exec (.stkGrpRead k) s = .next ((List.range 8).foldl (fun s n => setReg s (rGrpData n) (BitVec.ofNat 64 (bits shown (64 * n + 63) (64 * n)))) y) ∧
      ((k = 0 ∨ y.rst.strict = true ∨ y.pod.colls.any (fun c => c.grp == k.toNat) = true) →
        exec (.stkGrpWrite k) s = .next (setField y rSTK_GRP_CTRL 10 10 1)) ∧
      (k ≠ 0 → y.rst.strict = false → y.pod.colls.any (fun c => c.grp == k.toNat) = false →
        exec (.stkGrpWrite k) s = .next (writeGroup (setField y rSTK_GRP_CTRL 10 10 0) k.toNat e)))

namespace Sys2Proof.Stated

/-- A block-reset request as RST_CTRL shows it. -/
def asked (s : State) (kind index : Nat) : State := setField (setField (wakeBy false s) rRST_CTRL 2 0 kind) rRST_CTRL 13 3 index

/-- A request accepted: its block is in reset. -/
def inReset (s : State) (kind index : Nat) : State :=
  let y := asked s kind index
  { y with rst := { y.rst with refused := false, block := some (kind, index) } }

/-- A block reset: `c` refused while its block is not idle, another reset runs or the part is not READY, and else `f`. -/
def BlockReset (s : State) (c : Instr) (kind index : Nat) (idle : Bool) (f : State → State) : Prop :=
  pageOpen s rRST_CTRL = true →
    ((asked s kind index).rst.phase = .ready → (asked s kind index).rst.block = none → idle = true →
      exec c s = .next (f (inReset s kind index))) ∧
    (((asked s kind index).rst.phase ≠ .ready ∨ (asked s kind index).rst.block ≠ none ∨ idle = false) →
      exec c s = .next { asked s kind index with rst := { (asked s kind index).rst with refused := true } })

end Sys2Proof.Stated

/-- Each of the seven block resets is carried out where its block is idle, the part is READY and no other reset runs, and is otherwise refused with REFUSED
set and nothing else: a die holding no work, a withdrawn core, a port in OFF or DOWN, a fixer, loupe or stacker without work, a page of rings none of
which runs a descriptor. Its completion ends BUSY, and a core in it is then as its pending withdrawal or return leaves it. -/
def Obligations.DieAndBlockResets : Prop :=
  ∀ (s : State) (i : BitVec 11),
    let n := i.toNat
    let mine := (s.rings.ctx.filter (fun e => e.2.v && e.1 / 512 == n)).map (·.1)
    BlockReset s (.dieReset i) 0 n (decide (n < 8) && dieIdle s n) (fun s => resetDie s n) ∧
    BlockReset s (.coreReset i) 1 n (decide (n < coreCount s) && (coreOf s n).withdrawn && (coreOf s n).lo.isNone && (coreOf s n).hi.isNone)
      (fun s => resetCore s n) ∧
    BlockReset s (.portReset i) 2 n (decide (n < 32) && ((portOf s n).st == .off || (portOf s n).st == .down))
      (fun s => setPort (resetRegs (leaveSets s n) (inPages (0x60000 + 0x1000 * n) 1)) n Port.off) ∧
    BlockReset s (.fixerReset i) 3 n (decide (n < 64) && s.fixers.queue.isEmpty && s.fixers.run.isNone) (fun s => resetFixer s n) ∧
    BlockReset s (.loupeReset i) 4 n (decide (n < 16) && (loupeOf s n).queue.isEmpty && (loupeOf s n).run.isNone) (fun s => resetLoupe s n) ∧
    BlockReset s (.stackerReset i) 5 n (decide (n < 8) && s.pod.colls.isEmpty && s.pod.frames.isEmpty) (fun s => resetStacker s n) ∧
    BlockReset s (.ringGroupReset i) 6 n (mine.all (fun m => (unitOf s m).running.isNone)) (fun s => mine.foldl resetRing s) ∧
    (∀ kind index, s.rst.block = some (kind, index) → kind ≠ 2 →
      ∃ t, exec .blockResetComplete s = .next t ∧ t.rst.block = none ∧
        (kind = 1 → t.cores = s.cores.map (fun e => if e.1 = index then (e.1, settleCore e.2) else e)))

/-- PORT_ENABLE starts training from OFF, is latched during DRAIN or a reset of the port, and only sets EN elsewhere; PORT_DISABLE takes the port out of its
route sets to DRAIN, and in DRAIN cancels a latched enable; RETRAIN retrains; a soft repair takes the named row. -/
def Obligations.PortControlAndSoftRepair : Prop :=
  ∀ (s : State) (n : Nat), n < 32 → pageOpen s (rPRT_CTRL n) = true →
    let s1 := wakeBy false s
    let on := setPort (setField s1 (rPRT_CTRL n) 0 0 1) n { portOf s1 n with en := true }
    let off := setPort (setField s1 (rPRT_CTRL n) 0 0 0) n { portOf s1 n with en := false, enLatch := false }
    ((portOf s1 n).st = .off → s1.rst.block ≠ some (2, n) → exec (.portEnable n) s = .next (leaveOff on n)) ∧
    ((portOf s1 n).st = .drain ∨ s1.rst.block = some (2, n) → exec (.portEnable n) s = .next (setPort on n { portOf on n with enLatch := true })) ∧
    ((portOf s1 n).st ≠ .off → (portOf s1 n).st ≠ .drain → s1.rst.block ≠ some (2, n) → exec (.portEnable n) s = .next on) ∧
    ((portOf off n).st = .off ∨ (portOf off n).st = .drain → exec (.portDisable n) s = .next off) ∧
    ((portOf off n).st ≠ .off → (portOf off n).st ≠ .drain →
      exec (.portDisable n) s = .next (leaveSets (setPort off n { portOf off n with st := .drain }) n)) ∧
    exec (.retrain n) s = .next (writeRetrain s1 n) ∧
    (∀ (h : Nat) (c : BitVec 5) (pc : Bool) (b : BitVec 6) (row : BitVec 32), h < 16 → pageOpen s (rMEM_PPR_CTRL h) = true →
      let f := setField (setField s1 (rMEM_PPR_CTRL h) 4 0 c.toNat) (rMEM_PPR_CTRL h) 5 5 (b2n pc)
      let y := setField (setField f (rMEM_PPR_CTRL h) 11 6 b.toNat) (rMEM_PPR_CTRL h) 43 12 row.toNat
      exec (.softRepair h c pc b row) s = .next (repairSoft y h))

/-- Register accesses: PKG_ERRQ_BASE is written only while EN is 0; the other two error-queue registers act as their own rules say; unmasking a vector or the
function sends what was held; an aligned write of BAR0 reaches its register, whole or half; a word of the contact-sheet window is stored with its bytes in
big-endian order; an access that is dropped is counted and logged; I3C sets its pointer, writes a register of its pages unless strict-AUTH forbids, and reads
eight bytes and moves on. -/
def Obligations.RegisterAccesses : Prop :=
  ∀ (s : State),
    let s1 := wakeBy false s
    (∀ v, pageOpen s rPKG_ERRQ_BASE = true → bit (regVal s1 rPKG_ERRQ_CTRL) 0 = true →
      exec (.errqBaseWrite v) s = .next (setField s1 rPKG_ERRQ_CTRL 18 18 1)) ∧
    (∀ v, pageOpen s rPKG_ERRQ_BASE = true → bit (regVal s1 rPKG_ERRQ_CTRL) 0 = false →
      exec (.errqBaseWrite v) s = .next (setReg (setField s1 rPKG_ERRQ_CTRL 18 18 0) rPKG_ERRQ_BASE (v &&& 0xFFFFFFFFFFFFF03F))) ∧
    (∀ v, pageOpen s rPKG_ERRQ_CTRL = true → exec (.errqCtrlWrite v) s = .next (writeErrCtrl s1 v)) ∧
    (∀ v, pageOpen s rPKG_ERRQ_HEAD = true → exec (.errqHeadWrite v) s = .next (writeErrHead s1 v)) ∧
    (∀ v, ioUp s = true → v < 2048 → exec (.msixUnmask (.vector v)) s = .next (sendHeld { s1 with
      msix := { s1.msix with open_ := insNat v s1.msix.open_ } })) ∧
    (ioUp s = true → exec (.msixUnmask .function) s = .next (sendHeld { s1 with msix := { s1.msix with enabled := true, fmask := false } })) ∧
    (∀ off v, ioUp s = true → off < 2 ^ 24 → off % 8 = 0 → pageOpen s1 off = true →
      exec (.registerWrite .bar0 off true v) s = .next (writeReg s1 off v (BitVec.allOnes 64))) ∧
    (∀ off v, ioUp s = true → off < 2 ^ 24 → off % 4 = 0 → pageOpen s1 off = true →
      exec (.registerWrite .bar0 off false v) s = .next (writeReg s1 (off / 8 * 8) (halfValue off false v) (halfMask off false))) ∧
    (∀ off v, ioUp s = true → s.rst.phase = .ready → cswOpen s = true → off % 4 = 0 → off < 4096 → off % 64 ≠ 0 → off % 64 ≠ 60 →
      exec (.registerWrite .bar4 off false v) s = .next { s1 with
        csw := { s1.csw with words := tset 0 s1.csw.words (off / 4) (swap32 (v.setWidth 32)) } }) ∧
    (∀ off size, ioUp s = true → off < 2 ^ 24 → alignedAccess off size = false → pageOpen s off = true →
      exec (.droppedRegisterAccess off size true false) s = .next (accErr s1 off size true false)) ∧
    (∀ p, pageOpen s 0 = true → s.pwr.st ≠ 3 → exec (.i3cPointerWrite p) s = .next (setPtr (wakeBy true s) p)) ∧
    (∀ p v, pageOpen s 0 = true → s.pwr.st ≠ 3 →
      let y := setPtr (wakeBy true s) p
      (y.rst.strict = true → exec (.i3cRegisterWrite p v) s = .next y) ∧
      (y.rst.strict = false → i3cPage p.toNat = true → p.toNat % 8 = 0 →
        exec (.i3cRegisterWrite p v) s = .next (writeReg y p.toNat v (BitVec.allOnes 64)))) ∧
    (pageOpen s 0 = true → s.pwr.st ≠ 3 → i3cPage (wakeBy true s).pins.i3cPtr.toNat = true → (wakeBy true s).pins.i3cPtr.toNat % 8 = 0 →
      let y := setPtr (wakeBy true s) ((wakeBy true s).pins.i3cPtr + 8)
      exec .i3cRead s = .next (send y (.i3c (leBytes 8 (readReg y (wakeBy true s).pins.i3cPtr.toNat).toNat))))

/-- GO in the contact-sheet window with no command running: NOP is done at once; COPY and FILL join the order as a step of 16 core programs and GEMM of 64,
with the slot SUBMITTED; what a command's checks refuse ends in ERROR with its code and nothing started, as does a reserved OPCODE. A dropped access is
counted. -/
def Obligations.ContactSheetCommands : Prop :=
  ∀ (s : State) (slot : Nat), ioUp s = true → slot < 64 → cswOpen s = true → s.csw.busy = none →
    let s1 := wakeBy false s
    let c := cmdOf s slot
    let joined (n : Nat) : State := joinOrder (setCswStatus { s1 with csw := { s1.csw with busy := some slot, cmd := c } } slot 1 0) (cswStep s1 slot n c)
    (cmdCode c = 0 → cmdReserved c = false → exec (.cswNop slot 1) s = .next (endCsw s1 slot 0)) ∧
    (3 < cmdCode c → exec (.cswNop slot 1) s = .next (endCsw s1 slot 0x0606)) ∧
    (cmdCode c = 1 → copyRefused c = 0 → exec (.cswCopy slot 1) s = .next (joined 16)) ∧
    (cmdCode c = 2 → fillRefused c = 0 → exec (.cswFill slot 1) s = .next (joined 16)) ∧
    (cmdCode c = 3 → gemmRefused c = 0 → exec (.cswGemm slot 1) s = .next (joined 64)) ∧
    (cmdCode c = 1 → copyRefused c ≠ 0 → exec (.cswCopy slot 1) s = .next (endCsw s1 slot (copyRefused c))) ∧
    (cmdCode c = 2 → fillRefused c ≠ 0 → exec (.cswFill slot 1) s = .next (endCsw s1 slot (fillRefused c))) ∧
    (cmdCode c = 3 → gemmRefused c ≠ 0 → exec (.cswGemm slot 1) s = .next (endCsw s1 slot (gemmRefused c))) ∧
    (s.rst.phase = .ready → exec .cswAccessDropped s = .next (bump s1 rCSW_STAT 63 48))

/-- Where a step fits, placement gives each of its programs still to run a place of its own, in ascending core and half order: usable cores (not withdrawn, not
marked, not in reset) that are free, whole or half as the step asks, on the die of its affinity where it names one. -/
def Obligations.PlacementPicksFreeCores : Prop :=
  ∀ (s : State) (t : StepRec) (xs : List (Nat × Bool)), placeFor s t [] = some xs →
    xs.length = (liveProgs t).length ∧
    (∀ x, x ∈ xs → usableCore s x.1 = true ∧
      (t.split = false → x.2 = false ∧ wholeFree s [] x.1 = true) ∧ (t.split = true → halfFree s [] x.1 x.2 = true) ∧
      (∀ d, t.aff = some d → d * perDie s ≤ x.1 ∧ x.1 < (d + 1) * perDie s) ∧ (t.aff = none → x.1 < 8 * perDie s)) ∧
    xs.Pairwise (fun a b => a.1 < b.1 ∨ (a.1 = b.1 ∧ a.2 = false ∧ b.2 = true))

namespace Sys2Proof.Stated

/-- A scratchpad key belongs to the half of a core (to the whole of one that is not split). -/
def ofHalf (split upper : Bool) (key : Nat) : Prop := split = false ∨ decide (8 ≤ key / 64 % 16) = upper

/-- The half of `k` holds nothing: its scratchpad reads zero, its columns are clear, its tiles empty. -/
def Blank (split upper : Bool) (k : Core) : Prop :=
  (∀ key, ofHalf split upper key → tget 0 k.sp key = 0) ∧
  (∀ e, e ∈ k.acc → split = true ∧ e.1 % 64 / 32 ≠ b2n upper) ∧ (∀ e, e ∈ k.rows → split = true ∧ e.1 % 2 ≠ b2n upper) ∧
  (∀ e, e ∈ k.tiles → split = true ∧ e.1 / 2 ≠ b2n upper)

end Sys2Proof.Stated

/-- A scrub that completes leaves its core or half-core with a zero scratchpad, clear accumulators and empty tiles; and a program given a core or half that a step
of another context held last finds it so: no context sees what another left in a core. -/
def Obligations.CoresAreScrubbedBetweenContexts : Prop :=
  (∀ (s : State) (core : Nat) (upper : Bool),
    (if upper then (coreOf s core).scrubHi else (coreOf s core).scrubLo) = true →
    ∃ k, exec (.scrubComplete core upper) s = .next (setCore s core k) ∧ Blank (coreOf s core).split upper k) ∧
  (∀ (s : State) (t : StepRec) (sci core : Nat) (upper : Bool),
    ∃ k, giveSlot t s (sci, core, upper) = setCore s core (withProg k upper (some (freshProg t sci))) ∧
      (∀ e, e ∈ k.acc → t.split = true ∧ e.1 % 64 / 32 ≠ b2n upper) ∧
      (t.split = true → (if upper then (coreOf s core).ctxHi else (coreOf s core).ctxLo) ≠ t.ctx → Blank true upper k) ∧
      (t.split = false → ((coreOf s core).ctxLo ≠ t.ctx ∨ (coreOf s core).ctxHi ≠ t.ctx) → Blank false upper k))

namespace Sys2Proof.Stated

/-- `c` pre-empts for step `t` among candidates `cands`, where they suffice and there are sets for them: each victim's sequencers stop, it is
being saved, and it has a darkslide set, its own or the first free one. -/
def PreemptsFor (s : State) (c : Instr) (t : StepRec) (cands : List StepRec) : Prop :=
  ∀ vs, victimSet s t [] cands = some vs → (vs.filter (fun v => v.set.isNone)).length ≤ (freeSets s).length →
    exec c s = .next (vs.foldl markVictim s) ∧
    ∀ v, vs = [v] → stepOf s v.uid = some v → v.st ≠ .saving →
      stepOf (vs.foldl markVictim s) v.uid = some { v with st := .saving, set := if v.set.isSome then v.set else (freeSets s).head? } ∧
      ∀ p q, p ∈ livePlaces s v → progOf s p = some q → progOf (vs.foldl markVictim s) p = some { q with released := false }

/-- The state of a step's programs at their op boundaries: what their engines have done has completed, their signals are given, and those
on their way between them have arrived. -/
def atRest (s : State) (t : StepRec) : State :=
  let ps := livePlaces s t
  flushRemote (ps.foldl (fun s p => flushPend (match progOf s p with | some q => q.pend.length | none => 0) s p) (ps.foldl flushRuns s)) t

end Sys2Proof.Stated

/-- The scheduler's events. PLACEMENT places the first of the waiting order that fits, all its programs at once, each at its core or half, and goes on; a
realtime head that does not fit pre-empts, as do a high one past its patience and, where every placed step has been blocked for BLOCK_SWAP, any: the
victims stop and get darkslide sets. A victim at its op boundaries is saved to its set and gives back its cores; a placed or restored step whose cores
run is released, its programs loaded and started together; and a step past its watchdog ends with STEP_WATCHDOG, its context torn down, with the reset
its reach value asks for. -/
def Obligations.SchedulerEvents : Prop :=
  ∀ (s : State),
    (∀ t l, stepsGo s = true → waitOrder s = t :: l →
      (∀ xs, placeFor s t [] = some xs → exec .placement s = .next (placeAll s.sched.steps.length (placeStep s t xs))) ∧
      (∀ xs, placeFor s t [] = some xs → l = [] → exec .placement s = .next (placeStep s t xs) ∧
        (∃ x, stepOf (placeStep s t xs) t.uid = some x ∧ x.st = (if t.st = .saved then .restored else .placed)) ∧
        (∀ i core h, (i, core, h) ∈ slotTable t xs → progOf (placeStep s t xs) ⟨core, h⟩ = some (freshProg t i))) ∧
      (placeFor s t [] = none → t.cls ≠ 0 → exec .placement s = .next s) ∧
      (placeFor s t [] = none → t.cls = 0 → PreemptsFor s .placement t (victimsOf s 0)) ∧
      (placeFor s t [] = none → t.cls = 1 → regField s rSCH_OPT 31 0 ≤ t.waited → PreemptsFor s .preemptPatienceExpiry t (victimsOf s 1)) ∧
      (placeFor s t [] = none → s.sched.steps.filter onCores ≠ [] →
        (s.sched.steps.filter onCores).all (fun x => decide (regField s rSCH_OPT 63 32 ≤ x.quiet)) = true →
        PreemptsFor s .blockSwapExpiry t
          (((s.sched.steps.filter onCores).filter (fun x => x.csw.isNone && !x.voided)).foldl (fun l x => insVictim (·.quiet) x l) []))) ∧
    (∀ c t k x, stepOfCtx s c = some t → serving s = true → t.st = .saving → t.set = some k →
      (∀ p, p ∈ livePlaces s t → hostBack s p = true ∧ ∀ q, progOf s p = some q → atBoundary s p q = true) →
      readyRange s (setBase k) (2 * gib) = none → stepOf (atRest s t) t.uid = some x → x.set = some k → x.saved = [] →
      let ps := livePlaces s t
      let s2 := ps.foldl (fun s p => freeHalf s p false) (writeHeader (ps.foldl (fun s p => writeSlot s k p) (atRest s t)) k x)
      let s3 := setStep s2 { x with
        st := .saved, slots := [], saved := savesOf (atRest s t) x, waited := 0 }
      exec (.preemptSave c none) s = .next (setCtx s3 x.ctx { ctxOf s3 x.ctx with
        preempts := min (2 ^ 32 - 1) ((ctxOf s3 x.ctx).preempts + 1) })) ∧
    (∀ c t ps s2, stepOfCtx s c = some t → stepsGo s = true → (t.st = .placed ∨ t.st = .restored) → coresUp s t = true →
      programsOf s t = .ok ps s2 → t.csw = none →
      let begun (s : State) : State := setStep (ps.foldl (releaseOne t) s) { t with
        st := .released, saved := [], set := none, quiet := 0 }
      (t.saved = [] → exec (.stepRelease c) s = .next (begun (endHost s2 whoSched)) ∧
        ∀ i ops pats strides p q, ps = [(i, ops, pats, strides)] → slotProg t i = some p → progOf (endHost s2 whoSched) p = some q →
          progOf (begun (endHost s2 whoSched)) p = some { q with
            ops, pats, strides, released := true }) ∧
      (∀ s3, t.saved ≠ [] → checkSet (endHost s2 whoSched) t = .ok () s3 → exec (.stepRelease c) s = .next (begun s3))) ∧
    (∀ c t, stepOfCtx s c = some t → serving s = true → t.wdog ≠ 0 → t.wdog ≤ t.used → (t.st = .released ∨ t.st = .saving) →
      (t.csw ≠ none → exec (.stepWatchdogExpiry c) s = .next (chargeStep s c 0x0603 0)) ∧
      (t.csw = none → reachOf s 15 = 3 ∨ reachOf s 15 = 4 →
        let u := chargeStep { s with
          rst := { s.rst with after := s.rst.after ++ [(c, coresOfStep s t)] } } c 0x0603 0
        exec (.stepWatchdogExpiry c) s = .next u ∧
        (c ≠ 0 → ((ctxOf s c).st = .openS ∨ (ctxOf s c).st = .ending) → (ctxOf u c).st = .teardown ∧ (ctxOf u c).fault = 0x0603)) ∧
      (t.csw = none → reachOf s 15 ≤ 2 → exec (.stepWatchdogExpiry c) s = .next (raiseAt (chargeStep s c 0x0603 0) (reachOf s 15) 15)))

/-- A teardown whose cores are back and whose work is gone takes its slot to GONE, or frees it for a waiting END_CONTEXT; an ENDING context without work frees its
slot. A core gates when its programs are stalled or gone, turns off when it holds none, keeping nothing, and wakes from off with a zero scratchpad and its generators
seeded. A grain top-up XORs 32 fresh bits into each lane's generator state (the moment and the place of the bits are free: log entry 1) and counts;
top-ups stop from a failed health test to a passed one. -/
def Obligations.ContextEndsAndCorePower : Prop :=
  ∀ (s : State) (c : Nat),
    let x := ctxOf s c
    let k := coreOf s c
    (x.st = .teardown → coresBack s c = true → ctxBusy s c = false → x.endPend = [] →
      exec (.teardownComplete c) s = .next (takeOpen (setCtx (resetAfter s c) c { x with st := .gone }) c)) ∧
    (x.st = .teardown → coresBack s c = true → ctxBusy s c = false → x.endPend ≠ [] → (ringsOf s c).all (fun n => (unitOf s n).running.isNone) = true →
      exec (.teardownComplete c) s = .next (freeSlot (resetAfter s c) c)) ∧
    (x.st = .ending → s.sched.steps.any (fun t => t.ctx == c) = false → (ringsOf s c).all (ringIdle s) = true → ctxBusy s c = false →
      exec (.endingComplete c) s = .next (freeSlot s c)) ∧
    (k.pwr = .running → halfStalled k.lo = true → halfStalled k.hi = true → exec (.coreGate c) s = .next (setCore s c { k with pwr := .gated })) ∧
    ((k.pwr = .running ∨ k.pwr = .gated) → k.lo = none → k.hi = none → k.scrubLo = false → k.scrubHi = false →
      exec (.coreOff c) s = .next (setCore s c { k with
        pwr := .off, sp := [], acc := [], rows := [], tiles := [], seeded := false })) ∧
    (k.pwr = .waking false → exec (.coreWakeComplete c) s = .next (setCore s c { k with pwr := .running })) ∧
    (k.pwr = .waking true → exec (.coreWakeComplete c) s = .next (useFree (setCore s c { k with
      pwr := .running, sp := [], seeded := true, seedNo := some s.free, grain := [] }) 1)) ∧
    (grainRuns s c = true → k.topupsOff = false → exec (.grainTopup c) s = .next (bumpWrap (useFree (setCore s c { k with
      grain := (List.range 64).map (fun i => (i, Config.grainAt (laneGrain s c i) (Config.freeWord s.free).toNat ^^^
        (((Config.freeWord (s.free + 1 + i)).setWidth 32).setWidth 128 <<< (Config.grainPlace % 97)))) }) 65) (rVEC_GRAIN_STAT c) 63 32)) ∧
    (grainRuns s c = true → exec (.healthTestFail c) s = .next (setCore (setField s (rVEC_GRAIN_STAT c) 1 1 1) c { k with topupsOff := true })) ∧
    (grainRuns s c = true → exec (.healthTestPass c) s = .next (setCore s c { k with topupsOff := false }))

/-- A DATA flit with the expected SEQ is taken: its acknowledgement and credits, and the whole transactions it completes; one out of sequence is answered by
one NAK and changes nothing else, as is a flit with a bad CRC, which is counted. A NAK or a retry timeout sends every unacknowledged flit again, or retrains
past the limit. One waiting transaction at a time is sent whole, in priority order, where credit and replay buffer allow; with none, an IDLE flit goes.
WIDTH1 narrows the port and WIDEN widens it. Every flit sent carries the last good SEQ and the running counts of slots freed, at most 255 more of one kind. -/
def Obligations.FlitsAndReplay : Prop :=
  ∀ (s : State) (n : Nat),
    let p := portOf s n
    (∀ f : Flit, takesFlits p = true → crcGood f = true → f.seq.toNat = p.seqExp →
      let s1 := takeAck s n f.ack f.cr
      let p1 := portOf s1 n
      let r := parseSlots (p1.partial_.length / 16 + 16) (p1.partial_ ++ f.payload.take 240)
      exec (.dataFlit n f) s = .next (r.1.foldl (takeArrival n) (setPort s1 n { p1 with
        seqExp := (p1.seqExp + 1) % 4096, lastGood := f.seq.toNat, nakHeld := false, partial_ := r.2 }))) ∧
    (∀ f : Flit, takesFlits p = true → crcGood f = true → f.seq.toNat ≠ p.seqExp → exec (.dataFlit n f) s = .next (sendNak s n)) ∧
    (∀ f : Flit, takesFlits p = true → crcGood f = false →
      exec (.dataFlit n f) s = .next (sendNak (countCE s (rPRT_ERR n) 15 0 (n / 4) 5 n) n)) ∧
    (∀ ack cr, takesFlits p = true → exec (.nakFlit n ack cr) s = .next (replayPort (takeAck s n ack cr) n)) ∧
    (∀ ack cr, takesFlits p = true → exec (.idleFlit n ack cr) s = .next (takeAck s n ack cr)) ∧
    (takesFlits p = true → exec (.flitCrcFail n) s = .next (sendNak (countCE s (rPRT_ERR n) 15 0 (n / 4) 5 n) n)) ∧
    exec (.nakHoldoffExpiry n) s = .next (setPort s n { p with nakHeld := false }) ∧
    (takesFlits p = true → p.replay ≠ [] → p.replays < regField s rPRT_LINK 19 16 →
      exec (.retryTimeout n) s = .next (resendAll (countCE (setPort s n { p with replays := p.replays + 1 }) (rPRT_ERR n) 31 16 (n / 4) 5 n) n)) ∧
    (takesFlits p = true → p.replay ≠ [] → regField s rPRT_LINK 19 16 ≤ p.replays → exec (.retryTimeout n) s = .next (writeRetrain s n)) ∧
    (∀ v e, p.st = .up → s.pod.stale = false → inFog s = false → nextToSend p v = some e →
      let fs := flitsOf (e.2.data.length / 240 + 2) true (headerBytes e.2 ++ e.2.data)
      p.replay.length + fs.length ≤ 512 →
      let k := vcKey e.2
      let s1 := setPort s n { p with
        txq := removeFirst e p.txq, credits := p.credits.set k (nth p.credits k - slotsOf e.2) }
      let s2 := match e.1 with | some a => freeSlots s1 a e.2 | none => s1
      exec (.transactionSend n v) s = .next (fs.foldl (sendData n) s2)) ∧
    (∀ v, p.st = .up → nextToSend p v = none → exec (.transactionSend n v) s = .next (sendIdle s n)) ∧
    (∀ ack cr, p.st = .up → exec (.width1 n ack cr) s = .next (setPort (takeAck s n ack cr) n { portOf (takeAck s n ack cr) n with width := 3 })) ∧
    (∀ ack cr, p.st = .up → (s.pwr.st = 2 ∨ s.pwr.entering = some 2) → exec (.widen n ack cr) s = .next (wakeBy false (takeAck s n ack cr))) ∧
    (∀ ack cr, p.st = .up → s.pwr.st ≠ 2 → s.pwr.entering ≠ some 2 → exec (.widen n ack cr) s = .next (writeRetrain (takeAck s n ack cr) n)) ∧
    (p.st = .up → p.width = 3 → p.txq.any (fun e => !carries p e.2) = true → exec (.widenResendTimer n) s = .next (sendCtrl s n 2 none)) ∧
    (∀ ftype first seq bs,
      let told := (List.range 8).map (fun k => min (nth p.freed k) (nth p.told k + 255))
      sendFlit s n ftype first seq bs = send (setPort s n { p with told := told })
        (.flit n (flitBytes ftype first seq p.lastGood (told.map (BitVec.ofNat 8)) bs)))

/-- A port trains to the widest good lanes, tells its id, lanes and buffer sizes in a CTRL flit, and is UP at the widest lanes good at both ends, with
fresh sequence numbers and the peer's credits; it retrains on a lost lane, goes DOWN
where training fails, and drains to OFF. Heartbeats are sent from UP while the package is a member, are heard, missed and counted; DARK stops the counting for
its announced silence. All enabled ports DOWN together raise source 13. -/
def Obligations.PortTrainingAndHeartbeats : Prop :=
  ∀ (s : State) (n : Nat),
    let p := portOf s n
    (∀ good rtt w g, p.st = .train → chooseWidth good = some (w, g) → exec (.trainDone n good rtt) s = .next (
      let s1 := setPort s n { p with
        st := .align, width := w, group := g, good := good, rtt := rtt, lastGood := 0xFFF, freed := List.replicate 8 0, told := List.replicate 8 0 }
      sendCtrl s1 n 0 (some ⟨BitVec.ofNat 12 (ownId s1), BitVec.ofNat 5 n, good, bufferSlots⟩))) ∧
    (p.st = .train → exec (.trainTimeout n) s = .next (enterDown s n)) ∧
    (∀ (peer : PeerInfo) w g, p.st = .align → chooseWidth (p.good &&& peer.lanes) = some (w, g) →
      exec (.ctrlFlit n peer) s = .next (hbRefresh (setPort s n { p with
      st := .up, width := w, group := g, peer := some (peer.pkg.toNat, peer.port.toNat), peerNew := true, seqNext := 0, seqExp := 0, lastGood := 0xFFF
      acked := 0xFFF, replay := [], replays := 0, nakHeld := false, partial_ := []
      credits := peer.credits, freed := List.replicate 8 0, told := List.replicate 8 0, peerFreed := List.replicate 8 0 }) n)) ∧
    (∀ lane, p.st = .up → laneUsed p lane = true → exec (.laneLockLoss n lane) s = .next (writeRetrain s n)) ∧
    (∀ good rtt w g, p.st = .retrain → chooseWidth good = some (w, g) →
      exec (.retrainDone n good rtt) s = .next (resendAll (hbRefresh (setPort s n { p with
        st := .up, width := w, group := g, good := good, rtt := rtt, replays := 0 }) n) n)) ∧
    (p.st = .retrain → exec (.retrainTimeout n) s = .next (enterDown s n)) ∧
    (p.st = .drain →
      let s1 := freeWaiting s n
      let s2 := setPort s1 n { portOf s1 n with
        st := .off, replay := [], txq := [], partial_ := [], credits := [], width := 0, group := 0 }
      exec (.drainDone n) s = .next (if p.enLatch then leaveOff s2 n else s2)) ∧
    (p.st = .down → (p.hb = 3 ∨ (p.hb = 4 ∧ p.silence.isSome = true)) → exec (.downRetrainTimer n) s = .next (writeRetrain s n)) ∧
    (s.rst.phase = .ready → s.ports.filter (fun e => e.2.en) ≠ [] → (s.ports.filter (fun e => e.2.en)).all (fun e => e.2.st == .down) = true →
      exec .allPortsDownTimer s = .next (raiseSrc s 13)) ∧
    (∀ m, p.st = .up → peerOf p = some m → s.pod.ownInc ≠ 0 → s.pod.stale = false → inFog s = false →
      exec (.hbeatTimer n) s = .next (enqueueOn (setPort s n { p with hbseq := (p.hbseq + 1) % 2 ^ 32 }) n none
        (ownTxn s tHBEAT m 0 (BitVec.ofNat 64 (p.hbseq % 2 ^ 32)) []))) ∧
    (∀ x s1, arrive s (some n) tHBEAT = .ok x s1 → ((portOf s1 n).hb = 1 ∨ (portOf s1 n).hb = 4 ∨ ((portOf s1 n).hb = 3 ∧ portUp (portOf s1 n) = true)) →
      exec (.hbeat (some n)) s = .next (setPort s1 n { portOf s1 n with
        hb := 1, misses := 0, heard := true, silence := none, liveSince := true })) ∧
    (p.hb = 1 → p.heard = true → exec (.heartbeatMissTimer n) s = .next (setPort s n { p with heard := false })) ∧
    (p.hb = 1 → p.heard = false → p.misses + 1 < regField s rSTK_MEMB 24 17 →
      exec (.heartbeatMissTimer n) s = .next (setPort s n { p with misses := p.misses + 1 })) ∧
    (∀ x s1, arrive s (some n) tDARK = .ok x s1 → (portOf s1 n).hb = 1 →
      exec (.dark (some n)) s = .next (setPort s1 n { portOf s1 n with
        hb := 4, silence := some (bits x.hi 31 0) })) ∧
    (p.hb = 4 → p.silence = some 0 → exec (.silenceTimerEnd n) s = .next (setPort s n { p with
      hb := 1, misses := 0, silence := none, liveSince := true }))

namespace Sys2Proof.Stated

/-- A request of type `ty` that has arrived and whose reply may go: taken, its effect made, and its reply sent. -/
def Served (s : State) (src : Option Nat) (c : Instr) (ty : Nat) (write atomic : Bool) (eff : State → Txn → Nat → Txn × State) : Prop :=
  ∀ x s1 s2, arrive s src ty = .ok x s1 →
    let st := requestStatus s1 x atomic
    (st = 0 → readyLines s write (linesOf (rqPPA x) (rqLen x)) = none) → replyRoom s1 (eff s1 x st).1 = true →
    sendOn (countRefused (eff s1 x st).2 src st) (eff s1 x st).1 = some s2 → exec c s = .next s2

end Sys2Proof.Stated

/-- RD, WR, ATADD and ATCAS that pass the incarnation check are served where their lines are free and their reply can go: data and poison, a write with its edge
code, or the earlier value. DBELL rings its ring and is acknowledged. A reply ends its request and reaches what waits for it, or is counted where nothing does; a
timeout abandons the request and lets its tag rest. An INCNOTE of this package makes it stale, and one of a lost member is believed. -/
def Obligations.RemoteRequestsAndReplies : Prop :=
  ∀ (s : State) (src : Option Nat),
    Served s src (.rd src .none) tRD false false rdEff ∧ Served s src (.wr src) tWR true false wrEff ∧
    Served s src (.atadd src) tATADD true true (atomicEff (fun x v => v + leNat (x.data.take 8))) ∧
    Served s src (.atcas src) tATCAS true true
      (atomicEff (fun x v => if v = leNat (x.data.take 8) then leNat ((x.data.drop 8).take 8) else v)) ∧
    (∀ x s1 s2, arrive s src tDBELL = .ok x s1 →
      let st := dbellStatus s1 x
      let rep := replyTo s1 x tWRACK false st 0 []
      let after := if st = 0 then ringBell (wakeBy false s1) (bits x.hi 19 0) (BitVec.ofNat 64 (leNat (x.data.take 8))) else countRefused s1 src st
      replyRoom after rep = true → sendOn after rep = some s2 → exec (.dbell src) s = .next s2) ∧
    (∀ x s1 r, arrive s src tRDRSP = .ok x s1 → s1.pod.reqs.find? (fun r => r.tag == x.tag && r.dst == x.src) = some r →
      exec (.rdrsp src) s = .next (deliverReply (closeReq s1 r) r x)) ∧
    (∀ x s1 r, arrive s src tWRACK = .ok x s1 → s1.pod.reqs.find? (fun r => r.tag == x.tag && r.dst == x.src) = some r →
      exec (.wrack src) s = .next (deliverReply (closeReq s1 r) r x)) ∧
    (∀ x s1 r, arrive s src tATRSP = .ok x s1 → s1.pod.reqs.find? (fun r => r.tag == x.tag && r.dst == x.src) = some r →
      exec (.atrsp src) s = .next (deliverReply (closeReq s1 r) r x)) ∧
    (∀ x s1, arrive s src tRDRSP = .ok x s1 → s1.pod.reqs.find? (fun r => r.tag == x.tag && r.dst == x.src) = none →
      exec (.rdrsp src) s = .next (countDrop s1 src 47 32)) ∧
    (∀ tag r, s.pod.reqs.find? (fun r => r.tag == tag) = some r → hostStalls s r = false → r.why = .void →
      exec (.reqTimeout tag) s = .next (restTag (closeReq s r) tag)) ∧
    (∀ tag r p ch i, s.pod.reqs.find? (fun r => r.tag == tag) = some r → hostStalls s r = false → r.why = .rwrite p ch i →
      exec (.reqTimeout tag) s = .next (copyEnd (restTag (closeReq s r) tag) p ch i 0x0405 r.dst)) ∧
    (∀ x s1, arrive s src tINCNOTE = .ok x s1 →
      (bits x.hi 11 0 = ownId s1 → bits x.hi 27 12 = s1.pod.ownInc → exec (.incnote src) s = .next s1) ∧
      (bits x.hi 11 0 = ownId s1 → bits x.hi 27 12 ≠ s1.pod.ownInc → exec (.incnote src) s = .next (goStale s1)) ∧
      (bits x.hi 11 0 ≠ ownId s1 → incOf s1 (bits x.hi 11 0) ≠ 0 → bits x.hi 27 12 = 0 →
        exec (.incnote src) s = .next (loseMember s1 (bits x.hi 11 0) (some x.src))))

/-- A transaction whose incarnation is not the one held for its sender is dropped: no request of it reads, writes or rings anything, no reply of it is believed, and
no notice of it changes the membership. -/
def Obligations.StrangersChangeNothing : Prop :=
  ∀ (s : State) (n : Nat) (x : Txn) (s1 : State) (c : Instr × Nat),
    c ∈ [(Instr.rd (some n) .none, tRD), (.wr (some n), tWR), (.atadd (some n), tATADD), (.atcas (some n), tATCAS), (.dbell (some n), tDBELL),
      (.rdrsp (some n), tRDRSP), (.wrack (some n), tWRACK), (.atrsp (some n), tATRSP), (.incnote (some n), tINCNOTE)] →
    takeTxn s (some n) c.2 = some (x, s1) → s1.pod.stale = false → inFog s1 = false → x.inc ≠ incOf s1 x.src →
    ∃ t, exec c.1 s = .next t ∧ t.mem = s.mem ∧ t.poison = s.poison ∧ t.coh = s.coh ∧ t.cores = s.cores ∧ t.rings = s.rings ∧
      t.sched = s.sched ∧ t.loupes = s.loupes ∧ t.pod.reqs = s.pod.reqs ∧ t.pod.incs = s.pod.incs ∧ t.pod.stale = s.pod.stale

namespace Sys2Proof.Stated

/-- `x` is the first element of `l` that `p` accepts, and `rest` is `l` without it. -/
def First {α : Type} (p : α → Bool) (l : List α) (x : α) (rest : List α) : Prop :=
  ∃ before after, l = before ++ x :: after ∧ rest = before ++ after ∧ p x = true ∧ before.all (fun y => !p y) = true

def isRds : HKind → Bool | .rds _ => true | _ => false
def isWrinv : HKind → Bool | .wrinv .. => true | _ => false
def isAth : HKind → Bool | .ath .. => true | _ => false

/-- A request for a line, of a kind, of an agent where one is named. -/
def isReq (line : Nat) (a : Option Agent) (k : HKind → Bool) : CohMsg → Bool
  | .req r => decide (r.line = line) && k r.kind && (match a with | some a => decide (r.who = .agent a) | none => true)
  | _ => false

def isWb (a : Agent) (line : Nat) : CohMsg → Bool | .wb b l _ => decide (b = a ∧ l = line) | _ => false
def isRsp (a : Agent) (line : Nat) (k : Rsp) : CohMsg → Bool | .rsp b l j _ => decide (b = a ∧ l = line ∧ j = k) | _ => false
def isGrant (a : Agent) (line : Nat) : CohMsg → Bool | .grant b l _ _ => decide (b = a ∧ l = line) | _ => false

/-- A request joins its line's queue, and the line is served as far as it goes. -/
def queued (s : State) (line : Nat) (r : HReq) : State :=
  pumpLine (setHome s line { homeLine s line with queue := (homeLine s line).queue ++ [r] }) line

/-- A line's request in service is finished, and the next one begins. -/
def released (s : State) (line : Nat) : State := pumpLine (setHome s line { homeLine s line with active := none }) line

end Sys2Proof.Stated

/-- The coherence messages, on a part that serves. A request reaches its line's home and is queued behind the others of that line; an Ack ends the request that was
granted; an error in the home's directory entry or in a header is fog. A write-back is applied at once, poisoned where its copy was or a beat of it was in error. A holder answers a snoop from what it holds at that moment: with its dirty data, or that it missed. A response is
taken into the request that awaits it. A message that the home's state does not admit, a snoop that times out, and a machine check are fog. A grant gives its
agent the line in a way of its cache, sends the Ack, and lets the stores that waited for the line be made; a Done tells the ring that its SIGNAL is visible. -/
def Obligations.HomesAndHolders : Prop :=
  ∀ (s : State) (line : Nat), serving s = true →
    (∀ (a : Agent) (r : HReq) (t : List CohMsg), ¬ (r.who = .agent .host ∧ hostWriting s = true) →
      (First (isReq line (some a) isRds) s.coh.msgs (.req r) t → exec (.rds a line .none) s = .next (queued (withMsgs s t) line r)) ∧
      (First (isReq line (some a) isRds) s.coh.msgs (.req r) t → exec (.rds a line .entryUe) s = .next (homeFog s 0x0704 line 7) ∧
        ∀ e g d x, x / 64 = line → beatOn s (askerDies r.who) (asksData r) (bringsData r) (.header e g d x) = true →
          exec (.rds a line (.wire (.header e g d x))) s = .next (fog (logBeat s e g d true) 0x0704 (receiver e d) 31 line 7)) ∧
      (First (isReq line (some a) (· == .rdx)) s.coh.msgs (.req r) t → exec (.rdx a line .none) s = .next (queued (withMsgs s t) line r)) ∧
      (First (isReq line (some a) (· == .upg)) s.coh.msgs (.req r) t → exec (.upg a line .none) s = .next (queued (withMsgs s t) line r)) ∧
      (First (isReq line none (· == .rdcur)) s.coh.msgs (.req r) t → exec (.rdcur line .none) s = .next (queued (withMsgs s t) line r)) ∧
      (First (isReq line none isWrinv) s.coh.msgs (.req r) t → exec (.wrinv line .none) s = .next (queued (withMsgs s t) line r)) ∧
      (First (isReq line none isAth) s.coh.msgs (.req r) t → exec (.ath line .none) s = .next (queued (withMsgs s t) line r))) ∧
    (∀ (a : Agent) (t : List CohMsg), First (fun m => decide (m = .ack a line)) s.coh.msgs (.ack a line) t →
      (∀ act, (homeLine s line).active = some act → act.granted = true → act.req.who = .agent a →
        exec (.ackMsg a line) s = .next (retryEntries (released (withMsgs s t) line))) ∧
      ((homeLine s line).active = none → exec (.ackMsg a line) s = .next (homeFog (withMsgs s t) 0x0701 line (agentId a)))) ∧
    (∀ (a : Agent) (d : List Byte) (t : List CohMsg), First (isWb a line) s.coh.msgs (.wb a line d) t →
      exec (.wb a line .none) s = .next (applyWb (taint (withMsgs s t) a line false) a line 0 d (tainted s a line)) ∧
      ∀ e g x p, p / 64 = line → beatOn (withMsgs s t) (askerDies (.agent a)) false true (.data e g x p) = true →
        exec (.wb a line (.wire (.data e g x p))) s = .next (applyWb (taint (logBeat (withMsgs s t) e g x false) a line false) a line 0 d true)) ∧
    (∀ (a : Agent) (t : List CohMsg) (c : Instr) (k : Snp), (c, k) ∈ [(Instr.snps a line, Snp.s), (.snpx a line, .x), (.snpcur a line, .cur)] →
      First (fun m => decide (m = .snp a line k)) s.coh.msgs (.snp a line k) t →
      let u := withMsgs s t
      (a = .ring → ringHolds u line = true → exec c s = .next (post (wakeWatch u false line) (.rsp a line .i none))) ∧
      (a = .ring → ringHolds u line = false → exec c s = .next (post u (.rsp a line .miss none))) ∧
      (a ≠ .ring → copyOf u a line = none → exec c s = .next (post u (.rsp a line (if wbOnWay u a line then .wbif else .miss) none))) ∧
      (∀ x, a ≠ .ring → copyOf u a line = some x →
        let data := if isDirty x then some x.data else none
        let r : Rsp := if isDirty x then .o else .s
        exec c s = .next (match k with
          | .s => post (setCopy u a line (some { x with
              st := if isDirty x then .o else .s })) (.rsp a line r data)
          | .x => post (if isDirty x then setCopy u a line none else taint (setCopy u a line none) a line false) (.rsp a line .i data)
          | .cur => post u (.rsp a line r data)))) ∧
    (∀ (a : Agent) (t : List CohMsg) (d e : Option (List Byte)) (c : Instr) (k : Rsp), a ≠ .host →
      (c, k) ∈ [(Instr.rspmiss a line e, Rsp.miss), (.rsps a line e, .s), (.rspo a line e, .o), (.rspi a line e, .i), (.rspwbif a line, .wbif)] →
      First (isRsp a line k) s.coh.msgs (.rsp a line k d) t →
      (∀ act, (homeLine s line).active = some act → act.wait.contains a = true → allowedRsp a (kindSnp act) k = true →
        exec c s = .next (advance (takeRsp (withMsgs s t) a line act k d) line)) ∧
      ((homeLine s line).active = none → exec c s = .next (homeFog (withMsgs s t) 0x0701 line (agentId a)))) ∧
    (∀ (d : Option (List Byte)) (act : Active), s.cxl.link = .l0 → (homeLine s line).active = some act → act.wait.contains .host = true →
      let e := d.map (fitBytes 64)
      (kindSnp act = .x → exec (.rspi .host line d) s = .next (advance (takeRsp s .host line act .i e) line)) ∧
      (kindSnp act ≠ .x → exec (.rspi .host line d) s = .next (homeFog s 0x0701 line 2)) ∧
      exec (.rspmiss .host line d) s = .next (advance (takeRsp s .host line act .miss none) line) ∧
      (kindSnp act ≠ .x → exec (.rsps .host line d) s = .next (advance (takeRsp s .host line act .s e) line)) ∧
      (kindSnp act = .x → exec (.rsps .host line d) s = .next (homeFog s 0x0701 line 2)) ∧
      exec (.biconflict line) s = .next (send (bump s (rCOH_HOME_RACE (homeOf s line)) 63 48) (.cxl mBIConflictAck (hpaOf s line) []))) ∧
    (∀ (a : Agent) (st : LineSt) (d : List Byte) (t : List CohMsg), First (isGrant a line) s.coh.msgs (.grant a line st (some d)) t →
      exec (.grantMsg a line) s =
        .next (drainAll (post (setCopy (copyWay (withMsgs s t) a line) a line (some ⟨st, d⟩)) (.ack a line)))) ∧
    (∀ (n : Nat) (w : Asker) (l : Nat) (v : BitVec 64) (t : List CohMsg), takeDone n s.coh.msgs = some ((w, l, v), t) →
      (∀ r, w = .ring r → poisoned s l = false → exec (.doneMsg n) s = .next (report (withMsgs s t) r (Report.status_ 0))) ∧
      ((∀ r, w ≠ .ring r) → exec (.doneMsg n) s = .next (withMsgs s t))) ∧
    (∀ (act : Active) (a : Agent) (l : List Agent), (homeLine s line).active = some act →
      act.wait.filter (fun b => b != .host || s.cxl.link == .l0) = a :: l →
      exec (.snoopTimeout line) s = .next (homeFog s 0x0702 line (agentId a))) ∧
    (∀ m : MCheck, exec (.machineCheck m) s =
      .next (raiseSrc (fog s 0x0705 (8 + m.die % 2) 31 m.line 7) 12))

namespace Sys2Proof.Stated

/-- A host write `c` of bytes at an HPA that a committed decoder claims: in a reserved region logged and answered, of a line the host owns
applied and answered, and else a request to the line's home. -/
def HostStores (s : State) (c : Instr) (hpa : BitVec 52) (bs : List Byte) (poison : Bool) : Prop :=
  ∀ p, memUp s = true → serving s = true → ppaOf s hpa = some p →
    let s1 := wakeBy false s
    let line := lineOf p
    (reserved s1 p = true → exec c s = .next (send (logRsv s1 0 p) (.cxl mCmp (hpaOf (logRsv s1 0 p) line) []))) ∧
    (reserved s1 p = false → (dirOf s1 line).owner = some .host →
      let s2 := applyWb s1 .host line (p % 64) bs poison
      exec c s = .next (send s2 (.cxl mCmp (hpaOf s2 line) []))) ∧
    (reserved s1 p = false → (dirOf s1 line).owner ≠ some .host → exec c s = .next (post s1 (.req ⟨.hostWr, line, .wrinv (p % 64) bs poison⟩)))

/-- A core that runs and is neither halted nor waiting. -/
def CoreRuns (s : State) (die core : Nat) : Prop :=
  serving s = true ∧ s.coh.halted = false ∧ die < 2 ∧ core < 48 ∧ s.coh.wfi.contains (coreKey die core) = false

end Sys2Proof.Stated

/-- What the host, UIO peers and server cores may ask, and what comes of it. A MemRd becomes a request of the host at the line's home, and in fog is answered with
poison. A host write is answered at once where the host owns the line or the region is reserved, and else served at the home. A UIO write completes on
acceptance; a UIO read answers once its requester's earlier writes are visible, and is kept until then. A host snoop is answered from the host-line cache. GO makes the oldest write of a line visible;
data answers the request it belongs to. A right HDM commit sets the decoder and a wrong one only its error. ATS answers enter the translation cache and an
invalidation removes them and is completed once nothing that uses them is out. A server core, its earlier stores going on first, sets its timer, waits,
loads, stores and evicts through its die's cache; a timer that falls due interrupts it. -/
def Obligations.HostPeersAndServerCores : Prop :=
  ∀ s : State,
    (∀ hpa p, memUp s = true → ppaOf s hpa = some p →
      (serving s = true →
        exec (.memrd hpa .shared) s = .next (post (wakeBy false s) (.req ⟨.agent .host, lineOf p, .rds .shared⟩)) ∧
        exec (.memrd hpa .any) s = .next (post (wakeBy false s) (.req ⟨.agent .host, lineOf p, .rdx⟩)) ∧
        exec (.memrd hpa .none) s = .next (post (wakeBy false s) (.req ⟨.agent .host, lineOf p, .rdcur⟩))) ∧
      (inFog s = true → ∀ w, exec (.memrd hpa w) s = .next (hostData (useFree s 64) (lineOf p) (freeBytes s 64) 0 true))) ∧
    (∀ w, HostStores s (.memwr w) (setBits w.hpa 5 0 0) (fitBytes 64 w.data) w.poison ∧
      HostStores s (.memwrptl w) w.hpa (w.data.take (64 - w.hpa.toNat % 64)) w.poison) ∧
    (∀ w p, ioUp s = true → serving s = true → uioRange s w.hpa w.data.length = some p →
      let s1 := wakeBy false s
      let s2 := nextUid (send s1 (.cpl s1.uid [] 0))
      let all := cutLines (w.data.length + 1) p w.data
      let s3 := match all.find? (fun x => reserved s2 (x.1 * 64 + x.2.1)) with | some x => logRsv s2 1 (x.1 * 64 + x.2.1) | none => s2
      exec (.uioWrite w) s = .next ((all.filter (fun x => !reserved s3 (x.1 * 64 + x.2.1))).foldl
        (fun s x => post s (.req ⟨.uio w.rid s1.uid, x.1, .wrinv x.2.1 x.2.2 w.poison⟩)) s3)) ∧
    (∀ rid hpa len p, ioUp s = true → serving s = true → uioRange s hpa len = some p →
      let s1 := wakeBy false s
      let x := readRaw s1 p len
      (uioWriting s1 rid = false → readyLines s1 false (linesOf p len) = none →
        exec (.uioRead hpa len rid) s = .next (nextUid (send x.2.2 (.cpl s1.uid x.1 (if x.2.1 then 2 else 0))))) ∧
      (uioWriting s1 rid = true → exec (.uioRead hpa len rid) s = .next (nextUid { s1 with
        cxl := { s1.cxl with
          reads := s1.cxl.reads ++ [⟨rid, p, len, s1.uid⟩] } }))) ∧
    (∀ hpa, ioUp s = true → s.cxl.mode = true → serving s = true →
      let h := lineOf hpa.toNat
      let s1 := wakeBy false s
      (hlcLine s h = none → exec (.snpdata hpa) s = .next (snpAnswer s1 h [] 0) ∧ exec (.snpinv hpa) s = .next (snpAnswer s1 h [] 0) ∧
        exec (.hostSnpcur hpa) s = .next (snpAnswer s1 h [] 0)) ∧
      (∀ l, hlcLine s h = some l →
        let d := if l.st = .m then l.data else []
        exec (.snpdata hpa) s = .next (snpAnswer { s1 with
          coh := { s1.coh with
            hlc := tput s1.coh.hlc h { l with
              st := .s } } } h d 1) ∧
        exec (.snpinv hpa) s = .next (settleFills (snpAnswer (wakeWatch { s1 with
          coh := { s1.coh with
            hlc := tdel s1.coh.hlc h, rsv := s1.coh.rsv.filter (fun e => !(e.2 == rsvLine true h)) } } true h) h d 0)) ∧
        (l.st = .m → exec (.hostSnpcur hpa) s = .next (snpAnswer s1 h l.data 3)) ∧
        (l.st = .s → exec (.hostSnpcur hpa) s = .next (snpAnswer s1 h [] 1)))) ∧
    (∀ hpa o t, ioUp s = true → s.cxl.mode = true → inFog s = false →
      let h := lineOf hpa.toNat
      let s1 := { s with
        coh := { s.coh with
          hout := t } }
      (First (fun o => o.hline == h && (o.kind == .write || o.kind == .evict)) s.coh.hout o t →
        exec (.go hpa) s = .next (pendingReset (settleInvs (settleFills (errGo s1 h))))) ∧
      (s.rst.phase = .ready → First (fun o => o.hline == h && (o.kind == .rdCurr || o.kind == .rdShared || o.kind == .rdOwn)) s.coh.hout o t →
        ∀ d poison,
        let settled (s : State) : State := drainAll (settleInvs (settleFills s))
        (o.kind = .rdCurr → o.who ≠ whoNone → o.who ≠ whoErrq → exec (.cxlCacheData hpa d poison) s = .next (settled { s1 with
          coh := { s1.coh with
            hbuf := s.coh.hbuf ++ [(o.who, h, fitBytes 64 d, poison)] } })) ∧
        (o.kind = .rdCurr → o.who = whoNone → exec (.cxlCacheData hpa d poison) s = .next (settled s1)) ∧
        (o.kind = .rdShared → poison = false → exec (.cxlCacheData hpa d poison) s = .next (settled (takeFill s1 (h, .s, fitBytes 64 d, o.who)))) ∧
        (o.kind = .rdOwn → poison = false → exec (.cxlCacheData hpa d poison) s = .next (settled (takeFill s1 (h, .e, fitBytes 64 d, o.who)))) ∧
        (o.kind = .rdShared ∨ o.kind = .rdOwn → poison = true → exec (.cxlCacheData hpa d poison) s = .next (settled (poisonedFill s1 h o.who))) ∧
        (∀ u st who, hlcPut s1 h st (fitBytes 64 d) = some u → who < whoWatch 0 → hlcLine s1 h = none → takeFill s1 (h, st, fitBytes 64 d, who) = u))) ∧
    (∀ set : HdmSet, ioUp s = true → s.cxl.lockD = false →
      (s.cxl.mode = true → s.rst.memActive = true → set.base.toNat % 2 ^ 28 = 0 → set.size = ppaTop → set.ways = 1 → set.biEn = true →
        set.base.toNat + ppaTop ≤ 2 ^ 52 → exec (.hdmCommit set) s = .next { s with
          cxl := { s.cxl with
            base := set.base, committed := true, errNC := false, biEn := true, lockD := set.lock } }) ∧
      ((s.cxl.mode = false ∨ s.rst.memActive = false ∨ set.base.toNat % 2 ^ 28 ≠ 0 ∨ set.size ≠ ppaTop ∨ set.ways ≠ 1 ∨ set.biEn = false ∨
          2 ^ 52 < set.base.toNat + ppaTop) → exec (.hdmCommit set) s = .next { s with
          cxl := { s.cxl with
            errNC := true, biEn := set.biEn } })) ∧
    (∀ ans : AtsAnswer, ioUp s = true → s.errs.held = [] → s.cxl.atsWait.contains ans.page = true →
      ∃ t l, exec (.atsTranslationCompletion ans) s = .next t ∧
        t.cxl.atc = l ++ [(ans.page, ans.phys, ans.granted && ans.read, ans.granted && ans.write)] ∧ t.cxl.atc.length ≤ 4096 ∧
        t.cxl.atsWait.contains ans.page = false ∧ ∀ e ∈ l, e ∈ s.cxl.atc ∧ e.1 ≠ ans.page) ∧
    (∀ ctx page, ioUp s = true →
      let phys := (s.cxl.atc.filter (fun e => e.1 == page)).map (fun e => e.2.1)
      let s1 := { s with
        cxl := { s.cxl with
          atc := s.cxl.atc.filter (fun e => e.1 != page), invs := s.cxl.invs ++ [(page, phys)] } }
      exec (.atsInvalidateRequest ctx page) s = .next (settleInvs s1) ∧
      (s.cxl.invs = [] → (∀ o ∈ s.coh.hout, phys.contains (o.hline / 64) = false) → settleInvs s1 = send { s1 with
        cxl := { s1.cxl with
          invs := [] } } (.cxl mAtsInvCpl (page * 4096) [])) ∧
      (s.cxl.invs = [] → (∃ o ∈ s.coh.hout, phys.contains (o.hline / 64) = true) → settleInvs s1 = s1)) ∧
    (∀ die core addr, CoreRuns s die core →
      let k := coreKey die core
      let a := agentOf die
      let line := lineOf addr
      let u := drainCore { s with
        coh := { s.coh with
          got := tdel s.coh.got k } } k
      (∀ v, exec (.serverCoreInstruction die core addr (.timer v) .none) s = .next (executed { u with
        coh := { u.coh with
          timers := tset 0 u.coh.timers k v, irq := u.coh.irq.filter (· != k) } } k)) ∧
      (storesOf u k = [] → exec (.serverCoreInstruction die core addr .fence .none) s = .next (executed u k)) ∧
      (u.coh.irq.contains k = false → exec (.serverCoreInstruction die core addr .wfi .none) s = .next (executed { u with
        coh := { u.coh with
          wfi := insNat k u.coh.wfi } } k)) ∧
      (addr + 64 ≤ 2 ^ 41 → storePends u k ⟨false, line⟩ = false →
        (∀ n, 0 < n → addr % 64 + n ≤ 64 → copyOf u a line = none → agentBusy u a line = false →
          exec (.serverCoreInstruction die core addr (.load n) .none) s = .next (post u (.req ⟨.agent a, line, .rds .any⟩))) ∧
        (∀ n c, 0 < n → addr % 64 + n ≤ 64 → copyOf u a line = some c → tainted u a line = false →
          exec (.serverCoreInstruction die core addr (.load n) .none) s = .next { u with
            coh := { u.coh with
              got := tput u.coh.got k (.data ((c.data.drop (addr % 64)).take n)) } }) ∧
        (∀ bs c, bs ≠ [] → addr % 64 + bs.length ≤ 64 → reserved u addr = false → copyOf u a line = some c → (c.st = .m ∨ c.st = .e) →
          let t := putLine u k ⟨false, line⟩ (addr % 64) bs
          exec (.serverCoreInstruction die core addr (.store bs) .none) s = .next (executed t k) ∧
          copyOf t a line = some ⟨.m, c.data.take (addr % 64) ++ bs ++ c.data.drop (addr % 64 + bs.length)⟩) ∧
        (∀ c, copyOf u a line = some c → isDirty c = true →
          exec (.serverCoreInstruction die core addr .evict .none) s = .next (executed (post (setCopy u a line none) (.wb a line c.data)) k)))) ∧
    (∀ die core, s.rst.phase = .ready → s.coh.halted = false → die < 2 → core < 48 →
      let k := coreKey die core
      tget 0 s.coh.timers k ≠ 0 → (tget 0 s.coh.timers k).toNat ≤ (s.aon.getD (8 + die) 0).toNat → s.coh.irq.contains k = false →
      exec (.timerCompare die core) s = .next (wakeBy true { s with
        coh := { s.coh with
          irq := insNat k s.coh.irq, wfi := s.coh.wfi.filter (· != k) } }))

/-- The CXL link. It trains into L0, with CXL.cache and CXL.mem only from 32 GT/s on; that the host's enables come with LINK_UP is the model's choice (log entry 47).
Recovery is counted and returns, and what the port held goes on its way. A loss is logged with the writes it abandons; a modified host line makes it fog, and else every host line is dropped and the
loss settled. A hot reset and PERST_N are a loss first, then their reset source; an FLR is a source alone; an IDE failure and viral are losses with their own
cause. PME_Turn_Off writes modified lines back, drops every host line, and leaves the link in L2. A reset pin counts from its assertion and acts when confirmed. -/
def Obligations.LinkEventsAndHostPins : Prop :=
  ∀ s : State,
    (∀ width rate cxl cacheEn memEn ats bars, trainsFrom s = true → (s.cxl.link = .down ∨ s.cxl.link = .l2) → (width = 4 ∨ width = 8 ∨ width = 16) →
      1 ≤ rate → rate ≤ 6 →
      let mode := cxl && decide (5 ≤ rate)
      let s1 := wakeBy false s
      let t : State := { s1 with
        cxl := { s1.cxl with
          link := .l0, width := width, rate := rate, mode := mode, cacheEn := mode && cacheEn, memEn := mode && memEn, atsEn := ats, bars := bars
          lost := false, trained := true, held := [] }
        out := s1.out ++ s1.cxl.held }
      exec (.linkUp width rate cxl cacheEn memEn ats bars) s = .next (flushErrs 65 t)) ∧
    (s.cxl.link = .l0 → exec .linkRecovery s = .next (bump { s with
      cxl := { s.cxl with
        link := .recovery } } rCXL_ERR 31 16)) ∧
    (s.cxl.link = .recovery → exec .linkL0Return s = .next (flushErrs 65 { s with
      cxl := { s.cxl with
        link := .l0, held := [] }
      out := s.out ++ s.cxl.held })) ∧
    ((s.cxl.link = .l0 ∨ s.cxl.link = .recovery) → ∀ (c : Instr) (cause : Nat),
      (c, cause) ∈ [(Instr.dlDown, 0), (.linkHoldExpiry, 1)] → (cause = 1 → s.cxl.link = .recovery) → inFog s = false →
      let s1 := logLoss s cause (s.coh.hout.filter (fun o => o.kind == .write || o.kind == .evict)).length (hasDirty s)
      let s2 := { s1 with
        cxl := { s1.cxl with
          link := .down, width := 0, rate := 0, lost := true, held := [], reads := [], invs := [] }
        coh := { s1.coh with
          hout := [], hbuf := [], fills := [], rsv := s1.coh.rsv.filter (fun e => decide (e.2 ≤ 2 ^ 40)) }
        errs := { s1.errs with
          hostWait := none } }
      (hasDirty s = false → inFog s2 = false → exec c s = .next (pendingReset (settleLoss { s2 with
        coh := { s2.coh with
          hlc := [] } } s.coh.hout))) ∧
      (∀ e, hasDirty s = true → s.coh.hlc.find? (fun e => e.2.st == .m) = some e → exec c s = .next (pendingReset (fog s2 0x0703 8 31 e.1 2)))) ∧
    ((s.cxl.link = .l0 ∨ s.cxl.link = .recovery) → exec .hotReset s = .next (raiseHost (hostPartReset (linkLoss s 3)) 2)) ∧
    (ioUp s = true → exec .flr s = .next (raiseHost (setReg { s with
      msix := .reset
      cxl := { s.cxl with
        atsEn := false, atc := [], atsWait := [], bars := [0, 0, 0] } } rPKG_EVT_CTRL 0) 3)) ∧
    (ioUp s = true → s.cxl.ide = true → exec .ideIntegrityFailure s = .next (linkLoss (bump { s with
      cxl := { s.cxl with
        ide := false } } rCXL_ERR 63 56) 4)) ∧
    (ioUp s = true → exec .viralReceived s = .next (linkLoss { s with
      cxl := { s.cxl with
        viralRx := true } } 5)) ∧
    (ioUp s = true → inFog s = false → ∃ t, exec .pmeTurnOff s = .next t ∧ t.cxl.link = .l2 ∧ t.coh.hlc = [] ∧
      (∀ e ∈ s.coh.hlc, e.2.st = .m → Msg.cxl mDirtyEvict (e.1 * 64) e.2.data ∈ t.out) ∧ (∀ o ∈ t.coh.hout, o.kind ≠ .evict) ∧ t.mem = s.mem ∧ t.regs = s.regs) ∧
    exec .warmRstNAssert s = .next { s with
      pins := { s.pins with
        warmRst := false }
      rst := { s.rst with
        warmCnt := true } } ∧
    exec .perstNAssert s = .next { s with
      pins := { s.pins with
        perst := false }
      rst := { s.rst with
        perstCnt := true } } ∧
    (s.rst.warmCnt = true → exec (.pinResetConfirm .warm) s = .next (raiseSrc { s with
      rst := { s.rst with
        warmCnt := false } } 4)) ∧
    (s.rst.perstCnt = true → exec (.pinResetConfirm .perst) s = .next (raiseHost (hostPartReset (linkLoss { s with
      rst := { s.rst with
        perstCnt := false } } 2)) 1))

/-- The DOE mailboxes and JTAG. Discovery and the CDAT answer what they hold. SPDM answers in the order of its connection, and with an error before it is far
enough (the order is the model's reading, log entry 83); FINISH secures a session and END_SESSION ends it. QUOTE is answered in or out of a session. SETKEY takes
the owner key of an unowned package inside a session, and is counted and refused otherwise. IDE_KM programs and starts the stream in a session. HOLDBOOT holds
bring-up; IDCODE and BYPASS let it go. At the hold point CHALLENGE gives 32 bytes of the random source, UNLOCK with the vendor's signature disowns the package
and sets the scope, and nothing of it happens under strict-AUTH. DIETEST, REACHPROG and PKGRST need scope bit 0; REACHPROG blows value and set bits, and no other
fuse. -/
def Obligations.MailboxesSessionsAndJtag : Prop :=
  ∀ s : State,
    (doeUp s = true →
      (∀ m i p, (doeProtocols m)[i]? = some p → exec (.doeDiscovery m i) s =
        .next (send s (.doe m 0 [BitVec.ofNat 8 p, BitVec.ofNat 8 (if i + 1 < (doeProtocols m).length then i + 1 else 0)]))) ∧
      (∀ i d, cdat[i]? = some d → exec (.cxlTableAccess i) s = .next (send s (.doe 0 1 d))) ∧
      (∃ t, exec .getVersion s = .next t ∧ t.sec.spdm = 1 ∧ t.sec.secured = false ∧ t.sec.loads = s.sec.loads ∧ t.flash = s.flash) ∧
      (1 ≤ s.sec.spdm → exec .getCapabilities s = .next (spdmSend (setSpdm s (max 2 s.sec.spdm)) 0x61 [])) ∧
      (2 ≤ s.sec.spdm → exec .negotiateAlgorithms s = .next (spdmSend (setSpdm s (max 3 s.sec.spdm)) 0x63 [])) ∧
      (3 ≤ s.sec.spdm →
        exec .getDigests s = .next (spdmSend s 0x01 (Config.sha3 (Config.stdMessage stdChain 0))) ∧
        exec (.getCertificate 0) s = .next (spdmSend s 0x02 (Config.stdMessage stdChain 0)) ∧
        (∀ slot, slot ≠ 0 → exec (.getCertificate slot) s = .next (spdmError s)) ∧
        (∀ nonce,
          let body := fitBytes 32 nonce ++ Config.sha3 (Config.stdMessage stdChain 0)
          exec (.spdmChallenge nonce) s = .next (useFree (spdmSend s 0x03 (body ++ signed s (Config.sha3 body))) 1)) ∧
        exec .getMeasurements s = .next (spdmSend s 0x60 (measures s).flatten) ∧
        exec .keyExchange s = .next (useFree (spdmSend (setSpdm s 4) 0x64 (signed s [])) 1) ∧
        (s.sec.secured = true → ∃ t, exec .endSession s = .next t ∧ t.sec.secured = false ∧ t.out = s.out ++ [.doe 1 3 (BitVec.ofNat 8 0x6C :: Config.stdMessage 0x6C 0)])) ∧
      (4 ≤ s.sec.spdm → ∃ t, exec .finish s = .next t ∧ t.sec.secured = true ∧ t.sec.spdm = 3 ∧ t.flash = s.flash ∧ t.fuses = s.fuses) ∧
      (s.sec.spdm < 3 → ∀ c ∈ [Instr.getDigests, .getCertificate 0, .getMeasurements, .keyExchange, .finish, .endSession], exec c s = .next (spdmError s)) ∧
      (∀ nonce, exec (.quote nonce) s =
        .next (useFree (send s (.doe 1 4 (quoteBody s nonce ++ signed s (Config.sha3 (quoteBody s nonce))))) 1)) ∧
      (∀ key : List Byte, s.sec.secured = true → s.flash.current = none → key.length = 32 → exec (.setkey key) s = .next (send { s with
        flash := { appendCtr s.flash (ctrRecord key 0) with
          current := some key, previous := none }
        sec := { s.sec with
          rotations := 0 } } (.doe 1 4 [0x82]))) ∧
      (∀ key : List Byte, (s.sec.secured = false ∨ s.flash.current ≠ none ∨ key.length ≠ 32) →
        exec (.setkey key) s = .next (send (secFail s 3 0 0) (.doe 1 4 [0xFF]))) ∧
      (s.sec.secured = true → exec (.ideKm .program) s = .next (send { s with
        cxl := { s.cxl with
          ideProg := true } } (.doe 1 3 [0]))) ∧
      (s.sec.secured = true → s.cxl.ideProg = true → exec (.ideKm .start) s = .next (send { s with
        cxl := { s.cxl with
          ide := true, ideProg := false, ideKeys := s.cxl.ideKeys + 1 } } (.doe 1 3 [1])))) ∧
    exec .idcode s = .next (send (unhold (loadTap s 0)) (.tdo (fitBytes 4 (Config.stdMessage stdIdcode 0)))) ∧
    exec .bypass s = .next (unhold (loadTap s 1)) ∧
    (∃ t, exec .holdboot s = .next t ∧ t.rst.hold = true ∧ t.rst.phase = s.rst.phase ∧ t.sec.tap = 2 ∧ t.out = s.out) ∧
    (jtagScope s = true → exec .pkgrst s = .next (raiseSrc (loadTap s 5) 11)) ∧
    (jtagScope s = false → exec .pkgrst s = .next (loadTap s 5)) ∧
    (∀ l, s.rst.hold = true → s.rst.phase = .seq l 7 →
      (∃ t, exec .challenge s = .next t ∧ t.sec.challenge = some (freeBytes s 32) ∧ t.out = s.out ++ [.tdo (freeBytes s 32)]) ∧
      (∀ req c, s.rst.strict = false → s.sec.challenge = some c → unlockOk s req c = true →
        ∃ t, exec (.unlock req) s = .next t ∧ t.sec.scope = req.scope ∧ t.sec.vendor = true ∧ t.flash.current = none ∧ t.flash.previous = none ∧
          t.flash.logA = [] ∧ t.flash.logB = [] ∧ t.sec.challenge = none ∧ t.fuses = s.fuses ∧ t.out = s.out) ∧
      (∀ req, s.rst.strict = true → exec (.unlock req) s = .next (loadTap s 4)) ∧
      (jtagScope s = true →
        (∀ die, die < 10 → ∃ t, exec (.dietest die) s = .next t ∧ t.rst.dietest = insNat die s.rst.dietest ∧ t.out = s.out ++ [.tdo (dieResults s die)]) ∧
        (∀ (n : Nat) (val : BitVec 3), n < 16 → bit s.fuses.flock n = false → bit s.fuses.bset n = false → val ≠ 5 → val ≠ 6 →
          BitVec.ofNat 3 (nth s.fuses.bval n) &&& ~~~val = 0 → ∃ t, exec (.reachprog n val val) s = .next t ∧
            t.fuses.bset = s.fuses.bset ||| BitVec.ofNat 16 (2 ^ n) ∧ t.fuses.bval = s.fuses.bval.set n (BitVec.ofNat 3 (nth s.fuses.bval n) ||| val).toNat ∧
            t.fuses.fval = s.fuses.fval ∧ t.fuses.flock = s.fuses.flock)))

/-- PWR_OK rising begins a level-0 reset as source 0, and its fall ends every activity; fuses, flash and what was sent stand. Bring-up goes through its steps in
order: the reach table is sensed, the management controller boots from the slot that verifies or bring-up stops with FW_NONE, straps are exchanged, edges
train, it waits at the hold point while HOLDBOOT is loaded, the option load ends with a negative, a raised source or a stop, ports begin to train, and the
S-dies boot into READY. Edges train where no group has more marked wires than spares. A level-2 reset writes host lines back, waits for the host, and resets rings, scheduler, signals and incarnations, while the link, the
MSI-X table, flash and fuses stand. -/
def Obligations.BringUpAndDomainReset : Prop :=
  ∀ s : State,
    (s.rst.phase = .off → ∃ t, exec .powerOn s = .next t ∧ t.rst.phase = .seq 0 1 ∧ t.rst.lastSrc = 0 ∧ t.rst.lastLvl = 0 ∧ t.pins.pwrOk = true ∧
      t.mem = [] ∧ t.fuses = s.fuses ∧ t.flash = s.flash ∧ t.out = s.out ∧ t.rst.seen = s.rst.seen ||| 1) ∧
    (∃ t, exec .pwrOkFall s = .next t ∧ t.rst.phase = .off ∧ t.pins.pwrOk = false ∧ t.mem = [] ∧ t.rings.ctx = [] ∧ t.sec.scope = 0 ∧ t.out = s.out ∧
      t.fuses = s.fuses ∧ t.flash = s.flash) ∧
    (s.rst.phase = .ready → exec .mcWatchdogExpiry s = .next (raiseSrc s 5)) ∧
    (∀ l info, l ≠ 2 →
      (s.rst.phase = .seq l 1 → exec (.bringupStepDone info) s = .next (toStep s (if l = 0 then 2 else 4))) ∧
      (s.rst.phase = .seq l 2 → s.pins.pwrOk = true → exec (.bringupStepDone info) s = .next (toStep s 3)) ∧
      (s.rst.phase = .seq l 3 → exec (.bringupStepDone info) s = .next (toStep { s with
        rst := { s.rst with
          reach := (List.range 16).map (fuseReach s.fuses) } } 4)) ∧
      (s.rst.phase = .seq l 4 →
        let s1 := countFw s s.fuses.svnMc s.flash.mcA s.flash.mcB
        (∀ b, bootSlot s1 s1.fuses.svnMc s1.flash.mcA s1.flash.mcB = some b → exec (.bringupStepDone info) s = .next (toStep { s1 with
          flash := { s1.flash with
            mcBooted := b } } 5)) ∧
        (bootSlot s1 s1.fuses.svnMc s1.flash.mcA s1.flash.mcB = none → exec (.bringupStepDone info) s = .next (stopBringup s1 0x0505))) ∧
      (s.rst.phase = .seq l 5 → exec (.bringupStepDone info) s = .next (senseStraps s info.straps)) ∧
      (s.rst.phase = .seq l 6 → info.edgeFail = none → (∀ e, overMarked s e = none) → ∃ t, exec (.bringupStepDone info) s = .next t ∧ t.rst.phase = .seq s.rst.lastLvl 7 ∧
        t.mem = s.mem ∧ t.fuses = s.fuses ∧ t.flash = s.flash ∧ t.out = s.out) ∧
      (s.rst.phase = .seq l 7 → s.rst.hold = false → s.rst.dietest = [] → exec (.bringupStepDone info) s = .next (toStep s 8)) ∧
      (s.rst.phase = .seq l 7 → s.rst.hold = true → exec (.bringupStepDone info) s = .next s) ∧
      (s.rst.phase = .seq l 8 →
        (∀ t, optionLoad s info.slotBad info.masterBad = .done t → exec (.bringupStepDone info) s = .next (driveAlert (startPorts (toStep t 9)))) ∧
        (optionLoad s info.slotBad info.masterBad = .noSlot → exec (.bringupStepDone info) s = .next (raiseSrc s 10)) ∧
        (optionLoad s info.slotBad info.masterBad = .badMaster → exec (.bringupStepDone info) s = .next (stopBringup s 0x0803))) ∧
      (s.rst.phase = .seq l 9 → info.laneFail = none → exec (.bringupStepDone info) s = .next (toStep s 10)) ∧
      (∀ x, s.rst.phase = .seq l 9 → info.laneFail = some x → exec (.bringupStepDone info) s = .next (stopBringup s 0x0802)) ∧
      (s.rst.phase = .seq l 10 → exec (.bringupStepDone info) s = .next (bootS s readyNow))) ∧
    (∀ info,
      (s.rst.phase = .seq 2 1 → s.cxl.link = .l0 → s.cxl.lost = false → inFog s = false →
        exec (.domainResetStepDone info) s = .next (toStep (evictAll s) 2)) ∧
      (s.rst.phase = .seq 2 2 → hostOwed s = false → exec (.domainResetStepDone info) s = .next (toStep s 3)) ∧
      (s.rst.phase = .seq 2 2 → hostOwed s = true → s.cxl.link = .l0 → exec (.domainResetStepDone info) s = .next s) ∧
      (s.rst.phase = .seq 2 4 → exec (.domainResetStepDone info) s = .next (driveAlert (toStep (domainReset s) 5)) ∧
        (domainReset s).rings.ctx = [] ∧ (domainReset s).sched = .reset ∧ (domainReset s).signals = [] ∧ (domainReset s).pod.incs = Pod.reset.incs ∧
        (domainReset s).flash = s.flash ∧ (domainReset s).fuses = s.fuses ∧ (domainReset s).msix = s.msix ∧ (domainReset s).cxl.link = s.cxl.link) ∧
      (s.rst.phase = .seq 2 6 → exec (.domainResetStepDone info) s = .next (toStep s 7)) ∧
      (s.rst.phase = .seq 2 7 → exec (.domainResetStepDone info) s = .next (bootS s readyNow)))

/-- Power. A die is hot from the throttle temperature on, until it is 3 degrees below it, and its clock then steps down by 100 MHz to 900 MHz, and up again once
cool. A window above the cap steps every clock down; one near the cap leaves them. The power controller enters the state it picks, stays, or wakes; what it
picks is Lit unless the package is idle, Dark only where the link allows it, and a sleeping state only where entry, wake and break-even fit the horizon. Entries
are counted; the lanes going down end the entry into Dark and leave memory, rings and keys; a scheduled wake wakes, and a wake ends in Lit with its ports wide
or training. The patrol scrub writes a correction back, and poisons an uncorrectable line or zeroes one of edge-code slots. -/
def Obligations.PowerThrottlesSleepAndScrub : Prop :=
  ∀ s : State,
    (∀ level, exec (.throttleNChange level) s = .next { s with
      pins := { s.pins with
        throttleN := level } }) ∧
    (pwrUp s = true →
      (∀ (ts : List Nat), ∃ t, exec (.thermalSample ts) s = .next t ∧
        ((∀ i, nth ts i < 115) → (∀ d, d < 8 → (t.pwr.byTemp.getD d false = true ↔
          (regField s rPWR_CTRL 20 14 ≤ nth ts d ∨ (s.pwr.byTemp.getD d false = true ∧ regField s rPWR_CTRL 20 14 < nth ts d + 3)))))) ∧
      (∀ die, die < 8 →
        let c := s.pwr.clocks.getD die 1800
        (s.pwr.byTemp.getD die false = true → exec (.throttleStep die) s = .next { s with
          pwr := { s.pwr with
            clocks := setNth s.pwr.clocks die (max 900 (c - 100)), ceil := setNth s.pwr.ceil die (max 900 (c - 100)) } }) ∧
        (s.pwr.byTemp.getD die false = false → s.pwr.byCap = false →
          let top := min 1800 (s.pwr.ceil.getD die 1800 + 100)
          exec (.throttleStep die) s = .next { s with
            pwr := { s.pwr with
              ceil := setNth s.pwr.ceil die top, clocks := setNth s.pwr.clocks die (min top (c + 100)) } })) ∧
      (∀ watts, capNow s < watts → exec (.powerWindow watts) s = .next { s with
        pwr := { s.pwr with
          watts := min 4095 watts, clocks := s.pwr.clocks.map (fun c => max 900 (c - 100)), byCap := true } }) ∧
      (∀ watts, watts ≤ capNow s → 95 * capNow s ≤ 100 * watts → exec (.powerWindow watts) s = .next { s with
        pwr := { s.pwr with
          watts := min 4095 watts } }) ∧
      (s.pwr.entering = none → s.pwr.waking = false →
        let st := pickState s
        let s1 := noteChoice s st
        (s.pwr.st = st → st = 0 → exec .powerPick s = .next s1) ∧
        (s.pwr.st < st → exec .powerPick s = .next (beginEntry s1 st)) ∧
        (st < s.pwr.st → exec .powerPick s = .next (wakeBy true s1)))) ∧
    (s.pwr.entering = some 1 → exec .entryComplete s = .next (bump { s with
      pwr := { s.pwr with
        st := 1, entering := none } } rPWR_COUNTS 23 0)) ∧
    (s.pwr.entering = some 2 → exec .entryComplete s = .next (bump { s with
      pwr := { s.pwr with
        st := 2, entering := none } } rPWR_COUNTS 43 24)) ∧
    (s.pwr.entering = some 3 → s.pwr.darkSent = true → ∃ t, exec .darkLanesDown s = .next t ∧ t.pwr.st = 3 ∧ t.pwr.entering = none ∧ t.pwr.darkSent = false ∧
      t.mem = s.mem ∧ t.poison = s.poison ∧ t.rings = s.rings ∧ t.sec = s.sec ∧ t.flash = s.flash) ∧
    (s.pwr.wakeAt = some 0 → exec .scheduledWake s = .next (wakeBy true s)) ∧
    (s.pwr.waking = true → s.pwr.entering = none →
      let s1 := (s.ports.map (·.1)).foldl widenPort (litNow s)
      (s.pwr.st ≠ 3 → exec .wakeComplete s = .next s1) ∧
      (s.pwr.st = 3 → (startPorts s1).cxl.link ≠ .l2 → exec .wakeComplete s = .next (startPorts s1)) ∧
      (s.pwr.st = 3 → (startPorts s1).cxl.link = .l2 → exec .wakeComplete s = .next (send (startPorts s1) (.cxl mBeacon 0 [])))) ∧
    (pickState s ≤ 3 ∧ (pkgIdle s = false → pickState s = 0) ∧ (pickState s = 3 → darkAllowed s = true) ∧
      (2 ≤ pickState s → ∃ h, horizonFor s (pickState s) = some h ∧ entryTicks (pickState s) + wakeTicks (pickState s) ≤ h ∧ breakEven (pickState s) ≤ h)) ∧
    (∀ stack chan line, serving s = true → s.pwr.st < 2 → stack < 16 → chan < 32 → line < 2 ^ 26 →
      let s1 := scrubbed s stack chan line
      let p := unplace s1 stack chan (line * 64)
      exec (.patrolScrub stack chan line .clean) s = .next s1 ∧
      exec (.patrolScrub stack chan line .corrected) s =
        .next (countCE (setField (setField s1 (rMEM_CE stack) 36 32 chan) (rMEM_CE stack) 62 37 line) (rMEM_CE stack) 31 0 (stack / 2) 6 stack) ∧
      (p < edgeBase → exec (.patrolScrub stack chan line .uncorrectable) s = .next (logUe (setPoison s1 (lineOf p) true) (lineOf p) false true)) ∧
      (edgeBase ≤ p → exec (.patrolScrub stack chan line .uncorrectable) s =
        .next (logUeAt ((slotsWith s1 p).foldl (fun s a => memWrite s a (zeros 4)) s1) p true true)))
end

