-- ==== Sys2Proof/Laws/State.lean ====
section
/-! SUPPORT. What each named update of State changes and leaves, one lemma a field: every one true by computation, so that no proof
unfolds a record update. -/

namespace Sys2Proof.Laws

open Sys2Proof.Machine

variable (s : State)

/-! `setReg`. -/

@[simp] theorem setReg_pending (off : Nat) (v : BitVec 64) : (setReg s off v).pending = s.pending := rfl
@[simp] theorem setReg_free (off : Nat) (v : BitVec 64) : (setReg s off v).free = s.free := rfl
@[simp] theorem setReg_uid (off : Nat) (v : BitVec 64) : (setReg s off v).uid = s.uid := rfl
@[simp] theorem setReg_out (off : Nat) (v : BitVec 64) : (setReg s off v).out = s.out := rfl
@[simp] theorem setReg_regs (off : Nat) (v : BitVec 64) : (setReg s off v).regs = tset (regReset off) s.regs off v := rfl
@[simp] theorem setReg_cores (off : Nat) (v : BitVec 64) : (setReg s off v).cores = s.cores := rfl
@[simp] theorem setReg_seeding (off : Nat) (v : BitVec 64) : (setReg s off v).seeding = s.seeding := rfl
@[simp] theorem setReg_signals (off : Nat) (v : BitVec 64) : (setReg s off v).signals = s.signals := rfl
@[simp] theorem setReg_mem (off : Nat) (v : BitVec 64) : (setReg s off v).mem = s.mem := rfl
@[simp] theorem setReg_poison (off : Nat) (v : BitVec 64) : (setReg s off v).poison = s.poison := rfl
@[simp] theorem setReg_scrub (off : Nat) (v : BitVec 64) : (setReg s off v).scrub = s.scrub := rfl
@[simp] theorem setReg_tlb (off : Nat) (v : BitVec 64) : (setReg s off v).tlb = s.tlb := rfl
@[simp] theorem setReg_coh (off : Nat) (v : BitVec 64) : (setReg s off v).coh = s.coh := rfl
@[simp] theorem setReg_cxl (off : Nat) (v : BitVec 64) : (setReg s off v).cxl = s.cxl := rfl
@[simp] theorem setReg_rings (off : Nat) (v : BitVec 64) : (setReg s off v).rings = s.rings := rfl
@[simp] theorem setReg_sched (off : Nat) (v : BitVec 64) : (setReg s off v).sched = s.sched := rfl
@[simp] theorem setReg_loupes (off : Nat) (v : BitVec 64) : (setReg s off v).loupes = s.loupes := rfl
@[simp] theorem setReg_tables (off : Nat) (v : BitVec 64) : (setReg s off v).tables = s.tables := rfl
@[simp] theorem setReg_fixers (off : Nat) (v : BitVec 64) : (setReg s off v).fixers = s.fixers := rfl
@[simp] theorem setReg_ports (off : Nat) (v : BitVec 64) : (setReg s off v).ports = s.ports := rfl
@[simp] theorem setReg_pod (off : Nat) (v : BitVec 64) : (setReg s off v).pod = s.pod := rfl
@[simp] theorem setReg_errs (off : Nat) (v : BitVec 64) : (setReg s off v).errs = s.errs := rfl
@[simp] theorem setReg_msix (off : Nat) (v : BitVec 64) : (setReg s off v).msix = s.msix := rfl
@[simp] theorem setReg_aon (off : Nat) (v : BitVec 64) : (setReg s off v).aon = s.aon := rfl
@[simp] theorem setReg_aonWait (off : Nat) (v : BitVec 64) : (setReg s off v).aonWait = s.aonWait := rfl
@[simp] theorem setReg_fuses (off : Nat) (v : BitVec 64) : (setReg s off v).fuses = s.fuses := rfl
@[simp] theorem setReg_flash (off : Nat) (v : BitVec 64) : (setReg s off v).flash = s.flash := rfl
@[simp] theorem setReg_rst (off : Nat) (v : BitVec 64) : (setReg s off v).rst = s.rst := rfl
@[simp] theorem setReg_pins (off : Nat) (v : BitVec 64) : (setReg s off v).pins = s.pins := rfl
@[simp] theorem setReg_sec (off : Nat) (v : BitVec 64) : (setReg s off v).sec = s.sec := rfl
@[simp] theorem setReg_pwr (off : Nat) (v : BitVec 64) : (setReg s off v).pwr = s.pwr := rfl
@[simp] theorem setReg_csw (off : Nat) (v : BitVec 64) : (setReg s off v).csw = s.csw := rfl

/-! `setField`. -/

@[simp] theorem setField_pending (off hi lo v : Nat) : (setField s off hi lo v).pending = s.pending := rfl
@[simp] theorem setField_free (off hi lo v : Nat) : (setField s off hi lo v).free = s.free := rfl
@[simp] theorem setField_uid (off hi lo v : Nat) : (setField s off hi lo v).uid = s.uid := rfl
@[simp] theorem setField_out (off hi lo v : Nat) : (setField s off hi lo v).out = s.out := rfl
@[simp] theorem setField_regs (off hi lo v : Nat) : (setField s off hi lo v).regs = tset (regReset off) s.regs off (setBits (regVal s off) hi lo v) := rfl
@[simp] theorem setField_cores (off hi lo v : Nat) : (setField s off hi lo v).cores = s.cores := rfl
@[simp] theorem setField_seeding (off hi lo v : Nat) : (setField s off hi lo v).seeding = s.seeding := rfl
@[simp] theorem setField_signals (off hi lo v : Nat) : (setField s off hi lo v).signals = s.signals := rfl
@[simp] theorem setField_mem (off hi lo v : Nat) : (setField s off hi lo v).mem = s.mem := rfl
@[simp] theorem setField_poison (off hi lo v : Nat) : (setField s off hi lo v).poison = s.poison := rfl
@[simp] theorem setField_scrub (off hi lo v : Nat) : (setField s off hi lo v).scrub = s.scrub := rfl
@[simp] theorem setField_tlb (off hi lo v : Nat) : (setField s off hi lo v).tlb = s.tlb := rfl
@[simp] theorem setField_coh (off hi lo v : Nat) : (setField s off hi lo v).coh = s.coh := rfl
@[simp] theorem setField_cxl (off hi lo v : Nat) : (setField s off hi lo v).cxl = s.cxl := rfl
@[simp] theorem setField_rings (off hi lo v : Nat) : (setField s off hi lo v).rings = s.rings := rfl
@[simp] theorem setField_sched (off hi lo v : Nat) : (setField s off hi lo v).sched = s.sched := rfl
@[simp] theorem setField_loupes (off hi lo v : Nat) : (setField s off hi lo v).loupes = s.loupes := rfl
@[simp] theorem setField_tables (off hi lo v : Nat) : (setField s off hi lo v).tables = s.tables := rfl
@[simp] theorem setField_fixers (off hi lo v : Nat) : (setField s off hi lo v).fixers = s.fixers := rfl
@[simp] theorem setField_ports (off hi lo v : Nat) : (setField s off hi lo v).ports = s.ports := rfl
@[simp] theorem setField_pod (off hi lo v : Nat) : (setField s off hi lo v).pod = s.pod := rfl
@[simp] theorem setField_errs (off hi lo v : Nat) : (setField s off hi lo v).errs = s.errs := rfl
@[simp] theorem setField_msix (off hi lo v : Nat) : (setField s off hi lo v).msix = s.msix := rfl
@[simp] theorem setField_aon (off hi lo v : Nat) : (setField s off hi lo v).aon = s.aon := rfl
@[simp] theorem setField_aonWait (off hi lo v : Nat) : (setField s off hi lo v).aonWait = s.aonWait := rfl
@[simp] theorem setField_fuses (off hi lo v : Nat) : (setField s off hi lo v).fuses = s.fuses := rfl
@[simp] theorem setField_flash (off hi lo v : Nat) : (setField s off hi lo v).flash = s.flash := rfl
@[simp] theorem setField_rst (off hi lo v : Nat) : (setField s off hi lo v).rst = s.rst := rfl
@[simp] theorem setField_pins (off hi lo v : Nat) : (setField s off hi lo v).pins = s.pins := rfl
@[simp] theorem setField_sec (off hi lo v : Nat) : (setField s off hi lo v).sec = s.sec := rfl
@[simp] theorem setField_pwr (off hi lo v : Nat) : (setField s off hi lo v).pwr = s.pwr := rfl
@[simp] theorem setField_csw (off hi lo v : Nat) : (setField s off hi lo v).csw = s.csw := rfl

/-! `useFree`. -/

@[simp] theorem useFree_pending (n : Nat) : (useFree s n).pending = s.pending := rfl
@[simp] theorem useFree_free (n : Nat) : (useFree s n).free = s.free + n := rfl
@[simp] theorem useFree_uid (n : Nat) : (useFree s n).uid = s.uid := rfl
@[simp] theorem useFree_out (n : Nat) : (useFree s n).out = s.out := rfl
@[simp] theorem useFree_regs (n : Nat) : (useFree s n).regs = s.regs := rfl
@[simp] theorem useFree_cores (n : Nat) : (useFree s n).cores = s.cores := rfl
@[simp] theorem useFree_seeding (n : Nat) : (useFree s n).seeding = s.seeding := rfl
@[simp] theorem useFree_signals (n : Nat) : (useFree s n).signals = s.signals := rfl
@[simp] theorem useFree_mem (n : Nat) : (useFree s n).mem = s.mem := rfl
@[simp] theorem useFree_poison (n : Nat) : (useFree s n).poison = s.poison := rfl
@[simp] theorem useFree_scrub (n : Nat) : (useFree s n).scrub = s.scrub := rfl
@[simp] theorem useFree_tlb (n : Nat) : (useFree s n).tlb = s.tlb := rfl
@[simp] theorem useFree_coh (n : Nat) : (useFree s n).coh = s.coh := rfl
@[simp] theorem useFree_cxl (n : Nat) : (useFree s n).cxl = s.cxl := rfl
@[simp] theorem useFree_rings (n : Nat) : (useFree s n).rings = s.rings := rfl
@[simp] theorem useFree_sched (n : Nat) : (useFree s n).sched = s.sched := rfl
@[simp] theorem useFree_loupes (n : Nat) : (useFree s n).loupes = s.loupes := rfl
@[simp] theorem useFree_tables (n : Nat) : (useFree s n).tables = s.tables := rfl
@[simp] theorem useFree_fixers (n : Nat) : (useFree s n).fixers = s.fixers := rfl
@[simp] theorem useFree_ports (n : Nat) : (useFree s n).ports = s.ports := rfl
@[simp] theorem useFree_pod (n : Nat) : (useFree s n).pod = s.pod := rfl
@[simp] theorem useFree_errs (n : Nat) : (useFree s n).errs = s.errs := rfl
@[simp] theorem useFree_msix (n : Nat) : (useFree s n).msix = s.msix := rfl
@[simp] theorem useFree_aon (n : Nat) : (useFree s n).aon = s.aon := rfl
@[simp] theorem useFree_aonWait (n : Nat) : (useFree s n).aonWait = s.aonWait := rfl
@[simp] theorem useFree_fuses (n : Nat) : (useFree s n).fuses = s.fuses := rfl
@[simp] theorem useFree_flash (n : Nat) : (useFree s n).flash = s.flash := rfl
@[simp] theorem useFree_rst (n : Nat) : (useFree s n).rst = s.rst := rfl
@[simp] theorem useFree_pins (n : Nat) : (useFree s n).pins = s.pins := rfl
@[simp] theorem useFree_sec (n : Nat) : (useFree s n).sec = s.sec := rfl
@[simp] theorem useFree_pwr (n : Nat) : (useFree s n).pwr = s.pwr := rfl
@[simp] theorem useFree_csw (n : Nat) : (useFree s n).csw = s.csw := rfl

/-! `nextUid`. -/

@[simp] theorem nextUid_pending : (nextUid s).pending = s.pending := rfl
@[simp] theorem nextUid_free : (nextUid s).free = s.free := rfl
@[simp] theorem nextUid_uid : (nextUid s).uid = s.uid + 1 := rfl
@[simp] theorem nextUid_out : (nextUid s).out = s.out := rfl
@[simp] theorem nextUid_regs : (nextUid s).regs = s.regs := rfl
@[simp] theorem nextUid_cores : (nextUid s).cores = s.cores := rfl
@[simp] theorem nextUid_seeding : (nextUid s).seeding = s.seeding := rfl
@[simp] theorem nextUid_signals : (nextUid s).signals = s.signals := rfl
@[simp] theorem nextUid_mem : (nextUid s).mem = s.mem := rfl
@[simp] theorem nextUid_poison : (nextUid s).poison = s.poison := rfl
@[simp] theorem nextUid_scrub : (nextUid s).scrub = s.scrub := rfl
@[simp] theorem nextUid_tlb : (nextUid s).tlb = s.tlb := rfl
@[simp] theorem nextUid_coh : (nextUid s).coh = s.coh := rfl
@[simp] theorem nextUid_cxl : (nextUid s).cxl = s.cxl := rfl
@[simp] theorem nextUid_rings : (nextUid s).rings = s.rings := rfl
@[simp] theorem nextUid_sched : (nextUid s).sched = s.sched := rfl
@[simp] theorem nextUid_loupes : (nextUid s).loupes = s.loupes := rfl
@[simp] theorem nextUid_tables : (nextUid s).tables = s.tables := rfl
@[simp] theorem nextUid_fixers : (nextUid s).fixers = s.fixers := rfl
@[simp] theorem nextUid_ports : (nextUid s).ports = s.ports := rfl
@[simp] theorem nextUid_pod : (nextUid s).pod = s.pod := rfl
@[simp] theorem nextUid_errs : (nextUid s).errs = s.errs := rfl
@[simp] theorem nextUid_msix : (nextUid s).msix = s.msix := rfl
@[simp] theorem nextUid_aon : (nextUid s).aon = s.aon := rfl
@[simp] theorem nextUid_aonWait : (nextUid s).aonWait = s.aonWait := rfl
@[simp] theorem nextUid_fuses : (nextUid s).fuses = s.fuses := rfl
@[simp] theorem nextUid_flash : (nextUid s).flash = s.flash := rfl
@[simp] theorem nextUid_rst : (nextUid s).rst = s.rst := rfl
@[simp] theorem nextUid_pins : (nextUid s).pins = s.pins := rfl
@[simp] theorem nextUid_sec : (nextUid s).sec = s.sec := rfl
@[simp] theorem nextUid_pwr : (nextUid s).pwr = s.pwr := rfl
@[simp] theorem nextUid_csw : (nextUid s).csw = s.csw := rfl

/-! `send`. -/

@[simp] theorem send_pending (m : Msg) : (send s m).pending = s.pending := rfl
@[simp] theorem send_free (m : Msg) : (send s m).free = s.free := rfl
@[simp] theorem send_uid (m : Msg) : (send s m).uid = s.uid := rfl
@[simp] theorem send_out (m : Msg) : (send s m).out = (if byCxl m && linkHeld s then s.out else s.out ++ [m]) := rfl
@[simp] theorem send_regs (m : Msg) : (send s m).regs = s.regs := rfl
@[simp] theorem send_cores (m : Msg) : (send s m).cores = s.cores := rfl
@[simp] theorem send_seeding (m : Msg) : (send s m).seeding = s.seeding := rfl
@[simp] theorem send_signals (m : Msg) : (send s m).signals = s.signals := rfl
@[simp] theorem send_mem (m : Msg) : (send s m).mem = s.mem := rfl
@[simp] theorem send_poison (m : Msg) : (send s m).poison = s.poison := rfl
@[simp] theorem send_scrub (m : Msg) : (send s m).scrub = s.scrub := rfl
@[simp] theorem send_tlb (m : Msg) : (send s m).tlb = s.tlb := rfl
@[simp] theorem send_coh (m : Msg) : (send s m).coh = s.coh := rfl
@[simp] theorem send_cxl (m : Msg) : (send s m).cxl = (if byCxl m && linkHeld s then { s.cxl with held := s.cxl.held ++ [m] } else s.cxl) := rfl
@[simp] theorem send_rings (m : Msg) : (send s m).rings = s.rings := rfl
@[simp] theorem send_sched (m : Msg) : (send s m).sched = s.sched := rfl
@[simp] theorem send_loupes (m : Msg) : (send s m).loupes = s.loupes := rfl
@[simp] theorem send_tables (m : Msg) : (send s m).tables = s.tables := rfl
@[simp] theorem send_fixers (m : Msg) : (send s m).fixers = s.fixers := rfl
@[simp] theorem send_ports (m : Msg) : (send s m).ports = s.ports := rfl
@[simp] theorem send_pod (m : Msg) : (send s m).pod = s.pod := rfl
@[simp] theorem send_errs (m : Msg) : (send s m).errs = s.errs := rfl
@[simp] theorem send_msix (m : Msg) : (send s m).msix = s.msix := rfl
@[simp] theorem send_aon (m : Msg) : (send s m).aon = s.aon := rfl
@[simp] theorem send_aonWait (m : Msg) : (send s m).aonWait = s.aonWait := rfl
@[simp] theorem send_fuses (m : Msg) : (send s m).fuses = s.fuses := rfl
@[simp] theorem send_flash (m : Msg) : (send s m).flash = s.flash := rfl
@[simp] theorem send_rst (m : Msg) : (send s m).rst = s.rst := rfl
@[simp] theorem send_pins (m : Msg) : (send s m).pins = s.pins := rfl
@[simp] theorem send_sec (m : Msg) : (send s m).sec = s.sec := rfl
@[simp] theorem send_pwr (m : Msg) : (send s m).pwr = s.pwr := rfl
@[simp] theorem send_csw (m : Msg) : (send s m).csw = s.csw := rfl

/-! `memWrite`. -/

@[simp] theorem memWrite_pending (a : Nat) (bs : List Byte) : (memWrite s a bs).pending = s.pending := rfl
@[simp] theorem memWrite_free (a : Nat) (bs : List Byte) : (memWrite s a bs).free = s.free := rfl
@[simp] theorem memWrite_uid (a : Nat) (bs : List Byte) : (memWrite s a bs).uid = s.uid := rfl
@[simp] theorem memWrite_out (a : Nat) (bs : List Byte) : (memWrite s a bs).out = s.out := rfl
@[simp] theorem memWrite_regs (a : Nat) (bs : List Byte) : (memWrite s a bs).regs = s.regs := rfl
@[simp] theorem memWrite_cores (a : Nat) (bs : List Byte) : (memWrite s a bs).cores = s.cores := rfl
@[simp] theorem memWrite_seeding (a : Nat) (bs : List Byte) : (memWrite s a bs).seeding = s.seeding := rfl
@[simp] theorem memWrite_signals (a : Nat) (bs : List Byte) : (memWrite s a bs).signals = s.signals := rfl
@[simp] theorem memWrite_mem (a : Nat) (bs : List Byte) : (memWrite s a bs).mem = putBytes s.mem a bs := rfl
@[simp] theorem memWrite_poison (a : Nat) (bs : List Byte) : (memWrite s a bs).poison = s.poison := rfl
@[simp] theorem memWrite_scrub (a : Nat) (bs : List Byte) : (memWrite s a bs).scrub = s.scrub := rfl
@[simp] theorem memWrite_tlb (a : Nat) (bs : List Byte) : (memWrite s a bs).tlb = s.tlb := rfl
@[simp] theorem memWrite_coh (a : Nat) (bs : List Byte) : (memWrite s a bs).coh = s.coh := rfl
@[simp] theorem memWrite_cxl (a : Nat) (bs : List Byte) : (memWrite s a bs).cxl = s.cxl := rfl
@[simp] theorem memWrite_rings (a : Nat) (bs : List Byte) : (memWrite s a bs).rings = s.rings := rfl
@[simp] theorem memWrite_sched (a : Nat) (bs : List Byte) : (memWrite s a bs).sched = s.sched := rfl
@[simp] theorem memWrite_loupes (a : Nat) (bs : List Byte) : (memWrite s a bs).loupes = s.loupes := rfl
@[simp] theorem memWrite_tables (a : Nat) (bs : List Byte) : (memWrite s a bs).tables = s.tables := rfl
@[simp] theorem memWrite_fixers (a : Nat) (bs : List Byte) : (memWrite s a bs).fixers = s.fixers := rfl
@[simp] theorem memWrite_ports (a : Nat) (bs : List Byte) : (memWrite s a bs).ports = s.ports := rfl
@[simp] theorem memWrite_pod (a : Nat) (bs : List Byte) : (memWrite s a bs).pod = s.pod := rfl
@[simp] theorem memWrite_errs (a : Nat) (bs : List Byte) : (memWrite s a bs).errs = s.errs := rfl
@[simp] theorem memWrite_msix (a : Nat) (bs : List Byte) : (memWrite s a bs).msix = s.msix := rfl
@[simp] theorem memWrite_aon (a : Nat) (bs : List Byte) : (memWrite s a bs).aon = s.aon := rfl
@[simp] theorem memWrite_aonWait (a : Nat) (bs : List Byte) : (memWrite s a bs).aonWait = s.aonWait := rfl
@[simp] theorem memWrite_fuses (a : Nat) (bs : List Byte) : (memWrite s a bs).fuses = s.fuses := rfl
@[simp] theorem memWrite_flash (a : Nat) (bs : List Byte) : (memWrite s a bs).flash = s.flash := rfl
@[simp] theorem memWrite_rst (a : Nat) (bs : List Byte) : (memWrite s a bs).rst = s.rst := rfl
@[simp] theorem memWrite_pins (a : Nat) (bs : List Byte) : (memWrite s a bs).pins = s.pins := rfl
@[simp] theorem memWrite_sec (a : Nat) (bs : List Byte) : (memWrite s a bs).sec = s.sec := rfl
@[simp] theorem memWrite_pwr (a : Nat) (bs : List Byte) : (memWrite s a bs).pwr = s.pwr := rfl
@[simp] theorem memWrite_csw (a : Nat) (bs : List Byte) : (memWrite s a bs).csw = s.csw := rfl

/-! `setPoison`. -/

@[simp] theorem setPoison_pending (line : Nat) (p : Bool) : (setPoison s line p).pending = s.pending := rfl
@[simp] theorem setPoison_free (line : Nat) (p : Bool) : (setPoison s line p).free = s.free := rfl
@[simp] theorem setPoison_uid (line : Nat) (p : Bool) : (setPoison s line p).uid = s.uid := rfl
@[simp] theorem setPoison_out (line : Nat) (p : Bool) : (setPoison s line p).out = s.out := rfl
@[simp] theorem setPoison_regs (line : Nat) (p : Bool) : (setPoison s line p).regs = s.regs := rfl
@[simp] theorem setPoison_cores (line : Nat) (p : Bool) : (setPoison s line p).cores = s.cores := rfl
@[simp] theorem setPoison_seeding (line : Nat) (p : Bool) : (setPoison s line p).seeding = s.seeding := rfl
@[simp] theorem setPoison_signals (line : Nat) (p : Bool) : (setPoison s line p).signals = s.signals := rfl
@[simp] theorem setPoison_mem (line : Nat) (p : Bool) : (setPoison s line p).mem = s.mem := rfl
@[simp] theorem setPoison_poison (line : Nat) (p : Bool) : (setPoison s line p).poison = tset false s.poison line p := rfl
@[simp] theorem setPoison_scrub (line : Nat) (p : Bool) : (setPoison s line p).scrub = s.scrub := rfl
@[simp] theorem setPoison_tlb (line : Nat) (p : Bool) : (setPoison s line p).tlb = s.tlb := rfl
@[simp] theorem setPoison_coh (line : Nat) (p : Bool) : (setPoison s line p).coh = s.coh := rfl
@[simp] theorem setPoison_cxl (line : Nat) (p : Bool) : (setPoison s line p).cxl = s.cxl := rfl
@[simp] theorem setPoison_rings (line : Nat) (p : Bool) : (setPoison s line p).rings = s.rings := rfl
@[simp] theorem setPoison_sched (line : Nat) (p : Bool) : (setPoison s line p).sched = s.sched := rfl
@[simp] theorem setPoison_loupes (line : Nat) (p : Bool) : (setPoison s line p).loupes = s.loupes := rfl
@[simp] theorem setPoison_tables (line : Nat) (p : Bool) : (setPoison s line p).tables = s.tables := rfl
@[simp] theorem setPoison_fixers (line : Nat) (p : Bool) : (setPoison s line p).fixers = s.fixers := rfl
@[simp] theorem setPoison_ports (line : Nat) (p : Bool) : (setPoison s line p).ports = s.ports := rfl
@[simp] theorem setPoison_pod (line : Nat) (p : Bool) : (setPoison s line p).pod = s.pod := rfl
@[simp] theorem setPoison_errs (line : Nat) (p : Bool) : (setPoison s line p).errs = s.errs := rfl
@[simp] theorem setPoison_msix (line : Nat) (p : Bool) : (setPoison s line p).msix = s.msix := rfl
@[simp] theorem setPoison_aon (line : Nat) (p : Bool) : (setPoison s line p).aon = s.aon := rfl
@[simp] theorem setPoison_aonWait (line : Nat) (p : Bool) : (setPoison s line p).aonWait = s.aonWait := rfl
@[simp] theorem setPoison_fuses (line : Nat) (p : Bool) : (setPoison s line p).fuses = s.fuses := rfl
@[simp] theorem setPoison_flash (line : Nat) (p : Bool) : (setPoison s line p).flash = s.flash := rfl
@[simp] theorem setPoison_rst (line : Nat) (p : Bool) : (setPoison s line p).rst = s.rst := rfl
@[simp] theorem setPoison_pins (line : Nat) (p : Bool) : (setPoison s line p).pins = s.pins := rfl
@[simp] theorem setPoison_sec (line : Nat) (p : Bool) : (setPoison s line p).sec = s.sec := rfl
@[simp] theorem setPoison_pwr (line : Nat) (p : Bool) : (setPoison s line p).pwr = s.pwr := rfl
@[simp] theorem setPoison_csw (line : Nat) (p : Bool) : (setPoison s line p).csw = s.csw := rfl

/-! `setCtx`. -/

@[simp] theorem setCtx_pending (c : Nat) (x : Ctx) : (setCtx s c x).pending = s.pending := rfl
@[simp] theorem setCtx_free (c : Nat) (x : Ctx) : (setCtx s c x).free = s.free := rfl
@[simp] theorem setCtx_uid (c : Nat) (x : Ctx) : (setCtx s c x).uid = s.uid := rfl
@[simp] theorem setCtx_out (c : Nat) (x : Ctx) : (setCtx s c x).out = s.out := rfl
@[simp] theorem setCtx_regs (c : Nat) (x : Ctx) : (setCtx s c x).regs = s.regs := rfl
@[simp] theorem setCtx_cores (c : Nat) (x : Ctx) : (setCtx s c x).cores = s.cores := rfl
@[simp] theorem setCtx_seeding (c : Nat) (x : Ctx) : (setCtx s c x).seeding = s.seeding := rfl
@[simp] theorem setCtx_signals (c : Nat) (x : Ctx) : (setCtx s c x).signals = s.signals := rfl
@[simp] theorem setCtx_mem (c : Nat) (x : Ctx) : (setCtx s c x).mem = s.mem := rfl
@[simp] theorem setCtx_poison (c : Nat) (x : Ctx) : (setCtx s c x).poison = s.poison := rfl
@[simp] theorem setCtx_scrub (c : Nat) (x : Ctx) : (setCtx s c x).scrub = s.scrub := rfl
@[simp] theorem setCtx_tlb (c : Nat) (x : Ctx) : (setCtx s c x).tlb = s.tlb := rfl
@[simp] theorem setCtx_coh (c : Nat) (x : Ctx) : (setCtx s c x).coh = s.coh := rfl
@[simp] theorem setCtx_cxl (c : Nat) (x : Ctx) : (setCtx s c x).cxl = s.cxl := rfl
@[simp] theorem setCtx_rings (c : Nat) (x : Ctx) : (setCtx s c x).rings = s.rings := rfl
@[simp] theorem setCtx_sched (c : Nat) (x : Ctx) : (setCtx s c x).sched = { s.sched with ctxs := tset Ctx.free s.sched.ctxs c x } := rfl
@[simp] theorem setCtx_loupes (c : Nat) (x : Ctx) : (setCtx s c x).loupes = s.loupes := rfl
@[simp] theorem setCtx_tables (c : Nat) (x : Ctx) : (setCtx s c x).tables = s.tables := rfl
@[simp] theorem setCtx_fixers (c : Nat) (x : Ctx) : (setCtx s c x).fixers = s.fixers := rfl
@[simp] theorem setCtx_ports (c : Nat) (x : Ctx) : (setCtx s c x).ports = s.ports := rfl
@[simp] theorem setCtx_pod (c : Nat) (x : Ctx) : (setCtx s c x).pod = s.pod := rfl
@[simp] theorem setCtx_errs (c : Nat) (x : Ctx) : (setCtx s c x).errs = s.errs := rfl
@[simp] theorem setCtx_msix (c : Nat) (x : Ctx) : (setCtx s c x).msix = s.msix := rfl
@[simp] theorem setCtx_aon (c : Nat) (x : Ctx) : (setCtx s c x).aon = s.aon := rfl
@[simp] theorem setCtx_aonWait (c : Nat) (x : Ctx) : (setCtx s c x).aonWait = s.aonWait := rfl
@[simp] theorem setCtx_fuses (c : Nat) (x : Ctx) : (setCtx s c x).fuses = s.fuses := rfl
@[simp] theorem setCtx_flash (c : Nat) (x : Ctx) : (setCtx s c x).flash = s.flash := rfl
@[simp] theorem setCtx_rst (c : Nat) (x : Ctx) : (setCtx s c x).rst = s.rst := rfl
@[simp] theorem setCtx_pins (c : Nat) (x : Ctx) : (setCtx s c x).pins = s.pins := rfl
@[simp] theorem setCtx_sec (c : Nat) (x : Ctx) : (setCtx s c x).sec = s.sec := rfl
@[simp] theorem setCtx_pwr (c : Nat) (x : Ctx) : (setCtx s c x).pwr = s.pwr := rfl
@[simp] theorem setCtx_csw (c : Nat) (x : Ctx) : (setCtx s c x).csw = s.csw := rfl

/-! `setStep`. -/

@[simp] theorem setStep_pending (t : StepRec) : (setStep s t).pending = s.pending := rfl
@[simp] theorem setStep_free (t : StepRec) : (setStep s t).free = s.free := rfl
@[simp] theorem setStep_uid (t : StepRec) : (setStep s t).uid = s.uid := rfl
@[simp] theorem setStep_out (t : StepRec) : (setStep s t).out = s.out := rfl
@[simp] theorem setStep_regs (t : StepRec) : (setStep s t).regs = s.regs := rfl
@[simp] theorem setStep_cores (t : StepRec) : (setStep s t).cores = s.cores := rfl
@[simp] theorem setStep_seeding (t : StepRec) : (setStep s t).seeding = s.seeding := rfl
@[simp] theorem setStep_signals (t : StepRec) : (setStep s t).signals = s.signals := rfl
@[simp] theorem setStep_mem (t : StepRec) : (setStep s t).mem = s.mem := rfl
@[simp] theorem setStep_poison (t : StepRec) : (setStep s t).poison = s.poison := rfl
@[simp] theorem setStep_scrub (t : StepRec) : (setStep s t).scrub = s.scrub := rfl
@[simp] theorem setStep_tlb (t : StepRec) : (setStep s t).tlb = s.tlb := rfl
@[simp] theorem setStep_coh (t : StepRec) : (setStep s t).coh = s.coh := rfl
@[simp] theorem setStep_cxl (t : StepRec) : (setStep s t).cxl = s.cxl := rfl
@[simp] theorem setStep_rings (t : StepRec) : (setStep s t).rings = s.rings := rfl
@[simp] theorem setStep_sched (t : StepRec) : (setStep s t).sched = { s.sched with steps := s.sched.steps.map (fun x => if x.uid = t.uid then t else x) } := rfl
@[simp] theorem setStep_loupes (t : StepRec) : (setStep s t).loupes = s.loupes := rfl
@[simp] theorem setStep_tables (t : StepRec) : (setStep s t).tables = s.tables := rfl
@[simp] theorem setStep_fixers (t : StepRec) : (setStep s t).fixers = s.fixers := rfl
@[simp] theorem setStep_ports (t : StepRec) : (setStep s t).ports = s.ports := rfl
@[simp] theorem setStep_pod (t : StepRec) : (setStep s t).pod = s.pod := rfl
@[simp] theorem setStep_errs (t : StepRec) : (setStep s t).errs = s.errs := rfl
@[simp] theorem setStep_msix (t : StepRec) : (setStep s t).msix = s.msix := rfl
@[simp] theorem setStep_aon (t : StepRec) : (setStep s t).aon = s.aon := rfl
@[simp] theorem setStep_aonWait (t : StepRec) : (setStep s t).aonWait = s.aonWait := rfl
@[simp] theorem setStep_fuses (t : StepRec) : (setStep s t).fuses = s.fuses := rfl
@[simp] theorem setStep_flash (t : StepRec) : (setStep s t).flash = s.flash := rfl
@[simp] theorem setStep_rst (t : StepRec) : (setStep s t).rst = s.rst := rfl
@[simp] theorem setStep_pins (t : StepRec) : (setStep s t).pins = s.pins := rfl
@[simp] theorem setStep_sec (t : StepRec) : (setStep s t).sec = s.sec := rfl
@[simp] theorem setStep_pwr (t : StepRec) : (setStep s t).pwr = s.pwr := rfl
@[simp] theorem setStep_csw (t : StepRec) : (setStep s t).csw = s.csw := rfl

/-! `dropStep`. -/

@[simp] theorem dropStep_pending (u : Nat) : (dropStep s u).pending = s.pending := rfl
@[simp] theorem dropStep_free (u : Nat) : (dropStep s u).free = s.free := rfl
@[simp] theorem dropStep_uid (u : Nat) : (dropStep s u).uid = s.uid := rfl
@[simp] theorem dropStep_out (u : Nat) : (dropStep s u).out = s.out := rfl
@[simp] theorem dropStep_regs (u : Nat) : (dropStep s u).regs = s.regs := rfl
@[simp] theorem dropStep_cores (u : Nat) : (dropStep s u).cores = s.cores := rfl
@[simp] theorem dropStep_seeding (u : Nat) : (dropStep s u).seeding = s.seeding := rfl
@[simp] theorem dropStep_signals (u : Nat) : (dropStep s u).signals = s.signals := rfl
@[simp] theorem dropStep_mem (u : Nat) : (dropStep s u).mem = s.mem := rfl
@[simp] theorem dropStep_poison (u : Nat) : (dropStep s u).poison = s.poison := rfl
@[simp] theorem dropStep_scrub (u : Nat) : (dropStep s u).scrub = s.scrub := rfl
@[simp] theorem dropStep_tlb (u : Nat) : (dropStep s u).tlb = s.tlb := rfl
@[simp] theorem dropStep_coh (u : Nat) : (dropStep s u).coh = s.coh := rfl
@[simp] theorem dropStep_cxl (u : Nat) : (dropStep s u).cxl = s.cxl := rfl
@[simp] theorem dropStep_rings (u : Nat) : (dropStep s u).rings = s.rings := rfl
@[simp] theorem dropStep_sched (u : Nat) : (dropStep s u).sched = { s.sched with steps := s.sched.steps.filter (fun x => x.uid != u) } := rfl
@[simp] theorem dropStep_loupes (u : Nat) : (dropStep s u).loupes = s.loupes := rfl
@[simp] theorem dropStep_tables (u : Nat) : (dropStep s u).tables = s.tables := rfl
@[simp] theorem dropStep_fixers (u : Nat) : (dropStep s u).fixers = s.fixers := rfl
@[simp] theorem dropStep_ports (u : Nat) : (dropStep s u).ports = s.ports := rfl
@[simp] theorem dropStep_pod (u : Nat) : (dropStep s u).pod = s.pod := rfl
@[simp] theorem dropStep_errs (u : Nat) : (dropStep s u).errs = s.errs := rfl
@[simp] theorem dropStep_msix (u : Nat) : (dropStep s u).msix = s.msix := rfl
@[simp] theorem dropStep_aon (u : Nat) : (dropStep s u).aon = s.aon := rfl
@[simp] theorem dropStep_aonWait (u : Nat) : (dropStep s u).aonWait = s.aonWait := rfl
@[simp] theorem dropStep_fuses (u : Nat) : (dropStep s u).fuses = s.fuses := rfl
@[simp] theorem dropStep_flash (u : Nat) : (dropStep s u).flash = s.flash := rfl
@[simp] theorem dropStep_rst (u : Nat) : (dropStep s u).rst = s.rst := rfl
@[simp] theorem dropStep_pins (u : Nat) : (dropStep s u).pins = s.pins := rfl
@[simp] theorem dropStep_sec (u : Nat) : (dropStep s u).sec = s.sec := rfl
@[simp] theorem dropStep_pwr (u : Nat) : (dropStep s u).pwr = s.pwr := rfl
@[simp] theorem dropStep_csw (u : Nat) : (dropStep s u).csw = s.csw := rfl

/-! `stirStep`. -/

@[simp] theorem stirStep_pending (u : Nat) : (stirStep s u).pending = s.pending := rfl
@[simp] theorem stirStep_free (u : Nat) : (stirStep s u).free = s.free := rfl
@[simp] theorem stirStep_uid (u : Nat) : (stirStep s u).uid = s.uid := rfl
@[simp] theorem stirStep_out (u : Nat) : (stirStep s u).out = s.out := rfl
@[simp] theorem stirStep_regs (u : Nat) : (stirStep s u).regs = s.regs := rfl
@[simp] theorem stirStep_cores (u : Nat) : (stirStep s u).cores = s.cores := rfl
@[simp] theorem stirStep_seeding (u : Nat) : (stirStep s u).seeding = s.seeding := rfl
@[simp] theorem stirStep_signals (u : Nat) : (stirStep s u).signals = s.signals := rfl
@[simp] theorem stirStep_mem (u : Nat) : (stirStep s u).mem = s.mem := rfl
@[simp] theorem stirStep_poison (u : Nat) : (stirStep s u).poison = s.poison := rfl
@[simp] theorem stirStep_scrub (u : Nat) : (stirStep s u).scrub = s.scrub := rfl
@[simp] theorem stirStep_tlb (u : Nat) : (stirStep s u).tlb = s.tlb := rfl
@[simp] theorem stirStep_coh (u : Nat) : (stirStep s u).coh = s.coh := rfl
@[simp] theorem stirStep_cxl (u : Nat) : (stirStep s u).cxl = s.cxl := rfl
@[simp] theorem stirStep_rings (u : Nat) : (stirStep s u).rings = s.rings := rfl
@[simp] theorem stirStep_sched (u : Nat) : (stirStep s u).sched = { s.sched with steps := s.sched.steps.map (fun t => if t.uid = u then { t with quiet := 0 } else t) } := rfl
@[simp] theorem stirStep_loupes (u : Nat) : (stirStep s u).loupes = s.loupes := rfl
@[simp] theorem stirStep_tables (u : Nat) : (stirStep s u).tables = s.tables := rfl
@[simp] theorem stirStep_fixers (u : Nat) : (stirStep s u).fixers = s.fixers := rfl
@[simp] theorem stirStep_ports (u : Nat) : (stirStep s u).ports = s.ports := rfl
@[simp] theorem stirStep_pod (u : Nat) : (stirStep s u).pod = s.pod := rfl
@[simp] theorem stirStep_errs (u : Nat) : (stirStep s u).errs = s.errs := rfl
@[simp] theorem stirStep_msix (u : Nat) : (stirStep s u).msix = s.msix := rfl
@[simp] theorem stirStep_aon (u : Nat) : (stirStep s u).aon = s.aon := rfl
@[simp] theorem stirStep_aonWait (u : Nat) : (stirStep s u).aonWait = s.aonWait := rfl
@[simp] theorem stirStep_fuses (u : Nat) : (stirStep s u).fuses = s.fuses := rfl
@[simp] theorem stirStep_flash (u : Nat) : (stirStep s u).flash = s.flash := rfl
@[simp] theorem stirStep_rst (u : Nat) : (stirStep s u).rst = s.rst := rfl
@[simp] theorem stirStep_pins (u : Nat) : (stirStep s u).pins = s.pins := rfl
@[simp] theorem stirStep_sec (u : Nat) : (stirStep s u).sec = s.sec := rfl
@[simp] theorem stirStep_pwr (u : Nat) : (stirStep s u).pwr = s.pwr := rfl
@[simp] theorem stirStep_csw (u : Nat) : (stirStep s u).csw = s.csw := rfl

/-! `setRing`. -/

@[simp] theorem setRing_pending (n : Nat) (r : Ring) : (setRing s n r).pending = s.pending := rfl
@[simp] theorem setRing_free (n : Nat) (r : Ring) : (setRing s n r).free = s.free := rfl
@[simp] theorem setRing_uid (n : Nat) (r : Ring) : (setRing s n r).uid = s.uid := rfl
@[simp] theorem setRing_out (n : Nat) (r : Ring) : (setRing s n r).out = s.out := rfl
@[simp] theorem setRing_regs (n : Nat) (r : Ring) : (setRing s n r).regs = s.regs := rfl
@[simp] theorem setRing_cores (n : Nat) (r : Ring) : (setRing s n r).cores = s.cores := rfl
@[simp] theorem setRing_seeding (n : Nat) (r : Ring) : (setRing s n r).seeding = s.seeding := rfl
@[simp] theorem setRing_signals (n : Nat) (r : Ring) : (setRing s n r).signals = s.signals := rfl
@[simp] theorem setRing_mem (n : Nat) (r : Ring) : (setRing s n r).mem = s.mem := rfl
@[simp] theorem setRing_poison (n : Nat) (r : Ring) : (setRing s n r).poison = s.poison := rfl
@[simp] theorem setRing_scrub (n : Nat) (r : Ring) : (setRing s n r).scrub = s.scrub := rfl
@[simp] theorem setRing_tlb (n : Nat) (r : Ring) : (setRing s n r).tlb = s.tlb := rfl
@[simp] theorem setRing_coh (n : Nat) (r : Ring) : (setRing s n r).coh = s.coh := rfl
@[simp] theorem setRing_cxl (n : Nat) (r : Ring) : (setRing s n r).cxl = s.cxl := rfl
@[simp] theorem setRing_rings (n : Nat) (r : Ring) : (setRing s n r).rings = { s.rings with ctx := tset Ring.none s.rings.ctx n r } := rfl
@[simp] theorem setRing_sched (n : Nat) (r : Ring) : (setRing s n r).sched = s.sched := rfl
@[simp] theorem setRing_loupes (n : Nat) (r : Ring) : (setRing s n r).loupes = s.loupes := rfl
@[simp] theorem setRing_tables (n : Nat) (r : Ring) : (setRing s n r).tables = s.tables := rfl
@[simp] theorem setRing_fixers (n : Nat) (r : Ring) : (setRing s n r).fixers = s.fixers := rfl
@[simp] theorem setRing_ports (n : Nat) (r : Ring) : (setRing s n r).ports = s.ports := rfl
@[simp] theorem setRing_pod (n : Nat) (r : Ring) : (setRing s n r).pod = s.pod := rfl
@[simp] theorem setRing_errs (n : Nat) (r : Ring) : (setRing s n r).errs = s.errs := rfl
@[simp] theorem setRing_msix (n : Nat) (r : Ring) : (setRing s n r).msix = s.msix := rfl
@[simp] theorem setRing_aon (n : Nat) (r : Ring) : (setRing s n r).aon = s.aon := rfl
@[simp] theorem setRing_aonWait (n : Nat) (r : Ring) : (setRing s n r).aonWait = s.aonWait := rfl
@[simp] theorem setRing_fuses (n : Nat) (r : Ring) : (setRing s n r).fuses = s.fuses := rfl
@[simp] theorem setRing_flash (n : Nat) (r : Ring) : (setRing s n r).flash = s.flash := rfl
@[simp] theorem setRing_rst (n : Nat) (r : Ring) : (setRing s n r).rst = s.rst := rfl
@[simp] theorem setRing_pins (n : Nat) (r : Ring) : (setRing s n r).pins = s.pins := rfl
@[simp] theorem setRing_sec (n : Nat) (r : Ring) : (setRing s n r).sec = s.sec := rfl
@[simp] theorem setRing_pwr (n : Nat) (r : Ring) : (setRing s n r).pwr = s.pwr := rfl
@[simp] theorem setRing_csw (n : Nat) (r : Ring) : (setRing s n r).csw = s.csw := rfl

/-! `setUnit`. -/

@[simp] theorem setUnit_pending (n : Nat) (u : RingUnit) : (setUnit s n u).pending = s.pending := rfl
@[simp] theorem setUnit_free (n : Nat) (u : RingUnit) : (setUnit s n u).free = s.free := rfl
@[simp] theorem setUnit_uid (n : Nat) (u : RingUnit) : (setUnit s n u).uid = s.uid := rfl
@[simp] theorem setUnit_out (n : Nat) (u : RingUnit) : (setUnit s n u).out = s.out := rfl
@[simp] theorem setUnit_regs (n : Nat) (u : RingUnit) : (setUnit s n u).regs = s.regs := rfl
@[simp] theorem setUnit_cores (n : Nat) (u : RingUnit) : (setUnit s n u).cores = s.cores := rfl
@[simp] theorem setUnit_seeding (n : Nat) (u : RingUnit) : (setUnit s n u).seeding = s.seeding := rfl
@[simp] theorem setUnit_signals (n : Nat) (u : RingUnit) : (setUnit s n u).signals = s.signals := rfl
@[simp] theorem setUnit_mem (n : Nat) (u : RingUnit) : (setUnit s n u).mem = s.mem := rfl
@[simp] theorem setUnit_poison (n : Nat) (u : RingUnit) : (setUnit s n u).poison = s.poison := rfl
@[simp] theorem setUnit_scrub (n : Nat) (u : RingUnit) : (setUnit s n u).scrub = s.scrub := rfl
@[simp] theorem setUnit_tlb (n : Nat) (u : RingUnit) : (setUnit s n u).tlb = s.tlb := rfl
@[simp] theorem setUnit_coh (n : Nat) (u : RingUnit) : (setUnit s n u).coh = s.coh := rfl
@[simp] theorem setUnit_cxl (n : Nat) (u : RingUnit) : (setUnit s n u).cxl = s.cxl := rfl
@[simp] theorem setUnit_rings (n : Nat) (u : RingUnit) : (setUnit s n u).rings = { s.rings with unit_ := tset RingUnit.none s.rings.unit_ n u } := rfl
@[simp] theorem setUnit_sched (n : Nat) (u : RingUnit) : (setUnit s n u).sched = s.sched := rfl
@[simp] theorem setUnit_loupes (n : Nat) (u : RingUnit) : (setUnit s n u).loupes = s.loupes := rfl
@[simp] theorem setUnit_tables (n : Nat) (u : RingUnit) : (setUnit s n u).tables = s.tables := rfl
@[simp] theorem setUnit_fixers (n : Nat) (u : RingUnit) : (setUnit s n u).fixers = s.fixers := rfl
@[simp] theorem setUnit_ports (n : Nat) (u : RingUnit) : (setUnit s n u).ports = s.ports := rfl
@[simp] theorem setUnit_pod (n : Nat) (u : RingUnit) : (setUnit s n u).pod = s.pod := rfl
@[simp] theorem setUnit_errs (n : Nat) (u : RingUnit) : (setUnit s n u).errs = s.errs := rfl
@[simp] theorem setUnit_msix (n : Nat) (u : RingUnit) : (setUnit s n u).msix = s.msix := rfl
@[simp] theorem setUnit_aon (n : Nat) (u : RingUnit) : (setUnit s n u).aon = s.aon := rfl
@[simp] theorem setUnit_aonWait (n : Nat) (u : RingUnit) : (setUnit s n u).aonWait = s.aonWait := rfl
@[simp] theorem setUnit_fuses (n : Nat) (u : RingUnit) : (setUnit s n u).fuses = s.fuses := rfl
@[simp] theorem setUnit_flash (n : Nat) (u : RingUnit) : (setUnit s n u).flash = s.flash := rfl
@[simp] theorem setUnit_rst (n : Nat) (u : RingUnit) : (setUnit s n u).rst = s.rst := rfl
@[simp] theorem setUnit_pins (n : Nat) (u : RingUnit) : (setUnit s n u).pins = s.pins := rfl
@[simp] theorem setUnit_sec (n : Nat) (u : RingUnit) : (setUnit s n u).sec = s.sec := rfl
@[simp] theorem setUnit_pwr (n : Nat) (u : RingUnit) : (setUnit s n u).pwr = s.pwr := rfl
@[simp] theorem setUnit_csw (n : Nat) (u : RingUnit) : (setUnit s n u).csw = s.csw := rfl

/-! `setCore`. -/

@[simp] theorem setCore_pending (c : Nat) (k : Core) : (setCore s c k).pending = s.pending := rfl
@[simp] theorem setCore_free (c : Nat) (k : Core) : (setCore s c k).free = s.free := rfl
@[simp] theorem setCore_uid (c : Nat) (k : Core) : (setCore s c k).uid = s.uid := rfl
@[simp] theorem setCore_out (c : Nat) (k : Core) : (setCore s c k).out = s.out := rfl
@[simp] theorem setCore_regs (c : Nat) (k : Core) : (setCore s c k).regs = s.regs := rfl
@[simp] theorem setCore_cores (c : Nat) (k : Core) : (setCore s c k).cores = tset Core.fresh s.cores c k := rfl
@[simp] theorem setCore_seeding (c : Nat) (k : Core) : (setCore s c k).seeding = s.seeding := rfl
@[simp] theorem setCore_signals (c : Nat) (k : Core) : (setCore s c k).signals = s.signals := rfl
@[simp] theorem setCore_mem (c : Nat) (k : Core) : (setCore s c k).mem = s.mem := rfl
@[simp] theorem setCore_poison (c : Nat) (k : Core) : (setCore s c k).poison = s.poison := rfl
@[simp] theorem setCore_scrub (c : Nat) (k : Core) : (setCore s c k).scrub = s.scrub := rfl
@[simp] theorem setCore_tlb (c : Nat) (k : Core) : (setCore s c k).tlb = s.tlb := rfl
@[simp] theorem setCore_coh (c : Nat) (k : Core) : (setCore s c k).coh = s.coh := rfl
@[simp] theorem setCore_cxl (c : Nat) (k : Core) : (setCore s c k).cxl = s.cxl := rfl
@[simp] theorem setCore_rings (c : Nat) (k : Core) : (setCore s c k).rings = s.rings := rfl
@[simp] theorem setCore_sched (c : Nat) (k : Core) : (setCore s c k).sched = s.sched := rfl
@[simp] theorem setCore_loupes (c : Nat) (k : Core) : (setCore s c k).loupes = s.loupes := rfl
@[simp] theorem setCore_tables (c : Nat) (k : Core) : (setCore s c k).tables = s.tables := rfl
@[simp] theorem setCore_fixers (c : Nat) (k : Core) : (setCore s c k).fixers = s.fixers := rfl
@[simp] theorem setCore_ports (c : Nat) (k : Core) : (setCore s c k).ports = s.ports := rfl
@[simp] theorem setCore_pod (c : Nat) (k : Core) : (setCore s c k).pod = s.pod := rfl
@[simp] theorem setCore_errs (c : Nat) (k : Core) : (setCore s c k).errs = s.errs := rfl
@[simp] theorem setCore_msix (c : Nat) (k : Core) : (setCore s c k).msix = s.msix := rfl
@[simp] theorem setCore_aon (c : Nat) (k : Core) : (setCore s c k).aon = s.aon := rfl
@[simp] theorem setCore_aonWait (c : Nat) (k : Core) : (setCore s c k).aonWait = s.aonWait := rfl
@[simp] theorem setCore_fuses (c : Nat) (k : Core) : (setCore s c k).fuses = s.fuses := rfl
@[simp] theorem setCore_flash (c : Nat) (k : Core) : (setCore s c k).flash = s.flash := rfl
@[simp] theorem setCore_rst (c : Nat) (k : Core) : (setCore s c k).rst = s.rst := rfl
@[simp] theorem setCore_pins (c : Nat) (k : Core) : (setCore s c k).pins = s.pins := rfl
@[simp] theorem setCore_sec (c : Nat) (k : Core) : (setCore s c k).sec = s.sec := rfl
@[simp] theorem setCore_pwr (c : Nat) (k : Core) : (setCore s c k).pwr = s.pwr := rfl
@[simp] theorem setCore_csw (c : Nat) (k : Core) : (setCore s c k).csw = s.csw := rfl

/-! `setProg`. -/

@[simp] theorem setProg_pending (p : ProgRef) (q : Prog) : (setProg s p q).pending = s.pending := rfl
@[simp] theorem setProg_free (p : ProgRef) (q : Prog) : (setProg s p q).free = s.free := rfl
@[simp] theorem setProg_uid (p : ProgRef) (q : Prog) : (setProg s p q).uid = s.uid := rfl
@[simp] theorem setProg_out (p : ProgRef) (q : Prog) : (setProg s p q).out = s.out := rfl
@[simp] theorem setProg_regs (p : ProgRef) (q : Prog) : (setProg s p q).regs = s.regs := rfl
@[simp] theorem setProg_cores (p : ProgRef) (q : Prog) : (setProg s p q).cores = tset Core.fresh s.cores p.core (withProg (coreOf s p.core) p.upper (some q)) := rfl
@[simp] theorem setProg_seeding (p : ProgRef) (q : Prog) : (setProg s p q).seeding = s.seeding := rfl
@[simp] theorem setProg_signals (p : ProgRef) (q : Prog) : (setProg s p q).signals = s.signals := rfl
@[simp] theorem setProg_mem (p : ProgRef) (q : Prog) : (setProg s p q).mem = s.mem := rfl
@[simp] theorem setProg_poison (p : ProgRef) (q : Prog) : (setProg s p q).poison = s.poison := rfl
@[simp] theorem setProg_scrub (p : ProgRef) (q : Prog) : (setProg s p q).scrub = s.scrub := rfl
@[simp] theorem setProg_tlb (p : ProgRef) (q : Prog) : (setProg s p q).tlb = s.tlb := rfl
@[simp] theorem setProg_coh (p : ProgRef) (q : Prog) : (setProg s p q).coh = s.coh := rfl
@[simp] theorem setProg_cxl (p : ProgRef) (q : Prog) : (setProg s p q).cxl = s.cxl := rfl
@[simp] theorem setProg_rings (p : ProgRef) (q : Prog) : (setProg s p q).rings = s.rings := rfl
@[simp] theorem setProg_sched (p : ProgRef) (q : Prog) : (setProg s p q).sched = s.sched := rfl
@[simp] theorem setProg_loupes (p : ProgRef) (q : Prog) : (setProg s p q).loupes = s.loupes := rfl
@[simp] theorem setProg_tables (p : ProgRef) (q : Prog) : (setProg s p q).tables = s.tables := rfl
@[simp] theorem setProg_fixers (p : ProgRef) (q : Prog) : (setProg s p q).fixers = s.fixers := rfl
@[simp] theorem setProg_ports (p : ProgRef) (q : Prog) : (setProg s p q).ports = s.ports := rfl
@[simp] theorem setProg_pod (p : ProgRef) (q : Prog) : (setProg s p q).pod = s.pod := rfl
@[simp] theorem setProg_errs (p : ProgRef) (q : Prog) : (setProg s p q).errs = s.errs := rfl
@[simp] theorem setProg_msix (p : ProgRef) (q : Prog) : (setProg s p q).msix = s.msix := rfl
@[simp] theorem setProg_aon (p : ProgRef) (q : Prog) : (setProg s p q).aon = s.aon := rfl
@[simp] theorem setProg_aonWait (p : ProgRef) (q : Prog) : (setProg s p q).aonWait = s.aonWait := rfl
@[simp] theorem setProg_fuses (p : ProgRef) (q : Prog) : (setProg s p q).fuses = s.fuses := rfl
@[simp] theorem setProg_flash (p : ProgRef) (q : Prog) : (setProg s p q).flash = s.flash := rfl
@[simp] theorem setProg_rst (p : ProgRef) (q : Prog) : (setProg s p q).rst = s.rst := rfl
@[simp] theorem setProg_pins (p : ProgRef) (q : Prog) : (setProg s p q).pins = s.pins := rfl
@[simp] theorem setProg_sec (p : ProgRef) (q : Prog) : (setProg s p q).sec = s.sec := rfl
@[simp] theorem setProg_pwr (p : ProgRef) (q : Prog) : (setProg s p q).pwr = s.pwr := rfl
@[simp] theorem setProg_csw (p : ProgRef) (q : Prog) : (setProg s p q).csw = s.csw := rfl

/-! `setSe`. -/

@[simp] theorem setSe_pending (c : Nat) (e : BitVec 512) : (setSe s c e).pending = s.pending := rfl
@[simp] theorem setSe_free (c : Nat) (e : BitVec 512) : (setSe s c e).free = s.free := rfl
@[simp] theorem setSe_uid (c : Nat) (e : BitVec 512) : (setSe s c e).uid = s.uid := rfl
@[simp] theorem setSe_out (c : Nat) (e : BitVec 512) : (setSe s c e).out = s.out := rfl
@[simp] theorem setSe_regs (c : Nat) (e : BitVec 512) : (setSe s c e).regs = s.regs := rfl
@[simp] theorem setSe_cores (c : Nat) (e : BitVec 512) : (setSe s c e).cores = s.cores := rfl
@[simp] theorem setSe_seeding (c : Nat) (e : BitVec 512) : (setSe s c e).seeding = s.seeding := rfl
@[simp] theorem setSe_signals (c : Nat) (e : BitVec 512) : (setSe s c e).signals = s.signals := rfl
@[simp] theorem setSe_mem (c : Nat) (e : BitVec 512) : (setSe s c e).mem = s.mem := rfl
@[simp] theorem setSe_poison (c : Nat) (e : BitVec 512) : (setSe s c e).poison = s.poison := rfl
@[simp] theorem setSe_scrub (c : Nat) (e : BitVec 512) : (setSe s c e).scrub = s.scrub := rfl
@[simp] theorem setSe_tlb (c : Nat) (e : BitVec 512) : (setSe s c e).tlb = s.tlb := rfl
@[simp] theorem setSe_coh (c : Nat) (e : BitVec 512) : (setSe s c e).coh = s.coh := rfl
@[simp] theorem setSe_cxl (c : Nat) (e : BitVec 512) : (setSe s c e).cxl = s.cxl := rfl
@[simp] theorem setSe_rings (c : Nat) (e : BitVec 512) : (setSe s c e).rings = s.rings := rfl
@[simp] theorem setSe_sched (c : Nat) (e : BitVec 512) : (setSe s c e).sched = s.sched := rfl
@[simp] theorem setSe_loupes (c : Nat) (e : BitVec 512) : (setSe s c e).loupes = s.loupes := rfl
@[simp] theorem setSe_tables (c : Nat) (e : BitVec 512) : (setSe s c e).tables = s.tables := rfl
@[simp] theorem setSe_fixers (c : Nat) (e : BitVec 512) : (setSe s c e).fixers = { s.fixers with entries := tset 0 s.fixers.entries c e } := rfl
@[simp] theorem setSe_ports (c : Nat) (e : BitVec 512) : (setSe s c e).ports = s.ports := rfl
@[simp] theorem setSe_pod (c : Nat) (e : BitVec 512) : (setSe s c e).pod = s.pod := rfl
@[simp] theorem setSe_errs (c : Nat) (e : BitVec 512) : (setSe s c e).errs = s.errs := rfl
@[simp] theorem setSe_msix (c : Nat) (e : BitVec 512) : (setSe s c e).msix = s.msix := rfl
@[simp] theorem setSe_aon (c : Nat) (e : BitVec 512) : (setSe s c e).aon = s.aon := rfl
@[simp] theorem setSe_aonWait (c : Nat) (e : BitVec 512) : (setSe s c e).aonWait = s.aonWait := rfl
@[simp] theorem setSe_fuses (c : Nat) (e : BitVec 512) : (setSe s c e).fuses = s.fuses := rfl
@[simp] theorem setSe_flash (c : Nat) (e : BitVec 512) : (setSe s c e).flash = s.flash := rfl
@[simp] theorem setSe_rst (c : Nat) (e : BitVec 512) : (setSe s c e).rst = s.rst := rfl
@[simp] theorem setSe_pins (c : Nat) (e : BitVec 512) : (setSe s c e).pins = s.pins := rfl
@[simp] theorem setSe_sec (c : Nat) (e : BitVec 512) : (setSe s c e).sec = s.sec := rfl
@[simp] theorem setSe_pwr (c : Nat) (e : BitVec 512) : (setSe s c e).pwr = s.pwr := rfl
@[simp] theorem setSe_csw (c : Nat) (e : BitVec 512) : (setSe s c e).csw = s.csw := rfl

/-! `setFix`. -/

@[simp] theorem setFix_pending (r : Option FixRun) : (setFix s r).pending = s.pending := rfl
@[simp] theorem setFix_free (r : Option FixRun) : (setFix s r).free = s.free := rfl
@[simp] theorem setFix_uid (r : Option FixRun) : (setFix s r).uid = s.uid := rfl
@[simp] theorem setFix_out (r : Option FixRun) : (setFix s r).out = s.out := rfl
@[simp] theorem setFix_regs (r : Option FixRun) : (setFix s r).regs = s.regs := rfl
@[simp] theorem setFix_cores (r : Option FixRun) : (setFix s r).cores = s.cores := rfl
@[simp] theorem setFix_seeding (r : Option FixRun) : (setFix s r).seeding = s.seeding := rfl
@[simp] theorem setFix_signals (r : Option FixRun) : (setFix s r).signals = s.signals := rfl
@[simp] theorem setFix_mem (r : Option FixRun) : (setFix s r).mem = s.mem := rfl
@[simp] theorem setFix_poison (r : Option FixRun) : (setFix s r).poison = s.poison := rfl
@[simp] theorem setFix_scrub (r : Option FixRun) : (setFix s r).scrub = s.scrub := rfl
@[simp] theorem setFix_tlb (r : Option FixRun) : (setFix s r).tlb = s.tlb := rfl
@[simp] theorem setFix_coh (r : Option FixRun) : (setFix s r).coh = s.coh := rfl
@[simp] theorem setFix_cxl (r : Option FixRun) : (setFix s r).cxl = s.cxl := rfl
@[simp] theorem setFix_rings (r : Option FixRun) : (setFix s r).rings = s.rings := rfl
@[simp] theorem setFix_sched (r : Option FixRun) : (setFix s r).sched = s.sched := rfl
@[simp] theorem setFix_loupes (r : Option FixRun) : (setFix s r).loupes = s.loupes := rfl
@[simp] theorem setFix_tables (r : Option FixRun) : (setFix s r).tables = s.tables := rfl
@[simp] theorem setFix_fixers (r : Option FixRun) : (setFix s r).fixers = { s.fixers with run := r } := rfl
@[simp] theorem setFix_ports (r : Option FixRun) : (setFix s r).ports = s.ports := rfl
@[simp] theorem setFix_pod (r : Option FixRun) : (setFix s r).pod = s.pod := rfl
@[simp] theorem setFix_errs (r : Option FixRun) : (setFix s r).errs = s.errs := rfl
@[simp] theorem setFix_msix (r : Option FixRun) : (setFix s r).msix = s.msix := rfl
@[simp] theorem setFix_aon (r : Option FixRun) : (setFix s r).aon = s.aon := rfl
@[simp] theorem setFix_aonWait (r : Option FixRun) : (setFix s r).aonWait = s.aonWait := rfl
@[simp] theorem setFix_fuses (r : Option FixRun) : (setFix s r).fuses = s.fuses := rfl
@[simp] theorem setFix_flash (r : Option FixRun) : (setFix s r).flash = s.flash := rfl
@[simp] theorem setFix_rst (r : Option FixRun) : (setFix s r).rst = s.rst := rfl
@[simp] theorem setFix_pins (r : Option FixRun) : (setFix s r).pins = s.pins := rfl
@[simp] theorem setFix_sec (r : Option FixRun) : (setFix s r).sec = s.sec := rfl
@[simp] theorem setFix_pwr (r : Option FixRun) : (setFix s r).pwr = s.pwr := rfl
@[simp] theorem setFix_csw (r : Option FixRun) : (setFix s r).csw = s.csw := rfl

/-! `setCswStatus`. -/

@[simp] theorem setCswStatus_pending (n st code : Nat) : (setCswStatus s n st code).pending = s.pending := rfl
@[simp] theorem setCswStatus_free (n st code : Nat) : (setCswStatus s n st code).free = s.free := rfl
@[simp] theorem setCswStatus_uid (n st code : Nat) : (setCswStatus s n st code).uid = s.uid := rfl
@[simp] theorem setCswStatus_out (n st code : Nat) : (setCswStatus s n st code).out = s.out := rfl
@[simp] theorem setCswStatus_regs (n st code : Nat) : (setCswStatus s n st code).regs = s.regs := rfl
@[simp] theorem setCswStatus_cores (n st code : Nat) : (setCswStatus s n st code).cores = s.cores := rfl
@[simp] theorem setCswStatus_seeding (n st code : Nat) : (setCswStatus s n st code).seeding = s.seeding := rfl
@[simp] theorem setCswStatus_signals (n st code : Nat) : (setCswStatus s n st code).signals = s.signals := rfl
@[simp] theorem setCswStatus_mem (n st code : Nat) : (setCswStatus s n st code).mem = s.mem := rfl
@[simp] theorem setCswStatus_poison (n st code : Nat) : (setCswStatus s n st code).poison = s.poison := rfl
@[simp] theorem setCswStatus_scrub (n st code : Nat) : (setCswStatus s n st code).scrub = s.scrub := rfl
@[simp] theorem setCswStatus_tlb (n st code : Nat) : (setCswStatus s n st code).tlb = s.tlb := rfl
@[simp] theorem setCswStatus_coh (n st code : Nat) : (setCswStatus s n st code).coh = s.coh := rfl
@[simp] theorem setCswStatus_cxl (n st code : Nat) : (setCswStatus s n st code).cxl = s.cxl := rfl
@[simp] theorem setCswStatus_rings (n st code : Nat) : (setCswStatus s n st code).rings = s.rings := rfl
@[simp] theorem setCswStatus_sched (n st code : Nat) : (setCswStatus s n st code).sched = s.sched := rfl
@[simp] theorem setCswStatus_loupes (n st code : Nat) : (setCswStatus s n st code).loupes = s.loupes := rfl
@[simp] theorem setCswStatus_tables (n st code : Nat) : (setCswStatus s n st code).tables = s.tables := rfl
@[simp] theorem setCswStatus_fixers (n st code : Nat) : (setCswStatus s n st code).fixers = s.fixers := rfl
@[simp] theorem setCswStatus_ports (n st code : Nat) : (setCswStatus s n st code).ports = s.ports := rfl
@[simp] theorem setCswStatus_pod (n st code : Nat) : (setCswStatus s n st code).pod = s.pod := rfl
@[simp] theorem setCswStatus_errs (n st code : Nat) : (setCswStatus s n st code).errs = s.errs := rfl
@[simp] theorem setCswStatus_msix (n st code : Nat) : (setCswStatus s n st code).msix = s.msix := rfl
@[simp] theorem setCswStatus_aon (n st code : Nat) : (setCswStatus s n st code).aon = s.aon := rfl
@[simp] theorem setCswStatus_aonWait (n st code : Nat) : (setCswStatus s n st code).aonWait = s.aonWait := rfl
@[simp] theorem setCswStatus_fuses (n st code : Nat) : (setCswStatus s n st code).fuses = s.fuses := rfl
@[simp] theorem setCswStatus_flash (n st code : Nat) : (setCswStatus s n st code).flash = s.flash := rfl
@[simp] theorem setCswStatus_rst (n st code : Nat) : (setCswStatus s n st code).rst = s.rst := rfl
@[simp] theorem setCswStatus_pins (n st code : Nat) : (setCswStatus s n st code).pins = s.pins := rfl
@[simp] theorem setCswStatus_sec (n st code : Nat) : (setCswStatus s n st code).sec = s.sec := rfl
@[simp] theorem setCswStatus_pwr (n st code : Nat) : (setCswStatus s n st code).pwr = s.pwr := rfl
@[simp] theorem setCswStatus_csw (n st code : Nat) : (setCswStatus s n st code).csw = { s.csw with words := tset 0 s.csw.words (16 * n) (BitVec.ofNat 32 (fieldAt 31 28 st + fieldAt 15 0 code)) } := rfl

/-! `setPort`. -/

@[simp] theorem setPort_pending (n : Nat) (p : Port) : (setPort s n p).pending = s.pending := rfl
@[simp] theorem setPort_free (n : Nat) (p : Port) : (setPort s n p).free = s.free := rfl
@[simp] theorem setPort_uid (n : Nat) (p : Port) : (setPort s n p).uid = s.uid := rfl
@[simp] theorem setPort_out (n : Nat) (p : Port) : (setPort s n p).out = s.out := rfl
@[simp] theorem setPort_regs (n : Nat) (p : Port) : (setPort s n p).regs = s.regs := rfl
@[simp] theorem setPort_cores (n : Nat) (p : Port) : (setPort s n p).cores = s.cores := rfl
@[simp] theorem setPort_seeding (n : Nat) (p : Port) : (setPort s n p).seeding = s.seeding := rfl
@[simp] theorem setPort_signals (n : Nat) (p : Port) : (setPort s n p).signals = s.signals := rfl
@[simp] theorem setPort_mem (n : Nat) (p : Port) : (setPort s n p).mem = s.mem := rfl
@[simp] theorem setPort_poison (n : Nat) (p : Port) : (setPort s n p).poison = s.poison := rfl
@[simp] theorem setPort_scrub (n : Nat) (p : Port) : (setPort s n p).scrub = s.scrub := rfl
@[simp] theorem setPort_tlb (n : Nat) (p : Port) : (setPort s n p).tlb = s.tlb := rfl
@[simp] theorem setPort_coh (n : Nat) (p : Port) : (setPort s n p).coh = s.coh := rfl
@[simp] theorem setPort_cxl (n : Nat) (p : Port) : (setPort s n p).cxl = s.cxl := rfl
@[simp] theorem setPort_rings (n : Nat) (p : Port) : (setPort s n p).rings = s.rings := rfl
@[simp] theorem setPort_sched (n : Nat) (p : Port) : (setPort s n p).sched = s.sched := rfl
@[simp] theorem setPort_loupes (n : Nat) (p : Port) : (setPort s n p).loupes = s.loupes := rfl
@[simp] theorem setPort_tables (n : Nat) (p : Port) : (setPort s n p).tables = s.tables := rfl
@[simp] theorem setPort_fixers (n : Nat) (p : Port) : (setPort s n p).fixers = s.fixers := rfl
@[simp] theorem setPort_ports (n : Nat) (p : Port) : (setPort s n p).ports = tset Port.off s.ports n p := rfl
@[simp] theorem setPort_pod (n : Nat) (p : Port) : (setPort s n p).pod = s.pod := rfl
@[simp] theorem setPort_errs (n : Nat) (p : Port) : (setPort s n p).errs = s.errs := rfl
@[simp] theorem setPort_msix (n : Nat) (p : Port) : (setPort s n p).msix = s.msix := rfl
@[simp] theorem setPort_aon (n : Nat) (p : Port) : (setPort s n p).aon = s.aon := rfl
@[simp] theorem setPort_aonWait (n : Nat) (p : Port) : (setPort s n p).aonWait = s.aonWait := rfl
@[simp] theorem setPort_fuses (n : Nat) (p : Port) : (setPort s n p).fuses = s.fuses := rfl
@[simp] theorem setPort_flash (n : Nat) (p : Port) : (setPort s n p).flash = s.flash := rfl
@[simp] theorem setPort_rst (n : Nat) (p : Port) : (setPort s n p).rst = s.rst := rfl
@[simp] theorem setPort_pins (n : Nat) (p : Port) : (setPort s n p).pins = s.pins := rfl
@[simp] theorem setPort_sec (n : Nat) (p : Port) : (setPort s n p).sec = s.sec := rfl
@[simp] theorem setPort_pwr (n : Nat) (p : Port) : (setPort s n p).pwr = s.pwr := rfl
@[simp] theorem setPort_csw (n : Nat) (p : Port) : (setPort s n p).csw = s.csw := rfl

/-! `setLoupe`. -/

@[simp] theorem setLoupe_pending (n : Nat) (l : Loupe) : (setLoupe s n l).pending = s.pending := rfl
@[simp] theorem setLoupe_free (n : Nat) (l : Loupe) : (setLoupe s n l).free = s.free := rfl
@[simp] theorem setLoupe_uid (n : Nat) (l : Loupe) : (setLoupe s n l).uid = s.uid := rfl
@[simp] theorem setLoupe_out (n : Nat) (l : Loupe) : (setLoupe s n l).out = s.out := rfl
@[simp] theorem setLoupe_regs (n : Nat) (l : Loupe) : (setLoupe s n l).regs = s.regs := rfl
@[simp] theorem setLoupe_cores (n : Nat) (l : Loupe) : (setLoupe s n l).cores = s.cores := rfl
@[simp] theorem setLoupe_seeding (n : Nat) (l : Loupe) : (setLoupe s n l).seeding = s.seeding := rfl
@[simp] theorem setLoupe_signals (n : Nat) (l : Loupe) : (setLoupe s n l).signals = s.signals := rfl
@[simp] theorem setLoupe_mem (n : Nat) (l : Loupe) : (setLoupe s n l).mem = s.mem := rfl
@[simp] theorem setLoupe_poison (n : Nat) (l : Loupe) : (setLoupe s n l).poison = s.poison := rfl
@[simp] theorem setLoupe_scrub (n : Nat) (l : Loupe) : (setLoupe s n l).scrub = s.scrub := rfl
@[simp] theorem setLoupe_tlb (n : Nat) (l : Loupe) : (setLoupe s n l).tlb = s.tlb := rfl
@[simp] theorem setLoupe_coh (n : Nat) (l : Loupe) : (setLoupe s n l).coh = s.coh := rfl
@[simp] theorem setLoupe_cxl (n : Nat) (l : Loupe) : (setLoupe s n l).cxl = s.cxl := rfl
@[simp] theorem setLoupe_rings (n : Nat) (l : Loupe) : (setLoupe s n l).rings = s.rings := rfl
@[simp] theorem setLoupe_sched (n : Nat) (l : Loupe) : (setLoupe s n l).sched = s.sched := rfl
@[simp] theorem setLoupe_loupes (n : Nat) (l : Loupe) : (setLoupe s n l).loupes = tset Loupe.idle s.loupes n l := rfl
@[simp] theorem setLoupe_tables (n : Nat) (l : Loupe) : (setLoupe s n l).tables = s.tables := rfl
@[simp] theorem setLoupe_fixers (n : Nat) (l : Loupe) : (setLoupe s n l).fixers = s.fixers := rfl
@[simp] theorem setLoupe_ports (n : Nat) (l : Loupe) : (setLoupe s n l).ports = s.ports := rfl
@[simp] theorem setLoupe_pod (n : Nat) (l : Loupe) : (setLoupe s n l).pod = s.pod := rfl
@[simp] theorem setLoupe_errs (n : Nat) (l : Loupe) : (setLoupe s n l).errs = s.errs := rfl
@[simp] theorem setLoupe_msix (n : Nat) (l : Loupe) : (setLoupe s n l).msix = s.msix := rfl
@[simp] theorem setLoupe_aon (n : Nat) (l : Loupe) : (setLoupe s n l).aon = s.aon := rfl
@[simp] theorem setLoupe_aonWait (n : Nat) (l : Loupe) : (setLoupe s n l).aonWait = s.aonWait := rfl
@[simp] theorem setLoupe_fuses (n : Nat) (l : Loupe) : (setLoupe s n l).fuses = s.fuses := rfl
@[simp] theorem setLoupe_flash (n : Nat) (l : Loupe) : (setLoupe s n l).flash = s.flash := rfl
@[simp] theorem setLoupe_rst (n : Nat) (l : Loupe) : (setLoupe s n l).rst = s.rst := rfl
@[simp] theorem setLoupe_pins (n : Nat) (l : Loupe) : (setLoupe s n l).pins = s.pins := rfl
@[simp] theorem setLoupe_sec (n : Nat) (l : Loupe) : (setLoupe s n l).sec = s.sec := rfl
@[simp] theorem setLoupe_pwr (n : Nat) (l : Loupe) : (setLoupe s n l).pwr = s.pwr := rfl
@[simp] theorem setLoupe_csw (n : Nat) (l : Loupe) : (setLoupe s n l).csw = s.csw := rfl

/-! `setHome`. -/

@[simp] theorem setHome_pending (l : Nat) (h : HomeLine) : (setHome s l h).pending = s.pending := rfl
@[simp] theorem setHome_free (l : Nat) (h : HomeLine) : (setHome s l h).free = s.free := rfl
@[simp] theorem setHome_uid (l : Nat) (h : HomeLine) : (setHome s l h).uid = s.uid := rfl
@[simp] theorem setHome_out (l : Nat) (h : HomeLine) : (setHome s l h).out = s.out := rfl
@[simp] theorem setHome_regs (l : Nat) (h : HomeLine) : (setHome s l h).regs = s.regs := rfl
@[simp] theorem setHome_cores (l : Nat) (h : HomeLine) : (setHome s l h).cores = s.cores := rfl
@[simp] theorem setHome_seeding (l : Nat) (h : HomeLine) : (setHome s l h).seeding = s.seeding := rfl
@[simp] theorem setHome_signals (l : Nat) (h : HomeLine) : (setHome s l h).signals = s.signals := rfl
@[simp] theorem setHome_mem (l : Nat) (h : HomeLine) : (setHome s l h).mem = s.mem := rfl
@[simp] theorem setHome_poison (l : Nat) (h : HomeLine) : (setHome s l h).poison = s.poison := rfl
@[simp] theorem setHome_scrub (l : Nat) (h : HomeLine) : (setHome s l h).scrub = s.scrub := rfl
@[simp] theorem setHome_tlb (l : Nat) (h : HomeLine) : (setHome s l h).tlb = s.tlb := rfl
@[simp] theorem setHome_coh (l : Nat) (h : HomeLine) : (setHome s l h).coh = { s.coh with homes := tset HomeLine.idle s.coh.homes l h } := rfl
@[simp] theorem setHome_cxl (l : Nat) (h : HomeLine) : (setHome s l h).cxl = s.cxl := rfl
@[simp] theorem setHome_rings (l : Nat) (h : HomeLine) : (setHome s l h).rings = s.rings := rfl
@[simp] theorem setHome_sched (l : Nat) (h : HomeLine) : (setHome s l h).sched = s.sched := rfl
@[simp] theorem setHome_loupes (l : Nat) (h : HomeLine) : (setHome s l h).loupes = s.loupes := rfl
@[simp] theorem setHome_tables (l : Nat) (h : HomeLine) : (setHome s l h).tables = s.tables := rfl
@[simp] theorem setHome_fixers (l : Nat) (h : HomeLine) : (setHome s l h).fixers = s.fixers := rfl
@[simp] theorem setHome_ports (l : Nat) (h : HomeLine) : (setHome s l h).ports = s.ports := rfl
@[simp] theorem setHome_pod (l : Nat) (h : HomeLine) : (setHome s l h).pod = s.pod := rfl
@[simp] theorem setHome_errs (l : Nat) (h : HomeLine) : (setHome s l h).errs = s.errs := rfl
@[simp] theorem setHome_msix (l : Nat) (h : HomeLine) : (setHome s l h).msix = s.msix := rfl
@[simp] theorem setHome_aon (l : Nat) (h : HomeLine) : (setHome s l h).aon = s.aon := rfl
@[simp] theorem setHome_aonWait (l : Nat) (h : HomeLine) : (setHome s l h).aonWait = s.aonWait := rfl
@[simp] theorem setHome_fuses (l : Nat) (h : HomeLine) : (setHome s l h).fuses = s.fuses := rfl
@[simp] theorem setHome_flash (l : Nat) (h : HomeLine) : (setHome s l h).flash = s.flash := rfl
@[simp] theorem setHome_rst (l : Nat) (h : HomeLine) : (setHome s l h).rst = s.rst := rfl
@[simp] theorem setHome_pins (l : Nat) (h : HomeLine) : (setHome s l h).pins = s.pins := rfl
@[simp] theorem setHome_sec (l : Nat) (h : HomeLine) : (setHome s l h).sec = s.sec := rfl
@[simp] theorem setHome_pwr (l : Nat) (h : HomeLine) : (setHome s l h).pwr = s.pwr := rfl
@[simp] theorem setHome_csw (l : Nat) (h : HomeLine) : (setHome s l h).csw = s.csw := rfl

/-! `withMsgs`. -/

@[simp] theorem withMsgs_pending (l : List CohMsg) : (withMsgs s l).pending = s.pending := rfl
@[simp] theorem withMsgs_free (l : List CohMsg) : (withMsgs s l).free = s.free := rfl
@[simp] theorem withMsgs_uid (l : List CohMsg) : (withMsgs s l).uid = s.uid := rfl
@[simp] theorem withMsgs_out (l : List CohMsg) : (withMsgs s l).out = s.out := rfl
@[simp] theorem withMsgs_regs (l : List CohMsg) : (withMsgs s l).regs = s.regs := rfl
@[simp] theorem withMsgs_cores (l : List CohMsg) : (withMsgs s l).cores = s.cores := rfl
@[simp] theorem withMsgs_seeding (l : List CohMsg) : (withMsgs s l).seeding = s.seeding := rfl
@[simp] theorem withMsgs_signals (l : List CohMsg) : (withMsgs s l).signals = s.signals := rfl
@[simp] theorem withMsgs_mem (l : List CohMsg) : (withMsgs s l).mem = s.mem := rfl
@[simp] theorem withMsgs_poison (l : List CohMsg) : (withMsgs s l).poison = s.poison := rfl
@[simp] theorem withMsgs_scrub (l : List CohMsg) : (withMsgs s l).scrub = s.scrub := rfl
@[simp] theorem withMsgs_tlb (l : List CohMsg) : (withMsgs s l).tlb = s.tlb := rfl
@[simp] theorem withMsgs_coh (l : List CohMsg) : (withMsgs s l).coh = { s.coh with msgs := l } := rfl
@[simp] theorem withMsgs_cxl (l : List CohMsg) : (withMsgs s l).cxl = s.cxl := rfl
@[simp] theorem withMsgs_rings (l : List CohMsg) : (withMsgs s l).rings = s.rings := rfl
@[simp] theorem withMsgs_sched (l : List CohMsg) : (withMsgs s l).sched = s.sched := rfl
@[simp] theorem withMsgs_loupes (l : List CohMsg) : (withMsgs s l).loupes = s.loupes := rfl
@[simp] theorem withMsgs_tables (l : List CohMsg) : (withMsgs s l).tables = s.tables := rfl
@[simp] theorem withMsgs_fixers (l : List CohMsg) : (withMsgs s l).fixers = s.fixers := rfl
@[simp] theorem withMsgs_ports (l : List CohMsg) : (withMsgs s l).ports = s.ports := rfl
@[simp] theorem withMsgs_pod (l : List CohMsg) : (withMsgs s l).pod = s.pod := rfl
@[simp] theorem withMsgs_errs (l : List CohMsg) : (withMsgs s l).errs = s.errs := rfl
@[simp] theorem withMsgs_msix (l : List CohMsg) : (withMsgs s l).msix = s.msix := rfl
@[simp] theorem withMsgs_aon (l : List CohMsg) : (withMsgs s l).aon = s.aon := rfl
@[simp] theorem withMsgs_aonWait (l : List CohMsg) : (withMsgs s l).aonWait = s.aonWait := rfl
@[simp] theorem withMsgs_fuses (l : List CohMsg) : (withMsgs s l).fuses = s.fuses := rfl
@[simp] theorem withMsgs_flash (l : List CohMsg) : (withMsgs s l).flash = s.flash := rfl
@[simp] theorem withMsgs_rst (l : List CohMsg) : (withMsgs s l).rst = s.rst := rfl
@[simp] theorem withMsgs_pins (l : List CohMsg) : (withMsgs s l).pins = s.pins := rfl
@[simp] theorem withMsgs_sec (l : List CohMsg) : (withMsgs s l).sec = s.sec := rfl
@[simp] theorem withMsgs_pwr (l : List CohMsg) : (withMsgs s l).pwr = s.pwr := rfl
@[simp] theorem withMsgs_csw (l : List CohMsg) : (withMsgs s l).csw = s.csw := rfl

/-! `taint`. -/

@[simp] theorem taint_pending (a : Agent) (l : Nat) (b : Bool) : (taint s a l b).pending = s.pending := rfl
@[simp] theorem taint_free (a : Agent) (l : Nat) (b : Bool) : (taint s a l b).free = s.free := rfl
@[simp] theorem taint_uid (a : Agent) (l : Nat) (b : Bool) : (taint s a l b).uid = s.uid := rfl
@[simp] theorem taint_out (a : Agent) (l : Nat) (b : Bool) : (taint s a l b).out = s.out := rfl
@[simp] theorem taint_regs (a : Agent) (l : Nat) (b : Bool) : (taint s a l b).regs = s.regs := rfl
@[simp] theorem taint_cores (a : Agent) (l : Nat) (b : Bool) : (taint s a l b).cores = s.cores := rfl
@[simp] theorem taint_seeding (a : Agent) (l : Nat) (b : Bool) : (taint s a l b).seeding = s.seeding := rfl
@[simp] theorem taint_signals (a : Agent) (l : Nat) (b : Bool) : (taint s a l b).signals = s.signals := rfl
@[simp] theorem taint_mem (a : Agent) (l : Nat) (b : Bool) : (taint s a l b).mem = s.mem := rfl
@[simp] theorem taint_poison (a : Agent) (l : Nat) (b : Bool) : (taint s a l b).poison = s.poison := rfl
@[simp] theorem taint_scrub (a : Agent) (l : Nat) (b : Bool) : (taint s a l b).scrub = s.scrub := rfl
@[simp] theorem taint_tlb (a : Agent) (l : Nat) (b : Bool) : (taint s a l b).tlb = s.tlb := rfl
@[simp] theorem taint_dir (a : Agent) (l : Nat) (b : Bool) : (taint s a l b).coh.dir = s.coh.dir := rfl
@[simp] theorem taint_homes (a : Agent) (l : Nat) (b : Bool) : (taint s a l b).coh.homes = s.coh.homes := rfl
@[simp] theorem taint_msgs (a : Agent) (l : Nat) (b : Bool) : (taint s a l b).coh.msgs = s.coh.msgs := rfl
@[simp] theorem taint_s0 (a : Agent) (l : Nat) (b : Bool) : (taint s a l b).coh.s0 = s.coh.s0 := rfl
@[simp] theorem taint_s1 (a : Agent) (l : Nat) (b : Bool) : (taint s a l b).coh.s1 = s.coh.s1 := rfl
@[simp] theorem taint_hlc (a : Agent) (l : Nat) (b : Bool) : (taint s a l b).coh.hlc = s.coh.hlc := rfl
@[simp] theorem taint_hout (a : Agent) (l : Nat) (b : Bool) : (taint s a l b).coh.hout = s.coh.hout := rfl
@[simp] theorem taint_cxl (a : Agent) (l : Nat) (b : Bool) : (taint s a l b).cxl = s.cxl := rfl
@[simp] theorem taint_rings (a : Agent) (l : Nat) (b : Bool) : (taint s a l b).rings = s.rings := rfl
@[simp] theorem taint_sched (a : Agent) (l : Nat) (b : Bool) : (taint s a l b).sched = s.sched := rfl
@[simp] theorem taint_loupes (a : Agent) (l : Nat) (b : Bool) : (taint s a l b).loupes = s.loupes := rfl
@[simp] theorem taint_tables (a : Agent) (l : Nat) (b : Bool) : (taint s a l b).tables = s.tables := rfl
@[simp] theorem taint_fixers (a : Agent) (l : Nat) (b : Bool) : (taint s a l b).fixers = s.fixers := rfl
@[simp] theorem taint_ports (a : Agent) (l : Nat) (b : Bool) : (taint s a l b).ports = s.ports := rfl
@[simp] theorem taint_pod (a : Agent) (l : Nat) (b : Bool) : (taint s a l b).pod = s.pod := rfl
@[simp] theorem taint_errs (a : Agent) (l : Nat) (b : Bool) : (taint s a l b).errs = s.errs := rfl
@[simp] theorem taint_msix (a : Agent) (l : Nat) (b : Bool) : (taint s a l b).msix = s.msix := rfl
@[simp] theorem taint_aon (a : Agent) (l : Nat) (b : Bool) : (taint s a l b).aon = s.aon := rfl
@[simp] theorem taint_aonWait (a : Agent) (l : Nat) (b : Bool) : (taint s a l b).aonWait = s.aonWait := rfl
@[simp] theorem taint_fuses (a : Agent) (l : Nat) (b : Bool) : (taint s a l b).fuses = s.fuses := rfl
@[simp] theorem taint_flash (a : Agent) (l : Nat) (b : Bool) : (taint s a l b).flash = s.flash := rfl
@[simp] theorem taint_rst (a : Agent) (l : Nat) (b : Bool) : (taint s a l b).rst = s.rst := rfl
@[simp] theorem taint_pins (a : Agent) (l : Nat) (b : Bool) : (taint s a l b).pins = s.pins := rfl
@[simp] theorem taint_sec (a : Agent) (l : Nat) (b : Bool) : (taint s a l b).sec = s.sec := rfl
@[simp] theorem taint_pwr (a : Agent) (l : Nat) (b : Bool) : (taint s a l b).pwr = s.pwr := rfl
@[simp] theorem taint_csw (a : Agent) (l : Nat) (b : Bool) : (taint s a l b).csw = s.csw := rfl

/-! `dropCopies`. -/

@[simp] theorem dropCopies_pending (l : Nat) : (dropCopies s l).pending = s.pending := rfl
@[simp] theorem dropCopies_free (l : Nat) : (dropCopies s l).free = s.free := rfl
@[simp] theorem dropCopies_uid (l : Nat) : (dropCopies s l).uid = s.uid := rfl
@[simp] theorem dropCopies_out (l : Nat) : (dropCopies s l).out = s.out := rfl
@[simp] theorem dropCopies_regs (l : Nat) : (dropCopies s l).regs = s.regs := rfl
@[simp] theorem dropCopies_cores (l : Nat) : (dropCopies s l).cores = s.cores := rfl
@[simp] theorem dropCopies_seeding (l : Nat) : (dropCopies s l).seeding = s.seeding := rfl
@[simp] theorem dropCopies_signals (l : Nat) : (dropCopies s l).signals = s.signals := rfl
@[simp] theorem dropCopies_mem (l : Nat) : (dropCopies s l).mem = s.mem := rfl
@[simp] theorem dropCopies_poison (l : Nat) : (dropCopies s l).poison = s.poison := rfl
@[simp] theorem dropCopies_scrub (l : Nat) : (dropCopies s l).scrub = s.scrub := rfl
@[simp] theorem dropCopies_tlb (l : Nat) : (dropCopies s l).tlb = s.tlb := rfl
@[simp] theorem dropCopies_coh (l : Nat) : (dropCopies s l).coh =
    { s.coh with s0 := tdel s.coh.s0 l, s1 := tdel s.coh.s1 l, tainted := s.coh.tainted.filter (fun e => e.2 != l), rsv := (loseRsv s (fun _ v => v == rsvLine false l)).coh.rsv } := rfl
@[simp] theorem dropCopies_cxl (l : Nat) : (dropCopies s l).cxl = s.cxl := rfl
@[simp] theorem dropCopies_rings (l : Nat) : (dropCopies s l).rings = s.rings := rfl
@[simp] theorem dropCopies_sched (l : Nat) : (dropCopies s l).sched = s.sched := rfl
@[simp] theorem dropCopies_loupes (l : Nat) : (dropCopies s l).loupes = s.loupes := rfl
@[simp] theorem dropCopies_tables (l : Nat) : (dropCopies s l).tables = s.tables := rfl
@[simp] theorem dropCopies_fixers (l : Nat) : (dropCopies s l).fixers = s.fixers := rfl
@[simp] theorem dropCopies_ports (l : Nat) : (dropCopies s l).ports = s.ports := rfl
@[simp] theorem dropCopies_pod (l : Nat) : (dropCopies s l).pod = s.pod := rfl
@[simp] theorem dropCopies_errs (l : Nat) : (dropCopies s l).errs = s.errs := rfl
@[simp] theorem dropCopies_msix (l : Nat) : (dropCopies s l).msix = s.msix := rfl
@[simp] theorem dropCopies_aon (l : Nat) : (dropCopies s l).aon = s.aon := rfl
@[simp] theorem dropCopies_aonWait (l : Nat) : (dropCopies s l).aonWait = s.aonWait := rfl
@[simp] theorem dropCopies_fuses (l : Nat) : (dropCopies s l).fuses = s.fuses := rfl
@[simp] theorem dropCopies_flash (l : Nat) : (dropCopies s l).flash = s.flash := rfl
@[simp] theorem dropCopies_rst (l : Nat) : (dropCopies s l).rst = s.rst := rfl
@[simp] theorem dropCopies_pins (l : Nat) : (dropCopies s l).pins = s.pins := rfl
@[simp] theorem dropCopies_sec (l : Nat) : (dropCopies s l).sec = s.sec := rfl
@[simp] theorem dropCopies_pwr (l : Nat) : (dropCopies s l).pwr = s.pwr := rfl
@[simp] theorem dropCopies_csw (l : Nat) : (dropCopies s l).csw = s.csw := rfl

/-! `setSpdm`. -/

@[simp] theorem setSpdm_pending (k : Nat) : (setSpdm s k).pending = s.pending := rfl
@[simp] theorem setSpdm_free (k : Nat) : (setSpdm s k).free = s.free := rfl
@[simp] theorem setSpdm_uid (k : Nat) : (setSpdm s k).uid = s.uid := rfl
@[simp] theorem setSpdm_out (k : Nat) : (setSpdm s k).out = s.out := rfl
@[simp] theorem setSpdm_regs (k : Nat) : (setSpdm s k).regs = s.regs := rfl
@[simp] theorem setSpdm_cores (k : Nat) : (setSpdm s k).cores = s.cores := rfl
@[simp] theorem setSpdm_seeding (k : Nat) : (setSpdm s k).seeding = s.seeding := rfl
@[simp] theorem setSpdm_signals (k : Nat) : (setSpdm s k).signals = s.signals := rfl
@[simp] theorem setSpdm_mem (k : Nat) : (setSpdm s k).mem = s.mem := rfl
@[simp] theorem setSpdm_poison (k : Nat) : (setSpdm s k).poison = s.poison := rfl
@[simp] theorem setSpdm_scrub (k : Nat) : (setSpdm s k).scrub = s.scrub := rfl
@[simp] theorem setSpdm_tlb (k : Nat) : (setSpdm s k).tlb = s.tlb := rfl
@[simp] theorem setSpdm_coh (k : Nat) : (setSpdm s k).coh = s.coh := rfl
@[simp] theorem setSpdm_cxl (k : Nat) : (setSpdm s k).cxl = s.cxl := rfl
@[simp] theorem setSpdm_rings (k : Nat) : (setSpdm s k).rings = s.rings := rfl
@[simp] theorem setSpdm_sched (k : Nat) : (setSpdm s k).sched = s.sched := rfl
@[simp] theorem setSpdm_loupes (k : Nat) : (setSpdm s k).loupes = s.loupes := rfl
@[simp] theorem setSpdm_tables (k : Nat) : (setSpdm s k).tables = s.tables := rfl
@[simp] theorem setSpdm_fixers (k : Nat) : (setSpdm s k).fixers = s.fixers := rfl
@[simp] theorem setSpdm_ports (k : Nat) : (setSpdm s k).ports = s.ports := rfl
@[simp] theorem setSpdm_pod (k : Nat) : (setSpdm s k).pod = s.pod := rfl
@[simp] theorem setSpdm_errs (k : Nat) : (setSpdm s k).errs = s.errs := rfl
@[simp] theorem setSpdm_msix (k : Nat) : (setSpdm s k).msix = s.msix := rfl
@[simp] theorem setSpdm_aon (k : Nat) : (setSpdm s k).aon = s.aon := rfl
@[simp] theorem setSpdm_aonWait (k : Nat) : (setSpdm s k).aonWait = s.aonWait := rfl
@[simp] theorem setSpdm_fuses (k : Nat) : (setSpdm s k).fuses = s.fuses := rfl
@[simp] theorem setSpdm_flash (k : Nat) : (setSpdm s k).flash = s.flash := rfl
@[simp] theorem setSpdm_rst (k : Nat) : (setSpdm s k).rst = s.rst := rfl
@[simp] theorem setSpdm_pins (k : Nat) : (setSpdm s k).pins = s.pins := rfl
@[simp] theorem setSpdm_sec (k : Nat) : (setSpdm s k).sec = { s.sec with spdm := k } := rfl
@[simp] theorem setSpdm_pwr (k : Nat) : (setSpdm s k).pwr = s.pwr := rfl
@[simp] theorem setSpdm_csw (k : Nat) : (setSpdm s k).csw = s.csw := rfl

/-! `setPtr`. -/

@[simp] theorem setPtr_pending (p : BitVec 24) : (setPtr s p).pending = s.pending := rfl
@[simp] theorem setPtr_free (p : BitVec 24) : (setPtr s p).free = s.free := rfl
@[simp] theorem setPtr_uid (p : BitVec 24) : (setPtr s p).uid = s.uid := rfl
@[simp] theorem setPtr_out (p : BitVec 24) : (setPtr s p).out = s.out := rfl
@[simp] theorem setPtr_regs (p : BitVec 24) : (setPtr s p).regs = s.regs := rfl
@[simp] theorem setPtr_cores (p : BitVec 24) : (setPtr s p).cores = s.cores := rfl
@[simp] theorem setPtr_seeding (p : BitVec 24) : (setPtr s p).seeding = s.seeding := rfl
@[simp] theorem setPtr_signals (p : BitVec 24) : (setPtr s p).signals = s.signals := rfl
@[simp] theorem setPtr_mem (p : BitVec 24) : (setPtr s p).mem = s.mem := rfl
@[simp] theorem setPtr_poison (p : BitVec 24) : (setPtr s p).poison = s.poison := rfl
@[simp] theorem setPtr_scrub (p : BitVec 24) : (setPtr s p).scrub = s.scrub := rfl
@[simp] theorem setPtr_tlb (p : BitVec 24) : (setPtr s p).tlb = s.tlb := rfl
@[simp] theorem setPtr_coh (p : BitVec 24) : (setPtr s p).coh = s.coh := rfl
@[simp] theorem setPtr_cxl (p : BitVec 24) : (setPtr s p).cxl = s.cxl := rfl
@[simp] theorem setPtr_rings (p : BitVec 24) : (setPtr s p).rings = s.rings := rfl
@[simp] theorem setPtr_sched (p : BitVec 24) : (setPtr s p).sched = s.sched := rfl
@[simp] theorem setPtr_loupes (p : BitVec 24) : (setPtr s p).loupes = s.loupes := rfl
@[simp] theorem setPtr_tables (p : BitVec 24) : (setPtr s p).tables = s.tables := rfl
@[simp] theorem setPtr_fixers (p : BitVec 24) : (setPtr s p).fixers = s.fixers := rfl
@[simp] theorem setPtr_ports (p : BitVec 24) : (setPtr s p).ports = s.ports := rfl
@[simp] theorem setPtr_pod (p : BitVec 24) : (setPtr s p).pod = s.pod := rfl
@[simp] theorem setPtr_errs (p : BitVec 24) : (setPtr s p).errs = s.errs := rfl
@[simp] theorem setPtr_msix (p : BitVec 24) : (setPtr s p).msix = s.msix := rfl
@[simp] theorem setPtr_aon (p : BitVec 24) : (setPtr s p).aon = s.aon := rfl
@[simp] theorem setPtr_aonWait (p : BitVec 24) : (setPtr s p).aonWait = s.aonWait := rfl
@[simp] theorem setPtr_fuses (p : BitVec 24) : (setPtr s p).fuses = s.fuses := rfl
@[simp] theorem setPtr_flash (p : BitVec 24) : (setPtr s p).flash = s.flash := rfl
@[simp] theorem setPtr_rst (p : BitVec 24) : (setPtr s p).rst = s.rst := rfl
@[simp] theorem setPtr_pins (p : BitVec 24) : (setPtr s p).pins = { s.pins with i3cPtr := p } := rfl
@[simp] theorem setPtr_sec (p : BitVec 24) : (setPtr s p).sec = s.sec := rfl
@[simp] theorem setPtr_pwr (p : BitVec 24) : (setPtr s p).pwr = s.pwr := rfl
@[simp] theorem setPtr_csw (p : BitVec 24) : (setPtr s p).csw = s.csw := rfl

end Sys2Proof.Laws
end

