-- ==== Sys2Proof/Laws/Tables.lean ====
section
/-! SUPPORT. Laws of the sparse tables: reading after writing, and the canonical form kept by every table operation. -/

namespace Sys2Proof

variable {α : Type}

theorem keysAbove_trans {j k : Nat} (h : j ≤ k) : ∀ t : Tbl α, keysAbove k t = true → keysAbove j t = true := by
  intro t
  induction t with
  | nil => intro; rfl
  | cons e t ih =>
    intro hk
    simp only [keysAbove, Bool.and_eq_true, decide_eq_true_eq] at hk ⊢
    exact ⟨by omega, ih hk.2⟩

theorem keysAbove_tput {j k : Nat} {v : α} (h : j < k) : ∀ t : Tbl α, keysAbove j t = true → keysAbove j (tput t k v) = true := by
  intro t
  induction t with
  | nil => intro; simp [tput, keysAbove, h]
  | cons e t ih =>
    intro hk
    simp only [keysAbove, Bool.and_eq_true, decide_eq_true_eq] at hk
    simp only [tput]
    split
    · simp [keysAbove, h, hk.1, hk.2]
    · split
      · simp [keysAbove, h, hk.2]
      · simp [keysAbove, hk.1, ih hk.2]

theorem keysAbove_tdel {j k : Nat} : ∀ t : Tbl α, keysAbove j t = true → keysAbove j (tdel t k) = true := by
  intro t
  induction t with
  | nil => intro; rfl
  | cons e t ih =>
    intro hk
    simp only [keysAbove, Bool.and_eq_true, decide_eq_true_eq] at hk
    simp only [tdel]
    split
    · exact hk.2
    · simp [keysAbove, hk.1, ih hk.2]

theorem keysAbove_filter {j : Nat} (p : Nat × α → Bool) : ∀ t : Tbl α, keysAbove j t = true → keysAbove j (t.filter p) = true := by
  intro t
  induction t with
  | nil => intro; rfl
  | cons e t ih =>
    intro hk
    simp only [keysAbove, Bool.and_eq_true, decide_eq_true_eq] at hk
    by_cases hp : p e = true
    · simp [List.filter, hp, keysAbove, hk.1, ih hk.2]
    · simp [List.filter, hp, ih hk.2]

theorem twf_tput [DecidableEq α] {d v : α} {k : Nat} (hv : v ≠ d) : ∀ t : Tbl α, twf d t = true → twf d (tput t k v) = true := by
  intro t
  induction t with
  | nil => intro; simp [tput, twf, keysAbove, hv]
  | cons e t ih =>
    intro ht
    simp only [twf, Bool.and_eq_true, decide_eq_true_eq] at ht
    obtain ⟨⟨hd, hk⟩, hw⟩ := ht
    simp only [tput]
    split
    · rename_i hlt
      simp [twf, keysAbove, hv, hd, hk, hw, hlt, keysAbove_trans (Nat.le_of_lt hlt) t hk]
    · split
      · rename_i heq
        subst heq
        simp [twf, hv, hk, hw]
      · rename_i hn hne
        simp [twf, hd, keysAbove_tput (v := v) (show e.1 < k by omega) t hk, ih hw]

theorem twf_tdel [DecidableEq α] {d : α} {k : Nat} : ∀ t : Tbl α, twf d t = true → twf d (tdel t k) = true := by
  intro t
  induction t with
  | nil => intro; rfl
  | cons e t ih =>
    intro ht
    simp only [twf, Bool.and_eq_true, decide_eq_true_eq] at ht
    obtain ⟨⟨hd, hk⟩, hw⟩ := ht
    simp only [tdel]
    split
    · exact hw
    · simp [twf, hd, keysAbove_tdel t hk, ih hw]

/-- A write keeps the canonical form. -/
theorem twf_tset [DecidableEq α] {d v : α} {k : Nat} {t : Tbl α} (h : twf d t = true) : twf d (tset d t k v) = true := by
  unfold tset
  split
  · exact twf_tdel t h
  · rename_i hv
    exact twf_tput hv t h

theorem twf_filter [DecidableEq α] {d : α} (p : Nat × α → Bool) : ∀ t : Tbl α, twf d t = true → twf d (t.filter p) = true := by
  intro t
  induction t with
  | nil => intro; rfl
  | cons e t ih =>
    intro ht
    simp only [twf, Bool.and_eq_true, decide_eq_true_eq] at ht
    obtain ⟨⟨hd, hk⟩, hw⟩ := ht
    by_cases hp : p e = true
    · simp [List.filter, hp, twf, hd, keysAbove_filter p t hk, ih hw]
    · simp [List.filter, hp, ih hw]

theorem tget_of_above {d : α} {k j : Nat} (h : j ≤ k) : ∀ t : Tbl α, keysAbove k t = true → tget d t j = d := by
  intro t
  cases t with
  | nil => intro; rfl
  | cons e t =>
    intro hk
    simp only [keysAbove, Bool.and_eq_true, decide_eq_true_eq] at hk
    simp only [tget]
    rw [if_neg (by omega), if_pos (by omega)]

/-- A byte written is read back. -/
theorem tget_tput_same {d v : α} {k : Nat} : ∀ t : Tbl α, tget d (tput t k v) k = v := by
  intro t
  induction t with
  | nil => simp [tput, tget]
  | cons e t ih =>
    simp only [tput]
    split
    · simp [tget]
    · split
      · simp [tget]
      · rename_i h1 h2
        simp only [tget]
        rw [if_neg h2, if_neg h1]
        exact ih

theorem tget_tput_other {d v : α} {k j : Nat} (hj : j ≠ k) : ∀ t : Tbl α, tget d (tput t k v) j = tget d t j ∨ j < k := by
  intro t
  by_cases hlt : j < k
  · exact .inr hlt
  · left
    induction t with
    | nil =>
      simp only [tput, tget]
      rw [if_neg (fun h => hj h.symm), if_neg hlt]
    | cons e t ih =>
      simp only [tput]
      split
      · simp only [tget]
        rw [if_neg (fun h => hj h.symm), if_neg hlt]
      · split
        · rename_i h1 h2
          simp only [tget]
          rw [if_neg (fun h => hj h.symm), if_neg hlt, if_neg (by omega), if_neg (by omega)]
        · simp only [tget, ih]

theorem tget_tput_below [DecidableEq α] {d v : α} {k j : Nat} (hj : j < k) :
    ∀ t : Tbl α, twf d t = true → tget d (tput t k v) j = tget d t j := by
  intro t
  induction t with
  | nil => intro; simp only [tput, tget]; rw [if_neg (by omega), if_pos hj]
  | cons e t ih =>
    intro ht
    simp only [twf, Bool.and_eq_true, decide_eq_true_eq] at ht
    obtain ⟨⟨_, hk⟩, hw⟩ := ht
    simp only [tput]
    split
    · simp only [tget]
      rw [if_neg (by omega), if_pos hj]
      split
      · omega
      · rw [if_pos (by omega)]
    · split
      · simp only [tget]
        rw [if_neg (by omega), if_pos hj, if_neg (by omega), if_pos (by omega)]
      · simp only [tget, ih hw]

theorem tget_tdel_other [DecidableEq α] {d : α} {k j : Nat} (hj : j ≠ k) :
    ∀ t : Tbl α, twf d t = true → tget d (tdel t k) j = tget d t j := by
  intro t
  induction t with
  | nil => intro; rfl
  | cons e t ih =>
    intro ht
    simp only [twf, Bool.and_eq_true, decide_eq_true_eq] at ht
    obtain ⟨⟨_, hk⟩, hw⟩ := ht
    simp only [tdel]
    split
    · rename_i h
      simp only [tget]
      rw [if_neg (by omega)]
      split
      · exact tget_of_above (by omega) t hk
      · rfl
    · simp only [tget, ih hw]

theorem tget_tdel_same [DecidableEq α] {d : α} {k : Nat} : ∀ t : Tbl α, twf d t = true → tget d (tdel t k) k = d := by
  intro t
  induction t with
  | nil => intro; rfl
  | cons e t ih =>
    intro ht
    simp only [twf, Bool.and_eq_true, decide_eq_true_eq] at ht
    obtain ⟨⟨_, hk⟩, hw⟩ := ht
    simp only [tdel]
    split
    · rename_i h
      subst h
      exact tget_of_above (Nat.le_refl _) t hk
    · rename_i h
      simp only [tget]
      rw [if_neg h]
      split
      · rfl
      · exact ih hw

/-- On a table in canonical form, what is written is what is read. -/
theorem tget_tset_same [DecidableEq α] {d v : α} {k : Nat} {t : Tbl α} (h : twf d t = true) : tget d (tset d t k v) k = v := by
  unfold tset
  split
  · rename_i hv
    rw [hv]
    exact tget_tdel_same t h
  · exact tget_tput_same t

/-- A write leaves every other key alone. -/
theorem tget_tset_other [DecidableEq α] {d v : α} {k j : Nat} {t : Tbl α} (hj : j ≠ k) (h : twf d t = true) :
    tget d (tset d t k v) j = tget d t j := by
  unfold tset
  split
  · exact tget_tdel_other hj t h
  · rcases tget_tput_other (d := d) (v := v) hj t with h' | h'
    · exact h'
    · exact tget_tput_below h' t h

end Sys2Proof
end

