-- ==== Sys2Proof/Laws/Progs.lean ====
section
/-! SUPPORT. Core programs: what stands at a place after the operations that store, charge, signal and wake. -/

namespace Sys2Proof.Laws

open Sys2Proof.Machine

theorem withProg_ne_fresh (k : Core) (u : Bool) (q : Prog) : withProg k u (some q) ≠ Core.fresh := by
  intro h
  cases u
  · have := congrArg Core.lo h; simp [withProg, Core.fresh] at this
  · have := congrArg Core.hi h; simp [withProg, Core.fresh] at this

@[simp] theorem progAt_withProg (k : Core) (u : Bool) (x : Option Prog) : progAt (withProg k u x) u = x := by
  cases u <;> rfl

@[simp] theorem withProg_withProg (k : Core) (u : Bool) (x y : Option Prog) : withProg (withProg k u x) u y = withProg k u y := by
  cases u <;> rfl

@[simp] theorem withProg_pwr (k : Core) (u : Bool) (x : Option Prog) : (withProg k u x).pwr = k.pwr := by cases u <;> rfl
@[simp] theorem withProg_split (k : Core) (u : Bool) (x : Option Prog) : (withProg k u x).split = k.split := by cases u <;> rfl
@[simp] theorem withProg_sp (k : Core) (u : Bool) (x : Option Prog) : (withProg k u x).sp = k.sp := by cases u <;> rfl
@[simp] theorem withProg_acc (k : Core) (u : Bool) (x : Option Prog) : (withProg k u x).acc = k.acc := by cases u <;> rfl
@[simp] theorem withProg_rows (k : Core) (u : Bool) (x : Option Prog) : (withProg k u x).rows = k.rows := by cases u <;> rfl
@[simp] theorem withProg_tiles (k : Core) (u : Bool) (x : Option Prog) : (withProg k u x).tiles = k.tiles := by cases u <;> rfl

theorem tput_tput {α : Type} (k : Nat) (v w : α) : ∀ t : Tbl α, tput (tput t k v) k w = tput t k w := by
  intro t
  induction t with
  | nil => simp [tput]
  | cons e t ih =>
    obtain ⟨a, x⟩ := e
    by_cases h : k < a
    · simp [tput, h]
    · by_cases h2 : a = k
      · simp [tput, h2]
      · simp [tput, h, h2, ih]

/-- A second write of a table's key is all that is left of the first. -/
theorem tset_tset {α : Type} [DecidableEq α] {d v w : α} (k : Nat) (t : Tbl α) (hv : v ≠ d) (hw : w ≠ d) :
    tset d (tset d t k v) k w = tset d t k w := by
  simp [tset, hv, hw, tput_tput]

/-- A write that lists its key leaves what every other key reads as, in any list. -/
theorem tget_tput_ne {α : Type} {d v : α} {k j : Nat} (hj : j ≠ k) : ∀ t : Tbl α, tget d (tput t k v) j = tget d t j := by
  intro t
  induction t with
  | nil =>
    simp only [tput, tget]
    rw [if_neg (Ne.symm hj)]
    split <;> rfl
  | cons e t ih =>
    obtain ⟨a, x⟩ := e
    by_cases h : k < a
    · simp only [tput, if_pos h, tget]
      rw [if_neg (Ne.symm hj)]
      by_cases h2 : j < k
      · rw [if_pos h2, if_neg (by omega), if_pos (by omega)]
      · rw [if_neg h2]
    · by_cases h2 : a = k
      · subst h2
        simp only [tput, if_neg h, if_pos, tget, if_neg (Ne.symm hj)]
      · simp only [tput, if_neg h, if_neg h2, tget, ih]

theorem coreOf_setCore_ne {s : State} {c d : Nat} {k : Core} (h : k ≠ Core.fresh) (hd : d ≠ c) : coreOf (setCore s c k) d = coreOf s d := by
  simp [coreOf, setCore, tset, h, tget_tput_ne hd]

theorem coreOf_setCore {s : State} {c : Nat} {k : Core} (h : k ≠ Core.fresh) : coreOf (setCore s c k) c = k := by
  simp [coreOf, setCore, tset, h, tget_tput_same]

@[simp] theorem coreOf_setProg (s : State) (p : ProgRef) (q : Prog) :
    coreOf (setProg s p q) p.core = withProg (coreOf s p.core) p.upper (some q) :=
  coreOf_setCore (withProg_ne_fresh _ _ _)

/-- The program stored is the program there. -/
@[simp] theorem progOf_setProg (s : State) (p : ProgRef) (q : Prog) : progOf (setProg s p q) p = some q := by
  simp [progOf]

theorem progAt_withProg_other (k : Core) {u v : Bool} (x : Option Prog) (h : v ≠ u) : progAt (withProg k u x) v = progAt k v := by
  cases u <;> cases v <;> first | rfl | exact absurd rfl h

/-- Storing a program leaves the programs at every other place. -/
theorem progOf_setProg_ne {s : State} {p r : ProgRef} {q : Prog} (h : r ≠ p) : progOf (setProg s p q) r = progOf s r := by
  unfold progOf setProg
  by_cases hc : r.core = p.core
  · have hu : r.upper ≠ p.upper := by
      intro hu; apply h; cases r; cases p; simp_all
    rw [hc, coreOf_setCore (withProg_ne_fresh _ _ _), progAt_withProg_other _ _ hu]
  · rw [coreOf_setCore_ne (withProg_ne_fresh _ _ _) hc]

@[simp] theorem coreOf_stirStep (s : State) (u c : Nat) : coreOf (stirStep s u) c = coreOf s c := rfl
@[simp] theorem progOf_stirStep (s : State) (u : Nat) (p : ProgRef) : progOf (stirStep s u) p = progOf s p := rfl

@[simp] theorem coreOf_putProg (s : State) (p : ProgRef) (q : Prog) :
    coreOf (putProg s p q) p.core = withProg (coreOf s p.core) p.upper (some q) := by
  simp [putProg]

@[simp] theorem progOf_putProg (s : State) (p : ProgRef) (q : Prog) : progOf (putProg s p q) p = some q := by simp [putProg]

@[simp] theorem putProg_mem (s : State) (p : ProgRef) (q : Prog) : (putProg s p q).mem = s.mem := rfl
@[simp] theorem putProg_regs (s : State) (p : ProgRef) (q : Prog) : (putProg s p q).regs = s.regs := rfl
@[simp] theorem putProg_signals (s : State) (p : ProgRef) (q : Prog) : (putProg s p q).signals = s.signals := rfl

theorem wakeGated_cases (s : State) (c : Nat) :
    wakeGated s c = s ∨ wakeGated s c = setCore s c { coreOf s c with pwr := .waking false } := by
  unfold wakeGated
  dsimp only
  split
  · exact .inr rfl
  · exact .inl rfl

/-- A wake-up leaves the program that stands at every place of its core. -/
theorem progOf_wakeGated {s : State} {p : ProgRef} {q : Prog} (h : progOf s p = some q) : progOf (wakeGated s p.core) p = some q := by
  rcases wakeGated_cases s p.core with e | e
  · rw [e]; exact h
  · rw [e]
    have hk : { coreOf s p.core with pwr := CorePwr.waking false } ≠ Core.fresh := by
      intro hf
      have := congrArg Core.pwr hf
      simp [Core.fresh] at this
    unfold progOf at h ⊢
    rw [coreOf_setCore hk]
    exact h

@[simp] theorem wakeGated_mem (s : State) (c : Nat) : (wakeGated s c).mem = s.mem := by
  rcases wakeGated_cases s c with e | e <;> rw [e] <;> rfl
@[simp] theorem wakeGated_regs (s : State) (c : Nat) : (wakeGated s c).regs = s.regs := by
  rcases wakeGated_cases s c with e | e <;> rw [e] <;> rfl
@[simp] theorem wakeGated_signals (s : State) (c : Nat) : (wakeGated s c).signals = s.signals := by
  rcases wakeGated_cases s c with e | e <;> rw [e] <;> rfl

/-- A signal that fits its tally is added to it, and nothing but cores changes. -/
theorem addTally_fits {s : State} {p : ProgRef} {q : Prog} {t n idx : Nat} (h : progOf s p = some q) (hf : tallyOf q t + n ≤ 65535) :
    addTally s p t n idx = wakeGated (setProg s p { q with tallies := tset 0 q.tallies t (tallyOf q t + n) }) p.core := by
  simp [addTally, h, Nat.not_lt.mpr hf]

theorem seqIs_canRun {s : State} {p : ProgRef} {c o : Nat} {q : Prog} {w : Op} (h : seqIs s p c o = some (q, w)) :
    canRun s p = some q := by
  unfold seqIs seqOp at h
  split at h
  · rename_i q' w' h'
    split at h'
    · rename_i q'' hq
      split at h'
      · simp at h'
      · split at h
        · simp only [Option.some.injEq, Prod.mk.injEq] at h
          simp only [Option.map_eq_some_iff, Prod.mk.injEq] at h'
          obtain ⟨_, _, h1, _⟩ := h'
          rw [hq, h1, h.1]
        · simp at h
    · simp at h'
  · simp at h

theorem canRun_progOf {s : State} {p : ProgRef} {q : Prog} (h : canRun s p = some q) : progOf s p = some q := by
  unfold canRun at h
  split at h
  · simp at h
  · split at h
    · rename_i q' hq
      split at h
      · rw [hq, h]
      · simp at h
    · simp at h

@[simp] theorem engOf_withEng (q : Prog) (e : Eng) (x : Engine) : engOf (withEng q e x) e = x := by cases e <;> rfl

@[simp] theorem withEng_withEng (q : Prog) (e : Eng) (x y : Engine) : withEng (withEng q e x) e y = withEng q e y := by cases e <;> rfl

end Sys2Proof.Laws
end

