-- ==== Sys2Proof/Laws/Engines.lean ====
section
/-! SUPPORT. Engine ops: what the head of a queue is, what its wait takes, and what its end makes of the state. -/

namespace Sys2Proof.Laws

open Sys2Proof.Machine

/-- What may start is the head of its queue, and its program the one there. -/
theorem startable_prog {s : State} {p : ProgRef} {e : Eng} {is : Op → Bool} {q : Prog} {o : OpSlot} (h : startable s p e is = some (q, o)) :
    progOf s p = some q ∧ (engOf q e).queue = o :: (engOf q e).queue.tail := by
  unfold startable at h
  split at h
  · simp at h
  · rename_i q' hq
    split at h
    · simp at h
    · rename_i o' t ho
      split at h
      · simp only [Option.some.injEq, Prod.mk.injEq] at h
        obtain ⟨rfl, rfl⟩ := h
        exact ⟨canRun_progOf hq, by rw [ho]; rfl⟩
      · simp at h

/-- An op at the head stays there with its wait taken. -/
theorem takeWait_queue {q : Prog} {e : Eng} {o : OpSlot} (h : (engOf q e).queue = o :: (engOf q e).queue.tail) :
    (engOf (takeWait q e o) e).queue = { o with waitEn := false } :: (engOf q e).queue.tail := by
  unfold takeWait
  cases hw : o.waitEn
  · simp only [Bool.false_eq_true, if_false]
    rw [h]; cases o; subst hw; rfl
  · simp only [if_true]
    have : engOf { withHead q e { o with waitEn := false } with tallies := tset 0 q.tallies (opWT o.word) (tallyOf q (opWT o.word) - opWN o.word) } e
      = engOf (withHead q e { o with waitEn := false }) e := by cases e <;> rfl
    rw [this]; simp [withHead]

theorem takeWait_run {q : Prog} {e : Eng} {o : OpSlot} : (engOf (takeWait q e o) e).run = (engOf q e).run := by
  unfold takeWait
  split
  · cases e <;> rfl
  · rfl

theorem takeWait_step {q : Prog} {e : Eng} {o : OpSlot} : (takeWait q e o).step = q.step := by
  unfold takeWait; split
  · cases e <;> rfl
  · rfl

theorem withEng_step (q : Prog) (e : Eng) (x : Engine) : (withEng q e x).step = q.step := by cases e <;> rfl

theorem setLast_ne (k : Core) (e : Eng) (u v : Bool) (q : Prog) : setLast (withProg k u (some q)) e v ≠ Core.fresh := by
  intro h
  cases u
  · have := congrArg Core.lo h; cases e <;> simp [setLast, withProg, Core.fresh] at this
  · have := congrArg Core.hi h; cases e <;> simp [setLast, withProg, Core.fresh] at this

theorem map_quiet (l : List StepRec) (u : Nat) :
    (l.map (fun t => if t.uid = u then { t with quiet := 0 } else t)).map (fun t => if t.uid = u then { t with quiet := 0 } else t) =
    l.map (fun t => if t.uid = u then { t with quiet := 0 } else t) := by
  rw [List.map_map]; congr 1; funext t
  by_cases h : t.uid = u <;> simp [h]

/-- An op whose effect changed its core and used free values only: what its end makes of the state. -/
theorem opDone_eq {s : State} {p : ProgRef} {e : Eng} {q q2 : Prog} {o o2 : OpSlot} {k : Core} {n : Nat} {rest : List OpSlot}
    (hk : k ≠ Core.fresh) (hq : progAt k p.upper = some q2)
    (hqu : (engOf q2 e).queue = o2 :: rest) :
    opDone (useFree (setCore (setProg s p (takeWait q e o)) p.core k) n) p e .done =
      { s with
        free := s.free + n,
        cores := tset Core.fresh s.cores p.core (setLast (withProg k p.upper (some (withEng q2 e { engOf q2 e with queue := rest, run := (engOf q2 e).run ++ [{ o2 with phase := .done }] }))) e p.upper) } := by
  have hc : coreOf (useFree (setCore (setProg s p (takeWait q e o)) p.core k) n) p.core = k := coreOf_setCore hk
  have hp : progOf (useFree (setCore (setProg s p (takeWait q e o)) p.core k) n) p = some q2 := by
    unfold progOf; rw [hc]; exact hq
  unfold opDone
  rw [hp]
  dsimp only
  rw [hqu]
  dsimp only
  generalize hX : withEng q2 e { engOf q2 e with queue := rest, run := (engOf q2 e).run ++ [{ o2 with phase := .done }] } = X
  rw [coreOf_setProg, hc]
  simp only [setProg, setCore, useFree]
  congr 1
  rw [tset_tset, tset_tset, tset_tset]
  all_goals first | exact setLast_ne _ _ _ _ _ | exact withProg_ne_fresh _ _ _ | exact hk

/-- A core with the programs and the mode of another. -/
def SameProgs (a b : Core) : Prop := b.lo = a.lo ∧ b.hi = a.hi ∧ b.split = a.split
theorem SameProgs.self {a : Core} : SameProgs a a := ⟨rfl, rfl, rfl⟩
theorem SameProgs.step {a b c : Core} (h : SameProgs a b) (g : SameProgs b c) : SameProgs a c := ⟨g.1.trans h.1, g.2.1.trans h.2.1, g.2.2.trans h.2.2⟩
theorem SameProgs.progAt_eq {a b : Core} (h : SameProgs a b) (u : Bool) : progAt b u = progAt a u := by cases u; exact h.1; exact h.2.1
theorem SameProgs.ne {a b : Core} (h : SameProgs a b) {u : Bool} {q : Prog} (ha : progAt a u = some q) : b ≠ Core.fresh := by
  intro hb; rw [← h.progAt_eq u, hb] at ha; cases u <;> simp [progAt, Core.fresh] at ha

/-- A property that each step of a fold keeps holds at its end. -/
theorem foldl_keeps {α σ : Type} (P : σ → Prop) (f : σ → α → σ) (hf : ∀ s a, P s → P (f s a)) :
    ∀ (l : List α) (s : σ), P s → P (l.foldl f s) := by
  intro l
  induction l with
  | nil => intro s h; exact h
  | cons a l ih => intro s h; exact ih _ (hf _ _ h)

theorem applyWrites_sameProgs (u : Bool) (ws : List (Nat × Nat × List Byte)) (a k : Core) (h : SameProgs a k) :
    SameProgs a (applyWrites u k ws) := by
  unfold applyWrites
  refine foldl_keeps (SameProgs a) _ ?_ _ _ h
  intro k m h
  exact h.step ⟨rfl, rfl, rfl⟩

/-- The pipeline of a vector op writes scratchpad, and leaves the core's programs. -/
theorem vecSteps_sameProgs {σ : Type} (u : Bool) (cyc lat : Nat) (f : Core → σ → Nat → σ × List (Nat × List Byte)) (a : Core) :
    ∀ n j (x : VecRun σ), SameProgs a x.core → SameProgs a (vecSteps u cyc lat f n j x).core := by
  intro n
  induction n with
  | zero => intro j x h; exact applyWrites_sameProgs _ _ _ _ h
  | succ n ih => intro j x h; exact ih _ _ (applyWrites_sameProgs _ _ _ _ h)

/-- A unit that finds no error does its work. -/
@[simp] theorem meetUnit_none (dies : List Nat) (f : State → State) (s : State) : meetUnit dies .none f s = f s := by
  unfold meetUnit
  split
  · rename_i h; exact h.symm
  · rfl

end Sys2Proof.Laws
end

