-- ==== Sys2Proof/Laws/Legal.lean ====
section
/-! SUPPORT. What no command ever does: `Legal s t` says that `t` has the queue of `s`, fuses that only grew, memory in canonical form
where `s` had it, the messages of `s` at the front of its own, and counters that did not fall. One law per operation says so of it. -/

namespace Sys2Proof.Machine

theorem FusesGrow.refl (a : Fuses) : FusesGrow a a where
  grade := rfl
  serial := rfl
  strips := rfl
  fval := rfl
  flock := rfl
  keys := rfl
  revoked := fun _ h => h
  bset := fun _ h => h
  bval := fun _ _ => rfl
  svnMc := Nat.le_refl _
  svnS := Nat.le_refl _
  hard := List.prefix_refl _

theorem FusesGrow.trans {a b c : Fuses} (h : FusesGrow a b) (k : FusesGrow b c) : FusesGrow a c where
  grade := k.grade.trans h.grade
  serial := k.serial.trans h.serial
  strips := k.strips.trans h.strips
  fval := k.fval.trans h.fval
  flock := k.flock.trans h.flock
  keys := k.keys.trans h.keys
  revoked := fun i x => k.revoked i (h.revoked i x)
  bset := fun i x => k.bset i (h.bset i x)
  bval := fun i x => (k.bval i (h.bset i x)).trans (h.bval i x)
  svnMc := Nat.le_trans h.svnMc k.svnMc
  svnS := Nat.le_trans h.svnS k.svnS
  hard := h.hard.trans k.hard

structure Legal (s t : State) : Prop where
  queue : t.pending = s.pending
  fuses : FusesGrow s.fuses t.fuses
  mem   : memWf s = true → memWf t = true
  sent  : s.out <+: t.out
  free  : s.free ≤ t.free
  uid   : s.uid ≤ t.uid

theorem Legal.refl (s : State) : Legal s s := ⟨rfl, .refl _, id, List.prefix_refl _, Nat.le_refl _, Nat.le_refl _⟩

theorem Legal.trans {a b c : State} (h : Legal a b) (k : Legal b c) : Legal a c :=
  ⟨k.queue.trans h.queue, h.fuses.trans k.fuses, fun x => k.mem (h.mem x), h.sent.trans k.sent, Nat.le_trans h.free k.free,
    Nat.le_trans h.uid k.uid⟩

/-- An update of other fields. -/
theorem Legal.same {s0 s t : State} (h : Legal s0 s) (h1 : t.pending = s.pending) (h2 : t.fuses = s.fuses) (h3 : t.mem = s.mem)
    (h4 : t.poison = s.poison) (h5 : t.out = s.out) (h6 : t.free = s.free) (h7 : t.uid = s.uid) : Legal s0 t :=
  ⟨h1.trans h.queue, h2 ▸ h.fuses, fun x => by have := h.mem x; unfold memWf at *; rw [h3, h4]; exact this, h5 ▸ h.sent, h6 ▸ h.free,
    h7 ▸ h.uid⟩

/-- `Legal` by the fields it speaks of. -/
def LegalParts (s0 : State) (pending : List Instr) (free uid : Nat) (out : List Msg) (mem : Tbl Byte) (poison : Tbl Bool) (fuses : Fuses) : Prop :=
  ∀ t : State, t.pending = pending → t.free = free → t.uid = uid → t.out = out → t.mem = mem → t.poison = poison → t.fuses = fuses → Legal s0 t

theorem Legal.lit {s0 : State} {a1 a2 a3 a4 a5 a6 a7 a8 a9 a10 a11 a12 a13 a14 a15 a16 a17 a18 a19 a20 a21 a22 a23 a24 a25 a26 a27 a28 a29 a30 a31 a32} :
    Legal s0 ⟨a1, a2, a3, a4, a5, a6, a7, a8, a9, a10, a11, a12, a13, a14, a15, a16, a17, a18, a19, a20, a21, a22, a23, a24, a25, a26, a27, a28, a29, a30, a31, a32⟩ ↔
      LegalParts s0 a1 a2 a3 a4 a9 a10 a26 :=
  ⟨fun h _ h1 h2 h3 h4 h9 h10 h26 => h.same h1 h26 h9 h10 h4 h2 h3, fun h => h _ rfl rfl rfl rfl rfl rfl rfl⟩

theorem Legal.parts {s0 s : State} (h : Legal s0 s) : LegalParts s0 s.pending s.free s.uid s.out s.mem s.poison s.fuses :=
  fun _ h1 h2 h3 h4 h8 h9 h24 => h.same h1 h24 h8 h9 h4 h2 h3

/-- What an access, a command or a try answers is legal. -/
inductive AccLegal {α : Type} (s0 : State) : Acc α → Prop where
  | ok {a : α} {s : State} : Legal s0 s → AccLegal s0 (.ok a s)
  | wait {s : State} : Legal s0 s → AccLegal s0 (.wait s)
  | bad {c a : Nat} {s : State} : Legal s0 s → AccLegal s0 (.bad c a s)

inductive OutLegal (s0 : State) : Out State → Prop where
  | next {s : State} : Legal s0 s → OutLegal s0 (.next s)
  | refused {r : Refusal} : OutLegal s0 (.refused r)
  | fault {r : Fault} : OutLegal s0 (.fault r)

inductive OptLegal (s0 : State) : Option State → Prop where
  | none : OptLegal s0 none
  | some {s : State} : Legal s0 s → OptLegal s0 (some s)

theorem Legal.of_ok {α : Type} {s0 s : State} {r : Acc α} {a : α} (e : r = .ok a s) (h : AccLegal s0 r) : Legal s0 s := by
  cases h with
  | ok h => cases e; exact h
  | wait h => cases e
  | bad h => cases e

theorem Legal.of_wait {α : Type} {s0 s : State} {r : Acc α} (e : r = .wait s) (h : AccLegal s0 r) : Legal s0 s := by
  cases h with
  | ok h => cases e
  | wait h => cases e; exact h
  | bad h => cases e

theorem Legal.of_bad {α : Type} {s0 s : State} {r : Acc α} {c a : Nat} (e : r = .bad c a s) (h : AccLegal s0 r) : Legal s0 s := by
  cases h with
  | ok h => cases e
  | wait h => cases e
  | bad h => cases e; exact h

theorem Legal.of_some {s0 s : State} {r : Option State} (e : r = some s) (h : OptLegal s0 r) : Legal s0 s := by
  cases h with
  | none => cases e
  | some h => cases e; exact h

theorem Legal.of_next {s0 s : State} {r : Out State} (e : r = .next s) (h : OutLegal s0 r) : Legal s0 s := by
  cases h with
  | next h => cases e; exact h
  | refused => cases e
  | fault => cases e

/-- What the arrival of a transaction answers. -/
inductive ArrLegal (s0 : State) : Arrival → Prop where
  | none : ArrLegal s0 .none
  | drop {s : State} : Legal s0 s → ArrLegal s0 (.drop s)
  | ok {x : Txn} {s : State} : Legal s0 s → ArrLegal s0 (.ok x s)

/-- What option load answers. -/
inductive LoadLegal (s0 : State) : Loaded → Prop where
  | done {s : State} : Legal s0 s → LoadLegal s0 (.done s)
  | noSlot : LoadLegal s0 .noSlot
  | badMaster : LoadLegal s0 .badMaster

/-- What the opening of segments answers. -/
inductive OpenLegal (s0 : State) : Opened → Prop where
  | ok {s : State} : Legal s0 s → OpenLegal s0 (.ok s)
  | fault {s : State} {c : Coll} {g d a : Nat} : Legal s0 s → OpenLegal s0 (.fault s c g d a)
  | noWay {s : State} {c : Coll} {g d : Nat} : Legal s0 s → OpenLegal s0 (.noWay s c g d)
  | check {s : State} {c : Coll} {g i : Nat} {p : Bool} : Legal s0 s → OpenLegal s0 (.check s c g p i)

/-- What serving a segment answers. -/
inductive ServLegal (s0 : State) : Served → Prop where
  | done {s : State} : Legal s0 s → ServLegal s0 (.done s)
  | hold {s : State} : Legal s0 s → ServLegal s0 (.hold s)

/-- A pair with a state. -/
inductive FstLegal {α : Type} (s0 : State) : State × α → Prop where
  | mk {s : State} {a : α} : Legal s0 s → FstLegal s0 (s, a)

/-- A pair with a state. -/
inductive SndLegal {α : Type} (s0 : State) : α × State → Prop where
  | mk {s : State} {a : α} : Legal s0 s → SndLegal s0 (a, s)

/-- A triple with a state. -/
inductive ThdLegal {α β : Type} (s0 : State) : α × β × State → Prop where
  | mk {s : State} {a : α} {b : β} : Legal s0 s → ThdLegal s0 (a, b, s)

/-- A pair with a state, or none. -/
inductive OptFst {α : Type} (s0 : State) : Option (State × α) → Prop where
  | none : OptFst s0 none
  | some {s : State} {a : α} : Legal s0 s → OptFst s0 (some (s, a))

/-- A pair with a state, or none. -/
inductive OptSnd {α : Type} (s0 : State) : Option (α × State) → Prop where
  | none : OptSnd s0 none
  | some {s : State} {a : α} : Legal s0 s → OptSnd s0 (some (a, s))

/-- What a LOAD or STORE meets on its way: a state it goes on in, or none, and the state where it ends. -/
inductive WayLegal {α : Type} (s0 : State) : Option (State × α) × State → Prop where
  | some {s t : State} {a : α} : Legal s0 s → Legal s0 t → WayLegal s0 (some (s, a), t)
  | none {t : State} : Legal s0 t → WayLegal s0 (none, t)

/-- A state or a refusal. -/
inductive ExcLegal (s0 : State) : Except Nat State → Prop where
  | error {n : Nat} : ExcLegal s0 (.error n)
  | ok {s : State} : Legal s0 s → ExcLegal s0 (.ok s)

/-- A pair with a state, or a refusal. -/
inductive ExcFst {α : Type} (s0 : State) : Except Nat (State × α) → Prop where
  | error {n : Nat} : ExcFst s0 (.error n)
  | ok {s : State} {a : α} : Legal s0 s → ExcFst s0 (.ok (s, a))

theorem Legal.of_drop {s0 s : State} {r : Arrival} (e : r = .drop s) (h : ArrLegal s0 r) : Legal s0 s := by
  cases h <;> cases e
  assumption

theorem Legal.of_arr {x : Txn} {s0 s : State} {r : Arrival} (e : r = .ok x s) (h : ArrLegal s0 r) : Legal s0 s := by
  cases h <;> cases e
  assumption

theorem Legal.of_done {s0 s : State} {r : Loaded} (e : r = .done s) (h : LoadLegal s0 r) : Legal s0 s := by
  cases h <;> cases e
  assumption

theorem Legal.of_open {s0 s : State} {r : Opened} (e : r = .ok s) (h : OpenLegal s0 r) : Legal s0 s := by
  cases h <;> cases e
  assumption

theorem Legal.of_fault {c : Coll} {g d a : Nat} {s0 s : State} {r : Opened} (e : r = .fault s c g d a) (h : OpenLegal s0 r) : Legal s0 s := by
  cases h <;> cases e
  assumption

theorem Legal.of_noWay {c : Coll} {g d : Nat} {s0 s : State} {r : Opened} (e : r = .noWay s c g d) (h : OpenLegal s0 r) : Legal s0 s := by
  cases h <;> cases e
  assumption

theorem Legal.of_check {c : Coll} {g i : Nat} {p : Bool} {s0 s : State} {r : Opened} (e : r = .check s c g p i) (h : OpenLegal s0 r) : Legal s0 s := by
  cases h <;> cases e
  assumption

theorem Legal.of_served {s0 s : State} {r : Served} (e : r = .done s) (h : ServLegal s0 r) : Legal s0 s := by
  cases h <;> cases e
  assumption

theorem Legal.of_hold {s0 s : State} {r : Served} (e : r = .hold s) (h : ServLegal s0 r) : Legal s0 s := by
  cases h <;> cases e
  assumption

theorem Legal.of_fst {α : Type} {a : α} {s0 s : State} {r : State × α} (e : r = (s, a)) (h : FstLegal s0 r) : Legal s0 s := by
  cases h <;> cases e
  assumption

theorem Legal.of_snd {α : Type} {a : α} {s0 s : State} {r : α × State} (e : r = (a, s)) (h : SndLegal s0 r) : Legal s0 s := by
  cases h <;> cases e
  assumption

theorem Legal.of_thd {α β : Type} {a : α} {b : β} {s0 s : State} {r : α × β × State} (e : r = (a, b, s)) (h : ThdLegal s0 r) : Legal s0 s := by
  cases h <;> cases e
  assumption

theorem Legal.of_optfst {α : Type} {a : α} {s0 s : State} {r : Option (State × α)} (e : r = some (s, a)) (h : OptFst s0 r) : Legal s0 s := by
  cases h <;> cases e
  assumption

theorem Legal.of_optsnd {α : Type} {a : α} {s0 s : State} {r : Option (α × State)} (e : r = some (a, s)) (h : OptSnd s0 r) : Legal s0 s := by
  cases h <;> cases e
  assumption

theorem Legal.of_way1 {α : Type} {a : α} {s0 s t : State} {r : Option (State × α) × State} (e : r = (some (s, a), t)) (h : WayLegal s0 r) :
    Legal s0 s := by
  cases h <;> cases e
  assumption

theorem Legal.of_way2 {α : Type} {o : Option (State × α)} {s0 t : State} {r : Option (State × α) × State} (e : r = (o, t)) (h : WayLegal s0 r) :
    Legal s0 t := by
  cases h <;> cases e <;> assumption

theorem Legal.of_exc {s0 s : State} {r : Except Nat State} (e : r = .ok s) (h : ExcLegal s0 r) : Legal s0 s := by
  cases h <;> cases e
  assumption

theorem Legal.of_excfst {α : Type} {a : α} {s0 s : State} {r : Except Nat (State × α)} (e : r = .ok (s, a)) (h : ExcFst s0 r) : Legal s0 s := by
  cases h <;> cases e
  assumption

theorem FstLegal.lit {α : Type} {s0 s : State} {a : α} : FstLegal s0 (s, a) ↔ Legal s0 s := ⟨fun h => .of_fst rfl h, .mk⟩

theorem SndLegal.lit {α : Type} {s0 s : State} {a : α} : SndLegal s0 (a, s) ↔ Legal s0 s := ⟨fun h => .of_snd rfl h, .mk⟩

theorem ThdLegal.lit {α β : Type} {s0 s : State} {a : α} {b : β} : ThdLegal s0 (a, b, s) ↔ Legal s0 s := ⟨fun h => .of_thd rfl h, .mk⟩

theorem FstLegal.get {α : Type} {s0 : State} {r : State × α} (h : FstLegal s0 r) : Legal s0 r.1 := by
  cases h
  assumption

theorem ThdLegal.get {α β : Type} {s0 : State} {r : α × β × State} (h : ThdLegal s0 r) : Legal s0 r.2.2 := by
  cases h
  assumption

theorem ThdLegal.snd {α β : Type} {s0 : State} {r : α × β × State} (h : ThdLegal s0 r) : SndLegal s0 r.2 := by
  cases h
  exact .mk ‹_›

theorem SndLegal.get {α : Type} {s0 : State} {r : α × State} (h : SndLegal s0 r) : Legal s0 r.2 := by
  cases h
  assumption

theorem FstLegal.foldl {α β : Type} {s0 : State} {f : State × α → β → State × α}
    (hf : ∀ s a b, Legal s0 s → FstLegal s0 (f (s, a) b)) :
    ∀ (l : List β) {r : State × α}, FstLegal s0 r → FstLegal s0 (l.foldl f r) := by
  intro l
  induction l with
  | nil => intro r h; exact h
  | cons b l ih =>
    intro r h
    cases h with
    | mk h => exact ih (hf _ _ b h)

theorem SndLegal.foldl {α β : Type} {s0 : State} {f : α × State → β → α × State}
    (hf : ∀ s a b, Legal s0 s → SndLegal s0 (f (a, s) b)) :
    ∀ (l : List β) {r : α × State}, SndLegal s0 r → SndLegal s0 (l.foldl f r) := by
  intro l
  induction l with
  | nil => intro r h; exact h
  | cons b l ih =>
    intro r h
    cases h with
    | mk h => exact ih (hf _ _ b h)

theorem AccLegal.of_bind {α β : Type} {s0 : State} {r : Acc α} {k : α → State → Acc β} (h : AccLegal s0 r)
    (hk : ∀ a t, Legal s0 t → AccLegal s0 (k a t)) : AccLegal s0 (r.bind k) := by
  cases h with
  | ok h => exact hk _ _ h
  | wait h => exact .wait h
  | bad h => exact .bad h

theorem OptLegal.map {α : Type} {s0 : State} {f : α → State} {o : Option α} (h : ∀ a, Legal s0 (f a)) : OptLegal s0 (o.map f) := by
  cases o with
  | none => exact .none
  | some a => exact .some (h a)

theorem OptLegal.mapS {s0 : State} {f : State → State} {o : Option State} (ho : OptLegal s0 o)
    (h : ∀ t, Legal s0 t → Legal s0 (f t)) : OptLegal s0 (o.map f) := by
  cases ho with
  | none => exact .none
  | some k => exact .some (h _ k)

theorem OptLegal.bind {s0 : State} {f : State → Option State} {o : Option State} (ho : OptLegal s0 o)
    (h : ∀ t, Legal s0 t → OptLegal s0 (f t)) : OptLegal s0 (o.bind f) := by
  cases ho with
  | none => exact .none
  | some k => exact h _ k

theorem OptSnd.map {α β : Type} {s0 : State} {f : α → β × State} {o : Option α} (h : ∀ a, SndLegal s0 (f a)) : OptSnd s0 (o.map f) := by
  cases o with
  | none => exact .none
  | some a =>
    have := h a
    cases hf : f a with
    | mk b s => rw [hf] at this; simp only [Option.map, hf]; exact .some (SndLegal.lit.mp this)

theorem OptFst.bind {α : Type} {s0 : State} {f : State → Option (State × α)} {o : Option State} (ho : OptLegal s0 o)
    (h : ∀ t, Legal s0 t → OptFst s0 (f t)) : OptFst s0 (o.bind f) := by
  cases ho with
  | none => exact .none
  | some k => exact h _ k

theorem OptFst.bindF {α β : Type} {s0 : State} {f : State × β → Option (State × α)} {o : Option (State × β)} (ho : OptFst s0 o)
    (h : ∀ t b, Legal s0 t → OptFst s0 (f (t, b))) : OptFst s0 (o.bind f) := by
  cases ho with
  | none => exact .none
  | some k => exact h _ _ k

theorem OptFst.mapS {α : Type} {s0 : State} {f : State → State × α} {o : Option State} (ho : OptLegal s0 o)
    (h : ∀ t, Legal s0 t → FstLegal s0 (f t)) : OptFst s0 (o.map f) := by
  cases ho with
  | none => exact .none
  | some k =>
    rename_i s
    have := h s k
    cases hf : f s with
    | mk t a => rw [hf] at this; simp only [Option.map, hf]; exact .some (FstLegal.lit.mp this)

theorem OptLegal.getD {s0 s : State} {r : Option State} (h : Legal s0 s) (hr : OptLegal s0 r) : Legal s0 (r.getD s) := by
  cases hr with
  | none => exact h
  | some h => exact h

theorem Legal.ite {s0 a b : State} {c : Prop} [Decidable c] (ha : c → Legal s0 a) (hb : ¬c → Legal s0 b) : Legal s0 (if c then a else b) := by
  split
  · exact ha ‹_›
  · exact hb ‹_›

theorem AccLegal.ite {α : Type} {s0 : State} {a b : Acc α} {c : Prop} [Decidable c] (ha : c → AccLegal s0 a) (hb : ¬c → AccLegal s0 b) :
    AccLegal s0 (if c then a else b) := by
  split
  · exact ha ‹_›
  · exact hb ‹_›

theorem Legal.foldl {α : Type} {s0 : State} {f : State → α → State} (hf : ∀ t a, Legal s0 t → Legal s0 (f t a)) :
    ∀ (l : List α) {s : State}, Legal s0 s → Legal s0 (l.foldl f s) := by
  intro l
  induction l with
  | nil => intro s h; exact h
  | cons a l ih => intro s h; exact ih (hf s a h)

theorem AccLegal.foldl {α β : Type} {s0 : State} {f : Acc β → α → Acc β} (hf : ∀ r a, AccLegal s0 r → AccLegal s0 (f r a)) :
    ∀ (l : List α) {r : Acc β}, AccLegal s0 r → AccLegal s0 (l.foldl f r) := by
  intro l
  induction l with
  | nil => intro r h; exact h
  | cons a l ih => intro r h; exact ih (hf r a h)

/-! The operations that touch what `Legal` speaks of. -/

theorem twf_putBytes (l : List Byte) : ∀ {t : Tbl Byte} (a : Nat), twf 0 t = true → twf 0 (putBytes t a l) = true := by
  induction l with
  | nil => intro t a h; exact h
  | cons b l ih => intro t a h; exact ih (a + 1) (twf_tset h)

theorem memWrite_legal {s0 s : State} (h : Legal s0 s) (a : Nat) (bs : List Byte) : Legal s0 (memWrite s a bs) :=
  ⟨h.queue, h.fuses, fun x => by
    have := h.mem x
    simp only [memWf, memWrite, Bool.and_eq_true] at this ⊢
    exact ⟨twf_putBytes bs a this.1, this.2⟩, h.sent, h.free, h.uid⟩

theorem setPoison_legal {s0 s : State} (h : Legal s0 s) (l : Nat) (p : Bool) : Legal s0 (setPoison s l p) :=
  ⟨h.queue, h.fuses, fun x => by
    have := h.mem x
    simp only [memWf, setPoison, Bool.and_eq_true] at this ⊢
    exact ⟨this.1, twf_tset this.2⟩, h.sent, h.free, h.uid⟩

theorem send_legal {s0 s : State} (h : Legal s0 s) (m : Msg) : Legal s0 (send s m) :=
  ⟨h.queue, h.fuses, h.mem, h.sent.trans (by unfold send; dsimp only; split <;> simp), h.free, h.uid⟩

theorem sendWaiting_legal {s0 s : State} (h : Legal s0 s) : Legal s0 (sendWaiting s) :=
  ⟨h.queue, h.fuses, h.mem, h.sent.trans (List.prefix_append _ _), h.free, h.uid⟩

theorem useFree_legal {s0 s : State} (h : Legal s0 s) (n : Nat) : Legal s0 (useFree s n) :=
  ⟨h.queue, h.fuses, h.mem, h.sent, Nat.le_trans h.free (Nat.le_add_right _ _), h.uid⟩

theorem nextUid_legal {s0 s : State} (h : Legal s0 s) : Legal s0 (nextUid s) :=
  ⟨h.queue, h.fuses, h.mem, h.sent, h.free, Nat.le_trans h.uid (Nat.le_succ _)⟩

theorem blow_legal {s0 s : State} (h : Legal s0 s) {f : Fuses} (hf : FusesGrow s.fuses f) : Legal s0 { s with fuses := f } :=
  ⟨h.queue, h.fuses.trans hf, h.mem, h.sent, h.free, h.uid⟩

end Sys2Proof.Machine
end

