-- ==== Sys2Proof/Laws/LegalOps.lean ====
section
/-! SUPPORT. `Legal` of shared operations: registers and records, memory and homes, faults, the sequencer and the engines. -/

namespace Sys2Proof.Machine

/-! Flags. -/

theorem setReg_legal {s0 s : State} (h : Legal s0 s) (off : Nat) (v : BitVec 64) :
    Legal s0 (setReg s off v) := by
  unfold setReg
  repeat' first
    | with_reducible assumption
    | with_reducible first | apply Legal.parts
    | simp only [Legal.lit]
    | with_reducible first | apply Legal.ite
    | split
    | with_reducible first | apply Legal.foldl
    | intro _
    | dsimp only

theorem setField_legal {s0 s : State} (h : Legal s0 s) (off : Nat) (hi : Nat) (lo : Nat) (v : Nat) :
    Legal s0 (setField s off hi lo v) := by
  unfold setField
  repeat' first
    | with_reducible assumption
    | with_reducible first | apply setReg_legal | apply Legal.parts
    | simp only [Legal.lit]
    | with_reducible first | apply Legal.ite
    | split
    | with_reducible first | apply Legal.foldl
    | intro _
    | dsimp only

theorem bump_legal {s0 s : State} (h : Legal s0 s) (off : Nat) (hi : Nat) (lo : Nat) (n : optParam Nat 1) :
    Legal s0 (bump s off hi lo n) := by
  unfold bump
  repeat' first
    | with_reducible assumption
    | with_reducible first | apply setField_legal | apply Legal.parts
    | simp only [Legal.lit]
    | with_reducible first | apply Legal.ite
    | split
    | with_reducible first | apply Legal.foldl
    | intro _
    | dsimp only

theorem bumpWrap_legal {s0 s : State} (h : Legal s0 s) (off : Nat) (hi : Nat) (lo : Nat) :
    Legal s0 (bumpWrap s off hi lo) := by
  unfold bumpWrap
  repeat' first
    | with_reducible assumption
    | with_reducible first | apply setField_legal | apply Legal.parts
    | simp only [Legal.lit]
    | with_reducible first | apply Legal.ite
    | split
    | with_reducible first | apply Legal.foldl
    | intro _
    | dsimp only

theorem logOnce_legal {s0 s : State} (h : Legal s0 s) (off : Nat) (v : BitVec 64) :
    Legal s0 (logOnce s off v) := by
  unfold logOnce
  repeat' first
    | with_reducible assumption
    | with_reducible first | apply setReg_legal | apply Legal.parts
    | simp only [Legal.lit]
    | with_reducible first | apply Legal.ite
    | split
    | with_reducible first | apply Legal.foldl
    | intro _
    | dsimp only

theorem sendVec_legal {s0 s : State} (h : Legal s0 s) (v : Nat) :
    Legal s0 (sendVec s v) := by
  unfold sendVec
  repeat' first
    | with_reducible assumption
    | with_reducible first | apply send_legal | apply Legal.parts
    | simp only [Legal.lit]
    | with_reducible first | apply Legal.ite
    | split
    | with_reducible first | apply Legal.foldl
    | intro _
    | dsimp only

theorem raiseEvent_legal {s0 s : State} (h : Legal s0 s) (cause : Nat) :
    Legal s0 (raiseEvent s cause) := by
  unfold raiseEvent
  repeat' first
    | with_reducible assumption
    | with_reducible first | apply setField_legal | apply sendVec_legal | apply Legal.parts
    | simp only [Legal.lit]
    | with_reducible first | apply Legal.ite
    | split
    | with_reducible first | apply Legal.foldl
    | intro _
    | dsimp only

theorem driveAlert_legal {s0 s : State} (h : Legal s0 s) :
    Legal s0 (driveAlert s) := by
  unfold driveAlert
  repeat' first
    | with_reducible assumption
    | with_reducible first | apply Legal.parts
    | simp only [Legal.lit]
    | with_reducible first | apply Legal.ite
    | split
    | with_reducible first | apply Legal.foldl
    | intro _
    | dsimp only

theorem setAlert_legal {s0 s : State} (h : Legal s0 s) (b : Nat) :
    Legal s0 (setAlert s b) := by
  unfold setAlert
  repeat' first
    | with_reducible assumption
    | with_reducible first | apply driveAlert_legal | apply setField_legal | apply Legal.parts
    | simp only [Legal.lit]
    | with_reducible first | apply Legal.ite
    | split
    | with_reducible first | apply Legal.foldl
    | intro _
    | dsimp only

/-! Mem. -/

theorem logUeAt_legal {s0 s : State} (h : Legal s0 s) (p : Nat) (ec : Bool) (scrub : Bool) :
    Legal s0 (logUeAt s p ec scrub) := by
  unfold logUeAt
  repeat' first
    | with_reducible assumption
    | with_reducible first | apply bump_legal | apply setReg_legal | apply Legal.parts
    | simp only [Legal.lit]
    | with_reducible first | apply Legal.ite
    | split
    | with_reducible first | apply Legal.foldl
    | intro _
    | dsimp only

theorem logUe_legal {s0 s : State} (h : Legal s0 s) (line : Nat) (ec : Bool) (scrub : Bool) :
    Legal s0 (logUe s line ec scrub) := by
  unfold logUe
  repeat' first
    | with_reducible assumption
    | with_reducible first | apply logUeAt_legal | apply Legal.parts
    | simp only [Legal.lit]
    | with_reducible first | apply Legal.ite
    | split
    | with_reducible first | apply Legal.foldl
    | intro _
    | dsimp only

theorem zeroSlots_legal {s0 s : State} (h : Legal s0 s) (p : Nat) (scrub : Bool) :
    Legal s0 (zeroSlots s p scrub) := by
  unfold zeroSlots
  repeat' first
    | with_reducible assumption
    | with_reducible first | apply logUeAt_legal | apply memWrite_legal | apply Legal.parts
    | simp only [Legal.lit]
    | with_reducible first | apply Legal.ite
    | split
    | with_reducible first | apply Legal.foldl
    | intro _
    | dsimp only

theorem setRing_legal {s0 s : State} (h : Legal s0 s) (n : Nat) (r : Ring) :
    Legal s0 (setRing s n r) := by
  unfold setRing
  repeat' first
    | with_reducible assumption
    | with_reducible first | apply Legal.parts
    | simp only [Legal.lit]
    | with_reducible first | apply Legal.ite
    | split
    | with_reducible first | apply Legal.foldl
    | intro _
    | dsimp only

theorem setUnit_legal {s0 s : State} (h : Legal s0 s) (n : Nat) (u : RingUnit) :
    Legal s0 (setUnit s n u) := by
  unfold setUnit
  repeat' first
    | with_reducible assumption
    | with_reducible first | apply Legal.parts
    | simp only [Legal.lit]
    | with_reducible first | apply Legal.ite
    | split
    | with_reducible first | apply Legal.foldl
    | intro _
    | dsimp only

theorem post_legal {s0 s : State} (h : Legal s0 s) (m : CohMsg) :
    Legal s0 (post s m) := by
  unfold post
  repeat' first
    | with_reducible assumption
    | with_reducible first | apply Legal.parts
    | simp only [Legal.lit]
    | with_reducible first | apply Legal.ite
    | split
    | with_reducible first | apply Legal.foldl
    | intro _
    | dsimp only

theorem askHome_legal {s0 s : State} (h : Legal s0 s) (write : Bool) (line : Nat) :
    Legal s0 (askHome s write line) := by
  unfold askHome
  repeat' first
    | with_reducible assumption
    | with_reducible first | apply Legal.parts
    | simp only [Legal.lit]
    | with_reducible first | apply Legal.ite
    | split
    | with_reducible first | apply Legal.foldl
    | intro _
    | dsimp only

theorem taint_legal {s0 s : State} (h : Legal s0 s) (a : Agent) (line : Nat) (b : Bool) :
    Legal s0 (taint s a line b) := by
  unfold taint
  repeat' first
    | with_reducible assumption
    | with_reducible first | apply Legal.parts
    | simp only [Legal.lit]
    | with_reducible first | apply Legal.ite
    | split
    | with_reducible first | apply Legal.foldl
    | intro _
    | dsimp only

theorem wakeWatch_legal {s0 s : State} (h : Legal s0 s) (host : Bool) (line : Nat) :
    Legal s0 (wakeWatch s host line) := by
  unfold wakeWatch
  repeat' first
    | with_reducible assumption
    | with_reducible first | apply Legal.parts
    | simp only [Legal.lit]
    | with_reducible first | apply Legal.ite
    | split
    | with_reducible first | apply Legal.foldl
    | intro _
    | dsimp only

theorem missed_legal {s0 s : State} (h : Legal s0 s) (line : Nat) (a : Agent) :
    Legal s0 (missed s line a) := by
  unfold missed
  repeat' first
    | with_reducible assumption
    | with_reducible first | apply bump_legal | apply Legal.parts
    | simp only [Legal.lit]
    | with_reducible first | apply Legal.ite
    | split
    | with_reducible first | apply Legal.foldl
    | intro _
    | dsimp only

theorem snoopOwner_legal {s0 s : State} (h : Legal s0 s) (line : Nat) :
    Legal s0 (snoopOwner s line) := by
  unfold snoopOwner
  repeat' first
    | with_reducible assumption
    | with_reducible first | apply missed_legal | apply Legal.parts
    | simp only [Legal.lit]
    | with_reducible first | apply Legal.ite
    | split
    | with_reducible first | apply Legal.foldl
    | intro _
    | dsimp only

theorem snoopAll_legal {s0 s : State} (h : Legal s0 s) (line : Nat) :
    Legal s0 (snoopAll s line) := by
  unfold snoopAll
  repeat' first
    | with_reducible assumption
    | with_reducible first | apply missed_legal | apply Legal.parts
    | simp only [Legal.lit]
    | with_reducible first | apply Legal.ite
    | split
    | with_reducible first | apply Legal.foldl
    | intro _
    | dsimp only

theorem loseRsv_legal {s0 s : State} (h : Legal s0 s) (f : Nat → Nat → Bool) :
    Legal s0 (loseRsv s f) := by
  unfold loseRsv
  repeat' first
    | with_reducible assumption
    | with_reducible first | apply Legal.parts
    | simp only [Legal.lit]
    | with_reducible first | apply Legal.ite
    | split
    | with_reducible first | apply Legal.foldl
    | intro _
    | dsimp only

theorem dropCopies_legal {s0 s : State} (h : Legal s0 s) (line : Nat) :
    Legal s0 (dropCopies s line) := by
  unfold dropCopies
  repeat' first
    | with_reducible assumption
    | with_reducible first | apply loseRsv_legal | apply Legal.parts
    | simp only [Legal.lit]
    | with_reducible first | apply Legal.ite
    | split
    | with_reducible first | apply Legal.foldl
    | intro _
    | dsimp only

theorem invalidate_legal {s0 s : State} (h : Legal s0 s) (line : Nat) :
    Legal s0 (invalidate s line) := by
  unfold invalidate
  repeat' first
    | with_reducible assumption
    | with_reducible first | apply dropCopies_legal | apply snoopAll_legal | apply wakeWatch_legal | apply Legal.parts
    | simp only [Legal.lit]
    | with_reducible first | apply Legal.ite
    | split
    | with_reducible first | apply Legal.foldl
    | intro _
    | dsimp only

theorem lineWrite_legal {s0 s : State} (h : Legal s0 s) (line : Nat) (off : Nat) (bs : List Byte) (poison : Bool) :
    Legal s0 (lineWrite s line off bs poison) := by
  unfold lineWrite
  repeat' first
    | with_reducible assumption
    | with_reducible first | apply invalidate_legal | apply memWrite_legal | apply setPoison_legal | apply Legal.parts
    | simp only [Legal.lit]
    | with_reducible first | apply Legal.ite
    | split
    | with_reducible first | apply Legal.foldl
    | intro _
    | dsimp only

theorem devWriteNow_legal {s0 s : State} (h : Legal s0 s) (a : Nat) (bs : List Byte) :
    Legal s0 (devWriteNow s a bs) := by
  unfold devWriteNow
  repeat' first
    | with_reducible assumption
    | with_reducible first | apply lineWrite_legal | apply Legal.parts
    | simp only [Legal.lit]
    | with_reducible first | apply Legal.ite
    | split
    | with_reducible first | apply Legal.foldl
    | intro _
    | dsimp only

theorem devSend_legal {s0 s : State} (h : Legal s0 s) (a : Nat) (bs : List Byte) :
    Legal s0 (devSend s a bs) := by
  unfold devSend
  repeat' first
    | with_reducible assumption
    | with_reducible first | apply post_legal | apply lineWrite_legal | apply Legal.parts
    | simp only [Legal.lit]
    | with_reducible first | apply Legal.ite
    | split
    | with_reducible first | apply Legal.foldl
    | intro _
    | dsimp only

theorem devReadNow_legal {s0 s : State} (h : Legal s0 s) (a : Nat) (n : Nat) :
    AccLegal s0 (devReadNow s a n) := by
  unfold devReadNow
  repeat' first
    | with_reducible assumption
    | with_reducible first | apply snoopOwner_legal | apply logUe_legal | apply Legal.parts
    | simp only [Legal.lit]
    | with_reducible first | apply Legal.ite | apply AccLegal.ite
    | split
    | refine Legal.of_bad ‹_› ?_ | refine Legal.of_ok ‹_› ?_ | refine Legal.of_wait ‹_› ?_
    | with_reducible first | apply AccLegal.ok | apply AccLegal.wait | apply AccLegal.bad | apply AccLegal.of_bind | apply AccLegal.foldl
    | with_reducible first | apply Legal.foldl
    | intro _
    | dsimp only

theorem readyLines_legal {s0 s : State} (h : Legal s0 s) (write : Bool) (lines : List Nat) :
    OptLegal s0 (readyLines s write lines) := by
  unfold readyLines
  repeat' first
    | with_reducible assumption
    | with_reducible first | apply askHome_legal | apply Legal.parts
    | simp only [Legal.lit]
    | with_reducible first | apply Legal.ite
    | split
    | refine Legal.of_some ‹_› ?_
    | with_reducible first | apply OptLegal.none | apply OptLegal.some | apply OptLegal.mapS | apply OptLegal.map | apply OptLegal.bind
    | with_reducible first | apply OptLegal.getD | apply Legal.foldl
    | intro _
    | dsimp only

theorem devRead_legal {s0 s : State} (h : Legal s0 s) (a : Nat) (n : Nat) :
    AccLegal s0 (devRead s a n) := by
  unfold devRead
  repeat' first
    | with_reducible assumption
    | with_reducible first | apply readyLines_legal | apply devReadNow_legal | apply Legal.parts
    | simp only [Legal.lit]
    | with_reducible first | apply Legal.ite | apply AccLegal.ite
    | split
    | refine Legal.of_bad ‹_› ?_ | refine Legal.of_ok ‹_› ?_ | refine Legal.of_some ‹_› ?_ | refine Legal.of_wait ‹_› ?_
    | with_reducible first | apply AccLegal.ok | apply AccLegal.wait | apply AccLegal.bad | apply AccLegal.of_bind | apply AccLegal.foldl
    | with_reducible first | apply OptLegal.none | apply OptLegal.some | apply OptLegal.mapS | apply OptLegal.map | apply OptLegal.bind
    | with_reducible first | apply OptLegal.getD
    | intro _
    | dsimp only

theorem devWrite_legal {s0 s : State} (h : Legal s0 s) (a : Nat) (bs : List Byte) :
    AccLegal s0 (devWrite s a bs) := by
  unfold devWrite
  repeat' first
    | with_reducible assumption
    | with_reducible first | apply readyLines_legal | apply devWriteNow_legal | apply Legal.parts
    | simp only [Legal.lit]
    | with_reducible first | apply Legal.ite | apply AccLegal.ite
    | split
    | refine Legal.of_bad ‹_› ?_ | refine Legal.of_ok ‹_› ?_ | refine Legal.of_some ‹_› ?_ | refine Legal.of_wait ‹_› ?_
    | with_reducible first | apply AccLegal.ok | apply AccLegal.wait | apply AccLegal.bad | apply AccLegal.of_bind | apply AccLegal.foldl
    | with_reducible first | apply OptLegal.none | apply OptLegal.some | apply OptLegal.mapS | apply OptLegal.map | apply OptLegal.bind
    | with_reducible first | apply OptLegal.getD | apply Legal.foldl
    | intro _
    | dsimp only

theorem noteWrote_legal {s0 s : State} (h : Legal s0 s) (r : Req) (h_ : Nat) :
    Legal s0 (noteWrote s r h_) := by
  unfold noteWrote
  repeat' first
    | with_reducible assumption
    | with_reducible first | apply setUnit_legal | apply Legal.parts
    | simp only [Legal.lit]
    | with_reducible first | apply Legal.ite
    | split
    | with_reducible first | apply Legal.foldl
    | intro _
    | dsimp only

theorem askAts_legal {s0 s : State} (h : Legal s0 s) (pg : Nat) :
    Legal s0 (askAts s pg) := by
  unfold askAts
  repeat' first
    | with_reducible assumption
    | with_reducible first | apply send_legal | apply Legal.parts
    | simp only [Legal.lit]
    | with_reducible first | apply Legal.ite
    | split
    | with_reducible first | apply Legal.foldl
    | intro _
    | dsimp only

theorem hostPieces_legal {s0 s : State} (h : Legal s0 s) (a : Nat) (n : Nat) (write : Bool) :
    AccLegal s0 (hostPieces s a n write) := by
  unfold hostPieces
  repeat' first
    | with_reducible assumption
    | with_reducible first | apply askAts_legal | apply Legal.parts
    | simp only [Legal.lit]
    | with_reducible first | apply Legal.ite | apply AccLegal.ite
    | split
    | refine Legal.of_bad ‹_› ?_ | refine Legal.of_ok ‹_› ?_ | refine Legal.of_wait ‹_› ?_
    | with_reducible first | apply AccLegal.ok | apply AccLegal.wait | apply AccLegal.bad | apply AccLegal.of_bind | apply AccLegal.foldl
    | with_reducible first | apply Legal.foldl
    | intro _
    | dsimp only

theorem hostReadLine_legal {s0 s : State} (h : Legal s0 s) (r : Req) (h_ : Nat) :
    AccLegal s0 (hostReadLine s r h_) := by
  unfold hostReadLine
  repeat' first
    | with_reducible assumption
    | with_reducible first | apply send_legal | apply Legal.parts
    | simp only [Legal.lit]
    | with_reducible first | apply Legal.ite | apply AccLegal.ite
    | split
    | refine Legal.of_bad ‹_› ?_ | refine Legal.of_ok ‹_› ?_ | refine Legal.of_wait ‹_› ?_
    | with_reducible first | apply AccLegal.ok | apply AccLegal.wait | apply AccLegal.bad | apply AccLegal.of_bind | apply AccLegal.foldl
    | with_reducible first | apply Legal.foldl
    | intro _
    | dsimp only

theorem hostReadLines_legal {s0 : State} : ∀ (x2 : List Nat) (r : Req) {a : State} (_ : Legal s0 a),
    AccLegal s0 (hostReadLines r a x2) := by
  intro x2
  induction x2 with
  | nil =>
    intro r a h_a
    unfold hostReadLines
    repeat' first
      | with_reducible assumption
      | with_reducible first | apply hostReadLine_legal | apply Legal.parts
      | simp only [Legal.lit]
      | with_reducible first | apply Legal.ite | apply AccLegal.ite
      | split
      | refine Legal.of_bad ‹_› ?_ | refine Legal.of_ok ‹_› ?_ | refine Legal.of_wait ‹_› ?_
      | with_reducible first | apply AccLegal.ok | apply AccLegal.wait | apply AccLegal.bad | apply AccLegal.of_bind | apply AccLegal.foldl
      | intro _
      | dsimp only
  | cons _ _ ih =>
    intro r a h_a
    unfold hostReadLines
    repeat' first
      | with_reducible assumption
      | with_reducible first | apply ih | apply hostReadLine_legal | apply Legal.parts
      | simp only [Legal.lit]
      | with_reducible first | apply Legal.ite | apply AccLegal.ite
      | split
      | refine Legal.of_bad ‹_› ?_ | refine Legal.of_ok ‹_› ?_ | refine Legal.of_wait ‹_› ?_
      | with_reducible first | apply AccLegal.ok | apply AccLegal.wait | apply AccLegal.bad | apply AccLegal.of_bind | apply AccLegal.foldl
      | intro _
      | dsimp only

theorem hostReadPieces_legal {s0 s : State} (h : Legal s0 s) (r : Req) (ps : List (Nat × Nat)) :
    AccLegal s0 (hostReadPieces r s ps) := by
  unfold hostReadPieces
  repeat' first
    | with_reducible assumption
    | with_reducible first | apply hostReadLines_legal | apply Legal.parts
    | simp only [Legal.lit]
    | with_reducible first | apply Legal.ite | apply AccLegal.ite
    | split
    | refine Legal.of_bad ‹_› ?_ | refine Legal.of_ok ‹_› ?_ | refine Legal.of_wait ‹_› ?_
    | with_reducible first | apply AccLegal.ok | apply AccLegal.wait | apply AccLegal.bad | apply AccLegal.of_bind | apply AccLegal.foldl
    | intro _
    | dsimp only

theorem hostRead_legal {s0 s : State} (h : Legal s0 s) (r : Req) (a : Nat) (n : Nat) :
    AccLegal s0 (hostRead s r a n) := by
  unfold hostRead
  repeat' first
    | with_reducible assumption
    | with_reducible first | apply hostPieces_legal | apply hostReadPieces_legal | apply Legal.parts
    | simp only [Legal.lit]
    | with_reducible first | apply Legal.ite | apply AccLegal.ite
    | split
    | refine Legal.of_bad ‹_› ?_ | refine Legal.of_ok ‹_› ?_ | refine Legal.of_wait ‹_› ?_
    | with_reducible first | apply AccLegal.ok | apply AccLegal.wait | apply AccLegal.bad | apply AccLegal.of_bind | apply AccLegal.foldl
    | intro _
    | dsimp only

theorem hostWriteLine_legal {s0 s : State} (h : Legal s0 s) (r : Req) (p : Nat × Nat × List Byte) :
    Legal s0 (hostWriteLine r s p) := by
  unfold hostWriteLine
  repeat' first
    | with_reducible assumption
    | with_reducible first | apply loseRsv_legal | apply wakeWatch_legal | apply send_legal | apply noteWrote_legal | apply Legal.parts
    | simp only [Legal.lit]
    | with_reducible first | apply Legal.ite
    | split
    | with_reducible first | apply Legal.foldl
    | intro _
    | dsimp only

theorem hostWrite_legal {s0 s : State} (h : Legal s0 s) (r : Req) (a : Nat) (bs : List Byte) :
    AccLegal s0 (hostWrite s r a bs) := by
  unfold hostWrite
  repeat' first
    | with_reducible assumption
    | with_reducible first | apply hostPieces_legal | apply hostWriteLine_legal | apply Legal.parts
    | simp only [FstLegal.lit]
    | with_reducible first | apply Legal.ite | apply AccLegal.ite
    | split
    | refine Legal.of_bad ‹_› ?_ | refine Legal.of_fst ‹_› ?_ | refine Legal.of_ok ‹_› ?_ | refine Legal.of_wait ‹_› ?_
    | with_reducible first | apply AccLegal.ok | apply AccLegal.wait | apply AccLegal.bad | apply AccLegal.of_bind | apply AccLegal.foldl
    | with_reducible first | apply FstLegal.get | apply FstLegal.foldl | apply Legal.foldl
    | intro _
    | dsimp only

theorem segRead_legal {s0 s : State} (h : Legal s0 s) (r : Req) (g : Seg) :
    AccLegal s0 (segRead s r g) := by
  unfold segRead
  repeat' first
    | with_reducible assumption
    | with_reducible first | apply hostRead_legal | apply devRead_legal | apply Legal.parts
    | simp only [Legal.lit]
    | with_reducible first | apply Legal.ite | apply AccLegal.ite
    | split
    | refine Legal.of_bad ‹_› ?_ | refine Legal.of_ok ‹_› ?_ | refine Legal.of_wait ‹_› ?_
    | with_reducible first | apply AccLegal.ok | apply AccLegal.wait | apply AccLegal.bad | apply AccLegal.of_bind | apply AccLegal.foldl
    | intro _
    | dsimp only

theorem segsRead_legal {s0 : State} : ∀ (x2 : List Seg) (r : Req) {a : State} (_ : Legal s0 a),
    AccLegal s0 (segsRead r a x2) := by
  intro x2
  induction x2 with
  | nil =>
    intro r a h_a
    unfold segsRead
    repeat' first
      | with_reducible assumption
      | with_reducible first | apply segRead_legal | apply Legal.parts
      | simp only [Legal.lit]
      | with_reducible first | apply Legal.ite | apply AccLegal.ite
      | split
      | refine Legal.of_bad ‹_› ?_ | refine Legal.of_ok ‹_› ?_ | refine Legal.of_wait ‹_› ?_
      | with_reducible first | apply AccLegal.ok | apply AccLegal.wait | apply AccLegal.bad | apply AccLegal.of_bind | apply AccLegal.foldl
      | intro _
      | dsimp only
  | cons _ _ ih =>
    intro r a h_a
    unfold segsRead
    repeat' first
      | with_reducible assumption
      | with_reducible first | apply ih | apply segRead_legal | apply Legal.parts
      | simp only [Legal.lit]
      | with_reducible first | apply Legal.ite | apply AccLegal.ite
      | split
      | refine Legal.of_bad ‹_› ?_ | refine Legal.of_ok ‹_› ?_ | refine Legal.of_wait ‹_› ?_
      | with_reducible first | apply AccLegal.ok | apply AccLegal.wait | apply AccLegal.bad | apply AccLegal.of_bind | apply AccLegal.foldl
      | intro _
      | dsimp only

theorem segsReady_legal {s0 s : State} (h : Legal s0 s) (gs : List Seg) :
    AccLegal s0 (segsReady s gs) := by
  unfold segsReady
  repeat' first
    | with_reducible assumption
    | with_reducible first | apply hostPieces_legal | apply readyLines_legal | apply Legal.parts
    | simp only [Legal.lit]
    | with_reducible first | apply Legal.ite | apply AccLegal.ite
    | split
    | refine Legal.of_bad ‹_› ?_ | refine Legal.of_ok ‹_› ?_ | refine Legal.of_some ‹_› ?_ | refine Legal.of_wait ‹_› ?_
    | with_reducible first | apply AccLegal.ok | apply AccLegal.wait | apply AccLegal.bad | apply AccLegal.of_bind | apply AccLegal.foldl
    | with_reducible first | apply OptLegal.none | apply OptLegal.some | apply OptLegal.mapS | apply OptLegal.map | apply OptLegal.bind
    | with_reducible first | apply OptLegal.getD
    | intro _
    | dsimp only

theorem segsWriteNow_legal {s0 : State} : ∀ (x2 : List Seg) (r : Req) {a : State} (_ : Legal s0 a) (x3 : List Byte),
    AccLegal s0 (segsWriteNow r a x2 x3) := by
  intro x2
  induction x2 with
  | nil =>
    intro r a h_a x3
    unfold segsWriteNow
    repeat' first
      | with_reducible assumption
      | with_reducible first | apply hostWrite_legal | apply devWriteNow_legal | apply Legal.parts
      | simp only [Legal.lit]
      | with_reducible first | apply Legal.ite | apply AccLegal.ite
      | split
      | refine Legal.of_bad ‹_› ?_ | refine Legal.of_ok ‹_› ?_ | refine Legal.of_wait ‹_› ?_
      | with_reducible first | apply AccLegal.ok | apply AccLegal.wait | apply AccLegal.bad | apply AccLegal.of_bind | apply AccLegal.foldl
      | with_reducible first | apply Legal.foldl
      | intro _
      | dsimp only
  | cons _ _ ih =>
    intro r a h_a x3
    unfold segsWriteNow
    repeat' first
      | with_reducible assumption
      | with_reducible first | apply ih | apply hostWrite_legal | apply devWriteNow_legal | apply Legal.parts
      | simp only [Legal.lit]
      | with_reducible first | apply Legal.ite | apply AccLegal.ite
      | split
      | refine Legal.of_bad ‹_› ?_ | refine Legal.of_ok ‹_› ?_ | refine Legal.of_wait ‹_› ?_
      | with_reducible first | apply AccLegal.ok | apply AccLegal.wait | apply AccLegal.bad | apply AccLegal.of_bind | apply AccLegal.foldl
      | with_reducible first | apply Legal.foldl
      | intro _
      | dsimp only

theorem segsWrite_legal {s0 s : State} (h : Legal s0 s) (r : Req) (gs : List Seg) (bs : List Byte) :
    AccLegal s0 (segsWrite s r gs bs) := by
  unfold segsWrite
  repeat' first
    | with_reducible assumption
    | with_reducible first | apply segsReady_legal | apply segsWriteNow_legal | apply Legal.parts
    | simp only [Legal.lit]
    | with_reducible first | apply Legal.ite | apply AccLegal.ite
    | split
    | refine Legal.of_bad ‹_› ?_ | refine Legal.of_ok ‹_› ?_ | refine Legal.of_wait ‹_› ?_
    | with_reducible first | apply AccLegal.ok | apply AccLegal.wait | apply AccLegal.bad | apply AccLegal.of_bind | apply AccLegal.foldl
    | intro _
    | dsimp only

theorem walkFrom_legal {s0 : State} : ∀ (a : Nat) (cva : Nat) {x2 : State} (_ : Legal s0 x2) (x3 : Nat) (x4 : Bool),
    AccLegal s0 (walkFrom cva a x2 x3 x4) := by
  intro a
  induction a with
  | zero =>
    intro cva x2 h_x2 x3 x4
    unfold walkFrom
    repeat' first
      | with_reducible assumption
      | with_reducible first | apply devRead_legal | apply Legal.parts
      | simp only [Legal.lit]
      | with_reducible first | apply Legal.ite | apply AccLegal.ite
      | split
      | refine Legal.of_bad ‹_› ?_ | refine Legal.of_ok ‹_› ?_ | refine Legal.of_wait ‹_› ?_
      | with_reducible first | apply AccLegal.ok | apply AccLegal.wait | apply AccLegal.bad | apply AccLegal.of_bind | apply AccLegal.foldl
      | intro _
      | dsimp only
  | succ _ ih =>
    intro cva x2 h_x2 x3 x4
    unfold walkFrom
    repeat' first
      | with_reducible assumption
      | with_reducible first | apply ih | apply devRead_legal | apply Legal.parts
      | simp only [Legal.lit]
      | with_reducible first | apply Legal.ite | apply AccLegal.ite
      | split
      | refine Legal.of_bad ‹_› ?_ | refine Legal.of_ok ‹_› ?_ | refine Legal.of_wait ‹_› ?_
      | with_reducible first | apply AccLegal.ok | apply AccLegal.wait | apply AccLegal.bad | apply AccLegal.of_bind | apply AccLegal.foldl
      | intro _
      | dsimp only

theorem xlate_legal {s0 s : State} (h : Legal s0 s) (ctx : Nat) (cva : Nat) (write : Bool) (coded : Bool) :
    AccLegal s0 (xlate s ctx cva write coded) := by
  unfold xlate
  repeat' first
    | with_reducible assumption
    | with_reducible first | apply walkFrom_legal | apply useFree_legal | apply Legal.parts
    | simp only [Legal.lit]
    | with_reducible first | apply Legal.ite | apply AccLegal.ite
    | split
    | refine Legal.of_bad ‹_› ?_ | refine Legal.of_ok ‹_› ?_ | refine Legal.of_wait ‹_› ?_
    | with_reducible first | apply AccLegal.ok | apply AccLegal.wait | apply AccLegal.bad | apply AccLegal.of_bind | apply AccLegal.foldl
    | with_reducible first | apply Legal.foldl
    | intro _
    | dsimp only

theorem xlateRange_legal {s0 : State} : ∀ (a : Nat) (ctx : Nat) (write : Bool) (coded : Bool) {x4 : State} (_ : Legal s0 x4) (x5 : Nat) (x6
      : Nat),
    AccLegal s0 (xlateRange ctx write coded a x4 x5 x6) := by
  intro a
  induction a with
  | zero =>
    intro ctx write coded x4 h_x4 x5 x6
    unfold xlateRange
    repeat' first
      | with_reducible assumption
      | with_reducible first | apply xlate_legal | apply Legal.parts
      | simp only [Legal.lit]
      | with_reducible first | apply Legal.ite | apply AccLegal.ite
      | split
      | refine Legal.of_bad ‹_› ?_ | refine Legal.of_ok ‹_› ?_ | refine Legal.of_wait ‹_› ?_
      | with_reducible first | apply AccLegal.ok | apply AccLegal.wait | apply AccLegal.bad | apply AccLegal.of_bind | apply AccLegal.foldl
      | intro _
      | dsimp only
  | succ _ ih =>
    intro ctx write coded x4 h_x4 x5 x6
    unfold xlateRange
    repeat' first
      | with_reducible assumption
      | with_reducible first | apply ih | apply xlate_legal | apply Legal.parts
      | simp only [Legal.lit]
      | with_reducible first | apply Legal.ite | apply AccLegal.ite
      | split
      | refine Legal.of_bad ‹_› ?_ | refine Legal.of_ok ‹_› ?_ | refine Legal.of_wait ‹_› ?_
      | with_reducible first | apply AccLegal.ok | apply AccLegal.wait | apply AccLegal.bad | apply AccLegal.of_bind | apply AccLegal.foldl
      | intro _
      | dsimp only

theorem segsOf_legal {s0 s : State} (h : Legal s0 s) (ctx : Nat) (cva : Nat) (n : Nat) (write : Bool) (coded : Bool) :
    AccLegal s0 (segsOf s ctx cva n write coded) := by
  unfold segsOf
  repeat' first
    | with_reducible assumption
    | with_reducible first | apply xlateRange_legal | apply Legal.parts
    | simp only [Legal.lit]
    | with_reducible first | apply Legal.ite | apply AccLegal.ite
    | split
    | refine Legal.of_bad ‹_› ?_ | refine Legal.of_ok ‹_› ?_ | refine Legal.of_wait ‹_› ?_
    | with_reducible first | apply AccLegal.ok | apply AccLegal.wait | apply AccLegal.bad | apply AccLegal.of_bind | apply AccLegal.foldl
    | intro _
    | dsimp only

theorem putCode_legal {s0 s : State} (h : Legal s0 s) (b : Nat) (code : Nat) :
    Legal s0 (putCode s b code) := by
  unfold putCode
  repeat' first
    | with_reducible assumption
    | with_reducible first | apply devSend_legal | apply Legal.parts
    | simp only [Legal.lit]
    | with_reducible first | apply Legal.ite
    | split
    | with_reducible first | apply Legal.foldl
    | intro _
    | dsimp only

theorem checkBlock_legal {s0 s : State} (h : Legal s0 s) (b : Nat) :
    AccLegal s0 (checkBlock s b) := by
  unfold checkBlock
  repeat' first
    | with_reducible assumption
    | with_reducible first | apply devRead_legal | apply Legal.parts
    | simp only [Legal.lit]
    | with_reducible first | apply Legal.ite | apply AccLegal.ite
    | split
    | refine Legal.of_bad ‹_› ?_ | refine Legal.of_ok ‹_› ?_ | refine Legal.of_wait ‹_› ?_
    | with_reducible first | apply AccLegal.ok | apply AccLegal.wait | apply AccLegal.bad | apply AccLegal.of_bind | apply AccLegal.foldl
    | intro _
    | dsimp only

theorem checkBlocks_legal {s0 : State} : ∀ (x1 : List Nat) {a : State} (_ : Legal s0 a),
    AccLegal s0 (checkBlocks a x1) := by
  intro x1
  induction x1 with
  | nil =>
    intro a h_a
    unfold checkBlocks
    repeat' first
      | with_reducible assumption
      | with_reducible first | apply checkBlock_legal | apply Legal.parts
      | simp only [Legal.lit]
      | with_reducible first | apply Legal.ite | apply AccLegal.ite
      | split
      | refine Legal.of_bad ‹_› ?_ | refine Legal.of_ok ‹_› ?_ | refine Legal.of_wait ‹_› ?_
      | with_reducible first | apply AccLegal.ok | apply AccLegal.wait | apply AccLegal.bad | apply AccLegal.of_bind | apply AccLegal.foldl
      | intro _
      | dsimp only
  | cons _ _ ih =>
    intro a h_a
    unfold checkBlocks
    repeat' first
      | with_reducible assumption
      | with_reducible first | apply ih | apply checkBlock_legal | apply Legal.parts
      | simp only [Legal.lit]
      | with_reducible first | apply Legal.ite | apply AccLegal.ite
      | split
      | refine Legal.of_bad ‹_› ?_ | refine Legal.of_ok ‹_› ?_ | refine Legal.of_wait ‹_› ?_
      | with_reducible first | apply AccLegal.ok | apply AccLegal.wait | apply AccLegal.bad | apply AccLegal.of_bind | apply AccLegal.foldl
      | intro _
      | dsimp only

theorem sealBlocks_legal {s0 s : State} (h : Legal s0 s) (bs : List Nat) :
    Legal s0 (sealBlocks s bs) := by
  unfold sealBlocks
  repeat' first
    | with_reducible assumption
    | with_reducible first | apply putCode_legal | apply Legal.parts
    | simp only [Legal.lit]
    | with_reducible first | apply Legal.ite
    | split
    | with_reducible first | apply Legal.foldl
    | intro _
    | dsimp only

theorem segsReadC_legal {s0 s : State} (h : Legal s0 s) (r : Req) (coded : Bool) (gs : List Seg) :
    AccLegal s0 (segsReadC r coded s gs) := by
  unfold segsReadC
  repeat' first
    | with_reducible assumption
    | with_reducible first | apply segsRead_legal | apply checkBlocks_legal | apply Legal.parts
    | simp only [Legal.lit]
    | with_reducible first | apply Legal.ite | apply AccLegal.ite
    | split
    | refine Legal.of_bad ‹_› ?_ | refine Legal.of_ok ‹_› ?_ | refine Legal.of_wait ‹_› ?_
    | with_reducible first | apply AccLegal.ok | apply AccLegal.wait | apply AccLegal.bad | apply AccLegal.of_bind | apply AccLegal.foldl
    | intro _
    | dsimp only

theorem segsWriteC_legal {s0 s : State} (h : Legal s0 s) (r : Req) (coded : Bool) (gs : List Seg) (bs : List Byte) :
    AccLegal s0 (segsWriteC r coded s gs bs) := by
  unfold segsWriteC
  repeat' first
    | with_reducible assumption
    | with_reducible first | apply segsWrite_legal | apply readyLines_legal | apply sealBlocks_legal | apply Legal.parts
    | simp only [Legal.lit]
    | with_reducible first | apply Legal.ite | apply AccLegal.ite
    | split
    | refine Legal.of_bad ‹_› ?_ | refine Legal.of_ok ‹_› ?_ | refine Legal.of_some ‹_› ?_ | refine Legal.of_wait ‹_› ?_
    | with_reducible first | apply AccLegal.ok | apply AccLegal.wait | apply AccLegal.bad | apply AccLegal.of_bind | apply AccLegal.foldl
    | with_reducible first | apply OptLegal.none | apply OptLegal.some | apply OptLegal.mapS | apply OptLegal.map | apply OptLegal.bind
    | with_reducible first | apply OptLegal.getD | apply Legal.foldl
    | intro _
    | dsimp only

theorem cvaRead_legal {s0 s : State} (h : Legal s0 s) (r : Req) (cva : Nat) (n : Nat) (coded : Bool) :
    AccLegal s0 (cvaRead s r cva n coded) := by
  unfold cvaRead
  repeat' first
    | with_reducible assumption
    | with_reducible first | apply segsOf_legal | apply segsReadC_legal | apply Legal.parts
    | simp only [Legal.lit]
    | with_reducible first | apply Legal.ite | apply AccLegal.ite
    | split
    | refine Legal.of_bad ‹_› ?_ | refine Legal.of_ok ‹_› ?_ | refine Legal.of_wait ‹_› ?_
    | with_reducible first | apply AccLegal.ok | apply AccLegal.wait | apply AccLegal.bad | apply AccLegal.of_bind | apply AccLegal.foldl
    | intro _
    | dsimp only

theorem cvaWrite_legal {s0 s : State} (h : Legal s0 s) (r : Req) (cva : Nat) (bs : List Byte) (coded : Bool) :
    AccLegal s0 (cvaWrite s r cva bs coded) := by
  unfold cvaWrite
  repeat' first
    | with_reducible assumption
    | with_reducible first | apply segsOf_legal | apply segsWriteC_legal | apply Legal.parts
    | simp only [Legal.lit]
    | with_reducible first | apply Legal.ite | apply AccLegal.ite
    | split
    | refine Legal.of_bad ‹_› ?_ | refine Legal.of_ok ‹_› ?_ | refine Legal.of_wait ‹_› ?_
    | with_reducible first | apply AccLegal.ok | apply AccLegal.wait | apply AccLegal.bad | apply AccLegal.of_bind | apply AccLegal.foldl
    | intro _
    | dsimp only

theorem rangesSegs_legal {s0 : State} : ∀ (x4 : List (Nat × Nat)) (ctx : Nat) (write : Bool) (coded : Bool) {a : State} (_ : Legal s0 a),
    AccLegal s0 (rangesSegs ctx write coded a x4) := by
  intro x4
  induction x4 with
  | nil =>
    intro ctx write coded a h_a
    unfold rangesSegs
    repeat' first
      | with_reducible assumption
      | with_reducible first | apply segsOf_legal | apply Legal.parts
      | simp only [Legal.lit]
      | with_reducible first | apply Legal.ite | apply AccLegal.ite
      | split
      | refine Legal.of_bad ‹_› ?_ | refine Legal.of_ok ‹_› ?_ | refine Legal.of_wait ‹_› ?_
      | with_reducible first | apply AccLegal.ok | apply AccLegal.wait | apply AccLegal.bad | apply AccLegal.of_bind | apply AccLegal.foldl
      | intro _
      | dsimp only
  | cons _ _ ih =>
    intro ctx write coded a h_a
    unfold rangesSegs
    repeat' first
      | with_reducible assumption
      | with_reducible first | apply ih | apply segsOf_legal | apply Legal.parts
      | simp only [Legal.lit]
      | with_reducible first | apply Legal.ite | apply AccLegal.ite
      | split
      | refine Legal.of_bad ‹_› ?_ | refine Legal.of_ok ‹_› ?_ | refine Legal.of_wait ‹_› ?_
      | with_reducible first | apply AccLegal.ok | apply AccLegal.wait | apply AccLegal.bad | apply AccLegal.of_bind | apply AccLegal.foldl
      | intro _
      | dsimp only

theorem cvaCheck_legal {s0 s : State} (h : Legal s0 s) (ctx : Nat) (cva : Nat) (n : Nat) (write : Bool) (coded : Bool) :
    AccLegal s0 (cvaCheck s ctx cva n write coded) := by
  unfold cvaCheck
  repeat' first
    | with_reducible assumption
    | with_reducible first | apply segsOf_legal | apply Legal.parts
    | simp only [Legal.lit]
    | with_reducible first | apply Legal.ite | apply AccLegal.ite
    | split
    | refine Legal.of_bad ‹_› ?_ | refine Legal.of_ok ‹_› ?_ | refine Legal.of_wait ‹_› ?_
    | with_reducible first | apply AccLegal.ok | apply AccLegal.wait | apply AccLegal.bad | apply AccLegal.of_bind | apply AccLegal.foldl
    | intro _
    | dsimp only

theorem flushTlb_legal {s0 s : State} (h : Legal s0 s) (ctx : Option Nat) :
    Legal s0 (flushTlb s ctx) := by
  unfold flushTlb
  repeat' first
    | with_reducible assumption
    | with_reducible first | apply Legal.parts
    | simp only [Legal.lit]
    | with_reducible first | apply Legal.ite
    | split
    | with_reducible first | apply Legal.foldl
    | intro _
    | dsimp only

theorem endHost_legal {s0 s : State} (h : Legal s0 s) (who : Nat) :
    Legal s0 (endHost s who) := by
  unfold endHost
  repeat' first
    | with_reducible assumption
    | with_reducible first | apply Legal.parts
    | simp only [Legal.lit]
    | with_reducible first | apply Legal.ite
    | split
    | with_reducible first | apply Legal.foldl
    | intro _
    | dsimp only

theorem endHostAt_legal {s0 s : State} (h : Legal s0 s) (p : ProgRef) :
    Legal s0 (endHostAt s p) := by
  unfold endHostAt
  repeat' first
    | with_reducible assumption
    | with_reducible first | apply endHost_legal | apply Legal.parts
    | simp only [Legal.lit]
    | with_reducible first | apply Legal.ite
    | split
    | with_reducible first | apply Legal.foldl
    | intro _
    | dsimp only

/-! Ops. -/

theorem errVisible_legal {s0 s : State} (h : Legal s0 s) :
    Legal s0 (errVisible s) := by
  unfold errVisible
  repeat' first
    | with_reducible assumption
    | with_reducible first | apply sendVec_legal | apply Legal.parts
    | simp only [Legal.lit]
    | with_reducible first | apply Legal.ite
    | split
    | with_reducible first | apply Legal.foldl
    | intro _
    | dsimp only

theorem writeErr_legal {s0 s : State} (h : Legal s0 s) :
    Legal s0 (writeErr s) := by
  unfold writeErr
  repeat' first
    | with_reducible assumption
    | with_reducible first | apply hostWrite_legal | apply devWrite_legal | apply errVisible_legal | apply Legal.parts
    | simp only [Legal.lit]
    | with_reducible first | apply Legal.ite | apply AccLegal.ite
    | split
    | refine Legal.of_bad ‹_› ?_ | refine Legal.of_ok ‹_› ?_ | refine Legal.of_wait ‹_› ?_
    | with_reducible first | apply AccLegal.ok | apply AccLegal.wait | apply AccLegal.bad | apply AccLegal.of_bind | apply AccLegal.foldl
    | with_reducible first | apply Legal.foldl
    | intro _
    | dsimp only

theorem flushErrs_legal {s0 : State} : ∀ (a : Nat) {x1 : State} (_ : Legal s0 x1),
    Legal s0 (flushErrs a x1) := by
  intro a
  induction a with
  | zero =>
    intro x1 h_x1
    unfold flushErrs
    repeat' first
      | with_reducible assumption
      | with_reducible first | apply writeErr_legal | apply Legal.parts
      | simp only [Legal.lit]
      | with_reducible first | apply Legal.ite
      | split
      | with_reducible first | apply Legal.foldl
      | intro _
      | dsimp only
  | succ _ ih =>
    intro x1 h_x1
    unfold flushErrs
    repeat' first
      | with_reducible assumption
      | with_reducible first | apply ih | apply writeErr_legal | apply Legal.parts
      | simp only [Legal.lit]
      | with_reducible first | apply Legal.ite
      | split
      | with_reducible first | apply Legal.foldl
      | intro _
      | dsimp only

theorem pushErr_legal {s0 s : State} (h : Legal s0 s) (r : ErrRec) :
    Legal s0 (pushErr s r) := by
  unfold pushErr
  repeat' first
    | with_reducible assumption
    | with_reducible first | apply setAlert_legal | apply flushErrs_legal | apply Legal.parts
    | simp only [Legal.lit]
    | with_reducible first | apply Legal.ite
    | split
    | with_reducible first | apply Legal.foldl
    | intro _
    | dsimp only

theorem countCE_legal {s0 s : State} (h : Legal s0 s) (off : Nat) (hi : Nat) (lo : Nat) (die : Nat) (unit : Nat) (index : Nat) :
    Legal s0 (countCE s off hi lo die unit index) := by
  unfold countCE
  repeat' first
    | with_reducible assumption
    | with_reducible first | apply bump_legal | apply pushErr_legal | apply Legal.parts
    | simp only [Legal.lit]
    | with_reducible first | apply Legal.ite
    | split
    | with_reducible first | apply Legal.foldl
    | intro _
    | dsimp only

theorem hbmCe_legal {s0 s : State} (h : Legal s0 s) (stack : Nat) (chan : Nat) (line : Nat) :
    Legal s0 (hbmCe s stack chan line) := by
  unfold hbmCe
  repeat' first
    | with_reducible assumption
    | with_reducible first | apply countCE_legal | apply setField_legal | apply Legal.parts
    | simp only [Legal.lit]
    | with_reducible first | apply Legal.ite
    | split
    | with_reducible first | apply Legal.foldl
    | intro _
    | dsimp only

theorem setCtx_legal {s0 s : State} (h : Legal s0 s) (c : Nat) (x : Ctx) :
    Legal s0 (setCtx s c x) := by
  unfold setCtx
  repeat' first
    | with_reducible assumption
    | with_reducible first | apply Legal.parts
    | simp only [Legal.lit]
    | with_reducible first | apply Legal.ite
    | split
    | with_reducible first | apply Legal.foldl
    | intro _
    | dsimp only

theorem setStep_legal {s0 s : State} (h : Legal s0 s) (t : StepRec) :
    Legal s0 (setStep s t) := by
  unfold setStep
  repeat' first
    | with_reducible assumption
    | with_reducible first | apply Legal.parts
    | simp only [Legal.lit]
    | with_reducible first | apply Legal.ite
    | split
    | with_reducible first | apply Legal.foldl
    | intro _
    | dsimp only

theorem dropStep_legal {s0 s : State} (h : Legal s0 s) (u : Nat) :
    Legal s0 (dropStep s u) := by
  unfold dropStep
  repeat' first
    | with_reducible assumption
    | with_reducible first | apply Legal.parts
    | simp only [Legal.lit]
    | with_reducible first | apply Legal.ite
    | split
    | with_reducible first | apply Legal.foldl
    | intro _
    | dsimp only

theorem setSe_legal {s0 s : State} (h : Legal s0 s) (ctx : Nat) (e : BitVec 512) :
    Legal s0 (setSe s ctx e) := by
  unfold setSe
  repeat' first
    | with_reducible assumption
    | with_reducible first | apply Legal.parts
    | simp only [Legal.lit]
    | with_reducible first | apply Legal.ite
    | split
    | with_reducible first | apply Legal.foldl
    | intro _
    | dsimp only

theorem report_legal {s0 s : State} (h : Legal s0 s) (ring : Nat) (r : Report) :
    Legal s0 (report s ring r) := by
  unfold report
  repeat' first
    | with_reducible assumption
    | with_reducible first | apply setUnit_legal | apply Legal.parts
    | simp only [Legal.lit]
    | with_reducible first | apply Legal.ite
    | split
    | with_reducible first | apply Legal.foldl
    | intro _
    | dsimp only

theorem setCore_legal {s0 s : State} (h : Legal s0 s) (c : Nat) (k : Core) :
    Legal s0 (setCore s c k) := by
  unfold setCore
  repeat' first
    | with_reducible assumption
    | with_reducible first | apply Legal.parts
    | simp only [Legal.lit]
    | with_reducible first | apply Legal.ite
    | split
    | with_reducible first | apply Legal.foldl
    | intro _
    | dsimp only

theorem reseed_legal {s0 s : State} (h : Legal s0 s) (core : Nat) (k : Core) :
    Legal s0 (reseed s core k) := by
  unfold reseed
  repeat' first
    | with_reducible assumption
    | with_reducible first | apply useFree_legal | apply setCore_legal | apply Legal.parts
    | simp only [Legal.lit]
    | with_reducible first | apply Legal.ite
    | split
    | with_reducible first | apply Legal.foldl
    | intro _
    | dsimp only

theorem topUp_legal {s0 s : State} (h : Legal s0 s) (core : Nat) :
    Legal s0 (topUp s core) := by
  unfold topUp
  repeat' first
    | with_reducible assumption
    | with_reducible first | apply useFree_legal | apply setCore_legal | apply Legal.parts
    | simp only [Legal.lit]
    | with_reducible first | apply Legal.ite
    | split
    | with_reducible first | apply Legal.foldl
    | intro _
    | dsimp only

theorem fixTopUp_legal {s0 s : State} (h : Legal s0 s) (fixer : Nat) :
    Legal s0 (fixTopUp s fixer) := by
  unfold fixTopUp
  repeat' first
    | with_reducible assumption
    | with_reducible first | apply useFree_legal | apply Legal.parts
    | simp only [Legal.lit]
    | with_reducible first | apply Legal.ite
    | split
    | with_reducible first | apply Legal.foldl
    | intro _
    | dsimp only

theorem fixReseed_legal {s0 s : State} (h : Legal s0 s) (fixer : Nat) :
    Legal s0 (fixReseed s fixer) := by
  unfold fixReseed
  repeat' first
    | with_reducible assumption
    | with_reducible first | apply useFree_legal | apply Legal.parts
    | simp only [Legal.lit]
    | with_reducible first | apply Legal.ite
    | split
    | with_reducible first | apply Legal.foldl
    | intro _
    | dsimp only

theorem setProg_legal {s0 s : State} (h : Legal s0 s) (p : ProgRef) (q : Prog) :
    Legal s0 (setProg s p q) := by
  unfold setProg
  repeat' first
    | with_reducible assumption
    | with_reducible first | apply setCore_legal | apply Legal.parts
    | simp only [Legal.lit]
    | with_reducible first | apply Legal.ite
    | split
    | with_reducible first | apply Legal.foldl
    | intro _
    | dsimp only

theorem freeHalf_legal {s0 s : State} (h : Legal s0 s) (p : ProgRef) (scrub : Bool) :
    Legal s0 (freeHalf s p scrub) := by
  unfold freeHalf
  repeat' first
    | with_reducible assumption
    | with_reducible first | apply endHostAt_legal | apply setCore_legal | apply Legal.parts
    | simp only [Legal.lit]
    | with_reducible first | apply Legal.ite
    | split
    | with_reducible first | apply Legal.foldl
    | intro _
    | dsimp only

theorem setCswStatus_legal {s0 s : State} (h : Legal s0 s) (slot : Nat) (state : Nat) (code : Nat) :
    Legal s0 (setCswStatus s slot state code) := by
  unfold setCswStatus
  repeat' first
    | with_reducible assumption
    | with_reducible first | apply Legal.parts
    | simp only [Legal.lit]
    | with_reducible first | apply Legal.ite
    | split
    | with_reducible first | apply Legal.foldl
    | intro _
    | dsimp only

theorem endCsw_legal {s0 s : State} (h : Legal s0 s) (slot : Nat) (code : Nat) :
    Legal s0 (endCsw s slot code) := by
  unfold endCsw
  repeat' first
    | with_reducible assumption
    | with_reducible first | apply bump_legal | apply setCswStatus_legal | apply Legal.parts
    | simp only [Legal.lit]
    | with_reducible first | apply Legal.ite
    | split
    | with_reducible first | apply Legal.foldl
    | intro _
    | dsimp only

theorem endCounts_legal {s0 s : State} (h : Legal s0 s) (t : StepRec) :
    Legal s0 (endCounts s t) := by
  unfold endCounts
  repeat' first
    | with_reducible assumption
    | with_reducible first | apply setSe_legal | apply Legal.parts
    | simp only [Legal.lit]
    | with_reducible first | apply Legal.ite
    | split
    | with_reducible first | apply Legal.foldl
    | intro _
    | dsimp only

theorem closeStep_legal {s0 s : State} (h : Legal s0 s) (t : StepRec) (status : Nat) (loss : Option (BitVec 32)) :
    Legal s0 (closeStep s t status loss) := by
  unfold closeStep
  repeat' first
    | with_reducible assumption
    | with_reducible first | apply endCounts_legal | apply endCsw_legal | apply report_legal | apply dropStep_legal | apply Legal.parts
    | simp only [Legal.lit]
    | with_reducible first | apply Legal.ite
    | split
    | with_reducible first | apply Legal.foldl
    | intro _
    | dsimp only

theorem endVoided_legal {s0 s : State} (h : Legal s0 s) :
    Legal s0 (endVoided s) := by
  unfold endVoided
  repeat' first
    | with_reducible assumption
    | with_reducible first | apply closeStep_legal | apply Legal.parts
    | simp only [Legal.lit]
    | with_reducible first | apply Legal.ite
    | split
    | with_reducible first | apply Legal.foldl
    | intro _
    | dsimp only

theorem leaveCore_legal {s0 s : State} (h : Legal s0 s) (p : ProgRef) (q : Prog) :
    Legal s0 (leaveCore s p q) := by
  unfold leaveCore
  repeat' first
    | with_reducible assumption
    | with_reducible first | apply freeHalf_legal | apply setStep_legal | apply Legal.parts
    | simp only [Legal.lit]
    | with_reducible first | apply Legal.ite
    | split
    | with_reducible first | apply Legal.foldl
    | intro _
    | dsimp only

theorem settleStopped_legal {s0 s : State} (h : Legal s0 s) :
    Legal s0 (settleStopped s) := by
  unfold settleStopped
  repeat' first
    | with_reducible assumption
    | with_reducible first | apply endVoided_legal | apply leaveCore_legal | apply Legal.parts
    | simp only [Legal.lit]
    | with_reducible first | apply Legal.ite
    | split
    | with_reducible first | apply Legal.foldl
    | intro _
    | dsimp only

theorem voidReqs_legal {s0 s : State} (h : Legal s0 s) (sel : RemReq → Bool) :
    Legal s0 (voidReqs s sel) := by
  unfold voidReqs
  repeat' first
    | with_reducible assumption
    | with_reducible first | apply Legal.parts
    | simp only [Legal.lit]
    | with_reducible first | apply Legal.ite
    | split
    | with_reducible first | apply Legal.foldl
    | intro _
    | dsimp only

theorem abandonWork_legal {s0 s : State} (h : Legal s0 s) (ctx : Nat) (keep : Nat → Bool) :
    Legal s0 (abandonWork s ctx keep) := by
  unfold abandonWork
  repeat' first
    | with_reducible assumption
    | with_reducible first | apply Legal.parts
    | simp only [Legal.lit]
    | with_reducible first | apply Legal.ite
    | split
    | with_reducible first | apply Legal.foldl
    | intro _
    | dsimp only

theorem closeRunning_legal {s0 s : State} (h : Legal s0 s) (ctx : Nat) (faultRing : Option Nat) (code : Nat) (other : Nat) (d0 : Nat) :
    Legal s0 (closeRunning s ctx faultRing code other d0) := by
  unfold closeRunning
  repeat' first
    | with_reducible assumption
    | with_reducible first | apply report_legal | apply Legal.parts
    | simp only [Legal.lit]
    | with_reducible first | apply Legal.ite
    | split
    | with_reducible first | apply Legal.foldl
    | intro _
    | dsimp only

theorem beginTeardown_legal {s0 s : State} (h : Legal s0 s) (ctx : Nat) (code : Nat) (other : Nat) (where_ : Nat) (faultRing : Option Nat) :
    Legal s0 (beginTeardown s ctx code other where_ faultRing) := by
  unfold beginTeardown
  repeat' first
    | with_reducible assumption
    | with_reducible first | apply setCtx_legal | apply closeRunning_legal | apply setProg_legal | apply voidReqs_legal | apply abandonWork_legal
    | with_reducible first | apply flushTlb_legal | apply settleStopped_legal | apply Legal.parts
    | simp only [Legal.lit]
    | with_reducible first | apply Legal.ite
    | split
    | with_reducible first | apply Legal.foldl
    | intro _
    | dsimp only

theorem failCsw_legal {s0 s : State} (h : Legal s0 s) (code : Nat) :
    Legal s0 (failCsw s code) := by
  unfold failCsw
  repeat' first
    | with_reducible assumption
    | with_reducible first | apply setProg_legal | apply settleStopped_legal | apply endCsw_legal | apply Legal.parts
    | simp only [Legal.lit]
    | with_reducible first | apply Legal.ite
    | split
    | with_reducible first | apply Legal.foldl
    | intro _
    | dsimp only

theorem lowerCode_legal {s0 s : State} (h : Legal s0 s) (f : FaultAt) :
    Legal s0 (lowerCode s f) := by
  unfold lowerCode
  repeat' first
    | with_reducible assumption
    | with_reducible first | apply setCtx_legal | apply setUnit_legal | apply Legal.parts
    | simp only [Legal.lit]
    | with_reducible first | apply Legal.ite
    | split
    | with_reducible first | apply Legal.foldl
    | intro _
    | dsimp only

theorem charge_legal {s0 s : State} (h : Legal s0 s) (f : FaultAt) :
    Legal s0 (charge s f) := by
  unfold charge
  repeat' first
    | with_reducible assumption
    | with_reducible first | apply pushErr_legal | apply setAlert_legal | apply failCsw_legal | apply beginTeardown_legal | apply lowerCode_legal
    | with_reducible first | apply Legal.parts
    | simp only [Legal.lit]
    | with_reducible first | apply Legal.ite
    | split
    | with_reducible first | apply Legal.foldl
    | intro _
    | dsimp only

theorem chargeOp_legal {s0 s : State} (h : Legal s0 s) (p : ProgRef) (q : Prog) (idx : Nat) (code : Nat) (addr : optParam (Option Nat)
      none) (detail : optParam (BitVec 64) 0) :
    Legal s0 (chargeOp s p q idx code addr detail) := by
  unfold chargeOp
  repeat' first
    | with_reducible assumption
    | with_reducible first | apply charge_legal | apply Legal.parts
    | simp only [Legal.lit]
    | with_reducible first | apply Legal.ite
    | split
    | with_reducible first | apply Legal.foldl
    | intro _
    | dsimp only

theorem wakeGated_legal {s0 s : State} (h : Legal s0 s) (core : Nat) :
    Legal s0 (wakeGated s core) := by
  unfold wakeGated
  repeat' first
    | with_reducible assumption
    | with_reducible first | apply setCore_legal | apply Legal.parts
    | simp only [Legal.lit]
    | with_reducible first | apply Legal.ite
    | split
    | with_reducible first | apply Legal.foldl
    | intro _
    | dsimp only

theorem addTally_legal {s0 s : State} (h : Legal s0 s) (p : ProgRef) (t : Nat) (n : Nat) (idx : Nat) :
    Legal s0 (addTally s p t n idx) := by
  unfold addTally
  repeat' first
    | with_reducible assumption
    | with_reducible first | apply chargeOp_legal | apply wakeGated_legal | apply setProg_legal | apply Legal.parts
    | simp only [Legal.lit]
    | with_reducible first | apply Legal.ite
    | split
    | with_reducible first | apply Legal.foldl
    | intro _
    | dsimp only

theorem addEnded_legal {s0 s : State} (h : Legal s0 s) (x : StepRec) (sci : Nat) (t : Nat) (n : Nat) :
    Legal s0 (addEnded s x sci t n) := by
  unfold addEnded
  repeat' first
    | with_reducible assumption
    | with_reducible first | apply setStep_legal | apply Legal.parts
    | simp only [Legal.lit]
    | with_reducible first | apply Legal.ite
    | split
    | with_reducible first | apply Legal.foldl
    | intro _
    | dsimp only

theorem addTallyOf_legal {s0 s : State} (h : Legal s0 s) (step : Nat) (sci : Nat) (t : Nat) (n : Nat) (idx : Nat) :
    Legal s0 (addTallyOf s step sci t n idx) := by
  unfold addTallyOf
  repeat' first
    | with_reducible assumption
    | with_reducible first | apply addTally_legal | apply addEnded_legal | apply Legal.parts
    | simp only [Legal.lit]
    | with_reducible first | apply Legal.ite
    | split
    | with_reducible first | apply Legal.foldl
    | intro _
    | dsimp only

theorem stirStep_legal {s0 s : State} (h : Legal s0 s) (step : Nat) :
    Legal s0 (stirStep s step) := by
  unfold stirStep
  repeat' first
    | with_reducible assumption
    | with_reducible first | apply Legal.parts
    | simp only [Legal.lit]
    | with_reducible first | apply Legal.ite
    | split
    | with_reducible first | apply Legal.foldl
    | intro _
    | dsimp only

/-! Sequencer. -/

theorem putProg_legal {s0 s : State} (h : Legal s0 s) (p : ProgRef) (q : Prog) :
    Legal s0 (putProg s p q) := by
  unfold putProg
  repeat' first
    | with_reducible assumption
    | with_reducible first | apply stirStep_legal | apply setProg_legal | apply Legal.parts
    | simp only [Legal.lit]
    | with_reducible first | apply Legal.ite
    | split
    | with_reducible first | apply Legal.foldl
    | intro _
    | dsimp only

theorem dispatched_legal {s0 s : State} (h : Legal s0 s) (p : ProgRef) :
    Legal s0 (dispatched s p) := by
  unfold dispatched
  repeat' first
    | with_reducible assumption
    | with_reducible first | apply putProg_legal | apply Legal.parts
    | simp only [Legal.lit]
    | with_reducible first | apply Legal.ite
    | split
    | with_reducible first | apply Legal.foldl
    | intro _
    | dsimp only

theorem execOpDispatch_legal {s0 s : State} (h : Legal s0 s) (p : ProgRef) :
    OutLegal s0 (execOpDispatch p s) := by
  unfold execOpDispatch
  repeat' first
    | with_reducible assumption
    | with_reducible first | apply dispatched_legal | apply Legal.parts
    | simp only [Legal.lit]
    | with_reducible first | apply Legal.ite
    | split
    | refine Legal.of_next ‹_› ?_
    | with_reducible first | apply OutLegal.next | apply Legal.foldl
    | intro _
    | dsimp only

theorem execNop_legal {s0 s : State} (h : Legal s0 s) (p : ProgRef) :
    OutLegal s0 (execNop p s) := by
  unfold execNop
  repeat' first
    | with_reducible assumption
    | with_reducible first | apply putProg_legal | apply Legal.parts
    | simp only [Legal.lit]
    | with_reducible first | apply Legal.ite
    | split
    | refine Legal.of_next ‹_› ?_
    | with_reducible first | apply OutLegal.next | apply Legal.foldl
    | intro _
    | dsimp only

theorem execLoop_legal {s0 s : State} (h : Legal s0 s) (p : ProgRef) :
    OutLegal s0 (execLoop p s) := by
  unfold execLoop
  repeat' first
    | with_reducible assumption
    | with_reducible first | apply putProg_legal | apply Legal.parts
    | simp only [Legal.lit]
    | with_reducible first | apply Legal.ite
    | split
    | refine Legal.of_next ‹_› ?_
    | with_reducible first | apply OutLegal.next | apply Legal.foldl
    | intro _
    | dsimp only

theorem execEndloop_legal {s0 s : State} (h : Legal s0 s) (p : ProgRef) :
    OutLegal s0 (execEndloop p s) := by
  unfold execEndloop
  repeat' first
    | with_reducible assumption
    | with_reducible first | apply putProg_legal | apply Legal.parts
    | simp only [Legal.lit]
    | with_reducible first | apply Legal.ite
    | split
    | refine Legal.of_next ‹_› ?_
    | with_reducible first | apply OutLegal.next | apply Legal.foldl
    | intro _
    | dsimp only

theorem execWait_legal {s0 s : State} (h : Legal s0 s) (p : ProgRef) :
    OutLegal s0 (execWait p s) := by
  unfold execWait
  repeat' first
    | with_reducible assumption
    | with_reducible first | apply putProg_legal | apply Legal.parts
    | simp only [Legal.lit]
    | with_reducible first | apply Legal.ite
    | split
    | refine Legal.of_next ‹_› ?_
    | with_reducible first | apply OutLegal.next | apply Legal.foldl
    | intro _
    | dsimp only

theorem giveSig_legal {s0 s : State} (h : Legal s0 s) (p : ProgRef) (q : Prog) (g : PendSig) :
    Legal s0 (giveSig s p q g) := by
  unfold giveSig
  repeat' first
    | with_reducible assumption
    | with_reducible first | apply addTally_legal | apply Legal.parts
    | simp only [Legal.lit]
    | with_reducible first | apply Legal.ite
    | split
    | with_reducible first | apply Legal.foldl
    | intro _
    | dsimp only

theorem signalOp_legal {s0 s : State} (h : Legal s0 s) (p : ProgRef) (q : Prog) (w : Op) (target : Option Nat) :
    Legal s0 (signalOp s p q w target) := by
  unfold signalOp
  repeat' first
    | with_reducible assumption
    | with_reducible first | apply giveSig_legal | apply putProg_legal | apply Legal.parts
    | simp only [Legal.lit]
    | with_reducible first | apply Legal.ite
    | split
    | with_reducible first | apply Legal.foldl
    | intro _
    | dsimp only

theorem execSignal_legal {s0 s : State} (h : Legal s0 s) (p : ProgRef) :
    OutLegal s0 (execSignal p s) := by
  unfold execSignal
  repeat' first
    | with_reducible assumption
    | with_reducible first | apply signalOp_legal | apply Legal.parts
    | simp only [Legal.lit]
    | with_reducible first | apply Legal.ite
    | split
    | refine Legal.of_next ‹_› ?_
    | with_reducible first | apply OutLegal.next | apply Legal.foldl
    | intro _
    | dsimp only

theorem execRsignal_legal {s0 s : State} (h : Legal s0 s) (p : ProgRef) :
    OutLegal s0 (execRsignal p s) := by
  unfold execRsignal
  repeat' first
    | with_reducible assumption
    | with_reducible first | apply signalOp_legal | apply Legal.parts
    | simp only [Legal.lit]
    | with_reducible first | apply Legal.ite
    | split
    | refine Legal.of_next ‹_› ?_
    | with_reducible first | apply OutLegal.next | apply Legal.foldl
    | intro _
    | dsimp only

theorem execPendingSignalGiven_legal {s0 s : State} (h : Legal s0 s) (p : ProgRef) :
    OutLegal s0 (execPendingSignalGiven p s) := by
  unfold execPendingSignalGiven
  repeat' first
    | with_reducible assumption
    | with_reducible first | apply giveSig_legal | apply setProg_legal | apply Legal.parts
    | simp only [Legal.lit]
    | with_reducible first | apply Legal.ite
    | split
    | refine Legal.of_next ‹_› ?_
    | with_reducible first | apply OutLegal.next | apply Legal.foldl
    | intro _
    | dsimp only

theorem execRemoteSignalDelivery_legal {s0 s : State} (h : Legal s0 s) (n : Nat) :
    OutLegal s0 (execRemoteSignalDelivery n s) := by
  unfold execRemoteSignalDelivery
  repeat' first
    | with_reducible assumption
    | with_reducible first | apply addTallyOf_legal | apply Legal.parts
    | simp only [Legal.lit]
    | with_reducible first | apply Legal.ite
    | split
    | refine Legal.of_next ‹_› ?_
    | with_reducible first | apply OutLegal.next | apply Legal.foldl
    | intro _
    | dsimp only

theorem execStepbar_legal {s0 s : State} (h : Legal s0 s) (p : ProgRef) :
    OutLegal s0 (execStepbar p s) := by
  unfold execStepbar
  repeat' first
    | with_reducible assumption
    | with_reducible first | apply putProg_legal | apply Legal.parts
    | simp only [Legal.lit]
    | with_reducible first | apply Legal.ite
    | split
    | refine Legal.of_next ‹_› ?_
    | with_reducible first | apply OutLegal.next | apply Legal.foldl
    | intro _
    | dsimp only

theorem releaseBar_legal {s0 s : State} (h : Legal s0 s) (t : StepRec) :
    Legal s0 (releaseBar s t) := by
  unfold releaseBar
  repeat' first
    | with_reducible assumption
    | with_reducible first | apply wakeGated_legal | apply setProg_legal | apply Legal.parts
    | simp only [Legal.lit]
    | with_reducible first | apply Legal.ite
    | split
    | with_reducible first | apply Legal.foldl
    | intro _
    | dsimp only

theorem execStepbarArrival_legal {s0 s : State} (h : Legal s0 s) (p : ProgRef) :
    OutLegal s0 (execStepbarArrival p s) := by
  unfold execStepbarArrival
  repeat' first
    | with_reducible assumption
    | with_reducible first | apply setProg_legal | apply releaseBar_legal | apply Legal.parts
    | simp only [Legal.lit]
    | with_reducible first | apply Legal.ite
    | split
    | refine Legal.of_next ‹_› ?_
    | with_reducible first | apply OutLegal.next | apply Legal.foldl
    | intro _
    | dsimp only

theorem completeHead_legal {s0 s : State} (h : Legal s0 s) (p : ProgRef) (e : Eng) :
    Legal s0 (completeHead s p e) := by
  unfold completeHead
  repeat' first
    | with_reducible assumption
    | with_reducible first | apply putProg_legal | apply addTally_legal | apply Legal.parts
    | simp only [Legal.lit]
    | with_reducible first | apply Legal.ite
    | split
    | with_reducible first | apply Legal.foldl
    | intro _
    | dsimp only

theorem execOpComplete_legal {s0 s : State} (h : Legal s0 s) (p : ProgRef) (eng : Eng) :
    OutLegal s0 (execOpComplete p eng s) := by
  unfold execOpComplete
  repeat' first
    | with_reducible assumption
    | with_reducible first | apply completeHead_legal | apply Legal.parts
    | simp only [Legal.lit]
    | with_reducible first | apply Legal.ite
    | split
    | refine Legal.of_next ‹_› ?_
    | with_reducible first | apply OutLegal.next | apply Legal.foldl
    | intro _
    | dsimp only

/-! Engines. -/

theorem markDie_legal {s0 s : State} (h : Legal s0 s) (die : Nat) :
    Legal s0 (markDie s die) := by
  unfold markDie
  repeat' first
    | with_reducible assumption
    | with_reducible first | apply raiseEvent_legal | apply Legal.parts
    | simp only [Legal.lit]
    | with_reducible first | apply Legal.ite
    | split
    | with_reducible first | apply Legal.foldl
    | intro _
    | dsimp only

theorem sharedError_legal {s0 s : State} (h : Legal s0 s) (die : Nat) :
    Legal s0 (sharedError s die) := by
  unfold sharedError
  repeat' first
    | with_reducible assumption
    | with_reducible first | apply markDie_legal | apply charge_legal | apply Legal.parts
    | simp only [Legal.lit]
    | with_reducible first | apply Legal.ite
    | split
    | with_reducible first | apply Legal.foldl
    | intro _
    | dsimp only

theorem countPlace_legal {s0 s : State} (h : Legal s0 s) (off : Nat) (hi : Nat) (lo : Nat) (v : Nat) (core : Nat) (die : Nat) :
    Legal s0 (countPlace s off hi lo v core die) := by
  unfold countPlace
  repeat' first
    | with_reducible assumption
    | with_reducible first | apply countCE_legal | apply setField_legal | apply Legal.parts
    | simp only [Legal.lit]
    | with_reducible first | apply Legal.ite
    | split
    | with_reducible first | apply Legal.foldl
    | intro _
    | dsimp only

theorem chargeLog_legal {s0 s : State} (h : Legal s0 s) (p : ProgRef) (q : Prog) (idx : Nat) (code : Nat) (log : Nat) (cap : BitVec 64) :
    Legal s0 (chargeLog s p q idx code log cap) := by
  unfold chargeLog
  repeat' first
    | with_reducible assumption
    | with_reducible first | apply chargeOp_legal | apply logOnce_legal | apply Legal.parts
    | simp only [Legal.lit]
    | with_reducible first | apply Legal.ite
    | split
    | with_reducible first | apply Legal.foldl
    | intro _
    | dsimp only

theorem arrayCheck_legal {s0 s : State} (h : Legal s0 s) (p : ProgRef) (q : Prog) (o : OpSlot) (parity : Bool) (i : Nat) (j : Nat) :
    Legal s0 (arrayCheck s p q o parity i j) := by
  unfold arrayCheck
  repeat' first
    | with_reducible assumption
    | with_reducible first | apply chargeLog_legal | apply bump_legal | apply Legal.parts
    | simp only [Legal.lit]
    | with_reducible first | apply Legal.ite
    | split
    | with_reducible first | apply Legal.foldl
    | intro _
    | dsimp only

theorem vectorCheck_legal {s0 s : State} (h : Legal s0 s) (p : ProgRef) (q : Prog) (o : OpSlot) (parity : Bool) (i : Nat) (j : Nat) :
    Legal s0 (vectorCheck s p q o parity i j) := by
  unfold vectorCheck
  repeat' first
    | with_reducible assumption
    | with_reducible first | apply chargeLog_legal | apply bump_legal | apply Legal.parts
    | simp only [Legal.lit]
    | with_reducible first | apply Legal.ite
    | split
    | with_reducible first | apply Legal.foldl
    | intro _
    | dsimp only

theorem accFault_legal {s0 s : State} (h : Legal s0 s) (p : ProgRef) (q : Prog) (o : OpSlot) (tile : Bool) (row : Nat) (word : Nat) :
    Legal s0 (accFault s p q o tile row word) := by
  unfold accFault
  repeat' first
    | with_reducible assumption
    | with_reducible first | apply chargeLog_legal | apply Legal.parts
    | simp only [Legal.lit]
    | with_reducible first | apply Legal.ite
    | split
    | with_reducible first | apply Legal.foldl
    | intro _
    | dsimp only

theorem hwCheck_legal {s0 : State} (p : ProgRef) (q : Prog) (e : Eng) (o : OpSlot) : ∀ (err : HwErr) {s : State} (_ : Legal s0 s),
    FstLegal s0 (hwCheck s p q e o err) := by
  intro err
  induction err with
  | both a b iha ihb =>
    intro s h
    unfold hwCheck
    have := iha h
    split
    · rename_i heq
      rw [heq] at this
      exact ihb (FstLegal.lit.mp this)
    · exact this
  | _ =>
    intro s h
    unfold hwCheck
    repeat' first
      | with_reducible assumption
      | with_reducible first | apply FstLegal.mk | apply countPlace_legal | apply setField_legal | apply Legal.ite
      | split
      | intro _

theorem spFault_legal {s0 s : State} (h : Legal s0 s) (p : ProgRef) (q : Prog) (o : OpSlot) (core : Nat) (reader : Nat) (a : Nat) :
    Legal s0 (spFault s p q o core reader a) := by
  unfold spFault
  repeat' first
    | with_reducible assumption
    | with_reducible first | apply chargeLog_legal | apply Legal.parts
    | simp only [Legal.lit]
    | with_reducible first | apply Legal.ite
    | split
    | with_reducible first | apply Legal.foldl
    | intro _
    | dsimp only

theorem faultOf_legal {s0 s : State} (h : Legal s0 s) (p : ProgRef) (q : Prog) (e : Eng) (o : OpSlot) (a : HwErr) :
    Legal s0 (faultOf s p q e o a) := by
  unfold faultOf
  repeat' first
    | with_reducible assumption
    | with_reducible first | apply spFault_legal | apply accFault_legal | apply arrayCheck_legal | apply vectorCheck_legal | apply sharedError_legal
    | with_reducible first | apply Legal.parts
    | simp only [Legal.lit]
    | with_reducible first | apply Legal.ite
    | split
    | with_reducible first | apply Legal.foldl
    | intro _
    | dsimp only

theorem opDone_legal {s0 s : State} (h : Legal s0 s) (p : ProgRef) (e : Eng) (ph : OpPhase) :
    Legal s0 (opDone s p e ph) := by
  unfold opDone
  repeat' first
    | with_reducible assumption
    | with_reducible first | apply setProg_legal | apply setCore_legal | apply Legal.parts
    | simp only [Legal.lit]
    | with_reducible first | apply Legal.ite
    | split
    | with_reducible first | apply Legal.foldl
    | intro _
    | dsimp only

theorem opHold_legal {s0 s : State} (h : Legal s0 s) (p : ProgRef) (e : Eng) :
    Legal s0 (opHold s p e) := by
  unfold opHold
  repeat' first
    | with_reducible assumption
    | with_reducible first | apply setProg_legal | apply Legal.parts
    | simp only [Legal.lit]
    | with_reducible first | apply Legal.ite
    | split
    | with_reducible first | apply Legal.foldl
    | intro _
    | dsimp only

theorem runEnds_legal {s0 : State} (p : ProgRef) (q : Prog) (e : Eng) (o : OpSlot) {a : Acc OpPhase} (h_a : AccLegal s0 a) :
    Legal s0 (runEnds p q e o a) := by
  unfold runEnds
  repeat' first
    | with_reducible assumption
    | with_reducible first | apply endHost_legal | apply opDone_legal | apply opHold_legal | apply chargeOp_legal | apply Legal.parts
    | simp only [Legal.lit]
    | with_reducible first | apply Legal.ite | apply AccLegal.ite
    | split
    | refine Legal.of_bad ‹_› ?_ | refine Legal.of_ok ‹_› ?_ | refine Legal.of_wait ‹_› ?_
    | with_reducible first | apply AccLegal.ok | apply AccLegal.wait | apply AccLegal.bad | apply AccLegal.of_bind | apply AccLegal.foldl
    | with_reducible first | apply Legal.foldl
    | exact Legal.of_ok rfl ‹_› | exact Legal.of_wait rfl ‹_› | exact Legal.of_bad rfl ‹_›
    | intro _
    | dsimp only

theorem runOp_legal {s0 s : State} (h : Legal s0 s) (p : ProgRef) (e : Eng) (err : HwErr) (is : Op → Bool) {eff : Option HwErr →
  State →
    Prog → OpSlot → Acc OpPhase} (h_eff : ∀ y0 y1 y2 y3, Legal s0 y1 → AccLegal s0 (eff y0 y1 y2 y3)) :
    Legal s0 (runOp s p e err is eff) := by
  unfold runOp
  repeat' first
    | with_reducible assumption
    | with_reducible first | apply hwCheck_legal | apply setProg_legal | apply runEnds_legal | apply faultOf_legal | apply h_eff | apply Legal.parts
    | simp only [FstLegal.lit]
    | with_reducible first | apply Legal.ite | apply AccLegal.ite
    | split
    | refine Legal.of_bad ‹_› ?_ | refine Legal.of_fst ‹_› ?_ | refine Legal.of_ok ‹_› ?_ | refine Legal.of_wait ‹_› ?_
    | with_reducible first | apply AccLegal.ok | apply AccLegal.wait | apply AccLegal.bad | apply AccLegal.of_bind | apply AccLegal.foldl
    | with_reducible first | apply FstLegal.get | apply FstLegal.foldl | apply Legal.foldl
    | intro _
    | dsimp only

theorem whole_legal {s0 s : State} (h : Legal s0 s) {eff : State →
  Prog → OpSlot → Acc OpPhase} (h_eff : ∀ y0 y1 y2, Legal s0 y0 → AccLegal s0 (eff y0 y1 y2)) (f : Option HwErr) (q : Prog) (o : OpSlot) :
    AccLegal s0 (whole eff f s q o) := by
  unfold whole
  repeat' first
    | with_reducible assumption
    | with_reducible first | apply h_eff | apply Legal.parts
    | simp only [Legal.lit]
    | with_reducible first | apply Legal.ite | apply AccLegal.ite
    | split
    | refine Legal.of_bad ‹_› ?_ | refine Legal.of_ok ‹_› ?_ | refine Legal.of_wait ‹_› ?_
    | with_reducible first | apply AccLegal.ok | apply AccLegal.wait | apply AccLegal.bad | apply AccLegal.of_bind | apply AccLegal.foldl
    | intro _
    | dsimp only

end Sys2Proof.Machine
end

