-- ==== Sys2Proof/Laws/LegalCores.lean ====
section
/-! SUPPORT. `Legal` of the engines' ops, the ends of steps and the scheduler. -/

namespace Sys2Proof.Machine

/-! VectorEngine. -/

theorem elementwise_legal {s0 s : State} (h : Legal s0 s) (fm : VecForm) (rnd : Option Rnd) (f : Lane → LaneOut) (p : ProgRef) (found :
      Option HwErr) (q : Prog) (o : OpSlot) :
    AccLegal s0 (elementwise fm rnd f p found s q o) := by
  unfold elementwise
  repeat' first
    | with_reducible assumption
    | with_reducible first | apply useFree_legal | apply setCore_legal | apply Legal.parts
    | simp only [Legal.lit]
    | with_reducible first | apply Legal.ite | apply AccLegal.ite
    | split
    | refine Legal.of_bad ‹_› ?_ | refine Legal.of_ok ‹_› ?_ | refine Legal.of_wait ‹_› ?_
    | with_reducible first | apply AccLegal.ok | apply AccLegal.wait | apply AccLegal.bad | apply AccLegal.of_bind | apply AccLegal.foldl
    | with_reducible first | apply Legal.foldl
    | intro _
    | dsimp only

theorem runVec_legal {s0 s : State} (h : Legal s0 s) (p : ProgRef) (err : HwErr) (vop : Nat) {eff : Option HwErr →
  State →
    Prog → OpSlot → Acc OpPhase} (h_eff : ∀ y0 y1 y2 y3, Legal s0 y1 → AccLegal s0 (eff y0 y1 y2 y3)) :
    Legal s0 (runVec s p err vop eff) := by
  unfold runVec
  repeat' first
    | with_reducible assumption
    | with_reducible first | apply runOp_legal | apply h_eff | apply Legal.parts
    | simp only [Legal.lit]
    | with_reducible first | apply Legal.ite | apply AccLegal.ite
    | split
    | refine Legal.of_bad ‹_› ?_ | refine Legal.of_ok ‹_› ?_ | refine Legal.of_wait ‹_› ?_
    | with_reducible first | apply AccLegal.ok | apply AccLegal.wait | apply AccLegal.bad | apply AccLegal.of_bind | apply AccLegal.foldl
    | with_reducible first | apply Legal.foldl
    | intro _
    | dsimp only

theorem execVadd_legal {s0 s : State} (h : Legal s0 s) (p : ProgRef) (err : HwErr) :
    OutLegal s0 (execVadd p err s) := by
  unfold execVadd
  repeat' first
    | with_reducible assumption
    | with_reducible first | apply runVec_legal | apply elementwise_legal | apply Legal.parts
    | simp only [Legal.lit]
    | with_reducible first | apply Legal.ite | apply AccLegal.ite
    | split
    | refine Legal.of_bad ‹_› ?_ | refine Legal.of_next ‹_› ?_ | refine Legal.of_ok ‹_› ?_ | refine Legal.of_wait ‹_› ?_
    | with_reducible first | apply AccLegal.ok | apply AccLegal.wait | apply AccLegal.bad | apply AccLegal.of_bind | apply AccLegal.foldl
    | with_reducible first | apply OutLegal.next | apply Legal.foldl
    | intro _
    | dsimp only

theorem execVsub_legal {s0 s : State} (h : Legal s0 s) (p : ProgRef) (err : HwErr) :
    OutLegal s0 (execVsub p err s) := by
  unfold execVsub
  repeat' first
    | with_reducible assumption
    | with_reducible first | apply runVec_legal | apply elementwise_legal | apply Legal.parts
    | simp only [Legal.lit]
    | with_reducible first | apply Legal.ite | apply AccLegal.ite
    | split
    | refine Legal.of_bad ‹_› ?_ | refine Legal.of_next ‹_› ?_ | refine Legal.of_ok ‹_› ?_ | refine Legal.of_wait ‹_› ?_
    | with_reducible first | apply AccLegal.ok | apply AccLegal.wait | apply AccLegal.bad | apply AccLegal.of_bind | apply AccLegal.foldl
    | with_reducible first | apply OutLegal.next | apply Legal.foldl
    | intro _
    | dsimp only

theorem execVmul_legal {s0 s : State} (h : Legal s0 s) (p : ProgRef) (err : HwErr) :
    OutLegal s0 (execVmul p err s) := by
  unfold execVmul
  repeat' first
    | with_reducible assumption
    | with_reducible first | apply runVec_legal | apply elementwise_legal | apply Legal.parts
    | simp only [Legal.lit]
    | with_reducible first | apply Legal.ite | apply AccLegal.ite
    | split
    | refine Legal.of_bad ‹_› ?_ | refine Legal.of_next ‹_› ?_ | refine Legal.of_ok ‹_› ?_ | refine Legal.of_wait ‹_› ?_
    | with_reducible first | apply AccLegal.ok | apply AccLegal.wait | apply AccLegal.bad | apply AccLegal.of_bind | apply AccLegal.foldl
    | with_reducible first | apply OutLegal.next | apply Legal.foldl
    | intro _
    | dsimp only

theorem execVfma_legal {s0 s : State} (h : Legal s0 s) (p : ProgRef) (err : HwErr) :
    OutLegal s0 (execVfma p err s) := by
  unfold execVfma
  repeat' first
    | with_reducible assumption
    | with_reducible first | apply runVec_legal | apply elementwise_legal | apply Legal.parts
    | simp only [Legal.lit]
    | with_reducible first | apply Legal.ite | apply AccLegal.ite
    | split
    | refine Legal.of_bad ‹_› ?_ | refine Legal.of_next ‹_› ?_ | refine Legal.of_ok ‹_› ?_ | refine Legal.of_wait ‹_› ?_
    | with_reducible first | apply AccLegal.ok | apply AccLegal.wait | apply AccLegal.bad | apply AccLegal.of_bind | apply AccLegal.foldl
    | with_reducible first | apply OutLegal.next | apply Legal.foldl
    | intro _
    | dsimp only

theorem execVfms_legal {s0 s : State} (h : Legal s0 s) (p : ProgRef) (err : HwErr) :
    OutLegal s0 (execVfms p err s) := by
  unfold execVfms
  repeat' first
    | with_reducible assumption
    | with_reducible first | apply runVec_legal | apply elementwise_legal | apply Legal.parts
    | simp only [Legal.lit]
    | with_reducible first | apply Legal.ite | apply AccLegal.ite
    | split
    | refine Legal.of_bad ‹_› ?_ | refine Legal.of_next ‹_› ?_ | refine Legal.of_ok ‹_› ?_ | refine Legal.of_wait ‹_› ?_
    | with_reducible first | apply AccLegal.ok | apply AccLegal.wait | apply AccLegal.bad | apply AccLegal.of_bind | apply AccLegal.foldl
    | with_reducible first | apply OutLegal.next | apply Legal.foldl
    | intro _
    | dsimp only

theorem execVmax_legal {s0 s : State} (h : Legal s0 s) (p : ProgRef) (err : HwErr) :
    OutLegal s0 (execVmax p err s) := by
  unfold execVmax
  repeat' first
    | with_reducible assumption
    | with_reducible first | apply runVec_legal | apply elementwise_legal | apply Legal.parts
    | simp only [Legal.lit]
    | with_reducible first | apply Legal.ite | apply AccLegal.ite
    | split
    | refine Legal.of_bad ‹_› ?_ | refine Legal.of_next ‹_› ?_ | refine Legal.of_ok ‹_› ?_ | refine Legal.of_wait ‹_› ?_
    | with_reducible first | apply AccLegal.ok | apply AccLegal.wait | apply AccLegal.bad | apply AccLegal.of_bind | apply AccLegal.foldl
    | with_reducible first | apply OutLegal.next | apply Legal.foldl
    | intro _
    | dsimp only

theorem execVmin_legal {s0 s : State} (h : Legal s0 s) (p : ProgRef) (err : HwErr) :
    OutLegal s0 (execVmin p err s) := by
  unfold execVmin
  repeat' first
    | with_reducible assumption
    | with_reducible first | apply runVec_legal | apply elementwise_legal | apply Legal.parts
    | simp only [Legal.lit]
    | with_reducible first | apply Legal.ite | apply AccLegal.ite
    | split
    | refine Legal.of_bad ‹_› ?_ | refine Legal.of_next ‹_› ?_ | refine Legal.of_ok ‹_› ?_ | refine Legal.of_wait ‹_› ?_
    | with_reducible first | apply AccLegal.ok | apply AccLegal.wait | apply AccLegal.bad | apply AccLegal.of_bind | apply AccLegal.foldl
    | with_reducible first | apply OutLegal.next | apply Legal.foldl
    | intro _
    | dsimp only

theorem execVabs_legal {s0 s : State} (h : Legal s0 s) (p : ProgRef) (err : HwErr) :
    OutLegal s0 (execVabs p err s) := by
  unfold execVabs
  repeat' first
    | with_reducible assumption
    | with_reducible first | apply runVec_legal | apply elementwise_legal | apply Legal.parts
    | simp only [Legal.lit]
    | with_reducible first | apply Legal.ite | apply AccLegal.ite
    | split
    | refine Legal.of_bad ‹_› ?_ | refine Legal.of_next ‹_› ?_ | refine Legal.of_ok ‹_› ?_ | refine Legal.of_wait ‹_› ?_
    | with_reducible first | apply AccLegal.ok | apply AccLegal.wait | apply AccLegal.bad | apply AccLegal.of_bind | apply AccLegal.foldl
    | with_reducible first | apply OutLegal.next | apply Legal.foldl
    | intro _
    | dsimp only

theorem execVneg_legal {s0 s : State} (h : Legal s0 s) (p : ProgRef) (err : HwErr) :
    OutLegal s0 (execVneg p err s) := by
  unfold execVneg
  repeat' first
    | with_reducible assumption
    | with_reducible first | apply runVec_legal | apply elementwise_legal | apply Legal.parts
    | simp only [Legal.lit]
    | with_reducible first | apply Legal.ite | apply AccLegal.ite
    | split
    | refine Legal.of_bad ‹_› ?_ | refine Legal.of_next ‹_› ?_ | refine Legal.of_ok ‹_› ?_ | refine Legal.of_wait ‹_› ?_
    | with_reducible first | apply AccLegal.ok | apply AccLegal.wait | apply AccLegal.bad | apply AccLegal.of_bind | apply AccLegal.foldl
    | with_reducible first | apply OutLegal.next | apply Legal.foldl
    | intro _
    | dsimp only

theorem execVadds_legal {s0 s : State} (h : Legal s0 s) (p : ProgRef) (err : HwErr) :
    OutLegal s0 (execVadds p err s) := by
  unfold execVadds
  repeat' first
    | with_reducible assumption
    | with_reducible first | apply runVec_legal | apply elementwise_legal | apply Legal.parts
    | simp only [Legal.lit]
    | with_reducible first | apply Legal.ite | apply AccLegal.ite
    | split
    | refine Legal.of_bad ‹_› ?_ | refine Legal.of_next ‹_› ?_ | refine Legal.of_ok ‹_› ?_ | refine Legal.of_wait ‹_› ?_
    | with_reducible first | apply AccLegal.ok | apply AccLegal.wait | apply AccLegal.bad | apply AccLegal.of_bind | apply AccLegal.foldl
    | with_reducible first | apply OutLegal.next | apply Legal.foldl
    | intro _
    | dsimp only

theorem execVmuls_legal {s0 s : State} (h : Legal s0 s) (p : ProgRef) (err : HwErr) :
    OutLegal s0 (execVmuls p err s) := by
  unfold execVmuls
  repeat' first
    | with_reducible assumption
    | with_reducible first | apply runVec_legal | apply elementwise_legal | apply Legal.parts
    | simp only [Legal.lit]
    | with_reducible first | apply Legal.ite | apply AccLegal.ite
    | split
    | refine Legal.of_bad ‹_› ?_ | refine Legal.of_next ‹_› ?_ | refine Legal.of_ok ‹_› ?_ | refine Legal.of_wait ‹_› ?_
    | with_reducible first | apply AccLegal.ok | apply AccLegal.wait | apply AccLegal.bad | apply AccLegal.of_bind | apply AccLegal.foldl
    | with_reducible first | apply OutLegal.next | apply Legal.foldl
    | intro _
    | dsimp only

theorem execVfmas_legal {s0 s : State} (h : Legal s0 s) (p : ProgRef) (err : HwErr) :
    OutLegal s0 (execVfmas p err s) := by
  unfold execVfmas
  repeat' first
    | with_reducible assumption
    | with_reducible first | apply runVec_legal | apply elementwise_legal | apply Legal.parts
    | simp only [Legal.lit]
    | with_reducible first | apply Legal.ite | apply AccLegal.ite
    | split
    | refine Legal.of_bad ‹_› ?_ | refine Legal.of_next ‹_› ?_ | refine Legal.of_ok ‹_› ?_ | refine Legal.of_wait ‹_› ?_
    | with_reducible first | apply AccLegal.ok | apply AccLegal.wait | apply AccLegal.bad | apply AccLegal.of_bind | apply AccLegal.foldl
    | with_reducible first | apply OutLegal.next | apply Legal.foldl
    | intro _
    | dsimp only

theorem execVclamps_legal {s0 s : State} (h : Legal s0 s) (p : ProgRef) (err : HwErr) :
    OutLegal s0 (execVclamps p err s) := by
  unfold execVclamps
  repeat' first
    | with_reducible assumption
    | with_reducible first | apply runVec_legal | apply elementwise_legal | apply Legal.parts
    | simp only [Legal.lit]
    | with_reducible first | apply Legal.ite | apply AccLegal.ite
    | split
    | refine Legal.of_bad ‹_› ?_ | refine Legal.of_next ‹_› ?_ | refine Legal.of_ok ‹_› ?_ | refine Legal.of_wait ‹_› ?_
    | with_reducible first | apply AccLegal.ok | apply AccLegal.wait | apply AccLegal.bad | apply AccLegal.of_bind | apply AccLegal.foldl
    | with_reducible first | apply OutLegal.next | apply Legal.foldl
    | intro _
    | dsimp only

theorem execVand_legal {s0 s : State} (h : Legal s0 s) (p : ProgRef) (err : HwErr) :
    OutLegal s0 (execVand p err s) := by
  unfold execVand
  repeat' first
    | with_reducible assumption
    | with_reducible first | apply runVec_legal | apply elementwise_legal | apply Legal.parts
    | simp only [Legal.lit]
    | with_reducible first | apply Legal.ite | apply AccLegal.ite
    | split
    | refine Legal.of_bad ‹_› ?_ | refine Legal.of_next ‹_› ?_ | refine Legal.of_ok ‹_› ?_ | refine Legal.of_wait ‹_› ?_
    | with_reducible first | apply AccLegal.ok | apply AccLegal.wait | apply AccLegal.bad | apply AccLegal.of_bind | apply AccLegal.foldl
    | with_reducible first | apply OutLegal.next | apply Legal.foldl
    | intro _
    | dsimp only

theorem execVor_legal {s0 s : State} (h : Legal s0 s) (p : ProgRef) (err : HwErr) :
    OutLegal s0 (execVor p err s) := by
  unfold execVor
  repeat' first
    | with_reducible assumption
    | with_reducible first | apply runVec_legal | apply elementwise_legal | apply Legal.parts
    | simp only [Legal.lit]
    | with_reducible first | apply Legal.ite | apply AccLegal.ite
    | split
    | refine Legal.of_bad ‹_› ?_ | refine Legal.of_next ‹_› ?_ | refine Legal.of_ok ‹_› ?_ | refine Legal.of_wait ‹_› ?_
    | with_reducible first | apply AccLegal.ok | apply AccLegal.wait | apply AccLegal.bad | apply AccLegal.of_bind | apply AccLegal.foldl
    | with_reducible first | apply OutLegal.next | apply Legal.foldl
    | intro _
    | dsimp only

theorem execVxor_legal {s0 s : State} (h : Legal s0 s) (p : ProgRef) (err : HwErr) :
    OutLegal s0 (execVxor p err s) := by
  unfold execVxor
  repeat' first
    | with_reducible assumption
    | with_reducible first | apply runVec_legal | apply elementwise_legal | apply Legal.parts
    | simp only [Legal.lit]
    | with_reducible first | apply Legal.ite | apply AccLegal.ite
    | split
    | refine Legal.of_bad ‹_› ?_ | refine Legal.of_next ‹_› ?_ | refine Legal.of_ok ‹_› ?_ | refine Legal.of_wait ‹_› ?_
    | with_reducible first | apply AccLegal.ok | apply AccLegal.wait | apply AccLegal.bad | apply AccLegal.of_bind | apply AccLegal.foldl
    | with_reducible first | apply OutLegal.next | apply Legal.foldl
    | intro _
    | dsimp only

theorem execVshl_legal {s0 s : State} (h : Legal s0 s) (p : ProgRef) (err : HwErr) :
    OutLegal s0 (execVshl p err s) := by
  unfold execVshl
  repeat' first
    | with_reducible assumption
    | with_reducible first | apply runVec_legal | apply elementwise_legal | apply Legal.parts
    | simp only [Legal.lit]
    | with_reducible first | apply Legal.ite | apply AccLegal.ite
    | split
    | refine Legal.of_bad ‹_› ?_ | refine Legal.of_next ‹_› ?_ | refine Legal.of_ok ‹_› ?_ | refine Legal.of_wait ‹_› ?_
    | with_reducible first | apply AccLegal.ok | apply AccLegal.wait | apply AccLegal.bad | apply AccLegal.of_bind | apply AccLegal.foldl
    | with_reducible first | apply OutLegal.next | apply Legal.foldl
    | intro _
    | dsimp only

theorem execVsra_legal {s0 s : State} (h : Legal s0 s) (p : ProgRef) (err : HwErr) :
    OutLegal s0 (execVsra p err s) := by
  unfold execVsra
  repeat' first
    | with_reducible assumption
    | with_reducible first | apply runVec_legal | apply elementwise_legal | apply Legal.parts
    | simp only [Legal.lit]
    | with_reducible first | apply Legal.ite | apply AccLegal.ite
    | split
    | refine Legal.of_bad ‹_› ?_ | refine Legal.of_next ‹_› ?_ | refine Legal.of_ok ‹_› ?_ | refine Legal.of_wait ‹_› ?_
    | with_reducible first | apply AccLegal.ok | apply AccLegal.wait | apply AccLegal.bad | apply AccLegal.of_bind | apply AccLegal.foldl
    | with_reducible first | apply OutLegal.next | apply Legal.foldl
    | intro _
    | dsimp only

theorem execVfill_legal {s0 s : State} (h : Legal s0 s) (p : ProgRef) (err : HwErr) :
    OutLegal s0 (execVfill p err s) := by
  unfold execVfill
  repeat' first
    | with_reducible assumption
    | with_reducible first | apply runVec_legal | apply elementwise_legal | apply Legal.parts
    | simp only [Legal.lit]
    | with_reducible first | apply Legal.ite | apply AccLegal.ite
    | split
    | refine Legal.of_bad ‹_› ?_ | refine Legal.of_next ‹_› ?_ | refine Legal.of_ok ‹_› ?_ | refine Legal.of_wait ‹_› ?_
    | with_reducible first | apply AccLegal.ok | apply AccLegal.wait | apply AccLegal.bad | apply AccLegal.of_bind | apply AccLegal.foldl
    | with_reducible first | apply OutLegal.next | apply Legal.foldl
    | intro _
    | dsimp only

theorem execViota_legal {s0 s : State} (h : Legal s0 s) (p : ProgRef) (err : HwErr) :
    OutLegal s0 (execViota p err s) := by
  unfold execViota
  repeat' first
    | with_reducible assumption
    | with_reducible first | apply runVec_legal | apply elementwise_legal | apply Legal.parts
    | simp only [Legal.lit]
    | with_reducible first | apply Legal.ite | apply AccLegal.ite
    | split
    | refine Legal.of_bad ‹_› ?_ | refine Legal.of_next ‹_› ?_ | refine Legal.of_ok ‹_› ?_ | refine Legal.of_wait ‹_› ?_
    | with_reducible first | apply AccLegal.ok | apply AccLegal.wait | apply AccLegal.bad | apply AccLegal.of_bind | apply AccLegal.foldl
    | with_reducible first | apply OutLegal.next | apply Legal.foldl
    | intro _
    | dsimp only

theorem trans_legal {s0 s : State} (h : Legal s0 s) (op : Nat) (p : ProgRef) (found : Option HwErr) (q : Prog) (o : OpSlot) :
    AccLegal s0 (trans op p found s q o) := by
  unfold trans
  repeat' first
    | with_reducible assumption
    | with_reducible first | apply elementwise_legal | apply Legal.parts
    | simp only [Legal.lit]
    | with_reducible first | apply Legal.ite | apply AccLegal.ite
    | split
    | refine Legal.of_bad ‹_› ?_ | refine Legal.of_ok ‹_› ?_ | refine Legal.of_wait ‹_› ?_
    | with_reducible first | apply AccLegal.ok | apply AccLegal.wait | apply AccLegal.bad | apply AccLegal.of_bind | apply AccLegal.foldl
    | intro _
    | dsimp only

theorem execVexp2_legal {s0 s : State} (h : Legal s0 s) (p : ProgRef) (err : HwErr) :
    OutLegal s0 (execVexp2 p err s) := by
  unfold execVexp2
  repeat' first
    | with_reducible assumption
    | with_reducible first | apply runVec_legal | apply trans_legal | apply Legal.parts
    | simp only [Legal.lit]
    | with_reducible first | apply Legal.ite | apply AccLegal.ite
    | split
    | refine Legal.of_bad ‹_› ?_ | refine Legal.of_next ‹_› ?_ | refine Legal.of_ok ‹_› ?_ | refine Legal.of_wait ‹_› ?_
    | with_reducible first | apply AccLegal.ok | apply AccLegal.wait | apply AccLegal.bad | apply AccLegal.of_bind | apply AccLegal.foldl
    | with_reducible first | apply OutLegal.next | apply Legal.foldl
    | intro _
    | dsimp only

theorem execVlog2_legal {s0 s : State} (h : Legal s0 s) (p : ProgRef) (err : HwErr) :
    OutLegal s0 (execVlog2 p err s) := by
  unfold execVlog2
  repeat' first
    | with_reducible assumption
    | with_reducible first | apply runVec_legal | apply trans_legal | apply Legal.parts
    | simp only [Legal.lit]
    | with_reducible first | apply Legal.ite | apply AccLegal.ite
    | split
    | refine Legal.of_bad ‹_› ?_ | refine Legal.of_next ‹_› ?_ | refine Legal.of_ok ‹_› ?_ | refine Legal.of_wait ‹_› ?_
    | with_reducible first | apply AccLegal.ok | apply AccLegal.wait | apply AccLegal.bad | apply AccLegal.of_bind | apply AccLegal.foldl
    | with_reducible first | apply OutLegal.next | apply Legal.foldl
    | intro _
    | dsimp only

theorem execVrcp_legal {s0 s : State} (h : Legal s0 s) (p : ProgRef) (err : HwErr) :
    OutLegal s0 (execVrcp p err s) := by
  unfold execVrcp
  repeat' first
    | with_reducible assumption
    | with_reducible first | apply runVec_legal | apply trans_legal | apply Legal.parts
    | simp only [Legal.lit]
    | with_reducible first | apply Legal.ite | apply AccLegal.ite
    | split
    | refine Legal.of_bad ‹_› ?_ | refine Legal.of_next ‹_› ?_ | refine Legal.of_ok ‹_› ?_ | refine Legal.of_wait ‹_› ?_
    | with_reducible first | apply AccLegal.ok | apply AccLegal.wait | apply AccLegal.bad | apply AccLegal.of_bind | apply AccLegal.foldl
    | with_reducible first | apply OutLegal.next | apply Legal.foldl
    | intro _
    | dsimp only

theorem execVrsqrt_legal {s0 s : State} (h : Legal s0 s) (p : ProgRef) (err : HwErr) :
    OutLegal s0 (execVrsqrt p err s) := by
  unfold execVrsqrt
  repeat' first
    | with_reducible assumption
    | with_reducible first | apply runVec_legal | apply trans_legal | apply Legal.parts
    | simp only [Legal.lit]
    | with_reducible first | apply Legal.ite | apply AccLegal.ite
    | split
    | refine Legal.of_bad ‹_› ?_ | refine Legal.of_next ‹_› ?_ | refine Legal.of_ok ‹_› ?_ | refine Legal.of_wait ‹_› ?_
    | with_reducible first | apply AccLegal.ok | apply AccLegal.wait | apply AccLegal.bad | apply AccLegal.of_bind | apply AccLegal.foldl
    | with_reducible first | apply OutLegal.next | apply Legal.foldl
    | intro _
    | dsimp only

theorem execVtanh_legal {s0 s : State} (h : Legal s0 s) (p : ProgRef) (err : HwErr) :
    OutLegal s0 (execVtanh p err s) := by
  unfold execVtanh
  repeat' first
    | with_reducible assumption
    | with_reducible first | apply runVec_legal | apply trans_legal | apply Legal.parts
    | simp only [Legal.lit]
    | with_reducible first | apply Legal.ite | apply AccLegal.ite
    | split
    | refine Legal.of_bad ‹_› ?_ | refine Legal.of_next ‹_› ?_ | refine Legal.of_ok ‹_› ?_ | refine Legal.of_wait ‹_› ?_
    | with_reducible first | apply AccLegal.ok | apply AccLegal.wait | apply AccLegal.bad | apply AccLegal.of_bind | apply AccLegal.foldl
    | with_reducible first | apply OutLegal.next | apply Legal.foldl
    | intro _
    | dsimp only

theorem masking_legal {s0 s : State} (h : Legal s0 s) (fm : VecForm) (stream : Op → Bool) (f : Lane → Bool) (p : ProgRef) (found : Option
      HwErr) (q : Prog) (o : OpSlot) :
    AccLegal s0 (masking fm stream f p found s q o) := by
  unfold masking
  repeat' first
    | with_reducible assumption
    | with_reducible first | apply useFree_legal | apply setCore_legal | apply setProg_legal | apply Legal.parts
    | simp only [Legal.lit]
    | with_reducible first | apply Legal.ite | apply AccLegal.ite
    | split
    | refine Legal.of_bad ‹_› ?_ | refine Legal.of_ok ‹_› ?_ | refine Legal.of_wait ‹_› ?_
    | with_reducible first | apply AccLegal.ok | apply AccLegal.wait | apply AccLegal.bad | apply AccLegal.of_bind | apply AccLegal.foldl
    | with_reducible first | apply Legal.foldl
    | intro _
    | dsimp only

theorem execVcmpeq_legal {s0 s : State} (h : Legal s0 s) (p : ProgRef) (err : HwErr) :
    OutLegal s0 (execVcmpeq p err s) := by
  unfold execVcmpeq
  repeat' first
    | with_reducible assumption
    | with_reducible first | apply runVec_legal | apply masking_legal | apply Legal.parts
    | simp only [Legal.lit]
    | with_reducible first | apply Legal.ite | apply AccLegal.ite
    | split
    | refine Legal.of_bad ‹_› ?_ | refine Legal.of_next ‹_› ?_ | refine Legal.of_ok ‹_› ?_ | refine Legal.of_wait ‹_› ?_
    | with_reducible first | apply AccLegal.ok | apply AccLegal.wait | apply AccLegal.bad | apply AccLegal.of_bind | apply AccLegal.foldl
    | with_reducible first | apply OutLegal.next | apply Legal.foldl
    | intro _
    | dsimp only

theorem execVcmpne_legal {s0 s : State} (h : Legal s0 s) (p : ProgRef) (err : HwErr) :
    OutLegal s0 (execVcmpne p err s) := by
  unfold execVcmpne
  repeat' first
    | with_reducible assumption
    | with_reducible first | apply runVec_legal | apply masking_legal | apply Legal.parts
    | simp only [Legal.lit]
    | with_reducible first | apply Legal.ite | apply AccLegal.ite
    | split
    | refine Legal.of_bad ‹_› ?_ | refine Legal.of_next ‹_› ?_ | refine Legal.of_ok ‹_› ?_ | refine Legal.of_wait ‹_› ?_
    | with_reducible first | apply AccLegal.ok | apply AccLegal.wait | apply AccLegal.bad | apply AccLegal.of_bind | apply AccLegal.foldl
    | with_reducible first | apply OutLegal.next | apply Legal.foldl
    | intro _
    | dsimp only

theorem execVcmplt_legal {s0 s : State} (h : Legal s0 s) (p : ProgRef) (err : HwErr) :
    OutLegal s0 (execVcmplt p err s) := by
  unfold execVcmplt
  repeat' first
    | with_reducible assumption
    | with_reducible first | apply runVec_legal | apply masking_legal | apply Legal.parts
    | simp only [Legal.lit]
    | with_reducible first | apply Legal.ite | apply AccLegal.ite
    | split
    | refine Legal.of_bad ‹_› ?_ | refine Legal.of_next ‹_› ?_ | refine Legal.of_ok ‹_› ?_ | refine Legal.of_wait ‹_› ?_
    | with_reducible first | apply AccLegal.ok | apply AccLegal.wait | apply AccLegal.bad | apply AccLegal.of_bind | apply AccLegal.foldl
    | with_reducible first | apply OutLegal.next | apply Legal.foldl
    | intro _
    | dsimp only

theorem execVcmple_legal {s0 s : State} (h : Legal s0 s) (p : ProgRef) (err : HwErr) :
    OutLegal s0 (execVcmple p err s) := by
  unfold execVcmple
  repeat' first
    | with_reducible assumption
    | with_reducible first | apply runVec_legal | apply masking_legal | apply Legal.parts
    | simp only [Legal.lit]
    | with_reducible first | apply Legal.ite | apply AccLegal.ite
    | split
    | refine Legal.of_bad ‹_› ?_ | refine Legal.of_next ‹_› ?_ | refine Legal.of_ok ‹_› ?_ | refine Legal.of_wait ‹_› ?_
    | with_reducible first | apply AccLegal.ok | apply AccLegal.wait | apply AccLegal.bad | apply AccLegal.of_bind | apply AccLegal.foldl
    | with_reducible first | apply OutLegal.next | apply Legal.foldl
    | intro _
    | dsimp only

theorem execVcmpgt_legal {s0 s : State} (h : Legal s0 s) (p : ProgRef) (err : HwErr) :
    OutLegal s0 (execVcmpgt p err s) := by
  unfold execVcmpgt
  repeat' first
    | with_reducible assumption
    | with_reducible first | apply runVec_legal | apply masking_legal | apply Legal.parts
    | simp only [Legal.lit]
    | with_reducible first | apply Legal.ite | apply AccLegal.ite
    | split
    | refine Legal.of_bad ‹_› ?_ | refine Legal.of_next ‹_› ?_ | refine Legal.of_ok ‹_› ?_ | refine Legal.of_wait ‹_› ?_
    | with_reducible first | apply AccLegal.ok | apply AccLegal.wait | apply AccLegal.bad | apply AccLegal.of_bind | apply AccLegal.foldl
    | with_reducible first | apply OutLegal.next | apply Legal.foldl
    | intro _
    | dsimp only

theorem execVcmpge_legal {s0 s : State} (h : Legal s0 s) (p : ProgRef) (err : HwErr) :
    OutLegal s0 (execVcmpge p err s) := by
  unfold execVcmpge
  repeat' first
    | with_reducible assumption
    | with_reducible first | apply runVec_legal | apply masking_legal | apply Legal.parts
    | simp only [Legal.lit]
    | with_reducible first | apply Legal.ite | apply AccLegal.ite
    | split
    | refine Legal.of_bad ‹_› ?_ | refine Legal.of_next ‹_› ?_ | refine Legal.of_ok ‹_› ?_ | refine Legal.of_wait ‹_› ?_
    | with_reducible first | apply AccLegal.ok | apply AccLegal.wait | apply AccLegal.bad | apply AccLegal.of_bind | apply AccLegal.foldl
    | with_reducible first | apply OutLegal.next | apply Legal.foldl
    | intro _
    | dsimp only

theorem execVsel_legal {s0 s : State} (h : Legal s0 s) (p : ProgRef) (err : HwErr) :
    OutLegal s0 (execVsel p err s) := by
  unfold execVsel
  repeat' first
    | with_reducible assumption
    | with_reducible first | apply runVec_legal | apply elementwise_legal | apply Legal.parts
    | simp only [Legal.lit]
    | with_reducible first | apply Legal.ite | apply AccLegal.ite
    | split
    | refine Legal.of_bad ‹_› ?_ | refine Legal.of_next ‹_› ?_ | refine Legal.of_ok ‹_› ?_ | refine Legal.of_wait ‹_› ?_
    | with_reducible first | apply AccLegal.ok | apply AccLegal.wait | apply AccLegal.bad | apply AccLegal.of_bind | apply AccLegal.foldl
    | with_reducible first | apply OutLegal.next | apply Legal.foldl
    | intro _
    | dsimp only

theorem execVselc_legal {s0 s : State} (h : Legal s0 s) (p : ProgRef) (err : HwErr) :
    OutLegal s0 (execVselc p err s) := by
  unfold execVselc
  repeat' first
    | with_reducible assumption
    | with_reducible first | apply runVec_legal | apply elementwise_legal | apply Legal.parts
    | simp only [Legal.lit]
    | with_reducible first | apply Legal.ite | apply AccLegal.ite
    | split
    | refine Legal.of_bad ‹_› ?_ | refine Legal.of_next ‹_› ?_ | refine Legal.of_ok ‹_› ?_ | refine Legal.of_wait ‹_› ?_
    | with_reducible first | apply AccLegal.ok | apply AccLegal.wait | apply AccLegal.bad | apply AccLegal.of_bind | apply AccLegal.foldl
    | with_reducible first | apply OutLegal.next | apply Legal.foldl
    | intro _
    | dsimp only

theorem execVcvt_legal {s0 s : State} (h : Legal s0 s) (p : ProgRef) (err : HwErr) :
    OutLegal s0 (execVcvt p err s) := by
  unfold execVcvt
  repeat' first
    | with_reducible assumption
    | with_reducible first | apply runVec_legal | apply elementwise_legal | apply Legal.parts
    | simp only [Legal.lit]
    | with_reducible first | apply Legal.ite | apply AccLegal.ite
    | split
    | refine Legal.of_bad ‹_› ?_ | refine Legal.of_next ‹_› ?_ | refine Legal.of_ok ‹_› ?_ | refine Legal.of_wait ‹_› ?_
    | with_reducible first | apply AccLegal.ok | apply AccLegal.wait | apply AccLegal.bad | apply AccLegal.of_bind | apply AccLegal.foldl
    | with_reducible first | apply OutLegal.next | apply Legal.foldl
    | intro _
    | dsimp only

theorem vbscaleEff_legal {s0 s : State} (h : Legal s0 s) (p : ProgRef) (found : Option HwErr) (q : Prog) (o : OpSlot) :
    AccLegal s0 (vbscaleEff p found s q o) := by
  unfold vbscaleEff
  repeat' first
    | with_reducible assumption
    | with_reducible first | apply setCore_legal | apply Legal.parts
    | simp only [Legal.lit]
    | with_reducible first | apply Legal.ite | apply AccLegal.ite
    | split
    | refine Legal.of_bad ‹_› ?_ | refine Legal.of_ok ‹_› ?_ | refine Legal.of_wait ‹_› ?_
    | with_reducible first | apply AccLegal.ok | apply AccLegal.wait | apply AccLegal.bad | apply AccLegal.of_bind | apply AccLegal.foldl
    | with_reducible first | apply Legal.foldl
    | intro _
    | dsimp only

theorem execVbscale_legal {s0 s : State} (h : Legal s0 s) (p : ProgRef) (err : HwErr) :
    OutLegal s0 (execVbscale p err s) := by
  unfold execVbscale
  repeat' first
    | with_reducible assumption
    | with_reducible first | apply runVec_legal | apply vbscaleEff_legal | apply Legal.parts
    | simp only [Legal.lit]
    | with_reducible first | apply Legal.ite | apply AccLegal.ite
    | split
    | refine Legal.of_bad ‹_› ?_ | refine Legal.of_next ‹_› ?_ | refine Legal.of_ok ‹_› ?_ | refine Legal.of_wait ‹_› ?_
    | with_reducible first | apply AccLegal.ok | apply AccLegal.wait | apply AccLegal.bad | apply AccLegal.of_bind | apply AccLegal.foldl
    | with_reducible first | apply OutLegal.next | apply Legal.foldl
    | intro _
    | dsimp only

theorem reduce_legal {s0 s : State} (h : Legal s0 s) (r : RedOp) (absFirst : Bool) (p : ProgRef) (found : Option HwErr) (q : Prog) (o :
      OpSlot) :
    AccLegal s0 (reduce r absFirst p found s q o) := by
  unfold reduce
  repeat' first
    | with_reducible assumption
    | with_reducible first | apply useFree_legal | apply setCore_legal | apply Legal.parts
    | simp only [Legal.lit]
    | with_reducible first | apply Legal.ite | apply AccLegal.ite
    | split
    | refine Legal.of_bad ‹_› ?_ | refine Legal.of_ok ‹_› ?_ | refine Legal.of_wait ‹_› ?_
    | with_reducible first | apply AccLegal.ok | apply AccLegal.wait | apply AccLegal.bad | apply AccLegal.of_bind | apply AccLegal.foldl
    | with_reducible first | apply Legal.foldl
    | intro _
    | dsimp only

theorem execVrsum_legal {s0 s : State} (h : Legal s0 s) (p : ProgRef) (err : HwErr) :
    OutLegal s0 (execVrsum p err s) := by
  unfold execVrsum
  repeat' first
    | with_reducible assumption
    | with_reducible first | apply runVec_legal | apply reduce_legal | apply Legal.parts
    | simp only [Legal.lit]
    | with_reducible first | apply Legal.ite | apply AccLegal.ite
    | split
    | refine Legal.of_bad ‹_› ?_ | refine Legal.of_next ‹_› ?_ | refine Legal.of_ok ‹_› ?_ | refine Legal.of_wait ‹_› ?_
    | with_reducible first | apply AccLegal.ok | apply AccLegal.wait | apply AccLegal.bad | apply AccLegal.of_bind | apply AccLegal.foldl
    | with_reducible first | apply OutLegal.next | apply Legal.foldl
    | intro _
    | dsimp only

theorem execVrmax_legal {s0 s : State} (h : Legal s0 s) (p : ProgRef) (err : HwErr) :
    OutLegal s0 (execVrmax p err s) := by
  unfold execVrmax
  repeat' first
    | with_reducible assumption
    | with_reducible first | apply runVec_legal | apply reduce_legal | apply Legal.parts
    | simp only [Legal.lit]
    | with_reducible first | apply Legal.ite | apply AccLegal.ite
    | split
    | refine Legal.of_bad ‹_› ?_ | refine Legal.of_next ‹_› ?_ | refine Legal.of_ok ‹_› ?_ | refine Legal.of_wait ‹_› ?_
    | with_reducible first | apply AccLegal.ok | apply AccLegal.wait | apply AccLegal.bad | apply AccLegal.of_bind | apply AccLegal.foldl
    | with_reducible first | apply OutLegal.next | apply Legal.foldl
    | intro _
    | dsimp only

theorem execVrmin_legal {s0 s : State} (h : Legal s0 s) (p : ProgRef) (err : HwErr) :
    OutLegal s0 (execVrmin p err s) := by
  unfold execVrmin
  repeat' first
    | with_reducible assumption
    | with_reducible first | apply runVec_legal | apply reduce_legal | apply Legal.parts
    | simp only [Legal.lit]
    | with_reducible first | apply Legal.ite | apply AccLegal.ite
    | split
    | refine Legal.of_bad ‹_› ?_ | refine Legal.of_next ‹_› ?_ | refine Legal.of_ok ‹_› ?_ | refine Legal.of_wait ‹_› ?_
    | with_reducible first | apply AccLegal.ok | apply AccLegal.wait | apply AccLegal.bad | apply AccLegal.of_bind | apply AccLegal.foldl
    | with_reducible first | apply OutLegal.next | apply Legal.foldl
    | intro _
    | dsimp only

theorem execVrsumsq_legal {s0 s : State} (h : Legal s0 s) (p : ProgRef) (err : HwErr) :
    OutLegal s0 (execVrsumsq p err s) := by
  unfold execVrsumsq
  repeat' first
    | with_reducible assumption
    | with_reducible first | apply runVec_legal | apply reduce_legal | apply Legal.parts
    | simp only [Legal.lit]
    | with_reducible first | apply Legal.ite | apply AccLegal.ite
    | split
    | refine Legal.of_bad ‹_› ?_ | refine Legal.of_next ‹_› ?_ | refine Legal.of_ok ‹_› ?_ | refine Legal.of_wait ‹_› ?_
    | with_reducible first | apply AccLegal.ok | apply AccLegal.wait | apply AccLegal.bad | apply AccLegal.of_bind | apply AccLegal.foldl
    | with_reducible first | apply OutLegal.next | apply Legal.foldl
    | intro _
    | dsimp only

theorem execVramax_legal {s0 s : State} (h : Legal s0 s) (p : ProgRef) (err : HwErr) :
    OutLegal s0 (execVramax p err s) := by
  unfold execVramax
  repeat' first
    | with_reducible assumption
    | with_reducible first | apply runVec_legal | apply reduce_legal | apply Legal.parts
    | simp only [Legal.lit]
    | with_reducible first | apply Legal.ite | apply AccLegal.ite
    | split
    | refine Legal.of_bad ‹_› ?_ | refine Legal.of_next ‹_› ?_ | refine Legal.of_ok ‹_› ?_ | refine Legal.of_wait ‹_› ?_
    | with_reducible first | apply AccLegal.ok | apply AccLegal.wait | apply AccLegal.bad | apply AccLegal.of_bind | apply AccLegal.foldl
    | with_reducible first | apply OutLegal.next | apply Legal.foldl
    | intro _
    | dsimp only

theorem execVgbits_legal {s0 s : State} (h : Legal s0 s) (p : ProgRef) (err : HwErr) :
    OutLegal s0 (execVgbits p err s) := by
  unfold execVgbits
  repeat' first
    | with_reducible assumption
    | with_reducible first | apply runVec_legal | apply elementwise_legal | apply Legal.parts
    | simp only [Legal.lit]
    | with_reducible first | apply Legal.ite | apply AccLegal.ite
    | split
    | refine Legal.of_bad ‹_› ?_ | refine Legal.of_next ‹_› ?_ | refine Legal.of_ok ‹_› ?_ | refine Legal.of_wait ‹_› ?_
    | with_reducible first | apply AccLegal.ok | apply AccLegal.wait | apply AccLegal.bad | apply AccLegal.of_bind | apply AccLegal.foldl
    | with_reducible first | apply OutLegal.next | apply Legal.foldl
    | intro _
    | dsimp only

theorem execVgunif_legal {s0 s : State} (h : Legal s0 s) (p : ProgRef) (err : HwErr) :
    OutLegal s0 (execVgunif p err s) := by
  unfold execVgunif
  repeat' first
    | with_reducible assumption
    | with_reducible first | apply runVec_legal | apply elementwise_legal | apply Legal.parts
    | simp only [Legal.lit]
    | with_reducible first | apply Legal.ite | apply AccLegal.ite
    | split
    | refine Legal.of_bad ‹_› ?_ | refine Legal.of_next ‹_› ?_ | refine Legal.of_ok ‹_› ?_ | refine Legal.of_wait ‹_› ?_
    | with_reducible first | apply AccLegal.ok | apply AccLegal.wait | apply AccLegal.bad | apply AccLegal.of_bind | apply AccLegal.foldl
    | with_reducible first | apply OutLegal.next | apply Legal.foldl
    | intro _
    | dsimp only

theorem execVgnorm_legal {s0 s : State} (h : Legal s0 s) (p : ProgRef) (err : HwErr) :
    OutLegal s0 (execVgnorm p err s) := by
  unfold execVgnorm
  repeat' first
    | with_reducible assumption
    | with_reducible first | apply runVec_legal | apply elementwise_legal | apply Legal.parts
    | simp only [Legal.lit]
    | with_reducible first | apply Legal.ite | apply AccLegal.ite
    | split
    | refine Legal.of_bad ‹_› ?_ | refine Legal.of_next ‹_› ?_ | refine Legal.of_ok ‹_› ?_ | refine Legal.of_wait ‹_› ?_
    | with_reducible first | apply AccLegal.ok | apply AccLegal.wait | apply AccLegal.bad | apply AccLegal.of_bind | apply AccLegal.foldl
    | with_reducible first | apply OutLegal.next | apply Legal.foldl
    | intro _
    | dsimp only

theorem execVgkeep_legal {s0 s : State} (h : Legal s0 s) (p : ProgRef) (err : HwErr) :
    OutLegal s0 (execVgkeep p err s) := by
  unfold execVgkeep
  repeat' first
    | with_reducible assumption
    | with_reducible first | apply runVec_legal | apply masking_legal | apply Legal.parts
    | simp only [Legal.lit]
    | with_reducible first | apply Legal.ite | apply AccLegal.ite
    | split
    | refine Legal.of_bad ‹_› ?_ | refine Legal.of_next ‹_› ?_ | refine Legal.of_ok ‹_› ?_ | refine Legal.of_wait ‹_› ?_
    | with_reducible first | apply AccLegal.ok | apply AccLegal.wait | apply AccLegal.bad | apply AccLegal.of_bind | apply AccLegal.foldl
    | with_reducible first | apply OutLegal.next | apply Legal.foldl
    | intro _
    | dsimp only

theorem maskOp_legal {s0 s : State} (h : Legal s0 s) (f : Prog → Op → BitVec 64) (p : ProgRef) (_found : Option HwErr) (q : Prog) (o :
      OpSlot) :
    AccLegal s0 (maskOp f p _found s q o) := by
  unfold maskOp
  repeat' first
    | with_reducible assumption
    | with_reducible first | apply setProg_legal | apply Legal.parts
    | simp only [Legal.lit]
    | with_reducible first | apply Legal.ite | apply AccLegal.ite
    | split
    | refine Legal.of_bad ‹_› ?_ | refine Legal.of_ok ‹_› ?_ | refine Legal.of_wait ‹_› ?_
    | with_reducible first | apply AccLegal.ok | apply AccLegal.wait | apply AccLegal.bad | apply AccLegal.of_bind | apply AccLegal.foldl
    | with_reducible first | apply Legal.foldl
    | intro _
    | dsimp only

theorem execMsetn_legal {s0 s : State} (h : Legal s0 s) (p : ProgRef) (err : HwErr) :
    OutLegal s0 (execMsetn p err s) := by
  unfold execMsetn
  repeat' first
    | with_reducible assumption
    | with_reducible first | apply runVec_legal | apply maskOp_legal | apply Legal.parts
    | simp only [Legal.lit]
    | with_reducible first | apply Legal.ite | apply AccLegal.ite
    | split
    | refine Legal.of_bad ‹_› ?_ | refine Legal.of_next ‹_› ?_ | refine Legal.of_ok ‹_› ?_ | refine Legal.of_wait ‹_› ?_
    | with_reducible first | apply AccLegal.ok | apply AccLegal.wait | apply AccLegal.bad | apply AccLegal.of_bind | apply AccLegal.foldl
    | with_reducible first | apply OutLegal.next | apply Legal.foldl
    | intro _
    | dsimp only

theorem execMsetlo_legal {s0 s : State} (h : Legal s0 s) (p : ProgRef) (err : HwErr) :
    OutLegal s0 (execMsetlo p err s) := by
  unfold execMsetlo
  repeat' first
    | with_reducible assumption
    | with_reducible first | apply runVec_legal | apply maskOp_legal | apply Legal.parts
    | simp only [Legal.lit]
    | with_reducible first | apply Legal.ite | apply AccLegal.ite
    | split
    | refine Legal.of_bad ‹_› ?_ | refine Legal.of_next ‹_› ?_ | refine Legal.of_ok ‹_› ?_ | refine Legal.of_wait ‹_› ?_
    | with_reducible first | apply AccLegal.ok | apply AccLegal.wait | apply AccLegal.bad | apply AccLegal.of_bind | apply AccLegal.foldl
    | with_reducible first | apply OutLegal.next | apply Legal.foldl
    | intro _
    | dsimp only

theorem execMsethi_legal {s0 s : State} (h : Legal s0 s) (p : ProgRef) (err : HwErr) :
    OutLegal s0 (execMsethi p err s) := by
  unfold execMsethi
  repeat' first
    | with_reducible assumption
    | with_reducible first | apply runVec_legal | apply maskOp_legal | apply Legal.parts
    | simp only [Legal.lit]
    | with_reducible first | apply Legal.ite | apply AccLegal.ite
    | split
    | refine Legal.of_bad ‹_› ?_ | refine Legal.of_next ‹_› ?_ | refine Legal.of_ok ‹_› ?_ | refine Legal.of_wait ‹_› ?_
    | with_reducible first | apply AccLegal.ok | apply AccLegal.wait | apply AccLegal.bad | apply AccLegal.of_bind | apply AccLegal.foldl
    | with_reducible first | apply OutLegal.next | apply Legal.foldl
    | intro _
    | dsimp only

theorem execMand_legal {s0 s : State} (h : Legal s0 s) (p : ProgRef) (err : HwErr) :
    OutLegal s0 (execMand p err s) := by
  unfold execMand
  repeat' first
    | with_reducible assumption
    | with_reducible first | apply runVec_legal | apply maskOp_legal | apply Legal.parts
    | simp only [Legal.lit]
    | with_reducible first | apply Legal.ite | apply AccLegal.ite
    | split
    | refine Legal.of_bad ‹_› ?_ | refine Legal.of_next ‹_› ?_ | refine Legal.of_ok ‹_› ?_ | refine Legal.of_wait ‹_› ?_
    | with_reducible first | apply AccLegal.ok | apply AccLegal.wait | apply AccLegal.bad | apply AccLegal.of_bind | apply AccLegal.foldl
    | with_reducible first | apply OutLegal.next | apply Legal.foldl
    | intro _
    | dsimp only

theorem execMor_legal {s0 s : State} (h : Legal s0 s) (p : ProgRef) (err : HwErr) :
    OutLegal s0 (execMor p err s) := by
  unfold execMor
  repeat' first
    | with_reducible assumption
    | with_reducible first | apply runVec_legal | apply maskOp_legal | apply Legal.parts
    | simp only [Legal.lit]
    | with_reducible first | apply Legal.ite | apply AccLegal.ite
    | split
    | refine Legal.of_bad ‹_› ?_ | refine Legal.of_next ‹_› ?_ | refine Legal.of_ok ‹_› ?_ | refine Legal.of_wait ‹_› ?_
    | with_reducible first | apply AccLegal.ok | apply AccLegal.wait | apply AccLegal.bad | apply AccLegal.of_bind | apply AccLegal.foldl
    | with_reducible first | apply OutLegal.next | apply Legal.foldl
    | intro _
    | dsimp only

theorem execMxor_legal {s0 s : State} (h : Legal s0 s) (p : ProgRef) (err : HwErr) :
    OutLegal s0 (execMxor p err s) := by
  unfold execMxor
  repeat' first
    | with_reducible assumption
    | with_reducible first | apply runVec_legal | apply maskOp_legal | apply Legal.parts
    | simp only [Legal.lit]
    | with_reducible first | apply Legal.ite | apply AccLegal.ite
    | split
    | refine Legal.of_bad ‹_› ?_ | refine Legal.of_next ‹_› ?_ | refine Legal.of_ok ‹_› ?_ | refine Legal.of_wait ‹_› ?_
    | with_reducible first | apply AccLegal.ok | apply AccLegal.wait | apply AccLegal.bad | apply AccLegal.of_bind | apply AccLegal.foldl
    | with_reducible first | apply OutLegal.next | apply Legal.foldl
    | intro _
    | dsimp only

theorem execMnot_legal {s0 s : State} (h : Legal s0 s) (p : ProgRef) (err : HwErr) :
    OutLegal s0 (execMnot p err s) := by
  unfold execMnot
  repeat' first
    | with_reducible assumption
    | with_reducible first | apply runVec_legal | apply maskOp_legal | apply Legal.parts
    | simp only [Legal.lit]
    | with_reducible first | apply Legal.ite | apply AccLegal.ite
    | split
    | refine Legal.of_bad ‹_› ?_ | refine Legal.of_next ‹_› ?_ | refine Legal.of_ok ‹_› ?_ | refine Legal.of_wait ‹_› ?_
    | with_reducible first | apply AccLegal.ok | apply AccLegal.wait | apply AccLegal.bad | apply AccLegal.of_bind | apply AccLegal.foldl
    | with_reducible first | apply OutLegal.next | apply Legal.foldl
    | intro _
    | dsimp only

theorem mloadEff_legal {s0 s : State} (h : Legal s0 s) (p : ProgRef) (found : Option HwErr) (q : Prog) (o : OpSlot) :
    AccLegal s0 (mloadEff p found s q o) := by
  unfold mloadEff
  repeat' first
    | with_reducible assumption
    | with_reducible first | apply setProg_legal | apply Legal.parts
    | simp only [Legal.lit]
    | with_reducible first | apply Legal.ite | apply AccLegal.ite
    | split
    | refine Legal.of_bad ‹_› ?_ | refine Legal.of_ok ‹_› ?_ | refine Legal.of_wait ‹_› ?_
    | with_reducible first | apply AccLegal.ok | apply AccLegal.wait | apply AccLegal.bad | apply AccLegal.of_bind | apply AccLegal.foldl
    | with_reducible first | apply Legal.foldl
    | intro _
    | dsimp only

theorem execMload_legal {s0 s : State} (h : Legal s0 s) (p : ProgRef) (err : HwErr) :
    OutLegal s0 (execMload p err s) := by
  unfold execMload
  repeat' first
    | with_reducible assumption
    | with_reducible first | apply runVec_legal | apply mloadEff_legal | apply Legal.parts
    | simp only [Legal.lit]
    | with_reducible first | apply Legal.ite | apply AccLegal.ite
    | split
    | refine Legal.of_bad ‹_› ?_ | refine Legal.of_next ‹_› ?_ | refine Legal.of_ok ‹_› ?_ | refine Legal.of_wait ‹_› ?_
    | with_reducible first | apply AccLegal.ok | apply AccLegal.wait | apply AccLegal.bad | apply AccLegal.of_bind | apply AccLegal.foldl
    | with_reducible first | apply OutLegal.next | apply Legal.foldl
    | intro _
    | dsimp only

/-! MatrixArray. -/

theorem azeroEff_legal {s0 s : State} (h : Legal s0 s) (p : ProgRef) (_q : Prog) (o : OpSlot) :
    AccLegal s0 (azeroEff p s _q o) := by
  unfold azeroEff
  repeat' first
    | with_reducible assumption
    | with_reducible first | apply setCore_legal | apply Legal.parts
    | simp only [Legal.lit]
    | with_reducible first | apply Legal.ite | apply AccLegal.ite
    | split
    | refine Legal.of_bad ‹_› ?_ | refine Legal.of_ok ‹_› ?_ | refine Legal.of_wait ‹_› ?_
    | with_reducible first | apply AccLegal.ok | apply AccLegal.wait | apply AccLegal.bad | apply AccLegal.of_bind | apply AccLegal.foldl
    | with_reducible first | apply Legal.foldl
    | intro _
    | dsimp only

theorem execAzero_legal {s0 s : State} (h : Legal s0 s) (p : ProgRef) (err : HwErr) :
    OutLegal s0 (execAzero p err s) := by
  unfold execAzero
  repeat' first
    | with_reducible assumption
    | with_reducible first | apply runOp_legal | apply whole_legal | apply azeroEff_legal | apply Legal.parts
    | simp only [Legal.lit]
    | with_reducible first | apply Legal.ite | apply AccLegal.ite
    | split
    | refine Legal.of_bad ‹_› ?_ | refine Legal.of_next ‹_› ?_ | refine Legal.of_ok ‹_› ?_ | refine Legal.of_wait ‹_› ?_
    | with_reducible first | apply AccLegal.ok | apply AccLegal.wait | apply AccLegal.bad | apply AccLegal.of_bind | apply AccLegal.foldl
    | with_reducible first | apply OutLegal.next | apply Legal.foldl
    | intro _
    | dsimp only

theorem aloadEff_legal {s0 s : State} (h : Legal s0 s) (p : ProgRef) (q : Prog) (o : OpSlot) :
    AccLegal s0 (aloadEff p s q o) := by
  unfold aloadEff
  repeat' first
    | with_reducible assumption
    | with_reducible first | apply setCore_legal | apply Legal.parts
    | simp only [Legal.lit]
    | with_reducible first | apply Legal.ite | apply AccLegal.ite
    | split
    | refine Legal.of_bad ‹_› ?_ | refine Legal.of_ok ‹_› ?_ | refine Legal.of_wait ‹_› ?_
    | with_reducible first | apply AccLegal.ok | apply AccLegal.wait | apply AccLegal.bad | apply AccLegal.of_bind | apply AccLegal.foldl
    | with_reducible first | apply Legal.foldl
    | intro _
    | dsimp only

theorem execAload_legal {s0 s : State} (h : Legal s0 s) (p : ProgRef) (err : HwErr) :
    OutLegal s0 (execAload p err s) := by
  unfold execAload
  repeat' first
    | with_reducible assumption
    | with_reducible first | apply runOp_legal | apply whole_legal | apply aloadEff_legal | apply Legal.parts
    | simp only [Legal.lit]
    | with_reducible first | apply Legal.ite | apply AccLegal.ite
    | split
    | refine Legal.of_bad ‹_› ?_ | refine Legal.of_next ‹_› ?_ | refine Legal.of_ok ‹_› ?_ | refine Legal.of_wait ‹_› ?_
    | with_reducible first | apply AccLegal.ok | apply AccLegal.wait | apply AccLegal.bad | apply AccLegal.of_bind | apply AccLegal.foldl
    | with_reducible first | apply OutLegal.next | apply Legal.foldl
    | intro _
    | dsimp only

theorem aswapEff_legal {s0 s : State} (h : Legal s0 s) (p : ProgRef) (_q : Prog) (_o : OpSlot) :
    AccLegal s0 (aswapEff p s _q _o) := by
  unfold aswapEff
  repeat' first
    | with_reducible assumption
    | with_reducible first | apply setCore_legal | apply Legal.parts
    | simp only [Legal.lit]
    | with_reducible first | apply Legal.ite | apply AccLegal.ite
    | split
    | refine Legal.of_bad ‹_› ?_ | refine Legal.of_ok ‹_› ?_ | refine Legal.of_wait ‹_› ?_
    | with_reducible first | apply AccLegal.ok | apply AccLegal.wait | apply AccLegal.bad | apply AccLegal.of_bind | apply AccLegal.foldl
    | with_reducible first | apply Legal.foldl
    | intro _
    | dsimp only

theorem execAswap_legal {s0 s : State} (h : Legal s0 s) (p : ProgRef) (err : HwErr) :
    OutLegal s0 (execAswap p err s) := by
  unfold execAswap
  repeat' first
    | with_reducible assumption
    | with_reducible first | apply runOp_legal | apply whole_legal | apply aswapEff_legal | apply Legal.parts
    | simp only [Legal.lit]
    | with_reducible first | apply Legal.ite | apply AccLegal.ite
    | split
    | refine Legal.of_bad ‹_› ?_ | refine Legal.of_next ‹_› ?_ | refine Legal.of_ok ‹_› ?_ | refine Legal.of_wait ‹_› ?_
    | with_reducible first | apply AccLegal.ok | apply AccLegal.wait | apply AccLegal.bad | apply AccLegal.of_bind | apply AccLegal.foldl
    | with_reducible first | apply OutLegal.next | apply Legal.foldl
    | intro _
    | dsimp only

theorem astreamEff_legal {s0 s : State} (h : Legal s0 s) (p : ProgRef) (found : Option HwErr) (q : Prog) (o : OpSlot) :
    AccLegal s0 (astreamEff p found s q o) := by
  unfold astreamEff
  repeat' first
    | with_reducible assumption
    | with_reducible first | apply setCore_legal | apply Legal.parts
    | simp only [Legal.lit]
    | with_reducible first | apply Legal.ite | apply AccLegal.ite
    | split
    | refine Legal.of_bad ‹_› ?_ | refine Legal.of_ok ‹_› ?_ | refine Legal.of_wait ‹_› ?_
    | with_reducible first | apply AccLegal.ok | apply AccLegal.wait | apply AccLegal.bad | apply AccLegal.of_bind | apply AccLegal.foldl
    | with_reducible first | apply Legal.foldl
    | intro _
    | dsimp only

theorem execAstream_legal {s0 s : State} (h : Legal s0 s) (p : ProgRef) (err : HwErr) :
    OutLegal s0 (execAstream p err s) := by
  unfold execAstream
  repeat' first
    | with_reducible assumption
    | with_reducible first | apply runOp_legal | apply astreamEff_legal | apply Legal.parts
    | simp only [Legal.lit]
    | with_reducible first | apply Legal.ite | apply AccLegal.ite
    | split
    | refine Legal.of_bad ‹_› ?_ | refine Legal.of_next ‹_› ?_ | refine Legal.of_ok ‹_› ?_ | refine Legal.of_wait ‹_› ?_
    | with_reducible first | apply AccLegal.ok | apply AccLegal.wait | apply AccLegal.bad | apply AccLegal.of_bind | apply AccLegal.foldl
    | with_reducible first | apply OutLegal.next | apply Legal.foldl
    | intro _
    | dsimp only

theorem adrainEff_legal {s0 s : State} (h : Legal s0 s) (p : ProgRef) (found : Option HwErr) (q : Prog) (o : OpSlot) :
    AccLegal s0 (adrainEff p found s q o) := by
  unfold adrainEff
  repeat' first
    | with_reducible assumption
    | with_reducible first | apply setCore_legal | apply Legal.parts
    | with_reducible first | apply Legal.ite | apply AccLegal.ite
    | split
    | refine Legal.of_bad ‹_› ?_ | refine Legal.of_ok ‹_› ?_ | refine Legal.of_wait ‹_› ?_
    | with_reducible first | apply AccLegal.ok | apply AccLegal.wait | apply AccLegal.bad | apply AccLegal.of_bind | apply AccLegal.foldl
    | with_reducible first | apply Legal.foldl
    | intro _
    | dsimp only

theorem execAdrain_legal {s0 s : State} (h : Legal s0 s) (p : ProgRef) (err : HwErr) :
    OutLegal s0 (execAdrain p err s) := by
  unfold execAdrain
  repeat' first
    | with_reducible assumption
    | with_reducible first | apply runOp_legal | apply adrainEff_legal | apply Legal.parts
    | simp only [Legal.lit]
    | with_reducible first | apply Legal.ite | apply AccLegal.ite
    | split
    | refine Legal.of_bad ‹_› ?_ | refine Legal.of_next ‹_› ?_ | refine Legal.of_ok ‹_› ?_ | refine Legal.of_wait ‹_› ?_
    | with_reducible first | apply AccLegal.ok | apply AccLegal.wait | apply AccLegal.bad | apply AccLegal.of_bind | apply AccLegal.foldl
    | with_reducible first | apply OutLegal.next | apply Legal.foldl
    | intro _
    | dsimp only

/-! StepEnd. -/

theorem cswWork_legal {s0 s : State} (h : Legal s0 s) :
    AccLegal s0 (cswWork s) := by
  unfold cswWork
  repeat' first
    | with_reducible assumption
    | with_reducible first | apply devRead_legal | apply devWrite_legal | apply useFree_legal | apply Legal.parts
    | simp only [Legal.lit]
    | with_reducible first | apply Legal.ite | apply AccLegal.ite
    | split
    | refine Legal.of_bad ‹_› ?_ | refine Legal.of_ok ‹_› ?_ | refine Legal.of_wait ‹_› ?_
    | with_reducible first | apply AccLegal.ok | apply AccLegal.wait | apply AccLegal.bad | apply AccLegal.of_bind | apply AccLegal.foldl
    | with_reducible first | apply Legal.foldl
    | intro _
    | dsimp only

theorem endOne_legal {s0 s : State} (h : Legal s0 s) (p : ProgRef) (t : StepRec) :
    Legal s0 (endOne s p t) := by
  unfold endOne
  repeat' first
    | with_reducible assumption
    | with_reducible first | apply freeHalf_legal | apply setStep_legal | apply Legal.parts
    | simp only [Legal.lit]
    | with_reducible first | apply Legal.ite
    | split
    | with_reducible first | apply Legal.foldl
    | intro _
    | dsimp only

theorem lastWork_legal {s0 s : State} (h : Legal s0 s) (t : StepRec) :
    AccLegal s0 (lastWork s t) := by
  unfold lastWork
  repeat' first
    | with_reducible assumption
    | with_reducible first | apply cswWork_legal | apply cvaRead_legal | apply endHost_legal | apply Legal.parts
    | simp only [Legal.lit]
    | with_reducible first | apply Legal.ite | apply AccLegal.ite
    | split
    | refine Legal.of_bad ‹_› ?_ | refine Legal.of_ok ‹_› ?_ | refine Legal.of_wait ‹_› ?_
    | with_reducible first | apply AccLegal.ok | apply AccLegal.wait | apply AccLegal.bad | apply AccLegal.of_bind | apply AccLegal.foldl
    | with_reducible first | apply Legal.foldl
    | intro _
    | dsimp only

theorem chargeStep_legal {s0 s : State} (h : Legal s0 s) (ctx : Nat) (code : Nat) (addr : Nat) :
    Legal s0 (chargeStep s ctx code addr) := by
  unfold chargeStep
  repeat' first
    | with_reducible assumption
    | with_reducible first | apply charge_legal | apply Legal.parts
    | simp only [Legal.lit]
    | with_reducible first | apply Legal.ite
    | split
    | with_reducible first | apply Legal.foldl
    | intro _
    | dsimp only

theorem endStep_legal {s0 s : State} (h : Legal s0 s) (p : ProgRef) (t : StepRec) :
    Legal s0 (endStep s p t) := by
  unfold endStep
  repeat' first
    | with_reducible assumption
    | with_reducible first | apply lastWork_legal | apply chargeStep_legal | apply endOne_legal | apply closeStep_legal | apply Legal.parts
    | simp only [Legal.lit]
    | with_reducible first | apply Legal.ite | apply AccLegal.ite
    | split
    | refine Legal.of_bad ‹_› ?_ | refine Legal.of_ok ‹_› ?_ | refine Legal.of_wait ‹_› ?_
    | with_reducible first | apply AccLegal.ok | apply AccLegal.wait | apply AccLegal.bad | apply AccLegal.of_bind | apply AccLegal.foldl
    | with_reducible first | apply Legal.foldl
    | intro _
    | dsimp only

theorem execEndProg_legal {s0 s : State} (h : Legal s0 s) (p : ProgRef) :
    OutLegal s0 (execEndProg p s) := by
  unfold execEndProg
  repeat' first
    | with_reducible assumption
    | with_reducible first | apply freeHalf_legal | apply endStep_legal | apply endOne_legal | apply Legal.parts
    | simp only [Legal.lit]
    | with_reducible first | apply Legal.ite
    | split
    | refine Legal.of_next ‹_› ?_
    | with_reducible first | apply OutLegal.next | apply Legal.foldl
    | intro _
    | dsimp only

/-! Scheduler. -/

theorem wakeBy_legal {s0 s : State} (h : Legal s0 s) (dark : Bool) :
    Legal s0 (wakeBy dark s) := by
  unfold wakeBy
  repeat' first
    | with_reducible assumption
    | with_reducible first | apply bump_legal | apply Legal.parts
    | simp only [Legal.lit]
    | with_reducible first | apply Legal.ite
    | split
    | with_reducible first | apply Legal.foldl
    | intro _
    | dsimp only

theorem imageRead_legal {s0 s : State} (h : Legal s0 s) (m : Model) (off : Nat) (n : Nat) :
    AccLegal s0 (imageRead s m off n) := by
  unfold imageRead
  repeat' first
    | with_reducible assumption
    | with_reducible first | apply cvaRead_legal | apply Legal.parts
    | simp only [Legal.lit]
    | with_reducible first | apply Legal.ite | apply AccLegal.ite
    | split
    | refine Legal.of_bad ‹_› ?_ | refine Legal.of_ok ‹_› ?_ | refine Legal.of_wait ‹_› ?_
    | with_reducible first | apply AccLegal.ok | apply AccLegal.wait | apply AccLegal.bad | apply AccLegal.of_bind | apply AccLegal.foldl
    | intro _
    | dsimp only

theorem stepEntry_legal {s0 s : State} (h : Legal s0 s) (m : Model) (stepno : Nat) :
    AccLegal s0 (stepEntry s m stepno) := by
  unfold stepEntry
  repeat' first
    | with_reducible assumption
    | with_reducible first | apply imageRead_legal | apply Legal.parts
    | simp only [Legal.lit]
    | with_reducible first | apply Legal.ite | apply AccLegal.ite
    | split
    | refine Legal.of_bad ‹_› ?_ | refine Legal.of_ok ‹_› ?_ | refine Legal.of_wait ‹_› ?_
    | with_reducible first | apply AccLegal.ok | apply AccLegal.wait | apply AccLegal.bad | apply AccLegal.of_bind | apply AccLegal.foldl
    | intro _
    | dsimp only

theorem progRec_legal {s0 s : State} (h : Legal s0 s) (m : Model) (ent : BitVec 512) (i : Nat) :
    AccLegal s0 (progRec s m ent i) := by
  unfold progRec
  repeat' first
    | with_reducible assumption
    | with_reducible first | apply imageRead_legal | apply Legal.parts
    | simp only [Legal.lit]
    | with_reducible first | apply Legal.ite | apply AccLegal.ite
    | split
    | refine Legal.of_bad ‹_› ?_ | refine Legal.of_ok ‹_› ?_ | refine Legal.of_wait ‹_› ?_
    | with_reducible first | apply AccLegal.ok | apply AccLegal.wait | apply AccLegal.bad | apply AccLegal.of_bind | apply AccLegal.foldl
    | intro _
    | dsimp only

theorem loadParts_legal {s0 s : State} (h : Legal s0 s) (m : Model) (r : BitVec 256) :
    AccLegal s0 (loadParts s m r) := by
  unfold loadParts
  repeat' first
    | with_reducible assumption
    | with_reducible first | apply imageRead_legal | apply Legal.parts
    | simp only [Legal.lit]
    | with_reducible first | apply Legal.ite | apply AccLegal.ite
    | split
    | refine Legal.of_bad ‹_› ?_ | refine Legal.of_ok ‹_› ?_ | refine Legal.of_wait ‹_› ?_
    | with_reducible first | apply AccLegal.ok | apply AccLegal.wait | apply AccLegal.bad | apply AccLegal.of_bind | apply AccLegal.foldl
    | intro _
    | dsimp only

theorem giveSlot_legal {s0 s : State} (h : Legal s0 s) (t : StepRec) (x : Nat × Nat × Bool) :
    Legal s0 (giveSlot t s x) := by
  unfold giveSlot
  repeat' first
    | with_reducible assumption
    | with_reducible first | apply setCore_legal | apply Legal.parts
    | simp only [Legal.lit]
    | with_reducible first | apply Legal.ite
    | split
    | with_reducible first | apply Legal.foldl
    | intro _
    | dsimp only

theorem placeStep_legal {s0 s : State} (h : Legal s0 s) (t : StepRec) (xs : List (Nat × Bool)) :
    Legal s0 (placeStep s t xs) := by
  unfold placeStep
  repeat' first
    | with_reducible assumption
    | with_reducible first | apply setStep_legal | apply giveSlot_legal | apply Legal.parts
    | simp only [Legal.lit]
    | with_reducible first | apply Legal.ite
    | split
    | with_reducible first | apply Legal.foldl
    | intro _
    | dsimp only

theorem markVictim_legal {s0 s : State} (h : Legal s0 s) (v : StepRec) :
    Legal s0 (markVictim s v) := by
  unfold markVictim
  repeat' first
    | with_reducible assumption
    | with_reducible first | apply setStep_legal | apply setProg_legal | apply Legal.parts
    | simp only [Legal.lit]
    | with_reducible first | apply Legal.ite
    | split
    | with_reducible first | apply Legal.foldl
    | intro _
    | dsimp only

theorem preemptFor_legal {s0 s : State} (h : Legal s0 s) (t : StepRec) (cands : List StepRec) :
    Legal s0 (preemptFor s t cands) := by
  unfold preemptFor
  repeat' first
    | with_reducible assumption
    | with_reducible first | apply markVictim_legal | apply Legal.parts
    | simp only [Legal.lit]
    | with_reducible first | apply Legal.ite
    | split
    | with_reducible first | apply Legal.foldl
    | intro _
    | dsimp only

theorem placeAll_legal {s0 : State} : ∀ (a : Nat) {x1 : State} (_ : Legal s0 x1),
    Legal s0 (placeAll a x1) := by
  intro a
  induction a with
  | zero =>
    intro x1 h_x1
    unfold placeAll
    repeat' first
      | with_reducible assumption
      | with_reducible first | apply placeStep_legal | apply preemptFor_legal | apply Legal.parts
      | simp only [Legal.lit]
      | with_reducible first | apply Legal.ite
      | split
      | with_reducible first | apply Legal.foldl
      | intro _
      | dsimp only
  | succ _ ih =>
    intro x1 h_x1
    unfold placeAll
    repeat' first
      | with_reducible assumption
      | with_reducible first | apply ih | apply placeStep_legal | apply preemptFor_legal | apply Legal.parts
      | simp only [Legal.lit]
      | with_reducible first | apply Legal.ite
      | split
      | with_reducible first | apply Legal.foldl
      | intro _
      | dsimp only

theorem execPlacement_legal {s0 s : State} (h : Legal s0 s) :
    OutLegal s0 (execPlacement s) := by
  unfold execPlacement
  repeat' first
    | with_reducible assumption
    | with_reducible first | apply placeAll_legal | apply Legal.parts
    | simp only [Legal.lit]
    | with_reducible first | apply Legal.ite
    | split
    | refine Legal.of_next ‹_› ?_
    | with_reducible first | apply OutLegal.next | apply Legal.foldl
    | intro _
    | dsimp only

theorem execPreemptPatienceExpiry_legal {s0 s : State} (h : Legal s0 s) :
    OutLegal s0 (execPreemptPatienceExpiry s) := by
  unfold execPreemptPatienceExpiry
  repeat' first
    | with_reducible assumption
    | with_reducible first | apply preemptFor_legal | apply Legal.parts
    | simp only [Legal.lit]
    | with_reducible first | apply Legal.ite
    | split
    | refine Legal.of_next ‹_› ?_
    | with_reducible first | apply OutLegal.next | apply Legal.foldl
    | intro _
    | dsimp only

theorem execBlockSwapExpiry_legal {s0 s : State} (h : Legal s0 s) :
    OutLegal s0 (execBlockSwapExpiry s) := by
  unfold execBlockSwapExpiry
  repeat' first
    | with_reducible assumption
    | with_reducible first | apply preemptFor_legal | apply Legal.parts
    | simp only [Legal.lit]
    | with_reducible first | apply Legal.ite
    | split
    | refine Legal.of_next ‹_› ?_
    | with_reducible first | apply OutLegal.next | apply Legal.foldl
    | intro _
    | dsimp only

theorem filter_legal {s0 s : State} (h : Legal s0 s) (p : Nat × Byte → Bool) (q : Nat × Bool → Bool) :
    Legal s0 { s with mem := s.mem.filter p, poison := s.poison.filter q } :=
  ⟨h.queue, h.fuses, fun x => by
    have := h.mem x
    simp only [memWf, Bool.and_eq_true] at this ⊢
    exact ⟨twf_filter p _ this.1, twf_filter q _ this.2⟩, h.sent, h.free, h.uid⟩

theorem wipe_legal {s0 s : State} (h : Legal s0 s) (a n : Nat) : Legal s0 (wipe s a n) := by
  unfold wipe
  exact filter_legal (Legal.foldl (fun _ l ht => invalidate_legal ht l) _ h) _ _

theorem readyRange_legal {s0 s : State} (h : Legal s0 s) (a : Nat) (n : Nat) :
    OptLegal s0 (readyRange s a n) := by
  unfold readyRange
  repeat' first
    | with_reducible assumption
    | with_reducible first | apply readyLines_legal | apply Legal.parts
    | simp only [Legal.lit]
    | with_reducible first | apply Legal.ite
    | split
    | refine Legal.of_some ‹_› ?_
    | with_reducible first | apply OptLegal.none | apply OptLegal.some | apply OptLegal.mapS | apply OptLegal.map | apply OptLegal.bind
    | with_reducible first | apply OptLegal.getD
    | intro _
    | dsimp only

theorem writeSlot_legal {s0 s : State} (h : Legal s0 s) (set : Nat) (p : ProgRef) :
    Legal s0 (writeSlot s set p) := by
  unfold writeSlot
  repeat' first
    | with_reducible assumption
    | with_reducible first | apply wipe_legal | apply memWrite_legal | apply useFree_legal | apply sealBlocks_legal | apply Legal.parts
    | simp only [Legal.lit]
    | with_reducible first | apply Legal.ite
    | split
    | with_reducible first | apply Legal.foldl
    | intro _
    | dsimp only

theorem writeHeader_legal {s0 s : State} (h : Legal s0 s) (set : Nat) (t : StepRec) :
    Legal s0 (writeHeader s set t) := by
  unfold writeHeader
  repeat' first
    | with_reducible assumption
    | with_reducible first | apply wipe_legal | apply sealBlocks_legal | apply useFree_legal | apply memWrite_legal | apply Legal.parts
    | simp only [Legal.lit]
    | with_reducible first | apply Legal.ite
    | split
    | with_reducible first | apply Legal.foldl
    | intro _
    | dsimp only

theorem preemptAbort_legal {s0 s : State} (h : Legal s0 s) (ctx : Nat) (restore : Bool) (ppa : Nat) :
    Legal s0 (preemptAbort s ctx restore ppa) := by
  unfold preemptAbort
  repeat' first
    | with_reducible assumption
    | with_reducible first | apply charge_legal | apply logOnce_legal | apply Legal.parts
    | simp only [Legal.lit]
    | with_reducible first | apply Legal.ite
    | split
    | with_reducible first | apply Legal.foldl
    | intro _
    | dsimp only

theorem flushRuns_legal {s0 s : State} (h : Legal s0 s) (p : ProgRef) :
    Legal s0 (flushRuns s p) := by
  unfold flushRuns
  repeat' first
    | with_reducible assumption
    | with_reducible first | apply completeHead_legal | apply Legal.parts
    | simp only [Legal.lit]
    | with_reducible first | apply Legal.ite
    | split
    | with_reducible first | apply Legal.foldl
    | intro _
    | dsimp only

theorem flushPend_legal {s0 : State} : ∀ (a : Nat) {x1 : State} (_ : Legal s0 x1) (x2 : ProgRef),
    Legal s0 (flushPend a x1 x2) := by
  intro a
  induction a with
  | zero =>
    intro x1 h_x1 x2
    unfold flushPend
    repeat' first
      | with_reducible assumption
      | with_reducible first | apply giveSig_legal | apply setProg_legal | apply Legal.parts
      | simp only [Legal.lit]
      | with_reducible first | apply Legal.ite
      | split
      | with_reducible first | apply Legal.foldl
      | intro _
      | dsimp only
  | succ _ ih =>
    intro x1 h_x1 x2
    unfold flushPend
    repeat' first
      | with_reducible assumption
      | with_reducible first | apply ih | apply giveSig_legal | apply setProg_legal | apply Legal.parts
      | simp only [Legal.lit]
      | with_reducible first | apply Legal.ite
      | split
      | with_reducible first | apply Legal.foldl
      | intro _
      | dsimp only

theorem flushRemote_legal {s0 s : State} (h : Legal s0 s) (t : StepRec) :
    Legal s0 (flushRemote s t) := by
  unfold flushRemote
  repeat' first
    | with_reducible assumption
    | with_reducible first | apply addTallyOf_legal | apply Legal.parts
    | simp only [Legal.lit]
    | with_reducible first | apply Legal.ite
    | split
    | with_reducible first | apply Legal.foldl
    | intro _
    | dsimp only

theorem saveStep_legal {s0 s : State} (h : Legal s0 s) (t : StepRec) :
    Legal s0 (saveStep s t) := by
  unfold saveStep
  repeat' first
    | with_reducible assumption
    | with_reducible first | apply flushRuns_legal | apply flushPend_legal | apply flushRemote_legal | apply writeHeader_legal | apply writeSlot_legal
    | with_reducible first | apply freeHalf_legal | apply setStep_legal | apply setCtx_legal | apply Legal.parts
    | simp only [Legal.lit]
    | with_reducible first | apply Legal.ite
    | split
    | with_reducible first | apply Legal.foldl
    | intro _
    | dsimp only

theorem execPreemptSave_legal {s0 s : State} (h : Legal s0 s) (ctx : Nat) (bad : Option Nat) :
    OutLegal s0 (execPreemptSave ctx bad s) := by
  unfold execPreemptSave
  repeat' first
    | with_reducible assumption
    | with_reducible first | apply preemptAbort_legal | apply readyRange_legal | apply saveStep_legal | apply Legal.parts
    | simp only [Legal.lit]
    | with_reducible first | apply Legal.ite
    | split
    | refine Legal.of_next ‹_› ?_ | refine Legal.of_some ‹_› ?_
    | with_reducible first | apply OutLegal.next | apply OptLegal.none | apply OptLegal.some | apply OptLegal.mapS | apply OptLegal.map
    | with_reducible first | apply OptLegal.bind | apply OptLegal.getD | apply Legal.foldl
    | intro _
    | dsimp only

theorem loadAll_legal {s0 : State} : ∀ (x3 : List Nat) (m : Model) (ent : BitVec 512) {a : State} (_ : Legal s0 a),
    AccLegal s0 (loadAll m ent a x3) := by
  intro x3
  induction x3 with
  | nil =>
    intro m ent a h_a
    unfold loadAll
    repeat' first
      | with_reducible assumption
      | with_reducible first | apply progRec_legal | apply loadParts_legal | apply Legal.parts
      | simp only [Legal.lit]
      | with_reducible first | apply Legal.ite | apply AccLegal.ite
      | split
      | refine Legal.of_bad ‹_› ?_ | refine Legal.of_ok ‹_› ?_ | refine Legal.of_wait ‹_› ?_
      | with_reducible first | apply AccLegal.ok | apply AccLegal.wait | apply AccLegal.bad | apply AccLegal.of_bind | apply AccLegal.foldl
      | intro _
      | dsimp only
  | cons _ _ ih =>
    intro m ent a h_a
    unfold loadAll
    repeat' first
      | with_reducible assumption
      | with_reducible first | apply ih | apply progRec_legal | apply loadParts_legal | apply Legal.parts
      | simp only [Legal.lit]
      | with_reducible first | apply Legal.ite | apply AccLegal.ite
      | split
      | refine Legal.of_bad ‹_› ?_ | refine Legal.of_ok ‹_› ?_ | refine Legal.of_wait ‹_› ?_
      | with_reducible first | apply AccLegal.ok | apply AccLegal.wait | apply AccLegal.bad | apply AccLegal.of_bind | apply AccLegal.foldl
      | intro _
      | dsimp only

theorem programsOf_legal {s0 s : State} (h : Legal s0 s) (t : StepRec) :
    AccLegal s0 (programsOf s t) := by
  unfold programsOf
  repeat' first
    | with_reducible assumption
    | with_reducible first | apply stepEntry_legal | apply loadAll_legal | apply Legal.parts
    | simp only [Legal.lit]
    | with_reducible first | apply Legal.ite | apply AccLegal.ite
    | split
    | refine Legal.of_bad ‹_› ?_ | refine Legal.of_ok ‹_› ?_ | refine Legal.of_wait ‹_› ?_
    | with_reducible first | apply AccLegal.ok | apply AccLegal.wait | apply AccLegal.bad | apply AccLegal.of_bind | apply AccLegal.foldl
    | intro _
    | dsimp only

theorem checkSet_legal {s0 s : State} (h : Legal s0 s) (t : StepRec) :
    AccLegal s0 (checkSet s t) := by
  unfold checkSet
  repeat' first
    | with_reducible assumption
    | with_reducible first | apply checkBlocks_legal | apply Legal.parts
    | simp only [Legal.lit]
    | with_reducible first | apply Legal.ite | apply AccLegal.ite
    | split
    | refine Legal.of_bad ‹_› ?_ | refine Legal.of_ok ‹_› ?_ | refine Legal.of_wait ‹_› ?_
    | with_reducible first | apply AccLegal.ok | apply AccLegal.wait | apply AccLegal.bad | apply AccLegal.of_bind | apply AccLegal.foldl
    | intro _
    | dsimp only

theorem releaseOne_legal {s0 s : State} (h : Legal s0 s) (t : StepRec) (x : Nat × List (BitVec 128) × List (BitVec 256) × List (BitVec
      128)) :
    Legal s0 (releaseOne t s x) := by
  unfold releaseOne
  repeat' first
    | with_reducible assumption
    | with_reducible first | apply setCore_legal | apply setProg_legal | apply Legal.parts
    | simp only [Legal.lit]
    | with_reducible first | apply Legal.ite
    | split
    | with_reducible first | apply Legal.foldl
    | intro _
    | dsimp only

theorem releaseStep_legal {s0 s : State} (h : Legal s0 s) (t : StepRec) (ps : List (Nat × List (BitVec 128) × List (BitVec 256) × List
      (BitVec 128))) :
    Legal s0 (releaseStep s t ps) := by
  unfold releaseStep
  repeat' first
    | with_reducible assumption
    | with_reducible first | apply releaseOne_legal | apply setStep_legal | apply setCswStatus_legal | apply Legal.parts
    | simp only [Legal.lit]
    | with_reducible first | apply Legal.ite
    | split
    | with_reducible first | apply Legal.foldl
    | intro _
    | dsimp only

theorem execStepRelease_legal {s0 s : State} (h : Legal s0 s) (ctx : Nat) :
    OutLegal s0 (execStepRelease ctx s) := by
  unfold execStepRelease
  repeat' first
    | with_reducible assumption
    | with_reducible first | apply programsOf_legal | apply chargeStep_legal | apply endHost_legal | apply releaseStep_legal | apply checkSet_legal
    | with_reducible first | apply preemptAbort_legal | apply Legal.parts
    | simp only [Legal.lit]
    | with_reducible first | apply Legal.ite | apply AccLegal.ite
    | split
    | refine Legal.of_bad ‹_› ?_ | refine Legal.of_next ‹_› ?_ | refine Legal.of_ok ‹_› ?_ | refine Legal.of_wait ‹_› ?_
    | with_reducible first | apply AccLegal.ok | apply AccLegal.wait | apply AccLegal.bad | apply AccLegal.of_bind | apply AccLegal.foldl
    | with_reducible first | apply OutLegal.next | apply Legal.foldl
    | intro _
    | dsimp only

theorem unpin_legal {s0 s : State} (h : Legal s0 s) (n : Nat) :
    Legal s0 (unpin s n) := by
  unfold unpin
  repeat' first
    | with_reducible assumption
    | with_reducible first | apply Legal.parts
    | simp only [Legal.lit]
    | with_reducible first | apply Legal.ite
    | split
    | with_reducible first | apply Legal.foldl
    | intro _
    | dsimp only

theorem removeRing_legal {s0 s : State} (h : Legal s0 s) (n : Nat) :
    Legal s0 (removeRing s n) := by
  unfold removeRing
  repeat' first
    | with_reducible assumption
    | with_reducible first | apply unpin_legal | apply devSend_legal | apply Legal.parts
    | simp only [Legal.lit]
    | with_reducible first | apply Legal.ite
    | split
    | with_reducible first | apply Legal.foldl
    | intro _
    | dsimp only

theorem showOpen_legal {s0 s : State} (h : Legal s0 s) (reason : Nat) :
    Legal s0 (showOpen s reason) := by
  unfold showOpen
  repeat' first
    | with_reducible assumption
    | with_reducible first | apply setField_legal | apply Legal.parts
    | simp only [Legal.lit]
    | with_reducible first | apply Legal.ite
    | split
    | with_reducible first | apply Legal.foldl
    | intro _
    | dsimp only

theorem setupCtx_legal {s0 s : State} (h : Legal s0 s) (ctx : Nat) (profile : Nat) (pt4 : Nat) :
    Legal s0 (setupCtx s ctx profile pt4) := by
  unfold setupCtx
  repeat' first
    | with_reducible assumption
    | with_reducible first | apply removeRing_legal | apply setCtx_legal | apply flushTlb_legal | apply setSe_legal | apply Legal.parts
    | simp only [Legal.lit]
    | with_reducible first | apply Legal.ite
    | split
    | with_reducible first | apply Legal.foldl
    | intro _
    | dsimp only

theorem openSlot_legal {s0 s : State} (h : Legal s0 s) (ctx : Nat) (data : Nat) :
    Legal s0 (openSlot s ctx data) := by
  unfold openSlot
  repeat' first
    | with_reducible assumption
    | with_reducible first | apply setCtx_legal | apply showOpen_legal | apply setupCtx_legal | apply Legal.parts
    | simp only [Legal.lit]
    | with_reducible first | apply Legal.ite
    | split
    | with_reducible first | apply Legal.foldl
    | intro _
    | dsimp only

theorem takeOpen_legal {s0 s : State} (h : Legal s0 s) (ctx : Nat) :
    Legal s0 (takeOpen s ctx) := by
  unfold takeOpen
  repeat' first
    | with_reducible assumption
    | with_reducible first | apply openSlot_legal | apply Legal.parts
    | simp only [Legal.lit]
    | with_reducible first | apply Legal.ite
    | split
    | with_reducible first | apply Legal.foldl
    | intro _
    | dsimp only

theorem freeSlot_legal {s0 s : State} (h : Legal s0 s) (ctx : Nat) :
    Legal s0 (freeSlot s ctx) := by
  unfold freeSlot
  repeat' first
    | with_reducible assumption
    | with_reducible first | apply removeRing_legal | apply setCtx_legal | apply report_legal | apply flushTlb_legal | apply takeOpen_legal
    | with_reducible first | apply Legal.parts
    | simp only [Legal.lit]
    | with_reducible first | apply Legal.ite
    | split
    | with_reducible first | apply Legal.foldl
    | intro _
    | dsimp only

theorem resetRegs_legal {s0 s : State} (h : Legal s0 s) (p : Nat → Bool) :
    Legal s0 (resetRegs s p) := by
  unfold resetRegs
  repeat' first
    | with_reducible assumption
    | with_reducible first | apply Legal.parts
    | simp only [Legal.lit]
    | with_reducible first | apply Legal.ite
    | split
    | with_reducible first | apply Legal.foldl
    | intro _
    | dsimp only

theorem resetCore_legal {s0 s : State} (h : Legal s0 s) (c : Nat) :
    Legal s0 (resetCore s c) := by
  unfold resetCore
  repeat' first
    | with_reducible assumption
    | with_reducible first | apply resetRegs_legal | apply reseed_legal | apply Legal.parts
    | simp only [Legal.lit]
    | with_reducible first | apply Legal.ite
    | split
    | with_reducible first | apply Legal.foldl
    | intro _
    | dsimp only

theorem resetAfter_legal {s0 s : State} (h : Legal s0 s) (ctx : Nat) :
    Legal s0 (resetAfter s ctx) := by
  unfold resetAfter
  repeat' first
    | with_reducible assumption
    | with_reducible first | apply resetCore_legal | apply Legal.parts
    | simp only [Legal.lit]
    | with_reducible first | apply Legal.ite
    | split
    | with_reducible first | apply Legal.foldl
    | intro _
    | dsimp only

theorem execTeardownComplete_legal {s0 s : State} (h : Legal s0 s) (ctx : Nat) :
    OutLegal s0 (execTeardownComplete ctx s) := by
  unfold execTeardownComplete
  repeat' first
    | with_reducible assumption
    | with_reducible first | apply takeOpen_legal | apply setCtx_legal | apply resetAfter_legal | apply freeSlot_legal | apply Legal.parts
    | simp only [Legal.lit]
    | with_reducible first | apply Legal.ite
    | split
    | refine Legal.of_next ‹_› ?_
    | with_reducible first | apply OutLegal.next | apply Legal.foldl
    | intro _
    | dsimp only

theorem execEndingComplete_legal {s0 s : State} (h : Legal s0 s) (ctx : Nat) :
    OutLegal s0 (execEndingComplete ctx s) := by
  unfold execEndingComplete
  repeat' first
    | with_reducible assumption
    | with_reducible first | apply freeSlot_legal | apply Legal.parts
    | simp only [Legal.lit]
    | with_reducible first | apply Legal.ite
    | split
    | refine Legal.of_next ‹_› ?_
    | with_reducible first | apply OutLegal.next | apply Legal.foldl
    | intro _
    | dsimp only

theorem execScrubComplete_legal {s0 s : State} (h : Legal s0 s) (core : Nat) (upper : Bool) :
    OutLegal s0 (execScrubComplete core upper s) := by
  unfold execScrubComplete
  repeat' first
    | with_reducible assumption
    | with_reducible first | apply setCore_legal | apply Legal.parts
    | simp only [Legal.lit]
    | with_reducible first | apply Legal.ite
    | split
    | refine Legal.of_next ‹_› ?_
    | with_reducible first | apply OutLegal.next | apply Legal.foldl
    | intro _
    | dsimp only

theorem execCoreGate_legal {s0 s : State} (h : Legal s0 s) (core : Nat) :
    OutLegal s0 (execCoreGate core s) := by
  unfold execCoreGate
  repeat' first
    | with_reducible assumption
    | with_reducible first | apply setCore_legal | apply Legal.parts
    | simp only [Legal.lit]
    | with_reducible first | apply Legal.ite
    | split
    | refine Legal.of_next ‹_› ?_
    | with_reducible first | apply OutLegal.next | apply Legal.foldl
    | intro _
    | dsimp only

theorem execCoreOff_legal {s0 s : State} (h : Legal s0 s) (core : Nat) :
    OutLegal s0 (execCoreOff core s) := by
  unfold execCoreOff
  repeat' first
    | with_reducible assumption
    | with_reducible first | apply setCore_legal | apply Legal.parts
    | simp only [Legal.lit]
    | with_reducible first | apply Legal.ite
    | split
    | refine Legal.of_next ‹_› ?_
    | with_reducible first | apply OutLegal.next | apply Legal.foldl
    | intro _
    | dsimp only

theorem execCoreWakeComplete_legal {s0 s : State} (h : Legal s0 s) (core : Nat) :
    OutLegal s0 (execCoreWakeComplete core s) := by
  unfold execCoreWakeComplete
  repeat' first
    | with_reducible assumption
    | with_reducible first | apply reseed_legal | apply setCore_legal | apply Legal.parts
    | simp only [Legal.lit]
    | with_reducible first | apply Legal.ite
    | split
    | refine Legal.of_next ‹_› ?_
    | with_reducible first | apply OutLegal.next | apply Legal.foldl
    | intro _
    | dsimp only

end Sys2Proof.Machine
end

