-- ==== Sys2Proof/Laws/LegalUnits.lean ====
section
/-! SUPPORT. `Legal` of ports, copies, loupes, fixers, stackers and pod membership. -/

namespace Sys2Proof.Machine

/-! Routes. -/

theorem setPort_legal {s0 s : State} (h : Legal s0 s) (n : Nat) (p : Port) :
    Legal s0 (setPort s n p) := by
  unfold setPort
  repeat' first
    | with_reducible assumption
    | with_reducible first | apply Legal.parts
    | simp only [Legal.lit]
    | with_reducible first | apply Legal.ite
    | split
    | with_reducible first | apply Legal.foldl
    | intro _
    | dsimp only

theorem writeRoute_legal {s0 s : State} (h : Legal s0 s) (dst : Nat) (e : BitVec 128) :
    Legal s0 (writeRoute s dst e) := by
  unfold writeRoute
  repeat' first
    | with_reducible assumption
    | with_reducible first | apply Legal.parts
    | simp only [Legal.lit]
    | with_reducible first | apply Legal.ite
    | split
    | with_reducible first | apply Legal.foldl
    | intro _
    | dsimp only

theorem leaveSets_legal {s0 s : State} (h : Legal s0 s) (n : Nat) :
    Legal s0 (leaveSets s n) := by
  unfold leaveSets
  repeat' first
    | with_reducible assumption
    | with_reducible first | apply Legal.parts
    | simp only [Legal.lit]
    | with_reducible first | apply Legal.ite
    | split
    | with_reducible first | apply Legal.foldl
    | intro _
    | dsimp only

theorem enqueueOn_legal {s0 s : State} (h : Legal s0 s) (n : Nat) (arrival : Option Nat) (x : Txn) :
    Legal s0 (enqueueOn s n arrival x) := by
  unfold enqueueOn
  repeat' first
    | with_reducible assumption
    | with_reducible first | apply setPort_legal | apply Legal.parts
    | simp only [Legal.lit]
    | with_reducible first | apply Legal.ite
    | split
    | with_reducible first | apply Legal.foldl
    | intro _
    | dsimp only

theorem sendOn_legal {s0 s : State} (h : Legal s0 s) (x : Txn) :
    OptLegal s0 (sendOn s x) := by
  unfold sendOn
  repeat' first
    | with_reducible assumption
    | with_reducible first | apply enqueueOn_legal | apply Legal.parts
    | simp only [Legal.lit]
    | with_reducible first | apply Legal.ite
    | split
    | refine Legal.of_some ‹_› ?_
    | with_reducible first | apply OptLegal.none | apply OptLegal.some | apply OptLegal.mapS | apply OptLegal.map | apply OptLegal.bind
    | with_reducible first | apply OptLegal.getD | apply Legal.foldl
    | intro _
    | dsimp only

theorem freeSlots_legal {s0 s : State} (h : Legal s0 s) (n : Nat) (x : Txn) :
    Legal s0 (freeSlots s n x) := by
  unfold freeSlots
  repeat' first
    | with_reducible assumption
    | with_reducible first | apply setPort_legal | apply Legal.parts
    | simp only [Legal.lit]
    | with_reducible first | apply Legal.ite
    | split
    | with_reducible first | apply Legal.foldl
    | intro _
    | dsimp only

theorem countDrop_legal {s0 s : State} (h : Legal s0 s) (src : Option Nat) (hi : Nat) (lo : Nat) :
    Legal s0 (countDrop s src hi lo) := by
  unfold countDrop
  repeat' first
    | with_reducible assumption
    | with_reducible first | apply bump_legal | apply Legal.parts
    | simp only [Legal.lit]
    | with_reducible first | apply Legal.ite
    | split
    | with_reducible first | apply Legal.foldl
    | intro _
    | dsimp only

theorem takeTxn_legal {s0 s : State} (h : Legal s0 s) (src : Option Nat) (t : Nat) :
    OptSnd s0 (takeTxn s src t) := by
  unfold takeTxn
  repeat' first
    | with_reducible assumption
    | with_reducible first | apply freeSlots_legal | apply setPort_legal | apply Legal.parts
    | simp only [SndLegal.lit]
    | simp only [Legal.lit]
    | with_reducible first | apply Legal.ite
    | split
    | refine Legal.of_optsnd ‹_› ?_ | refine Legal.of_snd ‹_› ?_
    | with_reducible first | apply SndLegal.get | apply SndLegal.foldl | apply OptSnd.none | apply OptSnd.some | apply OptSnd.map | apply Legal.foldl
    | intro _
    | dsimp only

theorem noteBack_legal {s0 s : State} (h : Legal s0 s) (n : Nat) (pkg : Nat) :
    Legal s0 (noteBack s n pkg) := by
  unfold noteBack
  repeat' first
    | with_reducible assumption
    | with_reducible first | apply enqueueOn_legal | apply setPort_legal | apply Legal.parts
    | simp only [Legal.lit]
    | with_reducible first | apply Legal.ite
    | split
    | with_reducible first | apply Legal.foldl
    | intro _
    | dsimp only

theorem arrive_legal {s0 s : State} (h : Legal s0 s) (src : Option Nat) (t : Nat) :
    ArrLegal s0 (arrive s src t) := by
  unfold arrive
  repeat' first
    | with_reducible assumption
    | with_reducible first | apply takeTxn_legal | apply countDrop_legal | apply noteBack_legal | apply Legal.parts
    | simp only [SndLegal.lit]
    | simp only [Legal.lit]
    | with_reducible first | apply Legal.ite
    | split
    | refine Legal.of_arr ‹_› ?_ | refine Legal.of_drop ‹_› ?_ | refine Legal.of_optsnd ‹_› ?_ | refine Legal.of_snd ‹_› ?_
    | with_reducible first | apply ArrLegal.none | apply ArrLegal.drop | apply ArrLegal.ok | apply SndLegal.get | apply SndLegal.foldl
    | with_reducible first | apply OptSnd.none | apply OptSnd.some | apply OptSnd.map | apply Legal.foldl
    | intro _
    | dsimp only

/-! Pod. -/

theorem restTag_legal {s0 s : State} (h : Legal s0 s) (tag : Nat) :
    Legal s0 (restTag s tag) := by
  unfold restTag
  repeat' first
    | with_reducible assumption
    | with_reducible first | apply Legal.parts
    | simp only [Legal.lit]
    | with_reducible first | apply Legal.ite
    | split
    | with_reducible first | apply Legal.foldl
    | intro _
    | dsimp only

theorem copyReplied_legal {s0 s : State} (h : Legal s0 s) (p : ProgRef) (ch : Bool) :
    Legal s0 (copyReplied s p ch) := by
  unfold copyReplied
  repeat' first
    | with_reducible assumption
    | with_reducible first | apply setProg_legal | apply Legal.parts
    | simp only [Legal.lit]
    | with_reducible first | apply Legal.ite
    | split
    | with_reducible first | apply Legal.foldl
    | intro _
    | dsimp only

theorem dropReq_legal {s0 s : State} (h : Legal s0 s) (r : RemReq) :
    Legal s0 (dropReq s r) := by
  unfold dropReq
  repeat' first
    | with_reducible assumption
    | with_reducible first | apply restTag_legal | apply copyReplied_legal | apply Legal.parts
    | simp only [Legal.lit]
    | with_reducible first | apply Legal.ite
    | split
    | with_reducible first | apply Legal.foldl
    | intro _
    | dsimp only

theorem voidCalls_legal {s0 s : State} (h : Legal s0 s) (ctx : Nat) :
    Legal s0 (voidCalls s ctx) := by
  unfold voidCalls
  repeat' first
    | with_reducible assumption
    | with_reducible first | apply voidReqs_legal | apply Legal.parts
    | simp only [Legal.lit]
    | with_reducible first | apply Legal.ite
    | split
    | with_reducible first | apply Legal.foldl
    | intro _
    | dsimp only

theorem voidSteps_legal {s0 s : State} (h : Legal s0 s) (n : Nat) :
    Legal s0 (voidSteps s n) := by
  unfold voidSteps
  repeat' first
    | with_reducible assumption
    | with_reducible first | apply setProg_legal | apply voidCalls_legal | apply dropReq_legal | apply report_legal | apply settleStopped_legal
    | with_reducible first | apply Legal.parts
    | simp only [Legal.lit]
    | with_reducible first | apply Legal.ite
    | split
    | with_reducible first | apply Legal.foldl
    | intro _
    | dsimp only

theorem loseMember_legal {s0 s : State} (h : Legal s0 s) (n : Nat) (from_ : Option Nat) :
    Legal s0 (loseMember s n from_) := by
  unfold loseMember
  repeat' first
    | with_reducible assumption
    | with_reducible first | apply voidSteps_legal | apply setField_legal | apply pushErr_legal | apply raiseEvent_legal | apply setAlert_legal
    | with_reducible first | apply sendOn_legal | apply Legal.parts
    | simp only [Legal.lit]
    | with_reducible first | apply Legal.ite
    | split
    | refine Legal.of_some ‹_› ?_
    | with_reducible first | apply OptLegal.none | apply OptLegal.some | apply OptLegal.mapS | apply OptLegal.map | apply OptLegal.bind
    | with_reducible first | apply OptLegal.getD | apply Legal.foldl
    | intro _
    | dsimp only

theorem linkLost_legal {s0 s : State} (h : Legal s0 s) (n : Nat) :
    Legal s0 (linkLost s n) := by
  unfold linkLost
  repeat' first
    | with_reducible assumption
    | with_reducible first | apply loseMember_legal | apply Legal.parts
    | simp only [Legal.lit]
    | with_reducible first | apply Legal.ite
    | split
    | with_reducible first | apply Legal.foldl
    | intro _
    | dsimp only

theorem hbRefresh_legal {s0 s : State} (h : Legal s0 s) (k : Nat) :
    Legal s0 (hbRefresh s k) := by
  unfold hbRefresh
  repeat' first
    | with_reducible assumption
    | with_reducible first | apply setPort_legal | apply Legal.parts
    | simp only [Legal.lit]
    | with_reducible first | apply Legal.ite
    | split
    | with_reducible first | apply Legal.foldl
    | intro _
    | dsimp only

theorem goStale_legal {s0 s : State} (h : Legal s0 s) :
    Legal s0 (goStale s) := by
  unfold goStale
  repeat' first
    | with_reducible assumption
    | with_reducible first | apply driveAlert_legal | apply pushErr_legal | apply beginTeardown_legal | apply raiseEvent_legal | apply Legal.parts
    | simp only [Legal.lit]
    | with_reducible first | apply Legal.ite
    | split
    | with_reducible first | apply Legal.foldl
    | intro _
    | dsimp only

theorem execIncnote_legal {s0 s : State} (h : Legal s0 s) (src : Option Nat) :
    OutLegal s0 (execIncnote src s) := by
  unfold execIncnote
  repeat' first
    | with_reducible assumption
    | with_reducible first | apply arrive_legal | apply goStale_legal | apply loseMember_legal | apply Legal.parts
    | simp only [Legal.lit]
    | with_reducible first | apply Legal.ite
    | split
    | refine Legal.of_arr ‹_› ?_ | refine Legal.of_drop ‹_› ?_ | refine Legal.of_next ‹_› ?_
    | with_reducible first | apply OutLegal.next | apply ArrLegal.none | apply ArrLegal.drop | apply ArrLegal.ok | apply Legal.foldl
    | intro _
    | dsimp only

/-! Calls. -/

theorem chargeCall_legal {s0 s : State} (h : Legal s0 s) (ctx : Nat) (c : Caller) (early : Bool) (f : UnitFault) :
    Legal s0 (chargeCall s ctx c early f) := by
  unfold chargeCall
  repeat' first
    | with_reducible assumption
    | with_reducible first | apply charge_legal | apply report_legal | apply Legal.parts
    | simp only [Legal.lit]
    | with_reducible first | apply Legal.ite
    | split
    | with_reducible first | apply Legal.foldl
    | intro _
    | dsimp only

theorem endCall_legal {s0 s : State} (h : Legal s0 s) (c : Caller) (uid : Nat) :
    Legal s0 (endCall s c uid) := by
  unfold endCall
  repeat' first
    | with_reducible assumption
    | with_reducible first | apply settleStopped_legal | apply setProg_legal | apply report_legal | apply Legal.parts
    | simp only [Legal.lit]
    | with_reducible first | apply Legal.ite
    | split
    | with_reducible first | apply Legal.foldl
    | intro _
    | dsimp only

theorem callBlock_legal {s0 s : State} (h : Legal s0 s) (r : Req) (cva : Nat) :
    AccLegal s0 (callBlock s r cva) := by
  unfold callBlock
  repeat' first
    | with_reducible assumption
    | with_reducible first | apply cvaRead_legal | apply Legal.parts
    | simp only [Legal.lit]
    | with_reducible first | apply Legal.ite | apply AccLegal.ite
    | split
    | refine Legal.of_bad ‹_› ?_ | refine Legal.of_ok ‹_› ?_ | refine Legal.of_wait ‹_› ?_
    | with_reducible first | apply AccLegal.ok | apply AccLegal.wait | apply AccLegal.bad | apply AccLegal.of_bind | apply AccLegal.foldl
    | intro _
    | dsimp only

theorem readList_legal {s0 s : State} (h : Legal s0 s) (r : Req) (cva : Nat) (k : Nat) (n : Nat) :
    AccLegal s0 (readList s r cva k n) := by
  unfold readList
  repeat' first
    | with_reducible assumption
    | with_reducible first | apply cvaRead_legal | apply Legal.parts
    | simp only [Legal.lit]
    | with_reducible first | apply Legal.ite | apply AccLegal.ite
    | split
    | refine Legal.of_bad ‹_› ?_ | refine Legal.of_ok ‹_› ?_ | refine Legal.of_wait ‹_› ?_
    | with_reducible first | apply AccLegal.ok | apply AccLegal.wait | apply AccLegal.bad | apply AccLegal.of_bind | apply AccLegal.foldl
    | intro _
    | dsimp only

theorem callColl_legal {s0 s : State} (h : Legal s0 s) (c : Coll) :
    Legal s0 (callColl s c) := by
  unfold callColl
  repeat' first
    | with_reducible assumption
    | with_reducible first | apply Legal.parts
    | simp only [Legal.lit]
    | with_reducible first | apply Legal.ite
    | split
    | with_reducible first | apply Legal.foldl
    | intro _
    | dsimp only

/-! FixProg. -/

theorem fixImg_legal {s0 s : State} (h : Legal s0 s) (m : Model) (n : Nat) :
    AccLegal s0 (fixImg s m n) := by
  unfold fixImg
  repeat' first
    | with_reducible assumption
    | with_reducible first | apply imageRead_legal | apply Legal.parts
    | simp only [Legal.lit]
    | with_reducible first | apply Legal.ite | apply AccLegal.ite
    | split
    | refine Legal.of_bad ‹_› ?_ | refine Legal.of_ok ‹_› ?_ | refine Legal.of_wait ‹_› ?_
    | with_reducible first | apply AccLegal.ok | apply AccLegal.wait | apply AccLegal.bad | apply AccLegal.of_bind | apply AccLegal.foldl
    | intro _
    | dsimp only

/-! LoupeMap. -/

theorem setLoupe_legal {s0 s : State} (h : Legal s0 s) (n : Nat) (l : Loupe) :
    Legal s0 (setLoupe s n l) := by
  unfold setLoupe
  repeat' first
    | with_reducible assumption
    | with_reducible first | apply Legal.parts
    | simp only [Legal.lit]
    | with_reducible first | apply Legal.ite
    | split
    | with_reducible first | apply Legal.foldl
    | intro _
    | dsimp only

theorem setRun_legal {s0 s : State} (h : Legal s0 s) (n : Nat) (r : Option LoupeRun) :
    Legal s0 (setRun s n r) := by
  unfold setRun
  repeat' first
    | with_reducible assumption
    | with_reducible first | apply setLoupe_legal | apply Legal.parts
    | simp only [Legal.lit]
    | with_reducible first | apply Legal.ite
    | split
    | with_reducible first | apply Legal.foldl
    | intro _
    | dsimp only

/-! Fixer. -/

theorem planeSegs_legal {s0 s : State} (h : Legal s0 s) (ctx : Nat) (pl : PlaneAt) (scale : Bool) (write : Bool) (off : Nat) (n : Nat) :
    AccLegal s0 (planeSegs s ctx pl scale write off n) := by
  unfold planeSegs
  repeat' first
    | with_reducible assumption
    | with_reducible first | apply segsOf_legal | apply Legal.parts
    | simp only [Legal.lit]
    | with_reducible first | apply Legal.ite | apply AccLegal.ite
    | split
    | refine Legal.of_bad ‹_› ?_ | refine Legal.of_ok ‹_› ?_ | refine Legal.of_wait ‹_› ?_
    | with_reducible first | apply AccLegal.ok | apply AccLegal.wait | apply AccLegal.bad | apply AccLegal.of_bind | apply AccLegal.foldl
    | intro _
    | dsimp only

theorem planeRead_legal {s0 s : State} (h : Legal s0 s) (ctx : Nat) (pl : PlaneAt) (scale : Bool) (off : Nat) (n : Nat) :
    AccLegal s0 (planeRead s ctx pl scale off n) := by
  unfold planeRead
  repeat' first
    | with_reducible assumption
    | with_reducible first | apply planeSegs_legal | apply segsReadC_legal | apply Legal.parts
    | simp only [Legal.lit]
    | with_reducible first | apply Legal.ite | apply AccLegal.ite
    | split
    | refine Legal.of_bad ‹_› ?_ | refine Legal.of_ok ‹_› ?_ | refine Legal.of_wait ‹_› ?_
    | with_reducible first | apply AccLegal.ok | apply AccLegal.wait | apply AccLegal.bad | apply AccLegal.of_bind | apply AccLegal.foldl
    | intro _
    | dsimp only

theorem writesSegs_legal {s0 : State} : ∀ (x5 : List (Nat × List Byte)) (ctx : Nat) (pl : PlaneAt) (scale : Bool) (off : Nat) {a : State}
      (_ : Legal s0 a),
    AccLegal s0 (writesSegs ctx pl scale off a x5) := by
  intro x5
  induction x5 with
  | nil =>
    intro ctx pl scale off a h_a
    unfold writesSegs
    repeat' first
      | with_reducible assumption
      | with_reducible first | apply planeSegs_legal | apply Legal.parts
      | simp only [Legal.lit]
      | with_reducible first | apply Legal.ite | apply AccLegal.ite
      | split
      | refine Legal.of_bad ‹_› ?_ | refine Legal.of_ok ‹_› ?_ | refine Legal.of_wait ‹_› ?_
      | with_reducible first | apply AccLegal.ok | apply AccLegal.wait | apply AccLegal.bad | apply AccLegal.of_bind | apply AccLegal.foldl
      | intro _
      | dsimp only
  | cons _ _ ih =>
    intro ctx pl scale off a h_a
    unfold writesSegs
    repeat' first
      | with_reducible assumption
      | with_reducible first | apply ih | apply planeSegs_legal | apply Legal.parts
      | simp only [Legal.lit]
      | with_reducible first | apply Legal.ite | apply AccLegal.ite
      | split
      | refine Legal.of_bad ‹_› ?_ | refine Legal.of_ok ‹_› ?_ | refine Legal.of_wait ‹_› ?_
      | with_reducible first | apply AccLegal.ok | apply AccLegal.wait | apply AccLegal.bad | apply AccLegal.of_bind | apply AccLegal.foldl
      | intro _
      | dsimp only

theorem putAll_legal {s0 : State} : ∀ (x2 : List (List Seg × List Byte)) (r : Req) {a : State} (_ : Legal s0 a),
    AccLegal s0 (putAll r a x2) := by
  intro x2
  induction x2 with
  | nil =>
    intro r a h_a
    unfold putAll
    repeat' first
      | with_reducible assumption
      | with_reducible first | apply segsWriteNow_legal | apply Legal.parts
      | simp only [Legal.lit]
      | with_reducible first | apply Legal.ite | apply AccLegal.ite
      | split
      | refine Legal.of_bad ‹_› ?_ | refine Legal.of_ok ‹_› ?_ | refine Legal.of_wait ‹_› ?_
      | with_reducible first | apply AccLegal.ok | apply AccLegal.wait | apply AccLegal.bad | apply AccLegal.of_bind | apply AccLegal.foldl
      | intro _
      | dsimp only
  | cons _ _ ih =>
    intro r a h_a
    unfold putAll
    repeat' first
      | with_reducible assumption
      | with_reducible first | apply ih | apply segsWriteNow_legal | apply Legal.parts
      | simp only [Legal.lit]
      | with_reducible first | apply Legal.ite | apply AccLegal.ite
      | split
      | refine Legal.of_bad ‹_› ?_ | refine Legal.of_ok ‹_› ?_ | refine Legal.of_wait ‹_› ?_
      | with_reducible first | apply AccLegal.ok | apply AccLegal.wait | apply AccLegal.bad | apply AccLegal.of_bind | apply AccLegal.foldl
      | intro _
      | dsimp only

theorem fixerOf_legal {s0 s : State} (h : Legal s0 s) (ctx : Nat) (c : Chunk) :
    AccLegal s0 (fixerOf s ctx c) := by
  unfold fixerOf
  repeat' first
    | with_reducible assumption
    | with_reducible first | apply planeSegs_legal | apply Legal.parts
    | simp only [Legal.lit]
    | with_reducible first | apply Legal.ite | apply AccLegal.ite
    | split
    | refine Legal.of_bad ‹_› ?_ | refine Legal.of_ok ‹_› ?_ | refine Legal.of_wait ‹_› ?_
    | with_reducible first | apply AccLegal.ok | apply AccLegal.wait | apply AccLegal.bad | apply AccLegal.of_bind | apply AccLegal.foldl
    | intro _
    | dsimp only

theorem chunkIn_legal {s0 s : State} (h : Legal s0 s) (ctx : Nat) (c : Chunk) (p : Nat) :
    AccLegal s0 (chunkIn s ctx c p) := by
  unfold chunkIn
  repeat' first
    | with_reducible assumption
    | with_reducible first | apply planeRead_legal | apply Legal.parts
    | simp only [Legal.lit]
    | with_reducible first | apply Legal.ite | apply AccLegal.ite
    | split
    | refine Legal.of_bad ‹_› ?_ | refine Legal.of_ok ‹_› ?_ | refine Legal.of_wait ‹_› ?_
    | with_reducible first | apply AccLegal.ok | apply AccLegal.wait | apply AccLegal.bad | apply AccLegal.of_bind | apply AccLegal.foldl
    | intro _
    | dsimp only

theorem chunkIns_legal {s0 : State} : ∀ (x3 : List Nat) (ctx : Nat) (c : Chunk) {a : State} (_ : Legal s0 a),
    AccLegal s0 (chunkIns ctx c a x3) := by
  intro x3
  induction x3 with
  | nil =>
    intro ctx c a h_a
    unfold chunkIns
    repeat' first
      | with_reducible assumption
      | with_reducible first | apply chunkIn_legal | apply Legal.parts
      | simp only [Legal.lit]
      | with_reducible first | apply Legal.ite | apply AccLegal.ite
      | split
      | refine Legal.of_bad ‹_› ?_ | refine Legal.of_ok ‹_› ?_ | refine Legal.of_wait ‹_› ?_
      | with_reducible first | apply AccLegal.ok | apply AccLegal.wait | apply AccLegal.bad | apply AccLegal.of_bind | apply AccLegal.foldl
      | intro _
      | dsimp only
  | cons _ _ ih =>
    intro ctx c a h_a
    unfold chunkIns
    repeat' first
      | with_reducible assumption
      | with_reducible first | apply ih | apply chunkIn_legal | apply Legal.parts
      | simp only [Legal.lit]
      | with_reducible first | apply Legal.ite | apply AccLegal.ite
      | split
      | refine Legal.of_bad ‹_› ?_ | refine Legal.of_ok ‹_› ?_ | refine Legal.of_wait ‹_› ?_
      | with_reducible first | apply AccLegal.ok | apply AccLegal.wait | apply AccLegal.bad | apply AccLegal.of_bind | apply AccLegal.foldl
      | intro _
      | dsimp only

theorem chunkWrites_legal {s0 : State} : ∀ (x3 : List (Nat × List (Nat × List Byte) × List (Nat × List Byte))) (ctx : Nat) (c : Chunk) {a :
      State} (_ : Legal s0 a),
    AccLegal s0 (chunkWrites ctx c a x3) := by
  intro x3
  induction x3 with
  | nil =>
    intro ctx c a h_a
    unfold chunkWrites
    repeat' first
      | with_reducible assumption
      | with_reducible first | apply writesSegs_legal | apply Legal.parts
      | simp only [Legal.lit]
      | with_reducible first | apply Legal.ite | apply AccLegal.ite
      | split
      | refine Legal.of_bad ‹_› ?_ | refine Legal.of_ok ‹_› ?_ | refine Legal.of_wait ‹_› ?_
      | with_reducible first | apply AccLegal.ok | apply AccLegal.wait | apply AccLegal.bad | apply AccLegal.of_bind | apply AccLegal.foldl
      | intro _
      | dsimp only
  | cons _ _ ih =>
    intro ctx c a h_a
    unfold chunkWrites
    repeat' first
      | with_reducible assumption
      | with_reducible first | apply ih | apply writesSegs_legal | apply Legal.parts
      | simp only [Legal.lit]
      | with_reducible first | apply Legal.ite | apply AccLegal.ite
      | split
      | refine Legal.of_bad ‹_› ?_ | refine Legal.of_ok ‹_› ?_ | refine Legal.of_wait ‹_› ?_
      | with_reducible first | apply AccLegal.ok | apply AccLegal.wait | apply AccLegal.bad | apply AccLegal.of_bind | apply AccLegal.foldl
      | intro _
      | dsimp only

theorem runChunk_legal {s0 s : State} (h : Legal s0 s) (r : FixRun) (f : Nat) (c : Chunk) :
    AccLegal s0 (runChunk s r f c) := by
  unfold runChunk
  repeat' first
    | with_reducible assumption
    | with_reducible first | apply chunkIns_legal | apply fixTopUp_legal | apply chunkWrites_legal | apply segsReady_legal | apply putAll_legal
    | with_reducible first | apply planeSegs_legal | apply sealBlocks_legal | apply useFree_legal | apply Legal.parts
    | simp only [Legal.lit]
    | with_reducible first | apply Legal.ite | apply AccLegal.ite
    | split
    | refine Legal.of_bad ‹_› ?_ | refine Legal.of_ok ‹_› ?_ | refine Legal.of_wait ‹_› ?_
    | with_reducible first | apply AccLegal.ok | apply AccLegal.wait | apply AccLegal.bad | apply AccLegal.of_bind | apply AccLegal.foldl
    | with_reducible first | apply Legal.foldl
    | intro _
    | dsimp only

theorem segChunks_legal {s0 : State} : ∀ (x2 : List (BitVec 1024)) (m : Model) {a : State} (_ : Legal s0 a),
    AccLegal s0 (segChunks m a x2) := by
  intro x2
  induction x2 with
  | nil =>
    intro m a h_a
    unfold segChunks
    repeat' first
      | with_reducible assumption
      | with_reducible first | apply fixImg_legal | apply Legal.parts
      | simp only [Legal.lit]
      | with_reducible first | apply Legal.ite | apply AccLegal.ite
      | split
      | refine Legal.of_bad ‹_› ?_ | refine Legal.of_ok ‹_› ?_ | refine Legal.of_wait ‹_› ?_
      | with_reducible first | apply AccLegal.ok | apply AccLegal.wait | apply AccLegal.bad | apply AccLegal.of_bind | apply AccLegal.foldl
      | intro _
      | dsimp only
  | cons _ _ ih =>
    intro m a h_a
    unfold segChunks
    repeat' first
      | with_reducible assumption
      | with_reducible first | apply ih | apply fixImg_legal | apply Legal.parts
      | simp only [Legal.lit]
      | with_reducible first | apply Legal.ite | apply AccLegal.ite
      | split
      | refine Legal.of_bad ‹_› ?_ | refine Legal.of_ok ‹_› ?_ | refine Legal.of_wait ‹_› ?_
      | with_reducible first | apply AccLegal.ok | apply AccLegal.wait | apply AccLegal.bad | apply AccLegal.of_bind | apply AccLegal.foldl
      | intro _
      | dsimp only

theorem callChunks_legal {s0 s : State} (h : Legal s0 s) (r : FixRun) :
    AccLegal s0 (callChunks s r) := by
  unfold callChunks
  repeat' first
    | with_reducible assumption
    | with_reducible first | apply segChunks_legal | apply fixImg_legal | apply Legal.parts
    | simp only [Legal.lit]
    | with_reducible first | apply Legal.ite | apply AccLegal.ite
    | split
    | refine Legal.of_bad ‹_› ?_ | refine Legal.of_ok ‹_› ?_ | refine Legal.of_wait ‹_› ?_
    | with_reducible first | apply AccLegal.ok | apply AccLegal.wait | apply AccLegal.bad | apply AccLegal.of_bind | apply AccLegal.foldl
    | intro _
    | dsimp only

theorem setFix_legal {s0 s : State} (h : Legal s0 s) (r : Option FixRun) :
    Legal s0 (setFix s r) := by
  unfold setFix
  repeat' first
    | with_reducible assumption
    | with_reducible first | apply Legal.parts
    | simp only [Legal.lit]
    | with_reducible first | apply Legal.ite
    | split
    | with_reducible first | apply Legal.foldl
    | intro _
    | dsimp only

theorem countChunk_legal {s0 s : State} (h : Legal s0 s) (f : Nat) :
    Legal s0 (countChunk s f) := by
  unfold countChunk
  repeat' first
    | with_reducible assumption
    | with_reducible first | apply Legal.parts
    | simp only [Legal.lit]
    | with_reducible first | apply Legal.ite
    | split
    | with_reducible first | apply Legal.foldl
    | intro _
    | dsimp only

theorem failFix_legal {s0 s : State} (h : Legal s0 s) (c : FixCall) (early : Bool) (f : UnitFault) :
    Legal s0 (failFix s c early f) := by
  unfold failFix
  repeat' first
    | with_reducible assumption
    | with_reducible first | apply endHost_legal | apply setFix_legal | apply setRun_legal | apply chargeCall_legal | apply Legal.parts
    | simp only [Legal.lit]
    | with_reducible first | apply Legal.ite
    | split
    | with_reducible first | apply Legal.foldl
    | intro _
    | dsimp only

theorem fixAccess_legal {s0 s : State} (h : Legal s0 s) (ctx : Nat) (f : Nat) (code : Nat) (addr : Nat) :
    FstLegal s0 (fixAccess s ctx f code addr) := by
  unfold fixAccess
  repeat' first
    | with_reducible assumption
    | with_reducible first | apply logOnce_legal | apply Legal.parts
    | simp only [FstLegal.lit]
    | simp only [Legal.lit]
    | with_reducible first | apply Legal.ite
    | split
    | refine Legal.of_fst ‹_› ?_
    | with_reducible first | apply FstLegal.get | apply FstLegal.foldl | apply Legal.foldl
    | intro _
    | dsimp only

theorem fixCheck_legal {s0 s : State} (h : Legal s0 s) (ctx : Nat) (par : Bool) (i : Nat) (j : Nat) :
    FstLegal s0 (fixCheck s ctx par i j) := by
  unfold fixCheck
  repeat' first
    | with_reducible assumption
    | with_reducible first | apply logOnce_legal | apply bump_legal | apply Legal.parts
    | simp only [FstLegal.lit]
    | simp only [Legal.lit]
    | with_reducible first | apply Legal.ite
    | split
    | refine Legal.of_fst ‹_› ?_
    | with_reducible first | apply FstLegal.get | apply FstLegal.foldl | apply Legal.foldl
    | intro _
    | dsimp only

theorem fixerEff_legal {s0 s : State} (h : Legal s0 s) (update : Bool) (p : ProgRef) (q : Prog) (o : OpSlot) :
    AccLegal s0 (fixerEff update p s q o) := by
  unfold fixerEff
  repeat' first
    | with_reducible assumption
    | with_reducible first | apply nextUid_legal | apply Legal.parts
    | simp only [Legal.lit]
    | with_reducible first | apply Legal.ite | apply AccLegal.ite
    | split
    | refine Legal.of_bad ‹_› ?_ | refine Legal.of_ok ‹_› ?_ | refine Legal.of_wait ‹_› ?_
    | with_reducible first | apply AccLegal.ok | apply AccLegal.wait | apply AccLegal.bad | apply AccLegal.of_bind | apply AccLegal.foldl
    | with_reducible first | apply Legal.foldl
    | intro _
    | dsimp only

theorem execRun_legal {s0 s : State} (h : Legal s0 s) (p : ProgRef) :
    OutLegal s0 (execRun p s) := by
  unfold execRun
  repeat' first
    | with_reducible assumption
    | with_reducible first | apply runOp_legal | apply whole_legal | apply fixerEff_legal | apply Legal.parts
    | simp only [Legal.lit]
    | with_reducible first | apply Legal.ite | apply AccLegal.ite
    | split
    | refine Legal.of_bad ‹_› ?_ | refine Legal.of_next ‹_› ?_ | refine Legal.of_ok ‹_› ?_ | refine Legal.of_wait ‹_› ?_
    | with_reducible first | apply AccLegal.ok | apply AccLegal.wait | apply AccLegal.bad | apply AccLegal.of_bind | apply AccLegal.foldl
    | with_reducible first | apply OutLegal.next | apply Legal.foldl
    | intro _
    | dsimp only

theorem execUpdate_legal {s0 s : State} (h : Legal s0 s) (p : ProgRef) :
    OutLegal s0 (execUpdate p s) := by
  unfold execUpdate
  repeat' first
    | with_reducible assumption
    | with_reducible first | apply runOp_legal | apply whole_legal | apply fixerEff_legal | apply Legal.parts
    | simp only [Legal.lit]
    | with_reducible first | apply Legal.ite | apply AccLegal.ite
    | split
    | refine Legal.of_bad ‹_› ?_ | refine Legal.of_next ‹_› ?_ | refine Legal.of_ok ‹_› ?_ | refine Legal.of_wait ‹_› ?_
    | with_reducible first | apply AccLegal.ok | apply AccLegal.wait | apply AccLegal.bad | apply AccLegal.of_bind | apply AccLegal.foldl
    | with_reducible first | apply OutLegal.next | apply Legal.foldl
    | intro _
    | dsimp only

theorem execFixerCallEnqueue_legal {s0 s : State} (h : Legal s0 s) (p : ProgRef) :
    OutLegal s0 (execFixerCallEnqueue p s) := by
  unfold execFixerCallEnqueue
  repeat' first
    | with_reducible assumption
    | with_reducible first | apply setProg_legal | apply nextUid_legal | apply Legal.parts
    | simp only [Legal.lit]
    | with_reducible first | apply Legal.ite
    | split
    | refine Legal.of_next ‹_› ?_
    | with_reducible first | apply OutLegal.next | apply Legal.foldl
    | intro _
    | dsimp only

theorem segsOk_legal {s0 : State} : ∀ (x2 : List (BitVec 1024)) (m : Model) {a : State} (_ : Legal s0 a),
    AccLegal s0 (segsOk m a x2) := by
  intro x2
  induction x2 with
  | nil =>
    intro m a h_a
    unfold segsOk
    repeat' first
      | with_reducible assumption
      | with_reducible first | apply fixImg_legal | apply Legal.parts
      | simp only [Legal.lit]
      | with_reducible first | apply Legal.ite | apply AccLegal.ite
      | split
      | refine Legal.of_bad ‹_› ?_ | refine Legal.of_ok ‹_› ?_ | refine Legal.of_wait ‹_› ?_
      | with_reducible first | apply AccLegal.ok | apply AccLegal.wait | apply AccLegal.bad | apply AccLegal.of_bind | apply AccLegal.foldl
      | intro _
      | dsimp only
  | cons _ _ ih =>
    intro m a h_a
    unfold segsOk
    repeat' first
      | with_reducible assumption
      | with_reducible first | apply ih | apply fixImg_legal | apply Legal.parts
      | simp only [Legal.lit]
      | with_reducible first | apply Legal.ite | apply AccLegal.ite
      | split
      | refine Legal.of_bad ‹_› ?_ | refine Legal.of_ok ‹_› ?_ | refine Legal.of_wait ‹_› ?_
      | with_reducible first | apply AccLegal.ok | apply AccLegal.wait | apply AccLegal.bad | apply AccLegal.of_bind | apply AccLegal.foldl
      | intro _
      | dsimp only

theorem fixStart_legal {s0 s : State} (h : Legal s0 s) (c : FixCall) :
    AccLegal s0 (fixStart s c) := by
  unfold fixStart
  repeat' first
    | with_reducible assumption
    | with_reducible first | apply callBlock_legal | apply cvaRead_legal | apply segsOk_legal | apply Legal.parts
    | simp only [Legal.lit]
    | with_reducible first | apply Legal.ite | apply AccLegal.ite
    | split
    | refine Legal.of_bad ‹_› ?_ | refine Legal.of_ok ‹_› ?_ | refine Legal.of_wait ‹_› ?_
    | with_reducible first | apply AccLegal.ok | apply AccLegal.wait | apply AccLegal.bad | apply AccLegal.of_bind | apply AccLegal.foldl
    | intro _
    | dsimp only

theorem unitFixerCallStart_legal {s0 s : State} (h : Legal s0 s) (err : HwErr) :
    Legal s0 (unitFixerCallStart err s) := by
  unfold unitFixerCallStart
  repeat' first
    | with_reducible assumption
    | with_reducible first | apply sharedError_legal | apply fixStart_legal | apply fixAccess_legal | apply failFix_legal | apply Legal.parts
    | simp only [FstLegal.lit]
    | simp only [Legal.lit]
    | with_reducible first | apply Legal.ite | apply AccLegal.ite
    | split
    | refine Legal.of_bad ‹_› ?_ | refine Legal.of_fst ‹_› ?_ | refine Legal.of_ok ‹_› ?_ | refine Legal.of_wait ‹_› ?_
    | with_reducible first | apply AccLegal.ok | apply AccLegal.wait | apply AccLegal.bad | apply AccLegal.of_bind | apply AccLegal.foldl
    | with_reducible first | apply FstLegal.get | apply FstLegal.foldl | apply Legal.foldl
    | intro _
    | dsimp only

theorem passOne_legal {s0 : State} : ∀ (x2 : List Chunk) (ctx : Nat) {a : State} (_ : Legal s0 a) (x3 : Tbl (List Num × Nat)),
    AccLegal s0 (passOne ctx a x2 x3) := by
  intro x2
  induction x2 with
  | nil =>
    intro ctx a h_a x3
    unfold passOne
    repeat' first
      | with_reducible assumption
      | with_reducible first | apply fixerOf_legal | apply chunkIn_legal | apply Legal.parts
      | simp only [Legal.lit]
      | with_reducible first | apply Legal.ite | apply AccLegal.ite
      | split
      | refine Legal.of_bad ‹_› ?_ | refine Legal.of_ok ‹_› ?_ | refine Legal.of_wait ‹_› ?_
      | with_reducible first | apply AccLegal.ok | apply AccLegal.wait | apply AccLegal.bad | apply AccLegal.of_bind | apply AccLegal.foldl
      | intro _
      | dsimp only
  | cons _ _ ih =>
    intro ctx a h_a x3
    unfold passOne
    repeat' first
      | with_reducible assumption
      | with_reducible first | apply ih | apply fixerOf_legal | apply chunkIn_legal | apply Legal.parts
      | simp only [Legal.lit]
      | with_reducible first | apply Legal.ite | apply AccLegal.ite
      | split
      | refine Legal.of_bad ‹_› ?_ | refine Legal.of_ok ‹_› ?_ | refine Legal.of_wait ‹_› ?_
      | with_reducible first | apply AccLegal.ok | apply AccLegal.wait | apply AccLegal.bad | apply AccLegal.of_bind | apply AccLegal.foldl
      | intro _
      | dsimp only

theorem markSkip_legal {s0 s : State} (h : Legal s0 s) (ctx : Nat) :
    Legal s0 (markSkip s ctx) := by
  unfold markSkip
  repeat' first
    | with_reducible assumption
    | with_reducible first | apply Legal.parts
    | simp only [Legal.lit]
    | with_reducible first | apply Legal.ite
    | split
    | with_reducible first | apply Legal.foldl
    | intro _
    | dsimp only

theorem decideUpdate_legal {s0 s : State} (h : Legal s0 s) (sum : BitVec 32) (count : BitVec 64) :
    Legal s0 (decideUpdate s sum count) := by
  unfold decideUpdate
  repeat' first
    | with_reducible assumption
    | with_reducible first | apply markSkip_legal | apply setFix_legal | apply Legal.parts
    | simp only [Legal.lit]
    | with_reducible first | apply Legal.ite
    | split
    | with_reducible first | apply Legal.foldl
    | intro _
    | dsimp only

theorem enterColl_legal {s0 s : State} (h : Legal s0 s) (r : FixRun) (x : BitVec 32 × BitVec 64) :
    Legal s0 (enterColl s r x) := by
  unfold enterColl
  repeat' first
    | with_reducible assumption
    | with_reducible first | apply setFix_legal | apply callColl_legal | apply Legal.parts
    | simp only [Legal.lit]
    | with_reducible first | apply Legal.ite
    | split
    | with_reducible first | apply Legal.foldl
    | intro _
    | dsimp only

theorem unitPassOneDone_legal {s0 s : State} (h : Legal s0 s) (err : HwErr) :
    Legal s0 (unitPassOneDone err s) := by
  unfold unitPassOneDone
  repeat' first
    | with_reducible assumption
    | with_reducible first | apply fixCheck_legal | apply failFix_legal | apply sharedError_legal | apply callChunks_legal | apply passOne_legal
    | with_reducible first | apply useFree_legal | apply fixAccess_legal | apply fixerOf_legal | apply countChunk_legal | apply setFix_legal
    | with_reducible first | apply endHost_legal | apply decideUpdate_legal | apply enterColl_legal | apply Legal.parts
    | simp only [FstLegal.lit]
    | simp only [Legal.lit]
    | with_reducible first | apply Legal.ite | apply AccLegal.ite
    | split
    | refine Legal.of_bad ‹_› ?_ | refine Legal.of_fst ‹_› ?_ | refine Legal.of_ok ‹_› ?_ | refine Legal.of_wait ‹_› ?_
    | with_reducible first | apply AccLegal.ok | apply AccLegal.wait | apply AccLegal.bad | apply AccLegal.of_bind | apply AccLegal.foldl
    | with_reducible first | apply FstLegal.get | apply FstLegal.foldl | apply Legal.foldl
    | intro _
    | dsimp only

theorem runChunks_legal {s0 : State} : ∀ (x2 : List Chunk) {a : State} (_ : Legal s0 a) (x1 : FixRun),
    AccLegal s0 (runChunks a x1 x2) := by
  intro x2
  induction x2 with
  | nil =>
    intro a h_a x1
    unfold runChunks
    repeat' first
      | with_reducible assumption
      | with_reducible first | apply fixerOf_legal | apply runChunk_legal | apply setFix_legal | apply countChunk_legal | apply Legal.parts
      | simp only [Legal.lit]
      | with_reducible first | apply Legal.ite | apply AccLegal.ite
      | split
      | refine Legal.of_bad ‹_› ?_ | refine Legal.of_ok ‹_› ?_ | refine Legal.of_wait ‹_› ?_
      | with_reducible first | apply AccLegal.ok | apply AccLegal.wait | apply AccLegal.bad | apply AccLegal.of_bind | apply AccLegal.foldl
      | with_reducible first | apply Legal.foldl
      | intro _
      | dsimp only
  | cons _ _ ih =>
    intro a h_a x1
    unfold runChunks
    repeat' first
      | with_reducible assumption
      | with_reducible first | apply ih | apply fixerOf_legal | apply runChunk_legal | apply setFix_legal | apply countChunk_legal | apply Legal.parts
      | simp only [Legal.lit]
      | with_reducible first | apply Legal.ite | apply AccLegal.ite
      | split
      | refine Legal.of_bad ‹_› ?_ | refine Legal.of_ok ‹_› ?_ | refine Legal.of_wait ‹_› ?_
      | with_reducible first | apply AccLegal.ok | apply AccLegal.wait | apply AccLegal.bad | apply AccLegal.of_bind | apply AccLegal.foldl
      | with_reducible first | apply Legal.foldl
      | intro _
      | dsimp only

theorem finishFix_legal {s0 s : State} (h : Legal s0 s) (r : FixRun) :
    Legal s0 (finishFix s r) := by
  unfold finishFix
  repeat' first
    | with_reducible assumption
    | with_reducible first | apply setFix_legal | apply setRun_legal | apply cvaWrite_legal | apply failFix_legal | apply endCall_legal
    | with_reducible first | apply endHost_legal | apply Legal.parts
    | simp only [Legal.lit]
    | with_reducible first | apply Legal.ite | apply AccLegal.ite
    | split
    | refine Legal.of_bad ‹_› ?_ | refine Legal.of_ok ‹_› ?_ | refine Legal.of_wait ‹_› ?_
    | with_reducible first | apply AccLegal.ok | apply AccLegal.wait | apply AccLegal.bad | apply AccLegal.of_bind | apply AccLegal.foldl
    | with_reducible first | apply Legal.foldl
    | intro _
    | dsimp only

theorem fixRest_legal {s0 s : State} (h : Legal s0 s) (r : FixRun) (left : List Chunk) :
    Legal s0 (fixRest s r left) := by
  unfold fixRest
  repeat' first
    | with_reducible assumption
    | with_reducible first | apply runChunks_legal | apply fixAccess_legal | apply failFix_legal | apply finishFix_legal | apply Legal.parts
    | simp only [FstLegal.lit]
    | simp only [Legal.lit]
    | with_reducible first | apply Legal.ite | apply AccLegal.ite
    | split
    | refine Legal.of_bad ‹_› ?_ | refine Legal.of_fst ‹_› ?_ | refine Legal.of_ok ‹_› ?_ | refine Legal.of_wait ‹_› ?_
    | with_reducible first | apply AccLegal.ok | apply AccLegal.wait | apply AccLegal.bad | apply AccLegal.of_bind | apply AccLegal.foldl
    | with_reducible first | apply FstLegal.get | apply FstLegal.foldl | apply Legal.foldl
    | intro _
    | dsimp only

theorem unitFixerCallComplete_legal {s0 s : State} (h : Legal s0 s) (err : HwErr) :
    Legal s0 (unitFixerCallComplete err s) := by
  unfold unitFixerCallComplete
  repeat' first
    | with_reducible assumption
    | with_reducible first | apply finishFix_legal | apply callChunks_legal | apply failFix_legal | apply sharedError_legal | apply fixRest_legal
    | with_reducible first | apply runChunks_legal | apply useFree_legal | apply fixCheck_legal | apply Legal.parts
    | simp only [FstLegal.lit]
    | simp only [Legal.lit]
    | with_reducible first | apply Legal.ite | apply AccLegal.ite
    | split
    | refine Legal.of_bad ‹_› ?_ | refine Legal.of_fst ‹_› ?_ | refine Legal.of_ok ‹_› ?_ | refine Legal.of_wait ‹_› ?_
    | with_reducible first | apply AccLegal.ok | apply AccLegal.wait | apply AccLegal.bad | apply AccLegal.of_bind | apply AccLegal.foldl
    | with_reducible first | apply FstLegal.get | apply FstLegal.foldl | apply Legal.foldl
    | intro _
    | dsimp only

theorem loadWindow_legal {s0 s : State} (h : Legal s0 s) (e : BitVec 512) :
    Legal s0 (loadWindow s e) := by
  unfold loadWindow
  repeat' first
    | with_reducible assumption
    | with_reducible first | apply setReg_legal | apply Legal.parts
    | simp only [Legal.lit]
    | with_reducible first | apply Legal.ite
    | split
    | with_reducible first | apply Legal.foldl
    | intro _
    | dsimp only

theorem execFixSeRead_legal {s0 s : State} (h : Legal s0 s) (ctx : BitVec 12) :
    OutLegal s0 (execFixSeRead ctx s) := by
  unfold execFixSeRead
  repeat' first
    | with_reducible assumption
    | with_reducible first | apply loadWindow_legal | apply setField_legal | apply wakeBy_legal | apply Legal.parts
    | simp only [Legal.lit]
    | with_reducible first | apply Legal.ite
    | split
    | refine Legal.of_next ‹_› ?_
    | with_reducible first | apply OutLegal.next | apply Legal.foldl
    | intro _
    | dsimp only

theorem settleCommits_legal {s0 s : State} (h : Legal s0 s) (ctx : Nat) :
    Legal s0 (settleCommits s ctx) := by
  unfold settleCommits
  repeat' first
    | with_reducible assumption
    | with_reducible first | apply setSe_legal | apply Legal.parts
    | simp only [Legal.lit]
    | with_reducible first | apply Legal.ite
    | split
    | with_reducible first | apply Legal.foldl
    | intro _
    | dsimp only

theorem execFixSeCommit_legal {s0 s : State} (h : Legal s0 s) (ctx : BitVec 12) (wrcnt : Bool) :
    OutLegal s0 (execFixSeCommit ctx wrcnt s) := by
  unfold execFixSeCommit
  repeat' first
    | with_reducible assumption
    | with_reducible first | apply wakeBy_legal | apply setField_legal | apply setSe_legal | apply Legal.parts
    | simp only [Legal.lit]
    | with_reducible first | apply Legal.ite
    | split
    | refine Legal.of_next ‹_› ?_
    | with_reducible first | apply OutLegal.next | apply Legal.foldl
    | intro _
    | dsimp only

/-! Ports. -/

theorem portDownRec_legal {s0 s : State} (h : Legal s0 s) (n : Nat) :
    Legal s0 (portDownRec s n) := by
  unfold portDownRec
  repeat' first
    | with_reducible assumption
    | with_reducible first | apply pushErr_legal | apply Legal.parts
    | simp only [Legal.lit]
    | with_reducible first | apply Legal.ite
    | split
    | with_reducible first | apply Legal.foldl
    | intro _
    | dsimp only

theorem freeWaiting_legal {s0 s : State} (h : Legal s0 s) (n : Nat) :
    Legal s0 (freeWaiting s n) := by
  unfold freeWaiting
  repeat' first
    | with_reducible assumption
    | with_reducible first | apply freeSlots_legal | apply Legal.parts
    | simp only [Legal.lit]
    | with_reducible first | apply Legal.ite
    | split
    | with_reducible first | apply Legal.foldl
    | intro _
    | dsimp only

theorem writeRetrain_legal {s0 s : State} (h : Legal s0 s) (n : Nat) :
    Legal s0 (writeRetrain s n) := by
  unfold writeRetrain
  repeat' first
    | with_reducible assumption
    | with_reducible first | apply leaveSets_legal | apply bump_legal | apply setPort_legal | apply Legal.parts
    | simp only [Legal.lit]
    | with_reducible first | apply Legal.ite
    | split
    | with_reducible first | apply Legal.foldl
    | intro _
    | dsimp only

theorem enterDown_legal {s0 s : State} (h : Legal s0 s) (n : Nat) :
    Legal s0 (enterDown s n) := by
  unfold enterDown
  repeat' first
    | with_reducible assumption
    | with_reducible first | apply portDownRec_legal | apply bump_legal | apply freeWaiting_legal | apply leaveSets_legal | apply setPort_legal
    | with_reducible first | apply linkLost_legal | apply writeRetrain_legal | apply Legal.parts
    | simp only [Legal.lit]
    | with_reducible first | apply Legal.ite
    | split
    | with_reducible first | apply Legal.foldl
    | intro _
    | dsimp only

theorem leaveOff_legal {s0 s : State} (h : Legal s0 s) (n : Nat) :
    Legal s0 (leaveOff s n) := by
  unfold leaveOff
  repeat' first
    | with_reducible assumption
    | with_reducible first | apply setPort_legal | apply Legal.parts
    | simp only [Legal.lit]
    | with_reducible first | apply Legal.ite
    | split
    | with_reducible first | apply Legal.foldl
    | intro _
    | dsimp only

theorem enablePort_legal {s0 s : State} (h : Legal s0 s) (n : Nat) :
    Legal s0 (enablePort s n) := by
  unfold enablePort
  repeat' first
    | with_reducible assumption
    | with_reducible first | apply setPort_legal | apply setField_legal | apply leaveOff_legal | apply Legal.parts
    | simp only [Legal.lit]
    | with_reducible first | apply Legal.ite
    | split
    | with_reducible first | apply Legal.foldl
    | intro _
    | dsimp only

theorem execPortEnable_legal {s0 s : State} (h : Legal s0 s) (port : Nat) :
    OutLegal s0 (execPortEnable port s) := by
  unfold execPortEnable
  repeat' first
    | with_reducible assumption
    | with_reducible first | apply enablePort_legal | apply wakeBy_legal | apply Legal.parts
    | simp only [Legal.lit]
    | with_reducible first | apply Legal.ite
    | split
    | refine Legal.of_next ‹_› ?_
    | with_reducible first | apply OutLegal.next | apply Legal.foldl
    | intro _
    | dsimp only

theorem disablePort_legal {s0 s : State} (h : Legal s0 s) (n : Nat) :
    Legal s0 (disablePort s n) := by
  unfold disablePort
  repeat' first
    | with_reducible assumption
    | with_reducible first | apply setPort_legal | apply setField_legal | apply leaveSets_legal | apply Legal.parts
    | simp only [Legal.lit]
    | with_reducible first | apply Legal.ite
    | split
    | with_reducible first | apply Legal.foldl
    | intro _
    | dsimp only

theorem execPortDisable_legal {s0 s : State} (h : Legal s0 s) (port : Nat) :
    OutLegal s0 (execPortDisable port s) := by
  unfold execPortDisable
  repeat' first
    | with_reducible assumption
    | with_reducible first | apply disablePort_legal | apply wakeBy_legal | apply Legal.parts
    | simp only [Legal.lit]
    | with_reducible first | apply Legal.ite
    | split
    | refine Legal.of_next ‹_› ?_
    | with_reducible first | apply OutLegal.next | apply Legal.foldl
    | intro _
    | dsimp only

theorem execRetrain_legal {s0 s : State} (h : Legal s0 s) (port : Nat) :
    OutLegal s0 (execRetrain port s) := by
  unfold execRetrain
  repeat' first
    | with_reducible assumption
    | with_reducible first | apply writeRetrain_legal | apply wakeBy_legal | apply Legal.parts
    | simp only [Legal.lit]
    | with_reducible first | apply Legal.ite
    | split
    | refine Legal.of_next ‹_› ?_
    | with_reducible first | apply OutLegal.next | apply Legal.foldl
    | intro _
    | dsimp only

theorem sendFlit_legal {s0 s : State} (h : Legal s0 s) (n : Nat) (ftype : Nat) (first : Nat) (seq : Nat) (payload : List Byte) :
    Legal s0 (sendFlit s n ftype first seq payload) := by
  unfold sendFlit
  repeat' first
    | with_reducible assumption
    | with_reducible first | apply send_legal | apply setPort_legal | apply Legal.parts
    | simp only [Legal.lit]
    | with_reducible first | apply Legal.ite
    | split
    | with_reducible first | apply Legal.foldl
    | intro _
    | dsimp only

theorem sendIdle_legal {s0 s : State} (h : Legal s0 s) (n : Nat) :
    Legal s0 (sendIdle s n) := by
  unfold sendIdle
  repeat' first
    | with_reducible assumption
    | with_reducible first | apply sendFlit_legal | apply Legal.parts
    | simp only [Legal.lit]
    | with_reducible first | apply Legal.ite
    | split
    | with_reducible first | apply Legal.foldl
    | intro _
    | dsimp only

theorem sendCtrl_legal {s0 s : State} (h : Legal s0 s) (n : Nat) (kind : Nat) (self : Option PeerInfo) :
    Legal s0 (sendCtrl s n kind self) := by
  unfold sendCtrl
  repeat' first
    | with_reducible assumption
    | with_reducible first | apply send_legal | apply setPort_legal | apply Legal.parts
    | simp only [Legal.lit]
    | with_reducible first | apply Legal.ite
    | split
    | with_reducible first | apply Legal.foldl
    | intro _
    | dsimp only

theorem execTrainDone_legal {s0 s : State} (h : Legal s0 s) (port : Nat) (good : BitVec 16) (rtt : BitVec 12) :
    OutLegal s0 (execTrainDone port good rtt s) := by
  unfold execTrainDone
  repeat' first
    | with_reducible assumption
    | with_reducible first | apply setPort_legal | apply sendCtrl_legal | apply Legal.parts
    | simp only [Legal.lit]
    | with_reducible first | apply Legal.ite
    | split
    | refine Legal.of_next ‹_› ?_
    | with_reducible first | apply OutLegal.next | apply Legal.foldl
    | intro _
    | dsimp only

theorem execTrainTimeout_legal {s0 s : State} (h : Legal s0 s) (port : Nat) :
    OutLegal s0 (execTrainTimeout port s) := by
  unfold execTrainTimeout
  repeat' first
    | with_reducible assumption
    | with_reducible first | apply enterDown_legal | apply Legal.parts
    | simp only [Legal.lit]
    | with_reducible first | apply Legal.ite
    | split
    | refine Legal.of_next ‹_› ?_
    | with_reducible first | apply OutLegal.next | apply Legal.foldl
    | intro _
    | dsimp only

theorem execCtrlFlit_legal {s0 s : State} (h : Legal s0 s) (port : Nat) (peer : PeerInfo) :
    OutLegal s0 (execCtrlFlit port peer s) := by
  unfold execCtrlFlit
  repeat' first
    | with_reducible assumption
    | with_reducible first | apply hbRefresh_legal | apply setPort_legal | apply Legal.parts
    | simp only [Legal.lit]
    | with_reducible first | apply Legal.ite
    | split
    | refine Legal.of_next ‹_› ?_
    | with_reducible first | apply OutLegal.next | apply Legal.foldl
    | intro _
    | dsimp only

theorem execLaneLockLoss_legal {s0 s : State} (h : Legal s0 s) (port : Nat) (lane : Nat) :
    OutLegal s0 (execLaneLockLoss port lane s) := by
  unfold execLaneLockLoss
  repeat' first
    | with_reducible assumption
    | with_reducible first | apply writeRetrain_legal | apply Legal.parts
    | simp only [Legal.lit]
    | with_reducible first | apply Legal.ite
    | split
    | refine Legal.of_next ‹_› ?_
    | with_reducible first | apply OutLegal.next | apply Legal.foldl
    | intro _
    | dsimp only

theorem resendAll_legal {s0 s : State} (h : Legal s0 s) (n : Nat) :
    Legal s0 (resendAll s n) := by
  unfold resendAll
  repeat' first
    | with_reducible assumption
    | with_reducible first | apply sendFlit_legal | apply Legal.parts
    | simp only [Legal.lit]
    | with_reducible first | apply Legal.ite
    | split
    | with_reducible first | apply Legal.foldl
    | intro _
    | dsimp only

theorem replayPort_legal {s0 s : State} (h : Legal s0 s) (n : Nat) :
    Legal s0 (replayPort s n) := by
  unfold replayPort
  repeat' first
    | with_reducible assumption
    | with_reducible first | apply writeRetrain_legal | apply resendAll_legal | apply countCE_legal | apply setPort_legal | apply Legal.parts
    | simp only [Legal.lit]
    | with_reducible first | apply Legal.ite
    | split
    | with_reducible first | apply Legal.foldl
    | intro _
    | dsimp only

theorem takeAck_legal {s0 s : State} (h : Legal s0 s) (n : Nat) (ack : BitVec 12) (cr : List Byte) :
    Legal s0 (takeAck s n ack cr) := by
  unfold takeAck
  repeat' first
    | with_reducible assumption
    | with_reducible first | apply setPort_legal | apply Legal.parts
    | simp only [Legal.lit]
    | with_reducible first | apply Legal.ite
    | split
    | with_reducible first | apply Legal.foldl
    | intro _
    | dsimp only

theorem takeArrival_legal {s0 s : State} (h : Legal s0 s) (n : Nat) (x : Txn) :
    Legal s0 (takeArrival n s x) := by
  unfold takeArrival
  repeat' first
    | with_reducible assumption
    | with_reducible first | apply freeSlots_legal | apply countDrop_legal | apply wakeBy_legal | apply setPort_legal | apply enqueueOn_legal
    | with_reducible first | apply Legal.parts
    | simp only [Legal.lit]
    | with_reducible first | apply Legal.ite
    | split
    | with_reducible first | apply Legal.foldl
    | intro _
    | dsimp only

theorem sendNak_legal {s0 s : State} (h : Legal s0 s) (n : Nat) :
    Legal s0 (sendNak s n) := by
  unfold sendNak
  repeat' first
    | with_reducible assumption
    | with_reducible first | apply sendFlit_legal | apply setPort_legal | apply Legal.parts
    | simp only [Legal.lit]
    | with_reducible first | apply Legal.ite
    | split
    | with_reducible first | apply Legal.foldl
    | intro _
    | dsimp only

theorem crcFails_legal {s0 s : State} (h : Legal s0 s) (port : Nat) :
    Legal s0 (crcFails s port) := by
  unfold crcFails
  repeat' first
    | with_reducible assumption
    | with_reducible first | apply sendNak_legal | apply countCE_legal | apply Legal.parts
    | simp only [Legal.lit]
    | with_reducible first | apply Legal.ite
    | split
    | with_reducible first | apply Legal.foldl
    | intro _
    | dsimp only

theorem execDataFlit_legal {s0 s : State} (h : Legal s0 s) (port : Nat) (flit : Flit) :
    OutLegal s0 (execDataFlit port flit s) := by
  unfold execDataFlit
  repeat' first
    | with_reducible assumption
    | with_reducible first | apply crcFails_legal | apply sendNak_legal | apply takeAck_legal | apply setPort_legal | apply takeArrival_legal
    | with_reducible first | apply Legal.parts
    | simp only [Legal.lit]
    | with_reducible first | apply Legal.ite
    | split
    | refine Legal.of_next ‹_› ?_
    | with_reducible first | apply OutLegal.next | apply Legal.foldl
    | intro _
    | dsimp only

theorem execNakFlit_legal {s0 s : State} (h : Legal s0 s) (port : Nat) (ack : BitVec 12) (cr : List Byte) :
    OutLegal s0 (execNakFlit port ack cr s) := by
  unfold execNakFlit
  repeat' first
    | with_reducible assumption
    | with_reducible first | apply replayPort_legal | apply takeAck_legal | apply Legal.parts
    | simp only [Legal.lit]
    | with_reducible first | apply Legal.ite
    | split
    | refine Legal.of_next ‹_› ?_
    | with_reducible first | apply OutLegal.next | apply Legal.foldl
    | intro _
    | dsimp only

theorem execIdleFlit_legal {s0 s : State} (h : Legal s0 s) (port : Nat) (ack : BitVec 12) (cr : List Byte) :
    OutLegal s0 (execIdleFlit port ack cr s) := by
  unfold execIdleFlit
  repeat' first
    | with_reducible assumption
    | with_reducible first | apply takeAck_legal | apply Legal.parts
    | simp only [Legal.lit]
    | with_reducible first | apply Legal.ite
    | split
    | refine Legal.of_next ‹_› ?_
    | with_reducible first | apply OutLegal.next | apply Legal.foldl
    | intro _
    | dsimp only

theorem execFlitCrcFail_legal {s0 s : State} (h : Legal s0 s) (port : Nat) :
    OutLegal s0 (execFlitCrcFail port s) := by
  unfold execFlitCrcFail
  repeat' first
    | with_reducible assumption
    | with_reducible first | apply crcFails_legal | apply Legal.parts
    | simp only [Legal.lit]
    | with_reducible first | apply Legal.ite
    | split
    | refine Legal.of_next ‹_› ?_
    | with_reducible first | apply OutLegal.next | apply Legal.foldl
    | intro _
    | dsimp only

theorem execNakHoldoffExpiry_legal {s0 s : State} (h : Legal s0 s) (port : Nat) :
    OutLegal s0 (execNakHoldoffExpiry port s) := by
  unfold execNakHoldoffExpiry
  repeat' first
    | with_reducible assumption
    | with_reducible first | apply setPort_legal | apply Legal.parts
    | simp only [Legal.lit]
    | with_reducible first | apply Legal.ite
    | split
    | refine Legal.of_next ‹_› ?_
    | with_reducible first | apply OutLegal.next | apply Legal.foldl
    | intro _
    | dsimp only

theorem execRetryTimeout_legal {s0 s : State} (h : Legal s0 s) (port : Nat) :
    OutLegal s0 (execRetryTimeout port s) := by
  unfold execRetryTimeout
  repeat' first
    | with_reducible assumption
    | with_reducible first | apply replayPort_legal | apply Legal.parts
    | simp only [Legal.lit]
    | with_reducible first | apply Legal.ite
    | split
    | refine Legal.of_next ‹_› ?_
    | with_reducible first | apply OutLegal.next | apply Legal.foldl
    | intro _
    | dsimp only

theorem execRetrainDone_legal {s0 s : State} (h : Legal s0 s) (port : Nat) (good : BitVec 16) (rtt : BitVec 12) :
    OutLegal s0 (execRetrainDone port good rtt s) := by
  unfold execRetrainDone
  repeat' first
    | with_reducible assumption
    | with_reducible first | apply resendAll_legal | apply hbRefresh_legal | apply setPort_legal | apply Legal.parts
    | simp only [Legal.lit]
    | with_reducible first | apply Legal.ite
    | split
    | refine Legal.of_next ‹_› ?_
    | with_reducible first | apply OutLegal.next | apply Legal.foldl
    | intro _
    | dsimp only

theorem execRetrainTimeout_legal {s0 s : State} (h : Legal s0 s) (port : Nat) :
    OutLegal s0 (execRetrainTimeout port s) := by
  unfold execRetrainTimeout
  repeat' first
    | with_reducible assumption
    | with_reducible first | apply enterDown_legal | apply Legal.parts
    | simp only [Legal.lit]
    | with_reducible first | apply Legal.ite
    | split
    | refine Legal.of_next ‹_› ?_
    | with_reducible first | apply OutLegal.next | apply Legal.foldl
    | intro _
    | dsimp only

theorem execDrainDone_legal {s0 s : State} (h : Legal s0 s) (port : Nat) :
    OutLegal s0 (execDrainDone port s) := by
  unfold execDrainDone
  repeat' first
    | with_reducible assumption
    | with_reducible first | apply freeWaiting_legal | apply setPort_legal | apply leaveOff_legal | apply Legal.parts
    | simp only [Legal.lit]
    | with_reducible first | apply Legal.ite
    | split
    | refine Legal.of_next ‹_› ?_
    | with_reducible first | apply OutLegal.next | apply Legal.foldl
    | intro _
    | dsimp only

theorem sendData_legal {s0 s : State} (h : Legal s0 s) (n : Nat) (f : Nat × List Byte) :
    Legal s0 (sendData n s f) := by
  unfold sendData
  repeat' first
    | with_reducible assumption
    | with_reducible first | apply setPort_legal | apply sendFlit_legal | apply Legal.parts
    | simp only [Legal.lit]
    | with_reducible first | apply Legal.ite
    | split
    | with_reducible first | apply Legal.foldl
    | intro _
    | dsimp only

theorem execTransactionSend_legal {s0 s : State} (h : Legal s0 s) (port : Nat) (starved : Option Nat) :
    OutLegal s0 (execTransactionSend port starved s) := by
  unfold execTransactionSend
  repeat' first
    | with_reducible assumption
    | with_reducible first | apply sendIdle_legal | apply setPort_legal | apply freeSlots_legal | apply sendData_legal | apply Legal.parts
    | simp only [Legal.lit]
    | with_reducible first | apply Legal.ite
    | split
    | refine Legal.of_next ‹_› ?_
    | with_reducible first | apply OutLegal.next | apply Legal.foldl
    | intro _
    | dsimp only

theorem takeCtrl_legal {s0 s : State} (h : Legal s0 s) (n : Nat) (ack : BitVec 12) (cr : List Byte) :
    Legal s0 (takeCtrl s n ack cr) := by
  unfold takeCtrl
  repeat' first
    | with_reducible assumption
    | with_reducible first | apply takeAck_legal | apply Legal.parts
    | simp only [Legal.lit]
    | with_reducible first | apply Legal.ite
    | split
    | with_reducible first | apply Legal.foldl
    | intro _
    | dsimp only

theorem execWidth1_legal {s0 s : State} (h : Legal s0 s) (port : Nat) (ack : BitVec 12) (cr : List Byte) :
    OutLegal s0 (execWidth1 port s ack cr) := by
  unfold execWidth1
  repeat' first
    | with_reducible assumption
    | with_reducible first | apply takeCtrl_legal | apply setPort_legal | apply Legal.parts
    | simp only [Legal.lit]
    | with_reducible first | apply Legal.ite
    | split
    | refine Legal.of_next ‹_› ?_
    | with_reducible first | apply OutLegal.next | apply Legal.foldl
    | intro _
    | dsimp only

theorem execWiden_legal {s0 s : State} (h : Legal s0 s) (port : Nat) (ack : BitVec 12) (cr : List Byte) :
    OutLegal s0 (execWiden port s ack cr) := by
  unfold execWiden
  repeat' first
    | with_reducible assumption
    | with_reducible first | apply takeCtrl_legal | apply wakeBy_legal | apply writeRetrain_legal | apply Legal.parts
    | simp only [Legal.lit]
    | with_reducible first | apply Legal.ite
    | split
    | refine Legal.of_next ‹_› ?_
    | with_reducible first | apply OutLegal.next | apply Legal.foldl
    | intro _
    | dsimp only

theorem execWidenResendTimer_legal {s0 s : State} (h : Legal s0 s) (port : Nat) :
    OutLegal s0 (execWidenResendTimer port s) := by
  unfold execWidenResendTimer
  repeat' first
    | with_reducible assumption
    | with_reducible first | apply sendCtrl_legal | apply Legal.parts
    | simp only [Legal.lit]
    | with_reducible first | apply Legal.ite
    | split
    | refine Legal.of_next ‹_› ?_
    | with_reducible first | apply OutLegal.next | apply Legal.foldl
    | intro _
    | dsimp only

theorem execHbeatTimer_legal {s0 s : State} (h : Legal s0 s) (port : Nat) :
    OutLegal s0 (execHbeatTimer port s) := by
  unfold execHbeatTimer
  repeat' first
    | with_reducible assumption
    | with_reducible first | apply enqueueOn_legal | apply setPort_legal | apply sendIdle_legal | apply Legal.parts
    | simp only [Legal.lit]
    | with_reducible first | apply Legal.ite
    | split
    | refine Legal.of_next ‹_› ?_
    | with_reducible first | apply OutLegal.next | apply Legal.foldl
    | intro _
    | dsimp only

theorem execHbeat_legal {s0 s : State} (h : Legal s0 s) (src : Option Nat) :
    OutLegal s0 (execHbeat src s) := by
  unfold execHbeat
  repeat' first
    | with_reducible assumption
    | with_reducible first | apply arrive_legal | apply setPort_legal | apply Legal.parts
    | simp only [Legal.lit]
    | with_reducible first | apply Legal.ite
    | split
    | refine Legal.of_arr ‹_› ?_ | refine Legal.of_drop ‹_› ?_ | refine Legal.of_next ‹_› ?_
    | with_reducible first | apply OutLegal.next | apply ArrLegal.none | apply ArrLegal.drop | apply ArrLegal.ok | apply Legal.foldl
    | intro _
    | dsimp only

theorem execHeartbeatMissTimer_legal {s0 s : State} (h : Legal s0 s) (port : Nat) :
    OutLegal s0 (execHeartbeatMissTimer port s) := by
  unfold execHeartbeatMissTimer
  repeat' first
    | with_reducible assumption
    | with_reducible first | apply setPort_legal | apply writeRetrain_legal | apply linkLost_legal | apply Legal.parts
    | simp only [Legal.lit]
    | with_reducible first | apply Legal.ite
    | split
    | refine Legal.of_next ‹_› ?_
    | with_reducible first | apply OutLegal.next | apply Legal.foldl
    | intro _
    | dsimp only

theorem execDark_legal {s0 s : State} (h : Legal s0 s) (src : Option Nat) :
    OutLegal s0 (execDark src s) := by
  unfold execDark
  repeat' first
    | with_reducible assumption
    | with_reducible first | apply arrive_legal | apply setPort_legal | apply Legal.parts
    | simp only [Legal.lit]
    | with_reducible first | apply Legal.ite
    | split
    | refine Legal.of_arr ‹_› ?_ | refine Legal.of_drop ‹_› ?_ | refine Legal.of_next ‹_› ?_
    | with_reducible first | apply OutLegal.next | apply ArrLegal.none | apply ArrLegal.drop | apply ArrLegal.ok | apply Legal.foldl
    | intro _
    | dsimp only

theorem execSilenceTimerEnd_legal {s0 s : State} (h : Legal s0 s) (port : Nat) :
    OutLegal s0 (execSilenceTimerEnd port s) := by
  unfold execSilenceTimerEnd
  repeat' first
    | with_reducible assumption
    | with_reducible first | apply setPort_legal | apply Legal.parts
    | simp only [Legal.lit]
    | with_reducible first | apply Legal.ite
    | split
    | refine Legal.of_next ‹_› ?_
    | with_reducible first | apply OutLegal.next | apply Legal.foldl
    | intro _
    | dsimp only

theorem execDownRetrainTimer_legal {s0 s : State} (h : Legal s0 s) (port : Nat) :
    OutLegal s0 (execDownRetrainTimer port s) := by
  unfold execDownRetrainTimer
  repeat' first
    | with_reducible assumption
    | with_reducible first | apply writeRetrain_legal | apply Legal.parts
    | simp only [Legal.lit]
    | with_reducible first | apply Legal.ite
    | split
    | refine Legal.of_next ‹_› ?_
    | with_reducible first | apply OutLegal.next | apply Legal.foldl
    | intro _
    | dsimp only

/-! Copies. -/

theorem spPut_legal {s0 s : State} (h : Legal s0 s) (p : ProgRef) (rs : List (Nat × Nat)) (bs : List Byte) :
    Legal s0 (spPut s p rs bs) := by
  unfold spPut
  repeat' first
    | with_reducible assumption
    | with_reducible first | apply setCore_legal | apply Legal.parts
    | simp only [Legal.lit]
    | with_reducible first | apply Legal.ite
    | split
    | with_reducible first | apply Legal.foldl
    | intro _
    | dsimp only

theorem edgeFault_legal {s0 s : State} (h : Legal s0 s) (p : ProgRef) (q : Prog) (e : Eng) (idx : Nat) (ppa : Nat) (pkg : Option Nat) :
    Legal s0 (edgeFault s p q e idx ppa pkg) := by
  unfold edgeFault
  repeat' first
    | with_reducible assumption
    | with_reducible first | apply chargeOp_legal | apply logOnce_legal | apply Legal.parts
    | simp only [Legal.lit]
    | with_reducible first | apply Legal.ite
    | split
    | with_reducible first | apply Legal.foldl
    | intro _
    | dsimp only

theorem opStays_legal {s0 s : State} (h : Legal s0 s) (p : ProgRef) (e : Eng) (m : Nat) :
    Legal s0 (opStays s p e m) := by
  unfold opStays
  repeat' first
    | with_reducible assumption
    | with_reducible first | apply setProg_legal | apply Legal.parts
    | simp only [Legal.lit]
    | with_reducible first | apply Legal.ite
    | split
    | with_reducible first | apply Legal.foldl
    | intro _
    | dsimp only

theorem copyEnds_legal {s0 : State} (p : ProgRef) (q : Prog) (e : Eng) (o : OpSlot) {a : Acc (OpPhase × Nat)} (h_a : AccLegal s0 a) :
    Legal s0 (copyEnds p q e o a) := by
  unfold copyEnds
  repeat' first
    | with_reducible assumption
    | with_reducible first | apply opStays_legal | apply endHost_legal | apply opDone_legal | apply opHold_legal | apply edgeFault_legal
    | with_reducible first | apply chargeOp_legal | apply Legal.parts
    | simp only [Legal.lit]
    | with_reducible first | apply Legal.ite | apply AccLegal.ite
    | split
    | refine Legal.of_bad ‹_› ?_ | refine Legal.of_ok ‹_› ?_ | refine Legal.of_wait ‹_› ?_
    | with_reducible first | apply AccLegal.ok | apply AccLegal.wait | apply AccLegal.bad | apply AccLegal.of_bind | apply AccLegal.foldl
    | with_reducible first | apply Legal.foldl
    | exact Legal.of_ok rfl ‹_› | exact Legal.of_wait rfl ‹_› | exact Legal.of_bad rfl ‹_›
    | intro _
    | dsimp only

theorem runCopy_legal {s0 s : State} (h : Legal s0 s) (p : ProgRef) (e : Eng) (err : HwErr) (opc : Nat) {eff : State →
  Prog → OpSlot → Acc (OpPhase × Nat)} (h_eff : ∀ y0 y1 y2, Legal s0 y0 → AccLegal s0 (eff y0 y1 y2)) :
    Legal s0 (runCopy s p e err opc eff) := by
  unfold runCopy
  repeat' first
    | with_reducible assumption
    | with_reducible first | apply hwCheck_legal | apply setProg_legal | apply copyEnds_legal | apply faultOf_legal | apply h_eff | apply Legal.parts
    | simp only [FstLegal.lit]
    | simp only [Legal.lit]
    | with_reducible first | apply Legal.ite | apply AccLegal.ite
    | split
    | refine Legal.of_bad ‹_› ?_ | refine Legal.of_fst ‹_› ?_ | refine Legal.of_ok ‹_› ?_ | refine Legal.of_wait ‹_› ?_
    | with_reducible first | apply AccLegal.ok | apply AccLegal.wait | apply AccLegal.bad | apply AccLegal.of_bind | apply AccLegal.foldl
    | with_reducible first | apply FstLegal.get | apply FstLegal.foldl | apply Legal.foldl
    | intro _
    | dsimp only

theorem loadEff_legal {s0 s : State} (h : Legal s0 s) (spoilt : Option Nat) (p : ProgRef) (e : Eng) (q : Prog) (o : OpSlot) :
    AccLegal s0 (loadEff spoilt p e s q o) := by
  unfold loadEff
  repeat' first
    | with_reducible assumption
    | with_reducible first | apply rangesSegs_legal | apply segsReadC_legal | apply spPut_legal | apply Legal.parts
    | simp only [Legal.lit]
    | with_reducible first | apply Legal.ite | apply AccLegal.ite
    | split
    | refine Legal.of_bad ‹_› ?_ | refine Legal.of_ok ‹_› ?_ | refine Legal.of_wait ‹_› ?_
    | with_reducible first | apply AccLegal.ok | apply AccLegal.wait | apply AccLegal.bad | apply AccLegal.of_bind | apply AccLegal.foldl
    | with_reducible first | apply Legal.foldl
    | intro _
    | dsimp only

theorem storeEff_legal {s0 s : State} (h : Legal s0 s) (spoilt : Option Nat) (p : ProgRef) (e : Eng) (q : Prog) (o : OpSlot) :
    AccLegal s0 (storeEff spoilt p e s q o) := by
  unfold storeEff
  repeat' first
    | with_reducible assumption
    | with_reducible first | apply rangesSegs_legal | apply segsWriteC_legal | apply setPoison_legal | apply Legal.parts
    | simp only [Legal.lit]
    | with_reducible first | apply Legal.ite | apply AccLegal.ite
    | split
    | refine Legal.of_bad ‹_› ?_ | refine Legal.of_ok ‹_› ?_ | refine Legal.of_wait ‹_› ?_
    | with_reducible first | apply AccLegal.ok | apply AccLegal.wait | apply AccLegal.bad | apply AccLegal.of_bind | apply AccLegal.foldl
    | with_reducible first | apply Legal.foldl
    | intro _
    | dsimp only

theorem carried_legal {s0 s : State} (h : Legal s0 s) (p : ProgRef) (r : ProgRef) (q : Prog) (o : OpSlot) :
    AccLegal s0 (carried s p r q o) := by
  unfold carried
  repeat' first
    | with_reducible assumption
    | with_reducible first | apply spPut_legal | apply Legal.parts
    | simp only [Legal.lit]
    | with_reducible first | apply Legal.ite | apply AccLegal.ite
    | split
    | refine Legal.of_bad ‹_› ?_ | refine Legal.of_ok ‹_› ?_ | refine Legal.of_wait ‹_› ?_
    | with_reducible first | apply AccLegal.ok | apply AccLegal.wait | apply AccLegal.bad | apply AccLegal.of_bind | apply AccLegal.foldl
    | with_reducible first | apply Legal.foldl
    | intro _
    | dsimp only

theorem moveEff_legal {s0 s : State} (h : Legal s0 s) (p : ProgRef) (q : Prog) (o : OpSlot) :
    AccLegal s0 (moveEff p s q o) := by
  unfold moveEff
  repeat' first
    | with_reducible assumption
    | with_reducible first | apply carried_legal | apply Legal.parts
    | simp only [Legal.lit]
    | with_reducible first | apply Legal.ite | apply AccLegal.ite
    | split
    | refine Legal.of_bad ‹_› ?_ | refine Legal.of_ok ‹_› ?_ | refine Legal.of_wait ‹_› ?_
    | with_reducible first | apply AccLegal.ok | apply AccLegal.wait | apply AccLegal.bad | apply AccLegal.of_bind | apply AccLegal.foldl
    | intro _
    | dsimp only

theorem execMove_legal {s0 s : State} (h : Legal s0 s) (p : ProgRef) (eng : Eng) (err : HwErr) :
    OutLegal s0 (execMove p eng err s) := by
  unfold execMove
  repeat' first
    | with_reducible assumption
    | with_reducible first | apply runCopy_legal | apply moveEff_legal | apply Legal.parts
    | simp only [Legal.lit]
    | with_reducible first | apply Legal.ite | apply AccLegal.ite
    | split
    | refine Legal.of_bad ‹_› ?_ | refine Legal.of_next ‹_› ?_ | refine Legal.of_ok ‹_› ?_ | refine Legal.of_wait ‹_› ?_
    | with_reducible first | apply AccLegal.ok | apply AccLegal.wait | apply AccLegal.bad | apply AccLegal.of_bind | apply AccLegal.foldl
    | with_reducible first | apply OutLegal.next | apply Legal.foldl
    | intro _
    | dsimp only

theorem putEff_legal {s0 s : State} (h : Legal s0 s) (p : ProgRef) (q : Prog) (o : OpSlot) :
    AccLegal s0 (putEff p s q o) := by
  unfold putEff
  repeat' first
    | with_reducible assumption
    | with_reducible first | apply carried_legal | apply Legal.parts
    | simp only [Legal.lit]
    | with_reducible first | apply Legal.ite | apply AccLegal.ite
    | split
    | refine Legal.of_bad ‹_› ?_ | refine Legal.of_ok ‹_› ?_ | refine Legal.of_wait ‹_› ?_
    | with_reducible first | apply AccLegal.ok | apply AccLegal.wait | apply AccLegal.bad | apply AccLegal.of_bind | apply AccLegal.foldl
    | intro _
    | dsimp only

theorem execPut_legal {s0 s : State} (h : Legal s0 s) (p : ProgRef) (eng : Eng) (err : HwErr) :
    OutLegal s0 (execPut p eng err s) := by
  unfold execPut
  repeat' first
    | with_reducible assumption
    | with_reducible first | apply runCopy_legal | apply putEff_legal | apply Legal.parts
    | simp only [Legal.lit]
    | with_reducible first | apply Legal.ite | apply AccLegal.ite
    | split
    | refine Legal.of_bad ‹_› ?_ | refine Legal.of_next ‹_› ?_ | refine Legal.of_ok ‹_› ?_ | refine Legal.of_wait ‹_› ?_
    | with_reducible first | apply AccLegal.ok | apply AccLegal.wait | apply AccLegal.bad | apply AccLegal.of_bind | apply AccLegal.foldl
    | with_reducible first | apply OutLegal.next | apply Legal.foldl
    | intro _
    | dsimp only

/-! Remote. -/

theorem issueReq_legal {s0 s : State} (h : Legal s0 s) (ctx : Nat) (ttype : Nat) (dst : Nat) (ppa : Nat) (len : Nat) (coded : Bool) (hi :
      BitVec 64) (data : List Byte) (why : Purpose) :
    OptLegal s0 (issueReq s ctx ttype dst ppa len coded hi data why) := by
  unfold issueReq
  repeat' first
    | with_reducible assumption
    | with_reducible first | apply nextUid_legal | apply sendOn_legal | apply Legal.parts
    | simp only [Legal.lit]
    | with_reducible first | apply Legal.ite
    | split
    | refine Legal.of_some ‹_› ?_
    | with_reducible first | apply OptLegal.none | apply OptLegal.some | apply OptLegal.mapS | apply OptLegal.map | apply OptLegal.bind
    | with_reducible first | apply OptLegal.getD | apply Legal.foldl
    | intro _
    | dsimp only

theorem readPiece_legal {s0 s : State} (h : Legal s0 s) (p : ProgRef) (ch : Bool) (o : OpSlot) (ctx : Nat) (pkg : Nat) (coded : Bool) (x :
      Nat × Nat × Nat) :
    OptLegal s0 (readPiece p ch o ctx pkg coded s x) := by
  unfold readPiece
  repeat' first
    | with_reducible assumption
    | with_reducible first | apply issueReq_legal | apply Legal.parts
    | simp only [Legal.lit]
    | with_reducible first | apply Legal.ite
    | split
    | refine Legal.of_some ‹_› ?_
    | with_reducible first | apply OptLegal.none | apply OptLegal.some | apply OptLegal.mapS | apply OptLegal.map | apply OptLegal.bind
    | with_reducible first | apply OptLegal.getD
    | intro _
    | dsimp only

theorem writePiece_legal {s0 s : State} (h : Legal s0 s) (p : ProgRef) (ch : Bool) (o : OpSlot) (ctx : Nat) (pkg : Nat) (coded : Bool) (bs
      : List Byte) (x : Nat × Nat × Nat) :
    OptLegal s0 (writePiece p ch o ctx pkg coded bs s x) := by
  unfold writePiece
  repeat' first
    | with_reducible assumption
    | with_reducible first | apply issueReq_legal | apply Legal.parts
    | simp only [Legal.lit]
    | with_reducible first | apply Legal.ite
    | split
    | refine Legal.of_some ‹_› ?_
    | with_reducible first | apply OptLegal.none | apply OptLegal.some | apply OptLegal.mapS | apply OptLegal.map | apply OptLegal.bind
    | with_reducible first | apply OptLegal.getD
    | intro _
    | dsimp only

theorem issueAll_legal {s0 : State} : ∀ (x3 : List (Nat × Nat × Nat)) (room : State → Nat × Nat × Nat → Bool) {f : State → Nat × Nat × Nat
      → Option State} (_ : ∀ y0 y1, Legal s0 y0 → OptLegal s0 (f y0 y1)) {a : State} (_ : Legal s0 a),
    OptFst s0 (issueAll room f a x3) := by
  intro x3
  induction x3 with
  | nil =>
    intro room f h_f a h_a
    unfold issueAll
    repeat' first
      | with_reducible assumption
      | with_reducible first | apply h_f | apply Legal.parts
      | simp only [FstLegal.lit]
      | simp only [Legal.lit]
      | with_reducible first | apply Legal.ite
      | split
      | refine Legal.of_fst ‹_› ?_ | refine Legal.of_optfst ‹_› ?_ | refine Legal.of_some ‹_› ?_
      | with_reducible first | apply OptLegal.none | apply OptLegal.some | apply OptLegal.mapS | apply OptLegal.map | apply OptLegal.bind
      | with_reducible first | apply OptLegal.getD | apply FstLegal.get | apply FstLegal.foldl | apply OptFst.none | apply OptFst.some
      | with_reducible first | apply OptFst.mapS | apply OptFst.bind | apply OptFst.bindF
      | intro _
      | dsimp only
  | cons _ _ ih =>
    intro room f h_f a h_a
    unfold issueAll
    repeat' first
      | with_reducible assumption
      | with_reducible first | apply ih | apply h_f | apply Legal.parts
      | simp only [FstLegal.lit]
      | simp only [Legal.lit]
      | with_reducible first | apply Legal.ite
      | split
      | refine Legal.of_fst ‹_› ?_ | refine Legal.of_optfst ‹_› ?_ | refine Legal.of_some ‹_› ?_
      | with_reducible first | apply OptLegal.none | apply OptLegal.some | apply OptLegal.mapS | apply OptLegal.map | apply OptLegal.bind
      | with_reducible first | apply OptLegal.getD | apply FstLegal.get | apply FstLegal.foldl | apply OptFst.none | apply OptFst.some
      | with_reducible first | apply OptFst.mapS | apply OptFst.bind | apply OptFst.bindF
      | intro _
      | dsimp only

theorem issueSome_legal {s0 s : State} (h : Legal s0 s) (room : State → Nat × Nat × Nat → Bool) {f : State → Nat × Nat × Nat → Option
      State} (h_f : ∀ y0 y1, Legal s0 y0 → OptLegal s0 (f y0 y1)) (p : ProgRef) (e : Eng) (o : OpSlot) (coded : Bool) (rs : List (Nat ×
      Nat)) :
    AccLegal s0 (issueSome room f p e s o coded rs) := by
  unfold issueSome
  repeat' first
    | with_reducible assumption
    | with_reducible first | apply issueAll_legal | apply h_f | apply Legal.parts
    | simp only [FstLegal.lit]
    | simp only [Legal.lit]
    | with_reducible first | apply Legal.ite | apply AccLegal.ite
    | split
    | refine Legal.of_bad ‹_› ?_ | refine Legal.of_fst ‹_› ?_ | refine Legal.of_ok ‹_› ?_ | refine Legal.of_optfst ‹_› ?_
    | refine Legal.of_some ‹_› ?_ | refine Legal.of_wait ‹_› ?_
    | with_reducible first | apply AccLegal.ok | apply AccLegal.wait | apply AccLegal.bad | apply AccLegal.of_bind | apply AccLegal.foldl
    | with_reducible first | apply OptLegal.none | apply OptLegal.some | apply OptLegal.mapS | apply OptLegal.map | apply OptLegal.bind
    | with_reducible first | apply OptLegal.getD | apply FstLegal.get | apply FstLegal.foldl | apply OptFst.none | apply OptFst.some
    | with_reducible first | apply OptFst.mapS | apply OptFst.bind | apply OptFst.bindF
    | intro _
    | dsimp only

theorem rreadEff_legal {s0 s : State} (h : Legal s0 s) (p : ProgRef) (e : Eng) (q : Prog) (o : OpSlot) :
    AccLegal s0 (rreadEff p e s q o) := by
  unfold rreadEff
  repeat' first
    | with_reducible assumption
    | with_reducible first | apply issueSome_legal | apply readPiece_legal | apply Legal.parts
    | simp only [Legal.lit]
    | with_reducible first | apply Legal.ite | apply AccLegal.ite
    | split
    | refine Legal.of_bad ‹_› ?_ | refine Legal.of_ok ‹_› ?_ | refine Legal.of_some ‹_› ?_ | refine Legal.of_wait ‹_› ?_
    | with_reducible first | apply AccLegal.ok | apply AccLegal.wait | apply AccLegal.bad | apply AccLegal.of_bind | apply AccLegal.foldl
    | with_reducible first | apply OptLegal.none | apply OptLegal.some | apply OptLegal.mapS | apply OptLegal.map | apply OptLegal.bind
    | with_reducible first | apply OptLegal.getD
    | intro _
    | dsimp only

theorem execRread_legal {s0 s : State} (h : Legal s0 s) (p : ProgRef) (eng : Eng) (err : HwErr) :
    OutLegal s0 (execRread p eng err s) := by
  unfold execRread
  repeat' first
    | with_reducible assumption
    | with_reducible first | apply runCopy_legal | apply rreadEff_legal | apply Legal.parts
    | simp only [Legal.lit]
    | with_reducible first | apply Legal.ite | apply AccLegal.ite
    | split
    | refine Legal.of_bad ‹_› ?_ | refine Legal.of_next ‹_› ?_ | refine Legal.of_ok ‹_› ?_ | refine Legal.of_wait ‹_› ?_
    | with_reducible first | apply AccLegal.ok | apply AccLegal.wait | apply AccLegal.bad | apply AccLegal.of_bind | apply AccLegal.foldl
    | with_reducible first | apply OutLegal.next | apply Legal.foldl
    | intro _
    | dsimp only

theorem rwriteEff_legal {s0 s : State} (h : Legal s0 s) (p : ProgRef) (e : Eng) (q : Prog) (o : OpSlot) :
    AccLegal s0 (rwriteEff p e s q o) := by
  unfold rwriteEff
  repeat' first
    | with_reducible assumption
    | with_reducible first | apply issueSome_legal | apply writePiece_legal | apply Legal.parts
    | simp only [Legal.lit]
    | with_reducible first | apply Legal.ite | apply AccLegal.ite
    | split
    | refine Legal.of_bad ‹_› ?_ | refine Legal.of_ok ‹_› ?_ | refine Legal.of_some ‹_› ?_ | refine Legal.of_wait ‹_› ?_
    | with_reducible first | apply AccLegal.ok | apply AccLegal.wait | apply AccLegal.bad | apply AccLegal.of_bind | apply AccLegal.foldl
    | with_reducible first | apply OptLegal.none | apply OptLegal.some | apply OptLegal.mapS | apply OptLegal.map | apply OptLegal.bind
    | with_reducible first | apply OptLegal.getD
    | intro _
    | dsimp only

theorem execRwrite_legal {s0 s : State} (h : Legal s0 s) (p : ProgRef) (eng : Eng) (err : HwErr) :
    OutLegal s0 (execRwrite p eng err s) := by
  unfold execRwrite
  repeat' first
    | with_reducible assumption
    | with_reducible first | apply runCopy_legal | apply rwriteEff_legal | apply Legal.parts
    | simp only [Legal.lit]
    | with_reducible first | apply Legal.ite | apply AccLegal.ite
    | split
    | refine Legal.of_bad ‹_› ?_ | refine Legal.of_next ‹_› ?_ | refine Legal.of_ok ‹_› ?_ | refine Legal.of_wait ‹_› ?_
    | with_reducible first | apply AccLegal.ok | apply AccLegal.wait | apply AccLegal.bad | apply AccLegal.of_bind | apply AccLegal.foldl
    | with_reducible first | apply OutLegal.next | apply Legal.foldl
    | intro _
    | dsimp only

theorem countRefused_legal {s0 s : State} (h : Legal s0 s) (src : Option Nat) (status : Nat) :
    Legal s0 (countRefused s src status) := by
  unfold countRefused
  repeat' first
    | with_reducible assumption
    | with_reducible first | apply bump_legal | apply Legal.parts
    | simp only [Legal.lit]
    | with_reducible first | apply Legal.ite
    | split
    | with_reducible first | apply Legal.foldl
    | intro _
    | dsimp only

theorem readRaw_legal {s0 s : State} (h : Legal s0 s) (a : Nat) (n : Nat) :
    ThdLegal s0 (readRaw s a n) := by
  unfold readRaw
  repeat' first
    | with_reducible assumption
    | with_reducible first | apply logUe_legal | apply Legal.parts
    | simp only [SndLegal.lit, ThdLegal.lit]
    | simp only [Legal.lit]
    | with_reducible first | apply Legal.ite
    | split
    | refine Legal.of_snd ‹_› ?_ | refine Legal.of_thd ‹_› ?_
    | with_reducible first | apply SndLegal.get | apply SndLegal.foldl | apply ThdLegal.get | apply ThdLegal.snd | apply Legal.foldl
    | intro _
    | dsimp only

theorem serveNow_legal {s0 s s1 : State} (h : Legal s0 s) (h_s1 : Legal s0 s1) (x : Txn) (st : Nat) (src : Option Nat) (write : Bool) {eff
      : State → Txn → Nat → Txn × State} (h_eff : ∀ y0 y1 y2, Legal s0 y0 → SndLegal s0 (eff y0 y1 y2)) :
    Legal s0 (serveNow s s1 x st src write eff) := by
  unfold serveNow
  repeat' first
    | with_reducible assumption
    | with_reducible first | apply readyLines_legal | apply sendOn_legal | apply countRefused_legal | apply h_eff | apply Legal.parts
    | simp only [SndLegal.lit]
    | simp only [Legal.lit]
    | with_reducible first | apply Legal.ite
    | split
    | refine Legal.of_snd ‹_› ?_ | refine Legal.of_some ‹_› ?_
    | with_reducible first | apply OptLegal.none | apply OptLegal.some | apply OptLegal.mapS | apply OptLegal.map | apply OptLegal.bind
    | with_reducible first | apply OptLegal.getD | apply SndLegal.get | apply SndLegal.foldl | apply Legal.foldl
    | intro _
    | dsimp only

theorem serveReq_legal {s0 s : State} (h : Legal s0 s) (src : Option Nat) (t : Nat) (write : Bool) (atomic : Bool) {eff : State → Txn → Nat
      → Txn × State} (h_eff : ∀ y0 y1 y2, Legal s0 y0 → SndLegal s0 (eff y0 y1 y2)) :
    Legal s0 (serveReq s src t write atomic eff) := by
  unfold serveReq
  repeat' first
    | with_reducible assumption
    | with_reducible first | apply arrive_legal | apply serveNow_legal | apply h_eff | apply Legal.parts
    | simp only [SndLegal.lit]
    | simp only [Legal.lit]
    | with_reducible first | apply Legal.ite
    | split
    | refine Legal.of_arr ‹_› ?_ | refine Legal.of_drop ‹_› ?_ | refine Legal.of_snd ‹_› ?_
    | with_reducible first | apply ArrLegal.none | apply ArrLegal.drop | apply ArrLegal.ok | apply SndLegal.get | apply SndLegal.foldl
    | with_reducible first | apply Legal.foldl
    | intro _
    | dsimp only

theorem rdEff_legal {s0 s : State} (h : Legal s0 s) (x : Txn) (st : Nat) :
    SndLegal s0 (rdEff s x st) := by
  unfold rdEff
  repeat' first
    | with_reducible assumption
    | with_reducible first | apply readRaw_legal | apply Legal.parts
    | simp only [SndLegal.lit, ThdLegal.lit]
    | simp only [Legal.lit]
    | with_reducible first | apply Legal.ite
    | split
    | refine Legal.of_snd ‹_› ?_ | refine Legal.of_thd ‹_› ?_
    | with_reducible first | apply SndLegal.get | apply SndLegal.foldl | apply ThdLegal.get | apply ThdLegal.snd
    | intro _
    | dsimp only

theorem unitRd_legal {s0 s : State} (h : Legal s0 s) (src : Option Nat) :
    Legal s0 (unitRd src s) := by
  unfold unitRd
  repeat' first
    | with_reducible assumption
    | with_reducible first | apply serveReq_legal | apply rdEff_legal | apply Legal.parts
    | simp only [SndLegal.lit]
    | simp only [Legal.lit]
    | with_reducible first | apply Legal.ite
    | split
    | refine Legal.of_snd ‹_› ?_
    | with_reducible first | apply SndLegal.get | apply SndLegal.foldl | apply Legal.foldl
    | intro _
    | dsimp only

theorem wrEff_legal {s0 s : State} (h : Legal s0 s) (x : Txn) (st : Nat) :
    SndLegal s0 (wrEff s x st) := by
  unfold wrEff
  repeat' first
    | with_reducible assumption
    | with_reducible first | apply devWriteNow_legal | apply devSend_legal | apply Legal.parts
    | simp only [SndLegal.lit]
    | simp only [Legal.lit]
    | with_reducible first | apply Legal.ite
    | split
    | refine Legal.of_snd ‹_› ?_
    | with_reducible first | apply SndLegal.get | apply SndLegal.foldl | apply Legal.foldl
    | intro _
    | dsimp only

theorem execWr_legal {s0 s : State} (h : Legal s0 s) (src : Option Nat) :
    OutLegal s0 (execWr src s) := by
  unfold execWr
  repeat' first
    | with_reducible assumption
    | with_reducible first | apply serveReq_legal | apply wrEff_legal | apply Legal.parts
    | simp only [SndLegal.lit]
    | simp only [Legal.lit]
    | with_reducible first | apply Legal.ite
    | split
    | refine Legal.of_next ‹_› ?_ | refine Legal.of_snd ‹_› ?_
    | with_reducible first | apply OutLegal.next | apply SndLegal.get | apply SndLegal.foldl | apply Legal.foldl
    | intro _
    | dsimp only

theorem atomicEff_legal {s0 s : State} (h : Legal s0 s) (f : Txn → Nat → Nat) (x : Txn) (st : Nat) :
    SndLegal s0 (atomicEff f s x st) := by
  unfold atomicEff
  repeat' first
    | with_reducible assumption
    | with_reducible first | apply useFree_legal | apply readRaw_legal | apply devWriteNow_legal | apply Legal.parts
    | simp only [SndLegal.lit, ThdLegal.lit]
    | simp only [Legal.lit]
    | with_reducible first | apply Legal.ite
    | split
    | refine Legal.of_snd ‹_› ?_ | refine Legal.of_thd ‹_› ?_
    | with_reducible first | apply SndLegal.get | apply SndLegal.foldl | apply ThdLegal.get | apply ThdLegal.snd | apply Legal.foldl
    | intro _
    | dsimp only

theorem execAtadd_legal {s0 s : State} (h : Legal s0 s) (src : Option Nat) :
    OutLegal s0 (execAtadd src s) := by
  unfold execAtadd
  repeat' first
    | with_reducible assumption
    | with_reducible first | apply serveReq_legal | apply atomicEff_legal | apply Legal.parts
    | simp only [SndLegal.lit]
    | simp only [Legal.lit]
    | with_reducible first | apply Legal.ite
    | split
    | refine Legal.of_next ‹_› ?_ | refine Legal.of_snd ‹_› ?_
    | with_reducible first | apply OutLegal.next | apply SndLegal.get | apply SndLegal.foldl | apply Legal.foldl
    | intro _
    | dsimp only

theorem execAtcas_legal {s0 s : State} (h : Legal s0 s) (src : Option Nat) :
    OutLegal s0 (execAtcas src s) := by
  unfold execAtcas
  repeat' first
    | with_reducible assumption
    | with_reducible first | apply serveReq_legal | apply atomicEff_legal | apply Legal.parts
    | simp only [SndLegal.lit]
    | simp only [Legal.lit]
    | with_reducible first | apply Legal.ite
    | split
    | refine Legal.of_next ‹_› ?_ | refine Legal.of_snd ‹_› ?_
    | with_reducible first | apply OutLegal.next | apply SndLegal.get | apply SndLegal.foldl | apply Legal.foldl
    | intro _
    | dsimp only

/-! Loupe. -/

theorem lpeFault_legal {s0 s : State} (h : Legal s0 s) (n : Nat) (ctx : Nat) (tid : Nat) (code : Nat) (addr : Nat) (pkg : Nat) :
    FstLegal s0 (lpeFault s n ctx tid code addr pkg) := by
  unfold lpeFault
  repeat' first
    | with_reducible assumption
    | with_reducible first | apply logOnce_legal | apply Legal.parts
    | simp only [FstLegal.lit]
    | simp only [Legal.lit]
    | with_reducible first | apply Legal.ite
    | split
    | refine Legal.of_fst ‹_› ?_
    | with_reducible first | apply FstLegal.get | apply FstLegal.foldl | apply Legal.foldl
    | intro _
    | dsimp only

theorem voidLoupe_legal {s0 s : State} (h : Legal s0 s) (n : Nat) :
    Legal s0 (voidLoupe s n) := by
  unfold voidLoupe
  repeat' first
    | with_reducible assumption
    | with_reducible first | apply voidReqs_legal | apply Legal.parts
    | simp only [Legal.lit]
    | with_reducible first | apply Legal.ite
    | split
    | with_reducible first | apply Legal.foldl
    | intro _
    | dsimp only

theorem failLoupe_legal {s0 s : State} (h : Legal s0 s) (n : Nat) (c : LoupeCall) (early : Bool) (f : UnitFault) :
    Legal s0 (failLoupe s n c early f) := by
  unfold failLoupe
  repeat' first
    | with_reducible assumption
    | with_reducible first | apply chargeCall_legal | apply endHost_legal | apply voidLoupe_legal | apply setRun_legal | apply Legal.parts
    | simp only [Legal.lit]
    | with_reducible first | apply Legal.ite
    | split
    | with_reducible first | apply Legal.foldl
    | intro _
    | dsimp only

theorem loupeBad_legal {s0 s : State} (h : Legal s0 s) (n : Nat) (r : LoupeRun) (early : Bool) (code : Nat) (addr : Nat) (pkg : Nat) :
    Legal s0 (loupeBad s n r early code addr pkg) := by
  unfold loupeBad
  repeat' first
    | with_reducible assumption
    | with_reducible first | apply lpeFault_legal | apply failLoupe_legal | apply Legal.parts
    | simp only [FstLegal.lit]
    | simp only [Legal.lit]
    | with_reducible first | apply Legal.ite
    | split
    | refine Legal.of_fst ‹_› ?_
    | with_reducible first | apply FstLegal.get | apply FstLegal.foldl | apply Legal.foldl
    | intro _
    | dsimp only

theorem tableEff_legal {s0 s : State} (h : Legal s0 s) (op : Nat) (p : ProgRef) (q : Prog) (o : OpSlot) :
    AccLegal s0 (tableEff op p s q o) := by
  unfold tableEff
  repeat' first
    | with_reducible assumption
    | with_reducible first | apply nextUid_legal | apply setLoupe_legal | apply Legal.parts
    | simp only [Legal.lit]
    | with_reducible first | apply Legal.ite | apply AccLegal.ite
    | split
    | refine Legal.of_bad ‹_› ?_ | refine Legal.of_ok ‹_› ?_ | refine Legal.of_wait ‹_› ?_
    | with_reducible first | apply AccLegal.ok | apply AccLegal.wait | apply AccLegal.bad | apply AccLegal.of_bind | apply AccLegal.foldl
    | with_reducible first | apply Legal.foldl
    | intro _
    | dsimp only

theorem execGather_legal {s0 s : State} (h : Legal s0 s) (p : ProgRef) :
    OutLegal s0 (execGather p s) := by
  unfold execGather
  repeat' first
    | with_reducible assumption
    | with_reducible first | apply runOp_legal | apply whole_legal | apply tableEff_legal | apply Legal.parts
    | simp only [Legal.lit]
    | with_reducible first | apply Legal.ite | apply AccLegal.ite
    | split
    | refine Legal.of_bad ‹_› ?_ | refine Legal.of_next ‹_› ?_ | refine Legal.of_ok ‹_› ?_ | refine Legal.of_wait ‹_› ?_
    | with_reducible first | apply AccLegal.ok | apply AccLegal.wait | apply AccLegal.bad | apply AccLegal.of_bind | apply AccLegal.foldl
    | with_reducible first | apply OutLegal.next | apply Legal.foldl
    | intro _
    | dsimp only

theorem execPool_legal {s0 s : State} (h : Legal s0 s) (p : ProgRef) :
    OutLegal s0 (execPool p s) := by
  unfold execPool
  repeat' first
    | with_reducible assumption
    | with_reducible first | apply runOp_legal | apply whole_legal | apply tableEff_legal | apply Legal.parts
    | simp only [Legal.lit]
    | with_reducible first | apply Legal.ite | apply AccLegal.ite
    | split
    | refine Legal.of_bad ‹_› ?_ | refine Legal.of_next ‹_› ?_ | refine Legal.of_ok ‹_› ?_ | refine Legal.of_wait ‹_› ?_
    | with_reducible first | apply AccLegal.ok | apply AccLegal.wait | apply AccLegal.bad | apply AccLegal.of_bind | apply AccLegal.foldl
    | with_reducible first | apply OutLegal.next | apply Legal.foldl
    | intro _
    | dsimp only

theorem execScatterAdd_legal {s0 s : State} (h : Legal s0 s) (p : ProgRef) :
    OutLegal s0 (execScatterAdd p s) := by
  unfold execScatterAdd
  repeat' first
    | with_reducible assumption
    | with_reducible first | apply runOp_legal | apply whole_legal | apply tableEff_legal | apply Legal.parts
    | simp only [Legal.lit]
    | with_reducible first | apply Legal.ite | apply AccLegal.ite
    | split
    | refine Legal.of_bad ‹_› ?_ | refine Legal.of_next ‹_› ?_ | refine Legal.of_ok ‹_› ?_ | refine Legal.of_wait ‹_› ?_
    | with_reducible first | apply AccLegal.ok | apply AccLegal.wait | apply AccLegal.bad | apply AccLegal.of_bind | apply AccLegal.foldl
    | with_reducible first | apply OutLegal.next | apply Legal.foldl
    | intro _
    | dsimp only

theorem execRowupdate_legal {s0 s : State} (h : Legal s0 s) (p : ProgRef) :
    OutLegal s0 (execRowupdate p s) := by
  unfold execRowupdate
  repeat' first
    | with_reducible assumption
    | with_reducible first | apply runOp_legal | apply whole_legal | apply tableEff_legal | apply Legal.parts
    | simp only [Legal.lit]
    | with_reducible first | apply Legal.ite | apply AccLegal.ite
    | split
    | refine Legal.of_bad ‹_› ?_ | refine Legal.of_next ‹_› ?_ | refine Legal.of_ok ‹_› ?_ | refine Legal.of_wait ‹_› ?_
    | with_reducible first | apply AccLegal.ok | apply AccLegal.wait | apply AccLegal.bad | apply AccLegal.of_bind | apply AccLegal.foldl
    | with_reducible first | apply OutLegal.next | apply Legal.foldl
    | intro _
    | dsimp only

theorem fetchLocal_legal {s0 : State} : ∀ (x5 : List (Nat × Nat)) (n : Nat) (ctx : Nat) (own : Nat) (coded : Bool) {a : State} (_ : Legal
      s0 a) (x6 : Tbl Byte),
    AccLegal s0 (fetchLocal n ctx own coded a x5 x6) := by
  intro x5
  induction x5 with
  | nil =>
    intro n ctx own coded a h_a x6
    unfold fetchLocal
    repeat' first
      | with_reducible assumption
      | with_reducible first | apply segsReadC_legal | apply Legal.parts
      | simp only [Legal.lit]
      | with_reducible first | apply Legal.ite | apply AccLegal.ite
      | split
      | refine Legal.of_bad ‹_› ?_ | refine Legal.of_ok ‹_› ?_ | refine Legal.of_wait ‹_› ?_
      | with_reducible first | apply AccLegal.ok | apply AccLegal.wait | apply AccLegal.bad | apply AccLegal.of_bind | apply AccLegal.foldl
      | intro _
      | dsimp only
  | cons _ _ ih =>
    intro n ctx own coded a h_a x6
    unfold fetchLocal
    repeat' first
      | with_reducible assumption
      | with_reducible first | apply ih | apply segsReadC_legal | apply Legal.parts
      | simp only [Legal.lit]
      | with_reducible first | apply Legal.ite | apply AccLegal.ite
      | split
      | refine Legal.of_bad ‹_› ?_ | refine Legal.of_ok ‹_› ?_ | refine Legal.of_wait ‹_› ?_
      | with_reducible first | apply AccLegal.ok | apply AccLegal.wait | apply AccLegal.bad | apply AccLegal.of_bind | apply AccLegal.foldl
      | intro _
      | dsimp only

theorem callerRead_legal {s0 s : State} (h : Legal s0 s) (n : Nat) (c : LoupeCall) (b : BitVec 512) (rs : List (Nat × Nat)) :
    AccLegal s0 (callerRead s n c b rs) := by
  unfold callerRead
  repeat' first
    | with_reducible assumption
    | with_reducible first | apply rangesSegs_legal | apply segsReadC_legal | apply Legal.parts
    | simp only [Legal.lit]
    | with_reducible first | apply Legal.ite | apply AccLegal.ite
    | split
    | refine Legal.of_bad ‹_› ?_ | refine Legal.of_ok ‹_› ?_ | refine Legal.of_wait ‹_› ?_
    | with_reducible first | apply AccLegal.ok | apply AccLegal.wait | apply AccLegal.bad | apply AccLegal.of_bind | apply AccLegal.foldl
    | intro _
    | dsimp only

theorem callerWrite_legal {s0 s : State} (h : Legal s0 s) (n : Nat) (c : LoupeCall) (b : BitVec 512) (rs : List (Nat × Nat)) (bs : List
      Byte) :
    AccLegal s0 (callerWrite s n c b rs bs) := by
  unfold callerWrite
  repeat' first
    | with_reducible assumption
    | with_reducible first | apply rangesSegs_legal | apply segsWriteC_legal | apply spPut_legal | apply Legal.parts
    | simp only [Legal.lit]
    | with_reducible first | apply Legal.ite | apply AccLegal.ite
    | split
    | refine Legal.of_bad ‹_› ?_ | refine Legal.of_ok ‹_› ?_ | refine Legal.of_wait ‹_› ?_
    | with_reducible first | apply AccLegal.ok | apply AccLegal.wait | apply AccLegal.bad | apply AccLegal.of_bind | apply AccLegal.foldl
    | with_reducible first | apply Legal.foldl
    | intro _
    | dsimp only

theorem loupeHead_legal {s0 s : State} (h : Legal s0 s) (n : Nat) (c : LoupeCall) :
    AccLegal s0 (loupeHead s n c) := by
  unfold loupeHead
  repeat' first
    | with_reducible assumption
    | with_reducible first | apply callBlock_legal | apply readList_legal | apply Legal.parts
    | simp only [Legal.lit]
    | with_reducible first | apply Legal.ite | apply AccLegal.ite
    | split
    | refine Legal.of_bad ‹_› ?_ | refine Legal.of_ok ‹_› ?_ | refine Legal.of_wait ‹_› ?_
    | with_reducible first | apply AccLegal.ok | apply AccLegal.wait | apply AccLegal.bad | apply AccLegal.of_bind | apply AccLegal.foldl
    | intro _
    | dsimp only

theorem startRows_legal {s0 s : State} (h : Legal s0 s) (n : Nat) (r : LoupeRun) :
    AccLegal s0 (startRows s n r) := by
  unfold startRows
  repeat' first
    | with_reducible assumption
    | with_reducible first | apply fetchLocal_legal | apply Legal.parts
    | simp only [Legal.lit]
    | with_reducible first | apply Legal.ite | apply AccLegal.ite
    | split
    | refine Legal.of_bad ‹_› ?_ | refine Legal.of_ok ‹_› ?_ | refine Legal.of_wait ‹_› ?_
    | with_reducible first | apply AccLegal.ok | apply AccLegal.wait | apply AccLegal.bad | apply AccLegal.of_bind | apply AccLegal.foldl
    | intro _
    | dsimp only

theorem startScatter_legal {s0 s : State} (h : Legal s0 s) (n : Nat) (r : LoupeRun) :
    AccLegal s0 (startScatter s n r) := by
  unfold startScatter
  repeat' first
    | with_reducible assumption
    | with_reducible first | apply callerRead_legal | apply useFree_legal | apply Legal.parts
    | simp only [Legal.lit]
    | with_reducible first | apply Legal.ite | apply AccLegal.ite
    | split
    | refine Legal.of_bad ‹_› ?_ | refine Legal.of_ok ‹_› ?_ | refine Legal.of_wait ‹_› ?_
    | with_reducible first | apply AccLegal.ok | apply AccLegal.wait | apply AccLegal.bad | apply AccLegal.of_bind | apply AccLegal.foldl
    | with_reducible first | apply Legal.foldl
    | intro _
    | dsimp only

theorem startUpdate_legal {s0 s : State} (h : Legal s0 s) (r : LoupeRun) :
    AccLegal s0 (startUpdate s r) := by
  unfold startUpdate
  repeat' first
    | with_reducible assumption
    | with_reducible first | apply fixImg_legal | apply devRead_legal | apply useFree_legal | apply Legal.parts
    | simp only [Legal.lit]
    | with_reducible first | apply Legal.ite | apply AccLegal.ite
    | split
    | refine Legal.of_bad ‹_› ?_ | refine Legal.of_ok ‹_› ?_ | refine Legal.of_wait ‹_› ?_
    | with_reducible first | apply AccLegal.ok | apply AccLegal.wait | apply AccLegal.bad | apply AccLegal.of_bind | apply AccLegal.foldl
    | with_reducible first | apply Legal.foldl
    | intro _
    | dsimp only

theorem loupeStart_legal {s0 s : State} (h : Legal s0 s) (n : Nat) (c : LoupeCall) :
    AccLegal s0 (loupeStart s n c) := by
  unfold loupeStart
  repeat' first
    | with_reducible assumption
    | with_reducible first | apply loupeHead_legal | apply startScatter_legal | apply startUpdate_legal | apply startRows_legal | apply Legal.parts
    | simp only [Legal.lit]
    | with_reducible first | apply Legal.ite | apply AccLegal.ite
    | split
    | refine Legal.of_bad ‹_› ?_ | refine Legal.of_ok ‹_› ?_ | refine Legal.of_wait ‹_› ?_
    | with_reducible first | apply AccLegal.ok | apply AccLegal.wait | apply AccLegal.bad | apply AccLegal.of_bind | apply AccLegal.foldl
    | intro _
    | dsimp only

theorem loupeIssue_legal {s0 s : State} (h : Legal s0 s) (r : LoupeRun) (ttype : Nat) (pkg : Nat) (ppa : Nat) (len : Nat) (coded : Bool)
      (data : List Byte) (why : Purpose) :
    OptFst s0 (loupeIssue s r ttype pkg ppa len coded data why) := by
  unfold loupeIssue
  repeat' first
    | with_reducible assumption
    | with_reducible first | apply issueReq_legal | apply Legal.parts
    | simp only [FstLegal.lit]
    | simp only [Legal.lit]
    | with_reducible first | apply Legal.ite
    | split
    | refine Legal.of_fst ‹_› ?_ | refine Legal.of_optfst ‹_› ?_ | refine Legal.of_some ‹_› ?_
    | with_reducible first | apply OptLegal.none | apply OptLegal.some | apply OptLegal.mapS | apply OptLegal.map | apply OptLegal.bind
    | with_reducible first | apply OptLegal.getD | apply FstLegal.get | apply FstLegal.foldl | apply OptFst.none | apply OptFst.some
    | with_reducible first | apply OptFst.mapS | apply OptFst.bind | apply OptFst.bindF
    | intro _
    | dsimp only

theorem issueCursor_legal {s0 s : State} (h : Legal s0 s) (n : Nat) (r : LoupeRun) (g : LoupeGroup) :
    OptFst s0 (issueCursor n s r g) := by
  unfold issueCursor
  repeat' first
    | with_reducible assumption
    | with_reducible first | apply loupeIssue_legal | apply Legal.parts
    | simp only [FstLegal.lit]
    | simp only [Legal.lit]
    | with_reducible first | apply Legal.ite
    | split
    | refine Legal.of_fst ‹_› ?_ | refine Legal.of_optfst ‹_› ?_
    | with_reducible first | apply FstLegal.get | apply FstLegal.foldl | apply OptFst.none | apply OptFst.some | apply OptFst.mapS | apply OptFst.bind
    | with_reducible first | apply OptFst.bindF
    | intro _
    | dsimp only

theorem issueMore_legal {s0 : State} : ∀ (a : Nat) (n : Nat) {x2 : State} (_ : Legal s0 x2) (x3 : LoupeRun),
    ExcFst s0 (issueMore n a x2 x3) := by
  intro a
  induction a with
  | zero =>
    intro n x2 h_x2 x3
    unfold issueMore
    repeat' first
      | with_reducible assumption
      | with_reducible first | apply loupeIssue_legal | apply issueCursor_legal | apply Legal.parts
      | simp only [FstLegal.lit]
      | simp only [Legal.lit]
      | with_reducible first | apply Legal.ite
      | split
      | refine Legal.of_excfst ‹_› ?_ | refine Legal.of_fst ‹_› ?_ | refine Legal.of_optfst ‹_› ?_
      | with_reducible first | apply FstLegal.get | apply FstLegal.foldl | apply OptFst.none | apply OptFst.some | apply OptFst.mapS | apply OptFst.bind
      | with_reducible first | apply OptFst.bindF | apply ExcFst.error | apply ExcFst.ok
      | intro _
      | dsimp only
  | succ _ ih =>
    intro n x2 h_x2 x3
    unfold issueMore
    repeat' first
      | with_reducible assumption
      | with_reducible first | apply ih | apply loupeIssue_legal | apply issueCursor_legal | apply Legal.parts
      | simp only [FstLegal.lit]
      | simp only [Legal.lit]
      | with_reducible first | apply Legal.ite
      | split
      | refine Legal.of_excfst ‹_› ?_ | refine Legal.of_fst ‹_› ?_ | refine Legal.of_optfst ‹_› ?_
      | with_reducible first | apply FstLegal.get | apply FstLegal.foldl | apply OptFst.none | apply OptFst.some | apply OptFst.mapS | apply OptFst.bind
      | with_reducible first | apply OptFst.bindF | apply ExcFst.error | apply ExcFst.ok
      | intro _
      | dsimp only

theorem issueAllOf_legal {s0 s : State} (h : Legal s0 s) (n : Nat) (r : LoupeRun) :
    ExcFst s0 (issueAllOf n s r) := by
  unfold issueAllOf
  repeat' first
    | with_reducible assumption
    | with_reducible first | apply issueMore_legal | apply Legal.parts
    | simp only [FstLegal.lit]
    | simp only [Legal.lit]
    | with_reducible first | apply Legal.ite
    | split
    | refine Legal.of_excfst ‹_› ?_ | refine Legal.of_fst ‹_› ?_
    | with_reducible first | apply FstLegal.get | apply FstLegal.foldl | apply ExcFst.error | apply ExcFst.ok
    | intro _
    | dsimp only

theorem putIssued_legal {s0 s : State} (h : Legal s0 s) (n : Nat) (r : LoupeRun) {a : Except Nat (State × LoupeRun)} (h_a : ExcFst s0 a) :
    Legal s0 (putIssued s n r a) := by
  unfold putIssued
  repeat' first
    | with_reducible assumption
    | with_reducible first | apply setRun_legal | apply loupeBad_legal | apply Legal.parts
    | simp only [FstLegal.lit]
    | simp only [Legal.lit]
    | with_reducible first | apply Legal.ite
    | split
    | refine Legal.of_excfst ‹_› ?_ | refine Legal.of_fst ‹_› ?_
    | with_reducible first | apply FstLegal.get | apply FstLegal.foldl | apply ExcFst.error | apply ExcFst.ok | apply Legal.foldl
    | exact Legal.of_excfst rfl ‹_›
    | intro _
    | dsimp only

theorem lpeCheck_legal {s0 s : State} (h : Legal s0 s) (n : Nat) (r : LoupeRun) (par : Bool) (i : Nat) (j : Nat) :
    Legal s0 (lpeCheck s n r par i j) := by
  unfold lpeCheck
  repeat' first
    | with_reducible assumption
    | with_reducible first | apply failLoupe_legal | apply logOnce_legal | apply bump_legal | apply Legal.parts
    | simp only [Legal.lit]
    | with_reducible first | apply Legal.ite
    | split
    | with_reducible first | apply Legal.foldl
    | intro _
    | dsimp only

theorem unitLoupeCallStart_legal {s0 s : State} (h : Legal s0 s) (n : Nat) (err : HwErr) :
    Legal s0 (unitLoupeCallStart n err s) := by
  unfold unitLoupeCallStart
  repeat' first
    | with_reducible assumption
    | with_reducible first | apply loupeStart_legal | apply setLoupe_legal | apply lpeFault_legal | apply failLoupe_legal | apply sharedError_legal
    | with_reducible first | apply lpeCheck_legal | apply putIssued_legal | apply issueAllOf_legal | apply Legal.parts
    | simp only [FstLegal.lit]
    | simp only [Legal.lit]
    | with_reducible first | apply Legal.ite | apply AccLegal.ite
    | split
    | refine Legal.of_bad ‹_› ?_ | refine Legal.of_excfst ‹_› ?_ | refine Legal.of_fst ‹_› ?_ | refine Legal.of_ok ‹_› ?_
    | refine Legal.of_wait ‹_› ?_
    | with_reducible first | apply AccLegal.ok | apply AccLegal.wait | apply AccLegal.bad | apply AccLegal.of_bind | apply AccLegal.foldl
    | with_reducible first | apply FstLegal.get | apply FstLegal.foldl | apply ExcFst.error | apply ExcFst.ok | apply Legal.foldl
    | intro _
    | dsimp only

theorem groupReady_legal {s0 s : State} (h : Legal s0 s) (n : Nat) (r : LoupeRun) (g : LoupeGroup) :
    Legal s0 (groupReady s n r g) := by
  unfold groupReady
  repeat' first
    | with_reducible assumption
    | with_reducible first | apply putIssued_legal | apply issueAllOf_legal | apply loupeBad_legal | apply Legal.parts
    | simp only [FstLegal.lit]
    | simp only [Legal.lit]
    | with_reducible first | apply Legal.ite
    | split
    | refine Legal.of_excfst ‹_› ?_ | refine Legal.of_fst ‹_› ?_
    | with_reducible first | apply FstLegal.get | apply FstLegal.foldl | apply ExcFst.error | apply ExcFst.ok | apply Legal.foldl
    | intro _
    | dsimp only

theorem putCoded_legal {s0 : State} : ∀ (a : List Nat) {x1 : State} (_ : Legal s0 x1) (x2 : Nat) (x3 : List Byte),
    AccLegal s0 (putCoded a x1 x2 x3) := by
  intro a
  induction a with
  | nil =>
    intro x1 h_x1 x2 x3
    unfold putCoded
    repeat' first
      | with_reducible assumption
      | with_reducible first | apply checkBlock_legal | apply putCode_legal | apply devWriteNow_legal | apply Legal.parts
      | simp only [Legal.lit]
      | with_reducible first | apply Legal.ite | apply AccLegal.ite
      | split
      | refine Legal.of_bad ‹_› ?_ | refine Legal.of_ok ‹_› ?_ | refine Legal.of_wait ‹_› ?_
      | with_reducible first | apply AccLegal.ok | apply AccLegal.wait | apply AccLegal.bad | apply AccLegal.of_bind | apply AccLegal.foldl
      | with_reducible first | apply Legal.foldl
      | intro _
      | dsimp only
  | cons _ _ ih =>
    intro x1 h_x1 x2 x3
    unfold putCoded
    repeat' first
      | with_reducible assumption
      | with_reducible first | apply ih | apply checkBlock_legal | apply putCode_legal | apply devWriteNow_legal | apply Legal.parts
      | simp only [Legal.lit]
      | with_reducible first | apply Legal.ite | apply AccLegal.ite
      | split
      | refine Legal.of_bad ‹_› ?_ | refine Legal.of_ok ‹_› ?_ | refine Legal.of_wait ‹_› ?_
      | with_reducible first | apply AccLegal.ok | apply AccLegal.wait | apply AccLegal.bad | apply AccLegal.of_bind | apply AccLegal.foldl
      | with_reducible first | apply Legal.foldl
      | intro _
      | dsimp only

theorem putPlane_legal {s0 s : State} (h : Legal s0 s) (coded : Bool) (a : Nat) (bs : List Byte) :
    AccLegal s0 (putPlane coded s a bs) := by
  unfold putPlane
  repeat' first
    | with_reducible assumption
    | with_reducible first | apply putCoded_legal | apply devWriteNow_legal | apply Legal.parts
    | simp only [Legal.lit]
    | with_reducible first | apply Legal.ite | apply AccLegal.ite
    | split
    | refine Legal.of_bad ‹_› ?_ | refine Legal.of_ok ‹_› ?_ | refine Legal.of_wait ‹_› ?_
    | with_reducible first | apply AccLegal.ok | apply AccLegal.wait | apply AccLegal.bad | apply AccLegal.of_bind | apply AccLegal.foldl
    | with_reducible first | apply Legal.foldl
    | intro _
    | dsimp only

theorem updateRows_legal {s0 : State} : ∀ (x4 : List (Nat × List Nat × Nat)) (t : TableReg) (n : Nat) (ctx : Nat) {a : State} (_ : Legal s0
      a),
    AccLegal s0 (updateRows t n ctx a x4) := by
  intro x4
  induction x4 with
  | nil =>
    intro t n ctx a h_a
    unfold updateRows
    repeat' first
      | with_reducible assumption
      | with_reducible first | apply segsReadC_legal | apply putPlane_legal | apply Legal.parts
      | simp only [Legal.lit]
      | with_reducible first | apply Legal.ite | apply AccLegal.ite
      | split
      | refine Legal.of_bad ‹_› ?_ | refine Legal.of_ok ‹_› ?_ | refine Legal.of_wait ‹_› ?_
      | with_reducible first | apply AccLegal.ok | apply AccLegal.wait | apply AccLegal.bad | apply AccLegal.of_bind | apply AccLegal.foldl
      | intro _
      | dsimp only
  | cons _ _ ih =>
    intro t n ctx a h_a
    unfold updateRows
    repeat' first
      | with_reducible assumption
      | with_reducible first | apply ih | apply segsReadC_legal | apply putPlane_legal | apply Legal.parts
      | simp only [Legal.lit]
      | with_reducible first | apply Legal.ite | apply AccLegal.ite
      | split
      | refine Legal.of_bad ‹_› ?_ | refine Legal.of_ok ‹_› ?_ | refine Legal.of_wait ‹_› ?_
      | with_reducible first | apply AccLegal.ok | apply AccLegal.wait | apply AccLegal.bad | apply AccLegal.of_bind | apply AccLegal.foldl
      | intro _
      | dsimp only

theorem depositLocal_legal {s0 s : State} (h : Legal s0 s) (g : LoupeGroup) :
    AccLegal s0 (depositLocal s g) := by
  unfold depositLocal
  repeat' first
    | with_reducible assumption
    | with_reducible first | apply readyLines_legal | apply devReadNow_legal | apply devWriteNow_legal | apply Legal.parts
    | simp only [Legal.lit]
    | with_reducible first | apply Legal.ite | apply AccLegal.ite
    | split
    | refine Legal.of_bad ‹_› ?_ | refine Legal.of_ok ‹_› ?_ | refine Legal.of_some ‹_› ?_ | refine Legal.of_wait ‹_› ?_
    | with_reducible first | apply AccLegal.ok | apply AccLegal.wait | apply AccLegal.bad | apply AccLegal.of_bind | apply AccLegal.foldl
    | with_reducible first | apply OptLegal.none | apply OptLegal.some | apply OptLegal.mapS | apply OptLegal.map | apply OptLegal.bind
    | with_reducible first | apply OptLegal.getD | apply Legal.foldl
    | intro _
    | dsimp only

theorem loupeEffect_legal {s0 s : State} (h : Legal s0 s) (n : Nat) (r : LoupeRun) :
    AccLegal s0 (loupeEffect s n r) := by
  unfold loupeEffect
  repeat' first
    | with_reducible assumption
    | with_reducible first | apply depositLocal_legal | apply readyLines_legal | apply updateRows_legal | apply callerWrite_legal
    | with_reducible first | apply useFree_legal | apply Legal.parts
    | simp only [Legal.lit]
    | with_reducible first | apply Legal.ite | apply AccLegal.ite
    | split
    | refine Legal.of_bad ‹_› ?_ | refine Legal.of_ok ‹_› ?_ | refine Legal.of_some ‹_› ?_ | refine Legal.of_wait ‹_› ?_
    | with_reducible first | apply AccLegal.ok | apply AccLegal.wait | apply AccLegal.bad | apply AccLegal.of_bind | apply AccLegal.foldl
    | with_reducible first | apply OptLegal.none | apply OptLegal.some | apply OptLegal.mapS | apply OptLegal.map | apply OptLegal.bind
    | with_reducible first | apply OptLegal.getD | apply Legal.foldl
    | intro _
    | dsimp only

theorem swapCursor_legal {s0 s : State} (h : Legal s0 s) (r : LoupeRun) :
    AccLegal s0 (swapCursor s r) := by
  unfold swapCursor
  repeat' first
    | with_reducible assumption
    | with_reducible first | apply readyLines_legal | apply devReadNow_legal | apply devWriteNow_legal | apply Legal.parts
    | simp only [Legal.lit]
    | with_reducible first | apply Legal.ite | apply AccLegal.ite
    | split
    | refine Legal.of_bad ‹_› ?_ | refine Legal.of_ok ‹_› ?_ | refine Legal.of_some ‹_› ?_ | refine Legal.of_wait ‹_› ?_
    | with_reducible first | apply AccLegal.ok | apply AccLegal.wait | apply AccLegal.bad | apply AccLegal.of_bind | apply AccLegal.foldl
    | with_reducible first | apply OptLegal.none | apply OptLegal.some | apply OptLegal.mapS | apply OptLegal.map | apply OptLegal.bind
    | with_reducible first | apply OptLegal.getD | apply Legal.foldl
    | intro _
    | dsimp only

theorem loupeFinish_legal {s0 s : State} (h : Legal s0 s) (n : Nat) (r : LoupeRun) :
    Legal s0 (loupeFinish s n r) := by
  unfold loupeFinish
  repeat' first
    | with_reducible assumption
    | with_reducible first | apply cvaWrite_legal | apply loupeBad_legal | apply endCall_legal | apply endHost_legal | apply setRun_legal
    | with_reducible first | apply Legal.parts
    | simp only [Legal.lit]
    | with_reducible first | apply Legal.ite | apply AccLegal.ite
    | split
    | refine Legal.of_bad ‹_› ?_ | refine Legal.of_ok ‹_› ?_ | refine Legal.of_wait ‹_› ?_
    | with_reducible first | apply AccLegal.ok | apply AccLegal.wait | apply AccLegal.bad | apply AccLegal.of_bind | apply AccLegal.foldl
    | with_reducible first | apply Legal.foldl
    | intro _
    | dsimp only

theorem loupeSwap_legal {s0 s : State} (h : Legal s0 s) (n : Nat) (r : LoupeRun) :
    Legal s0 (loupeSwap s n r) := by
  unfold loupeSwap
  repeat' first
    | with_reducible assumption
    | with_reducible first | apply swapCursor_legal | apply loupeBad_legal | apply loupeFinish_legal | apply setRun_legal | apply Legal.parts
    | simp only [Legal.lit]
    | with_reducible first | apply Legal.ite | apply AccLegal.ite
    | split
    | refine Legal.of_bad ‹_› ?_ | refine Legal.of_ok ‹_› ?_ | refine Legal.of_wait ‹_› ?_
    | with_reducible first | apply AccLegal.ok | apply AccLegal.wait | apply AccLegal.bad | apply AccLegal.of_bind | apply AccLegal.foldl
    | with_reducible first | apply Legal.foldl
    | intro _
    | dsimp only

theorem handRows_legal {s0 s : State} (h : Legal s0 s) (n : Nat) (r : LoupeRun) :
    Legal s0 (handRows s n r) := by
  unfold handRows
  repeat' first
    | with_reducible assumption
    | with_reducible first | apply nextUid_legal | apply setRun_legal | apply Legal.parts
    | simp only [Legal.lit]
    | with_reducible first | apply Legal.ite
    | split
    | with_reducible first | apply Legal.foldl
    | intro _
    | dsimp only

theorem unitLoupeCallComplete_legal {s0 s : State} (h : Legal s0 s) (n : Nat) (err : HwErr) :
    Legal s0 (unitLoupeCallComplete n err s) := by
  unfold unitLoupeCallComplete
  repeat' first
    | with_reducible assumption
    | with_reducible first | apply putIssued_legal | apply issueAllOf_legal | apply handRows_legal | apply loupeSwap_legal | apply loupeEffect_legal
    | with_reducible first | apply loupeBad_legal | apply lpeCheck_legal | apply setRun_legal | apply Legal.parts
    | simp only [FstLegal.lit]
    | simp only [Legal.lit]
    | with_reducible first | apply Legal.ite | apply AccLegal.ite
    | split
    | refine Legal.of_bad ‹_› ?_ | refine Legal.of_excfst ‹_› ?_ | refine Legal.of_fst ‹_› ?_ | refine Legal.of_ok ‹_› ?_
    | refine Legal.of_wait ‹_› ?_
    | with_reducible first | apply AccLegal.ok | apply AccLegal.wait | apply AccLegal.bad | apply AccLegal.of_bind | apply AccLegal.foldl
    | with_reducible first | apply FstLegal.get | apply FstLegal.foldl | apply ExcFst.error | apply ExcFst.ok | apply Legal.foldl
    | intro _
    | dsimp only

/-! Stacker. -/

theorem reduceEff_legal {s0 s : State} (h : Legal s0 s) (op : Nat) (p : ProgRef) (q : Prog) (o : OpSlot) :
    AccLegal s0 (reduceEff op p s q o) := by
  unfold reduceEff
  repeat' first
    | with_reducible assumption
    | with_reducible first | apply callBlock_legal | apply nextUid_legal | apply callColl_legal | apply Legal.parts
    | simp only [Legal.lit]
    | with_reducible first | apply Legal.ite | apply AccLegal.ite
    | split
    | refine Legal.of_bad ‹_› ?_ | refine Legal.of_ok ‹_› ?_ | refine Legal.of_wait ‹_› ?_
    | with_reducible first | apply AccLegal.ok | apply AccLegal.wait | apply AccLegal.bad | apply AccLegal.of_bind | apply AccLegal.foldl
    | with_reducible first | apply Legal.foldl
    | intro _
    | dsimp only

theorem execAllreduce_legal {s0 s : State} (h : Legal s0 s) (p : ProgRef) :
    OutLegal s0 (execAllreduce p s) := by
  unfold execAllreduce
  repeat' first
    | with_reducible assumption
    | with_reducible first | apply runOp_legal | apply whole_legal | apply reduceEff_legal | apply Legal.parts
    | simp only [Legal.lit]
    | with_reducible first | apply Legal.ite | apply AccLegal.ite
    | split
    | refine Legal.of_bad ‹_› ?_ | refine Legal.of_next ‹_› ?_ | refine Legal.of_ok ‹_› ?_ | refine Legal.of_wait ‹_› ?_
    | with_reducible first | apply AccLegal.ok | apply AccLegal.wait | apply AccLegal.bad | apply AccLegal.of_bind | apply AccLegal.foldl
    | with_reducible first | apply OutLegal.next | apply Legal.foldl
    | intro _
    | dsimp only

theorem execReduceToRoot_legal {s0 s : State} (h : Legal s0 s) (p : ProgRef) :
    OutLegal s0 (execReduceToRoot p s) := by
  unfold execReduceToRoot
  repeat' first
    | with_reducible assumption
    | with_reducible first | apply runOp_legal | apply whole_legal | apply reduceEff_legal | apply Legal.parts
    | simp only [Legal.lit]
    | with_reducible first | apply Legal.ite | apply AccLegal.ite
    | split
    | refine Legal.of_bad ‹_› ?_ | refine Legal.of_next ‹_› ?_ | refine Legal.of_ok ‹_› ?_ | refine Legal.of_wait ‹_› ?_
    | with_reducible first | apply AccLegal.ok | apply AccLegal.wait | apply AccLegal.bad | apply AccLegal.of_bind | apply AccLegal.foldl
    | with_reducible first | apply OutLegal.next | apply Legal.foldl
    | intro _
    | dsimp only

theorem execBroadcast_legal {s0 s : State} (h : Legal s0 s) (p : ProgRef) :
    OutLegal s0 (execBroadcast p s) := by
  unfold execBroadcast
  repeat' first
    | with_reducible assumption
    | with_reducible first | apply runOp_legal | apply whole_legal | apply reduceEff_legal | apply Legal.parts
    | simp only [Legal.lit]
    | with_reducible first | apply Legal.ite | apply AccLegal.ite
    | split
    | refine Legal.of_bad ‹_› ?_ | refine Legal.of_next ‹_› ?_ | refine Legal.of_ok ‹_› ?_ | refine Legal.of_wait ‹_› ?_
    | with_reducible first | apply AccLegal.ok | apply AccLegal.wait | apply AccLegal.bad | apply AccLegal.of_bind | apply AccLegal.foldl
    | with_reducible first | apply OutLegal.next | apply Legal.foldl
    | intro _
    | dsimp only

theorem setColl_legal {s0 s : State} (h : Legal s0 s) (c : Coll) :
    Legal s0 (setColl s c) := by
  unfold setColl
  repeat' first
    | with_reducible assumption
    | with_reducible first | apply Legal.parts
    | simp only [Legal.lit]
    | with_reducible first | apply Legal.ite
    | split
    | with_reducible first | apply Legal.foldl
    | intro _
    | dsimp only

theorem dropColl_legal {s0 s : State} (h : Legal s0 s) (c : Coll) :
    Legal s0 (dropColl s c) := by
  unfold dropColl
  repeat' first
    | with_reducible assumption
    | with_reducible first | apply Legal.parts
    | simp only [Legal.lit]
    | with_reducible first | apply Legal.ite
    | split
    | with_reducible first | apply Legal.foldl
    | intro _
    | dsimp only

theorem setFrame_legal {s0 s : State} (h : Legal s0 s) (f : Frame) :
    Legal s0 (setFrame s f) := by
  unfold setFrame
  repeat' first
    | with_reducible assumption
    | with_reducible first | apply Legal.parts
    | simp only [Legal.lit]
    | with_reducible first | apply Legal.ite
    | split
    | with_reducible first | apply Legal.foldl
    | intro _
    | dsimp only

theorem dropFrame_legal {s0 s : State} (h : Legal s0 s) (f : Frame) :
    Legal s0 (dropFrame s f) := by
  unfold dropFrame
  repeat' first
    | with_reducible assumption
    | with_reducible first | apply Legal.parts
    | simp only [Legal.lit]
    | with_reducible first | apply Legal.ite
    | split
    | with_reducible first | apply Legal.foldl
    | intro _
    | dsimp only

theorem failColl_legal {s0 s : State} (h : Legal s0 s) (c : Coll) (seg : Nat) (code : Nat) (addr : Option Nat) (detail : BitVec 64) :
    Legal s0 (failColl s c seg code addr detail) := by
  unfold failColl
  repeat' first
    | with_reducible assumption
    | with_reducible first | apply endHost_legal | apply dropColl_legal | apply setFix_legal | apply chargeCall_legal | apply Legal.parts
    | simp only [Legal.lit]
    | with_reducible first | apply Legal.ite
    | split
    | with_reducible first | apply Legal.foldl
    | intro _
    | dsimp only

theorem stkCheck_legal {s0 s : State} (h : Legal s0 s) (c : Coll) (j : Nat) (par : Bool) (i : Nat) :
    Legal s0 (stkCheck s c j par i) := by
  unfold stkCheck
  repeat' first
    | with_reducible assumption
    | with_reducible first | apply failColl_legal | apply logOnce_legal | apply bump_legal | apply Legal.parts
    | simp only [Legal.lit]
    | with_reducible first | apply Legal.ite
    | split
    | with_reducible first | apply Legal.foldl
    | intro _
    | dsimp only

theorem sendSegs_legal {s0 : State} : ∀ (x8 : List Nat) (c : Coll) (seg : Nat) (tree : Nat) (down : Bool) (fmt : Nat) (pay : List Byte)
      (cnt : BitVec 64) {a : State} (_ : Legal s0 a),
    ExcLegal s0 (sendSegs c seg tree down fmt pay cnt a x8) := by
  intro x8
  induction x8 with
  | nil =>
    intro c seg tree down fmt pay cnt a h_a
    unfold sendSegs
    repeat' first
      | with_reducible assumption
      | with_reducible first | apply sendOn_legal | apply Legal.parts
      | simp only [Legal.lit]
      | with_reducible first | apply Legal.ite
      | split
      | refine Legal.of_exc ‹_› ?_ | refine Legal.of_some ‹_› ?_
      | with_reducible first | apply OptLegal.none | apply OptLegal.some | apply OptLegal.mapS | apply OptLegal.map | apply OptLegal.bind
      | with_reducible first | apply OptLegal.getD | apply ExcLegal.error | apply ExcLegal.ok
      | intro _
      | dsimp only
  | cons _ _ ih =>
    intro c seg tree down fmt pay cnt a h_a
    unfold sendSegs
    repeat' first
      | with_reducible assumption
      | with_reducible first | apply ih | apply sendOn_legal | apply Legal.parts
      | simp only [Legal.lit]
      | with_reducible first | apply Legal.ite
      | split
      | refine Legal.of_exc ‹_› ?_ | refine Legal.of_some ‹_› ?_
      | with_reducible first | apply OptLegal.none | apply OptLegal.some | apply OptLegal.mapS | apply OptLegal.map | apply OptLegal.bind
      | with_reducible first | apply OptLegal.getD | apply ExcLegal.error | apply ExcLegal.ok
      | intro _
      | dsimp only

theorem sealSegs_legal {s0 s : State} (h : Legal s0 s) (c : Coll) (seg : Nat) :
    AccLegal s0 (sealSegs s c seg) := by
  unfold sealSegs
  repeat' first
    | with_reducible assumption
    | with_reducible first | apply segsOf_legal | apply sealBlocks_legal | apply Legal.parts
    | simp only [Legal.lit]
    | with_reducible first | apply Legal.ite | apply AccLegal.ite
    | split
    | refine Legal.of_bad ‹_› ?_ | refine Legal.of_ok ‹_› ?_ | refine Legal.of_wait ‹_› ?_
    | with_reducible first | apply AccLegal.ok | apply AccLegal.wait | apply AccLegal.bad | apply AccLegal.of_bind | apply AccLegal.foldl
    | with_reducible first | apply Legal.foldl
    | intro _
    | dsimp only

theorem writeSeg_legal {s0 s : State} (h : Legal s0 s) (c : Coll) (seg : Nat) (pay : List Byte) :
    AccLegal s0 (writeSeg s c seg pay) := by
  unfold writeSeg
  repeat' first
    | with_reducible assumption
    | with_reducible first | apply segsOf_legal | apply segsWrite_legal | apply Legal.parts
    | simp only [Legal.lit]
    | with_reducible first | apply Legal.ite | apply AccLegal.ite
    | split
    | refine Legal.of_bad ‹_› ?_ | refine Legal.of_ok ‹_› ?_ | refine Legal.of_wait ‹_› ?_
    | with_reducible first | apply AccLegal.ok | apply AccLegal.wait | apply AccLegal.bad | apply AccLegal.of_bind | apply AccLegal.foldl
    | intro _
    | dsimp only

theorem takeResult_legal {s0 s : State} (h : Legal s0 s) (c : Coll) (seg : Nat) (pay : List Byte) (cnt : BitVec 64) :
    AccLegal s0 (takeResult s c seg pay cnt) := by
  unfold takeResult
  repeat' first
    | with_reducible assumption
    | with_reducible first | apply writeSeg_legal | apply sendSegs_legal | apply setColl_legal | apply decideUpdate_legal | apply dropColl_legal
    | with_reducible first | apply sealSegs_legal | apply Legal.parts
    | simp only [Legal.lit]
    | with_reducible first | apply Legal.ite | apply AccLegal.ite
    | split
    | refine Legal.of_bad ‹_› ?_ | refine Legal.of_exc ‹_› ?_ | refine Legal.of_ok ‹_› ?_ | refine Legal.of_wait ‹_› ?_
    | with_reducible first | apply AccLegal.ok | apply AccLegal.wait | apply AccLegal.bad | apply AccLegal.of_bind | apply AccLegal.foldl
    | with_reducible first | apply ExcLegal.error | apply ExcLegal.ok | apply Legal.foldl
    | intro _
    | dsimp only

theorem closeFrame_legal {s0 s : State} (h : Legal s0 s) (c : Coll) (f : Frame) :
    AccLegal s0 (closeFrame s c f) := by
  unfold closeFrame
  repeat' first
    | with_reducible assumption
    | with_reducible first | apply takeResult_legal | apply dropFrame_legal | apply sendSegs_legal | apply setColl_legal | apply Legal.parts
    | simp only [Legal.lit]
    | with_reducible first | apply Legal.ite | apply AccLegal.ite
    | split
    | refine Legal.of_bad ‹_› ?_ | refine Legal.of_exc ‹_› ?_ | refine Legal.of_ok ‹_› ?_ | refine Legal.of_wait ‹_› ?_
    | with_reducible first | apply AccLegal.ok | apply AccLegal.wait | apply AccLegal.bad | apply AccLegal.of_bind | apply AccLegal.foldl
    | with_reducible first | apply ExcLegal.error | apply ExcLegal.ok | apply Legal.foldl
    | intro _
    | dsimp only

theorem ownSeg_legal {s0 s : State} (h : Legal s0 s) (c : Coll) (seg : Nat) :
    AccLegal s0 (ownSeg s c seg) := by
  unfold ownSeg
  repeat' first
    | with_reducible assumption
    | with_reducible first | apply cvaRead_legal | apply Legal.parts
    | simp only [Legal.lit]
    | with_reducible first | apply Legal.ite | apply AccLegal.ite
    | split
    | refine Legal.of_bad ‹_› ?_ | refine Legal.of_ok ‹_› ?_ | refine Legal.of_wait ‹_› ?_
    | with_reducible first | apply AccLegal.ok | apply AccLegal.wait | apply AccLegal.bad | apply AccLegal.of_bind | apply AccLegal.foldl
    | intro _
    | dsimp only

theorem openSeg_legal {s0 s : State} (h : Legal s0 s) (c : Coll) (seg : Nat) :
    AccLegal s0 (openSeg s c seg) := by
  unfold openSeg
  repeat' first
    | with_reducible assumption
    | with_reducible first | apply setColl_legal | apply ownSeg_legal | apply takeResult_legal | apply sendSegs_legal | apply useFree_legal
    | with_reducible first | apply Legal.parts
    | simp only [Legal.lit]
    | with_reducible first | apply Legal.ite | apply AccLegal.ite
    | split
    | refine Legal.of_bad ‹_› ?_ | refine Legal.of_exc ‹_› ?_ | refine Legal.of_ok ‹_› ?_ | refine Legal.of_wait ‹_› ?_
    | with_reducible first | apply AccLegal.ok | apply AccLegal.wait | apply AccLegal.bad | apply AccLegal.of_bind | apply AccLegal.foldl
    | with_reducible first | apply ExcLegal.error | apply ExcLegal.ok | apply Legal.foldl
    | intro _
    | dsimp only

theorem openOn_legal {s0 : State} : ∀ (a : Nat) (err : HwErr) (grp : Nat) (d : Nat) {x4 : State} (_ : Legal s0 x4),
    OpenLegal s0 (openOn err grp d a x4) := by
  intro a
  induction a with
  | zero =>
    intro err grp d x4 h_x4
    unfold openOn
    repeat' first
      | with_reducible assumption
      | with_reducible first | apply openSeg_legal | apply Legal.parts
      | simp only [Legal.lit]
      | with_reducible first | apply Legal.ite | apply AccLegal.ite
      | split
      | refine Legal.of_bad ‹_› ?_ | refine Legal.of_check ‹_› ?_ | refine Legal.of_fault ‹_› ?_ | refine Legal.of_noWay ‹_› ?_
      | refine Legal.of_ok ‹_› ?_ | refine Legal.of_open ‹_› ?_ | refine Legal.of_wait ‹_› ?_
      | with_reducible first | apply AccLegal.ok | apply AccLegal.wait | apply AccLegal.bad | apply AccLegal.of_bind | apply AccLegal.foldl
      | with_reducible first | apply OpenLegal.ok | apply OpenLegal.fault | apply OpenLegal.noWay | apply OpenLegal.check
      | intro _
      | dsimp only
  | succ _ ih =>
    intro err grp d x4 h_x4
    unfold openOn
    repeat' first
      | with_reducible assumption
      | with_reducible first | apply ih | apply openSeg_legal | apply Legal.parts
      | simp only [Legal.lit]
      | with_reducible first | apply Legal.ite | apply AccLegal.ite
      | split
      | refine Legal.of_bad ‹_› ?_ | refine Legal.of_check ‹_› ?_ | refine Legal.of_fault ‹_› ?_ | refine Legal.of_noWay ‹_› ?_
      | refine Legal.of_ok ‹_› ?_ | refine Legal.of_open ‹_› ?_ | refine Legal.of_wait ‹_› ?_
      | with_reducible first | apply AccLegal.ok | apply AccLegal.wait | apply AccLegal.bad | apply AccLegal.of_bind | apply AccLegal.foldl
      | with_reducible first | apply OpenLegal.ok | apply OpenLegal.fault | apply OpenLegal.noWay | apply OpenLegal.check
      | intro _
      | dsimp only

theorem openAll_legal {s0 : State} : ∀ (x3 : List Nat) (err : HwErr) (grp : Nat) {a : State} (_ : Legal s0 a),
    OpenLegal s0 (openAll err grp a x3) := by
  intro x3
  induction x3 with
  | nil =>
    intro err grp a h_a
    unfold openAll
    repeat' first
      | with_reducible assumption
      | with_reducible first | apply openOn_legal | apply Legal.parts
      | simp only [Legal.lit]
      | with_reducible first | apply Legal.ite
      | split
      | refine Legal.of_check ‹_› ?_ | refine Legal.of_fault ‹_› ?_ | refine Legal.of_noWay ‹_› ?_ | refine Legal.of_open ‹_› ?_
      | with_reducible first | apply OpenLegal.ok | apply OpenLegal.fault | apply OpenLegal.noWay | apply OpenLegal.check
      | intro _
      | dsimp only
  | cons _ _ ih =>
    intro err grp a h_a
    unfold openAll
    repeat' first
      | with_reducible assumption
      | with_reducible first | apply ih | apply openOn_legal | apply Legal.parts
      | simp only [Legal.lit]
      | with_reducible first | apply Legal.ite
      | split
      | refine Legal.of_check ‹_› ?_ | refine Legal.of_fault ‹_› ?_ | refine Legal.of_noWay ‹_› ?_ | refine Legal.of_open ‹_› ?_
      | with_reducible first | apply OpenLegal.ok | apply OpenLegal.fault | apply OpenLegal.noWay | apply OpenLegal.check
      | intro _
      | dsimp only

theorem collFault_legal {s0 s : State} (h : Legal s0 s) (c : Coll) (seg : Nat) (code : Nat) (addr : Nat) :
    Legal s0 (collFault s c seg code addr) := by
  unfold collFault
  repeat' first
    | with_reducible assumption
    | with_reducible first | apply failColl_legal | apply Legal.parts
    | simp only [Legal.lit]
    | with_reducible first | apply Legal.ite
    | split
    | with_reducible first | apply Legal.foldl
    | intro _
    | dsimp only

theorem advanceColl_legal {s0 s : State} (h : Legal s0 s) (err : HwErr) (grp : Nat) :
    Legal s0 (advanceColl err s grp) := by
  unfold advanceColl
  repeat' first
    | with_reducible assumption
    | with_reducible first | apply openAll_legal | apply stkCheck_legal | apply collFault_legal | apply Legal.parts
    | simp only [Legal.lit]
    | with_reducible first | apply Legal.ite
    | split
    | refine Legal.of_check ‹_› ?_ | refine Legal.of_fault ‹_› ?_ | refine Legal.of_noWay ‹_› ?_ | refine Legal.of_open ‹_› ?_
    | with_reducible first | apply OpenLegal.ok | apply OpenLegal.fault | apply OpenLegal.noWay | apply OpenLegal.check | apply Legal.foldl
    | intro _
    | dsimp only

theorem orShared_legal {s0 s : State} (h : Legal s0 s) (err : HwErr) {f : State → State} (h_f : ∀ y0, Legal s0 y0 → Legal s0 (f y0)) :
    Legal s0 (orShared err s f) := by
  unfold orShared
  repeat' first
    | with_reducible assumption
    | with_reducible first | apply sharedError_legal | apply h_f | apply Legal.parts
    | simp only [Legal.lit]
    | with_reducible first | apply Legal.ite
    | split
    | with_reducible first | apply Legal.foldl
    | intro _
    | dsimp only

theorem unitCollectiveStart_legal {s0 s : State} (h : Legal s0 s) (grp : Nat) (err : HwErr) :
    Legal s0 (unitCollectiveStart grp err s) := by
  unfold unitCollectiveStart
  repeat' first
    | with_reducible assumption
    | with_reducible first | apply chargeCall_legal | apply dropColl_legal | apply orShared_legal | apply setColl_legal | apply advanceColl_legal
    | with_reducible first | apply Legal.parts
    | simp only [Legal.lit]
    | with_reducible first | apply Legal.ite
    | split
    | with_reducible first | apply Legal.foldl
    | intro _
    | dsimp only

theorem holdSeg_legal {s0 s : State} (h : Legal s0 s) (src : Option Nat) (x : Txn) :
    Legal s0 (holdSeg s src x) := by
  unfold holdSeg
  repeat' first
    | with_reducible assumption
    | with_reducible first | apply Legal.parts
    | simp only [Legal.lit]
    | with_reducible first | apply Legal.ite
    | split
    | with_reducible first | apply Legal.foldl
    | intro _
    | dsimp only

theorem keepAsks_legal {s0 s w : State} (h : Legal s0 s) (h_w : Legal s0 w) : Legal s0 (keepAsks s w) :=
  ⟨h.queue, h.fuses, h.mem, h_w.sent, h.free, h.uid⟩

theorem serveSeg_legal {s0 s : State} (h : Legal s0 s) (err : HwErr) (x : Txn) :
    ServLegal s0 (serveSeg err s x) := by
  unfold serveSeg
  repeat' first
    | with_reducible assumption
    | with_reducible first | apply bump_legal | apply failColl_legal | apply stkCheck_legal | apply setFrame_legal | apply setColl_legal
    | with_reducible first | apply closeFrame_legal | apply collFault_legal | apply advanceColl_legal | apply takeResult_legal | apply Legal.parts
    | simp only [Legal.lit]
    | with_reducible first | apply Legal.ite | apply AccLegal.ite
    | split
    | refine Legal.of_bad ‹_› ?_ | refine Legal.of_hold ‹_› ?_ | refine Legal.of_ok ‹_› ?_ | refine Legal.of_served ‹_› ?_
    | refine Legal.of_wait ‹_› ?_
    | with_reducible first | apply AccLegal.ok | apply AccLegal.wait | apply AccLegal.bad | apply AccLegal.of_bind | apply AccLegal.foldl
    | with_reducible first | apply ServLegal.done | apply ServLegal.hold | apply Legal.foldl
    | intro _
    | dsimp only

theorem takeHeld_legal {s0 s : State} (h : Legal s0 s) (src : Option Nat) :
    Legal s0 (takeHeld s src) := by
  unfold takeHeld
  repeat' first
    | with_reducible assumption
    | with_reducible first | apply setPort_legal | apply Legal.parts
    | simp only [Legal.lit]
    | with_reducible first | apply Legal.ite
    | split
    | with_reducible first | apply Legal.foldl
    | intro _
    | dsimp only

theorem unitCollseg_legal {s0 s : State} (h : Legal s0 s) (src : Option Nat) (err : HwErr) :
    Legal s0 (unitCollseg src err s) := by
  unfold unitCollseg
  repeat' first
    | with_reducible assumption
    | with_reducible first | apply arrive_legal | apply orShared_legal | apply serveSeg_legal | apply holdSeg_legal | apply takeHeld_legal
    | with_reducible first | apply keepAsks_legal | apply Legal.parts
    | simp only [Legal.lit]
    | with_reducible first | apply Legal.ite
    | split
    | refine Legal.of_arr ‹_› ?_ | refine Legal.of_drop ‹_› ?_ | refine Legal.of_hold ‹_› ?_ | refine Legal.of_served ‹_› ?_
    | with_reducible first | apply ArrLegal.none | apply ArrLegal.drop | apply ArrLegal.ok | apply ServLegal.done | apply ServLegal.hold
    | with_reducible first | apply Legal.foldl
    | intro _
    | dsimp only

theorem unitCollsegAccept_legal {s0 s : State} (h : Legal s0 s) (n : Nat) (err : HwErr) :
    Legal s0 (unitCollsegAccept n err s) := by
  unfold unitCollsegAccept
  repeat' first
    | with_reducible assumption
    | with_reducible first | apply freeSlots_legal | apply orShared_legal | apply serveSeg_legal | apply keepAsks_legal | apply Legal.parts
    | simp only [Legal.lit]
    | with_reducible first | apply Legal.ite
    | split
    | refine Legal.of_hold ‹_› ?_ | refine Legal.of_served ‹_› ?_
    | with_reducible first | apply ServLegal.done | apply ServLegal.hold | apply Legal.foldl
    | intro _
    | dsimp only

theorem unitCollectiveComplete_legal {s0 s : State} (h : Legal s0 s) (grp : Nat) (err : HwErr) :
    Legal s0 (unitCollectiveComplete grp err s) := by
  unfold unitCollectiveComplete
  repeat' first
    | with_reducible assumption
    | with_reducible first | apply orShared_legal | apply advanceColl_legal | apply cvaWrite_legal | apply collFault_legal | apply endCall_legal
    | with_reducible first | apply endHost_legal | apply dropColl_legal | apply Legal.parts
    | simp only [Legal.lit]
    | with_reducible first | apply Legal.ite | apply AccLegal.ite
    | split
    | refine Legal.of_bad ‹_› ?_ | refine Legal.of_ok ‹_› ?_ | refine Legal.of_wait ‹_› ?_
    | with_reducible first | apply AccLegal.ok | apply AccLegal.wait | apply AccLegal.bad | apply AccLegal.of_bind | apply AccLegal.foldl
    | with_reducible first | apply Legal.foldl
    | intro _
    | dsimp only

theorem execStkGrpRead_legal {s0 s : State} (h : Legal s0 s) (grp : BitVec 8) :
    OutLegal s0 (execStkGrpRead grp s) := by
  unfold execStkGrpRead
  repeat' first
    | with_reducible assumption
    | with_reducible first | apply wakeBy_legal | apply setReg_legal | apply setField_legal | apply Legal.parts
    | simp only [Legal.lit]
    | with_reducible first | apply Legal.ite
    | split
    | refine Legal.of_next ‹_› ?_
    | with_reducible first | apply OutLegal.next | apply Legal.foldl
    | intro _
    | dsimp only

theorem writeGroup_legal {s0 s : State} (h : Legal s0 s) (grp : Nat) (e : BitVec 512) :
    Legal s0 (writeGroup s grp e) := by
  unfold writeGroup
  repeat' first
    | with_reducible assumption
    | with_reducible first | apply Legal.parts
    | simp only [Legal.lit]
    | with_reducible first | apply Legal.ite
    | split
    | with_reducible first | apply Legal.foldl
    | intro _
    | dsimp only

theorem execStkGrpWrite_legal {s0 s : State} (h : Legal s0 s) (grp : BitVec 8) :
    OutLegal s0 (execStkGrpWrite grp s) := by
  unfold execStkGrpWrite
  repeat' first
    | with_reducible assumption
    | with_reducible first | apply wakeBy_legal | apply setField_legal | apply writeGroup_legal | apply Legal.parts
    | simp only [Legal.lit]
    | with_reducible first | apply Legal.ite
    | split
    | refine Legal.of_next ‹_› ?_
    | with_reducible first | apply OutLegal.next | apply Legal.foldl
    | intro _
    | dsimp only

/-! Replies. -/

theorem closeReq_legal {s0 s : State} (h : Legal s0 s) (r : RemReq) :
    Legal s0 (closeReq s r) := by
  unfold closeReq
  repeat' first
    | with_reducible assumption
    | with_reducible first | apply Legal.parts
    | simp only [Legal.lit]
    | with_reducible first | apply Legal.ite
    | split
    | with_reducible first | apply Legal.foldl
    | intro _
    | dsimp only

theorem copyEnd_legal {s0 s : State} (h : Legal s0 s) (p : ProgRef) (ch : Bool) (idx : Nat) (code : Nat) (addr : Nat) :
    Legal s0 (copyEnd s p ch idx code addr) := by
  unfold copyEnd
  repeat' first
    | with_reducible assumption
    | with_reducible first | apply copyReplied_legal | apply chargeOp_legal | apply settleStopped_legal | apply Legal.parts
    | simp only [Legal.lit]
    | with_reducible first | apply Legal.ite
    | split
    | with_reducible first | apply Legal.foldl
    | intro _
    | dsimp only

theorem rreadReply_legal {s0 s : State} (h : Legal s0 s) (r : RemReq) (x : Txn) (p : ProgRef) (ch : Bool) (idx : Nat) (pos : Nat) (skip :
      Nat) (want : Nat) :
    Legal s0 (rreadReply s r x p ch idx pos skip want) := by
  unfold rreadReply
  repeat' first
    | with_reducible assumption
    | with_reducible first | apply copyEnd_legal | apply copyReplied_legal | apply settleStopped_legal | apply edgeFault_legal | apply spPut_legal
    | with_reducible first | apply Legal.parts
    | simp only [Legal.lit]
    | with_reducible first | apply Legal.ite
    | split
    | with_reducible first | apply Legal.foldl
    | intro _
    | dsimp only

theorem loupeReadReply_legal {s0 s : State} (h : Legal s0 s) (r : RemReq) (x : Txn) (n : Nat) :
    Legal s0 (loupeReadReply s r x n) := by
  unfold loupeReadReply
  repeat' first
    | with_reducible assumption
    | with_reducible first | apply loupeBad_legal | apply putIssued_legal | apply issueAllOf_legal | apply Legal.parts
    | simp only [FstLegal.lit]
    | simp only [Legal.lit]
    | with_reducible first | apply Legal.ite
    | split
    | refine Legal.of_excfst ‹_› ?_ | refine Legal.of_fst ‹_› ?_
    | with_reducible first | apply FstLegal.get | apply FstLegal.foldl | apply ExcFst.error | apply ExcFst.ok | apply Legal.foldl
    | intro _
    | dsimp only

theorem loupeWriteReply_legal {s0 s : State} (h : Legal s0 s) (r : RemReq) (x : Txn) (n : Nat) :
    Legal s0 (loupeWriteReply s r x n) := by
  unfold loupeWriteReply
  repeat' first
    | with_reducible assumption
    | with_reducible first | apply loupeBad_legal | apply putIssued_legal | apply issueAllOf_legal | apply Legal.parts
    | simp only [FstLegal.lit]
    | simp only [Legal.lit]
    | with_reducible first | apply Legal.ite
    | split
    | refine Legal.of_excfst ‹_› ?_ | refine Legal.of_fst ‹_› ?_
    | with_reducible first | apply FstLegal.get | apply FstLegal.foldl | apply ExcFst.error | apply ExcFst.ok | apply Legal.foldl
    | intro _
    | dsimp only

theorem loupeCursorReply_legal {s0 s : State} (h : Legal s0 s) (r : RemReq) (x : Txn) (n : Nat) (pkg : Nat) (atomic : Bool) :
    Legal s0 (loupeCursorReply s r x n pkg atomic) := by
  unfold loupeCursorReply
  repeat' first
    | with_reducible assumption
    | with_reducible first | apply loupeBad_legal | apply groupReady_legal | apply setRun_legal | apply Legal.parts
    | simp only [Legal.lit]
    | with_reducible first | apply Legal.ite
    | split
    | with_reducible first | apply Legal.foldl
    | intro _
    | dsimp only

theorem dbellReply_legal {s0 s : State} (h : Legal s0 s) (r : RemReq) (x : Txn) (ring : Nat) :
    Legal s0 (dbellReply s r x ring) := by
  unfold dbellReply
  repeat' first
    | with_reducible assumption
    | with_reducible first | apply report_legal | apply chargeCall_legal | apply Legal.parts
    | simp only [Legal.lit]
    | with_reducible first | apply Legal.ite
    | split
    | with_reducible first | apply Legal.foldl
    | intro _
    | dsimp only

theorem deliverReply_legal {s0 s : State} (h : Legal s0 s) (r : RemReq) (x : Txn) :
    Legal s0 (deliverReply s r x) := by
  unfold deliverReply
  repeat' first
    | with_reducible assumption
    | with_reducible first | apply rreadReply_legal | apply copyEnd_legal | apply loupeReadReply_legal | apply loupeWriteReply_legal
    | with_reducible first | apply loupeCursorReply_legal | apply dbellReply_legal | apply Legal.parts
    | simp only [Legal.lit]
    | with_reducible first | apply Legal.ite
    | split
    | with_reducible first | apply Legal.foldl
    | intro _
    | dsimp only

theorem reply_legal {s0 s : State} (h : Legal s0 s) (t : Nat) (src : Option Nat) :
    Legal s0 (reply t src s) := by
  unfold reply
  repeat' first
    | with_reducible assumption
    | with_reducible first | apply arrive_legal | apply countDrop_legal | apply deliverReply_legal | apply closeReq_legal | apply Legal.parts
    | simp only [Legal.lit]
    | with_reducible first | apply Legal.ite
    | split
    | refine Legal.of_arr ‹_› ?_ | refine Legal.of_drop ‹_› ?_
    | with_reducible first | apply ArrLegal.none | apply ArrLegal.drop | apply ArrLegal.ok | apply Legal.foldl
    | intro _
    | dsimp only

theorem execRdrsp_legal {s0 s : State} (h : Legal s0 s) (src : Option Nat) :
    OutLegal s0 (execRdrsp src s) := by
  unfold execRdrsp
  repeat' first
    | with_reducible assumption
    | with_reducible first | apply reply_legal | apply Legal.parts
    | simp only [Legal.lit]
    | with_reducible first | apply Legal.ite
    | split
    | refine Legal.of_next ‹_› ?_
    | with_reducible first | apply OutLegal.next | apply Legal.foldl
    | intro _
    | dsimp only

theorem execWrack_legal {s0 s : State} (h : Legal s0 s) (src : Option Nat) :
    OutLegal s0 (execWrack src s) := by
  unfold execWrack
  repeat' first
    | with_reducible assumption
    | with_reducible first | apply reply_legal | apply Legal.parts
    | simp only [Legal.lit]
    | with_reducible first | apply Legal.ite
    | split
    | refine Legal.of_next ‹_› ?_
    | with_reducible first | apply OutLegal.next | apply Legal.foldl
    | intro _
    | dsimp only

theorem execAtrsp_legal {s0 s : State} (h : Legal s0 s) (src : Option Nat) :
    OutLegal s0 (execAtrsp src s) := by
  unfold execAtrsp
  repeat' first
    | with_reducible assumption
    | with_reducible first | apply reply_legal | apply Legal.parts
    | simp only [Legal.lit]
    | with_reducible first | apply Legal.ite
    | split
    | refine Legal.of_next ‹_› ?_
    | with_reducible first | apply OutLegal.next | apply Legal.foldl
    | intro _
    | dsimp only

theorem execReqTimeout_legal {s0 s : State} (h : Legal s0 s) (tag : Nat) :
    OutLegal s0 (execReqTimeout tag s) := by
  unfold execReqTimeout
  repeat' first
    | with_reducible assumption
    | with_reducible first | apply restTag_legal | apply closeReq_legal | apply copyEnd_legal | apply loupeBad_legal | apply chargeCall_legal
    | with_reducible first | apply Legal.parts
    | simp only [Legal.lit]
    | with_reducible first | apply Legal.ite
    | split
    | refine Legal.of_next ‹_› ?_
    | with_reducible first | apply OutLegal.next | apply Legal.foldl
    | intro _
    | dsimp only

end Sys2Proof.Machine
end

