-- ==== Sys2Proof/Laws/LegalPackage.lean ====
section
/-! SUPPORT. `Legal` of option load, resets, homes, rings, the host link and descriptors. -/

namespace Sys2Proof.Machine

/-! Negative. -/

theorem setMlog_legal {s0 s : State} (h : Legal s0 s) (k : Nat) (d : List Byte) :
    Legal s0 (setMlog s k d) := by
  unfold setMlog
  repeat' first
    | with_reducible assumption
    | with_reducible first | apply Legal.parts
    | simp only [Legal.lit]
    | with_reducible first | apply Legal.ite
    | split
    | with_reducible first | apply Legal.foldl
    | intro _
    | dsimp only

theorem secFail_legal {s0 s : State} (h : Legal s0 s) (what : Nat) (slot : Nat) (step : Nat) :
    Legal s0 (secFail s what slot step) := by
  unfold secFail
  repeat' first
    | with_reducible assumption
    | with_reducible first | apply setReg_legal | apply Legal.parts
    | simp only [Legal.lit]
    | with_reducible first | apply Legal.ite
    | split
    | with_reducible first | apply Legal.foldl
    | intro _
    | dsimp only

theorem loadMaster_legal {s0 s : State} (h : Legal s0 s) :
    Legal s0 (loadMaster s) := by
  unfold loadMaster
  repeat' first
    | with_reducible assumption
    | with_reducible first | apply setField_legal | apply setReg_legal | apply Legal.parts
    | simp only [Legal.lit]
    | with_reducible first | apply Legal.ite
    | split
    | with_reducible first | apply Legal.foldl
    | intro _
    | dsimp only

theorem loadRec_legal {s0 s : State} (h : Legal s0 s) (r : Rec) :
    Legal s0 (loadRec s r) := by
  unfold loadRec
  repeat' first
    | with_reducible assumption
    | with_reducible first | apply setField_legal | apply setReg_legal | apply Legal.parts
    | simp only [Legal.lit]
    | with_reducible first | apply Legal.ite
    | split
    | with_reducible first | apply Legal.foldl
    | intro _
    | dsimp only

theorem takeEnables_legal {s0 s : State} (h : Legal s0 s) :
    Legal s0 (takeEnables s) := by
  unfold takeEnables
  repeat' first
    | with_reducible assumption
    | with_reducible first | apply setPort_legal | apply Legal.parts
    | simp only [Legal.lit]
    | with_reducible first | apply Legal.ite
    | split
    | with_reducible first | apply Legal.foldl
    | intro _
    | dsimp only

theorem optionFallback_legal {s0 s : State} (h : Legal s0 s) :
    Legal s0 (optionFallback s) := by
  unfold optionFallback
  repeat' first
    | with_reducible assumption
    | with_reducible first | apply pushErr_legal | apply raiseEvent_legal | apply setAlert_legal | apply Legal.parts
    | simp only [Legal.lit]
    | with_reducible first | apply Legal.ite
    | split
    | with_reducible first | apply Legal.foldl
    | intro _
    | dsimp only

theorem loadEnds_legal {s0 s : State} (h : Legal s0 s) :
    Legal s0 (loadEnds s) := by
  unfold loadEnds
  repeat' first
    | with_reducible assumption
    | with_reducible first | apply setField_legal | apply takeEnables_legal | apply Legal.parts
    | simp only [Legal.lit]
    | with_reducible first | apply Legal.ite
    | split
    | with_reducible first | apply Legal.foldl
    | intro _
    | dsimp only

theorem loadsMaster_legal {s0 s : State} (h : Legal s0 s) (raised : Bool) :
    Legal s0 (loadsMaster s raised) := by
  unfold loadsMaster
  repeat' first
    | with_reducible assumption
    | with_reducible first | apply loadMaster_legal | apply setMlog_legal | apply loadEnds_legal | apply optionFallback_legal | apply Legal.parts
    | simp only [Legal.lit]
    | with_reducible first | apply Legal.ite
    | split
    | with_reducible first | apply Legal.foldl
    | intro _
    | dsimp only

theorem loadsSlot_legal {s0 s : State} (h : Legal s0 s) (b : Bool) (im : List Byte) (rs : List Rec) :
    Legal s0 (loadsSlot s b im rs) := by
  unfold loadsSlot
  repeat' first
    | with_reducible assumption
    | with_reducible first | apply loadRec_legal | apply loadMaster_legal | apply loadEnds_legal | apply setMlog_legal | apply Legal.parts
    | simp only [Legal.lit]
    | with_reducible first | apply Legal.ite
    | split
    | with_reducible first | apply Legal.foldl
    | intro _
    | dsimp only

theorem finishRotation_legal {s0 s : State} (h : Legal s0 s) :
    Legal s0 (finishRotation s) := by
  unfold finishRotation
  repeat' first
    | with_reducible assumption
    | with_reducible first | apply Legal.parts
    | simp only [Legal.lit]
    | with_reducible first | apply Legal.ite
    | split
    | with_reducible first | apply Legal.foldl
    | intro _
    | dsimp only

theorem optionLoad_legal {s0 s : State} (h : Legal s0 s) (bad : Bool × Bool) (masterBad : Bool) :
    LoadLegal s0 (optionLoad s bad masterBad) := by
  unfold optionLoad
  repeat' first
    | with_reducible assumption
    | with_reducible first | apply loadsMaster_legal | apply finishRotation_legal | apply loadsSlot_legal | apply Legal.parts
    | simp only [Legal.lit]
    | with_reducible first | apply Legal.ite
    | split
    | refine Legal.of_done ‹_› ?_
    | with_reducible first | apply LoadLegal.done | apply LoadLegal.noSlot | apply LoadLegal.badMaster | apply Legal.foldl
    | intro _
    | dsimp only

/-! Resets. -/

theorem deepReset_legal {s0 s : State} (h : Legal s0 s) (lvl : Nat) (src : Nat) : Legal s0 (deepReset s lvl src) :=
  ⟨h.queue, h.fuses, fun _ => rfl, h.sent, Nat.le_trans h.free (Nat.le_add_right _ _), h.uid⟩

theorem domainBegin_legal {s0 s : State} (h : Legal s0 s) (src : Nat) : Legal s0 (domainBegin s src) :=
  ⟨h.queue, h.fuses, h.mem, h.sent, Nat.le_trans h.free (Nat.le_add_right _ _), h.uid⟩

theorem beginReset_legal {s0 s : State} (h : Legal s0 s) (lvl : Nat) (src : Nat) :
    Legal s0 (beginReset s lvl src) := by
  unfold beginReset
  repeat' first
    | with_reducible assumption
    | with_reducible first | apply deepReset_legal | apply domainBegin_legal | apply Legal.parts
    | simp only [Legal.lit]
    | with_reducible first | apply Legal.ite
    | split
    | with_reducible first | apply Legal.foldl
    | intro _
    | dsimp only

theorem seen_legal {s0 s : State} (h : Legal s0 s) (src : Nat) :
    Legal s0 (seen s src) := by
  unfold seen
  repeat' first
    | with_reducible assumption
    | with_reducible first | apply Legal.parts
    | simp only [Legal.lit]
    | with_reducible first | apply Legal.ite
    | split
    | with_reducible first | apply Legal.foldl
    | intro _
    | dsimp only

theorem evictAll_legal {s0 s : State} (h : Legal s0 s) :
    Legal s0 (evictAll s) := by
  unfold evictAll
  repeat' first
    | with_reducible assumption
    | with_reducible first | apply send_legal | apply loseRsv_legal | apply Legal.parts
    | simp only [Legal.lit]
    | with_reducible first | apply Legal.ite
    | split
    | with_reducible first | apply Legal.foldl
    | intro _
    | dsimp only

theorem pendingReset_legal {s0 s : State} (h : Legal s0 s) :
    Legal s0 (pendingReset s) := by
  unfold pendingReset
  repeat' first
    | with_reducible assumption
    | with_reducible first | apply beginReset_legal | apply Legal.parts
    | simp only [Legal.lit]
    | with_reducible first | apply Legal.ite
    | split
    | with_reducible first | apply Legal.foldl
    | intro _
    | dsimp only

theorem waitReset_legal {s0 s : State} (h : Legal s0 s) (lvl : Nat) (src : Nat) :
    Legal s0 (waitReset s lvl src) := by
  unfold waitReset
  repeat' first
    | with_reducible assumption
    | with_reducible first | apply Legal.parts
    | simp only [Legal.lit]
    | with_reducible first | apply Legal.ite
    | split
    | with_reducible first | apply Legal.foldl
    | intro _
    | dsimp only

theorem raiseAt_legal {s0 s : State} (h : Legal s0 s) (lvl : Nat) (src : Nat) :
    Legal s0 (raiseAt s lvl src) := by
  unfold raiseAt
  repeat' first
    | with_reducible assumption
    | with_reducible first | apply beginReset_legal | apply seen_legal | apply pendingReset_legal | apply waitReset_legal | apply evictAll_legal
    | with_reducible first | apply Legal.parts
    | simp only [Legal.lit]
    | with_reducible first | apply Legal.ite
    | split
    | with_reducible first | apply Legal.foldl
    | intro _
    | dsimp only

theorem stopBringup_legal {s0 s : State} (h : Legal s0 s) (code : Nat) :
    Legal s0 (stopBringup s code) := by
  unfold stopBringup
  repeat' first
    | with_reducible assumption
    | with_reducible first | apply Legal.parts
    | simp only [Legal.lit]
    | with_reducible first | apply Legal.ite
    | split
    | with_reducible first | apply Legal.foldl
    | intro _
    | dsimp only

theorem raiseSrc_legal {s0 s : State} (h : Legal s0 s) (n : Nat) :
    Legal s0 (raiseSrc s n) := by
  unfold raiseSrc
  repeat' first
    | with_reducible assumption
    | with_reducible first | apply stopBringup_legal | apply raiseAt_legal | apply Legal.parts
    | simp only [Legal.lit]
    | with_reducible first | apply Legal.ite
    | split
    | with_reducible first | apply Legal.foldl
    | intro _
    | dsimp only

theorem raiseHost_legal {s0 s : State} (h : Legal s0 s) (n : Nat) :
    Legal s0 (raiseHost s n) := by
  unfold raiseHost
  repeat' first
    | with_reducible assumption
    | with_reducible first | apply setField_legal | apply raiseAt_legal | apply Legal.parts
    | simp only [Legal.lit]
    | with_reducible first | apply Legal.ite
    | split
    | with_reducible first | apply Legal.foldl
    | intro _
    | dsimp only

theorem senseStraps_legal {s0 s : State} (h : Legal s0 s) (straps : List (BitVec 4)) :
    Legal s0 (senseStraps s straps) := by
  unfold senseStraps
  repeat' first
    | with_reducible assumption
    | with_reducible first | apply setReg_legal | apply stopBringup_legal | apply setField_legal | apply Legal.parts
    | simp only [Legal.lit]
    | with_reducible first | apply Legal.ite
    | split
    | with_reducible first | apply Legal.foldl
    | intro _
    | dsimp only

theorem freshWires_legal {s0 s : State} (h : Legal s0 s) (edges : List Nat) :
    Legal s0 (freshWires s edges) := by
  unfold freshWires
  repeat' first
    | with_reducible assumption
    | with_reducible first | apply Legal.parts
    | simp only [Legal.lit]
    | with_reducible first | apply Legal.ite
    | split
    | with_reducible first | apply Legal.foldl
    | intro _
    | dsimp only

theorem showEdge_legal {s0 s : State} (h : Legal s0 s) (e : Nat) (spares : Nat) (fail : Option Nat) :
    Legal s0 (showEdge s e spares fail) := by
  unfold showEdge
  repeat' first
    | with_reducible assumption
    | with_reducible first | apply setField_legal | apply bump_legal | apply Legal.parts
    | simp only [Legal.lit]
    | with_reducible first | apply Legal.ite
    | split
    | with_reducible first | apply Legal.foldl
    | intro _
    | dsimp only

theorem trainEdges_legal {s0 s : State} (h : Legal s0 s) (edges : List Nat) (info : StepInfo) {ok : State → State} (h_ok : ∀ y0, Legal s0
      y0 → Legal s0 (ok y0)) :
    Legal s0 (trainEdges s edges info ok) := by
  unfold trainEdges
  repeat' first
    | with_reducible assumption
    | with_reducible first | apply showEdge_legal | apply freshWires_legal | apply raiseSrc_legal | apply h_ok | apply Legal.parts
    | simp only [Legal.lit]
    | with_reducible first | apply Legal.ite
    | split
    | with_reducible first | apply Legal.foldl
    | intro _
    | dsimp only

theorem countFw_legal {s0 s : State} (h : Legal s0 s) (svnMin : Nat) (a : FwSlot) (b : FwSlot) :
    Legal s0 (countFw s svnMin a b) := by
  unfold countFw
  repeat' first
    | with_reducible assumption
    | with_reducible first | apply secFail_legal | apply Legal.parts
    | simp only [Legal.lit]
    | with_reducible first | apply Legal.ite
    | split
    | with_reducible first | apply Legal.foldl
    | intro _
    | dsimp only

theorem bootS_legal {s0 s : State} (h : Legal s0 s) {ok : State → State} (h_ok : ∀ y0, Legal s0 y0 → Legal s0 (ok y0)) :
    Legal s0 (bootS s ok) := by
  unfold bootS
  repeat' first
    | with_reducible assumption
    | with_reducible first | apply countFw_legal | apply stopBringup_legal | apply h_ok | apply Legal.parts
    | simp only [Legal.lit]
    | with_reducible first | apply Legal.ite
    | split
    | with_reducible first | apply Legal.foldl
    | intro _
    | dsimp only

theorem putRing_legal {s0 s : State} (h : Legal s0 s) (n : Nat) (r : Ring) :
    Legal s0 (putRing s n r) := by
  unfold putRing
  repeat' first
    | with_reducible assumption
    | with_reducible first | apply setRing_legal | apply devSend_legal | apply Legal.parts
    | simp only [Legal.lit]
    | with_reducible first | apply Legal.ite
    | split
    | with_reducible first | apply Legal.foldl
    | intro _
    | dsimp only

theorem adminRing_legal {s0 s : State} (h : Legal s0 s) :
    Legal s0 (adminRing s) := by
  unfold adminRing
  repeat' first
    | with_reducible assumption
    | with_reducible first | apply putRing_legal | apply Legal.parts
    | simp only [Legal.lit]
    | with_reducible first | apply Legal.ite
    | split
    | with_reducible first | apply Legal.foldl
    | intro _
    | dsimp only

theorem readyNow_legal {s0 s : State} (h : Legal s0 s) :
    Legal s0 (readyNow s) := by
  unfold readyNow
  repeat' first
    | with_reducible assumption
    | with_reducible first | apply setField_legal | apply driveAlert_legal | apply raiseEvent_legal | apply adminRing_legal | apply Legal.parts
    | simp only [Legal.lit]
    | with_reducible first | apply Legal.ite
    | split
    | with_reducible first | apply Legal.foldl
    | intro _
    | dsimp only

theorem toStep_legal {s0 s : State} (h : Legal s0 s) (n : Nat) :
    Legal s0 (toStep s n) := by
  unfold toStep
  repeat' first
    | with_reducible assumption
    | with_reducible first | apply Legal.parts
    | simp only [Legal.lit]
    | with_reducible first | apply Legal.ite
    | split
    | with_reducible first | apply Legal.foldl
    | intro _
    | dsimp only

theorem startPorts_legal {s0 s : State} (h : Legal s0 s) :
    Legal s0 (startPorts s) := by
  unfold startPorts
  repeat' first
    | with_reducible assumption
    | with_reducible first | apply leaveOff_legal | apply Legal.parts
    | simp only [Legal.lit]
    | with_reducible first | apply Legal.ite
    | split
    | with_reducible first | apply Legal.foldl
    | intro _
    | dsimp only

theorem loadStep_legal {s0 s : State} (h : Legal s0 s) (info : StepInfo) :
    Legal s0 (loadStep s info) := by
  unfold loadStep
  repeat' first
    | with_reducible assumption
    | with_reducible first | apply optionLoad_legal | apply driveAlert_legal | apply startPorts_legal | apply toStep_legal | apply raiseSrc_legal
    | with_reducible first | apply stopBringup_legal | apply Legal.parts
    | simp only [Legal.lit]
    | with_reducible first | apply Legal.ite
    | split
    | refine Legal.of_done ‹_› ?_
    | with_reducible first | apply LoadLegal.done | apply LoadLegal.noSlot | apply LoadLegal.badMaster | apply Legal.foldl
    | intro _
    | dsimp only

theorem execBringupStepDone_legal {s0 s : State} (h : Legal s0 s) (info : StepInfo) :
    OutLegal s0 (execBringupStepDone info s) := by
  unfold execBringupStepDone
  repeat' first
    | with_reducible assumption
    | with_reducible first | apply toStep_legal | apply countFw_legal | apply stopBringup_legal | apply senseStraps_legal | apply trainEdges_legal
    | with_reducible first | apply loadStep_legal | apply bootS_legal | apply readyNow_legal | apply Legal.parts
    | simp only [Legal.lit]
    | with_reducible first | apply Legal.ite
    | split
    | refine Legal.of_next ‹_› ?_
    | with_reducible first | apply OutLegal.next | apply Legal.foldl
    | intro _
    | dsimp only

theorem domainReset_legal {s0 s : State} (h : Legal s0 s) : Legal s0 (domainReset s) := by
  have k := wipe_legal (resetRegs_legal h reachedTwo) ringTable (64 * 2 ^ 20)
  exact ⟨k.queue, k.fuses, k.mem, k.sent, Nat.le_trans k.free (Nat.le_add_right _ _), k.uid⟩

theorem execDomainResetStepDone_legal {s0 s : State} (h : Legal s0 s) (info : StepInfo) :
    OutLegal s0 (execDomainResetStepDone info s) := by
  unfold execDomainResetStepDone
  repeat' first
    | with_reducible assumption
    | with_reducible first | apply toStep_legal | apply evictAll_legal | apply driveAlert_legal | apply domainReset_legal | apply trainEdges_legal
    | with_reducible first | apply bootS_legal | apply readyNow_legal | apply Legal.parts
    | simp only [Legal.lit]
    | with_reducible first | apply Legal.ite
    | split
    | refine Legal.of_next ‹_› ?_
    | with_reducible first | apply OutLegal.next | apply Legal.foldl
    | intro _
    | dsimp only

theorem blockReset_legal {s0 s : State} (h : Legal s0 s) (kind : Nat) (index : Nat) (idle : Bool) {f : State → State} (h_f : ∀ y0, Legal s0
      y0 → Legal s0 (f y0)) :
    Legal s0 (blockReset s kind index idle f) := by
  unfold blockReset
  repeat' first
    | with_reducible assumption
    | with_reducible first | apply wakeBy_legal | apply setField_legal | apply h_f | apply Legal.parts
    | simp only [Legal.lit]
    | with_reducible first | apply Legal.ite
    | split
    | with_reducible first | apply Legal.foldl
    | intro _
    | dsimp only

theorem resetFixer_legal {s0 s : State} (h : Legal s0 s) (f : Nat) :
    Legal s0 (resetFixer s f) := by
  unfold resetFixer
  repeat' first
    | with_reducible assumption
    | with_reducible first | apply fixReseed_legal | apply resetRegs_legal | apply Legal.parts
    | simp only [Legal.lit]
    | with_reducible first | apply Legal.ite
    | split
    | with_reducible first | apply Legal.foldl
    | intro _
    | dsimp only

theorem resetLoupe_legal {s0 s : State} (h : Legal s0 s) (n : Nat) :
    Legal s0 (resetLoupe s n) := by
  unfold resetLoupe
  repeat' first
    | with_reducible assumption
    | with_reducible first | apply resetRegs_legal | apply setLoupe_legal | apply Legal.parts
    | simp only [Legal.lit]
    | with_reducible first | apply Legal.ite
    | split
    | with_reducible first | apply Legal.foldl
    | intro _
    | dsimp only

theorem resetStacker_legal {s0 s : State} (h : Legal s0 s) (d : Nat) :
    Legal s0 (resetStacker s d) := by
  unfold resetStacker
  repeat' first
    | with_reducible assumption
    | with_reducible first | apply resetRegs_legal | apply Legal.parts
    | simp only [Legal.lit]
    | with_reducible first | apply Legal.ite
    | split
    | with_reducible first | apply Legal.foldl
    | intro _
    | dsimp only

theorem resetDie_legal {s0 s : State} (h : Legal s0 s) (d : Nat) :
    Legal s0 (resetDie s d) := by
  unfold resetDie
  repeat' first
    | with_reducible assumption
    | with_reducible first | apply resetCore_legal | apply resetLoupe_legal | apply resetFixer_legal | apply resetStacker_legal | apply Legal.parts
    | simp only [Legal.lit]
    | with_reducible first | apply Legal.ite
    | split
    | with_reducible first | apply Legal.foldl
    | intro _
    | dsimp only

theorem execDieReset_legal {s0 s : State} (h : Legal s0 s) (index : BitVec 11) :
    OutLegal s0 (execDieReset index s) := by
  unfold execDieReset
  repeat' first
    | with_reducible assumption
    | with_reducible first | apply blockReset_legal | apply resetDie_legal | apply Legal.parts
    | simp only [Legal.lit]
    | with_reducible first | apply Legal.ite
    | split
    | refine Legal.of_next ‹_› ?_
    | with_reducible first | apply OutLegal.next | apply Legal.foldl
    | intro _
    | dsimp only

theorem execCoreReset_legal {s0 s : State} (h : Legal s0 s) (index : BitVec 11) :
    OutLegal s0 (execCoreReset index s) := by
  unfold execCoreReset
  repeat' first
    | with_reducible assumption
    | with_reducible first | apply blockReset_legal | apply resetCore_legal | apply Legal.parts
    | simp only [Legal.lit]
    | with_reducible first | apply Legal.ite
    | split
    | refine Legal.of_next ‹_› ?_
    | with_reducible first | apply OutLegal.next | apply Legal.foldl
    | intro _
    | dsimp only

theorem execPortReset_legal {s0 s : State} (h : Legal s0 s) (index : BitVec 11) :
    OutLegal s0 (execPortReset index s) := by
  unfold execPortReset
  repeat' first
    | with_reducible assumption
    | with_reducible first | apply blockReset_legal | apply setPort_legal | apply resetRegs_legal | apply leaveSets_legal | apply Legal.parts
    | simp only [Legal.lit]
    | with_reducible first | apply Legal.ite
    | split
    | refine Legal.of_next ‹_› ?_
    | with_reducible first | apply OutLegal.next | apply Legal.foldl
    | intro _
    | dsimp only

theorem execFixerReset_legal {s0 s : State} (h : Legal s0 s) (index : BitVec 11) :
    OutLegal s0 (execFixerReset index s) := by
  unfold execFixerReset
  repeat' first
    | with_reducible assumption
    | with_reducible first | apply blockReset_legal | apply resetFixer_legal | apply Legal.parts
    | simp only [Legal.lit]
    | with_reducible first | apply Legal.ite
    | split
    | refine Legal.of_next ‹_› ?_
    | with_reducible first | apply OutLegal.next | apply Legal.foldl
    | intro _
    | dsimp only

theorem execLoupeReset_legal {s0 s : State} (h : Legal s0 s) (index : BitVec 11) :
    OutLegal s0 (execLoupeReset index s) := by
  unfold execLoupeReset
  repeat' first
    | with_reducible assumption
    | with_reducible first | apply blockReset_legal | apply resetLoupe_legal | apply Legal.parts
    | simp only [Legal.lit]
    | with_reducible first | apply Legal.ite
    | split
    | refine Legal.of_next ‹_› ?_
    | with_reducible first | apply OutLegal.next | apply Legal.foldl
    | intro _
    | dsimp only

theorem execStackerReset_legal {s0 s : State} (h : Legal s0 s) (index : BitVec 11) :
    OutLegal s0 (execStackerReset index s) := by
  unfold execStackerReset
  repeat' first
    | with_reducible assumption
    | with_reducible first | apply blockReset_legal | apply resetStacker_legal | apply Legal.parts
    | simp only [Legal.lit]
    | with_reducible first | apply Legal.ite
    | split
    | refine Legal.of_next ‹_› ?_
    | with_reducible first | apply OutLegal.next | apply Legal.foldl
    | intro _
    | dsimp only

theorem resetRing_legal {s0 s : State} (h : Legal s0 s) (n : Nat) :
    Legal s0 (resetRing s n) := by
  unfold resetRing
  repeat' first
    | with_reducible assumption
    | with_reducible first | apply putRing_legal | apply setUnit_legal | apply Legal.parts
    | simp only [Legal.lit]
    | with_reducible first | apply Legal.ite
    | split
    | with_reducible first | apply Legal.foldl
    | intro _
    | dsimp only

theorem execRingGroupReset_legal {s0 s : State} (h : Legal s0 s) (index : BitVec 11) :
    OutLegal s0 (execRingGroupReset index s) := by
  unfold execRingGroupReset
  repeat' first
    | with_reducible assumption
    | with_reducible first | apply blockReset_legal | apply resetRing_legal | apply Legal.parts
    | simp only [Legal.lit]
    | with_reducible first | apply Legal.ite
    | split
    | refine Legal.of_next ‹_› ?_
    | with_reducible first | apply OutLegal.next | apply Legal.foldl
    | intro _
    | dsimp only

theorem blockEnabled_legal {s0 s : State} (h : Legal s0 s) (k : Nat) (i : Nat) :
    Legal s0 (blockEnabled s k i) := by
  unfold blockEnabled
  repeat' first
    | with_reducible assumption
    | with_reducible first | apply leaveOff_legal | apply Legal.parts
    | simp only [Legal.lit]
    | with_reducible first | apply Legal.ite
    | split
    | with_reducible first | apply Legal.foldl
    | intro _
    | dsimp only

theorem execAllPortsDownTimer_legal {s0 s : State} (h : Legal s0 s) :
    OutLegal s0 (execAllPortsDownTimer s) := by
  unfold execAllPortsDownTimer
  repeat' first
    | with_reducible assumption
    | with_reducible first | apply raiseSrc_legal | apply Legal.parts
    | simp only [Legal.lit]
    | with_reducible first | apply Legal.ite
    | split
    | refine Legal.of_next ‹_› ?_
    | with_reducible first | apply OutLegal.next | apply Legal.foldl
    | intro _
    | dsimp only

theorem execMcWatchdogExpiry_legal {s0 s : State} (h : Legal s0 s) :
    OutLegal s0 (execMcWatchdogExpiry s) := by
  unfold execMcWatchdogExpiry
  repeat' first
    | with_reducible assumption
    | with_reducible first | apply raiseSrc_legal | apply Legal.parts
    | simp only [Legal.lit]
    | with_reducible first | apply Legal.ite
    | split
    | refine Legal.of_next ‹_› ?_
    | with_reducible first | apply OutLegal.next | apply Legal.foldl
    | intro _
    | dsimp only

theorem execPkgrst_legal {s0 s : State} (h : Legal s0 s) :
    OutLegal s0 (execPkgrst s) := by
  unfold execPkgrst
  repeat' first
    | with_reducible assumption
    | with_reducible first | apply raiseSrc_legal | apply Legal.parts
    | simp only [Legal.lit]
    | with_reducible first | apply Legal.ite
    | split
    | refine Legal.of_next ‹_› ?_
    | with_reducible first | apply OutLegal.next | apply Legal.foldl
    | intro _
    | dsimp only

theorem execPowerOn_legal {s0 s : State} (h : Legal s0 s) :
    OutLegal s0 (execPowerOn s) := by
  unfold execPowerOn
  repeat' first
    | with_reducible assumption
    | with_reducible first | apply beginReset_legal | apply seen_legal | apply Legal.parts
    | simp only [Legal.lit]
    | with_reducible first | apply Legal.ite
    | split
    | refine Legal.of_next ‹_› ?_
    | with_reducible first | apply OutLegal.next | apply Legal.foldl
    | intro _
    | dsimp only

theorem execPwrOkFall_legal {s0 s : State} (h : Legal s0 s) :
    OutLegal s0 (execPwrOkFall s) := by
  unfold execPwrOkFall
  repeat' first
    | with_reducible assumption
    | with_reducible first | apply deepReset_legal | apply Legal.parts
    | simp only [Legal.lit]
    | with_reducible first | apply Legal.ite
    | split
    | refine Legal.of_next ‹_› ?_
    | with_reducible first | apply OutLegal.next | apply Legal.foldl
    | intro _
    | dsimp only

theorem execWarmRstNAssert_legal {s0 s : State} (h : Legal s0 s) :
    OutLegal s0 (execWarmRstNAssert s) := by
  unfold execWarmRstNAssert
  repeat' first
    | with_reducible assumption
    | with_reducible first | apply Legal.parts
    | simp only [Legal.lit]
    | with_reducible first | apply Legal.ite
    | split
    | refine Legal.of_next ‹_› ?_
    | with_reducible first | apply OutLegal.next
    | intro _
    | dsimp only

theorem execPerstNAssert_legal {s0 s : State} (h : Legal s0 s) :
    OutLegal s0 (execPerstNAssert s) := by
  unfold execPerstNAssert
  repeat' first
    | with_reducible assumption
    | with_reducible first | apply Legal.parts
    | simp only [Legal.lit]
    | with_reducible first | apply Legal.ite
    | split
    | refine Legal.of_next ‹_› ?_
    | with_reducible first | apply OutLegal.next
    | intro _
    | dsimp only

/-! Homes. -/

theorem hostData_legal {s0 s : State} (h : Legal s0 s) (line : Nat) (d : List Byte) (st : Nat) (poison : Bool) :
    Legal s0 (hostData s line d st poison) := by
  unfold hostData
  repeat' first
    | with_reducible assumption
    | with_reducible first | apply send_legal | apply Legal.parts
    | simp only [Legal.lit]
    | with_reducible first | apply Legal.ite
    | split
    | with_reducible first | apply Legal.foldl
    | intro _
    | dsimp only

theorem foggedReads_legal {s0 s : State} (h : Legal s0 s) :
    Legal s0 (foggedReads s) := by
  unfold foggedReads
  repeat' first
    | with_reducible assumption
    | with_reducible first | apply hostData_legal | apply useFree_legal | apply send_legal | apply Legal.parts
    | simp only [Legal.lit]
    | with_reducible first | apply Legal.ite
    | split
    | with_reducible first | apply Legal.foldl
    | intro _
    | dsimp only

theorem fog_legal {s0 s : State} (h : Legal s0 s) (code : Nat) (die : Nat) (home : Nat) (line : Nat) (agent : Nat) :
    Legal s0 (fog s code die home line agent) := by
  unfold fog
  repeat' first
    | with_reducible assumption
    | with_reducible first | apply bump_legal | apply setReg_legal | apply setField_legal | apply beginTeardown_legal | apply send_legal
    | with_reducible first | apply setAlert_legal | apply pendingReset_legal | apply raiseSrc_legal | apply driveAlert_legal | apply foggedReads_legal
    | with_reducible first | apply Legal.parts
    | simp only [Legal.lit]
    | with_reducible first | apply Legal.ite
    | split
    | with_reducible first | apply Legal.foldl
    | intro _
    | dsimp only

theorem homeFog_legal {s0 s : State} (h : Legal s0 s) (code : Nat) (line : Nat) (a : Nat) :
    Legal s0 (homeFog s code line a) := by
  unfold homeFog
  repeat' first
    | with_reducible assumption
    | with_reducible first | apply fog_legal | apply Legal.parts
    | simp only [Legal.lit]
    | with_reducible first | apply Legal.ite
    | split
    | with_reducible first | apply Legal.foldl
    | intro _
    | dsimp only

theorem tickUse_legal {s0 s : State} (h : Legal s0 s) :
    Legal s0 (tickUse s) := by
  unfold tickUse
  repeat' first
    | with_reducible assumption
    | with_reducible first | apply Legal.parts
    | simp only [Legal.lit]
    | with_reducible first | apply Legal.ite
    | split
    | with_reducible first | apply Legal.foldl
    | intro _
    | dsimp only

theorem setDir_legal {s0 s : State} (h : Legal s0 s) (line : Nat) (d : DirSt) :
    Legal s0 (setDir s line d) := by
  unfold setDir
  repeat' first
    | with_reducible assumption
    | with_reducible first | apply tickUse_legal | apply Legal.parts
    | simp only [Legal.lit]
    | with_reducible first | apply Legal.ite
    | split
    | with_reducible first | apply Legal.foldl
    | intro _
    | dsimp only

theorem setHome_legal {s0 s : State} (h : Legal s0 s) (line : Nat) (h_ : HomeLine) :
    Legal s0 (setHome s line h_) := by
  unfold setHome
  repeat' first
    | with_reducible assumption
    | with_reducible first | apply Legal.parts
    | simp only [Legal.lit]
    | with_reducible first | apply Legal.ite
    | split
    | with_reducible first | apply Legal.foldl
    | intro _
    | dsimp only

theorem withMsgs_legal {s0 s : State} (h : Legal s0 s) (l : List CohMsg) :
    Legal s0 (withMsgs s l) := by
  unfold withMsgs
  repeat' first
    | with_reducible assumption
    | with_reducible first | apply Legal.parts
    | simp only [Legal.lit]
    | with_reducible first | apply Legal.ite
    | split
    | with_reducible first | apply Legal.foldl
    | intro _
    | dsimp only

theorem snoop_legal {s0 s : State} (h : Legal s0 s) (line : Nat) (k : Snp) (as_ : List Agent) :
    Legal s0 (snoop s line k as_) := by
  unfold snoop
  repeat' first
    | with_reducible assumption
    | with_reducible first | apply send_legal | apply post_legal | apply Legal.parts
    | simp only [Legal.lit]
    | with_reducible first | apply Legal.ite
    | split
    | with_reducible first | apply Legal.foldl
    | intro _
    | dsimp only

theorem recallLine_legal {s0 s : State} (h : Legal s0 s) (v : Nat × DirEnt) :
    Legal s0 (recallLine s v) := by
  unfold recallLine
  repeat' first
    | with_reducible assumption
    | with_reducible first | apply bump_legal | apply snoop_legal | apply setHome_legal | apply Legal.parts
    | simp only [Legal.lit]
    | with_reducible first | apply Legal.ite
    | split
    | with_reducible first | apply Legal.foldl
    | intro _
    | dsimp only

theorem storeLine_legal {s0 s : State} (h : Legal s0 s) (line : Nat) (d : List Byte) (bad : Bool) :
    Legal s0 (storeLine s line d bad) := by
  unfold storeLine
  repeat' first
    | with_reducible assumption
    | with_reducible first | apply setPoison_legal | apply memWrite_legal | apply Legal.parts
    | simp only [Legal.lit]
    | with_reducible first | apply Legal.ite
    | split
    | with_reducible first | apply Legal.foldl
    | intro _
    | dsimp only

theorem grant_legal {s0 s : State} (h : Legal s0 s) (line : Nat) (act : Active) (a : Agent) (st : LineSt) (data : Option (List Byte))
      (poison : Bool) :
    Legal s0 (grant s line act a st data poison) := by
  unfold grant
  repeat' first
    | with_reducible assumption
    | with_reducible first | apply hostData_legal | apply setHome_legal | apply post_legal | apply taint_legal | apply Legal.parts
    | simp only [Legal.lit]
    | with_reducible first | apply Legal.ite
    | split
    | with_reducible first | apply Legal.foldl
    | intro _
    | dsimp only

theorem complete_legal {s0 s : State} (h : Legal s0 s) (line : Nat) (act : Active) :
    Legal s0 (complete s line act) := by
  unfold complete
  repeat' first
    | with_reducible assumption
    | with_reducible first | apply logUe_legal | apply setHome_legal | apply setDir_legal | apply storeLine_legal | apply grant_legal
    | with_reducible first | apply hostData_legal | apply post_legal | apply memWrite_legal | apply setPoison_legal | apply send_legal
    | with_reducible first | apply Legal.parts
    | simp only [Legal.lit]
    | with_reducible first | apply Legal.ite
    | split
    | with_reducible first | apply Legal.foldl
    | intro _
    | dsimp only

theorem awaitEntry_legal {s0 s : State} (h : Legal s0 s) (line : Nat) (r : HReq) :
    Legal s0 (awaitEntry s line r) := by
  unfold awaitEntry
  repeat' first
    | with_reducible assumption
    | with_reducible first | apply setHome_legal | apply recallLine_legal | apply Legal.parts
    | simp only [Legal.lit]
    | with_reducible first | apply Legal.ite
    | split
    | with_reducible first | apply Legal.foldl
    | intro _
    | dsimp only

theorem start_legal {s0 s : State} (h : Legal s0 s) (line : Nat) (r : HReq) :
    Legal s0 (start s line r) := by
  unfold start
  repeat' first
    | with_reducible assumption
    | with_reducible first | apply bump_legal | apply awaitEntry_legal | apply setHome_legal | apply complete_legal | apply snoop_legal
    | with_reducible first | apply Legal.parts
    | simp only [Legal.lit]
    | with_reducible first | apply Legal.ite
    | split
    | with_reducible first | apply Legal.foldl
    | intro _
    | dsimp only

theorem pump_legal {s0 : State} : ∀ (a : Nat) {x1 : State} (_ : Legal s0 x1) (x2 : Nat),
    Legal s0 (pump a x1 x2) := by
  intro a
  induction a with
  | zero =>
    intro x1 h_x1 x2
    unfold pump
    repeat' first
      | with_reducible assumption
      | with_reducible first | apply start_legal | apply setHome_legal | apply Legal.parts
      | simp only [Legal.lit]
      | with_reducible first | apply Legal.ite
      | split
      | with_reducible first | apply Legal.foldl
      | intro _
      | dsimp only
  | succ _ ih =>
    intro x1 h_x1 x2
    unfold pump
    repeat' first
      | with_reducible assumption
      | with_reducible first | apply ih | apply start_legal | apply setHome_legal | apply Legal.parts
      | simp only [Legal.lit]
      | with_reducible first | apply Legal.ite
      | split
      | with_reducible first | apply Legal.foldl
      | intro _
      | dsimp only

theorem pumpLine_legal {s0 s : State} (h : Legal s0 s) (line : Nat) :
    Legal s0 (pumpLine s line) := by
  unfold pumpLine
  repeat' first
    | with_reducible assumption
    | with_reducible first | apply pump_legal | apply Legal.parts
    | simp only [Legal.lit]
    | with_reducible first | apply Legal.ite
    | split
    | with_reducible first | apply Legal.foldl
    | intro _
    | dsimp only

theorem retryEntries_legal {s0 s : State} (h : Legal s0 s) :
    Legal s0 (retryEntries s) := by
  unfold retryEntries
  repeat' first
    | with_reducible assumption
    | with_reducible first | apply pumpLine_legal | apply start_legal | apply setHome_legal | apply Legal.parts
    | simp only [Legal.lit]
    | with_reducible first | apply Legal.ite
    | split
    | with_reducible first | apply Legal.foldl
    | intro _
    | dsimp only

theorem advance_legal {s0 s : State} (h : Legal s0 s) (line : Nat) :
    Legal s0 (advance s line) := by
  unfold advance
  repeat' first
    | with_reducible assumption
    | with_reducible first | apply pumpLine_legal | apply storeLine_legal | apply retryEntries_legal | apply setHome_legal | apply setDir_legal
    | with_reducible first | apply awaitEntry_legal | apply complete_legal | apply Legal.parts
    | simp only [Legal.lit]
    | with_reducible first | apply Legal.ite
    | split
    | with_reducible first | apply Legal.foldl
    | intro _
    | dsimp only

theorem deliver_legal {s0 s : State} (h : Legal s0 s) (line : Nat) (is : HReq → Bool) :
    Legal s0 (deliver s line is) := by
  unfold deliver
  repeat' first
    | with_reducible assumption
    | with_reducible first | apply withMsgs_legal | apply pumpLine_legal | apply setHome_legal | apply Legal.parts
    | simp only [Legal.lit]
    | with_reducible first | apply Legal.ite
    | split
    | with_reducible first | apply Legal.foldl
    | intro _
    | dsimp only

theorem execAckMsg_legal {s0 s : State} (h : Legal s0 s) (a : Agent) (line : Nat) :
    OutLegal s0 (execAckMsg a line s) := by
  unfold execAckMsg
  repeat' first
    | with_reducible assumption
    | with_reducible first | apply withMsgs_legal | apply retryEntries_legal | apply pumpLine_legal | apply setHome_legal | apply homeFog_legal
    | with_reducible first | apply Legal.parts
    | simp only [Legal.lit]
    | with_reducible first | apply Legal.ite
    | split
    | refine Legal.of_next ‹_› ?_
    | with_reducible first | apply OutLegal.next | apply Legal.foldl
    | intro _
    | dsimp only

theorem applyWb_legal {s0 s : State} (h : Legal s0 s) (a : Agent) (line : Nat) (off : Nat) (bs : List Byte) (poison : Bool) :
    Legal s0 (applyWb s a line off bs poison) := by
  unfold applyWb
  repeat' first
    | with_reducible assumption
    | with_reducible first | apply memWrite_legal | apply setPoison_legal | apply setDir_legal | apply retryEntries_legal | apply advance_legal
    | with_reducible first | apply setHome_legal | apply Legal.parts
    | simp only [Legal.lit]
    | with_reducible first | apply Legal.ite
    | split
    | with_reducible first | apply Legal.foldl
    | intro _
    | dsimp only

theorem setCopy_legal {s0 s : State} (h : Legal s0 s) (a : Agent) (line : Nat) (c : Option CLine) :
    Legal s0 (setCopy s a line c) := by
  unfold setCopy
  repeat' first
    | with_reducible assumption
    | with_reducible first | apply loseRsv_legal | apply Legal.parts
    | simp only [Legal.lit]
    | with_reducible first | apply Legal.ite
    | split
    | with_reducible first | apply Legal.foldl
    | intro _
    | dsimp only

theorem answer_legal {s0 s : State} (h : Legal s0 s) (a : Agent) (line : Nat) (k : Snp) :
    Legal s0 (answer s a line k) := by
  unfold answer
  repeat' first
    | with_reducible assumption
    | with_reducible first | apply post_legal | apply wakeWatch_legal | apply setCopy_legal | apply taint_legal | apply Legal.parts
    | simp only [Legal.lit]
    | with_reducible first | apply Legal.ite
    | split
    | with_reducible first | apply Legal.foldl
    | intro _
    | dsimp only

theorem snooped_legal {s0 s : State} (h : Legal s0 s) (a : Agent) (line : Nat) (k : Snp) :
    Legal s0 (snooped s a line k) := by
  unfold snooped
  repeat' first
    | with_reducible assumption
    | with_reducible first | apply answer_legal | apply withMsgs_legal | apply Legal.parts
    | simp only [Legal.lit]
    | with_reducible first | apply Legal.ite
    | split
    | with_reducible first | apply Legal.foldl
    | intro _
    | dsimp only

theorem execSnps_legal {s0 s : State} (h : Legal s0 s) (a : Agent) (line : Nat) :
    OutLegal s0 (execSnps a line s) := by
  unfold execSnps
  repeat' first
    | with_reducible assumption
    | with_reducible first | apply snooped_legal | apply Legal.parts
    | simp only [Legal.lit]
    | with_reducible first | apply Legal.ite
    | split
    | refine Legal.of_next ‹_› ?_
    | with_reducible first | apply OutLegal.next | apply Legal.foldl
    | intro _
    | dsimp only

theorem execSnpx_legal {s0 s : State} (h : Legal s0 s) (a : Agent) (line : Nat) :
    OutLegal s0 (execSnpx a line s) := by
  unfold execSnpx
  repeat' first
    | with_reducible assumption
    | with_reducible first | apply snooped_legal | apply Legal.parts
    | simp only [Legal.lit]
    | with_reducible first | apply Legal.ite
    | split
    | refine Legal.of_next ‹_› ?_
    | with_reducible first | apply OutLegal.next | apply Legal.foldl
    | intro _
    | dsimp only

theorem execSnpcur_legal {s0 s : State} (h : Legal s0 s) (a : Agent) (line : Nat) :
    OutLegal s0 (execSnpcur a line s) := by
  unfold execSnpcur
  repeat' first
    | with_reducible assumption
    | with_reducible first | apply snooped_legal | apply Legal.parts
    | simp only [Legal.lit]
    | with_reducible first | apply Legal.ite
    | split
    | refine Legal.of_next ‹_› ?_
    | with_reducible first | apply OutLegal.next | apply Legal.foldl
    | intro _
    | dsimp only

theorem takeRsp_legal {s0 s : State} (h : Legal s0 s) (a : Agent) (line : Nat) (act : Active) (k : Rsp) (data : Option (List Byte)) :
    Legal s0 (takeRsp s a line act k data) := by
  unfold takeRsp
  repeat' first
    | with_reducible assumption
    | with_reducible first | apply setHome_legal | apply setDir_legal | apply bump_legal | apply taint_legal | apply storeLine_legal
    | with_reducible first | apply Legal.parts
    | simp only [Legal.lit]
    | with_reducible first | apply Legal.ite
    | split
    | with_reducible first | apply Legal.foldl
    | intro _
    | dsimp only

theorem respond_legal {s0 s : State} (h : Legal s0 s) (a : Agent) (line : Nat) (k : Rsp) (data : Option (List Byte)) :
    Legal s0 (respond s a line k data) := by
  unfold respond
  repeat' first
    | with_reducible assumption
    | with_reducible first | apply advance_legal | apply takeRsp_legal | apply homeFog_legal | apply Legal.parts
    | simp only [Legal.lit]
    | with_reducible first | apply Legal.ite
    | split
    | with_reducible first | apply Legal.foldl
    | intro _
    | dsimp only

theorem rspFrom_legal {s0 s : State} (h : Legal s0 s) (a : Agent) (line : Nat) (k : Rsp) (data : Option (List Byte)) :
    Legal s0 (rspFrom s a line k data) := by
  unfold rspFrom
  repeat' first
    | with_reducible assumption
    | with_reducible first | apply respond_legal | apply withMsgs_legal | apply Legal.parts
    | simp only [Legal.lit]
    | with_reducible first | apply Legal.ite
    | split
    | with_reducible first | apply Legal.foldl
    | intro _
    | dsimp only

theorem execRspmiss_legal {s0 s : State} (h : Legal s0 s) (a : Agent) (line : Nat) (data : Option (List Byte)) :
    OutLegal s0 (execRspmiss a line data s) := by
  unfold execRspmiss
  repeat' first
    | with_reducible assumption
    | with_reducible first | apply rspFrom_legal | apply Legal.parts
    | simp only [Legal.lit]
    | with_reducible first | apply Legal.ite
    | split
    | refine Legal.of_next ‹_› ?_
    | with_reducible first | apply OutLegal.next | apply Legal.foldl
    | intro _
    | dsimp only

theorem execRsps_legal {s0 s : State} (h : Legal s0 s) (a : Agent) (line : Nat) (data : Option (List Byte)) :
    OutLegal s0 (execRsps a line data s) := by
  unfold execRsps
  repeat' first
    | with_reducible assumption
    | with_reducible first | apply rspFrom_legal | apply Legal.parts
    | simp only [Legal.lit]
    | with_reducible first | apply Legal.ite
    | split
    | refine Legal.of_next ‹_› ?_
    | with_reducible first | apply OutLegal.next | apply Legal.foldl
    | intro _
    | dsimp only

theorem execRspo_legal {s0 s : State} (h : Legal s0 s) (a : Agent) (line : Nat) (data : Option (List Byte)) :
    OutLegal s0 (execRspo a line data s) := by
  unfold execRspo
  repeat' first
    | with_reducible assumption
    | with_reducible first | apply rspFrom_legal | apply Legal.parts
    | simp only [Legal.lit]
    | with_reducible first | apply Legal.ite
    | split
    | refine Legal.of_next ‹_› ?_
    | with_reducible first | apply OutLegal.next | apply Legal.foldl
    | intro _
    | dsimp only

theorem execRspi_legal {s0 s : State} (h : Legal s0 s) (a : Agent) (line : Nat) (data : Option (List Byte)) :
    OutLegal s0 (execRspi a line data s) := by
  unfold execRspi
  repeat' first
    | with_reducible assumption
    | with_reducible first | apply rspFrom_legal | apply Legal.parts
    | simp only [Legal.lit]
    | with_reducible first | apply Legal.ite
    | split
    | refine Legal.of_next ‹_› ?_
    | with_reducible first | apply OutLegal.next | apply Legal.foldl
    | intro _
    | dsimp only

theorem execRspwbif_legal {s0 s : State} (h : Legal s0 s) (a : Agent) (line : Nat) :
    OutLegal s0 (execRspwbif a line s) := by
  unfold execRspwbif
  repeat' first
    | with_reducible assumption
    | with_reducible first | apply rspFrom_legal | apply Legal.parts
    | simp only [Legal.lit]
    | with_reducible first | apply Legal.ite
    | split
    | refine Legal.of_next ‹_› ?_
    | with_reducible first | apply OutLegal.next | apply Legal.foldl
    | intro _
    | dsimp only

theorem evictCopy_legal {s0 s : State} (h : Legal s0 s) (a : Agent) (line : Nat) (c : CLine) :
    Legal s0 (evictCopy s a line c) := by
  unfold evictCopy
  repeat' first
    | with_reducible assumption
    | with_reducible first | apply setCopy_legal | apply post_legal | apply taint_legal | apply Legal.parts
    | simp only [Legal.lit]
    | with_reducible first | apply Legal.ite
    | split
    | with_reducible first | apply Legal.foldl
    | intro _
    | dsimp only

theorem copyWay_legal {s0 s : State} (h : Legal s0 s) (a : Agent) (line : Nat) :
    Legal s0 (copyWay s a line) := by
  unfold copyWay
  repeat' first
    | with_reducible assumption
    | with_reducible first | apply evictCopy_legal | apply useFree_legal | apply Legal.parts
    | simp only [Legal.lit]
    | with_reducible first | apply Legal.ite
    | split
    | with_reducible first | apply Legal.foldl
    | intro _
    | dsimp only

theorem takeGrant_legal {s0 s : State} (h : Legal s0 s) (a : Agent) (line : Nat) :
    Legal s0 (takeGrant a line s) := by
  unfold takeGrant
  repeat' first
    | with_reducible assumption
    | with_reducible first | apply withMsgs_legal | apply post_legal | apply setCopy_legal | apply copyWay_legal | apply Legal.parts
    | simp only [Legal.lit]
    | with_reducible first | apply Legal.ite
    | split
    | with_reducible first | apply Legal.foldl
    | intro _
    | dsimp only

theorem execDoneMsg_legal {s0 s : State} (h : Legal s0 s) (n : Nat) :
    OutLegal s0 (execDoneMsg n s) := by
  unfold execDoneMsg
  repeat' first
    | with_reducible assumption
    | with_reducible first | apply withMsgs_legal | apply chargeCall_legal | apply logUe_legal | apply report_legal | apply Legal.parts
    | simp only [Legal.lit]
    | with_reducible first | apply Legal.ite
    | split
    | refine Legal.of_next ‹_› ?_
    | with_reducible first | apply OutLegal.next | apply Legal.foldl
    | intro _
    | dsimp only

theorem execSnoopTimeout_legal {s0 s : State} (h : Legal s0 s) (line : Nat) :
    OutLegal s0 (execSnoopTimeout line s) := by
  unfold execSnoopTimeout
  repeat' first
    | with_reducible assumption
    | with_reducible first | apply homeFog_legal | apply fog_legal | apply Legal.parts
    | simp only [Legal.lit]
    | with_reducible first | apply Legal.ite
    | split
    | refine Legal.of_next ‹_› ?_
    | with_reducible first | apply OutLegal.next | apply Legal.foldl
    | intro _
    | dsimp only

theorem execMachineCheck_legal {s0 s : State} (h : Legal s0 s) (cause : MCheck) :
    OutLegal s0 (execMachineCheck cause s) := by
  unfold execMachineCheck
  repeat' first
    | with_reducible assumption
    | with_reducible first | apply raiseSrc_legal | apply fog_legal | apply Legal.parts
    | simp only [Legal.lit]
    | with_reducible first | apply Legal.ite
    | split
    | refine Legal.of_next ‹_› ?_
    | with_reducible first | apply OutLegal.next | apply Legal.foldl
    | intro _
    | dsimp only

theorem execBiconflict_legal {s0 s : State} (h : Legal s0 s) (line : Nat) :
    OutLegal s0 (execBiconflict line s) := by
  unfold execBiconflict
  repeat' first
    | with_reducible assumption
    | with_reducible first | apply send_legal | apply bump_legal | apply homeFog_legal | apply Legal.parts
    | simp only [Legal.lit]
    | with_reducible first | apply Legal.ite
    | split
    | refine Legal.of_next ‹_› ?_
    | with_reducible first | apply OutLegal.next | apply Legal.foldl
    | intro _
    | dsimp only

/-! Doorbells. -/

theorem stopRing_legal {s0 s : State} (h : Legal s0 s) (n : Nat) (code : Nat) (index : Nat) (vec : optParam Bool true) :
    Legal s0 (stopRing s n code index vec) := by
  unfold stopRing
  repeat' first
    | with_reducible assumption
    | with_reducible first | apply putRing_legal | apply setUnit_legal | apply logOnce_legal | apply pushErr_legal | apply sendVec_legal
    | with_reducible first | apply Legal.parts
    | simp only [Legal.lit]
    | with_reducible first | apply Legal.ite
    | split
    | with_reducible first | apply Legal.foldl
    | intro _
    | dsimp only

theorem setTail_legal {s0 s : State} (h : Legal s0 s) (n : Nat) (r : Ring) (tail : Nat) :
    Legal s0 (setTail s n r tail) := by
  unfold setTail
  repeat' first
    | with_reducible assumption
    | with_reducible first | apply putRing_legal | apply setUnit_legal | apply Legal.parts
    | simp only [Legal.lit]
    | with_reducible first | apply Legal.ite
    | split
    | with_reducible first | apply Legal.foldl
    | intro _
    | dsimp only

theorem ringBell_legal {s0 s : State} (h : Legal s0 s) (n : Nat) (w : Word) :
    Legal s0 (ringBell s n w) := by
  unfold ringBell
  repeat' first
    | with_reducible assumption
    | with_reducible first | apply bump_legal | apply stopRing_legal | apply setUnit_legal | apply setTail_legal | apply Legal.parts
    | simp only [Legal.lit]
    | with_reducible first | apply Legal.ite
    | split
    | with_reducible first | apply Legal.foldl
    | intro _
    | dsimp only

theorem execDoorbell_legal {s0 s : State} (h : Legal s0 s) (off : Nat) (size : Nat) (word : Word) :
    OutLegal s0 (execDoorbell off size word s) := by
  unfold execDoorbell
  repeat' first
    | with_reducible assumption
    | with_reducible first | apply ringBell_legal | apply wakeBy_legal | apply Legal.parts
    | simp only [Legal.lit]
    | with_reducible first | apply Legal.ite
    | split
    | refine Legal.of_next ‹_› ?_
    | with_reducible first | apply OutLegal.next | apply Legal.foldl
    | intro _
    | dsimp only

theorem execDbell_legal {s0 s : State} (h : Legal s0 s) (src : Option Nat) :
    OutLegal s0 (execDbell src s) := by
  unfold execDbell
  repeat' first
    | with_reducible assumption
    | with_reducible first | apply arrive_legal | apply ringBell_legal | apply wakeBy_legal | apply countRefused_legal | apply sendOn_legal
    | with_reducible first | apply Legal.parts
    | simp only [Legal.lit]
    | with_reducible first | apply Legal.ite
    | split
    | refine Legal.of_arr ‹_› ?_ | refine Legal.of_drop ‹_› ?_ | refine Legal.of_next ‹_› ?_ | refine Legal.of_some ‹_› ?_
    | with_reducible first | apply OutLegal.next | apply OptLegal.none | apply OptLegal.some | apply OptLegal.mapS | apply OptLegal.map
    | with_reducible first | apply OptLegal.bind | apply OptLegal.getD | apply ArrLegal.none | apply ArrLegal.drop | apply ArrLegal.ok
    | with_reducible first | apply Legal.foldl
    | intro _
    | dsimp only

theorem evictHost_legal {s0 s : State} (h : Legal s0 s) (h_ : Nat) (l : HlcLine) :
    Legal s0 (evictHost s h_ l) := by
  unfold evictHost
  repeat' first
    | with_reducible assumption
    | with_reducible first | apply loseRsv_legal | apply send_legal | apply Legal.parts
    | simp only [Legal.lit]
    | with_reducible first | apply Legal.ite
    | split
    | with_reducible first | apply Legal.foldl
    | intro _
    | dsimp only

theorem hlcRoom_legal {s0 s : State} (h : Legal s0 s) (h_ : Nat) :
    OptLegal s0 (hlcRoom s h_) := by
  unfold hlcRoom
  repeat' first
    | with_reducible assumption
    | with_reducible first | apply evictHost_legal | apply wakeWatch_legal | apply bump_legal | apply Legal.parts
    | simp only [Legal.lit]
    | with_reducible first | apply Legal.ite
    | split
    | refine Legal.of_some ‹_› ?_
    | with_reducible first | apply OptLegal.none | apply OptLegal.some | apply OptLegal.mapS | apply OptLegal.map | apply OptLegal.bind
    | with_reducible first | apply OptLegal.getD | apply Legal.foldl
    | intro _
    | dsimp only

theorem pinLine_legal {s0 s : State} (h : Legal s0 s) (h_ : Nat) (l : HlcLine) :
    Legal s0 (pinLine s h_ l) := by
  unfold pinLine
  repeat' first
    | with_reducible assumption
    | with_reducible first | apply tickUse_legal | apply Legal.parts
    | simp only [Legal.lit]
    | with_reducible first | apply Legal.ite
    | split
    | with_reducible first | apply Legal.foldl
    | intro _
    | dsimp only

theorem hlcPut_legal {s0 s : State} (h : Legal s0 s) (h_ : Nat) (st : LineSt) (d : List Byte) :
    OptLegal s0 (hlcPut s h_ st d) := by
  unfold hlcPut
  repeat' first
    | with_reducible assumption
    | with_reducible first | apply tickUse_legal | apply hlcRoom_legal | apply Legal.parts
    | simp only [Legal.lit]
    | with_reducible first | apply Legal.ite
    | split
    | refine Legal.of_some ‹_› ?_
    | with_reducible first | apply OptLegal.none | apply OptLegal.some | apply OptLegal.mapS | apply OptLegal.map | apply OptLegal.bind
    | with_reducible first | apply OptLegal.getD | apply Legal.foldl
    | intro _
    | dsimp only

theorem watchFails_legal {s0 s : State} (h : Legal s0 s) (n : Nat) :
    Legal s0 (watchFails s n) := by
  unfold watchFails
  repeat' first
    | with_reducible assumption
    | with_reducible first | apply setUnit_legal | apply stopRing_legal | apply Legal.parts
    | simp only [Legal.lit]
    | with_reducible first | apply Legal.ite
    | split
    | with_reducible first | apply Legal.foldl
    | intro _
    | dsimp only

theorem watchHeld_legal {s0 s : State} (h : Legal s0 s) (n : Nat) (w : Word) :
    Legal s0 (watchHeld s n w) := by
  unfold watchHeld
  repeat' first
    | with_reducible assumption
    | with_reducible first | apply setUnit_legal | apply ringBell_legal | apply Legal.parts
    | simp only [Legal.lit]
    | with_reducible first | apply Legal.ite
    | split
    | with_reducible first | apply Legal.foldl
    | intro _
    | dsimp only

theorem shareFrom_legal {s0 s : State} (h : Legal s0 s) (line : Nat) (b : Agent) (v : List Agent) :
    Legal s0 (shareFrom s line b v) := by
  unfold shareFrom
  repeat' first
    | with_reducible assumption
    | with_reducible first | apply setDir_legal | apply bump_legal | apply setCopy_legal | apply Legal.parts
    | simp only [Legal.lit]
    | with_reducible first | apply Legal.ite
    | split
    | with_reducible first | apply Legal.foldl
    | intro _
    | dsimp only

theorem shareLine_legal {s0 s : State} (h : Legal s0 s) (line : Nat) :
    Legal s0 (shareLine s line) := by
  unfold shareLine
  repeat' first
    | with_reducible assumption
    | with_reducible first | apply setDir_legal | apply shareFrom_legal | apply Legal.parts
    | simp only [Legal.lit]
    | with_reducible first | apply Legal.ite
    | split
    | with_reducible first | apply Legal.foldl
    | intro _
    | dsimp only

theorem watchDevice_legal {s0 s : State} (h : Legal s0 s) (n : Nat) (line : Nat) :
    Legal s0 (watchDevice s n line) := by
  unfold watchDevice
  repeat' first
    | with_reducible assumption
    | with_reducible first | apply readyLines_legal | apply recallLine_legal | apply watchFails_legal | apply logUe_legal | apply watchHeld_legal
    | with_reducible first | apply shareLine_legal | apply Legal.parts
    | simp only [Legal.lit]
    | with_reducible first | apply Legal.ite
    | split
    | refine Legal.of_some ‹_› ?_
    | with_reducible first | apply OptLegal.none | apply OptLegal.some | apply OptLegal.mapS | apply OptLegal.map | apply OptLegal.bind
    | with_reducible first | apply OptLegal.getD | apply Legal.foldl
    | intro _
    | dsimp only

theorem watchTake_legal {s0 s : State} (h : Legal s0 s) (n : Nat) (h_ : Nat) (l : HlcLine) :
    Legal s0 (watchTake s n h_ l) := by
  unfold watchTake
  repeat' first
    | with_reducible assumption
    | with_reducible first | apply watchHeld_legal | apply pinLine_legal | apply Legal.parts
    | simp only [Legal.lit]
    | with_reducible first | apply Legal.ite
    | split
    | with_reducible first | apply Legal.foldl
    | intro _
    | dsimp only

theorem watchHost_legal {s0 s : State} (h : Legal s0 s) (n : Nat) :
    Legal s0 (watchHost s n) := by
  unfold watchHost
  repeat' first
    | with_reducible assumption
    | with_reducible first | apply hostPieces_legal | apply watchFails_legal | apply watchTake_legal | apply send_legal | apply Legal.parts
    | simp only [Legal.lit]
    | with_reducible first | apply Legal.ite | apply AccLegal.ite
    | split
    | refine Legal.of_bad ‹_› ?_ | refine Legal.of_ok ‹_› ?_ | refine Legal.of_wait ‹_› ?_
    | with_reducible first | apply AccLegal.ok | apply AccLegal.wait | apply AccLegal.bad | apply AccLegal.of_bind | apply AccLegal.foldl
    | with_reducible first | apply Legal.foldl
    | intro _
    | dsimp only

theorem readWatched_legal {s0 s : State} (h : Legal s0 s) (ring : Nat) :
    Legal s0 (readWatched ring s) := by
  unfold readWatched
  repeat' first
    | with_reducible assumption
    | with_reducible first | apply watchHost_legal | apply wakeBy_legal | apply watchDevice_legal | apply Legal.parts
    | simp only [Legal.lit]
    | with_reducible first | apply Legal.ite
    | split
    | with_reducible first | apply Legal.foldl
    | intro _
    | dsimp only

theorem dropRing_legal {s0 s : State} (h : Legal s0 s) (n : Nat) :
    Legal s0 (dropRing s n) := by
  unfold dropRing
  repeat' first
    | with_reducible assumption
    | with_reducible first | apply putRing_legal | apply setUnit_legal | apply Legal.parts
    | simp only [Legal.lit]
    | with_reducible first | apply Legal.ite
    | split
    | with_reducible first | apply Legal.foldl
    | intro _
    | dsimp only

theorem cacheRing_legal {s0 s : State} (h : Legal s0 s) (n : Nat) :
    Legal s0 (cacheRing s n) := by
  unfold cacheRing
  repeat' first
    | with_reducible assumption
    | with_reducible first | apply setUnit_legal | apply Legal.parts
    | simp only [Legal.lit]
    | with_reducible first | apply Legal.ite
    | split
    | with_reducible first | apply Legal.foldl
    | intro _
    | dsimp only

theorem execPendingRingFetch_legal {s0 s : State} (h : Legal s0 s) (ring : Nat) :
    OutLegal s0 (execPendingRingFetch ring s) := by
  unfold execPendingRingFetch
  repeat' first
    | with_reducible assumption
    | with_reducible first | apply cacheRing_legal | apply dropRing_legal | apply Legal.parts
    | simp only [Legal.lit]
    | with_reducible first | apply Legal.ite
    | split
    | refine Legal.of_next ‹_› ?_
    | with_reducible first | apply OutLegal.next | apply Legal.foldl
    | intro _
    | dsimp only

theorem ringRead_legal {s0 s : State} (h : Legal s0 s) (who : Nat) (ctx : Nat) (host : Bool) (a : Nat) (n : Nat) :
    AccLegal s0 (ringRead s who ctx host a n) := by
  unfold ringRead
  repeat' first
    | with_reducible assumption
    | with_reducible first | apply hostRead_legal | apply devRead_legal | apply Legal.parts
    | simp only [Legal.lit]
    | with_reducible first | apply Legal.ite | apply AccLegal.ite
    | split
    | refine Legal.of_bad ‹_› ?_ | refine Legal.of_ok ‹_› ?_ | refine Legal.of_wait ‹_› ?_
    | with_reducible first | apply AccLegal.ok | apply AccLegal.wait | apply AccLegal.bad | apply AccLegal.of_bind | apply AccLegal.foldl
    | intro _
    | dsimp only

theorem fetchDesc_legal {s0 s : State} (h : Legal s0 s) (ring : Nat) :
    Legal s0 (fetchDesc ring s) := by
  unfold fetchDesc
  repeat' first
    | with_reducible assumption
    | with_reducible first | apply ringRead_legal | apply stopRing_legal | apply endHost_legal | apply setRing_legal | apply setUnit_legal
    | with_reducible first | apply Legal.parts
    | simp only [Legal.lit]
    | with_reducible first | apply Legal.ite | apply AccLegal.ite
    | split
    | refine Legal.of_bad ‹_› ?_ | refine Legal.of_ok ‹_› ?_ | refine Legal.of_wait ‹_› ?_
    | with_reducible first | apply AccLegal.ok | apply AccLegal.wait | apply AccLegal.bad | apply AccLegal.of_bind | apply AccLegal.foldl
    | with_reducible first | apply Legal.foldl
    | intro _
    | dsimp only

theorem writeRing_legal {s0 s : State} (h : Legal s0 s) (n : Nat) (r : Ring) :
    Legal s0 (writeRing s n r) := by
  unfold writeRing
  repeat' first
    | with_reducible assumption
    | with_reducible first | apply removeRing_legal | apply putRing_legal | apply setUnit_legal | apply Legal.parts
    | simp only [Legal.lit]
    | with_reducible first | apply Legal.ite
    | split
    | with_reducible first | apply Legal.foldl
    | intro _
    | dsimp only

theorem showRing_legal {s0 s : State} (h : Legal s0 s) (n : BitVec 20) :
    Legal s0 (showRing s n) := by
  unfold showRing
  repeat' first
    | with_reducible assumption
    | with_reducible first | apply setField_legal | apply Legal.parts
    | simp only [Legal.lit]
    | with_reducible first | apply Legal.ite
    | split
    | with_reducible first | apply Legal.foldl
    | intro _
    | dsimp only

theorem execRingCtrlRead_legal {s0 s : State} (h : Legal s0 s) (ring : BitVec 20) :
    OutLegal s0 (execRingCtrlRead ring s) := by
  unfold execRingCtrlRead
  repeat' first
    | with_reducible assumption
    | with_reducible first | apply wakeBy_legal | apply setReg_legal | apply showRing_legal | apply Legal.parts
    | simp only [Legal.lit]
    | with_reducible first | apply Legal.ite
    | split
    | refine Legal.of_next ‹_› ?_
    | with_reducible first | apply OutLegal.next | apply Legal.foldl
    | intro _
    | dsimp only

theorem tryWrite_legal {s0 s : State} (h : Legal s0 s) (n : Nat) (w : BitVec 512) :
    Legal s0 (tryWrite s n w) := by
  unfold tryWrite
  repeat' first
    | with_reducible assumption
    | with_reducible first | apply setField_legal | apply writeRing_legal | apply Legal.parts
    | simp only [Legal.lit]
    | with_reducible first | apply Legal.ite
    | split
    | with_reducible first | apply Legal.foldl
    | intro _
    | dsimp only

theorem execRingCtrlWrite_legal {s0 s : State} (h : Legal s0 s) (ring : BitVec 20) :
    OutLegal s0 (execRingCtrlWrite ring s) := by
  unfold execRingCtrlWrite
  repeat' first
    | with_reducible assumption
    | with_reducible first | apply showRing_legal | apply wakeBy_legal | apply tryWrite_legal | apply Legal.parts
    | simp only [Legal.lit]
    | with_reducible first | apply Legal.ite
    | split
    | refine Legal.of_next ‹_› ?_
    | with_reducible first | apply OutLegal.next | apply Legal.foldl
    | intro _
    | dsimp only

theorem execBlockResetComplete_legal {s0 s : State} (h : Legal s0 s) :
    OutLegal s0 (execBlockResetComplete s) := by
  unfold execBlockResetComplete
  repeat' first
    | with_reducible assumption
    | with_reducible first | apply blockEnabled_legal | apply tryWrite_legal | apply Legal.parts
    | simp only [Legal.lit]
    | with_reducible first | apply Legal.ite
    | split
    | refine Legal.of_next ‹_› ?_
    | with_reducible first | apply OutLegal.next | apply Legal.foldl
    | intro _
    | dsimp only

theorem execRingCtrlReset_legal {s0 s : State} (h : Legal s0 s) (ring : BitVec 20) :
    OutLegal s0 (execRingCtrlReset ring s) := by
  unfold execRingCtrlReset
  repeat' first
    | with_reducible assumption
    | with_reducible first | apply wakeBy_legal | apply showRing_legal | apply setField_legal | apply resetRing_legal | apply Legal.parts
    | simp only [Legal.lit]
    | with_reducible first | apply Legal.ite
    | split
    | refine Legal.of_next ‹_› ?_
    | with_reducible first | apply OutLegal.next | apply Legal.foldl
    | intro _
    | dsimp only

/-! HostPort. -/

theorem logRsv_legal {s0 s : State} (h : Legal s0 s) (agent : Nat) (ppa : Nat) :
    Legal s0 (logRsv s agent ppa) := by
  unfold logRsv
  repeat' first
    | with_reducible assumption
    | with_reducible first | apply bump_legal | apply setReg_legal | apply Legal.parts
    | simp only [Legal.lit]
    | with_reducible first | apply Legal.ite
    | split
    | with_reducible first | apply Legal.foldl
    | intro _
    | dsimp only

theorem execMemrd_legal {s0 s : State} (h : Legal s0 s) (hpa : BitVec 52) (want : Want) :
    OutLegal s0 (execMemrd hpa want s) := by
  unfold execMemrd
  repeat' first
    | with_reducible assumption
    | with_reducible first | apply hostData_legal | apply useFree_legal | apply post_legal | apply wakeBy_legal | apply Legal.parts
    | simp only [Legal.lit]
    | with_reducible first | apply Legal.ite
    | split
    | refine Legal.of_next ‹_› ?_
    | with_reducible first | apply OutLegal.next | apply Legal.foldl
    | intro _
    | dsimp only

theorem hostStore_legal {s0 s : State} (h : Legal s0 s) (p : Nat) (bs : List Byte) (poison : Bool) :
    Legal s0 (hostStore s p bs poison) := by
  unfold hostStore
  repeat' first
    | with_reducible assumption
    | with_reducible first | apply send_legal | apply logRsv_legal | apply applyWb_legal | apply post_legal | apply Legal.parts
    | simp only [Legal.lit]
    | with_reducible first | apply Legal.ite
    | split
    | with_reducible first | apply Legal.foldl
    | intro _
    | dsimp only

theorem hostWrites_legal {s0 s : State} (h : Legal s0 s) (hpa : BitVec 52) (bs : List Byte) (poison : Bool) :
    Legal s0 (hostWrites s hpa bs poison) := by
  unfold hostWrites
  repeat' first
    | with_reducible assumption
    | with_reducible first | apply hostStore_legal | apply wakeBy_legal | apply Legal.parts
    | simp only [Legal.lit]
    | with_reducible first | apply Legal.ite
    | split
    | with_reducible first | apply Legal.foldl
    | intro _
    | dsimp only

theorem execMemwr_legal {s0 s : State} (h : Legal s0 s) (w : BusWrite) :
    OutLegal s0 (execMemwr w s) := by
  unfold execMemwr
  repeat' first
    | with_reducible assumption
    | with_reducible first | apply hostWrites_legal | apply Legal.parts
    | simp only [Legal.lit]
    | with_reducible first | apply Legal.ite
    | split
    | refine Legal.of_next ‹_› ?_
    | with_reducible first | apply OutLegal.next | apply Legal.foldl
    | intro _
    | dsimp only

theorem execMemwrptl_legal {s0 s : State} (h : Legal s0 s) (w : BusWrite) :
    OutLegal s0 (execMemwrptl w s) := by
  unfold execMemwrptl
  repeat' first
    | with_reducible assumption
    | with_reducible first | apply hostWrites_legal | apply Legal.parts
    | simp only [Legal.lit]
    | with_reducible first | apply Legal.ite
    | split
    | refine Legal.of_next ‹_› ?_
    | with_reducible first | apply OutLegal.next | apply Legal.foldl
    | intro _
    | dsimp only

theorem uioUnsupported_legal {s0 s : State} (h : Legal s0 s) :
    Legal s0 (uioUnsupported s) := by
  unfold uioUnsupported
  repeat' first
    | with_reducible assumption
    | with_reducible first | apply bump_legal | apply nextUid_legal | apply send_legal | apply Legal.parts
    | simp only [Legal.lit]
    | with_reducible first | apply Legal.ite
    | split
    | with_reducible first | apply Legal.foldl
    | intro _
    | dsimp only

theorem uioPieces_legal {s0 s : State} (h : Legal s0 s) (rid : Nat) (req : Nat) (p : Nat) (data : List Byte) (poison : Bool) :
    Legal s0 (uioPieces s rid req p data poison) := by
  unfold uioPieces
  repeat' first
    | with_reducible assumption
    | with_reducible first | apply logRsv_legal | apply post_legal | apply Legal.parts
    | simp only [Legal.lit]
    | with_reducible first | apply Legal.ite
    | split
    | with_reducible first | apply Legal.foldl
    | intro _
    | dsimp only

theorem execUioWrite_legal {s0 s : State} (h : Legal s0 s) (w : BusWrite) :
    OutLegal s0 (execUioWrite w s) := by
  unfold execUioWrite
  repeat' first
    | with_reducible assumption
    | with_reducible first | apply wakeBy_legal | apply uioUnsupported_legal | apply nextUid_legal | apply send_legal | apply uioPieces_legal
    | with_reducible first | apply Legal.parts
    | simp only [Legal.lit]
    | with_reducible first | apply Legal.ite
    | split
    | refine Legal.of_next ‹_› ?_
    | with_reducible first | apply OutLegal.next | apply Legal.foldl
    | intro _
    | dsimp only

theorem serveRead_legal {s0 s : State} (h : Legal s0 s) (r : UioRead) :
    Legal s0 (serveRead s r) := by
  unfold serveRead
  repeat' first
    | with_reducible assumption
    | with_reducible first | apply readyLines_legal | apply readRaw_legal | apply send_legal | apply Legal.parts
    | simp only [SndLegal.lit, ThdLegal.lit]
    | simp only [Legal.lit]
    | with_reducible first | apply Legal.ite
    | split
    | refine Legal.of_snd ‹_› ?_ | refine Legal.of_some ‹_› ?_ | refine Legal.of_thd ‹_› ?_
    | with_reducible first | apply OptLegal.none | apply OptLegal.some | apply OptLegal.mapS | apply OptLegal.map | apply OptLegal.bind
    | with_reducible first | apply OptLegal.getD | apply SndLegal.get | apply SndLegal.foldl | apply ThdLegal.get | apply ThdLegal.snd
    | with_reducible first | apply Legal.foldl
    | intro _
    | dsimp only

theorem settleReads_legal {s0 s : State} (h : Legal s0 s) :
    Legal s0 (settleReads s) := by
  unfold settleReads
  repeat' first
    | with_reducible assumption
    | with_reducible first | apply serveRead_legal | apply Legal.parts
    | simp only [Legal.lit]
    | with_reducible first | apply Legal.ite
    | split
    | with_reducible first | apply Legal.foldl
    | intro _
    | dsimp only

theorem uioRead_legal {s0 s : State} (h : Legal s0 s) (rid : Nat) (hpa : BitVec 52) (len : Nat) :
    Legal s0 (uioRead rid hpa len s) := by
  unfold uioRead
  repeat' first
    | with_reducible assumption
    | with_reducible first | apply wakeBy_legal | apply uioUnsupported_legal | apply nextUid_legal | apply send_legal | apply useFree_legal
    | with_reducible first | apply serveRead_legal | apply Legal.parts
    | simp only [Legal.lit]
    | with_reducible first | apply Legal.ite
    | split
    | with_reducible first | apply Legal.foldl
    | intro _
    | dsimp only

theorem snpAnswer_legal {s0 s : State} (h : Legal s0 s) (h_ : Nat) (d : List Byte) (st : Nat) :
    Legal s0 (snpAnswer s h_ d st) := by
  unfold snpAnswer
  repeat' first
    | with_reducible assumption
    | with_reducible first | apply send_legal | apply Legal.parts
    | simp only [Legal.lit]
    | with_reducible first | apply Legal.ite
    | split
    | with_reducible first | apply Legal.foldl
    | intro _
    | dsimp only

theorem hostSnoop_legal {s0 s : State} (h : Legal s0 s) (hpa : BitVec 52) {f : State → Nat → Option HlcLine → State} (h_f : ∀ y0 y1 y2,
      Legal s0 y0 → Legal s0 (f y0 y1 y2)) :
    Legal s0 (hostSnoop s hpa f) := by
  unfold hostSnoop
  repeat' first
    | with_reducible assumption
    | with_reducible first | apply wakeBy_legal | apply h_f | apply Legal.parts
    | simp only [Legal.lit]
    | with_reducible first | apply Legal.ite
    | split
    | with_reducible first | apply Legal.foldl
    | intro _
    | dsimp only

theorem execSnpdata_legal {s0 s : State} (h : Legal s0 s) (hpa : BitVec 52) :
    OutLegal s0 (execSnpdata hpa s) := by
  unfold execSnpdata
  repeat' first
    | with_reducible assumption
    | with_reducible first | apply hostSnoop_legal | apply snpAnswer_legal | apply Legal.parts
    | simp only [Legal.lit]
    | with_reducible first | apply Legal.ite
    | split
    | refine Legal.of_next ‹_› ?_
    | with_reducible first | apply OutLegal.next | apply Legal.foldl
    | intro _
    | dsimp only

theorem execHostSnpcur_legal {s0 s : State} (h : Legal s0 s) (hpa : BitVec 52) :
    OutLegal s0 (execHostSnpcur hpa s) := by
  unfold execHostSnpcur
  repeat' first
    | with_reducible assumption
    | with_reducible first | apply hostSnoop_legal | apply snpAnswer_legal | apply Legal.parts
    | simp only [Legal.lit]
    | with_reducible first | apply Legal.ite
    | split
    | refine Legal.of_next ‹_› ?_
    | with_reducible first | apply OutLegal.next | apply Legal.foldl
    | intro _
    | dsimp only

theorem hostFog_legal {s0 s : State} (h : Legal s0 s) :
    Legal s0 (hostFog s) := by
  unfold hostFog
  repeat' first
    | with_reducible assumption
    | with_reducible first | apply fog_legal | apply Legal.parts
    | simp only [Legal.lit]
    | with_reducible first | apply Legal.ite
    | split
    | with_reducible first | apply Legal.foldl
    | intro _
    | dsimp only

theorem errGo_legal {s0 s : State} (h : Legal s0 s) (h_ : Nat) :
    Legal s0 (errGo s h_) := by
  unfold errGo
  repeat' first
    | with_reducible assumption
    | with_reducible first | apply send_legal | apply Legal.parts
    | simp only [Legal.lit]
    | with_reducible first | apply Legal.ite
    | split
    | with_reducible first | apply Legal.foldl
    | intro _
    | dsimp only

theorem errBack_legal {s0 s : State} (h : Legal s0 s) :
    Legal s0 (errBack s) := by
  unfold errBack
  repeat' first
    | with_reducible assumption
    | with_reducible first | apply flushErrs_legal | apply errVisible_legal | apply Legal.parts
    | simp only [Legal.lit]
    | with_reducible first | apply Legal.ite
    | split
    | with_reducible first | apply Legal.foldl
    | intro _
    | dsimp only

theorem give_legal {s0 s : State} (h : Legal s0 s) (k : Nat) (g : CoreGot) :
    Legal s0 (give s k g) := by
  unfold give
  repeat' first
    | with_reducible assumption
    | with_reducible first | apply Legal.parts
    | simp only [Legal.lit]
    | with_reducible first | apply Legal.ite
    | split
    | with_reducible first | apply Legal.foldl
    | intro _
    | dsimp only

theorem takeFill_legal {s0 s : State} (h : Legal s0 s) (x : Nat × LineSt × List Byte × Nat) :
    Legal s0 (takeFill s x) := by
  unfold takeFill
  repeat' first
    | with_reducible assumption
    | with_reducible first | apply hlcPut_legal | apply watchTake_legal | apply Legal.parts
    | simp only [Legal.lit]
    | with_reducible first | apply Legal.ite
    | split
    | refine Legal.of_some ‹_› ?_
    | with_reducible first | apply OptLegal.none | apply OptLegal.some | apply OptLegal.mapS | apply OptLegal.map | apply OptLegal.bind
    | with_reducible first | apply OptLegal.getD | apply Legal.foldl
    | intro _
    | dsimp only

theorem settleFills_legal {s0 s : State} (h : Legal s0 s) :
    Legal s0 (settleFills s) := by
  unfold settleFills
  repeat' first
    | with_reducible assumption
    | with_reducible first | apply takeFill_legal | apply Legal.parts
    | simp only [Legal.lit]
    | with_reducible first | apply Legal.ite
    | split
    | with_reducible first | apply Legal.foldl
    | intro _
    | dsimp only

theorem execSnpinv_legal {s0 s : State} (h : Legal s0 s) (hpa : BitVec 52) :
    OutLegal s0 (execSnpinv hpa s) := by
  unfold execSnpinv
  repeat' first
    | with_reducible assumption
    | with_reducible first | apply hostSnoop_legal | apply snpAnswer_legal | apply loseRsv_legal | apply settleFills_legal | apply wakeWatch_legal
    | with_reducible first | apply Legal.parts
    | simp only [Legal.lit]
    | with_reducible first | apply Legal.ite
    | split
    | refine Legal.of_next ‹_› ?_
    | with_reducible first | apply OutLegal.next | apply Legal.foldl
    | intro _
    | dsimp only

theorem poisonedFill_legal {s0 s : State} (h : Legal s0 s) (h_ : Nat) (who : Nat) :
    Legal s0 (poisonedFill s h_ who) := by
  unfold poisonedFill
  repeat' first
    | with_reducible assumption
    | with_reducible first | apply watchFails_legal | apply give_legal | apply Legal.parts
    | simp only [Legal.lit]
    | with_reducible first | apply Legal.ite
    | split
    | with_reducible first | apply Legal.foldl
    | intro _
    | dsimp only

theorem settleInvs_legal {s0 s : State} (h : Legal s0 s) :
    Legal s0 (settleInvs s) := by
  unfold settleInvs
  repeat' first
    | with_reducible assumption
    | with_reducible first | apply send_legal | apply Legal.parts
    | simp only [Legal.lit]
    | with_reducible first | apply Legal.ite
    | split
    | with_reducible first | apply Legal.foldl
    | intro _
    | dsimp only

theorem execGo_legal {s0 s : State} (h : Legal s0 s) (hpa : BitVec 52) :
    OutLegal s0 (execGo hpa s) := by
  unfold execGo
  repeat' first
    | with_reducible assumption
    | with_reducible first | apply pendingReset_legal | apply settleInvs_legal | apply settleFills_legal | apply errGo_legal | apply hostFog_legal
    | with_reducible first | apply Legal.parts
    | simp only [Legal.lit]
    | with_reducible first | apply Legal.ite
    | split
    | refine Legal.of_next ‹_› ?_
    | with_reducible first | apply OutLegal.next | apply Legal.foldl
    | intro _
    | dsimp only

theorem hostGives_legal {s0 s : State} (h : Legal s0 s) (o : HostOut) (d : List Byte) (poison : Bool) :
    Legal s0 (hostGives s o d poison) := by
  unfold hostGives
  repeat' first
    | with_reducible assumption
    | with_reducible first | apply errBack_legal | apply poisonedFill_legal | apply takeFill_legal | apply Legal.parts
    | simp only [Legal.lit]
    | with_reducible first | apply Legal.ite
    | split
    | with_reducible first | apply Legal.foldl
    | intro _
    | dsimp only

theorem takeHostData_legal {s0 s : State} (h : Legal s0 s) (hpa : BitVec 52) (data : List Byte) (poison : Bool) :
    Legal s0 (takeHostData hpa data poison s) := by
  unfold takeHostData
  repeat' first
    | with_reducible assumption
    | with_reducible first | apply hostFog_legal | apply settleInvs_legal | apply settleFills_legal | apply hostGives_legal | apply Legal.parts
    | simp only [Legal.lit]
    | with_reducible first | apply Legal.ite
    | split
    | with_reducible first | apply Legal.foldl
    | intro _
    | dsimp only

theorem execAtsTranslationCompletion_legal {s0 s : State} (h : Legal s0 s) (answer : AtsAnswer) :
    OutLegal s0 (execAtsTranslationCompletion answer s) := by
  unfold execAtsTranslationCompletion
  repeat' first
    | with_reducible assumption
    | with_reducible first | apply flushErrs_legal | apply Legal.parts
    | simp only [Legal.lit]
    | with_reducible first | apply Legal.ite
    | split
    | refine Legal.of_next ‹_› ?_
    | with_reducible first | apply OutLegal.next | apply Legal.foldl
    | intro _
    | dsimp only

theorem execAtsInvalidateRequest_legal {s0 s : State} (h : Legal s0 s) (_ctx : Nat) (page : Nat) :
    OutLegal s0 (execAtsInvalidateRequest _ctx page s) := by
  unfold execAtsInvalidateRequest
  repeat' first
    | with_reducible assumption
    | with_reducible first | apply settleInvs_legal | apply Legal.parts
    | simp only [Legal.lit]
    | with_reducible first | apply Legal.ite
    | split
    | refine Legal.of_next ‹_› ?_
    | with_reducible first | apply OutLegal.next | apply Legal.foldl
    | intro _
    | dsimp only

theorem execHdmCommit_legal {s0 s : State} (h : Legal s0 s) (set : HdmSet) :
    OutLegal s0 (execHdmCommit set s) := by
  unfold execHdmCommit
  repeat' first
    | with_reducible assumption
    | with_reducible first | apply Legal.parts
    | simp only [Legal.lit]
    | with_reducible first | apply Legal.ite
    | split
    | refine Legal.of_next ‹_› ?_
    | with_reducible first | apply OutLegal.next
    | intro _
    | dsimp only

/-! CxlLink. -/

theorem noRecord_legal {s0 s : State} (h : Legal s0 s) (ring : Nat) :
    Legal s0 (noRecord s ring) := by
  unfold noRecord
  repeat' first
    | with_reducible assumption
    | with_reducible first | apply report_legal | apply Legal.parts
    | simp only [Legal.lit]
    | with_reducible first | apply Legal.ite
    | split
    | with_reducible first | apply Legal.foldl
    | intro _
    | dsimp only

theorem logLoss_legal {s0 s : State} (h : Legal s0 s) (cause : Nat) (abandoned : Nat) (dirty : Bool) :
    Legal s0 (logLoss s cause abandoned dirty) := by
  unfold logLoss
  repeat' first
    | with_reducible assumption
    | with_reducible first | apply bump_legal | apply logOnce_legal | apply Legal.parts
    | simp only [Legal.lit]
    | with_reducible first | apply Legal.ite
    | split
    | with_reducible first | apply Legal.foldl
    | intro _
    | dsimp only

theorem dropHost_legal {s0 s : State} (h : Legal s0 s) :
    Legal s0 (dropHost s) := by
  unfold dropHost
  repeat' first
    | with_reducible assumption
    | with_reducible first | apply Legal.parts
    | simp only [Legal.lit]
    | with_reducible first | apply Legal.ite
    | split
    | with_reducible first | apply Legal.foldl
    | intro _
    | dsimp only

theorem endHostWaits_legal {s0 s : State} (h : Legal s0 s) :
    Legal s0 (endHostWaits s) := by
  unfold endHostWaits
  repeat' first
    | with_reducible assumption
    | with_reducible first | apply advance_legal | apply setHome_legal | apply Legal.parts
    | simp only [Legal.lit]
    | with_reducible first | apply Legal.ite
    | split
    | with_reducible first | apply Legal.foldl
    | intro _
    | dsimp only

theorem dropHostReads_legal {s0 s : State} (h : Legal s0 s) :
    Legal s0 (dropHostReads s) := by
  unfold dropHostReads
  repeat' first
    | with_reducible assumption
    | with_reducible first | apply Legal.parts
    | simp only [Legal.lit]
    | with_reducible first | apply Legal.ite
    | split
    | with_reducible first | apply Legal.foldl
    | intro _
    | dsimp only

theorem lossStop_legal {s0 s : State} (h : Legal s0 s) (n : Nat) :
    Legal s0 (lossStop s n) := by
  unfold lossStop
  repeat' first
    | with_reducible assumption
    | with_reducible first | apply setUnit_legal | apply stopRing_legal | apply Legal.parts
    | simp only [Legal.lit]
    | with_reducible first | apply Legal.ite
    | split
    | with_reducible first | apply Legal.foldl
    | intro _
    | dsimp only

theorem settleLoss_legal {s0 s : State} (h : Legal s0 s) (out : List HostOut) :
    Legal s0 (settleLoss s out) := by
  unfold settleLoss
  repeat' first
    | with_reducible assumption
    | with_reducible first | apply endHostWaits_legal | apply dropHostReads_legal | apply dropHost_legal | apply noRecord_legal | apply setField_legal
    | with_reducible first | apply charge_legal | apply report_legal | apply lossStop_legal | apply Legal.parts
    | simp only [Legal.lit]
    | with_reducible first | apply Legal.ite
    | split
    | with_reducible first | apply Legal.foldl
    | intro _
    | dsimp only

theorem linkLoss_legal {s0 s : State} (h : Legal s0 s) (cause : Nat) :
    Legal s0 (linkLoss s cause) := by
  unfold linkLoss
  repeat' first
    | with_reducible assumption
    | with_reducible first | apply logLoss_legal | apply fog_legal | apply settleLoss_legal | apply pendingReset_legal | apply Legal.parts
    | simp only [Legal.lit]
    | with_reducible first | apply Legal.ite
    | split
    | with_reducible first | apply Legal.foldl
    | intro _
    | dsimp only

theorem hostPartReset_legal {s0 s : State} (h : Legal s0 s) :
    Legal s0 (hostPartReset s) := by
  unfold hostPartReset
  repeat' first
    | with_reducible assumption
    | with_reducible first | apply setReg_legal | apply Legal.parts
    | simp only [Legal.lit]
    | with_reducible first | apply Legal.ite
    | split
    | with_reducible first | apply Legal.foldl
    | intro _
    | dsimp only

theorem execLinkUp_legal {s0 s : State} (h : Legal s0 s) (width : Nat) (rate : Nat) (cxl : Bool) (cacheEn : Bool) (memEn : Bool) (ats :
      Bool) (bars : List (BitVec 64)) :
    OutLegal s0 (execLinkUp width rate cxl cacheEn memEn ats s bars) := by
  unfold execLinkUp
  repeat' first
    | with_reducible assumption
    | with_reducible first | apply wakeBy_legal | apply flushErrs_legal | apply sendWaiting_legal | apply Legal.parts
    | simp only [Legal.lit]
    | with_reducible first | apply Legal.ite
    | split
    | refine Legal.of_next ‹_› ?_
    | with_reducible first | apply OutLegal.next | apply Legal.foldl
    | intro _
    | dsimp only

theorem execLinkRecovery_legal {s0 s : State} (h : Legal s0 s) :
    OutLegal s0 (execLinkRecovery s) := by
  unfold execLinkRecovery
  repeat' first
    | with_reducible assumption
    | with_reducible first | apply bump_legal | apply Legal.parts
    | simp only [Legal.lit]
    | with_reducible first | apply Legal.ite
    | split
    | refine Legal.of_next ‹_› ?_
    | with_reducible first | apply OutLegal.next | apply Legal.foldl
    | intro _
    | dsimp only

theorem execLinkL0Return_legal {s0 s : State} (h : Legal s0 s) :
    OutLegal s0 (execLinkL0Return s) := by
  unfold execLinkL0Return
  repeat' first
    | with_reducible assumption
    | with_reducible first | apply flushErrs_legal | apply sendWaiting_legal | apply Legal.parts
    | simp only [Legal.lit]
    | with_reducible first | apply Legal.ite
    | split
    | refine Legal.of_next ‹_› ?_
    | with_reducible first | apply OutLegal.next | apply Legal.foldl
    | intro _
    | dsimp only

theorem execLinkHoldExpiry_legal {s0 s : State} (h : Legal s0 s) :
    OutLegal s0 (execLinkHoldExpiry s) := by
  unfold execLinkHoldExpiry
  repeat' first
    | with_reducible assumption
    | with_reducible first | apply linkLoss_legal | apply Legal.parts
    | simp only [Legal.lit]
    | with_reducible first | apply Legal.ite
    | split
    | refine Legal.of_next ‹_› ?_
    | with_reducible first | apply OutLegal.next | apply Legal.foldl
    | intro _
    | dsimp only

theorem execDlDown_legal {s0 s : State} (h : Legal s0 s) :
    OutLegal s0 (execDlDown s) := by
  unfold execDlDown
  repeat' first
    | with_reducible assumption
    | with_reducible first | apply linkLoss_legal | apply Legal.parts
    | simp only [Legal.lit]
    | with_reducible first | apply Legal.ite
    | split
    | refine Legal.of_next ‹_› ?_
    | with_reducible first | apply OutLegal.next | apply Legal.foldl
    | intro _
    | dsimp only

theorem execHotReset_legal {s0 s : State} (h : Legal s0 s) :
    OutLegal s0 (execHotReset s) := by
  unfold execHotReset
  repeat' first
    | with_reducible assumption
    | with_reducible first | apply raiseHost_legal | apply hostPartReset_legal | apply linkLoss_legal | apply Legal.parts
    | simp only [Legal.lit]
    | with_reducible first | apply Legal.ite
    | split
    | refine Legal.of_next ‹_› ?_
    | with_reducible first | apply OutLegal.next | apply Legal.foldl
    | intro _
    | dsimp only

theorem execFlr_legal {s0 s : State} (h : Legal s0 s) :
    OutLegal s0 (execFlr s) := by
  unfold execFlr
  repeat' first
    | with_reducible assumption
    | with_reducible first | apply raiseHost_legal | apply setReg_legal | apply Legal.parts
    | simp only [Legal.lit]
    | with_reducible first | apply Legal.ite
    | split
    | refine Legal.of_next ‹_› ?_
    | with_reducible first | apply OutLegal.next | apply Legal.foldl
    | intro _
    | dsimp only

theorem execIdeIntegrityFailure_legal {s0 s : State} (h : Legal s0 s) :
    OutLegal s0 (execIdeIntegrityFailure s) := by
  unfold execIdeIntegrityFailure
  repeat' first
    | with_reducible assumption
    | with_reducible first | apply linkLoss_legal | apply bump_legal | apply Legal.parts
    | simp only [Legal.lit]
    | with_reducible first | apply Legal.ite
    | split
    | refine Legal.of_next ‹_› ?_
    | with_reducible first | apply OutLegal.next | apply Legal.foldl
    | intro _
    | dsimp only

theorem execViralReceived_legal {s0 s : State} (h : Legal s0 s) :
    OutLegal s0 (execViralReceived s) := by
  unfold execViralReceived
  repeat' first
    | with_reducible assumption
    | with_reducible first | apply linkLoss_legal | apply Legal.parts
    | simp only [Legal.lit]
    | with_reducible first | apply Legal.ite
    | split
    | refine Legal.of_next ‹_› ?_
    | with_reducible first | apply OutLegal.next | apply Legal.foldl
    | intro _
    | dsimp only

theorem execPinResetConfirm_legal {s0 s : State} (h : Legal s0 s) (pin : RstPin) :
    OutLegal s0 (execPinResetConfirm pin s) := by
  unfold execPinResetConfirm
  repeat' first
    | with_reducible assumption
    | with_reducible first | apply raiseSrc_legal | apply raiseHost_legal | apply hostPartReset_legal | apply linkLoss_legal | apply Legal.parts
    | simp only [Legal.lit]
    | with_reducible first | apply Legal.ite
    | split
    | refine Legal.of_next ‹_› ?_
    | with_reducible first | apply OutLegal.next | apply Legal.foldl
    | intro _
    | dsimp only

theorem execPmeTurnOff_legal {s0 s : State} (h : Legal s0 s) :
    OutLegal s0 (execPmeTurnOff s) := by
  unfold execPmeTurnOff
  repeat' first
    | with_reducible assumption
    | with_reducible first | apply wakeWatch_legal | apply evictAll_legal | apply Legal.parts
    | simp only [Legal.lit]
    | with_reducible first | apply Legal.ite
    | split
    | refine Legal.of_next ‹_› ?_
    | with_reducible first | apply OutLegal.next | apply Legal.foldl
    | intro _
    | dsimp only

theorem execDoeDiscovery_legal {s0 s : State} (h : Legal s0 s) (mailbox : Nat) (index : Nat) :
    OutLegal s0 (execDoeDiscovery mailbox index s) := by
  unfold execDoeDiscovery
  repeat' first
    | with_reducible assumption
    | with_reducible first | apply send_legal | apply Legal.parts
    | simp only [Legal.lit]
    | with_reducible first | apply Legal.ite
    | split
    | refine Legal.of_next ‹_› ?_
    | with_reducible first | apply OutLegal.next | apply Legal.foldl
    | intro _
    | dsimp only

theorem execCxlTableAccess_legal {s0 s : State} (h : Legal s0 s) (entry : Nat) :
    OutLegal s0 (execCxlTableAccess entry s) := by
  unfold execCxlTableAccess
  repeat' first
    | with_reducible assumption
    | with_reducible first | apply send_legal | apply Legal.parts
    | simp only [Legal.lit]
    | with_reducible first | apply Legal.ite
    | split
    | refine Legal.of_next ‹_› ?_
    | with_reducible first | apply OutLegal.next | apply Legal.foldl
    | intro _
    | dsimp only

theorem execIdeKm_legal {s0 s : State} (h : Legal s0 s) (msg : IdeMsg) :
    OutLegal s0 (execIdeKm msg s) := by
  unfold execIdeKm
  repeat' first
    | with_reducible assumption
    | with_reducible first | apply send_legal | apply Legal.parts
    | simp only [Legal.lit]
    | with_reducible first | apply Legal.ite
    | split
    | refine Legal.of_next ‹_› ?_
    | with_reducible first | apply OutLegal.next | apply Legal.foldl
    | intro _
    | dsimp only

/-! LoadChecks. -/

theorem imageGet_legal {s0 s : State} (h : Legal s0 s) (m : Model) (off : Nat) (n : Nat) :
    AccLegal s0 (imageGet s m off n) := by
  unfold imageGet
  repeat' first
    | with_reducible assumption
    | with_reducible first | apply imageRead_legal | apply Legal.parts
    | simp only [Legal.lit]
    | with_reducible first | apply Legal.ite | apply AccLegal.ite
    | split
    | refine Legal.of_bad ‹_› ?_ | refine Legal.of_ok ‹_› ?_ | refine Legal.of_wait ‹_› ?_
    | with_reducible first | apply AccLegal.ok | apply AccLegal.wait | apply AccLegal.bad | apply AccLegal.of_bind | apply AccLegal.foldl
    | intro _
    | dsimp only

theorem AccLegal.caught {α : Type} {s0 : State} {r : Acc α} {f : Nat → α} (h : AccLegal s0 r) : AccLegal s0 (r.caught f) := by
  cases h with
  | ok h => exact .ok h
  | wait h => exact .wait h
  | bad h => exact .ok h

theorem lookProg_legal {s0 s : State} (h : Legal s0 s) (m : Model) (off : Nat) (nprog : Nat) (scratch : Nat) (half : Bool) (i : Nat) :
    AccLegal s0 (lookProg m off nprog scratch half s i) := by
  unfold lookProg
  repeat' first
    | with_reducible assumption
    | with_reducible first | apply imageGet_legal | apply loadParts_legal | apply Legal.parts
    | simp only [Legal.lit]
    | with_reducible first | apply Legal.ite | apply AccLegal.ite
    | split
    | refine Legal.of_bad ‹_› ?_ | refine Legal.of_ok ‹_› ?_ | refine Legal.of_wait ‹_› ?_
    | with_reducible first | apply AccLegal.ok | apply AccLegal.wait | apply AccLegal.bad | apply AccLegal.of_bind | apply AccLegal.foldl
    | with_reducible first | apply AccLegal.caught
    | intro _
    | dsimp only

theorem lookProgs_legal {s0 : State} : ∀ (a : Nat) (m : Model) (off : Nat) (nprog : Nat) (scratch : Nat) (half : Bool) {x6 : State} (_ :
      Legal s0 x6) (x7 : Nat),
    AccLegal s0 (lookProgs m off nprog scratch half a x6 x7) := by
  intro a
  induction a with
  | zero =>
    intro m off nprog scratch half x6 h_x6 x7
    unfold lookProgs
    repeat' first
      | with_reducible assumption
      | with_reducible first | apply lookProg_legal | apply Legal.parts
      | simp only [Legal.lit]
      | with_reducible first | apply Legal.ite | apply AccLegal.ite
      | split
      | refine Legal.of_bad ‹_› ?_ | refine Legal.of_ok ‹_› ?_ | refine Legal.of_wait ‹_› ?_
      | with_reducible first | apply AccLegal.ok | apply AccLegal.wait | apply AccLegal.bad | apply AccLegal.of_bind | apply AccLegal.foldl
      | intro _
      | dsimp only
  | succ _ ih =>
    intro m off nprog scratch half x6 h_x6 x7
    unfold lookProgs
    repeat' first
      | with_reducible assumption
      | with_reducible first | apply ih | apply lookProg_legal | apply Legal.parts
      | simp only [Legal.lit]
      | with_reducible first | apply Legal.ite | apply AccLegal.ite
      | split
      | refine Legal.of_bad ‹_› ?_ | refine Legal.of_ok ‹_› ?_ | refine Legal.of_wait ‹_› ?_
      | with_reducible first | apply AccLegal.ok | apply AccLegal.wait | apply AccLegal.bad | apply AccLegal.of_bind | apply AccLegal.foldl
      | intro _
      | dsimp only

theorem lookStep_legal {s0 s : State} (h : Legal s0 s) (m : Model) (step : Nat) :
    AccLegal s0 (lookStep s m step) := by
  unfold lookStep
  repeat' first
    | with_reducible assumption
    | with_reducible first | apply imageGet_legal | apply lookProgs_legal | apply Legal.parts
    | simp only [Legal.lit]
    | with_reducible first | apply Legal.ite | apply AccLegal.ite
    | split
    | refine Legal.of_bad ‹_› ?_ | refine Legal.of_ok ‹_› ?_ | refine Legal.of_wait ‹_› ?_
    | with_reducible first | apply AccLegal.ok | apply AccLegal.wait | apply AccLegal.bad | apply AccLegal.of_bind | apply AccLegal.foldl
    | with_reducible first | apply AccLegal.caught
    | intro _
    | dsimp only

theorem lookSteps_legal {s0 : State} : ∀ (a : Nat) (m : Model) {x2 : State} (_ : Legal s0 x2) (x3 : Nat),
    AccLegal s0 (lookSteps m a x2 x3) := by
  intro a
  induction a with
  | zero =>
    intro m x2 h_x2 x3
    unfold lookSteps
    repeat' first
      | with_reducible assumption
      | with_reducible first | apply lookStep_legal | apply Legal.parts
      | simp only [Legal.lit]
      | with_reducible first | apply Legal.ite | apply AccLegal.ite
      | split
      | refine Legal.of_bad ‹_› ?_ | refine Legal.of_ok ‹_› ?_ | refine Legal.of_wait ‹_› ?_
      | with_reducible first | apply AccLegal.ok | apply AccLegal.wait | apply AccLegal.bad | apply AccLegal.of_bind | apply AccLegal.foldl
      | intro _
      | dsimp only
  | succ _ ih =>
    intro m x2 h_x2 x3
    unfold lookSteps
    repeat' first
      | with_reducible assumption
      | with_reducible first | apply ih | apply lookStep_legal | apply Legal.parts
      | simp only [Legal.lit]
      | with_reducible first | apply Legal.ite | apply AccLegal.ite
      | split
      | refine Legal.of_bad ‹_› ?_ | refine Legal.of_ok ‹_› ?_ | refine Legal.of_wait ‹_› ?_
      | with_reducible first | apply AccLegal.ok | apply AccLegal.wait | apply AccLegal.bad | apply AccLegal.of_bind | apply AccLegal.foldl
      | intro _
      | dsimp only

theorem lookFixers_legal {s0 : State} : ∀ (a : Nat) (m : Model) {x2 : State} (_ : Legal s0 x2) (x3 : Nat),
    AccLegal s0 (lookFixers m a x2 x3) := by
  intro a
  induction a with
  | zero =>
    intro m x2 h_x2 x3
    unfold lookFixers
    repeat' first
      | with_reducible assumption
      | with_reducible first | apply fixImg_legal | apply Legal.parts
      | simp only [Legal.lit]
      | with_reducible first | apply Legal.ite | apply AccLegal.ite
      | split
      | refine Legal.of_bad ‹_› ?_ | refine Legal.of_ok ‹_› ?_ | refine Legal.of_wait ‹_› ?_
      | with_reducible first | apply AccLegal.ok | apply AccLegal.wait | apply AccLegal.bad | apply AccLegal.of_bind | apply AccLegal.foldl
      | with_reducible first | apply AccLegal.caught
      | intro _
      | dsimp only
  | succ _ ih =>
    intro m x2 h_x2 x3
    unfold lookFixers
    repeat' first
      | with_reducible assumption
      | with_reducible first | apply ih | apply fixImg_legal | apply Legal.parts
      | simp only [Legal.lit]
      | with_reducible first | apply Legal.ite | apply AccLegal.ite
      | split
      | refine Legal.of_bad ‹_› ?_ | refine Legal.of_ok ‹_› ?_ | refine Legal.of_wait ‹_› ?_
      | with_reducible first | apply AccLegal.ok | apply AccLegal.wait | apply AccLegal.bad | apply AccLegal.of_bind | apply AccLegal.foldl
      | with_reducible first | apply AccLegal.caught
      | intro _
      | dsimp only

theorem lookProf_legal {s0 s : State} (h : Legal s0 s) (m : Model) (off : Nat) (i : Nat) :
    AccLegal s0 (lookProf m off s i) := by
  unfold lookProf
  repeat' first
    | with_reducible assumption
    | with_reducible first | apply imageRead_legal | apply Legal.parts
    | simp only [Legal.lit]
    | with_reducible first | apply Legal.ite | apply AccLegal.ite
    | split
    | refine Legal.of_bad ‹_› ?_ | refine Legal.of_ok ‹_› ?_ | refine Legal.of_wait ‹_› ?_
    | with_reducible first | apply AccLegal.ok | apply AccLegal.wait | apply AccLegal.bad | apply AccLegal.of_bind | apply AccLegal.foldl
    | with_reducible first | apply AccLegal.caught
    | intro _
    | dsimp only

theorem lookProfs_legal {s0 : State} : ∀ (a : Nat) (m : Model) (off : Nat) {x3 : State} (_ : Legal s0 x3) (x4 : Nat),
    AccLegal s0 (lookProfs m off a x3 x4) := by
  intro a
  induction a with
  | zero =>
    intro m off x3 h_x3 x4
    unfold lookProfs
    repeat' first
      | with_reducible assumption
      | with_reducible first | apply lookProf_legal | apply Legal.parts
      | simp only [Legal.lit]
      | with_reducible first | apply Legal.ite | apply AccLegal.ite
      | split
      | refine Legal.of_bad ‹_› ?_ | refine Legal.of_ok ‹_› ?_ | refine Legal.of_wait ‹_› ?_
      | with_reducible first | apply AccLegal.ok | apply AccLegal.wait | apply AccLegal.bad | apply AccLegal.of_bind | apply AccLegal.foldl
      | intro _
      | dsimp only
  | succ _ ih =>
    intro m off x3 h_x3 x4
    unfold lookProfs
    repeat' first
      | with_reducible assumption
      | with_reducible first | apply ih | apply lookProf_legal | apply Legal.parts
      | simp only [Legal.lit]
      | with_reducible first | apply Legal.ite | apply AccLegal.ite
      | split
      | refine Legal.of_bad ‹_› ?_ | refine Legal.of_ok ‹_› ?_ | refine Legal.of_wait ‹_› ?_
      | with_reducible first | apply AccLegal.ok | apply AccLegal.wait | apply AccLegal.bad | apply AccLegal.of_bind | apply AccLegal.foldl
      | intro _
      | dsimp only

theorem lookImage_legal {s0 s : State} (h : Legal s0 s) (cva : Nat) (len : Nat) :
    AccLegal s0 (lookImage s cva len) := by
  unfold lookImage
  repeat' first
    | with_reducible assumption
    | with_reducible first | apply imageGet_legal | apply lookProfs_legal | apply lookSteps_legal | apply lookFixers_legal | apply Legal.parts
    | simp only [Legal.lit]
    | with_reducible first | apply Legal.ite | apply AccLegal.ite
    | split
    | refine Legal.of_bad ‹_› ?_ | refine Legal.of_ok ‹_› ?_ | refine Legal.of_wait ‹_› ?_
    | with_reducible first | apply AccLegal.ok | apply AccLegal.wait | apply AccLegal.bad | apply AccLegal.of_bind | apply AccLegal.foldl
    | with_reducible first | apply AccLegal.caught
    | intro _
    | dsimp only

theorem extentBad_legal {s0 s : State} (h : Legal s0 s) (ctx : Nat) (near : Bool) (x : MemExt) :
    AccLegal s0 (extentBad s ctx near x) := by
  unfold extentBad
  repeat' first
    | with_reducible assumption
    | with_reducible first | apply segsOf_legal | apply Legal.parts
    | simp only [Legal.lit]
    | with_reducible first | apply Legal.ite | apply AccLegal.ite
    | split
    | refine Legal.of_bad ‹_› ?_ | refine Legal.of_ok ‹_› ?_ | refine Legal.of_wait ‹_› ?_
    | with_reducible first | apply AccLegal.ok | apply AccLegal.wait | apply AccLegal.bad | apply AccLegal.of_bind | apply AccLegal.foldl
    | intro _
    | dsimp only

theorem extentsBad_legal {s0 : State} : ∀ (x4 : List (Nat × MemExt)) (ctx : Nat) (near : Bool) (sci : Nat) {a : State} (_ : Legal s0 a),
    AccLegal s0 (extentsBad ctx near sci a x4) := by
  intro x4
  induction x4 with
  | nil =>
    intro ctx near sci a h_a
    unfold extentsBad
    repeat' first
      | with_reducible assumption
      | with_reducible first | apply extentBad_legal | apply Legal.parts
      | simp only [Legal.lit]
      | with_reducible first | apply Legal.ite | apply AccLegal.ite
      | split
      | refine Legal.of_bad ‹_› ?_ | refine Legal.of_ok ‹_› ?_ | refine Legal.of_wait ‹_› ?_
      | with_reducible first | apply AccLegal.ok | apply AccLegal.wait | apply AccLegal.bad | apply AccLegal.of_bind | apply AccLegal.foldl
      | intro _
      | dsimp only
  | cons _ _ ih =>
    intro ctx near sci a h_a
    unfold extentsBad
    repeat' first
      | with_reducible assumption
      | with_reducible first | apply ih | apply extentBad_legal | apply Legal.parts
      | simp only [Legal.lit]
      | with_reducible first | apply Legal.ite | apply AccLegal.ite
      | split
      | refine Legal.of_bad ‹_› ?_ | refine Legal.of_ok ‹_› ?_ | refine Legal.of_wait ‹_› ?_
      | with_reducible first | apply AccLegal.ok | apply AccLegal.wait | apply AccLegal.bad | apply AccLegal.of_bind | apply AccLegal.foldl
      | intro _
      | dsimp only

theorem stepExtents_legal {s0 : State} : ∀ (a : Nat) (m : Model) (ent : BitVec 512) (ctx : Nat) (near : Bool) {x5 : State} (_ : Legal s0
      x5) (x6 : Nat),
    AccLegal s0 (stepExtents m ent ctx near a x5 x6) := by
  intro a
  induction a with
  | zero =>
    intro m ent ctx near x5 h_x5 x6
    unfold stepExtents
    repeat' first
      | with_reducible assumption
      | with_reducible first | apply progRec_legal | apply loadParts_legal | apply extentsBad_legal | apply Legal.parts
      | simp only [Legal.lit]
      | with_reducible first | apply Legal.ite | apply AccLegal.ite
      | split
      | refine Legal.of_bad ‹_› ?_ | refine Legal.of_ok ‹_› ?_ | refine Legal.of_wait ‹_› ?_
      | with_reducible first | apply AccLegal.ok | apply AccLegal.wait | apply AccLegal.bad | apply AccLegal.of_bind | apply AccLegal.foldl
      | intro _
      | dsimp only
  | succ _ ih =>
    intro m ent ctx near x5 h_x5 x6
    unfold stepExtents
    repeat' first
      | with_reducible assumption
      | with_reducible first | apply ih | apply progRec_legal | apply loadParts_legal | apply extentsBad_legal | apply Legal.parts
      | simp only [Legal.lit]
      | with_reducible first | apply Legal.ite | apply AccLegal.ite
      | split
      | refine Legal.of_bad ‹_› ?_ | refine Legal.of_ok ‹_› ?_ | refine Legal.of_wait ‹_› ?_
      | with_reducible first | apply AccLegal.ok | apply AccLegal.wait | apply AccLegal.bad | apply AccLegal.of_bind | apply AccLegal.foldl
      | intro _
      | dsimp only

/-! Descriptors. -/

theorem setRunning_legal {s0 s : State} (h : Legal s0 s) (n : Nat) (x : Running) :
    Legal s0 (setRunning s n x) := by
  unfold setRunning
  repeat' first
    | with_reducible assumption
    | with_reducible first | apply setUnit_legal | apply Legal.parts
    | simp only [Legal.lit]
    | with_reducible first | apply Legal.ite
    | split
    | with_reducible first | apply Legal.foldl
    | intro _
    | dsimp only

theorem runDesc_legal {s0 s : State} (h : Legal s0 s) (n : Nat) (is : DWord → Bool) (bad : DWord → Bool) {body : State → Ring → Running →
      Bool → State} (h_body : ∀ y0 y1 y2 y3, Legal s0 y0 → Legal s0 (body y0 y1 y2 y3)) :
    Legal s0 (runDesc s n is bad body) := by
  unfold runDesc
  repeat' first
    | with_reducible assumption
    | with_reducible first | apply setUnit_legal | apply report_legal | apply h_body | apply Legal.parts
    | simp only [Legal.lit]
    | with_reducible first | apply Legal.ite
    | split
    | with_reducible first | apply Legal.foldl
    | intro _
    | dsimp only

theorem endServ_legal {s0 s : State} (h : Legal s0 s) (n : Nat) :
    Legal s0 (endServ s n) := by
  unfold endServ
  repeat' first
    | with_reducible assumption
    | with_reducible first | apply endHost_legal | apply Legal.parts
    | simp only [Legal.lit]
    | with_reducible first | apply Legal.ite
    | split
    | with_reducible first | apply Legal.foldl
    | intro _
    | dsimp only

theorem descFault_legal {s0 s : State} (h : Legal s0 s) (n : Nat) (early : Bool) (code : Nat) (addr : Nat) (rep : Report) :
    Legal s0 (descFault s n early code addr rep) := by
  unfold descFault
  repeat' first
    | with_reducible assumption
    | with_reducible first | apply endServ_legal | apply report_legal | apply charge_legal | apply Legal.parts
    | simp only [Legal.lit]
    | with_reducible first | apply Legal.ite
    | split
    | with_reducible first | apply Legal.foldl
    | intro _
    | dsimp only

theorem descDone_legal {s0 s : State} (h : Legal s0 s) (n : Nat) (rep : Report) :
    Legal s0 (descDone s n rep) := by
  unfold descDone
  repeat' first
    | with_reducible assumption
    | with_reducible first | apply endServ_legal | apply report_legal | apply Legal.parts
    | simp only [Legal.lit]
    | with_reducible first | apply Legal.ite
    | split
    | with_reducible first | apply Legal.foldl
    | intro _
    | dsimp only

theorem execDescNop_legal {s0 s : State} (h : Legal s0 s) (ring : Nat) :
    OutLegal s0 (execDescNop ring s) := by
  unfold execDescNop
  repeat' first
    | with_reducible assumption
    | with_reducible first | apply runDesc_legal | apply report_legal | apply Legal.parts
    | simp only [Legal.lit]
    | with_reducible first | apply Legal.ite
    | split
    | refine Legal.of_next ‹_› ?_
    | with_reducible first | apply OutLegal.next | apply Legal.foldl
    | intro _
    | dsimp only

theorem execFence_legal {s0 s : State} (h : Legal s0 s) (ring : Nat) :
    OutLegal s0 (execFence ring s) := by
  unfold execFence
  repeat' first
    | with_reducible assumption
    | with_reducible first | apply runDesc_legal | apply flushTlb_legal | apply report_legal | apply Legal.parts
    | simp only [Legal.lit]
    | with_reducible first | apply Legal.ite
    | split
    | refine Legal.of_next ‹_› ?_
    | with_reducible first | apply OutLegal.next | apply Legal.foldl
    | intro _
    | dsimp only

theorem execSignalWrite_legal {s0 s : State} (h : Legal s0 s) (ring : Nat) :
    OutLegal s0 (execSignalWrite ring s) := by
  unfold execSignalWrite
  repeat' first
    | with_reducible assumption
    | with_reducible first | apply runDesc_legal | apply cvaWrite_legal | apply descFault_legal | apply descDone_legal | apply Legal.parts
    | simp only [Legal.lit]
    | with_reducible first | apply Legal.ite | apply AccLegal.ite
    | split
    | refine Legal.of_bad ‹_› ?_ | refine Legal.of_next ‹_› ?_ | refine Legal.of_ok ‹_› ?_ | refine Legal.of_wait ‹_› ?_
    | with_reducible first | apply AccLegal.ok | apply AccLegal.wait | apply AccLegal.bad | apply AccLegal.of_bind | apply AccLegal.foldl
    | with_reducible first | apply OutLegal.next | apply Legal.foldl
    | intro _
    | dsimp only

theorem signalAdd_legal {s0 s : State} (h : Legal s0 s) (ring : Nat) (r : Ring) (x : Running) (x4 : Bool) :
    Legal s0 (signalAdd ring s r x x4) := by
  unfold signalAdd
  repeat' first
    | with_reducible assumption
    | with_reducible first | apply xlate_legal | apply descFault_legal | apply hostRead_legal | apply hostWrite_legal | apply descDone_legal
    | with_reducible first | apply post_legal | apply setRunning_legal | apply Legal.parts
    | simp only [Legal.lit]
    | with_reducible first | apply Legal.ite | apply AccLegal.ite
    | split
    | refine Legal.of_bad ‹_› ?_ | refine Legal.of_ok ‹_› ?_ | refine Legal.of_wait ‹_› ?_
    | with_reducible first | apply AccLegal.ok | apply AccLegal.wait | apply AccLegal.bad | apply AccLegal.of_bind | apply AccLegal.foldl
    | with_reducible first | apply Legal.foldl
    | intro _
    | dsimp only

theorem execSignalAdd_legal {s0 s : State} (h : Legal s0 s) (ring : Nat) :
    OutLegal s0 (execSignalAdd ring s) := by
  unfold execSignalAdd
  repeat' first
    | with_reducible assumption
    | with_reducible first | apply runDesc_legal | apply signalAdd_legal | apply Legal.parts
    | simp only [Legal.lit]
    | with_reducible first | apply Legal.ite
    | split
    | refine Legal.of_next ‹_› ?_
    | with_reducible first | apply OutLegal.next | apply Legal.foldl
    | intro _
    | dsimp only

theorem execSignalRing_legal {s0 s : State} (h : Legal s0 s) (ring : Nat) :
    OutLegal s0 (execSignalRing ring s) := by
  unfold execSignalRing
  repeat' first
    | with_reducible assumption
    | with_reducible first | apply runDesc_legal | apply report_legal | apply ringBell_legal | apply Legal.parts
    | simp only [Legal.lit]
    | with_reducible first | apply Legal.ite
    | split
    | refine Legal.of_next ‹_› ?_
    | with_reducible first | apply OutLegal.next | apply Legal.foldl
    | intro _
    | dsimp only

theorem execSignalRemoteRing_legal {s0 s : State} (h : Legal s0 s) (ring : Nat) :
    OutLegal s0 (execSignalRemoteRing ring s) := by
  unfold execSignalRemoteRing
  repeat' first
    | with_reducible assumption
    | with_reducible first | apply runDesc_legal | apply issueReq_legal | apply setRunning_legal | apply descFault_legal | apply Legal.parts
    | simp only [Legal.lit]
    | with_reducible first | apply Legal.ite
    | split
    | refine Legal.of_next ‹_› ?_ | refine Legal.of_some ‹_› ?_
    | with_reducible first | apply OutLegal.next | apply OptLegal.none | apply OptLegal.some | apply OptLegal.mapS | apply OptLegal.map
    | with_reducible first | apply OptLegal.bind | apply OptLegal.getD | apply Legal.foldl
    | intro _
    | dsimp only

theorem copyPats_legal {s0 s : State} (h : Legal s0 s) (n : Nat) (ctx : Nat) (x : Running) :
    AccLegal s0 (copyPats s n ctx x) := by
  unfold copyPats
  repeat' first
    | with_reducible assumption
    | with_reducible first | apply cvaRead_legal | apply Legal.parts
    | simp only [Legal.lit]
    | with_reducible first | apply Legal.ite | apply AccLegal.ite
    | split
    | refine Legal.of_bad ‹_› ?_ | refine Legal.of_ok ‹_› ?_ | refine Legal.of_wait ‹_› ?_
    | with_reducible first | apply AccLegal.ok | apply AccLegal.wait | apply AccLegal.bad | apply AccLegal.of_bind | apply AccLegal.foldl
    | intro _
    | dsimp only

theorem copySides_legal {s0 s : State} (h : Legal s0 s) (n : Nat) (ctx : Nat) (x : Running) :
    AccLegal s0 (copySides s n ctx x) := by
  unfold copySides
  repeat' first
    | with_reducible assumption
    | with_reducible first | apply copyPats_legal | apply Legal.parts
    | simp only [Legal.lit]
    | with_reducible first | apply Legal.ite | apply AccLegal.ite
    | split
    | refine Legal.of_bad ‹_› ?_ | refine Legal.of_ok ‹_› ?_ | refine Legal.of_wait ‹_› ?_
    | with_reducible first | apply AccLegal.ok | apply AccLegal.wait | apply AccLegal.bad | apply AccLegal.of_bind | apply AccLegal.foldl
    | intro _
    | dsimp only

theorem copyAccept_legal {s0 s : State} (h : Legal s0 s) (ctx : Nat) (a : CPat) (b : CPat) :
    AccLegal s0 (copyAccept s ctx a b) := by
  unfold copyAccept
  repeat' first
    | with_reducible assumption
    | with_reducible first | apply rangesSegs_legal | apply Legal.parts
    | simp only [Legal.lit]
    | with_reducible first | apply Legal.ite | apply AccLegal.ite
    | split
    | refine Legal.of_bad ‹_› ?_ | refine Legal.of_ok ‹_› ?_ | refine Legal.of_wait ‹_› ?_
    | with_reducible first | apply AccLegal.ok | apply AccLegal.wait | apply AccLegal.bad | apply AccLegal.of_bind | apply AccLegal.foldl
    | intro _
    | dsimp only

theorem copyPiece_legal {s0 s : State} (h : Legal s0 s) (n : Nat) (ctx : Nat) (pos : Nat) (a : CPat) (b : CPat) :
    AccLegal s0 (copyPiece s n ctx pos a b) := by
  unfold copyPiece
  repeat' first
    | with_reducible assumption
    | with_reducible first | apply rangesSegs_legal | apply segsReadC_legal | apply segsWriteC_legal | apply Legal.parts
    | simp only [Legal.lit]
    | with_reducible first | apply Legal.ite | apply AccLegal.ite
    | split
    | refine Legal.of_bad ‹_› ?_ | refine Legal.of_ok ‹_› ?_ | refine Legal.of_wait ‹_› ?_
    | with_reducible first | apply AccLegal.ok | apply AccLegal.wait | apply AccLegal.bad | apply AccLegal.of_bind | apply AccLegal.foldl
    | intro _
    | dsimp only

theorem copyDesc_legal {s0 s : State} (h : Legal s0 s) (ring : Nat) (r : Ring) (x : Running) (x4 : Bool) :
    Legal s0 (copyDesc ring s r x x4) := by
  unfold copyDesc
  repeat' first
    | with_reducible assumption
    | with_reducible first | apply copySides_legal | apply descFault_legal | apply descDone_legal | apply copyAccept_legal | apply setRunning_legal
    | with_reducible first | apply copyPiece_legal | apply Legal.parts
    | simp only [Legal.lit]
    | with_reducible first | apply Legal.ite | apply AccLegal.ite
    | split
    | refine Legal.of_bad ‹_› ?_ | refine Legal.of_ok ‹_› ?_ | refine Legal.of_wait ‹_› ?_
    | with_reducible first | apply AccLegal.ok | apply AccLegal.wait | apply AccLegal.bad | apply AccLegal.of_bind | apply AccLegal.foldl
    | with_reducible first | apply Legal.foldl
    | intro _
    | dsimp only

theorem unitCopy_legal {s0 s : State} (h : Legal s0 s) (ring : Nat) :
    Legal s0 (unitCopy ring s) := by
  unfold unitCopy
  repeat' first
    | with_reducible assumption
    | with_reducible first | apply runDesc_legal | apply copyDesc_legal | apply Legal.parts
    | simp only [Legal.lit]
    | with_reducible first | apply Legal.ite
    | split
    | with_reducible first | apply Legal.foldl
    | intro _
    | dsimp only

theorem blockNow_legal {s0 s : State} (h : Legal s0 s) (b : Nat) :
    AccLegal s0 (blockNow s b) := by
  unfold blockNow
  repeat' first
    | with_reducible assumption
    | with_reducible first | apply devRead_legal | apply Legal.parts
    | simp only [Legal.lit]
    | with_reducible first | apply Legal.ite | apply AccLegal.ite
    | split
    | refine Legal.of_bad ‹_› ?_ | refine Legal.of_ok ‹_› ?_ | refine Legal.of_wait ‹_› ?_
    | with_reducible first | apply AccLegal.ok | apply AccLegal.wait | apply AccLegal.bad | apply AccLegal.of_bind | apply AccLegal.foldl
    | intro _
    | dsimp only

theorem sealRun_legal {s0 : State} : ∀ (a : List Nat) {x1 : State} (_ : Legal s0 x1) (x2 : Nat),
    AccLegal s0 (sealRun a x1 x2) := by
  intro a
  induction a with
  | nil =>
    intro x1 h_x1 x2
    unfold sealRun
    repeat' first
      | with_reducible assumption
      | with_reducible first | apply blockNow_legal | apply putCode_legal | apply Legal.parts
      | simp only [Legal.lit]
      | with_reducible first | apply Legal.ite | apply AccLegal.ite
      | split
      | refine Legal.of_bad ‹_› ?_ | refine Legal.of_ok ‹_› ?_ | refine Legal.of_wait ‹_› ?_
      | with_reducible first | apply AccLegal.ok | apply AccLegal.wait | apply AccLegal.bad | apply AccLegal.of_bind | apply AccLegal.foldl
      | with_reducible first | apply Legal.foldl
      | intro _
      | dsimp only
  | cons _ _ ih =>
    intro x1 h_x1 x2
    unfold sealRun
    repeat' first
      | with_reducible assumption
      | with_reducible first | apply ih | apply blockNow_legal | apply putCode_legal | apply Legal.parts
      | simp only [Legal.lit]
      | with_reducible first | apply Legal.ite | apply AccLegal.ite
      | split
      | refine Legal.of_bad ‹_› ?_ | refine Legal.of_ok ‹_› ?_ | refine Legal.of_wait ‹_› ?_
      | with_reducible first | apply AccLegal.ok | apply AccLegal.wait | apply AccLegal.bad | apply AccLegal.of_bind | apply AccLegal.foldl
      | with_reducible first | apply Legal.foldl
      | intro _
      | dsimp only

theorem verifyRun_legal {s0 : State} : ∀ (a : List Nat) {x1 : State} (_ : Legal s0 x1) (x2 : Nat) (x3 : Nat × Nat),
    AccLegal s0 (verifyRun a x1 x2 x3) := by
  intro a
  induction a with
  | nil =>
    intro x1 h_x1 x2 x3
    unfold verifyRun
    repeat' first
      | with_reducible assumption
      | with_reducible first | apply blockNow_legal | apply Legal.parts
      | simp only [Legal.lit]
      | with_reducible first | apply Legal.ite | apply AccLegal.ite
      | split
      | refine Legal.of_bad ‹_› ?_ | refine Legal.of_ok ‹_› ?_ | refine Legal.of_wait ‹_› ?_
      | with_reducible first | apply AccLegal.ok | apply AccLegal.wait | apply AccLegal.bad | apply AccLegal.of_bind | apply AccLegal.foldl
      | intro _
      | dsimp only
  | cons _ _ ih =>
    intro x1 h_x1 x2 x3
    unfold verifyRun
    repeat' first
      | with_reducible assumption
      | with_reducible first | apply ih | apply blockNow_legal | apply Legal.parts
      | simp only [Legal.lit]
      | with_reducible first | apply Legal.ite | apply AccLegal.ite
      | split
      | refine Legal.of_bad ‹_› ?_ | refine Legal.of_ok ‹_› ?_ | refine Legal.of_wait ‹_› ?_
      | with_reducible first | apply AccLegal.ok | apply AccLegal.wait | apply AccLegal.bad | apply AccLegal.of_bind | apply AccLegal.foldl
      | intro _
      | dsimp only

theorem sealAccept_legal {s0 s : State} (h : Legal s0 s) (ctx : Nat) (d : DWord) :
    AccLegal s0 (sealAccept s ctx d) := by
  unfold sealAccept
  repeat' first
    | with_reducible assumption
    | with_reducible first | apply cvaCheck_legal | apply Legal.parts
    | simp only [Legal.lit]
    | with_reducible first | apply Legal.ite | apply AccLegal.ite
    | split
    | refine Legal.of_bad ‹_› ?_ | refine Legal.of_ok ‹_› ?_ | refine Legal.of_wait ‹_› ?_
    | with_reducible first | apply AccLegal.ok | apply AccLegal.wait | apply AccLegal.bad | apply AccLegal.of_bind | apply AccLegal.foldl
    | intro _
    | dsimp only

theorem sealBlocksOf_legal {s0 s : State} (h : Legal s0 s) (ctx : Nat) (d : DWord) (pos : Nat) :
    AccLegal s0 (sealBlocksOf s ctx d pos) := by
  unfold sealBlocksOf
  repeat' first
    | with_reducible assumption
    | with_reducible first | apply segsOf_legal | apply readyLines_legal | apply Legal.parts
    | simp only [Legal.lit]
    | with_reducible first | apply Legal.ite | apply AccLegal.ite
    | split
    | refine Legal.of_bad ‹_› ?_ | refine Legal.of_ok ‹_› ?_ | refine Legal.of_some ‹_› ?_ | refine Legal.of_wait ‹_› ?_
    | with_reducible first | apply AccLegal.ok | apply AccLegal.wait | apply AccLegal.bad | apply AccLegal.of_bind | apply AccLegal.foldl
    | with_reducible first | apply OptLegal.none | apply OptLegal.some | apply OptLegal.mapS | apply OptLegal.map | apply OptLegal.bind
    | with_reducible first | apply OptLegal.getD
    | intro _
    | dsimp only

theorem sealDesc_legal {s0 s : State} (h : Legal s0 s) (ring : Nat) (r : Ring) (x : Running) (x4 : Bool) :
    Legal s0 (sealDesc ring s r x x4) := by
  unfold sealDesc
  repeat' first
    | with_reducible assumption
    | with_reducible first | apply sealAccept_legal | apply sealBlocksOf_legal | apply descFault_legal | apply sealRun_legal | apply setRunning_legal
    | with_reducible first | apply descDone_legal | apply Legal.parts
    | simp only [Legal.lit]
    | with_reducible first | apply Legal.ite | apply AccLegal.ite
    | split
    | refine Legal.of_bad ‹_› ?_ | refine Legal.of_ok ‹_› ?_ | refine Legal.of_wait ‹_› ?_
    | with_reducible first | apply AccLegal.ok | apply AccLegal.wait | apply AccLegal.bad | apply AccLegal.of_bind | apply AccLegal.foldl
    | with_reducible first | apply Legal.foldl
    | intro _
    | dsimp only

theorem unitSealRange_legal {s0 s : State} (h : Legal s0 s) (ring : Nat) :
    Legal s0 (unitSealRange ring s) := by
  unfold unitSealRange
  repeat' first
    | with_reducible assumption
    | with_reducible first | apply runDesc_legal | apply sealDesc_legal | apply Legal.parts
    | simp only [Legal.lit]
    | with_reducible first | apply Legal.ite
    | split
    | with_reducible first | apply Legal.foldl
    | intro _
    | dsimp only

theorem verifyDesc_legal {s0 s : State} (h : Legal s0 s) (ring : Nat) (r : Ring) (x : Running) (x4 : Bool) :
    Legal s0 (verifyDesc ring s r x x4) := by
  unfold verifyDesc
  repeat' first
    | with_reducible assumption
    | with_reducible first | apply sealAccept_legal | apply sealBlocksOf_legal | apply verifyRun_legal | apply descFault_legal
    | with_reducible first | apply setRunning_legal | apply descDone_legal | apply Legal.parts
    | simp only [Legal.lit]
    | with_reducible first | apply Legal.ite | apply AccLegal.ite
    | split
    | refine Legal.of_bad ‹_› ?_ | refine Legal.of_ok ‹_› ?_ | refine Legal.of_wait ‹_› ?_
    | with_reducible first | apply AccLegal.ok | apply AccLegal.wait | apply AccLegal.bad | apply AccLegal.of_bind | apply AccLegal.foldl
    | with_reducible first | apply Legal.foldl
    | intro _
    | dsimp only

theorem unitSealVerify_legal {s0 s : State} (h : Legal s0 s) (ring : Nat) :
    Legal s0 (unitSealVerify ring s) := by
  unfold unitSealVerify
  repeat' first
    | with_reducible assumption
    | with_reducible first | apply runDesc_legal | apply verifyDesc_legal | apply Legal.parts
    | simp only [Legal.lit]
    | with_reducible first | apply Legal.ite
    | split
    | with_reducible first | apply Legal.foldl
    | intro _
    | dsimp only

theorem execTableCall_legal {s0 s : State} (h : Legal s0 s) (ring : Nat) :
    OutLegal s0 (execTableCall ring s) := by
  unfold execTableCall
  repeat' first
    | with_reducible assumption
    | with_reducible first | apply runDesc_legal | apply nextUid_legal | apply setLoupe_legal | apply setRunning_legal | apply Legal.parts
    | simp only [Legal.lit]
    | with_reducible first | apply Legal.ite
    | split
    | refine Legal.of_next ‹_› ?_
    | with_reducible first | apply OutLegal.next | apply Legal.foldl
    | intro _
    | dsimp only

theorem tableBusy_legal {s0 s : State} (h : Legal s0 s) (ring : Nat) (tid : Nat) :
    AccLegal s0 (tableBusy s ring tid) := by
  unfold tableBusy
  repeat' first
    | with_reducible assumption
    | with_reducible first | apply cvaRead_legal | apply Legal.parts
    | simp only [Legal.lit]
    | with_reducible first | apply Legal.ite | apply AccLegal.ite
    | split
    | refine Legal.of_bad ‹_› ?_ | refine Legal.of_ok ‹_› ?_ | refine Legal.of_wait ‹_› ?_
    | with_reducible first | apply AccLegal.ok | apply AccLegal.wait | apply AccLegal.bad | apply AccLegal.of_bind | apply AccLegal.foldl
    | intro _
    | dsimp only

theorem registerTable_legal {s0 s : State} (h : Legal s0 s) (ring : Nat) (r : Ring) (x : Running) (x4 : Bool) :
    Legal s0 (registerTable ring s r x x4) := by
  unfold registerTable
  repeat' first
    | with_reducible assumption
    | with_reducible first | apply cvaRead_legal | apply descFault_legal | apply tableBusy_legal | apply descDone_legal | apply Legal.parts
    | simp only [Legal.lit]
    | with_reducible first | apply Legal.ite | apply AccLegal.ite
    | split
    | refine Legal.of_bad ‹_› ?_ | refine Legal.of_ok ‹_› ?_ | refine Legal.of_wait ‹_› ?_
    | with_reducible first | apply AccLegal.ok | apply AccLegal.wait | apply AccLegal.bad | apply AccLegal.of_bind | apply AccLegal.foldl
    | with_reducible first | apply Legal.foldl
    | intro _
    | dsimp only

theorem execTableRegister_legal {s0 s : State} (h : Legal s0 s) (ring : Nat) :
    OutLegal s0 (execTableRegister ring s) := by
  unfold execTableRegister
  repeat' first
    | with_reducible assumption
    | with_reducible first | apply runDesc_legal | apply registerTable_legal | apply Legal.parts
    | simp only [Legal.lit]
    | with_reducible first | apply Legal.ite
    | split
    | refine Legal.of_next ‹_› ?_
    | with_reducible first | apply OutLegal.next | apply Legal.foldl
    | intro _
    | dsimp only

theorem joinOrder_legal {s0 s : State} (h : Legal s0 s) (t : StepRec) :
    Legal s0 (joinOrder s t) := by
  unfold joinOrder
  repeat' first
    | with_reducible assumption
    | with_reducible first | apply nextUid_legal | apply Legal.parts
    | simp only [Legal.lit]
    | with_reducible first | apply Legal.ite
    | split
    | with_reducible first | apply Legal.foldl
    | intro _
    | dsimp only

theorem stepCheck_legal {s0 s : State} (h : Legal s0 s) (m : Model) (ctx : Nat) (e : BitVec 512) :
    AccLegal s0 (stepCheck s m ctx e) := by
  unfold stepCheck
  repeat' first
    | with_reducible assumption
    | with_reducible first | apply segsOf_legal | apply stepExtents_legal | apply Legal.parts
    | simp only [Legal.lit]
    | with_reducible first | apply Legal.ite | apply AccLegal.ite
    | split
    | refine Legal.of_bad ‹_› ?_ | refine Legal.of_ok ‹_› ?_ | refine Legal.of_wait ‹_› ?_
    | with_reducible first | apply AccLegal.ok | apply AccLegal.wait | apply AccLegal.bad | apply AccLegal.of_bind | apply AccLegal.foldl
    | intro _
    | dsimp only

theorem refuseStep_legal {s0 s : State} (h : Legal s0 s) (ring : Nat) (rep : Report) :
    Legal s0 (refuseStep s ring rep) := by
  unfold refuseStep
  repeat' first
    | with_reducible assumption
    | with_reducible first | apply settleCommits_legal | apply report_legal | apply endHost_legal | apply Legal.parts
    | simp only [Legal.lit]
    | with_reducible first | apply Legal.ite
    | split
    | with_reducible first | apply Legal.foldl
    | intro _
    | dsimp only

theorem stepDesc_legal {s0 s : State} (h : Legal s0 s) (ring : Nat) (r : Ring) (x : Running) (fresh : Bool) :
    Legal s0 (stepDesc ring s r x fresh) := by
  unfold stepDesc
  repeat' first
    | with_reducible assumption
    | with_reducible first | apply setRunning_legal | apply refuseStep_legal | apply stepEntry_legal | apply stepCheck_legal | apply endHost_legal
    | with_reducible first | apply joinOrder_legal | apply Legal.parts
    | simp only [Legal.lit]
    | with_reducible first | apply Legal.ite | apply AccLegal.ite
    | split
    | refine Legal.of_bad ‹_› ?_ | refine Legal.of_ok ‹_› ?_ | refine Legal.of_wait ‹_› ?_
    | with_reducible first | apply AccLegal.ok | apply AccLegal.wait | apply AccLegal.bad | apply AccLegal.of_bind | apply AccLegal.foldl
    | with_reducible first | apply Legal.foldl
    | intro _
    | dsimp only

theorem execStep_legal {s0 s : State} (h : Legal s0 s) (ring : Nat) :
    OutLegal s0 (execStep ring s) := by
  unfold execStep
  repeat' first
    | with_reducible assumption
    | with_reducible first | apply runDesc_legal | apply stepDesc_legal | apply Legal.parts
    | simp only [Legal.lit]
    | with_reducible first | apply Legal.ite
    | split
    | refine Legal.of_next ‹_› ?_
    | with_reducible first | apply OutLegal.next | apply Legal.foldl
    | intro _
    | dsimp only

theorem takeModel_legal {s0 s : State} (h : Legal s0 s) (ring : Nat) (m : Model) :
    Legal s0 (takeModel s ring m) := by
  unfold takeModel
  repeat' first
    | with_reducible assumption
    | with_reducible first | apply imageRead_legal | apply report_legal | apply endHost_legal | apply setMlog_legal | apply Legal.parts
    | simp only [Legal.lit]
    | with_reducible first | apply Legal.ite | apply AccLegal.ite
    | split
    | refine Legal.of_bad ‹_› ?_ | refine Legal.of_ok ‹_› ?_ | refine Legal.of_wait ‹_› ?_
    | with_reducible first | apply AccLegal.ok | apply AccLegal.wait | apply AccLegal.bad | apply AccLegal.of_bind | apply AccLegal.foldl
    | with_reducible first | apply Legal.foldl
    | intro _
    | dsimp only

theorem loadDesc_legal {s0 s : State} (h : Legal s0 s) (ring : Nat) (x : Ring) (x3 : Running) (x4 : Bool) :
    Legal s0 (loadDesc ring s x x3 x4) := by
  unfold loadDesc
  repeat' first
    | with_reducible assumption
    | with_reducible first | apply report_legal | apply setRunning_legal | apply setMlog_legal | apply segsOf_legal | apply lookImage_legal
    | with_reducible first | apply endHost_legal | apply takeModel_legal | apply Legal.parts
    | simp only [Legal.lit]
    | with_reducible first | apply Legal.ite | apply AccLegal.ite
    | split
    | refine Legal.of_bad ‹_› ?_ | refine Legal.of_ok ‹_› ?_ | refine Legal.of_wait ‹_› ?_
    | with_reducible first | apply AccLegal.ok | apply AccLegal.wait | apply AccLegal.bad | apply AccLegal.of_bind | apply AccLegal.foldl
    | with_reducible first | apply Legal.foldl
    | intro _
    | dsimp only

theorem execLoadModel_legal {s0 s : State} (h : Legal s0 s) (ring : Nat) :
    OutLegal s0 (execLoadModel ring s) := by
  unfold execLoadModel
  repeat' first
    | with_reducible assumption
    | with_reducible first | apply runDesc_legal | apply loadDesc_legal | apply Legal.parts
    | simp only [Legal.lit]
    | with_reducible first | apply Legal.ite
    | split
    | refine Legal.of_next ‹_› ?_
    | with_reducible first | apply OutLegal.next | apply Legal.foldl
    | intro _
    | dsimp only

theorem holdEnd_legal {s0 s : State} (h : Legal s0 s) (ring : Nat) (c : Nat) :
    Legal s0 (holdEnd s ring c) := by
  unfold holdEnd
  repeat' first
    | with_reducible assumption
    | with_reducible first | apply setCtx_legal | apply Legal.parts
    | simp only [Legal.lit]
    | with_reducible first | apply Legal.ite
    | split
    | with_reducible first | apply Legal.foldl
    | intro _
    | dsimp only

theorem endShut_legal {s0 s : State} (h : Legal s0 s) (ring : Nat) (c : Nat) :
    Legal s0 (endShut s ring c) := by
  unfold endShut
  repeat' first
    | with_reducible assumption
    | with_reducible first | apply freeSlot_legal | apply holdEnd_legal | apply report_legal | apply Legal.parts
    | simp only [Legal.lit]
    | with_reducible first | apply Legal.ite
    | split
    | with_reducible first | apply Legal.foldl
    | intro _
    | dsimp only

theorem execEndContext_legal {s0 s : State} (h : Legal s0 s) (ring : Nat) :
    OutLegal s0 (execEndContext ring s) := by
  unfold execEndContext
  repeat' first
    | with_reducible assumption
    | with_reducible first | apply runDesc_legal | apply holdEnd_legal | apply setRunning_legal | apply setCtx_legal | apply endShut_legal
    | with_reducible first | apply Legal.parts
    | simp only [Legal.lit]
    | with_reducible first | apply Legal.ite
    | split
    | refine Legal.of_next ‹_› ?_
    | with_reducible first | apply OutLegal.next | apply Legal.foldl
    | intro _
    | dsimp only

theorem execEndContextAbort_legal {s0 s : State} (h : Legal s0 s) (ring : Nat) :
    OutLegal s0 (execEndContextAbort ring s) := by
  unfold execEndContextAbort
  repeat' first
    | with_reducible assumption
    | with_reducible first | apply runDesc_legal | apply holdEnd_legal | apply setRunning_legal | apply beginTeardown_legal | apply endShut_legal
    | with_reducible first | apply Legal.parts
    | simp only [Legal.lit]
    | with_reducible first | apply Legal.ite
    | split
    | refine Legal.of_next ‹_› ?_
    | with_reducible first | apply OutLegal.next | apply Legal.foldl
    | intro _
    | dsimp only

theorem readBack_legal {s0 s : State} (h : Legal s0 s) (n : Nat) (x : Running) :
    Legal s0 (readBack s n x) := by
  unfold readBack
  repeat' first
    | with_reducible assumption
    | with_reducible first | apply setRunning_legal | apply send_legal | apply Legal.parts
    | simp only [Legal.lit]
    | with_reducible first | apply Legal.ite
    | split
    | with_reducible first | apply Legal.foldl
    | intro _
    | dsimp only

theorem dropRunning_legal {s0 s : State} (h : Legal s0 s) (n : Nat) :
    Legal s0 (dropRunning s n) := by
  unfold dropRunning
  repeat' first
    | with_reducible assumption
    | with_reducible first | apply setUnit_legal | apply Legal.parts
    | simp only [Legal.lit]
    | with_reducible first | apply Legal.ite
    | split
    | with_reducible first | apply Legal.foldl
    | intro _
    | dsimp only

theorem loseRunning_legal {s0 s : State} (h : Legal s0 s) (n : Nat) :
    Legal s0 (loseRunning s n) := by
  unfold loseRunning
  repeat' first
    | with_reducible assumption
    | with_reducible first | apply dropRunning_legal | apply Legal.parts
    | simp only [Legal.lit]
    | with_reducible first | apply Legal.ite
    | split
    | with_reducible first | apply Legal.foldl
    | intro _
    | dsimp only

theorem setPhase_legal {s0 s : State} (h : Legal s0 s) (n : Nat) (x : Running) (k : Nat) :
    Legal s0 (setPhase s n x k) := by
  unfold setPhase
  repeat' first
    | with_reducible assumption
    | with_reducible first | apply setRunning_legal | apply Legal.parts
    | simp only [Legal.lit]
    | with_reducible first | apply Legal.ite
    | split
    | with_reducible first | apply Legal.foldl
    | intro _
    | dsimp only

theorem endRunning_legal {s0 s : State} (h : Legal s0 s) (n : Nat) (x : Running) :
    Legal s0 (endRunning s n x) := by
  unfold endRunning
  repeat' first
    | with_reducible assumption
    | with_reducible first | apply sendVec_legal | apply dropRunning_legal | apply endHost_legal | apply raiseAt_legal | apply Legal.parts
    | simp only [Legal.lit]
    | with_reducible first | apply Legal.ite
    | split
    | with_reducible first | apply Legal.foldl
    | intro _
    | dsimp only

theorem signalDone_legal {s0 s : State} (h : Legal s0 s) (n : Nat) (x : Running) :
    Legal s0 (signalDone s n x) := by
  unfold signalDone
  repeat' first
    | with_reducible assumption
    | with_reducible first | apply endRunning_legal | apply hostWrite_legal | apply stopRing_legal | apply setPhase_legal | apply devWrite_legal
    | with_reducible first | apply Legal.parts
    | simp only [Legal.lit]
    | with_reducible first | apply Legal.ite | apply AccLegal.ite
    | split
    | refine Legal.of_bad ‹_› ?_ | refine Legal.of_ok ‹_› ?_ | refine Legal.of_wait ‹_› ?_
    | with_reducible first | apply AccLegal.ok | apply AccLegal.wait | apply AccLegal.bad | apply AccLegal.of_bind | apply AccLegal.foldl
    | with_reducible first | apply Legal.foldl
    | intro _
    | dsimp only

theorem recordSeen_legal {s0 s : State} (h : Legal s0 s) (n : Nat) (x : Running) :
    Legal s0 (recordSeen s n x) := by
  unfold recordSeen
  repeat' first
    | with_reducible assumption
    | with_reducible first | apply signalDone_legal | apply setRunning_legal | apply putRing_legal | apply setUnit_legal | apply Legal.parts
    | simp only [Legal.lit]
    | with_reducible first | apply Legal.ite
    | split
    | with_reducible first | apply Legal.foldl
    | intro _
    | dsimp only

theorem writeRecord_legal {s0 s : State} (h : Legal s0 s) (n : Nat) (x : Running) (p : Report) :
    Legal s0 (writeRecord s n x p) := by
  unfold writeRecord
  repeat' first
    | with_reducible assumption
    | with_reducible first | apply loseRunning_legal | apply endHost_legal | apply stopRing_legal | apply hostWrite_legal | apply setPhase_legal
    | with_reducible first | apply devWrite_legal | apply recordSeen_legal | apply Legal.parts
    | simp only [Legal.lit]
    | with_reducible first | apply Legal.ite | apply AccLegal.ite
    | split
    | refine Legal.of_bad ‹_› ?_ | refine Legal.of_ok ‹_› ?_ | refine Legal.of_wait ‹_› ?_
    | with_reducible first | apply AccLegal.ok | apply AccLegal.wait | apply AccLegal.bad | apply AccLegal.of_bind | apply AccLegal.foldl
    | with_reducible first | apply Legal.foldl
    | intro _
    | dsimp only

theorem completeDesc_legal {s0 s : State} (h : Legal s0 s) (n : Nat) (x : Running) (p : Report) :
    Legal s0 (completeDesc s n x p) := by
  unfold completeDesc
  repeat' first
    | with_reducible assumption
    | with_reducible first | apply loseRunning_legal | apply stopRing_legal | apply readBack_legal | apply writeRecord_legal | apply endHost_legal
    | with_reducible first | apply recordSeen_legal | apply endRunning_legal | apply signalDone_legal | apply Legal.parts
    | simp only [Legal.lit]
    | with_reducible first | apply Legal.ite
    | split
    | with_reducible first | apply Legal.foldl
    | intro _
    | dsimp only

theorem execDescriptorComplete_legal {s0 s : State} (h : Legal s0 s) (ring : Nat) :
    OutLegal s0 (execDescriptorComplete ring s) := by
  unfold execDescriptorComplete
  repeat' first
    | with_reducible assumption
    | with_reducible first | apply completeDesc_legal | apply setUnit_legal | apply Legal.parts
    | simp only [Legal.lit]
    | with_reducible first | apply Legal.ite
    | split
    | refine Legal.of_next ‹_› ?_
    | with_reducible first | apply OutLegal.next | apply Legal.foldl
    | intro _
    | dsimp only

end Sys2Proof.Machine
end

