-- ==== Sys2Proof/Laws/LegalControl.lean ====
section
/-! SUPPORT. `Legal` of authenticated commands, the register windows, power, server cores, security, the wires and the tick. -/

namespace Sys2Proof.Machine

/-! Auth. -/

theorem authDesc_legal {s0 s : State} (h : Legal s0 s) (ring : Nat) (x : Ring) (x3 : Running) (x4 : Bool) :
    Legal s0 (authDesc ring s x x3 x4) := by
  unfold authDesc
  repeat' first
    | with_reducible assumption
    | with_reducible first | apply descDone_legal | apply cvaRead_legal | apply descFault_legal | apply endHost_legal | apply setRunning_legal
    | with_reducible first | apply Legal.parts
    | simp only [Legal.lit]
    | with_reducible first | apply Legal.ite | apply AccLegal.ite
    | split
    | refine Legal.of_bad ‹_› ?_ | refine Legal.of_ok ‹_› ?_ | refine Legal.of_wait ‹_› ?_
    | with_reducible first | apply AccLegal.ok | apply AccLegal.wait | apply AccLegal.bad | apply AccLegal.of_bind | apply AccLegal.foldl
    | with_reducible first | apply Legal.foldl
    | intro _
    | dsimp only

theorem execAuth_legal {s0 s : State} (h : Legal s0 s) (ring : Nat) :
    OutLegal s0 (execAuth ring s) := by
  unfold execAuth
  repeat' first
    | with_reducible assumption
    | with_reducible first | apply runDesc_legal | apply authDesc_legal | apply Legal.parts
    | simp only [Legal.lit]
    | with_reducible first | apply Legal.ite
    | split
    | refine Legal.of_next ‹_› ?_
    | with_reducible first | apply OutLegal.next | apply Legal.foldl
    | intro _
    | dsimp only

theorem authEnd_legal {s0 s : State} (h : Legal s0 s) (n : Nat) (x : Running) (status : Nat) :
    Legal s0 (authEnd s n x status) := by
  unfold authEnd
  repeat' first
    | with_reducible assumption
    | with_reducible first | apply report_legal | apply endHost_legal | apply Legal.parts
    | simp only [Legal.lit]
    | with_reducible first | apply Legal.ite
    | split
    | with_reducible first | apply Legal.foldl
    | intro _
    | dsimp only

theorem atStep5_legal {s0 s : State} (h : Legal s0 s) (cmd : Nat) {f : State → Nat → Running → List Byte → State} (h_f : ∀ y0 y1 y2 y3,
      Legal s0 y0 → Legal s0 (f y0 y1 y2 y3)) :
    Legal s0 (atStep5 s cmd f) := by
  unfold atStep5
  repeat' first
    | with_reducible assumption
    | with_reducible first | apply h_f | apply Legal.parts
    | simp only [Legal.lit]
    | with_reducible first | apply Legal.ite
    | split
    | with_reducible first | apply Legal.foldl
    | intro _
    | dsimp only

theorem putSlot_legal {s0 s : State} (h : Legal s0 s) (b : Bool) (im : List Byte) :
    Legal s0 (putSlot s b im) := by
  unfold putSlot
  repeat' first
    | with_reducible assumption
    | with_reducible first | apply Legal.parts
    | simp only [Legal.lit]
    | with_reducible first | apply Legal.ite
    | split
    | with_reducible first | apply Legal.foldl
    | intro _
    | dsimp only

theorem execOptionNegativeWrite_legal {s0 s : State} (h : Legal s0 s) (readBackOk : Bool) :
    OutLegal s0 (execOptionNegativeWrite readBackOk s) := by
  unfold execOptionNegativeWrite
  repeat' first
    | with_reducible assumption
    | with_reducible first | apply atStep5_legal | apply authEnd_legal | apply putSlot_legal | apply useFree_legal | apply Legal.parts
    | simp only [Legal.lit]
    | with_reducible first | apply Legal.ite
    | split
    | refine Legal.of_next ‹_› ?_
    | with_reducible first | apply OutLegal.next | apply Legal.foldl
    | intro _
    | dsimp only

theorem putFw_legal {s0 s : State} (h : Legal s0 s) (kind : Nat) (b : Bool) (f : FwSlot) :
    Legal s0 (putFw s kind b f) := by
  unfold putFw
  repeat' first
    | with_reducible assumption
    | with_reducible first | apply Legal.parts
    | simp only [Legal.lit]
    | with_reducible first | apply Legal.ite
    | split
    | with_reducible first | apply Legal.foldl
    | intro _
    | dsimp only

theorem blowFw_grow {f : Fuses} {im : List Byte} (h : (if fwKind im = 1 then f.svnMc else f.svnS) ≤ fwSvn im) :
    FusesGrow f (blowFw f im) := by
  have hr : ∀ i, bit f.revoked i = true → bit (f.revoked ||| BitVec.ofNat 4 (fwRevoke im)) i = true := by
    intro i hi
    simp only [bit] at hi ⊢
    rw [BitVec.getLsbD_or, hi, Bool.true_or]
  unfold blowFw
  split
  · split
    · rename_i hk
      rw [if_pos hk] at h
      exact { FusesGrow.refl f with revoked := hr, svnMc := h }
    · rename_i hk
      rw [if_neg hk] at h
      exact { FusesGrow.refl f with revoked := hr, svnS := h }
  · exact { FusesGrow.refl f with revoked := hr }

theorem execFirmwareUpdate_legal {s0 s : State} (h : Legal s0 s) (readBackOk : Bool) :
    OutLegal s0 (execFirmwareUpdate readBackOk s) := by
  unfold execFirmwareUpdate
  refine .next (atStep5_legal h 2 (fun t n x im ht => ?_))
  dsimp only
  split
  · exact authEnd_legal (secFail_legal ht _ _ _) _ _ _
  · rename_i hc
    split
    · exact authEnd_legal (secFail_legal ht _ _ _) _ _ _
    · split
      · exact authEnd_legal (secFail_legal (putFw_legal ht _ _ _) _ _ _) _ _ _
      · refine authEnd_legal (blow_legal (putFw_legal ht _ _ _) (blowFw_grow ?_)) _ _ _
        have hs : ¬ fwSvn im < svnMin t (fwKind im) := by
          intro hlt
          apply hc
          unfold fwCheck
          split
          · decide
          · split
            · decide
            · decide
        simp only [svnMin] at hs
        show (if fwKind im = 1 then t.fuses.svnMc else t.fuses.svnS) ≤ fwSvn im
        omega

theorem armReset_legal {s0 s : State} (h : Legal s0 s) (lvl : Nat) (n : Nat) (x : Running) (pl : List Byte) :
    Legal s0 (armReset s lvl n x pl) := by
  unfold armReset
  repeat' first
    | with_reducible assumption
    | with_reducible first | apply authEnd_legal | apply report_legal | apply Legal.parts
    | simp only [Legal.lit]
    | with_reducible first | apply Legal.ite
    | split
    | with_reducible first | apply Legal.foldl
    | intro _
    | dsimp only

theorem execPackageReset_legal {s0 s : State} (h : Legal s0 s) :
    OutLegal s0 (execPackageReset s) := by
  unfold execPackageReset
  repeat' first
    | with_reducible assumption
    | with_reducible first | apply atStep5_legal | apply armReset_legal | apply Legal.parts
    | simp only [Legal.lit]
    | with_reducible first | apply Legal.ite
    | split
    | refine Legal.of_next ‹_› ?_
    | with_reducible first | apply OutLegal.next | apply Legal.foldl
    | intro _
    | dsimp only

theorem execDomainReset_legal {s0 s : State} (h : Legal s0 s) :
    OutLegal s0 (execDomainReset s) := by
  unfold execDomainReset
  repeat' first
    | with_reducible assumption
    | with_reducible first | apply atStep5_legal | apply armReset_legal | apply Legal.parts
    | simp only [Legal.lit]
    | with_reducible first | apply Legal.ite
    | split
    | refine Legal.of_next ‹_› ?_
    | with_reducible first | apply OutLegal.next | apply Legal.foldl
    | intro _
    | dsimp only

theorem holdNew_legal {s0 s : State} (h : Legal s0 s) (h_ : Bool) :
    Legal s0 (holdNew s h_) := by
  unfold holdNew
  repeat' first
    | with_reducible assumption
    | with_reducible first | apply Legal.parts
    | simp only [Legal.lit]
    | with_reducible first | apply Legal.ite
    | split
    | with_reducible first | apply Legal.foldl
    | intro _
    | dsimp only

theorem execPodMembershipChange_legal {s0 s : State} (h : Legal s0 s) :
    OutLegal s0 (execPodMembershipChange s) := by
  unfold execPodMembershipChange
  repeat' first
    | with_reducible assumption
    | with_reducible first | apply atStep5_legal | apply authEnd_legal | apply holdNew_legal | apply Legal.parts
    | simp only [Legal.lit]
    | with_reducible first | apply Legal.ite
    | split
    | refine Legal.of_next ‹_› ?_
    | with_reducible first | apply OutLegal.next | apply Legal.foldl
    | intro _
    | dsimp only

theorem setInc_legal {s0 s : State} (h : Legal s0 s) (pkg : Nat) (v : Nat) :
    Legal s0 (setInc s pkg v) := by
  unfold setInc
  repeat' first
    | with_reducible assumption
    | with_reducible first | apply Legal.parts
    | simp only [Legal.lit]
    | with_reducible first | apply Legal.ite
    | split
    | with_reducible first | apply Legal.foldl
    | intro _
    | dsimp only

theorem applyChange_legal {s0 s : State} (h : Legal s0 s) (c : Change) :
    Legal s0 (applyChange s c) := by
  unfold applyChange
  repeat' first
    | with_reducible assumption
    | with_reducible first | apply setInc_legal | apply writeRoute_legal | apply writeGroup_legal | apply setPort_legal | apply hbRefresh_legal
    | with_reducible first | apply Legal.parts
    | simp only [Legal.lit]
    | with_reducible first | apply Legal.ite
    | split
    | with_reducible first | apply Legal.foldl
    | intro _
    | dsimp only

theorem execMembershipApply_legal {s0 s : State} (h : Legal s0 s) :
    OutLegal s0 (execMembershipApply s) := by
  unfold execMembershipApply
  repeat' first
    | with_reducible assumption
    | with_reducible first | apply atStep5_legal | apply authEnd_legal | apply holdNew_legal | apply applyChange_legal | apply Legal.parts
    | simp only [Legal.lit]
    | with_reducible first | apply Legal.ite
    | split
    | refine Legal.of_next ‹_› ?_
    | with_reducible first | apply OutLegal.next | apply Legal.foldl
    | intro _
    | dsimp only

theorem execIncarnationSet_legal {s0 s : State} (h : Legal s0 s) :
    OutLegal s0 (execIncarnationSet s) := by
  unfold execIncarnationSet
  repeat' first
    | with_reducible assumption
    | with_reducible first | apply atStep5_legal | apply authEnd_legal | apply holdNew_legal | apply Legal.parts
    | simp only [Legal.lit]
    | with_reducible first | apply Legal.ite
    | split
    | refine Legal.of_next ‹_› ?_
    | with_reducible first | apply OutLegal.next | apply Legal.foldl
    | intro _
    | dsimp only

theorem execIncarnationApply_legal {s0 s : State} (h : Legal s0 s) :
    OutLegal s0 (execIncarnationApply s) := by
  unfold execIncarnationApply
  repeat' first
    | with_reducible assumption
    | with_reducible first | apply atStep5_legal | apply authEnd_legal | apply holdNew_legal | apply Legal.parts
    | simp only [Legal.lit]
    | with_reducible first | apply Legal.ite
    | split
    | refine Legal.of_next ‹_› ?_
    | with_reducible first | apply OutLegal.next | apply Legal.foldl
    | intro _
    | dsimp only

theorem disown_legal {s0 s : State} (h : Legal s0 s) :
    Legal s0 (disown s) := by
  unfold disown
  repeat' first
    | with_reducible assumption
    | with_reducible first | apply Legal.parts
    | simp only [Legal.lit]
    | with_reducible first | apply Legal.ite
    | split
    | with_reducible first | apply Legal.foldl
    | intro _
    | dsimp only

theorem execCommandKeyRotation_legal {s0 s : State} (h : Legal s0 s) :
    OutLegal s0 (execCommandKeyRotation s) := by
  unfold execCommandKeyRotation
  repeat' first
    | with_reducible assumption
    | with_reducible first | apply atStep5_legal | apply authEnd_legal | apply disown_legal | apply finishRotation_legal | apply Legal.parts
    | simp only [Legal.lit]
    | with_reducible first | apply Legal.ite
    | split
    | refine Legal.of_next ‹_› ?_
    | with_reducible first | apply OutLegal.next | apply Legal.foldl
    | intro _
    | dsimp only

theorem hard_grow (f : Fuses) (x : Nat × Nat × Bool) : FusesGrow f { f with hard := f.hard ++ [x] } :=
  { FusesGrow.refl f with hard := List.prefix_append _ _ }

theorem repairRow_legal {s0 s : State} (h : Legal s0 s) (e : BitVec 128) (how : RepairEnd) : SndLegal s0 (repairRow s e how) := by
  unfold repairRow
  dsimp only
  split
  · exact .mk h
  · split
    · exact .mk h
    · exact .mk h
    · split
      · exact .mk h
      · exact .mk (blow_legal h (hard_grow _ _))
    · split
      · exact .mk h
      · exact .mk (blow_legal h (hard_grow _ _))

theorem repairRows_legal {s0 : State} : ∀ (x1 : List (BitVec 128)) {a : State} (_ : Legal s0 a) (x2 : List RepairEnd),
    SndLegal s0 (repairRows a x1 x2) := by
  intro x1
  induction x1 with
  | nil =>
    intro a h_a x2
    unfold repairRows
    repeat' first
      | with_reducible assumption
      | with_reducible first | apply repairRow_legal | apply Legal.parts
      | simp only [SndLegal.lit]
      | simp only [Legal.lit]
      | with_reducible first | apply Legal.ite
      | split
      | refine Legal.of_snd ‹_› ?_
      | with_reducible first | apply SndLegal.get | apply SndLegal.foldl
      | intro _
      | dsimp only
  | cons _ _ ih =>
    intro a h_a x2
    unfold repairRows
    repeat' first
      | with_reducible assumption
      | with_reducible first | apply ih | apply repairRow_legal | apply Legal.parts
      | simp only [SndLegal.lit]
      | simp only [Legal.lit]
      | with_reducible first | apply Legal.ite
      | split
      | refine Legal.of_snd ‹_› ?_
      | with_reducible first | apply SndLegal.get | apply SndLegal.foldl
      | intro _
      | dsimp only

theorem execHbmRepairCommit_legal {s0 s : State} (h : Legal s0 s) (ends : List RepairEnd) :
    OutLegal s0 (execHbmRepairCommit ends s) := by
  unfold execHbmRepairCommit
  repeat' first
    | with_reducible assumption
    | with_reducible first | apply atStep5_legal | apply authEnd_legal | apply segsOf_legal | apply segsReady_legal | apply repairRows_legal
    | with_reducible first | apply segsWriteNow_legal | apply Legal.parts
    | simp only [SndLegal.lit]
    | simp only [Legal.lit]
    | with_reducible first | apply Legal.ite | apply AccLegal.ite
    | split
    | refine Legal.of_bad ‹_› ?_ | refine Legal.of_next ‹_› ?_ | refine Legal.of_ok ‹_› ?_ | refine Legal.of_snd ‹_› ?_ | refine Legal.of_wait ‹_› ?_
    | with_reducible first | apply AccLegal.ok | apply AccLegal.wait | apply AccLegal.bad | apply AccLegal.of_bind | apply AccLegal.foldl
    | with_reducible first | apply OutLegal.next | apply SndLegal.get | apply SndLegal.foldl | apply Legal.foldl
    | intro _
    | dsimp only

theorem execDebugUnlock_legal {s0 s : State} (h : Legal s0 s) :
    OutLegal s0 (execDebugUnlock s) := by
  unfold execDebugUnlock
  repeat' first
    | with_reducible assumption
    | with_reducible first | apply atStep5_legal | apply authEnd_legal | apply Legal.parts
    | simp only [Legal.lit]
    | with_reducible first | apply Legal.ite
    | split
    | refine Legal.of_next ‹_› ?_
    | with_reducible first | apply OutLegal.next | apply Legal.foldl
    | intro _
    | dsimp only

theorem execContactSheetEnable_legal {s0 s : State} (h : Legal s0 s) :
    OutLegal s0 (execContactSheetEnable s) := by
  unfold execContactSheetEnable
  repeat' first
    | with_reducible assumption
    | with_reducible first | apply atStep5_legal | apply authEnd_legal | apply Legal.parts
    | simp only [Legal.lit]
    | with_reducible first | apply Legal.ite
    | split
    | refine Legal.of_next ‹_› ?_
    | with_reducible first | apply OutLegal.next | apply Legal.foldl
    | intro _
    | dsimp only

/-! Contact. -/

theorem cswDrop_legal {s0 s : State} (h : Legal s0 s) :
    Legal s0 (cswDrop s) := by
  unfold cswDrop
  repeat' first
    | with_reducible assumption
    | with_reducible first | apply bump_legal | apply Legal.parts
    | simp only [Legal.lit]
    | with_reducible first | apply Legal.ite
    | split
    | with_reducible first | apply Legal.foldl
    | intro _
    | dsimp only

theorem execCswAccessDropped_legal {s0 s : State} (h : Legal s0 s) :
    OutLegal s0 (execCswAccessDropped s) := by
  unfold execCswAccessDropped
  repeat' first
    | with_reducible assumption
    | with_reducible first | apply cswDrop_legal | apply wakeBy_legal | apply Legal.parts
    | simp only [Legal.lit]
    | with_reducible first | apply Legal.ite
    | split
    | refine Legal.of_next ‹_› ?_
    | with_reducible first | apply OutLegal.next | apply Legal.foldl
    | intro _
    | dsimp only

theorem cswGo_legal {s0 s : State} (h : Legal s0 s) (slot : Nat) (go : BitVec 32) (is : Nat → Bool) {f : State → List (BitVec 32) → State}
      (h_f : ∀ y0 y1, Legal s0 y0 → Legal s0 (f y0 y1)) :
    Legal s0 (cswGo s slot go is f) := by
  unfold cswGo
  repeat' first
    | with_reducible assumption
    | with_reducible first | apply cswDrop_legal | apply wakeBy_legal | apply bump_legal | apply h_f | apply Legal.parts
    | simp only [Legal.lit]
    | with_reducible first | apply Legal.ite
    | split
    | with_reducible first | apply Legal.foldl
    | intro _
    | dsimp only

theorem submit_legal {s0 s : State} (h : Legal s0 s) (slot : Nat) (n : Nat) (refused : Nat) (c : List (BitVec 32)) :
    Legal s0 (submit slot n refused s c) := by
  unfold submit
  repeat' first
    | with_reducible assumption
    | with_reducible first | apply endCsw_legal | apply joinOrder_legal | apply setCswStatus_legal | apply Legal.parts
    | simp only [Legal.lit]
    | with_reducible first | apply Legal.ite
    | split
    | with_reducible first | apply Legal.foldl
    | intro _
    | dsimp only

theorem execCswNop_legal {s0 s : State} (h : Legal s0 s) (slot : Nat) (go : BitVec 32) :
    OutLegal s0 (execCswNop slot go s) := by
  unfold execCswNop
  repeat' first
    | with_reducible assumption
    | with_reducible first | apply cswGo_legal | apply endCsw_legal | apply Legal.parts
    | simp only [Legal.lit]
    | with_reducible first | apply Legal.ite
    | split
    | refine Legal.of_next ‹_› ?_
    | with_reducible first | apply OutLegal.next | apply Legal.foldl
    | intro _
    | dsimp only

theorem execCswCopy_legal {s0 s : State} (h : Legal s0 s) (slot : Nat) (go : BitVec 32) :
    OutLegal s0 (execCswCopy slot go s) := by
  unfold execCswCopy
  repeat' first
    | with_reducible assumption
    | with_reducible first | apply cswGo_legal | apply submit_legal | apply Legal.parts
    | simp only [Legal.lit]
    | with_reducible first | apply Legal.ite
    | split
    | refine Legal.of_next ‹_› ?_
    | with_reducible first | apply OutLegal.next | apply Legal.foldl
    | intro _
    | dsimp only

theorem execCswFill_legal {s0 s : State} (h : Legal s0 s) (slot : Nat) (go : BitVec 32) :
    OutLegal s0 (execCswFill slot go s) := by
  unfold execCswFill
  repeat' first
    | with_reducible assumption
    | with_reducible first | apply cswGo_legal | apply submit_legal | apply Legal.parts
    | simp only [Legal.lit]
    | with_reducible first | apply Legal.ite
    | split
    | refine Legal.of_next ‹_› ?_
    | with_reducible first | apply OutLegal.next | apply Legal.foldl
    | intro _
    | dsimp only

theorem execCswGemm_legal {s0 s : State} (h : Legal s0 s) (slot : Nat) (go : BitVec 32) :
    OutLegal s0 (execCswGemm slot go s) := by
  unfold execCswGemm
  repeat' first
    | with_reducible assumption
    | with_reducible first | apply cswGo_legal | apply submit_legal | apply Legal.parts
    | simp only [Legal.lit]
    | with_reducible first | apply Legal.ite
    | split
    | refine Legal.of_next ‹_› ?_
    | with_reducible first | apply OutLegal.next | apply Legal.foldl
    | intro _
    | dsimp only

theorem cswStart_legal {s0 s : State} (h : Legal s0 s) (slot : Nat) (go : BitVec 32) :
    Legal s0 (cswStart s slot go) := by
  unfold cswStart
  repeat' first
    | with_reducible assumption
    | with_reducible first | apply cswGo_legal | apply submit_legal | apply endCsw_legal | apply Legal.parts
    | simp only [Legal.lit]
    | with_reducible first | apply Legal.ite
    | split
    | with_reducible first | apply Legal.foldl
    | intro _
    | dsimp only

theorem cswWrite_legal {s0 s : State} (h : Legal s0 s) (off : Nat) (wide : Bool) (v : BitVec 32) :
    Legal s0 (cswWrite s off wide v) := by
  unfold cswWrite
  repeat' first
    | with_reducible assumption
    | with_reducible first | apply cswDrop_legal | apply wakeBy_legal | apply cswStart_legal | apply Legal.parts
    | simp only [Legal.lit]
    | with_reducible first | apply Legal.ite
    | split
    | with_reducible first | apply Legal.foldl
    | intro _
    | dsimp only

/-! Regs. -/

theorem readCtx_legal {s0 s : State} (h : Legal s0 s) (c : Nat) :
    Legal s0 (readCtx s c) := by
  unfold readCtx
  repeat' first
    | with_reducible assumption
    | with_reducible first | apply setField_legal | apply setReg_legal | apply Legal.parts
    | simp only [Legal.lit]
    | with_reducible first | apply Legal.ite
    | split
    | with_reducible first | apply Legal.foldl
    | intro _
    | dsimp only

theorem execCtxRead_legal {s0 s : State} (h : Legal s0 s) (ctx : BitVec 12) :
    OutLegal s0 (execCtxRead ctx s) := by
  unfold execCtxRead
  repeat' first
    | with_reducible assumption
    | with_reducible first | apply readCtx_legal | apply wakeBy_legal | apply Legal.parts
    | simp only [Legal.lit]
    | with_reducible first | apply Legal.ite
    | split
    | refine Legal.of_next ‹_› ?_
    | with_reducible first | apply OutLegal.next | apply Legal.foldl
    | intro _
    | dsimp only

theorem openWith_legal {s0 s : State} (h : Legal s0 s) (c : Nat) :
    Legal s0 (openWith s c) := by
  unfold openWith
  repeat' first
    | with_reducible assumption
    | with_reducible first | apply setField_legal | apply openSlot_legal | apply Legal.parts
    | simp only [Legal.lit]
    | with_reducible first | apply Legal.ite
    | split
    | with_reducible first | apply Legal.foldl
    | intro _
    | dsimp only

theorem execOpenCtx_legal {s0 s : State} (h : Legal s0 s) (ctx : BitVec 12) :
    OutLegal s0 (execOpenCtx ctx s) := by
  unfold execOpenCtx
  repeat' first
    | with_reducible assumption
    | with_reducible first | apply openWith_legal | apply wakeBy_legal | apply Legal.parts
    | simp only [Legal.lit]
    | with_reducible first | apply Legal.ite
    | split
    | refine Legal.of_next ‹_› ?_
    | with_reducible first | apply OutLegal.next | apply Legal.foldl
    | intro _
    | dsimp only

theorem withdrawnIf_legal {s0 s : State} (h : Legal s0 s) (c : Nat) :
    Legal s0 (withdrawnIf s c) := by
  unfold withdrawnIf
  repeat' first
    | with_reducible assumption
    | with_reducible first | apply setCore_legal | apply Legal.parts
    | simp only [Legal.lit]
    | with_reducible first | apply Legal.ite
    | split
    | with_reducible first | apply Legal.foldl
    | intro _
    | dsimp only

theorem withdrawCore_legal {s0 s : State} (h : Legal s0 s) (c : Nat) :
    Legal s0 (withdrawCore s c) := by
  unfold withdrawCore
  repeat' first
    | with_reducible assumption
    | with_reducible first | apply setField_legal | apply setCore_legal | apply Legal.parts
    | simp only [Legal.lit]
    | with_reducible first | apply Legal.ite
    | split
    | with_reducible first | apply Legal.foldl
    | intro _
    | dsimp only

theorem execWithdraw_legal {s0 s : State} (h : Legal s0 s) (core : BitVec 10) :
    OutLegal s0 (execWithdraw core s) := by
  unfold execWithdraw
  repeat' first
    | with_reducible assumption
    | with_reducible first | apply withdrawCore_legal | apply wakeBy_legal | apply Legal.parts
    | simp only [Legal.lit]
    | with_reducible first | apply Legal.ite
    | split
    | refine Legal.of_next ‹_› ?_
    | with_reducible first | apply OutLegal.next | apply Legal.foldl
    | intro _
    | dsimp only

theorem returnTo_legal {s0 s : State} (h : Legal s0 s) (c : Nat) :
    Legal s0 (returnTo s c) := by
  unfold returnTo
  repeat' first
    | with_reducible assumption
    | with_reducible first | apply setField_legal | apply setCore_legal | apply Legal.parts
    | simp only [Legal.lit]
    | with_reducible first | apply Legal.ite
    | split
    | with_reducible first | apply Legal.foldl
    | intro _
    | dsimp only

theorem execReturnCore_legal {s0 s : State} (h : Legal s0 s) (core : BitVec 10) :
    OutLegal s0 (execReturnCore core s) := by
  unfold execReturnCore
  repeat' first
    | with_reducible assumption
    | with_reducible first | apply returnTo_legal | apply wakeBy_legal | apply Legal.parts
    | simp only [Legal.lit]
    | with_reducible first | apply Legal.ite
    | split
    | refine Legal.of_next ‹_› ?_
    | with_reducible first | apply OutLegal.next | apply Legal.foldl
    | intro _
    | dsimp only

theorem readRoute_legal {s0 s : State} (h : Legal s0 s) (n : Nat) :
    Legal s0 (readRoute s n) := by
  unfold readRoute
  repeat' first
    | with_reducible assumption
    | with_reducible first | apply setField_legal | apply setReg_legal | apply Legal.parts
    | simp only [Legal.lit]
    | with_reducible first | apply Legal.ite
    | split
    | with_reducible first | apply Legal.foldl
    | intro _
    | dsimp only

theorem execPrtRtRead_legal {s0 s : State} (h : Legal s0 s) (entry : BitVec 12) :
    OutLegal s0 (execPrtRtRead entry s) := by
  unfold execPrtRtRead
  repeat' first
    | with_reducible assumption
    | with_reducible first | apply readRoute_legal | apply wakeBy_legal | apply Legal.parts
    | simp only [Legal.lit]
    | with_reducible first | apply Legal.ite
    | split
    | refine Legal.of_next ‹_› ?_
    | with_reducible first | apply OutLegal.next | apply Legal.foldl
    | intro _
    | dsimp only

theorem routeFrom_legal {s0 s : State} (h : Legal s0 s) (n : Nat) :
    Legal s0 (routeFrom s n) := by
  unfold routeFrom
  repeat' first
    | with_reducible assumption
    | with_reducible first | apply setField_legal | apply writeRoute_legal | apply Legal.parts
    | simp only [Legal.lit]
    | with_reducible first | apply Legal.ite
    | split
    | with_reducible first | apply Legal.foldl
    | intro _
    | dsimp only

theorem execPrtRtWrite_legal {s0 s : State} (h : Legal s0 s) (entry : BitVec 12) :
    OutLegal s0 (execPrtRtWrite entry s) := by
  unfold execPrtRtWrite
  repeat' first
    | with_reducible assumption
    | with_reducible first | apply routeFrom_legal | apply wakeBy_legal | apply Legal.parts
    | simp only [Legal.lit]
    | with_reducible first | apply Legal.ite
    | split
    | refine Legal.of_next ‹_› ?_
    | with_reducible first | apply OutLegal.next | apply Legal.foldl
    | intro _
    | dsimp only

theorem repairSoft_legal {s0 s : State} (h : Legal s0 s) (h_ : Nat) :
    Legal s0 (repairSoft s h_) := by
  unfold repairSoft
  repeat' first
    | with_reducible assumption
    | with_reducible first | apply setField_legal | apply Legal.parts
    | simp only [Legal.lit]
    | with_reducible first | apply Legal.ite
    | split
    | with_reducible first | apply Legal.foldl
    | intro _
    | dsimp only

theorem execSoftRepair_legal {s0 s : State} (h : Legal s0 s) (stack : Nat) (chan : BitVec 5) (pc : Bool) (bank : BitVec 6) (row : BitVec
      32) :
    OutLegal s0 (execSoftRepair stack chan pc bank row s) := by
  unfold execSoftRepair
  repeat' first
    | with_reducible assumption
    | with_reducible first | apply wakeBy_legal | apply setField_legal | apply repairSoft_legal | apply Legal.parts
    | simp only [Legal.lit]
    | with_reducible first | apply Legal.ite
    | split
    | refine Legal.of_next ‹_› ?_
    | with_reducible first | apply OutLegal.next | apply Legal.foldl
    | intro _
    | dsimp only

theorem writeErrBase_legal {s0 s : State} (h : Legal s0 s) (v : BitVec 64) :
    Legal s0 (writeErrBase s v) := by
  unfold writeErrBase
  repeat' first
    | with_reducible assumption
    | with_reducible first | apply setField_legal | apply setReg_legal | apply Legal.parts
    | simp only [Legal.lit]
    | with_reducible first | apply Legal.ite
    | split
    | with_reducible first | apply Legal.foldl
    | intro _
    | dsimp only

theorem writeErrCtrl_legal {s0 s : State} (h : Legal s0 s) (v : BitVec 64) :
    Legal s0 (writeErrCtrl s v) := by
  unfold writeErrCtrl
  repeat' first
    | with_reducible assumption
    | with_reducible first | apply setReg_legal | apply flushErrs_legal | apply Legal.parts
    | simp only [Legal.lit]
    | with_reducible first | apply Legal.ite
    | split
    | with_reducible first | apply Legal.foldl
    | intro _
    | dsimp only

theorem writeErrHead_legal {s0 s : State} (h : Legal s0 s) (v : BitVec 64) :
    Legal s0 (writeErrHead s v) := by
  unfold writeErrHead
  repeat' first
    | with_reducible assumption
    | with_reducible first | apply setField_legal | apply flushErrs_legal | apply errVisible_legal | apply Legal.parts
    | simp only [Legal.lit]
    | with_reducible first | apply Legal.ite
    | split
    | with_reducible first | apply Legal.foldl
    | intro _
    | dsimp only

theorem execErrqBaseWrite_legal {s0 s : State} (h : Legal s0 s) (v : Word) :
    OutLegal s0 (execErrqBaseWrite v s) := by
  unfold execErrqBaseWrite
  repeat' first
    | with_reducible assumption
    | with_reducible first | apply writeErrBase_legal | apply wakeBy_legal | apply Legal.parts
    | simp only [Legal.lit]
    | with_reducible first | apply Legal.ite
    | split
    | refine Legal.of_next ‹_› ?_
    | with_reducible first | apply OutLegal.next | apply Legal.foldl
    | intro _
    | dsimp only

theorem execErrqCtrlWrite_legal {s0 s : State} (h : Legal s0 s) (v : Word) :
    OutLegal s0 (execErrqCtrlWrite v s) := by
  unfold execErrqCtrlWrite
  repeat' first
    | with_reducible assumption
    | with_reducible first | apply writeErrCtrl_legal | apply wakeBy_legal | apply Legal.parts
    | simp only [Legal.lit]
    | with_reducible first | apply Legal.ite
    | split
    | refine Legal.of_next ‹_› ?_
    | with_reducible first | apply OutLegal.next | apply Legal.foldl
    | intro _
    | dsimp only

theorem execErrqHeadWrite_legal {s0 s : State} (h : Legal s0 s) (v : Word) :
    OutLegal s0 (execErrqHeadWrite v s) := by
  unfold execErrqHeadWrite
  repeat' first
    | with_reducible assumption
    | with_reducible first | apply writeErrHead_legal | apply wakeBy_legal | apply Legal.parts
    | simp only [Legal.lit]
    | with_reducible first | apply Legal.ite
    | split
    | refine Legal.of_next ‹_› ?_
    | with_reducible first | apply OutLegal.next | apply Legal.foldl
    | intro _
    | dsimp only

theorem sendHeld_legal {s0 s : State} (h : Legal s0 s) :
    Legal s0 (sendHeld s) := by
  unfold sendHeld
  repeat' first
    | with_reducible assumption
    | with_reducible first | apply send_legal | apply Legal.parts
    | simp only [Legal.lit]
    | with_reducible first | apply Legal.ite
    | split
    | with_reducible first | apply Legal.foldl
    | intro _
    | dsimp only

theorem execMsixUnmask_legal {s0 s : State} (h : Legal s0 s) (what : MaskWhat) :
    OutLegal s0 (execMsixUnmask what s) := by
  unfold execMsixUnmask
  repeat' first
    | with_reducible assumption
    | with_reducible first | apply wakeBy_legal | apply sendHeld_legal | apply Legal.parts
    | simp only [Legal.lit]
    | with_reducible first | apply Legal.ite
    | split
    | refine Legal.of_next ‹_› ?_
    | with_reducible first | apply OutLegal.next | apply Legal.foldl
    | intro _
    | dsimp only

theorem runs_legal {s0 s : State} (h : Legal s0 s) {o : Out State} (h_o : OutLegal s0 o) :
    Legal s0 (runs o s) := by
  unfold runs
  repeat' first
    | with_reducible assumption
    | with_reducible first | apply Legal.parts
    | simp only [Legal.lit]
    | with_reducible first | apply Legal.ite
    | split
    | refine Legal.of_next ‹_› ?_
    | with_reducible first | apply OutLegal.next | apply Legal.foldl
    | exact Legal.of_next rfl ‹_›
    | intro _
    | dsimp only

theorem resetAsked_legal {s0 s : State} (h : Legal s0 s) (kind : Nat) (index : Nat) :
    Legal s0 (resetAsked s kind index) := by
  unfold resetAsked
  repeat' first
    | with_reducible assumption
    | with_reducible first | apply runs_legal | apply execDieReset_legal | apply execCoreReset_legal | apply execPortReset_legal
    | with_reducible first | apply execFixerReset_legal | apply execLoupeReset_legal | apply execStackerReset_legal | apply execRingGroupReset_legal
    | with_reducible first | apply Legal.parts
    | simp only [Legal.lit]
    | with_reducible first | apply Legal.ite
    | split
    | refine Legal.of_next ‹_› ?_
    | with_reducible first | apply OutLegal.next | apply Legal.foldl
    | intro _
    | dsimp only

theorem onBit_legal {s0 s : State} (h : Legal s0 s) (b : Bool) {f : State → State} (h_f : ∀ y0, Legal s0 y0 → Legal s0 (f y0)) :
    Legal s0 (onBit b f s) := by
  unfold onBit
  repeat' first
    | with_reducible assumption
    | with_reducible first | apply h_f | apply Legal.parts
    | simp only [Legal.lit]
    | with_reducible first | apply Legal.ite
    | split
    | with_reducible first | apply Legal.foldl
    | intro _
    | dsimp only

theorem triggers_legal {s0 s : State} (h : Legal s0 s) (off : Nat) (t m : BitVec 64) : Legal s0 (triggers s off t m) := by
  unfold triggers
  refine .ite (fun _ => onBit_legal h _ (fun _ k => resetAsked_legal k _ _)) (fun _ => ?_)
  refine .ite (fun _ => h.same rfl rfl rfl rfl rfl rfl rfl) (fun _ => ?_)
  refine .ite (fun _ => driveAlert_legal h) (fun _ => ?_)
  refine .ite (fun _ => onBit_legal (onBit_legal (onBit_legal h _ (fun _ k => runs_legal k (execRingCtrlRead_legal k _))) _
    (fun _ k => runs_legal k (execRingCtrlWrite_legal k _))) _ (fun _ k => runs_legal k (execRingCtrlReset_legal k _))) (fun _ => ?_)
  refine .ite (fun _ => onBit_legal (onBit_legal h _ (fun _ k => withdrawCore_legal k _)) _ (fun _ k => returnTo_legal k _)) (fun _ => ?_)
  refine .ite (fun _ => onBit_legal (onBit_legal h _ (fun _ k => readCtx_legal k _)) _ (fun _ k => openWith_legal k _)) (fun _ => ?_)
  refine .ite (fun _ => onBit_legal (onBit_legal h _ (fun _ k => runs_legal k (execFixSeRead_legal k _))) _
    (fun _ k => runs_legal k (execFixSeCommit_legal k _ _))) (fun _ => ?_)
  refine .ite (fun _ => onBit_legal (onBit_legal h _ (fun _ k => readRoute_legal k _)) _ (fun _ k => routeFrom_legal k _)) (fun _ => ?_)
  refine .ite (fun _ => onBit_legal (onBit_legal h _ (fun _ k => runs_legal k (execStkGrpRead_legal k _))) _
    (fun _ k => runs_legal k (execStkGrpWrite_legal k _))) (fun _ => ?_)
  refine .ite (fun _ => onBit_legal h _ (fun _ k => repairSoft_legal k _)) (fun _ => ?_)
  refine .ite (fun _ => ?_) (fun _ => h)
  refine onBit_legal ?_ _ (fun _ k => writeRetrain_legal k _)
  refine .ite (fun _ => ?_) (fun _ => h)
  refine .ite (fun _ => .ite (fun _ => h) (fun _ => enablePort_legal h _)) (fun _ => ?_)
  exact .ite (fun _ => disablePort_legal h _) (fun _ => h)

theorem writeMsix_legal {s0 s : State} (h : Legal s0 s) (i : Nat) (v : BitVec 64) (m : BitVec 64) :
    Legal s0 (writeMsix s i v m) := by
  unfold writeMsix
  repeat' first
    | with_reducible assumption
    | with_reducible first | apply sendHeld_legal | apply Legal.parts
    | simp only [Legal.lit]
    | with_reducible first | apply Legal.ite
    | split
    | with_reducible first | apply Legal.foldl
    | intro _
    | dsimp only

theorem writeReg_legal {s0 s : State} (h : Legal s0 s) (off : Nat) (v : BitVec 64) (m : BitVec 64) :
    Legal s0 (writeReg s off v m) := by
  unfold writeReg
  repeat' first
    | with_reducible assumption
    | with_reducible first | apply writeMsix_legal | apply writeErrBase_legal | apply writeErrCtrl_legal | apply writeErrHead_legal
    | with_reducible first | apply triggers_legal | apply setReg_legal | apply Legal.parts
    | simp only [Legal.lit]
    | with_reducible first | apply Legal.ite
    | split
    | with_reducible first | apply Legal.foldl
    | intro _
    | dsimp only

theorem accErr_legal {s0 s : State} (h : Legal s0 s) (off : Nat) (size : Nat) (write : Bool) (i3c : Bool) :
    Legal s0 (accErr s off size write i3c) := by
  unfold accErr
  repeat' first
    | with_reducible assumption
    | with_reducible first | apply bump_legal | apply setReg_legal | apply Legal.parts
    | simp only [Legal.lit]
    | with_reducible first | apply Legal.ite
    | split
    | with_reducible first | apply Legal.foldl
    | intro _
    | dsimp only

theorem barWrite_legal {s0 s : State} (h : Legal s0 s) (off : Nat) (wide : Bool) (v : Word) :
    Legal s0 (barWrite s off wide v) := by
  unfold barWrite
  repeat' first
    | with_reducible assumption
    | with_reducible first | apply accErr_legal | apply writeReg_legal | apply Legal.parts
    | simp only [Legal.lit]
    | with_reducible first | apply Legal.ite
    | split
    | with_reducible first | apply Legal.foldl
    | intro _
    | dsimp only

theorem execRegisterWrite_legal {s0 s : State} (h : Legal s0 s) (bar : Bar) (off : Nat) (wide : Bool) (v : Word) :
    OutLegal s0 (execRegisterWrite bar off wide v s) := by
  unfold execRegisterWrite
  repeat' first
    | with_reducible assumption
    | with_reducible first | apply barWrite_legal | apply wakeBy_legal | apply cswWrite_legal | apply Legal.parts
    | simp only [Legal.lit]
    | with_reducible first | apply Legal.ite
    | split
    | refine Legal.of_next ‹_› ?_
    | with_reducible first | apply OutLegal.next | apply Legal.foldl
    | intro _
    | dsimp only

theorem execDroppedRegisterAccess_legal {s0 s : State} (h : Legal s0 s) (off : Nat) (size : Nat) (write : Bool) (i3c : Bool) :
    OutLegal s0 (execDroppedRegisterAccess off size write i3c s) := by
  unfold execDroppedRegisterAccess
  repeat' first
    | with_reducible assumption
    | with_reducible first | apply accErr_legal | apply wakeBy_legal | apply send_legal | apply nextUid_legal | apply Legal.parts
    | simp only [Legal.lit]
    | with_reducible first | apply Legal.ite
    | split
    | refine Legal.of_next ‹_› ?_
    | with_reducible first | apply OutLegal.next | apply Legal.foldl
    | intro _
    | dsimp only

theorem i3cUse_legal {s0 s : State} (h : Legal s0 s) {f : State → State} (h_f : ∀ y0, Legal s0 y0 → Legal s0 (f y0)) :
    Legal s0 (i3cUse s f) := by
  unfold i3cUse
  repeat' first
    | with_reducible assumption
    | with_reducible first | apply wakeBy_legal | apply h_f | apply Legal.parts
    | simp only [Legal.lit]
    | with_reducible first | apply Legal.ite
    | split
    | with_reducible first | apply Legal.foldl
    | intro _
    | dsimp only

theorem setPtr_legal {s0 s : State} (h : Legal s0 s) (p : BitVec 24) :
    Legal s0 (setPtr s p) := by
  unfold setPtr
  repeat' first
    | with_reducible assumption
    | with_reducible first | apply Legal.parts
    | simp only [Legal.lit]
    | with_reducible first | apply Legal.ite
    | split
    | with_reducible first | apply Legal.foldl
    | intro _
    | dsimp only

theorem execI3cPointerWrite_legal {s0 s : State} (h : Legal s0 s) (off : BitVec 24) :
    OutLegal s0 (execI3cPointerWrite off s) := by
  unfold execI3cPointerWrite
  repeat' first
    | with_reducible assumption
    | with_reducible first | apply i3cUse_legal | apply setPtr_legal | apply Legal.parts
    | simp only [Legal.lit]
    | with_reducible first | apply Legal.ite
    | split
    | refine Legal.of_next ‹_› ?_
    | with_reducible first | apply OutLegal.next | apply Legal.foldl
    | intro _
    | dsimp only

theorem execI3cRead_legal {s0 s : State} (h : Legal s0 s) :
    OutLegal s0 (execI3cRead s) := by
  unfold execI3cRead
  repeat' first
    | with_reducible assumption
    | with_reducible first | apply i3cUse_legal | apply setPtr_legal | apply send_legal | apply accErr_legal | apply Legal.parts
    | simp only [Legal.lit]
    | with_reducible first | apply Legal.ite
    | split
    | refine Legal.of_next ‹_› ?_
    | with_reducible first | apply OutLegal.next | apply Legal.foldl
    | intro _
    | dsimp only

theorem execI3cRegisterWrite_legal {s0 s : State} (h : Legal s0 s) (off : BitVec 24) (v : Word) :
    OutLegal s0 (execI3cRegisterWrite off v s) := by
  unfold execI3cRegisterWrite
  repeat' first
    | with_reducible assumption
    | with_reducible first | apply i3cUse_legal | apply setPtr_legal | apply accErr_legal | apply writeReg_legal | apply Legal.parts
    | simp only [Legal.lit]
    | with_reducible first | apply Legal.ite
    | split
    | refine Legal.of_next ‹_› ?_
    | with_reducible first | apply OutLegal.next | apply Legal.foldl
    | intro _
    | dsimp only

/-! Power. -/

theorem lowTrip_legal {s0 s : State} (h : Legal s0 s) :
    Legal s0 (lowTrip s) := by
  unfold lowTrip
  repeat' first
    | with_reducible assumption
    | with_reducible first | apply Legal.parts
    | simp only [Legal.lit]
    | with_reducible first | apply Legal.ite
    | split
    | with_reducible first | apply Legal.foldl
    | intro _
    | dsimp only

theorem execThermalSample_legal {s0 s : State} (h : Legal s0 s) (readings : List Nat) :
    OutLegal s0 (execThermalSample readings s) := by
  unfold execThermalSample
  repeat' first
    | with_reducible assumption
    | with_reducible first | apply wakeBy_legal | apply raiseSrc_legal | apply lowTrip_legal | apply Legal.parts
    | simp only [Legal.lit]
    | with_reducible first | apply Legal.ite
    | split
    | refine Legal.of_next ‹_› ?_
    | with_reducible first | apply OutLegal.next | apply Legal.foldl
    | intro _
    | dsimp only

theorem execThrottleStep_legal {s0 s : State} (h : Legal s0 s) (die : Nat) :
    OutLegal s0 (execThrottleStep die s) := by
  unfold execThrottleStep
  repeat' first
    | with_reducible assumption
    | with_reducible first | apply Legal.parts
    | simp only [Legal.lit]
    | with_reducible first | apply Legal.ite
    | split
    | refine Legal.of_next ‹_› ?_
    | with_reducible first | apply OutLegal.next
    | intro _
    | dsimp only

theorem execPowerWindow_legal {s0 s : State} (h : Legal s0 s) (watts : Nat) :
    OutLegal s0 (execPowerWindow watts s) := by
  unfold execPowerWindow
  repeat' first
    | with_reducible assumption
    | with_reducible first | apply Legal.parts
    | simp only [Legal.lit]
    | with_reducible first | apply Legal.ite
    | split
    | refine Legal.of_next ‹_› ?_
    | with_reducible first | apply OutLegal.next
    | intro _
    | dsimp only

theorem execThrottleNChange_legal {s0 s : State} (h : Legal s0 s) (level : Bool) :
    OutLegal s0 (execThrottleNChange level s) := by
  unfold execThrottleNChange
  repeat' first
    | with_reducible assumption
    | with_reducible first | apply Legal.parts
    | simp only [Legal.lit]
    | with_reducible first | apply Legal.ite
    | split
    | refine Legal.of_next ‹_› ?_
    | with_reducible first | apply OutLegal.next
    | intro _
    | dsimp only

theorem noteChoice_legal {s0 s : State} (h : Legal s0 s) (st : Nat) :
    Legal s0 (noteChoice s st) := by
  unfold noteChoice
  repeat' first
    | with_reducible assumption
    | with_reducible first | apply Legal.parts
    | simp only [Legal.lit]
    | with_reducible first | apply Legal.ite
    | split
    | with_reducible first | apply Legal.foldl
    | intro _
    | dsimp only

theorem narrowPorts_legal {s0 s : State} (h : Legal s0 s) :
    Legal s0 (narrowPorts s) := by
  unfold narrowPorts
  repeat' first
    | with_reducible assumption
    | with_reducible first | apply sendCtrl_legal | apply setPort_legal | apply Legal.parts
    | simp only [Legal.lit]
    | with_reducible first | apply Legal.ite
    | split
    | with_reducible first | apply Legal.foldl
    | intro _
    | dsimp only

theorem announceDark_legal {s0 s : State} (h : Legal s0 s) (hs : Nat) :
    Legal s0 (announceDark s hs) := by
  unfold announceDark
  repeat' first
    | with_reducible assumption
    | with_reducible first | apply enqueueOn_legal | apply Legal.parts
    | simp only [Legal.lit]
    | with_reducible first | apply Legal.ite
    | split
    | with_reducible first | apply Legal.foldl
    | intro _
    | dsimp only

theorem beginEntry_legal {s0 s : State} (h : Legal s0 s) (st : Nat) :
    Legal s0 (beginEntry s st) := by
  unfold beginEntry
  repeat' first
    | with_reducible assumption
    | with_reducible first | apply narrowPorts_legal | apply announceDark_legal | apply Legal.parts
    | simp only [Legal.lit]
    | with_reducible first | apply Legal.ite
    | split
    | with_reducible first | apply Legal.foldl
    | intro _
    | dsimp only

theorem execPowerPick_legal {s0 s : State} (h : Legal s0 s) :
    OutLegal s0 (execPowerPick s) := by
  unfold execPowerPick
  repeat' first
    | with_reducible assumption
    | with_reducible first | apply noteChoice_legal | apply beginEntry_legal | apply wakeBy_legal | apply Legal.parts
    | simp only [Legal.lit]
    | with_reducible first | apply Legal.ite
    | split
    | refine Legal.of_next ‹_› ?_
    | with_reducible first | apply OutLegal.next | apply Legal.foldl
    | intro _
    | dsimp only

theorem execEntryComplete_legal {s0 s : State} (h : Legal s0 s) :
    OutLegal s0 (execEntryComplete s) := by
  unfold execEntryComplete
  repeat' first
    | with_reducible assumption
    | with_reducible first | apply bump_legal | apply Legal.parts
    | simp only [Legal.lit]
    | with_reducible first | apply Legal.ite
    | split
    | refine Legal.of_next ‹_› ?_
    | with_reducible first | apply OutLegal.next | apply Legal.foldl
    | intro _
    | dsimp only

theorem darkPort_legal {s0 s : State} (h : Legal s0 s) (n : Nat) :
    Legal s0 (darkPort s n) := by
  unfold darkPort
  repeat' first
    | with_reducible assumption
    | with_reducible first | apply leaveSets_legal | apply setPort_legal | apply Legal.parts
    | simp only [Legal.lit]
    | with_reducible first | apply Legal.ite
    | split
    | with_reducible first | apply Legal.foldl
    | intro _
    | dsimp only

theorem execDarkLanesDown_legal {s0 s : State} (h : Legal s0 s) :
    OutLegal s0 (execDarkLanesDown s) := by
  unfold execDarkLanesDown
  repeat' first
    | with_reducible assumption
    | with_reducible first | apply darkPort_legal | apply setCore_legal | apply bump_legal | apply Legal.parts
    | simp only [Legal.lit]
    | with_reducible first | apply Legal.ite
    | split
    | refine Legal.of_next ‹_› ?_
    | with_reducible first | apply OutLegal.next | apply Legal.foldl
    | intro _
    | dsimp only

theorem execScheduledWake_legal {s0 s : State} (h : Legal s0 s) :
    OutLegal s0 (execScheduledWake s) := by
  unfold execScheduledWake
  repeat' first
    | with_reducible assumption
    | with_reducible first | apply wakeBy_legal | apply Legal.parts
    | simp only [Legal.lit]
    | with_reducible first | apply Legal.ite
    | split
    | refine Legal.of_next ‹_› ?_
    | with_reducible first | apply OutLegal.next | apply Legal.foldl
    | intro _
    | dsimp only

theorem widenPort_legal {s0 s : State} (h : Legal s0 s) (n : Nat) :
    Legal s0 (widenPort s n) := by
  unfold widenPort
  repeat' first
    | with_reducible assumption
    | with_reducible first | apply writeRetrain_legal | apply sendCtrl_legal | apply Legal.parts
    | simp only [Legal.lit]
    | with_reducible first | apply Legal.ite
    | split
    | with_reducible first | apply Legal.foldl
    | intro _
    | dsimp only

theorem litNow_legal {s0 s : State} (h : Legal s0 s) :
    Legal s0 (litNow s) := by
  unfold litNow
  repeat' first
    | with_reducible assumption
    | with_reducible first | apply Legal.parts
    | simp only [Legal.lit]
    | with_reducible first | apply Legal.ite
    | split
    | with_reducible first | apply Legal.foldl
    | intro _
    | dsimp only

theorem execWakeComplete_legal {s0 s : State} (h : Legal s0 s) : OutLegal s0 (execWakeComplete s) := by
  unfold execWakeComplete
  refine .next (.ite (fun _ => h) (fun _ => ?_))
  have hf := Legal.foldl (f := widenPort) (fun _ n k => widenPort_legal k n) (s.ports.map (·.1)) (litNow_legal h)
  exact .ite (fun _ => .ite (fun _ => send_legal (startPorts_legal hf) _) (fun _ => startPorts_legal hf)) (fun _ => hf)

theorem scrubbed_legal {s0 s : State} (h : Legal s0 s) (h_ : Nat) (chan : Nat) (line : Nat) :
    Legal s0 (scrubbed s h_ chan line) := by
  unfold scrubbed
  repeat' first
    | with_reducible assumption
    | with_reducible first | apply bumpWrap_legal | apply Legal.parts
    | simp only [Legal.lit]
    | with_reducible first | apply Legal.ite
    | split
    | with_reducible first | apply Legal.foldl
    | intro _
    | dsimp only

theorem execPatrolScrub_legal {s0 s : State} (h : Legal s0 s) (stack : Nat) (chan : Nat) (line : Nat) (find : ScrubFind) :
    OutLegal s0 (execPatrolScrub stack chan line find s) := by
  unfold execPatrolScrub
  repeat' first
    | with_reducible assumption
    | with_reducible first | apply scrubbed_legal | apply hbmCe_legal | apply zeroSlots_legal | apply logUe_legal | apply setPoison_legal
    | with_reducible first | apply Legal.parts
    | simp only [Legal.lit]
    | with_reducible first | apply Legal.ite
    | split
    | refine Legal.of_next ‹_› ?_
    | with_reducible first | apply OutLegal.next | apply Legal.foldl
    | intro _
    | dsimp only

theorem execGrainTopup_legal {s0 s : State} (h : Legal s0 s) (core : Nat) :
    OutLegal s0 (execGrainTopup core s) := by
  unfold execGrainTopup
  repeat' first
    | with_reducible assumption
    | with_reducible first | apply bumpWrap_legal | apply topUp_legal | apply Legal.parts
    | simp only [Legal.lit]
    | with_reducible first | apply Legal.ite
    | split
    | refine Legal.of_next ‹_› ?_
    | with_reducible first | apply OutLegal.next | apply Legal.foldl
    | intro _
    | dsimp only

theorem execHealthTestFail_legal {s0 s : State} (h : Legal s0 s) (core : Nat) :
    OutLegal s0 (execHealthTestFail core s) := by
  unfold execHealthTestFail
  repeat' first
    | with_reducible assumption
    | with_reducible first | apply setCore_legal | apply setField_legal | apply Legal.parts
    | simp only [Legal.lit]
    | with_reducible first | apply Legal.ite
    | split
    | refine Legal.of_next ‹_› ?_
    | with_reducible first | apply OutLegal.next | apply Legal.foldl
    | intro _
    | dsimp only

theorem execHealthTestPass_legal {s0 s : State} (h : Legal s0 s) (core : Nat) :
    OutLegal s0 (execHealthTestPass core s) := by
  unfold execHealthTestPass
  repeat' first
    | with_reducible assumption
    | with_reducible first | apply setCore_legal | apply Legal.parts
    | simp only [Legal.lit]
    | with_reducible first | apply Legal.ite
    | split
    | refine Legal.of_next ‹_› ?_
    | with_reducible first | apply OutLegal.next | apply Legal.foldl
    | intro _
    | dsimp only

theorem execStepWatchdogExpiry_legal {s0 s : State} (h : Legal s0 s) (ctx : Nat) :
    OutLegal s0 (execStepWatchdogExpiry ctx s) := by
  unfold execStepWatchdogExpiry
  repeat' first
    | with_reducible assumption
    | with_reducible first | apply chargeStep_legal | apply raiseAt_legal | apply Legal.parts
    | simp only [Legal.lit]
    | with_reducible first | apply Legal.ite
    | split
    | refine Legal.of_next ‹_› ?_
    | with_reducible first | apply OutLegal.next | apply Legal.foldl
    | intro _
    | dsimp only

/-! Server. -/

theorem askLine_legal {s0 s : State} (h : Legal s0 s) (a : Agent) (line : Nat) (k : HKind) :
    Legal s0 (askLine s a line k) := by
  unfold askLine
  repeat' first
    | with_reducible assumption
    | with_reducible first | apply post_legal | apply Legal.parts
    | simp only [Legal.lit]
    | with_reducible first | apply Legal.ite
    | split
    | with_reducible first | apply Legal.foldl
    | intro _
    | dsimp only

theorem askHost_legal {s0 s : State} (h : Legal s0 s) (k : Nat) (h_ : Nat) (q : HostReq) :
    Legal s0 (askHost s k h_ q) := by
  unfold askHost
  repeat' first
    | with_reducible assumption
    | with_reducible first | apply send_legal | apply Legal.parts
    | simp only [Legal.lit]
    | with_reducible first | apply Legal.ite
    | split
    | with_reducible first | apply Legal.foldl
    | intro _
    | dsimp only

theorem askFor_legal {s0 s : State} (h : Legal s0 s) (k : Nat) (h_ : Nat) (q : HostReq) :
    Legal s0 (askFor s k h_ q) := by
  unfold askFor
  repeat' first
    | with_reducible assumption
    | with_reducible first | apply askHost_legal | apply give_legal | apply Legal.parts
    | simp only [Legal.lit]
    | with_reducible first | apply Legal.ite
    | split
    | with_reducible first | apply Legal.foldl
    | intro _
    | dsimp only

theorem askShared_legal {s0 s : State} (h : Legal s0 s) (k : Nat) (x : CoreLine) :
    Legal s0 (askShared s k x) := by
  unfold askShared
  repeat' first
    | with_reducible assumption
    | with_reducible first | apply askFor_legal | apply askLine_legal | apply Legal.parts
    | simp only [Legal.lit]
    | with_reducible first | apply Legal.ite
    | split
    | with_reducible first | apply Legal.foldl
    | intro _
    | dsimp only

theorem askOwned_legal {s0 s : State} (h : Legal s0 s) (k : Nat) (x : CoreLine) :
    Legal s0 (askOwned s k x) := by
  unfold askOwned
  repeat' first
    | with_reducible assumption
    | with_reducible first | apply askFor_legal | apply askLine_legal | apply Legal.parts
    | simp only [Legal.lit]
    | with_reducible first | apply Legal.ite
    | split
    | with_reducible first | apply Legal.foldl
    | intro _
    | dsimp only

theorem touchHost_legal {s0 s : State} (h : Legal s0 s) (h_ : Nat) (l : HlcLine) :
    Legal s0 (touchHost s h_ l) := by
  unfold touchHost
  repeat' first
    | with_reducible assumption
    | with_reducible first | apply tickUse_legal | apply Legal.parts
    | simp only [Legal.lit]
    | with_reducible first | apply Legal.ite
    | split
    | with_reducible first | apply Legal.foldl
    | intro _
    | dsimp only

theorem touched_legal {s0 s : State} (h : Legal s0 s) (x : CoreLine) :
    Legal s0 (touched s x) := by
  unfold touched
  repeat' first
    | with_reducible assumption
    | with_reducible first | apply touchHost_legal | apply Legal.parts
    | simp only [Legal.lit]
    | with_reducible first | apply Legal.ite
    | split
    | with_reducible first | apply Legal.foldl
    | intro _
    | dsimp only

theorem putLine_legal {s0 s : State} (h : Legal s0 s) (k : Nat) (x : CoreLine) (off : Nat) (bs : List Byte) :
    Legal s0 (putLine s k x off bs) := by
  unfold putLine
  repeat' first
    | with_reducible assumption
    | with_reducible first | apply loseRsv_legal | apply wakeWatch_legal | apply touchHost_legal | apply setCopy_legal | apply taint_legal
    | with_reducible first | apply Legal.parts
    | simp only [Legal.lit]
    | with_reducible first | apply Legal.ite
    | split
    | with_reducible first | apply Legal.foldl
    | intro _
    | dsimp only

theorem setStores_legal {s0 s : State} (h : Legal s0 s) (k : Nat) (l : List (Nat × List Byte)) :
    Legal s0 (setStores s k l) := by
  unfold setStores
  repeat' first
    | with_reducible assumption
    | with_reducible first | apply Legal.parts
    | simp only [Legal.lit]
    | with_reducible first | apply Legal.ite
    | split
    | with_reducible first | apply Legal.foldl
    | intro _
    | dsimp only

theorem makeStore_legal {s0 s : State} (h : Legal s0 s) (k : Nat) (e : Nat × List Byte) :
    Legal s0 (makeStore s k e) := by
  unfold makeStore
  repeat' first
    | with_reducible assumption
    | with_reducible first | apply setStores_legal | apply putLine_legal | apply give_legal | apply askOwned_legal | apply Legal.parts
    | simp only [Legal.lit]
    | with_reducible first | apply Legal.ite
    | split
    | with_reducible first | apply Legal.foldl
    | intro _
    | dsimp only

theorem drainCore_legal {s0 s : State} (h : Legal s0 s) (k : Nat) :
    Legal s0 (drainCore s k) := by
  unfold drainCore
  repeat' first
    | with_reducible assumption
    | with_reducible first | apply makeStore_legal | apply setStores_legal | apply Legal.parts
    | simp only [Legal.lit]
    | with_reducible first | apply Legal.ite
    | split
    | with_reducible first | apply Legal.foldl
    | intro _
    | dsimp only

theorem drainAll_legal {s0 s : State} (h : Legal s0 s) :
    Legal s0 (drainAll s) := by
  unfold drainAll
  repeat' first
    | with_reducible assumption
    | with_reducible first | apply drainCore_legal | apply Legal.parts
    | simp only [Legal.lit]
    | with_reducible first | apply Legal.ite
    | split
    | with_reducible first | apply Legal.foldl
    | intro _
    | dsimp only

theorem ungive_legal {s0 s : State} (h : Legal s0 s) (k : Nat) :
    Legal s0 (ungive s k) := by
  unfold ungive
  repeat' first
    | with_reducible assumption
    | with_reducible first | apply Legal.parts
    | simp only [Legal.lit]
    | with_reducible first | apply Legal.ite
    | split
    | with_reducible first | apply Legal.foldl
    | intro _
    | dsimp only

theorem executed_legal {s0 s : State} (h : Legal s0 s) (k : Nat) :
    Legal s0 (executed s k) := by
  unfold executed
  repeat' first
    | with_reducible assumption
    | with_reducible first | apply give_legal | apply Legal.parts
    | simp only [Legal.lit]
    | with_reducible first | apply Legal.ite
    | split
    | with_reducible first | apply Legal.foldl
    | intro _
    | dsimp only

theorem corePieces_legal {s0 s : State} (h : Legal s0 s) (addr : Nat) (n : Nat) (write : Bool) :
    AccLegal s0 (corePieces s addr n write) := by
  unfold corePieces
  repeat' first
    | with_reducible assumption
    | with_reducible first | apply hostPieces_legal | apply Legal.parts
    | simp only [Legal.lit]
    | with_reducible first | apply Legal.ite | apply AccLegal.ite
    | split
    | refine Legal.of_bad ‹_› ?_ | refine Legal.of_ok ‹_› ?_ | refine Legal.of_wait ‹_› ?_
    | with_reducible first | apply AccLegal.ok | apply AccLegal.wait | apply AccLegal.bad | apply AccLegal.of_bind | apply AccLegal.foldl
    | intro _
    | dsimp only

theorem coreLoad_legal {s0 s : State} (h : Legal s0 s) (k : Nat) (ps : List (Nat × Nat)) :
    Legal s0 (coreLoad s k ps) := by
  unfold coreLoad
  repeat' first
    | with_reducible assumption
    | with_reducible first | apply askShared_legal | apply give_legal | apply touched_legal | apply Legal.parts
    | simp only [Legal.lit]
    | with_reducible first | apply Legal.ite
    | split
    | with_reducible first | apply Legal.foldl
    | intro _
    | dsimp only

theorem coreStore_legal {s0 s : State} (h : Legal s0 s) (k : Nat) (ps : List (Nat × Nat)) (bs : List Byte) :
    Legal s0 (coreStore s k ps bs) := by
  unfold coreStore
  repeat' first
    | with_reducible assumption
    | with_reducible first | apply executed_legal | apply logRsv_legal | apply makeStore_legal | apply Legal.parts
    | simp only [FstLegal.lit]
    | with_reducible first | apply Legal.ite
    | split
    | refine Legal.of_fst ‹_› ?_
    | with_reducible first | apply FstLegal.get | apply FstLegal.foldl | apply Legal.foldl
    | intro _
    | dsimp only

theorem coreAtomic_legal {s0 s : State} (h : Legal s0 s) (k : Nat) (a : Nat) (op : CoreOp) :
    Legal s0 (coreAtomic s k a op) := by
  unfold coreAtomic
  repeat' first
    | with_reducible assumption
    | with_reducible first | apply give_legal | apply putLine_legal | apply loseRsv_legal | apply askOwned_legal | apply askShared_legal
    | with_reducible first | apply Legal.parts
    | simp only [Legal.lit]
    | with_reducible first | apply Legal.ite
    | split
    | with_reducible first | apply Legal.foldl
    | intro _
    | dsimp only

theorem atomicDropped_legal {s0 s : State} (h : Legal s0 s) (k : Nat) (a : Nat) (op : CoreOp) :
    Legal s0 (atomicDropped s k a op) := by
  unfold atomicDropped
  repeat' first
    | with_reducible assumption
    | with_reducible first | apply askShared_legal | apply give_legal | apply logRsv_legal | apply Legal.parts
    | simp only [Legal.lit]
    | with_reducible first | apply Legal.ite
    | split
    | with_reducible first | apply Legal.foldl
    | intro _
    | dsimp only

theorem coreEvict_legal {s0 s : State} (h : Legal s0 s) (die : Nat) (x : CoreLine) :
    Legal s0 (coreEvict s die x) := by
  unfold coreEvict
  repeat' first
    | with_reducible assumption
    | with_reducible first | apply settleFills_legal | apply evictHost_legal | apply evictCopy_legal | apply Legal.parts
    | simp only [Legal.lit]
    | with_reducible first | apply Legal.ite
    | split
    | with_reducible first | apply Legal.foldl
    | intro _
    | dsimp only

theorem cacheable_legal {s0 s : State} (h : Legal s0 s) (k : Nat) (addr : Nat) (op : CoreOp) :
    Legal s0 (cacheable s k addr op) := by
  unfold cacheable
  repeat' first
    | with_reducible assumption
    | with_reducible first | apply corePieces_legal | apply give_legal | apply coreLoad_legal | apply coreStore_legal | apply executed_legal
    | with_reducible first | apply coreEvict_legal | apply atomicDropped_legal | apply coreAtomic_legal | apply Legal.parts
    | simp only [Legal.lit]
    | with_reducible first | apply Legal.ite | apply AccLegal.ite
    | split
    | refine Legal.of_bad ‹_› ?_ | refine Legal.of_ok ‹_› ?_ | refine Legal.of_wait ‹_› ?_
    | with_reducible first | apply AccLegal.ok | apply AccLegal.wait | apply AccLegal.bad | apply AccLegal.of_bind | apply AccLegal.foldl
    | with_reducible first | apply Legal.foldl
    | intro _
    | dsimp only

theorem uncached_legal {s0 s : State} (h : Legal s0 s) (k : Nat) (addr : Nat) (op : CoreOp) :
    Legal s0 (uncached s k addr op) := by
  unfold uncached
  repeat' first
    | with_reducible assumption
    | with_reducible first | apply accErr_legal | apply give_legal | apply executed_legal | apply barWrite_legal | apply ringBell_legal
    | with_reducible first | apply Legal.parts
    | simp only [Legal.lit]
    | with_reducible first | apply Legal.ite
    | split
    | with_reducible first | apply Legal.foldl
    | intro _
    | dsimp only

theorem coreAccess_legal {s0 s : State} (h : Legal s0 s) (k : Nat) (addr : Nat) (op : CoreOp) :
    Legal s0 (coreAccess s k addr op) := by
  unfold coreAccess
  repeat' first
    | with_reducible assumption
    | with_reducible first | apply cacheable_legal | apply uncached_legal | apply executed_legal | apply give_legal | apply Legal.parts
    | simp only [Legal.lit]
    | with_reducible first | apply Legal.ite
    | split
    | with_reducible first | apply Legal.foldl
    | intro _
    | dsimp only

theorem cacheFinds_legal {s0 s : State} (h : Legal s0 s) (die : Nat) (addr : Nat) (err : CacheErr) :
    Legal s0 (cacheFinds s die addr err) := by
  unfold cacheFinds
  repeat' first
    | with_reducible assumption
    | with_reducible first | apply countCE_legal | apply fog_legal | apply raiseSrc_legal | apply settleFills_legal | apply evictHost_legal
    | with_reducible first | apply wakeWatch_legal | apply taint_legal | apply setCopy_legal | apply Legal.parts
    | simp only [Legal.lit]
    | with_reducible first | apply Legal.ite
    | split
    | with_reducible first | apply Legal.foldl
    | intro _
    | dsimp only

theorem coreRuns_legal {s0 s : State} (h : Legal s0 s) (k addr : Nat) (op : CoreOp) : Legal s0 (coreRuns s k addr op) := by
  have hc : ∀ c, Legal s0 { s with coh := c } := fun _ => h.same rfl rfl rfl rfl rfl rfl rfl
  cases op
  case fence => exact Legal.ite (fun _ => executed_legal h k) (fun _ => h)
  case timer v => exact executed_legal (hc _) k
  case wfi =>
    unfold coreRuns
    refine executed_legal ?_ k
    split
    · exact hc _
    · exact hc _
  all_goals exact coreAccess_legal h k addr _

theorem execServerCoreInstruction_legal {s0 s : State} (h : Legal s0 s) (die : Nat) (core : Nat) (addr : Nat) (op : CoreOp) (err :
      CacheErr) :
    OutLegal s0 (execServerCoreInstruction die core addr op err s) := by
  unfold execServerCoreInstruction
  repeat' first
    | with_reducible assumption
    | with_reducible first | apply cacheFinds_legal | apply coreRuns_legal | apply drainCore_legal | apply ungive_legal | apply Legal.parts
    | simp only [Legal.lit]
    | with_reducible first | apply Legal.ite
    | split
    | refine Legal.of_next ‹_› ?_
    | with_reducible first | apply OutLegal.next | apply Legal.foldl
    | intro _
    | dsimp only

theorem execGrantMsg_legal {s0 s : State} (h : Legal s0 s) (a : Agent) (line : Nat) :
    OutLegal s0 (execGrantMsg a line s) := by
  unfold execGrantMsg
  repeat' first
    | with_reducible assumption
    | with_reducible first | apply drainAll_legal | apply takeGrant_legal | apply Legal.parts
    | simp only [Legal.lit]
    | with_reducible first | apply Legal.ite
    | split
    | refine Legal.of_next ‹_› ?_
    | with_reducible first | apply OutLegal.next | apply Legal.foldl
    | intro _
    | dsimp only

theorem execCxlCacheData_legal {s0 s : State} (h : Legal s0 s) (hpa : BitVec 52) (data : List Byte) (poison : Bool) :
    OutLegal s0 (execCxlCacheData hpa data poison s) := by
  unfold execCxlCacheData
  repeat' first
    | with_reducible assumption
    | with_reducible first | apply drainAll_legal | apply takeHostData_legal | apply Legal.parts
    | simp only [Legal.lit]
    | with_reducible first | apply Legal.ite
    | split
    | refine Legal.of_next ‹_› ?_
    | with_reducible first | apply OutLegal.next | apply Legal.foldl
    | intro _
    | dsimp only

theorem execTimerCompare_legal {s0 s : State} (h : Legal s0 s) (die : Nat) (core : Nat) :
    OutLegal s0 (execTimerCompare die core s) := by
  unfold execTimerCompare
  repeat' first
    | with_reducible assumption
    | with_reducible first | apply wakeBy_legal | apply Legal.parts
    | simp only [Legal.lit]
    | with_reducible first | apply Legal.ite
    | split
    | refine Legal.of_next ‹_› ?_
    | with_reducible first | apply OutLegal.next | apply Legal.foldl
    | intro _
    | dsimp only

/-! Security. -/

theorem spdmSend_legal {s0 s : State} (h : Legal s0 s) (code : Nat) (body : List Byte) :
    Legal s0 (spdmSend s code body) := by
  unfold spdmSend
  repeat' first
    | with_reducible assumption
    | with_reducible first | apply send_legal | apply Legal.parts
    | simp only [Legal.lit]
    | with_reducible first | apply Legal.ite
    | split
    | with_reducible first | apply Legal.foldl
    | intro _
    | dsimp only

theorem spdmError_legal {s0 s : State} (h : Legal s0 s) :
    Legal s0 (spdmError s) := by
  unfold spdmError
  repeat' first
    | with_reducible assumption
    | with_reducible first | apply spdmSend_legal | apply Legal.parts
    | simp only [Legal.lit]
    | with_reducible first | apply Legal.ite
    | split
    | with_reducible first | apply Legal.foldl
    | intro _
    | dsimp only

theorem setSpdm_legal {s0 s : State} (h : Legal s0 s) (k : Nat) :
    Legal s0 (setSpdm s k) := by
  unfold setSpdm
  repeat' first
    | with_reducible assumption
    | with_reducible first | apply Legal.parts
    | simp only [Legal.lit]
    | with_reducible first | apply Legal.ite
    | split
    | with_reducible first | apply Legal.foldl
    | intro _
    | dsimp only

theorem spdmAt_legal {s0 s : State} (h : Legal s0 s) (least : Nat) {f : State → State} (h_f : ∀ y0, Legal s0 y0 → Legal s0 (f y0)) :
    Legal s0 (spdmAt s least f) := by
  unfold spdmAt
  repeat' first
    | with_reducible assumption
    | with_reducible first | apply spdmError_legal | apply h_f | apply Legal.parts
    | simp only [Legal.lit]
    | with_reducible first | apply Legal.ite
    | split
    | with_reducible first | apply Legal.foldl
    | intro _
    | dsimp only

theorem execGetVersion_legal {s0 s : State} (h : Legal s0 s) :
    OutLegal s0 (execGetVersion s) := by
  unfold execGetVersion
  repeat' first
    | with_reducible assumption
    | with_reducible first | apply spdmAt_legal | apply spdmSend_legal | apply setSpdm_legal | apply Legal.parts
    | simp only [Legal.lit]
    | with_reducible first | apply Legal.ite
    | split
    | refine Legal.of_next ‹_› ?_
    | with_reducible first | apply OutLegal.next | apply Legal.foldl
    | intro _
    | dsimp only

theorem execGetCapabilities_legal {s0 s : State} (h : Legal s0 s) :
    OutLegal s0 (execGetCapabilities s) := by
  unfold execGetCapabilities
  repeat' first
    | with_reducible assumption
    | with_reducible first | apply spdmAt_legal | apply spdmSend_legal | apply setSpdm_legal | apply Legal.parts
    | simp only [Legal.lit]
    | with_reducible first | apply Legal.ite
    | split
    | refine Legal.of_next ‹_› ?_
    | with_reducible first | apply OutLegal.next | apply Legal.foldl
    | intro _
    | dsimp only

theorem execNegotiateAlgorithms_legal {s0 s : State} (h : Legal s0 s) :
    OutLegal s0 (execNegotiateAlgorithms s) := by
  unfold execNegotiateAlgorithms
  repeat' first
    | with_reducible assumption
    | with_reducible first | apply spdmAt_legal | apply spdmSend_legal | apply setSpdm_legal | apply Legal.parts
    | simp only [Legal.lit]
    | with_reducible first | apply Legal.ite
    | split
    | refine Legal.of_next ‹_› ?_
    | with_reducible first | apply OutLegal.next | apply Legal.foldl
    | intro _
    | dsimp only

theorem execGetDigests_legal {s0 s : State} (h : Legal s0 s) :
    OutLegal s0 (execGetDigests s) := by
  unfold execGetDigests
  repeat' first
    | with_reducible assumption
    | with_reducible first | apply spdmAt_legal | apply spdmSend_legal | apply Legal.parts
    | simp only [Legal.lit]
    | with_reducible first | apply Legal.ite
    | split
    | refine Legal.of_next ‹_› ?_
    | with_reducible first | apply OutLegal.next | apply Legal.foldl
    | intro _
    | dsimp only

theorem execGetCertificate_legal {s0 s : State} (h : Legal s0 s) (slot : Nat) :
    OutLegal s0 (execGetCertificate slot s) := by
  unfold execGetCertificate
  repeat' first
    | with_reducible assumption
    | with_reducible first | apply spdmAt_legal | apply spdmSend_legal | apply spdmError_legal | apply Legal.parts
    | simp only [Legal.lit]
    | with_reducible first | apply Legal.ite
    | split
    | refine Legal.of_next ‹_› ?_
    | with_reducible first | apply OutLegal.next | apply Legal.foldl
    | intro _
    | dsimp only

theorem execSpdmChallenge_legal {s0 s : State} (h : Legal s0 s) (nonce : List Byte) :
    OutLegal s0 (execSpdmChallenge nonce s) := by
  unfold execSpdmChallenge
  repeat' first
    | with_reducible assumption
    | with_reducible first | apply spdmAt_legal | apply useFree_legal | apply spdmSend_legal | apply Legal.parts
    | simp only [Legal.lit]
    | with_reducible first | apply Legal.ite
    | split
    | refine Legal.of_next ‹_› ?_
    | with_reducible first | apply OutLegal.next | apply Legal.foldl
    | intro _
    | dsimp only

theorem execGetMeasurements_legal {s0 s : State} (h : Legal s0 s) :
    OutLegal s0 (execGetMeasurements s) := by
  unfold execGetMeasurements
  repeat' first
    | with_reducible assumption
    | with_reducible first | apply spdmAt_legal | apply spdmSend_legal | apply Legal.parts
    | simp only [Legal.lit]
    | with_reducible first | apply Legal.ite
    | split
    | refine Legal.of_next ‹_› ?_
    | with_reducible first | apply OutLegal.next | apply Legal.foldl
    | intro _
    | dsimp only

theorem execKeyExchange_legal {s0 s : State} (h : Legal s0 s) :
    OutLegal s0 (execKeyExchange s) := by
  unfold execKeyExchange
  repeat' first
    | with_reducible assumption
    | with_reducible first | apply spdmAt_legal | apply useFree_legal | apply spdmSend_legal | apply setSpdm_legal | apply Legal.parts
    | simp only [Legal.lit]
    | with_reducible first | apply Legal.ite
    | split
    | refine Legal.of_next ‹_› ?_
    | with_reducible first | apply OutLegal.next | apply Legal.foldl
    | intro _
    | dsimp only

theorem execFinish_legal {s0 s : State} (h : Legal s0 s) :
    OutLegal s0 (execFinish s) := by
  unfold execFinish
  repeat' first
    | with_reducible assumption
    | with_reducible first | apply spdmAt_legal | apply spdmSend_legal | apply Legal.parts
    | simp only [Legal.lit]
    | with_reducible first | apply Legal.ite
    | split
    | refine Legal.of_next ‹_› ?_
    | with_reducible first | apply OutLegal.next | apply Legal.foldl
    | intro _
    | dsimp only

theorem execEndSession_legal {s0 s : State} (h : Legal s0 s) :
    OutLegal s0 (execEndSession s) := by
  unfold execEndSession
  repeat' first
    | with_reducible assumption
    | with_reducible first | apply spdmAt_legal | apply spdmSend_legal | apply spdmError_legal | apply Legal.parts
    | simp only [Legal.lit]
    | with_reducible first | apply Legal.ite
    | split
    | refine Legal.of_next ‹_› ?_
    | with_reducible first | apply OutLegal.next | apply Legal.foldl
    | intro _
    | dsimp only

theorem execQuote_legal {s0 s : State} (h : Legal s0 s) (nonce : List Byte) :
    OutLegal s0 (execQuote nonce s) := by
  unfold execQuote
  repeat' first
    | with_reducible assumption
    | with_reducible first | apply useFree_legal | apply send_legal | apply Legal.parts
    | simp only [Legal.lit]
    | with_reducible first | apply Legal.ite
    | split
    | refine Legal.of_next ‹_› ?_
    | with_reducible first | apply OutLegal.next | apply Legal.foldl
    | intro _
    | dsimp only

theorem execSetkey_legal {s0 s : State} (h : Legal s0 s) (key : List Byte) :
    OutLegal s0 (execSetkey key s) := by
  unfold execSetkey
  repeat' first
    | with_reducible assumption
    | with_reducible first | apply send_legal | apply secFail_legal | apply Legal.parts
    | simp only [Legal.lit]
    | with_reducible first | apply Legal.ite
    | split
    | refine Legal.of_next ‹_› ?_
    | with_reducible first | apply OutLegal.next | apply Legal.foldl
    | intro _
    | dsimp only

theorem loadTap_legal {s0 s : State} (h : Legal s0 s) (k : Nat) :
    Legal s0 (loadTap s k) := by
  unfold loadTap
  repeat' first
    | with_reducible assumption
    | with_reducible first | apply Legal.parts
    | simp only [Legal.lit]
    | with_reducible first | apply Legal.ite
    | split
    | with_reducible first | apply Legal.foldl
    | intro _
    | dsimp only

theorem unhold_legal {s0 s : State} (h : Legal s0 s) :
    Legal s0 (unhold s) := by
  unfold unhold
  repeat' first
    | with_reducible assumption
    | with_reducible first | apply Legal.parts
    | simp only [Legal.lit]
    | with_reducible first | apply Legal.ite
    | split
    | with_reducible first | apply Legal.foldl
    | intro _
    | dsimp only

theorem execIdcode_legal {s0 s : State} (h : Legal s0 s) :
    OutLegal s0 (execIdcode s) := by
  unfold execIdcode
  repeat' first
    | with_reducible assumption
    | with_reducible first | apply send_legal | apply unhold_legal | apply loadTap_legal | apply Legal.parts
    | simp only [Legal.lit]
    | with_reducible first | apply Legal.ite
    | split
    | refine Legal.of_next ‹_› ?_
    | with_reducible first | apply OutLegal.next | apply Legal.foldl
    | intro _
    | dsimp only

theorem execBypass_legal {s0 s : State} (h : Legal s0 s) :
    OutLegal s0 (execBypass s) := by
  unfold execBypass
  repeat' first
    | with_reducible assumption
    | with_reducible first | apply unhold_legal | apply loadTap_legal | apply Legal.parts
    | simp only [Legal.lit]
    | with_reducible first | apply Legal.ite
    | split
    | refine Legal.of_next ‹_› ?_
    | with_reducible first | apply OutLegal.next | apply Legal.foldl
    | intro _
    | dsimp only

theorem execHoldboot_legal {s0 s : State} (h : Legal s0 s) :
    OutLegal s0 (execHoldboot s) := by
  unfold execHoldboot
  repeat' first
    | with_reducible assumption
    | with_reducible first | apply loadTap_legal | apply Legal.parts
    | simp only [Legal.lit]
    | with_reducible first | apply Legal.ite
    | split
    | refine Legal.of_next ‹_› ?_
    | with_reducible first | apply OutLegal.next | apply Legal.foldl
    | intro _
    | dsimp only

theorem execChallenge_legal {s0 s : State} (h : Legal s0 s) :
    OutLegal s0 (execChallenge s) := by
  unfold execChallenge
  repeat' first
    | with_reducible assumption
    | with_reducible first | apply loadTap_legal | apply send_legal | apply useFree_legal | apply Legal.parts
    | simp only [Legal.lit]
    | with_reducible first | apply Legal.ite
    | split
    | refine Legal.of_next ‹_› ?_
    | with_reducible first | apply OutLegal.next | apply Legal.foldl
    | intro _
    | dsimp only

theorem execUnlock_legal {s0 s : State} (h : Legal s0 s) (req : UnlockReq) :
    OutLegal s0 (execUnlock req s) := by
  unfold execUnlock
  repeat' first
    | with_reducible assumption
    | with_reducible first | apply loadTap_legal | apply disown_legal | apply raiseSrc_legal | apply secFail_legal | apply Legal.parts
    | simp only [Legal.lit]
    | with_reducible first | apply Legal.ite
    | split
    | refine Legal.of_next ‹_› ?_
    | with_reducible first | apply OutLegal.next | apply Legal.foldl
    | intro _
    | dsimp only

theorem execDietest_legal {s0 s : State} (h : Legal s0 s) (die : Nat) :
    OutLegal s0 (execDietest die s) := by
  unfold execDietest
  repeat' first
    | with_reducible assumption
    | with_reducible first | apply loadTap_legal | apply send_legal | apply Legal.parts
    | simp only [Legal.lit]
    | with_reducible first | apply Legal.ite
    | split
    | refine Legal.of_next ‹_› ?_
    | with_reducible first | apply OutLegal.next | apply Legal.foldl
    | intro _
    | dsimp only

theorem bset_or (b : BitVec 16) (k i : Nat) (h : bit b i = true) : bit (b ||| BitVec.ofNat 16 (2 ^ k)) i = true := by
  simp only [bit] at h ⊢
  rw [BitVec.getLsbD_or, h, Bool.true_or]

theorem execReachprog_legal {s0 s : State} (h : Legal s0 s) (source : Nat) (val readBack : BitVec 3) :
    OutLegal s0 (execReachprog source val readBack s) := by
  unfold execReachprog
  dsimp only
  refine .next ?_
  split
  · exact loadTap_legal h 7
  · rename_i hn
    have hb : bit (loadTap s 7).fuses.bset source = false := by
      simp only [Bool.or_eq_true, not_or, Bool.not_eq_true] at hn
      exact hn.2.1.1.1.2
    have hv : ∀ v i, bit (loadTap s 7).fuses.bset i = true →
        nth ((loadTap s 7).fuses.bval.set source v) i = nth (loadTap s 7).fuses.bval i := by
      intro v i hi
      have : source ≠ i := by
        intro he
        rw [he, hi] at hb
        cases hb
      simp [nth, this]
    refine blow_legal (loadTap_legal h 7) ?_
    split
    · exact { FusesGrow.refl _ with bset := fun i hi => bset_or _ _ _ hi, bval := hv _ }
    · exact { FusesGrow.refl _ with bval := hv _ }

/-! Wires. -/

theorem countWire_legal {s0 s : State} (h : Legal s0 s) (edge : Nat) (group : Nat) (wire : Nat) (dir : Bool) :
    Legal s0 (countWire s edge group wire dir) := by
  unfold countWire
  repeat' first
    | with_reducible assumption
    | with_reducible first | apply setField_legal | apply countCE_legal | apply Legal.parts
    | simp only [Legal.lit]
    | with_reducible first | apply Legal.ite
    | split
    | with_reducible first | apply Legal.foldl
    | intro _
    | dsimp only

theorem logBeat_legal {s0 s : State} (h : Legal s0 s) (edge : Nat) (group : Nat) (dir : Bool) (header : Bool) :
    Legal s0 (logBeat s edge group dir header) := by
  unfold logBeat
  repeat' first
    | with_reducible assumption
    | with_reducible first | apply bump_legal | apply setField_legal | apply Legal.parts
    | simp only [Legal.lit]
    | with_reducible first | apply Legal.ite
    | split
    | with_reducible first | apply Legal.foldl
    | intro _
    | dsimp only

theorem meetBeat_legal {s0 s : State} (h : Legal s0 s) (w : WireErr) :
    Legal s0 (meetBeat s w) := by
  unfold meetBeat
  repeat' first
    | with_reducible assumption
    | with_reducible first | apply countWire_legal | apply logBeat_legal | apply fog_legal | apply Legal.parts
    | simp only [Legal.lit]
    | with_reducible first | apply Legal.ite
    | split
    | with_reducible first | apply Legal.foldl
    | intro _
    | dsimp only

theorem memSpoils_legal {s0 s : State} (h : Legal s0 s) (a : Nat) :
    Legal s0 (memSpoils s a) := by
  unfold memSpoils
  repeat' first
    | with_reducible assumption
    | with_reducible first | apply zeroSlots_legal | apply setPoison_legal | apply Legal.parts
    | simp only [Legal.lit]
    | with_reducible first | apply Legal.ite
    | split
    | with_reducible first | apply Legal.foldl
    | intro _
    | dsimp only

theorem memCorrects_legal {s0 s : State} (h : Legal s0 s) (a : Nat) :
    Legal s0 (memCorrects s a) := by
  unfold memCorrects
  repeat' first
    | with_reducible assumption
    | with_reducible first | apply hbmCe_legal | apply Legal.parts
    | simp only [Legal.lit]
    | with_reducible first | apply Legal.ite
    | split
    | with_reducible first | apply Legal.foldl
    | intro _
    | dsimp only

theorem entryCorrects_legal {s0 s : State} (h : Legal s0 s) (line : Nat) :
    Legal s0 (entryCorrects s line) := by
  unfold entryCorrects
  repeat' first
    | with_reducible assumption
    | with_reducible first | apply countCE_legal | apply Legal.parts
    | simp only [Legal.lit]
    | with_reducible first | apply Legal.ite
    | split
    | with_reducible first | apply Legal.foldl
    | intro _
    | dsimp only

theorem logMet_legal {s0 s t : State} (h : Legal s0 s) (h_t : Legal s0 t) (line : Nat) :
    Legal s0 (logMet s t line) := by
  unfold logMet
  repeat' first
    | with_reducible assumption
    | with_reducible first | apply logUe_legal | apply Legal.parts
    | simp only [Legal.lit]
    | with_reducible first | apply Legal.ite
    | split
    | with_reducible first | apply Legal.foldl
    | intro _
    | dsimp only

theorem spoilt_legal {s0 s : State} (h : Legal s0 s) (line : Nat) {f : State → State} (h_f : ∀ y0, Legal s0 y0 → Legal s0 (f y0)) :
    Legal s0 (spoilt s line f) := by
  unfold spoilt
  repeat' first
    | with_reducible assumption
    | with_reducible first | apply setPoison_legal | apply setReg_legal | apply h_f | apply Legal.parts
    | simp only [Legal.lit]
    | with_reducible first | apply Legal.ite
    | split
    | with_reducible first | apply Legal.foldl
    | intro _
    | dsimp only

theorem unitFinds_legal {s0 : State} (dies : List Nat) : ∀ (err : HwErr) {s : State} (_ : Legal s0 s) {f : State → State}
    (_ : ∀ t, Legal s0 t → Legal s0 (f t)), Legal s0 (unitFinds dies s f err) := by
  intro err
  induction err with
  | both a b iha ihb =>
    intro s h f hf
    unfold unitFinds
    exact iha h (fun _ k => ihb k hf)
  | wire w =>
    intro s h f hf
    have k := meetBeat_legal h w
    unfold unitFinds
    exact .ite (fun _ => hf _ h) (fun _ => .ite (fun _ => k) (fun _ => .ite (fun _ => spoilt_legal k _ hf) (fun _ => hf _ k)))
  | memCe a => exact fun h _ hf => hf _ (memCorrects_legal h a)
  | memUe a =>
    intro s h f hf
    have k := memSpoils_legal h a
    unfold unitFinds
    exact .ite (fun _ => hf _ k) (fun _ => logMet_legal h (hf _ k) _)
  | dirCe a => exact fun h _ hf => hf _ (entryCorrects_legal h _)
  | dirUe a => exact fun h _ _ => homeFog_legal h _ _ _
  | _ => exact fun h _ hf => hf _ h

theorem meetUnit_legal {s0 s : State} (h : Legal s0 s) (dies : List Nat) (err : HwErr) {f : State → State} (h_f : ∀ y0, Legal s0 y0 → Legal
      s0 (f y0)) :
    Legal s0 (meetUnit dies err f s) := by
  unfold meetUnit
  repeat' first
    | with_reducible assumption
    | with_reducible first | apply unitFinds_legal | apply h_f | apply Legal.parts
    | simp only [Legal.lit]
    | with_reducible first | apply Legal.ite
    | split
    | with_reducible first | apply Legal.foldl
    | intro _
    | dsimp only

theorem execLoupeCallStart_legal {s0 s : State} (h : Legal s0 s) (n : Nat) (err : HwErr) :
    OutLegal s0 (execLoupeCallStart n err s) := by
  unfold execLoupeCallStart
  repeat' first
    | with_reducible assumption
    | with_reducible first | apply meetUnit_legal | apply unitLoupeCallStart_legal | apply Legal.parts
    | simp only [Legal.lit]
    | with_reducible first | apply Legal.ite
    | split
    | refine Legal.of_next ‹_› ?_
    | with_reducible first | apply OutLegal.next | apply Legal.foldl
    | intro _
    | dsimp only

theorem execLoupeCallComplete_legal {s0 s : State} (h : Legal s0 s) (n : Nat) (err : HwErr) :
    OutLegal s0 (execLoupeCallComplete n s err) := by
  unfold execLoupeCallComplete
  repeat' first
    | with_reducible assumption
    | with_reducible first | apply meetUnit_legal | apply unitLoupeCallComplete_legal | apply Legal.parts
    | simp only [Legal.lit]
    | with_reducible first | apply Legal.ite
    | split
    | refine Legal.of_next ‹_› ?_
    | with_reducible first | apply OutLegal.next | apply Legal.foldl
    | intro _
    | dsimp only

theorem execFixerCallStart_legal {s0 s : State} (h : Legal s0 s) (err : HwErr) :
    OutLegal s0 (execFixerCallStart err s) := by
  unfold execFixerCallStart
  repeat' first
    | with_reducible assumption
    | with_reducible first | apply meetUnit_legal | apply unitFixerCallStart_legal | apply Legal.parts
    | simp only [Legal.lit]
    | with_reducible first | apply Legal.ite
    | split
    | refine Legal.of_next ‹_› ?_
    | with_reducible first | apply OutLegal.next | apply Legal.foldl
    | intro _
    | dsimp only

theorem execPassOneDone_legal {s0 s : State} (h : Legal s0 s) (err : HwErr) :
    OutLegal s0 (execPassOneDone err s) := by
  unfold execPassOneDone
  repeat' first
    | with_reducible assumption
    | with_reducible first | apply meetUnit_legal | apply unitPassOneDone_legal | apply Legal.parts
    | simp only [Legal.lit]
    | with_reducible first | apply Legal.ite
    | split
    | refine Legal.of_next ‹_› ?_
    | with_reducible first | apply OutLegal.next | apply Legal.foldl
    | intro _
    | dsimp only

theorem execFixerCallComplete_legal {s0 s : State} (h : Legal s0 s) (err : HwErr) :
    OutLegal s0 (execFixerCallComplete err s) := by
  unfold execFixerCallComplete
  repeat' first
    | with_reducible assumption
    | with_reducible first | apply meetUnit_legal | apply unitFixerCallComplete_legal | apply Legal.parts
    | simp only [Legal.lit]
    | with_reducible first | apply Legal.ite
    | split
    | refine Legal.of_next ‹_› ?_
    | with_reducible first | apply OutLegal.next | apply Legal.foldl
    | intro _
    | dsimp only

theorem execCollectiveStart_legal {s0 s : State} (h : Legal s0 s) (grp : Nat) (err : HwErr) :
    OutLegal s0 (execCollectiveStart grp err s) := by
  unfold execCollectiveStart
  repeat' first
    | with_reducible assumption
    | with_reducible first | apply meetUnit_legal | apply unitCollectiveStart_legal | apply Legal.parts
    | simp only [Legal.lit]
    | with_reducible first | apply Legal.ite
    | split
    | refine Legal.of_next ‹_› ?_
    | with_reducible first | apply OutLegal.next | apply Legal.foldl
    | intro _
    | dsimp only

theorem execCollseg_legal {s0 s : State} (h : Legal s0 s) (src : Option Nat) (err : HwErr) :
    OutLegal s0 (execCollseg src err s) := by
  unfold execCollseg
  repeat' first
    | with_reducible assumption
    | with_reducible first | apply meetUnit_legal | apply unitCollseg_legal | apply Legal.parts
    | simp only [Legal.lit]
    | with_reducible first | apply Legal.ite
    | split
    | refine Legal.of_next ‹_› ?_
    | with_reducible first | apply OutLegal.next | apply Legal.foldl
    | intro _
    | dsimp only

theorem execCollsegAccept_legal {s0 s : State} (h : Legal s0 s) (n : Nat) (err : HwErr) :
    OutLegal s0 (execCollsegAccept n s err) := by
  unfold execCollsegAccept
  repeat' first
    | with_reducible assumption
    | with_reducible first | apply meetUnit_legal | apply unitCollsegAccept_legal | apply Legal.parts
    | simp only [Legal.lit]
    | with_reducible first | apply Legal.ite
    | split
    | refine Legal.of_next ‹_› ?_
    | with_reducible first | apply OutLegal.next | apply Legal.foldl
    | intro _
    | dsimp only

theorem execCollectiveComplete_legal {s0 s : State} (h : Legal s0 s) (grp : Nat) (err : HwErr) :
    OutLegal s0 (execCollectiveComplete grp s err) := by
  unfold execCollectiveComplete
  repeat' first
    | with_reducible assumption
    | with_reducible first | apply meetUnit_legal | apply unitCollectiveComplete_legal | apply Legal.parts
    | simp only [Legal.lit]
    | with_reducible first | apply Legal.ite
    | split
    | refine Legal.of_next ‹_› ?_
    | with_reducible first | apply OutLegal.next | apply Legal.foldl
    | intro _
    | dsimp only

theorem execCopy_legal {s0 s : State} (h : Legal s0 s) (ring : Nat) (err : HwErr) :
    OutLegal s0 (execCopy ring s err) := by
  unfold execCopy
  repeat' first
    | with_reducible assumption
    | with_reducible first | apply meetUnit_legal | apply unitCopy_legal | apply Legal.parts
    | simp only [Legal.lit]
    | with_reducible first | apply Legal.ite
    | split
    | refine Legal.of_next ‹_› ?_
    | with_reducible first | apply OutLegal.next | apply Legal.foldl
    | intro _
    | dsimp only

theorem execSealRange_legal {s0 s : State} (h : Legal s0 s) (ring : Nat) (err : HwErr) :
    OutLegal s0 (execSealRange ring s err) := by
  unfold execSealRange
  repeat' first
    | with_reducible assumption
    | with_reducible first | apply meetUnit_legal | apply unitSealRange_legal | apply Legal.parts
    | simp only [Legal.lit]
    | with_reducible first | apply Legal.ite
    | split
    | refine Legal.of_next ‹_› ?_
    | with_reducible first | apply OutLegal.next | apply Legal.foldl
    | intro _
    | dsimp only

theorem execSealVerify_legal {s0 s : State} (h : Legal s0 s) (ring : Nat) (err : HwErr) :
    OutLegal s0 (execSealVerify ring s err) := by
  unfold execSealVerify
  repeat' first
    | with_reducible assumption
    | with_reducible first | apply meetUnit_legal | apply unitSealVerify_legal | apply Legal.parts
    | simp only [Legal.lit]
    | with_reducible first | apply Legal.ite
    | split
    | refine Legal.of_next ‹_› ?_
    | with_reducible first | apply OutLegal.next | apply Legal.foldl
    | intro _
    | dsimp only

theorem execWatchedLineInvalidate_legal {s0 s : State} (h : Legal s0 s) (ring : Nat) (err : HwErr) :
    OutLegal s0 (execWatchedLineInvalidate ring err s) := by
  unfold execWatchedLineInvalidate
  repeat' first
    | with_reducible assumption
    | with_reducible first | apply meetUnit_legal | apply readWatched_legal | apply Legal.parts
    | simp only [Legal.lit]
    | with_reducible first | apply Legal.ite
    | split
    | refine Legal.of_next ‹_› ?_
    | with_reducible first | apply OutLegal.next | apply Legal.foldl
    | intro _
    | dsimp only

theorem execDescriptorFetch_legal {s0 s : State} (h : Legal s0 s) (ring : Nat) (err : HwErr) :
    OutLegal s0 (execDescriptorFetch ring s err) := by
  unfold execDescriptorFetch
  repeat' first
    | with_reducible assumption
    | with_reducible first | apply meetUnit_legal | apply fetchDesc_legal | apply Legal.parts
    | simp only [Legal.lit]
    | with_reducible first | apply Legal.ite
    | split
    | refine Legal.of_next ‹_› ?_
    | with_reducible first | apply OutLegal.next | apply Legal.foldl
    | intro _
    | dsimp only

theorem execUioRead_legal {s0 s : State} (h : Legal s0 s) (rid : Nat) (hpa : BitVec 52) (len : Nat) (err : HwErr) :
    OutLegal s0 (execUioRead hpa len s rid err) := by
  unfold execUioRead
  repeat' first
    | with_reducible assumption
    | with_reducible first | apply meetUnit_legal | apply uioRead_legal | apply Legal.parts
    | simp only [Legal.lit]
    | with_reducible first | apply Legal.ite
    | split
    | refine Legal.of_next ‹_› ?_
    | with_reducible first | apply OutLegal.next | apply Legal.foldl
    | intro _
    | dsimp only

theorem execRd_legal {s0 s : State} (h : Legal s0 s) (src : Option Nat) (err : HwErr) :
    OutLegal s0 (execRd src s err) := by
  unfold execRd
  repeat' first
    | with_reducible assumption
    | with_reducible first | apply meetUnit_legal | apply unitRd_legal | apply Legal.parts
    | simp only [Legal.lit]
    | with_reducible first | apply Legal.ite
    | split
    | refine Legal.of_next ‹_› ?_
    | with_reducible first | apply OutLegal.next | apply Legal.foldl
    | intro _
    | dsimp only

theorem onWay_legal {s0 : State} (load : Bool) (die : Nat) : ∀ (err : HwErr) {s : State} (_ : Legal s0 s),
    WayLegal s0 (onWay load die s err) := by
  intro err
  induction err with
  | both a b iha ihb =>
    intro s h
    unfold onWay
    split
    · rename_i heq
      have k := Legal.of_way1 heq (iha h)
      split
      · rename_i heq2
        exact .some (Legal.of_way1 heq2 (ihb k)) (Legal.of_way2 heq2 (ihb k))
      · exact ihb k
    · exact iha h
  | wire w =>
    intro s h
    have k := meetBeat_legal h w
    unfold onWay
    split
    · exact .some h h
    · dsimp only
      split
      · exact .none k
      · exact .some k k
  | memCe a => exact fun h => .some (memCorrects_legal h a) (memCorrects_legal h a)
  | memUe a => exact fun h => .some (memSpoils_legal h a) (memSpoils_legal h a)
  | dirCe a => exact fun h => .some (entryCorrects_legal h _) (entryCorrects_legal h _)
  | dirUe a => exact fun h => .none (homeFog_legal h _ _ _)
  | _ => exact fun h => .some h h

theorem runOnWay_legal {s0 s : State} (h : Legal s0 s) (p : ProgRef) (e : Eng) (err : HwErr) (opc : Nat) {eff : Option Nat →
  State →
    Prog → OpSlot → Acc (OpPhase × Nat)} (h_eff : ∀ y0 y1 y2 y3, Legal s0 y1 → AccLegal s0 (eff y0 y1 y2 y3)) :
    Legal s0 (runOnWay s p e err opc eff) := by
  unfold runOnWay
  repeat' first
    | with_reducible assumption
    | with_reducible first | apply onWay_legal | apply runCopy_legal | apply logMet_legal | apply h_eff | apply Legal.parts
    | simp only [Legal.lit]
    | with_reducible first | apply Legal.ite | apply AccLegal.ite
    | split
    | refine Legal.of_bad ‹_› ?_ | refine Legal.of_ok ‹_› ?_ | refine Legal.of_wait ‹_› ?_ | refine Legal.of_way1 ‹_› ?_
    | refine Legal.of_way2 ‹_› ?_
    | with_reducible first | apply AccLegal.ok | apply AccLegal.wait | apply AccLegal.bad | apply AccLegal.of_bind | apply AccLegal.foldl
    | with_reducible first | apply WayLegal.some | apply WayLegal.none | apply Legal.foldl
    | intro _
    | dsimp only

theorem execLoad_legal {s0 s : State} (h : Legal s0 s) (p : ProgRef) (eng : Eng) (err : HwErr) :
    OutLegal s0 (execLoad p eng err s) := by
  unfold execLoad
  repeat' first
    | with_reducible assumption
    | with_reducible first | apply runOnWay_legal | apply loadEff_legal | apply Legal.parts
    | simp only [Legal.lit]
    | with_reducible first | apply Legal.ite | apply AccLegal.ite
    | split
    | refine Legal.of_bad ‹_› ?_ | refine Legal.of_next ‹_› ?_ | refine Legal.of_ok ‹_› ?_ | refine Legal.of_wait ‹_› ?_
    | with_reducible first | apply AccLegal.ok | apply AccLegal.wait | apply AccLegal.bad | apply AccLegal.of_bind | apply AccLegal.foldl
    | with_reducible first | apply OutLegal.next | apply Legal.foldl
    | intro _
    | dsimp only

theorem execStore_legal {s0 s : State} (h : Legal s0 s) (p : ProgRef) (eng : Eng) (err : HwErr) :
    OutLegal s0 (execStore p eng err s) := by
  unfold execStore
  repeat' first
    | with_reducible assumption
    | with_reducible first | apply runOnWay_legal | apply storeEff_legal | apply Legal.parts
    | simp only [Legal.lit]
    | with_reducible first | apply Legal.ite | apply AccLegal.ite
    | split
    | refine Legal.of_bad ‹_› ?_ | refine Legal.of_next ‹_› ?_ | refine Legal.of_ok ‹_› ?_ | refine Legal.of_wait ‹_› ?_
    | with_reducible first | apply AccLegal.ok | apply AccLegal.wait | apply AccLegal.bad | apply AccLegal.of_bind | apply AccLegal.foldl
    | with_reducible first | apply OutLegal.next | apply Legal.foldl
    | intro _
    | dsimp only

theorem spoilWrite_legal {s0 s : State} (h : Legal s0 s) (r : HReq) :
    Legal s0 (spoilWrite s r) := by
  unfold spoilWrite
  repeat' first
    | with_reducible assumption
    | with_reducible first | apply withMsgs_legal | apply setPoison_legal | apply Legal.parts
    | simp only [Legal.lit]
    | with_reducible first | apply Legal.ite
    | split
    | with_reducible first | apply Legal.foldl
    | intro _
    | dsimp only

theorem homeTakes_legal {s0 s : State} (h : Legal s0 s) (line : Nat) (err : HomeErr) (is : HReq → Bool) :
    Legal s0 (homeTakes s line err is) := by
  unfold homeTakes
  repeat' first
    | with_reducible assumption
    | with_reducible first | apply deliver_legal | apply entryCorrects_legal | apply homeFog_legal | apply memCorrects_legal | apply memSpoils_legal
    | with_reducible first | apply logMet_legal | apply meetBeat_legal | apply spoilWrite_legal | apply spoilt_legal | apply Legal.parts
    | simp only [Legal.lit]
    | with_reducible first | apply Legal.ite
    | split
    | with_reducible first | apply Legal.foldl
    | intro _
    | dsimp only

theorem execRds_legal {s0 s : State} (h : Legal s0 s) (a : Agent) (line : Nat) (err : HomeErr) :
    OutLegal s0 (execRds a line err s) := by
  unfold execRds
  repeat' first
    | with_reducible assumption
    | with_reducible first | apply homeTakes_legal | apply Legal.parts
    | simp only [Legal.lit]
    | with_reducible first | apply Legal.ite
    | split
    | refine Legal.of_next ‹_› ?_
    | with_reducible first | apply OutLegal.next | apply Legal.foldl
    | intro _
    | dsimp only

theorem execRdx_legal {s0 s : State} (h : Legal s0 s) (a : Agent) (line : Nat) (err : HomeErr) :
    OutLegal s0 (execRdx a line s err) := by
  unfold execRdx
  repeat' first
    | with_reducible assumption
    | with_reducible first | apply homeTakes_legal | apply Legal.parts
    | simp only [Legal.lit]
    | with_reducible first | apply Legal.ite
    | split
    | refine Legal.of_next ‹_› ?_
    | with_reducible first | apply OutLegal.next | apply Legal.foldl
    | intro _
    | dsimp only

theorem execUpg_legal {s0 s : State} (h : Legal s0 s) (a : Agent) (line : Nat) (err : HomeErr) :
    OutLegal s0 (execUpg a line s err) := by
  unfold execUpg
  repeat' first
    | with_reducible assumption
    | with_reducible first | apply homeTakes_legal | apply Legal.parts
    | simp only [Legal.lit]
    | with_reducible first | apply Legal.ite
    | split
    | refine Legal.of_next ‹_› ?_
    | with_reducible first | apply OutLegal.next | apply Legal.foldl
    | intro _
    | dsimp only

theorem execRdcur_legal {s0 s : State} (h : Legal s0 s) (line : Nat) (err : HomeErr) :
    OutLegal s0 (execRdcur line s err) := by
  unfold execRdcur
  repeat' first
    | with_reducible assumption
    | with_reducible first | apply homeTakes_legal | apply Legal.parts
    | simp only [Legal.lit]
    | with_reducible first | apply Legal.ite
    | split
    | refine Legal.of_next ‹_› ?_
    | with_reducible first | apply OutLegal.next | apply Legal.foldl
    | intro _
    | dsimp only

theorem execWrinv_legal {s0 s : State} (h : Legal s0 s) (line : Nat) (err : HomeErr) :
    OutLegal s0 (execWrinv line s err) := by
  unfold execWrinv
  repeat' first
    | with_reducible assumption
    | with_reducible first | apply homeTakes_legal | apply Legal.parts
    | simp only [Legal.lit]
    | with_reducible first | apply Legal.ite
    | split
    | refine Legal.of_next ‹_› ?_
    | with_reducible first | apply OutLegal.next | apply Legal.foldl
    | intro _
    | dsimp only

theorem execAth_legal {s0 s : State} (h : Legal s0 s) (line : Nat) (err : HomeErr) :
    OutLegal s0 (execAth line s err) := by
  unfold execAth
  repeat' first
    | with_reducible assumption
    | with_reducible first | apply homeTakes_legal | apply Legal.parts
    | simp only [Legal.lit]
    | with_reducible first | apply Legal.ite
    | split
    | refine Legal.of_next ‹_› ?_
    | with_reducible first | apply OutLegal.next | apply Legal.foldl
    | intro _
    | dsimp only

theorem wbFinds_legal {s0 s : State} (h : Legal s0 s) (a : Agent) (line : Nat) (err : HomeErr) :
    FstLegal s0 (wbFinds s a line err) := by
  unfold wbFinds
  repeat' first
    | with_reducible assumption
    | with_reducible first | apply meetBeat_legal | apply entryCorrects_legal | apply homeFog_legal | apply Legal.parts
    | simp only [FstLegal.lit]
    | simp only [Legal.lit]
    | with_reducible first | apply Legal.ite
    | split
    | refine Legal.of_fst ‹_› ?_
    | with_reducible first | apply FstLegal.get | apply FstLegal.foldl | apply Legal.foldl
    | intro _
    | dsimp only

theorem execWb_legal {s0 s : State} (h : Legal s0 s) (a : Agent) (line : Nat) (err : HomeErr) :
    OutLegal s0 (execWb a line err s) := by
  unfold execWb
  repeat' first
    | with_reducible assumption
    | with_reducible first | apply wbFinds_legal | apply withMsgs_legal | apply applyWb_legal | apply taint_legal | apply Legal.parts
    | simp only [FstLegal.lit]
    | simp only [Legal.lit]
    | with_reducible first | apply Legal.ite
    | split
    | refine Legal.of_fst ‹_› ?_ | refine Legal.of_next ‹_› ?_
    | with_reducible first | apply OutLegal.next | apply FstLegal.get | apply FstLegal.foldl | apply Legal.foldl
    | intro _
    | dsimp only

/-! Tick. -/

theorem tickClocks_legal {s0 s : State} (h : Legal s0 s) :
    Legal s0 (tickClocks s) := by
  unfold tickClocks
  repeat' first
    | with_reducible assumption
    | with_reducible first | apply Legal.parts
    | simp only [Legal.lit]
    | with_reducible first | apply Legal.ite
    | split
    | with_reducible first | apply Legal.foldl
    | intro _
    | dsimp only

theorem tick_legal {s0 s : State} (h : Legal s0 s) :
    Legal s0 (tick s) := by
  unfold tick
  repeat' first
    | with_reducible assumption
    | with_reducible first | apply tickClocks_legal | apply flushErrs_legal | apply settleReads_legal | apply Legal.parts
    | simp only [Legal.lit]
    | with_reducible first | apply Legal.ite
    | split
    | with_reducible first | apply Legal.foldl
    | intro _
    | dsimp only

end Sys2Proof.Machine
end

