-- ==== Sys2Proof/Laws/Reads.lean ====
section
/-! SUPPORT. Accesses that answer: what each leaves unchanged. -/

namespace Sys2Proof.Laws

open Sys2Proof.Machine

/-- What a read may change: cached translations, the count of free values, registers that count and log, and the directory, which learns
of a copy that its holder dropped in silence (R375). -/
def OnlyReads (s t : State) : Prop :=
  t = { s with tlb := t.tlb, free := t.free, regs := t.regs, coh := { s.coh with dir := t.coh.dir } } ∧ s.free ≤ t.free
theorem OnlyReads.refl (s : State) : OnlyReads s s := ⟨rfl, Nat.le_refl _⟩
theorem OnlyReads.trans {a b c : State} (h : OnlyReads a b) (g : OnlyReads b c) : OnlyReads a c := by
  refine ⟨?_, Nat.le_trans h.2 g.2⟩
  have h1 := h.1; have g1 := g.1
  rw [g1, h1]

/-- An access that waits on none of what a fold of reads does. -/
theorem OnlyReads.foldl {α : Type} {f : State → α → State} (hf : ∀ s a, OnlyReads s (f s a)) : ∀ (l : List α) (s : State), OnlyReads s (l.foldl f s) := by
  intro l
  induction l with
  | nil => intro s; exact OnlyReads.refl s
  | cons a l ih => intro s; exact (hf s a).trans (ih _)

theorem snoopOwner_keep (s : State) (line : Nat) : OnlyReads s (snoopOwner s line) := by
  unfold snoopOwner
  split
  · split
    · exact ⟨rfl, Nat.le_refl _⟩
    · exact OnlyReads.refl s
  · exact OnlyReads.refl s

theorem logUe_keep (s : State) (l : Nat) (a b : Bool) : OnlyReads s (logUe s l a b) := by
  unfold logUe logUeAt
  dsimp only
  repeat' split
  all_goals exact ⟨rfl, Nat.le_refl _⟩

theorem bind_ok {α β : Type} {x : Acc α} {f : α → State → Acc β} {b : β} {t : State} (h : x.bind f = .ok b t) :
    ∃ a s, x = .ok a s ∧ f a s = .ok b t := by
  cases x <;> simp [Acc.bind] at h
  exact ⟨_, _, rfl, h⟩

theorem devReadNow_ok {s t : State} {a n : Nat} {bs} (h : devReadNow s a n = .ok bs t) : OnlyReads s t := by
  unfold devReadNow at h
  dsimp only at h
  split at h
  · cases h
  · cases h; exact OnlyReads.foldl snoopOwner_keep _ _
theorem devRead_ok {s t : State} {a n : Nat} {bs} (h : devRead s a n = .ok bs t) : OnlyReads s t := by
  unfold devRead at h
  split at h
  · cases h
  · exact devReadNow_ok h

theorem devReadNow_bad {s t : State} {a n c x : Nat} (h : devReadNow s a n = .bad c x t) : OnlyReads s t := by
  unfold devReadNow at h
  dsimp only at h
  split at h
  · cases h; exact (OnlyReads.foldl snoopOwner_keep _ _).trans (logUe_keep _ _ _ _)
  · cases h
theorem devRead_bad {s t : State} {a n c x : Nat} (h : devRead s a n = .bad c x t) : OnlyReads s t := by
  unfold devRead at h
  split at h
  · cases h
  · exact devReadNow_bad h

theorem walkFrom_ok {cva : Nat} : ∀ (lv : Nat) {s t : State} {tbl : Nat} {wr : Bool} {w}, walkFrom cva lv s tbl wr = .ok w t → OnlyReads s t := by
  intro lv
  induction lv with
  | zero => intro s t tbl wr w h; simp [walkFrom] at h
  | succ lv ih =>
    intro s t tbl wr w h
    unfold walkFrom at h
    split at h
    · simp at h
    · obtain ⟨bs, s1, h1, h2⟩ := bind_ok h
      refine (devRead_ok h1).trans ?_
      dsimp only at h2
      repeat' split at h2
      all_goals first | (cases h2; done) | (cases h2; exact OnlyReads.refl _) | exact ih h2

theorem walkFrom_bad {cva : Nat} : ∀ (lv : Nat) {s t : State} {tbl : Nat} {wr : Bool} {c x}, walkFrom cva lv s tbl wr = .bad c x t → OnlyReads s t := by
  intro lv
  induction lv with
  | zero => intro s t tbl wr c x h; cases h; exact OnlyReads.refl _
  | succ lv ih =>
    intro s t tbl wr c x h
    unfold walkFrom at h
    split at h
    · cases h; exact OnlyReads.refl _
    · generalize hd : devRead s (tbl + 8 * (cva >>> (21 + 9 * lv) % 512)) 8 = y at h
      cases y with
      | wait s => cases h
      | bad c a s => cases h; exact devRead_bad hd
      | ok bs s1 =>
        refine (devRead_ok hd).trans ?_
        simp only [Acc.bind] at h
        repeat' split at h
        all_goals first | (cases h; done) | (cases h; exact OnlyReads.refl _) | exact ih h

theorem permit_ok {s t : State} {g : Seg} {wr cd eh ew : Bool} {cva : Nat} {sg : Seg}
   (h : (match permit wr cd eh ew with | some c => (.bad c cva s : Acc Seg) | none => .ok sg s) = .ok g t) : t = s := by
  split at h
  · cases h
  · cases h; rfl


theorem xlate_ok {s t : State} {ctx cva : Nat} {wr cd : Bool} {g} (h : xlate s ctx cva wr cd = .ok g t) : OnlyReads s t := by
  unfold xlate at h
  extract_lets vp cached fromEnt at h
  have hf : ∀ s' e, fromEnt s' e = .ok g t → t = s' := by
    intro s' e he
    simp only [fromEnt] at he
    split at he
    · cases he
    · cases he; rfl
  clear_value fromEnt cached vp
  generalize 2 ^ 57 = N at h
  generalize 2 ^ 21 = M at h
  by_cases hN : cva ≥ N
  · rw [if_pos hN] at h; cases h
  · rw [if_neg hN] at h
    generalize hw : walkFrom cva 4 s (pt4Of s ctx) true = W at h
    cases W with
    | ok w s1 =>
      refine (walkFrom_ok _ hw).trans ?_
      dsimp only at h
      cases cached with
      | some old =>
        dsimp only at h
        split at h
        · have := hf _ _ h; subst this; exact OnlyReads.refl _
        · split at h
          · have := hf _ _ h; subst this; exact ⟨rfl, Nat.le_succ _⟩
          · have := hf _ _ h; subst this; exact ⟨rfl, Nat.le_succ _⟩
      | none =>
        have := hf _ _ h; subst this; exact ⟨rfl, Nat.le_refl _⟩
    | wait s1 => cases h
    | bad c a s1 =>
      have hk := walkFrom_bad _ hw
      cases cached with
      | some old =>
        dsimp only at h
        split at h
        · have := hf _ _ h; subst this; exact hk.trans ⟨rfl, Nat.le_succ _⟩
        · cases h
      | none => cases h

theorem xlateRange_ok {ctx : Nat} {wr cd : Bool} : ∀ (f : Nat) {s t : State} {cva n : Nat} {gs}, xlateRange ctx wr cd f s cva n = .ok gs t → OnlyReads s t := by
  intro f
  induction f with
  | zero => intro s t cva n gs h; cases h; exact OnlyReads.refl _
  | succ f ih =>
    intro s t cva n gs h
    unfold xlateRange at h
    split at h
    · cases h; exact OnlyReads.refl _
    · obtain ⟨g, s1, h1, h2⟩ := bind_ok h
      obtain ⟨r, s2, h3, h4⟩ := bind_ok h2
      cases h4
      exact (xlate_ok h1).trans (ih h3)

theorem hostReadLine_ok {s t : State} {r : Req} {x : Nat} {bs} (h : hostReadLine s r x = .ok bs t) : t = s := by
  unfold hostReadLine at h
  repeat' split at h
  all_goals (cases h; try rfl)

theorem hostReadLines_ok {r : Req} : ∀ (l : List Nat) {s t : State} {bs}, hostReadLines r s l = .ok bs t → t = s := by
  intro l
  induction l with
  | nil => intro s t bs h; cases h; rfl
  | cons x l ih =>
    intro s t bs h
    unfold hostReadLines at h
    split at h
    · rename_i d s1 h1
      have := hostReadLine_ok h1; subst this
      obtain ⟨y, s2, h3, h4⟩ := bind_ok h
      cases h4; exact ih h3
    · split at h <;> cases h
    · cases h

theorem hostPieces_ok {s t : State} {a n : Nat} {w : Bool} {ps} (h : hostPieces s a n w = .ok ps t) : t = s := by
  unfold hostPieces at h
  repeat' split at h
  all_goals first | (cases h; rfl) | (dsimp only at h; repeat' split at h)
  all_goals (cases h; try rfl)

theorem hostRead_ok {s t : State} {r : Req} {a n : Nat} {bs} (h : hostRead s r a n = .ok bs t) : t = s := by
  unfold hostRead at h
  obtain ⟨ps, s1, h1, h2⟩ := bind_ok h
  have := hostPieces_ok h1; subst this
  unfold hostReadPieces at h2
  dsimp only at h2
  obtain ⟨y, s2, h3, h4⟩ := bind_ok h2
  have := hostReadLines_ok _ h3; subst this
  have key : ∀ (l : List (Nat × Nat)) (acc : Acc (List Byte)), (∀ d u, acc = .ok d u → u = s2) →
      ∀ d u, l.foldl (fun (acc : Acc (List Byte)) x => acc.bind (fun d s =>
      (hostReadLines r s (linesOf x.1 x.2)).bind (fun all s => .ok (d ++ (all.drop (x.1 % 64)).take x.2) s))) acc = .ok d u → u = s2 := by
    intro l
    induction l with
    | nil => intro acc ha d u h; exact ha d u h
    | cons x l ih =>
      intro acc ha d u h
      refine ih _ ?_ d u h
      intro d' u' h'
      obtain ⟨a1, b1, c1, d1⟩ := bind_ok h'
      obtain ⟨a2, b2, c2, d2⟩ := bind_ok d1
      cases d2
      have := ha _ _ c1; subst this
      exact hostReadLines_ok _ c2
  exact key ps _ (fun d u h => by cases h; rfl) _ _ h4

theorem segsRead_ok {r : Req} : ∀ (gs : List Seg) {s t : State} {bs}, segsRead r s gs = .ok bs t → OnlyReads s t := by
  intro gs
  induction gs with
  | nil => intro s t bs h; cases h; exact OnlyReads.refl _
  | cons g gs ih =>
    intro s t bs h
    unfold segsRead at h
    split at h
    · rename_i d s1 h1
      have hk : OnlyReads s s1 := by
        unfold segRead at h1; split at h1
        · rw [hostRead_ok h1]; exact OnlyReads.refl _
        · exact devRead_ok h1
      obtain ⟨y, s2, h3, h4⟩ := bind_ok h
      cases h4; exact hk.trans (ih h3)
    · split at h <;> cases h
    · cases h

theorem checkBlocks_ok : ∀ (l : List Nat) {s t : State} {u}, checkBlocks s l = .ok u t → OnlyReads s t := by
  intro l
  induction l with
  | nil => intro s t u h; cases h; exact OnlyReads.refl _
  | cons b l ih =>
    intro s t u h
    unfold checkBlocks at h
    obtain ⟨y, s1, h1, h2⟩ := bind_ok h
    unfold checkBlock at h1
    obtain ⟨z, s2, h3, h4⟩ := bind_ok h1
    refine (devRead_ok h3).trans ?_
    split at h4
    · cases h4; exact ih h2
    · cases h4

end Sys2Proof.Laws
end

