-- ==== Sys2Proof/Laws/Snoops.lean ====
section
/-! SUPPORT. What a home's snoop of recorded holders that no longer hold their line changes: its directory, and its count of missed
snoops, which is one of sixteen registers. -/

namespace Sys2Proof.Laws

open Sys2Proof.Machine

theorem foldBits_lt (w : Nat) : ∀ n x : Nat, foldBits w n x < 2 ^ w := by
  intro n
  induction n with
  | zero => intro x; exact Nat.two_pow_pos w
  | succ n ih =>
    intro x
    unfold foldBits
    split
    · exact Nat.two_pow_pos w
    · exact Nat.xor_lt_two_pow (Nat.mod_lt _ (Nat.two_pow_pos w)) (ih _)

/-- The place of an address over any two hashes. -/
def locBody (f g : Nat → Nat) (n p : Nat) : Nat × Nat × Nat :=
  if p < 16 * n then
    let d := p / (2 * n)
    let o := p - d * 2 * n
    let b := o >>> 12
    let row := b >>> 6
    let t := (b % 64) ^^^ f row
    (2 * d + t / 32, t % 32, (row <<< 12) + o % 4096)
  else
    let o := p - 16 * n
    let b := o >>> 12
    let row := b >>> 9
    let t := (b % 512) ^^^ g row
    (t / 32, t % 32, n / 32 + (row <<< 12) + o % 4096)

theorem locate_eq (s : State) (p : Nat) : locate s p = locBody (foldBits 6 16) (foldBits 9 16) (nearN s) p := by
  unfold locate locBody; rfl

theorem near_lt {t d : Nat} (ht : t < 64) (hd : d < 8) : 2 * d + t / 32 < 16 := by omega
theorem far_lt {t : Nat} (ht : t < 512) : t / 32 < 16 := by omega
theorem row_lt {p n : Nat} (h : p < 16 * n) : p / (2 * n) < 8 := Nat.div_lt_of_lt_mul (by omega)

theorem locBody_lt {f g : Nat → Nat} {n p : Nat} (h6 : ∀ x, f x < 64) (h9 : ∀ x, g x < 512) : (locBody f g n p).1 < 16 := by
  unfold locBody
  by_cases h : p < 16 * n
  · rw [if_pos h]
    exact near_lt (Nat.xor_lt_two_pow (n := 6) (Nat.mod_lt _ (by decide)) (h6 _)) (row_lt h)
  · rw [if_neg h]
    exact far_lt (Nat.xor_lt_two_pow (n := 9) (Nat.mod_lt _ (by decide)) (h9 _))

theorem fold6_lt (x : Nat) : foldBits 6 16 x < 64 := Nat.lt_of_lt_of_eq (foldBits_lt 6 16 x) (by decide)
theorem fold9_lt (x : Nat) : foldBits 9 16 x < 512 := Nat.lt_of_lt_of_eq (foldBits_lt 9 16 x) (by decide)

/-- Every line's home is one of the sixteen stacks. -/
theorem homeOf_lt (s : State) (line : Nat) : homeOf s line < 16 := by
  have key (p : Nat) : (locate s p).1 < 16 := by
    rw [locate_eq]; exact locBody_lt fold6_lt fold9_lt
  unfold homeOf place
  generalize line * 64 = p
  by_cases h : edgeBase ≤ p
  · rw [if_pos h]
    generalize ((p - edgeBase) / 4) * 4096 = x
    have hk := key x
    generalize locate s x = y at *
    obtain ⟨a, b, c⟩ := y
    exact hk
  · rw [if_neg h]; exact key _

theorem race_reset : ∀ i, i < 16 → regReset (rCOH_HOME_RACE i) = 0 := by decide

/-- A low field that takes a value above zero leaves its register other than zero. -/
theorem setBits_low_ne {x : BitVec 64} {n : Nat} (h : 0 < n) (hn : n < 65536) : setBits x 15 0 n ≠ 0 := by
  intro hc
  have h1 : (setBits x 15 0 n) &&& 0xFFFF#64 = BitVec.ofNat 64 n := by
    unfold setBits fieldAt
    apply BitVec.eq_of_getLsbD_eq
    intro i hi
    simp
    rcases Nat.lt_or_ge i 16 with h16 | h16
    · have : i = 0 ∨ i = 1 ∨ i = 2 ∨ i = 3 ∨ i = 4 ∨ i = 5 ∨ i = 6 ∨ i = 7 ∨ i = 8 ∨ i = 9 ∨ i = 10 ∨ i = 11 ∨ i = 12 ∨ i = 13 ∨ i = 14 ∨ i = 15 := by omega
      have hm : n % 65536 = n := by omega
      rcases this with rfl|rfl|rfl|rfl|rfl|rfl|rfl|rfl|rfl|rfl|rfl|rfl|rfl|rfl|rfl|rfl <;> simp [hm]
    · have hp : 2 ^ 16 ≤ 2 ^ i := Nat.pow_le_pow_right (by omega) h16
      have h3 : n.testBit i = false := Nat.testBit_lt_two_pow (by omega)
      have h4 : (65535 : Nat).testBit i = false := Nat.testBit_lt_two_pow (by omega)
      simp [BitVec.getLsbD_ofNat, h3, h4]
  rw [hc] at h1
  have := congrArg BitVec.toNat h1
  simp at this
  omega

/-- Storing another value than the reset value of one register leaves every other as it is. -/
theorem regVal_setReg_ne {s : State} {o r : Nat} {v : BitVec 64} (h : r ≠ o) (hv : v ≠ regReset o) : regVal (setReg s o v) r = regVal s r := by
  unfold regVal setReg tset
  dsimp only
  rw [if_neg hv]
  exact tget_tput_ne h _

/-- Registers as they were, but for the homes' counts of missed snoops. -/
def SameRegs (s t : State) : Prop := ∀ r, (∀ d, r ≠ rCOH_HOME_RACE d) → regVal t r = regVal s r
theorem SameRegs.self {s : State} : SameRegs s s := fun _ _ => rfl
theorem SameRegs.step {a b c : State} (h : SameRegs a b) (g : SameRegs b c) : SameRegs a c := fun r hr => (g r hr).trans (h r hr)

/-- A snoop that finds no copy: the directory and the home's count differ, and nothing else. -/
theorem missed_eq (s : State) (line : Nat) (a : Agent) :
    missed s line a = { s with regs := (missed s line a).regs, coh := { s.coh with dir := (missed s line a).coh.dir } } := rfl

theorem missed_sameRegs (s : State) (line : Nat) (a : Agent) : SameRegs s (missed s line a) := by
  intro r hr
  show regVal (setReg s (rCOH_HOME_RACE (homeOf s line)) (setBits _ 15 0 (min 65535 (_ + 1)))) r = _
  refine regVal_setReg_ne (hr _) ?_
  rw [race_reset _ (homeOf_lt s line)]
  exact setBits_low_ne (by omega) (by omega)

theorem snoopAll_sameRegs (s : State) (line : Nat) : SameRegs s (snoopAll s line) := by
  unfold snoopAll
  generalize (dirOf s line).agents.filter _ = L
  induction L generalizing s with
  | nil => exact SameRegs.self
  | cons a L ih => exact (missed_sameRegs s line a).step (ih _)

end Sys2Proof.Laws
end

