-- ==== Sys2Proof/Tests/Slice0.lean ====
section
/-! SUPPORT. Tests: ill-formed commands that the check refuses, single steps with results worked out by hand from the spec, and for every
statement with hypotheses a concrete state and operands that meet them. -/

namespace Sys2Proof.Tests

open Sys2Proof Sys2Proof.Machine Sys2Proof.Stated

-- The witnesses are checked one after another: in parallel their threads' stacks together would need more memory than a check has.
set_option Elab.async false

/-! Small states. -/

/-- A part that is READY. -/
def ready : State := { State.reset with
  rst := { State.reset.rst with
    phase := .ready } }

/-- READY, with the CXL link in L0 and the decoder committed at HPA 0. -/
def linked : State := { ready with
  cxl := { ready.cxl with
    link := .l0, width := 16, rate := 6, mode := true, cacheEn := true, memEn := true, committed := true, trained := true } }

/-- A released step of one program on core 0. -/
def oneStep : StepRec := { cswStep ready 0 1 [] with
  uid := 1, ctx := 1, csw := none, slots := [(0, false)], st := .released, wdog := 0 }

/-- A program of that step with these ops. -/
def prog (ops : List Op) : Prog := { freshProg oneStep 0 with
  ops := ops, released := true }

/-- READY, with that program on core 0. -/
def running (q : Prog) : State := { ready with
  cores := [(0, { Core.fresh with
    lo := some q })]
  sched := { ready.sched with
    steps := [oneStep] } }

def p0 : ProgRef := ⟨0, false⟩

/-- An op word by class, opcode and the rest. -/
def op (cls opc rest : Nat) : Op := BitVec.ofNat 128 (cls * 2 ^ 124 + opc * 2 ^ 118 + rest)

/-- A program whose engine `e` has one queued op. -/
def queued1 (e : Eng) (w : Op) : Prog := withEng (prog []) e { Engine.empty with
  queue := [⟨w, 0, [], false, false, .queued, 0, false⟩] }

def slot (w : Op) : OpSlot := ⟨w, 0, [], false, false, .queued, 0, false⟩

/-- Ring 5, valid, with this descriptor ready. -/
def withDesc (d : BitVec 512) : State := { ready with
  rings := { ready.rings with
    ctx := [(5, { Ring.none with
      v := true })]
    unit_ := [(5, { RingUnit.none with
      ready := [⟨0, d, 0⟩] })] } }

def okAcc {α : Type} : Acc α → Bool | .ok _ _ => true | _ => false
def goesOn {σ φ ρ : Type} : Host.Outcome σ φ ρ → Bool | .next _ => true | _ => false

/-! The check of operands refuses what the outside cannot send. -/

theorem test_wf_core : (Instr.nop ⟨800, false⟩).wf = false ∧ (Instr.nop ⟨799, true⟩).wf = true := by decide
theorem test_wf_copy_engine : (Instr.load p0 .array .none).wf = false ∧ (Instr.load p0 .copy1 .none).wf = true := by decide
theorem test_wf_error_place : (Instr.azero p0 (.accUe 1024 0)).wf = false ∧ (Instr.azero p0 (.spUe (2 ^ 21))).wf = false ∧
    (Instr.azero p0 (.tileUe 32)).wf = false ∧ (Instr.azero p0 (.shared 10)).wf = false := by decide
theorem test_wf_loupe : (Instr.loupeCallComplete 16 .none).wf = false ∧ (Instr.loupeCallComplete 15 .none).wf = true := by decide
theorem test_wf_group : (Instr.collectiveComplete 256 .none).wf = false := by decide
theorem test_wf_port : (Instr.portEnable 32).wf = false ∧ (Instr.rd (some 32) .none).wf = false ∧ (Instr.rd none .none).wf = true := by decide
theorem test_wf_ring : (Instr.copy (2 ^ 20) .none).wf = false ∧ (Instr.copy (2 ^ 20 - 1) .none).wf = true := by decide
theorem test_wf_repair : (Instr.hbmRepairCommit (List.replicate 65 .repaired)).wf = false := by decide
theorem test_wf_doorbell : (Instr.doorbell (2 ^ 23) 8 0).wf = false ∧ (Instr.doorbell 0 3 0).wf = false := by decide
theorem test_wf_register : (Instr.registerWrite .bar0 2 false 0).wf = false ∧ (Instr.registerWrite .bar0 4 true 0).wf = false ∧
    (Instr.droppedRegisterAccess 8 8 true false).wf = false := by decide
theorem test_wf_flit : (Instr.dataFlit 0 ⟨0, 0, 0, [], [], 0⟩).wf = false := by decide
theorem test_wf_peer : (Instr.ctrlFlit 0 ⟨0, 0, 0, []⟩).wf = false := by decide
theorem test_wf_bus : (Instr.memwr ⟨0, 1, List.replicate 64 0, false⟩).wf = false := by decide
theorem test_wf_step_info : (Instr.bringupStepDone ⟨[], none, [], none, (false, false), false⟩).wf = false := by decide
theorem test_wf_core_op : (Instr.serverCoreInstruction 0 0 0 (.load 65) .none).wf = false := by decide
theorem test_wf_stack : (Instr.softRepair 16 0 false 0 0).wf = false := by decide
theorem test_wf_slots : (Instr.cswNop 64 1).wf = false ∧ (Instr.stepRelease 4096).wf = false ∧ (Instr.coreOff 800).wf = false ∧
    (Instr.reqTimeout 65536).wf = false ∧ (Instr.rdcur (2 ^ 52) .none).wf = false ∧ (Instr.rspi .host 0 (some [])).wf = false := by decide
theorem test_wf_flits : (Instr.nakFlit 0 0 []).wf = false ∧ (Instr.laneLockLoss 0 16).wf = false ∧ (Instr.machineCheck ⟨2, 0, true⟩).wf = false := by decide
theorem test_wf_host : (Instr.cxlCacheData 0 [] false).wf = false ∧ (Instr.uioRead 0 4097).wf = false ∧ (Instr.linkUp 2 6 true true true true []).wf = false ∧
    (Instr.timerCompare 0 48).wf = false := by decide
theorem test_wf_security : (Instr.doeDiscovery 2 0).wf = false ∧ (Instr.getCertificate 8).wf = false ∧ (Instr.quote []).wf = false ∧ (Instr.setkey []).wf = false ∧
    (Instr.unlock ⟨4, 0, [], []⟩).wf = false ∧ (Instr.dietest 10).wf = false ∧ (Instr.reachprog 16 0 0).wf = false := by decide
theorem test_wf_power : (Instr.thermalSample []).wf = false ∧ (Instr.throttleStep 8).wf = false ∧ (Instr.patrolScrub 16 0 0 .clean).wf = false := by decide

/-! Hypotheses of the statements, met by concrete states. -/

theorem test_witness_EmptyQueueTicks : State.reset.pending = [] ∧ State.reset.rst.phase ≠ .off ∧ { State.reset with
    rst := { State.reset.rst with
      phase := .off } }.rst.phase = .off ∧ State.reset.errs.held = [] ∧ State.reset.cxl.reads = [] := by decide
theorem test_witness_EveryStepKeepsMemoryForm : memWf State.reset = true ∧ goesOn (step State.reset) = true := by decide
theorem test_witness_FusesOnlyGrow : goesOn (step { State.reset with
    pending := [.bypass] }) = true := by decide
theorem test_witness_SentMessagesStand : goesOn (step { State.reset with
    pending := [.holdboot] }) = true := by decide

theorem test_witness_DispatchAndControl :
    (let w := op 3 0 0
     seqOp (running (prog [w])) p0 = some (prog [w], w) ∧ opEng w = some .array ∧ (engOf (prog [w]) .array).queue.length < 16) ∧
    (let w := op 3 0 0
     let q : Prog := { prog [w] with
       arr := { Engine.empty with
         queue := List.replicate 16 (slot w) } }
     seqOp (running q) p0 = some (q, w) ∧ 16 ≤ (engOf q .array).queue.length) ∧
    (let w := op 0 1 0
     seqIs (running (prog [w])) p0 0 1 = some (prog [w], w)) ∧
    (let w := op 0 2 0xFFFFFF
     seqIs (running (prog [w])) p0 0 2 = some (prog [w], w)) ∧
    (let w := op 0 3 0
     let q : Prog := { prog [w] with
       loops := [⟨0, 1, 0⟩] }
     seqIs (running q) p0 0 3 = some (q, w) ∧ q.loops = [] ++ [⟨0, 1, 0⟩]) := by decide

/-- A program with `k` in tally 31. -/
def tallied (k : Nat) (w : Op) : Prog := { prog [w] with
  tallies := tset 0 [] 31 k }

theorem test_witness_TallyOps :
    (let w := op 1 0 (31 + 32 * 65535)
     seqIs (running (tallied 65535 w)) p0 1 0 = some (tallied 65535 w, w) ∧ bits w 20 5 ≤ tallyOf (tallied 65535 w) (bits w 4 0)) ∧
    (let w := op 1 0 (31 + 32 * 65535)
     seqIs (running (tallied 65534 w)) p0 1 0 = some (tallied 65534 w, w) ∧ tallyOf (tallied 65534 w) (bits w 4 0) < bits w 20 5) ∧
    (let w := op 1 1 (31 + 32 * 65535)
     seqIs (running (tallied 0 w)) p0 1 1 = some (tallied 0 w, w) ∧ bits w 28 24 = 0 ∧ tallyOf (tallied 0 w) (bits w 4 0) + bits w 20 5 ≤ 65535) ∧
    (let w := op 1 1 (31 + 32 + 2 ^ 24)
     seqIs (running (tallied 0 w)) p0 1 1 = some (tallied 0 w, w) ∧ bits w 28 24 ≠ 0) ∧
    (let w := op 1 2 (31 + 32)
     seqIs (running (prog [w])) p0 1 2 = some (prog [w], w)) := by decide

theorem test_witness_TallyOverflowLeavesTally :
    (let w := op 1 1 (31 + 32 * 65535)
     seqIs (running (tallied 1 w)) p0 1 1 = some (tallied 1 w, w) ∧ bits w 28 24 = 0 ∧ 65535 < tallyOf (tallied 1 w) (bits w 4 0) + bits w 20 5) := by decide

/-- A program with one pending signal. -/
def pended (g : PendSig) : Prog := { prog [] with
  pend := [g] }

theorem test_witness_SignalsReachTallies :
    (let g : PendSig := ⟨31, 65535, none, [0, 0, 0, 0, 0], 0⟩
     canRun (running (pended g)) p0 = some (pended g) ∧ (pended g).pend = g :: [] ∧ g.target = none ∧
       (∀ x ∈ allEngs.zip g.need, x.2 ≤ (engOf (pended g) x.1).fin) ∧ tallyOf (pended g) g.tally + g.count ≤ 65535) ∧
    (let g : PendSig := ⟨31, 1, some 0, [0, 0, 0, 0, 0], 0⟩
     canRun (running (pended g)) p0 = some (pended g) ∧ (pended g).pend = g :: [] ∧ g.target = some 0 ∧
       (∀ x ∈ allEngs.zip g.need, x.2 ≤ (engOf (pended g) x.1).fin)) ∧
    (let g : PendSig := ⟨31, 1, none, [1, 0, 0, 0, 0], 0⟩
     canRun (running (pended g)) p0 = some (pended g) ∧ (pended g).pend = g :: [] ∧ (Eng.array, 1) ∈ allEngs.zip g.need ∧ (engOf (pended g) .array).fin < 1) ∧
    (let s : State := { running (prog []) with
       signals := [⟨1, 0, 31, 65535, 0⟩] }
     s.signals[0]? = some ⟨1, 0, 31, 65535, 0⟩ ∧ stepOf s 1 = some oneStep ∧ slotProg oneStep 0 = some p0 ∧ progOf s p0 = some (prog []) ∧
       (prog []).step = 1 ∧ (prog []).sci = 0 ∧ tallyOf (prog []) 31 + 65535 ≤ 65535) := by decide

theorem test_witness_BarriersAndOpCompletion :
    (let w := op 1 3 0
     seqIs (running (prog [w])) p0 1 3 = some (prog [w], w)) ∧
    (let q : Prog := { prog [] with
       atBar := true }
     canRun (running q) p0 = some q ∧ q.atBar = true ∧ q.arrived = false ∧ (∀ e ∈ allEngs, (engOf q e).queue = [] ∧ (engOf q e).run = []) ∧
       stepOf (running q) q.step = some oneStep ∧ stepPlaces oneStep = [p0] ∧
       (let t : StepRec := { oneStep with
          slots := [(0, false), (1, false)] }
        ⟨1, false⟩ ∈ stepPlaces t ∧ (⟨1, false⟩ : ProgRef) ≠ p0 ∧ progOf (running q) ⟨1, false⟩ = none)) ∧
    ([true, false].all (fun b =>
     let o : OpSlot := ⟨op 3 0 (15 * 2 ^ 98 + 31 * 2 ^ 102), 0, [], false, b, .done, 0, false⟩
     let q := withEng (prog []) .array { Engine.empty with
       run := [o] }
     decide (canRun (running q) p0 = some q ∧ (engOf q .array).run = o :: [] ∧ o.phase = .done ∧
       tallyOf q (bits o.word 106 102) + (bits o.word 101 98 + 1) ≤ 65535)) = true) ∧
    (let o : OpSlot := ⟨op 3 0 0, 0, [], false, false, .called 1, 0, false⟩
     let q := withEng (prog []) .array { Engine.empty with
       run := [o] }
     canRun (running q) p0 = some q ∧ (engOf q .array).run = o :: [] ∧ o.phase ≠ .done) := by decide

/-- An op of an engine at its head may start. -/
def starts (e : Eng) (is : Op → Bool) (w : Op) : Bool := decide (startable (running (queued1 e w)) p0 e is = some (queued1 e w, slot w))

theorem test_witness_ArrayOps : starts .array (isOp 3 0) (op 3 0 0) = true ∧ starts .array (isOp 3 1) (op 3 1 0) = true ∧
    starts .array (isOp 3 2) (op 3 2 0) = true ∧ starts .array (isOp 3 4) (op 3 4 0) = true := by decide

theorem test_witness_ArrayStream :
    starts .array (isOp 3 3) (op 3 3 0) = true ∧ (tileOf Core.fresh false (selOf Core.fresh false)).fmt = none ∧
    (let k : Core := { Core.fresh with
       tiles := tset Tile.empty [] (tileKey false false) ⟨some 0, []⟩ }
     (tileOf k false (selOf k false)).fmt = some 0 ∧ groupOf 0 = groupOf 0) := by decide

/-- A vector op of a code. -/
def vop (k : Nat) : Op := op 4 0 (k * 2 ^ 53)

theorem test_witness_Vector_statements :
    ([0x001, 0x002, 0x003, 0x004, 0x005, 0x006, 0x007, 0x008, 0x009, 0x00A, 0x00B, 0x00C, 0x00D, 0x010, 0x011, 0x012, 0x013, 0x014, 0x020, 0x021,
      0x040, 0x041, 0x042, 0x043, 0x044, 0x0C0, 0x0C1, 0x088, 0x089].all (fun k => starts .vector (isVop k) (vop k)) = true) ∧
    ([0x080, 0x081, 0x082, 0x083, 0x084, 0x085, 0x100, 0x101, 0x102, 0x103, 0x104, 0x140, 0x141, 0x142, 0x143, 0x180, 0x181, 0x182, 0x183, 0x184,
      0x185, 0x186, 0x187].all (fun k => starts .vector (isVop k) (vop k)) = true) := by decide +kernel

theorem test_witness_EngineChecksStopTheirOp :
    (let w := op 3 0 0
     starts .array (isOp 3 0) w = true) ∧
    (let w := op 3 3 0
     let q := queued1 .array w
     let s := atOp (running q) p0 .array q (slot w)
     starts .array (isOp 3 3) w = true ∧ okAcc (astreamEff p0 (some (.check false 0 0)) (setCore s 0 { coreOf s 0 with
       tiles := tset Tile.empty [] (tileKey false false) ⟨some 0, []⟩ }) q (slot w)) = true) ∧
    (let w := vop 1
     let q := queued1 .vector w
     let s := atOp (running q) p0 .vector q (slot w)
     starts .vector (isVop 1) w = true ∧ okAcc (elementwise form2 none vaddL p0 (some (.check true 63 0)) s q (slot w)) = true ∧
       okAcc (elementwise form2 none vaddL p0 (some (.spUe 0)) s q (slot w)) = true) := by decide +kernel

theorem test_witness_EngineChecksStopTheirOp_units :
    (match exec (.uioRead 0 64 7) linked with | .next t => t.uid != linked.uid | _ => false) = true ∧
    beatOn linked portDie true true (.header 0 0 true 448) = true ∧ beatOn linked portDie true true (.corrected 0 0 0 false 448) = true ∧
    beatOn linked portDie true true (.header 3 0 true 448) = false := by decide +kernel

theorem test_witness_CopiesComplete :
    starts .copy0 (isOp 2 0) (op 2 0 0) = true ∧ starts .copy1 (isOp 2 1) (op 2 1 (2 ^ 28)) = true ∧ starts .copy0 (isOp 2 2) (op 2 2 0) = true ∧
    starts .copy0 (isOp 2 3) (op 2 3 0) = true ∧ starts .copy0 (isOp 2 4) (op 2 4 0) = true ∧ starts .copy0 (isOp 2 5) (op 2 5 0) = true ∧
    (let w := op 2 4 0
     let q := queued1 .copy0 w
     let s := atOp (running q) p0 .copy0 q (slot w)
     let ps := positions 0 (remotePieces (cpSrc q (slot w)).coded (dropRuns 0 (runsOf (cpSrc q (slot w)))))
     (issueAll (fun s x => roomFor s x.2.2) (readPiece p0 false (slot w) q.ctx 0 (cpSrc q (slot w)).coded) s (ps.take (128 - copyOut s p0 false))).isSome = true) ∧
    (let w := op 2 5 0
     let q := queued1 .copy0 w
     let s := atOp (running q) p0 .copy0 q (slot w)
     let ps := positions 0 (remotePieces (cpDst q (slot w)).coded (dropRuns 0 (runsOf (cpDst q (slot w)))))
     let bs := spGather (coreOf s 0) false (runsOf (cpSrc q (slot w)))
     (issueAll (fun _ _ => true) (writePiece p0 false (slot w) q.ctx 0 (cpDst q (slot w)).coded bs) s (ps.take (128 - copyOut s p0 false))).isSome = true) := by
  decide +kernel

/-- A page table at PPA 0 that maps the first GiB of every context to itself, writable. -/
def mapped (s : State) : State := { s with
  mem := [(0, 5), (1, 0x10), (0x1000, 5), (0x1001, 0x20), (0x2000, 7)] }

theorem test_mapped : memWf (mapped ready) = true ∧ okAcc (xlate (mapped ready) 1 0x3FFFFFFF true true) = true ∧ okAcc (xlate (mapped ready) 1 0x40000000 true true) = false ∧
    okAcc (cvaRead (mapped ready) ⟨0, 1⟩ 0x3000 64 false) = true := by decide

theorem test_witness_CopiesComplete_accesses :
    (let w := op 2 0 0
     let q := queued1 .copy0 w
     let src := runsOf (cpSrc q (slot w))
     okAcc ((rangesSegs 1 false (cpSrc q (slot w)).coded (atOp (mapped (running q)) p0 .copy0 q (slot w)) (joinRuns (runsAt src 0 (nextBytes src 0)))).bind
       (fun gs s => segsReadC ⟨whoOp p0 2, 1⟩ (cpSrc q (slot w)).coded s gs)) = true) ∧
    (let w := op 2 1 (2 ^ 28)
     let q := queued1 .copy1 w
     let dst := runsOf (cpDst q (slot w))
     okAcc ((rangesSegs 1 true (cpDst q (slot w)).coded (atOp (mapped (running q)) p0 .copy1 q (slot w)) (joinRuns (runsAt dst 0 (nextBytes dst 0)))).bind
       (fun gs s => segsWriteC ⟨whoOp p0 3, 1⟩ (cpDst q (slot w)).coded s gs
         (spGather (coreOf s 0) false (runsAt (runsOf (cpSrc q (slot w))) 0 (nextBytes dst 0))))) = true) ∧
    (let w := op 2 3 0
     let q := queued1 .copy0 w
     let s := atOp (running q) p0 .copy0 q (slot w)
     stepOf s q.step = some oneStep ∧ slotProg oneStep (bits w 39 29) = some p0 ∧ progOf s p0 = some q ∧ q.sci = bits w 39 29) := by decide +kernel

theorem test_witness_CopiesComplete_spoilt :
    (let w := op 2 0 0
     let q : Prog := { queued1 .copy0 w with
       pats := [BitVec.ofNat 256 (0x40000 * 2 ^ 64)] }
     let e : WireErr := .data 2 0 true 0x40000
     let s1 := meetBeat (mapped (running q)) e
     let src := runsOf (cpSrc q (slot w))
     beatIsData e = true ∧ beatIsHeader e = false ∧ beatOn (mapped (running q)) [dieOf (running q) 0] true false e = true ∧
     startable (mapped (running q)) p0 .copy0 (isOp 2 0) ≠ none ∧ startable s1 p0 .copy0 (isOp 2 0) = some (q, slot w) ∧
     okAcc ((rangesSegs 1 false (cpSrc q (slot w)).coded (atOp s1 p0 .copy0 q (slot w)) (joinRuns (runsAt src 0 (nextBytes src 0)))).bind
       (fun gs s => (segsReadC ⟨whoOp p0 2, 1⟩ (cpSrc q (slot w)).coded s gs).bind
         (fun bs s => if gs.any (touchesLine (beatPpa e)) then .ok bs s else .bad 0 0 s))) = true) := by decide +kernel

theorem test_witness_DeviceWritesAreExact : memWf (mapped ready) = true ∧ (∀ l ∈ [0, 64], dirtyCopy (mapped ready) l = none) ∧
    (let s : State := { mapped ready with
       coh := { ready.coh with
         s1 := [(192, ⟨.m, List.replicate 64 9⟩)], dir := [(192, ⟨.x .s1, 0⟩)] } }
     dirtyCopy s 192 = some (List.replicate 64 9)) ∧
    okAcc (devWrite (mapped ready) 0x3001 [1, 2]) = true := by decide

theorem test_witness_EndOfProgramAndStep :
    (let w := op 0 0 0
     seqIs (running (prog [w])) p0 0 0 = some (prog [w], w) ∧ (∀ e ∈ allEngs, (engOf (prog [w]) e).queue = [] ∧ (engOf (prog [w]) e).run = []) ∧
       (prog [w]).pend = [] ∧ stepOf (running (prog [w])) 1 = some oneStep ∧ oneStep.endedN + 1 = oneStep.nprog ∧
       oneStep.csw = none ∧ okAcc (cvaRead (mapped (running (prog [w]))) ⟨whoSched, 1⟩ oneStep.loss 4 false) = true) ∧
    ({ oneStep with
       nprog := 2 }.endedN + 1 ≠ 2) ∧
    ((cswStep ready 0 1 []).csw = some 0 ∧ (cswStep ready 0 1 []).nonfin = false ∧ okAcc (cswWork ready) = true) := by decide +kernel

theorem test_witness_OffloadedCalls :
    [0, 1, 2, 3].all (fun k => starts .offload (isOp 5 k) (op 5 k 0)) = true ∧ (loupeOf ready (loupeFor ready 0 0x8000)).queue.length < 16 ∧
    [0, 1].all (fun k => starts .offload (isOp 6 k) (op 6 k 0)) = true ∧
    (let w := op 7 0 0
     let q := queued1 .offload w
     starts .offload (isOp 7 0) w = true ∧ okAcc (callBlock (atOp (mapped (running q)) p0 .offload q (slot w)) ⟨whoOp p0 4, 1⟩ (callCva q (slot w))) = true) ∧
    (let o : OpSlot := { slot (op 6 1 0) with
       phase := .waiting 7 }
     let q := withEng (prog []) .offload { Engine.empty with
       run := [o] }
     progOf (running q) p0 = some q ∧
       q.off.run.find? (fun o => match o.phase with | .waiting _ => true | _ => false) = some o ∧ o.phase = .waiting 7 ∧ (running q).fixers.queue.length < 16 ∧ (∀ m ∈ waitingCalls (running q), 7 ≤ m)) := by decide

/-- A gather of one row as a call block at 0x4000, and its table, whose rows lie on this package. -/
def gathering (n : Nat) : State :=
  let s := mapped (running (prog []))
  { s with
    mem := s.mem ++ [(0x4004, 1), (0x4011, 0x30)]
    tables := [(0, ⟨BitVec.ofNat 512 (5 + 6 * 2 ^ 23 + 64 * 2 ^ 32), [BitVec.ofNat 256 (2 ^ 16 + 0x6000 * 2 ^ 64 + 0x7000 * 2 ^ 192)]⟩)]
    loupes := tset Loupe.idle [] n ⟨[⟨1, .op p0 1 0 0, 1, 0x4000, some 0⟩], none⟩ }

/-- A running loupe call with nothing left to fetch, of operation `op`. -/
def fetched (op rep : Nat) : LoupeRun :=
  ⟨⟨1, .op p0 1 0 0, 1, 0x4000, some op⟩, BitVec.ofNat 512 (op * 256 + 2 ^ 21 * (op / 3) + 2 ^ 384 * rep), [], [], [], [], [], [], [], [], [], [], 0, 0, 0, 0, 0, 0, 0, 0, 0⟩

theorem test_witness_LoupeCalls :
    (let c : LoupeCall := ⟨1, .op p0 1 0 0, 1, 0x4000, some 0⟩
     unitUp (gathering 15) 4 15 7 = true ∧ loupeOf (gathering 15) 15 = ⟨c :: [], none⟩ ∧
     (match loupeStart (gathering 15) 15 c with
      | .ok r s2 => (!leftToIssue (setLoupe s2 15 ⟨[], some r⟩) r) && (match issueAllOf 15 (setLoupe s2 15 ⟨[], some r⟩) r with | .ok _ => true | _ => false)
      | _ => false) = true) ∧
    (let s := { gathering 15 with
       loupes := tset Loupe.idle [] 15 ⟨[], some (fetched 0 0)⟩ }
     (loupeOf s 15).run = some (fetched 0 0) ∧ (fetched 0 0).tags = [] ∧ leftToIssue s (fetched 0 0) = false ∧ (fetched 0 0).fixPart = 0 ∧ (fetched 0 0).stage = 0 ∧
       okAcc (loupeEffect s 15 (fetched 0 0)) = true ∧ lcOP (fetched 0 0).block = 0 ∧ lcREPCVA (fetched 0 0).block = 0) ∧
    (let r := fetched 3 0x5000
     let s := { gathering 15 with
       loupes := tset Loupe.idle [] 15 ⟨[], some r⟩ }
     r.tags = [] ∧ leftToIssue s r = false ∧ r.fixPart = 0 ∧ r.stage = 0 ∧ lcOP r.block = 3 ∧ lcREPCVA r.block ≠ 0 ∧
     (match loupeEffect s 15 r with
      | .ok k s2 => (match swapCursor (setRun s2 15 (some { r with stage := 1, bursts := r.bursts + k })) { r with stage := 1, bursts := r.bursts + k } with
        | .ok () s3 => okAcc (cvaWrite (setRun s3 15 (some { r with stage := 2, bursts := r.bursts + k })) ⟨whoLoupe 15, 1⟩ (lcREPCVA r.block)
            (loupeReport { r with stage := 2, bursts := r.bursts + k }) false)
        | _ => false)
      | _ => false) = true) := by decide +kernel

/-- A fixer call of a loupe's rows, and its run in a phase. -/
def fixCall : FixCall := ⟨1, .op p0 1 0 0, 1, 0x4000, false, some 0⟩
def fixRun (ph : FixPhase) : FixRun := ⟨fixCall, ph, 0, [], 0, 0, 0, 0, 0, 0, 0, 0, 0, 0⟩
def fixing (ph : FixPhase) : State := { ready with
  fixers := { ready.fixers with
    run := some (fixRun ph) } }

theorem test_witness_FixerCalls :
    (let s : State := { ready with
       fixers := { ready.fixers with
         queue := [fixCall] } }
     serving s = true ∧ awake s = true ∧ s.fixers.run = none ∧ s.fixers.queue = fixCall :: [] ∧ okAcc (fixStart s fixCall) = true) ∧
    (serving (fixing .passOne) = true ∧ (fixing .passOne).fixers.run = some (fixRun .passOne) ∧
      okAcc ((callChunks (fixing .passOne) (fixRun .passOne)).bind (fun cs s => passOne 1 (useFree s cs.length)
        ((tileOrder s cs.length).filterMap (fun i => cs[i]?)) [])) = true) ∧
    ([FixPhase.passTwo, .runRows].all (fun ph => decide ((fixing ph).fixers.run = some (fixRun ph)) && (match (callChunks (fixing ph) (fixRun ph)).bind (fun cs s =>
      runChunks s (fixRun ph) (cs.drop 0)) with | .ok () s3 => s3.fixers.run.isSome | _ => false)) = true) ∧
    ((fixing .skipped).fixers.run = some (fixRun .skipped) ∧ (fixRun .skipped).phase = .skipped ∧ (1 : BitVec 64) ≠ 0) ∧
    (fcMAXNORM (fixRun .decide).block = 0 ∧ (let b : BitVec 512 := BitVec.ofNat 512 (2 ^ 64)
      fcMAXNORM b = 0 ∧ (rnd32 ((ofF32 0).quot (.fin false (fcNREPL b) 0))).nonFinite = false)) := by decide +kernel

/-- A collective of group 255. -/
def coll (started : Bool) : Coll := ⟨1, .op p0 1 0 0, 1, 255, 1, 0x4000, 0, some (0, 0), started, 0, 0, [], 0, 0, 0, 0, 0⟩
def colls (started : Bool) : State := { ready with
  pod := { ready.pod with
    colls := [coll started] } }

/-- A transaction that this package sent itself. -/
def looped (ty : Nat) (hi : BitVec 64) (data : List Byte) : State := { ready with
  pod := { ready.pod with
    loopq := [⟨ty, 0, 0, 0, 0, 0, 0, hi, data⟩] } }

def okArr : Arrival → Bool | .ok _ _ => true | _ => false

/-- Group 255 as its root with children 5 and 7, and as a leaf under 7. -/
def rootOf2 : BitVec 512 := BitVec.ofNat 512 (1 + 2 ^ 128 + 2 * 2 ^ 141 + 5 * 2 ^ 144 + 7 * 2 ^ 156)
def leafOf7 : BitVec 512 := BitVec.ofNat 512 (1 + 7 * 2 ^ 129)

/-- A started collective of one FP32 segment of one element, its result at 0x5000 and its report at `rep`. -/
def oneSeg (op rep got : Nat) : Coll :=
  ⟨1, .op p0 1 0 0, 1, 255, op, 0x4000, BitVec.ofNat 512 (255 + 256 * op + 12 * 2 ^ 12 + 2 ^ 64 + 0x5000 * 2 ^ 256 + rep * 2 ^ 384), none, true, 0, 1,
    [1, 0, 0, 0, 0, 0, 0, 0], got, 0, 0, 0, 0⟩

/-- Its frame, which still needs these packages. -/
def frame (need : List Nat) : Frame := ⟨255, 0, 0, 0, need, [0], [0], 0, 0, 0⟩

/-- A segment of it from a package, up or down. -/
def seg (src : Nat) (down : Bool) : Txn :=
  ⟨tCOLLSEG, 0, src, 0, 0, 0, 0, BitVec.ofNat 64 (255 + 2 ^ 42 * b2n down + 12 * 2 ^ 43 + 3 * 2 ^ 50), List.replicate 16 0⟩

/-- A member with that group, collective, frames and arrivals. -/
def member (g : BitVec 512) (cs : List Coll) (fs : List Frame) (q : List Txn) : State :=
  let s := mapped ready
  { s with
    pod := { s.pod with
      groups := [(255, g)], colls := cs, frames := fs, loopq := q, waiting := [(some 31, seg 7 false)] } }

/-- What the check of the arrival says. -/
def verdictIs (s : State) (f : State → Txn → Verdict → Bool) : Bool :=
  match arrive s none tCOLLSEG with | .ok x t => f t x (verdict t x) | _ => false

theorem test_witness_Collectives_start :
    serving (colls false) = true ∧ awake (colls false) = true ∧ collOf (colls false) 255 = none ∧
      (colls false).pod.colls.find? (fun c => c.grp == 255) = some (coll false) ∧ (coll false).fix.isSome = true := by decide +kernel

theorem test_witness_Collectives_segments :
    verdictIs (looped tCOLLSEG 0 []) (fun _ _ v => match v with | .late => true | _ => false) = true ∧
    verdictIs (member rootOf2 [] [] [seg 7 false]) (fun _ _ v => match v with | .hold => true | _ => false) = true ∧
    verdictIs (member rootOf2 [oneSeg 1 0 0] [frame [5, 7]] [seg 7 false]) (fun _ x v =>
      match v with | .up _ f => f.need != [x.src] && f.need.contains x.src && decide f.need.Nodup | _ => false) = true ∧
    verdictIs (member rootOf2 [oneSeg 1 0 0] [frame [7]] [seg 7 false]) (fun t x v => match v with
      | .up c f => f.need == [x.src] && (match closeFrame (setFrame (setColl t { c with bytesIn := c.bytesIn + csLen x })
          (joinUp { c with bytesIn := c.bytesIn + csLen x } f x)) { c with bytesIn := c.bytesIn + csLen x } (joinUp { c with bytesIn := c.bytesIn + csLen x } f x) with
        | .ok (.ok ()) _ => true | _ => false)
      | _ => false) = true ∧
    verdictIs (member leafOf7 [oneSeg 0 0 0] [] [seg 7 true]) (fun t x v => match v with
      | .down c => (match takeResult t { c with bytesIn := c.bytesIn + csLen x } (csSEG x) (csPay x) (csCnt x) with | .ok (.ok ()) _ => true | _ => false)
      | _ => false) = true := by decide +kernel

theorem test_witness_Collectives_held :
    (let s := member rootOf2 [oneSeg 1 0 0] [frame [5, 7]] []
     s.pod.waiting[0]? = some (some 31, seg 7 false) ∧
     (match verdict (freeSlots { s with
       pod := { s.pod with
         waiting := s.pod.waiting.eraseIdx 0 } } 31 (seg 7 false)) (seg 7 false) with
      | .up _ f => f.need != [7] && f.need.contains 7 && decide f.need.Nodup | _ => false) = true) := by decide +kernel

theorem test_witness_Collectives_complete :
    (let s := advanceColl .none (member rootOf2 [oneSeg 0 0 1] [] []) 255
     collOf s 255 = some (oneSeg 0 0 1) ∧ collDone s (oneSeg 0 0 1) = true ∧ sbREP (oneSeg 0 0 1).block = 0) ∧
    (let c := oneSeg 0 0x6000 1
     let s := advanceColl .none (member rootOf2 [c] [] []) 255
     collOf s 255 = some c ∧ collDone s c = true ∧ sbREP c.block ≠ 0 ∧ okAcc (cvaWrite s ⟨whoColl c.uid, c.ctx⟩ (sbREP c.block) (collReport c) false) = true) := by
  decide +kernel

/-- The cells of these bytes from `a` on, as memory lists them. -/
def memOf (a : Nat) (bs : List Byte) : List (Nat × Byte) := ((List.range bs.length).map (fun i => (a + i, bs.getD i 0))).filter (fun e => e.2 != 0)

/-- Ring 5 runs a descriptor. -/
def runsDesc (d : BitVec 512) : State := setUnit (withDesc 0) 5 { RingUnit.none with
  running := some (justTaken ⟨0, d, 0⟩) }

def desc (n : Nat) : BitVec 512 := BitVec.ofNat 512 n

/-- A descriptor that may start is what its ring runs as its command comes: the hypothesis `Runs` of the statements on descriptors. -/
theorem test_runs_of_mayStart {s : State} {d : BitVec 512} (h : MayStart s 5 ⟨0, d, 0⟩ []) : Runs s 5 (justTaken ⟨0, d, 0⟩) (setUnit s 5 { unitOf s 5 with
    ready := [], running := some (justTaken ⟨0, d, 0⟩) }) := .inl ⟨_, _, h, rfl, rfl⟩

/-- A host address space that ATS serves as it is. -/
def hosted (s : State) : State := { s with
  cxl := linked.cxl
  coh := { s.coh with
    hbuf := [(whoRing 5, 0x3000 / 64, List.replicate 64 0, false)] } }

theorem test_witness_NopFenceAndSignal :
    (let d := desc 9
     MayStart (withDesc d) 5 ⟨0, d, 0⟩ [] ∧ dType d = 9 ∧ dBytes d 63 16 = 0) ∧
    (let d := desc (5 + 2 ^ 128 + 2 ^ 129)
     MayStart (withDesc d) 5 ⟨0, d, 0⟩ [] ∧ dType d = 5 ∧ bits d 511 130 = 0 ∧ (ringOf (withDesc d) 5).ctx = 0 ∧ fenceMet (runsDesc d) 5 0 (bit d 129) = true) ∧
    (let d := desc (6 + 0x3000 * 2 ^ 192)
     MayStart (mapped (withDesc d)) 5 ⟨0, d, 0⟩ [] ∧ isSignal 0 d = true ∧ sgBad d = false ∧
       okAcc (cvaWrite (mapped (runsDesc d)) ⟨whoRing 5, 0⟩ (sgAddr d) (leBytes 8 (sgValue d)) false) = true) := by unfold MayStart; decide +kernel

theorem test_witness_NopFenceAndSignal_kinds :
    (let d := desc (6 + 2 ^ 128 + 0x3000 * 2 ^ 192)
     MayStart (mapped (withDesc d)) 5 ⟨0, d, 0⟩ [] ∧ isSignal 1 d = true ∧ sgBad d = false ∧
       (match xlate (mapped (runsDesc d)) 0 (sgAddr d) true false with | .ok g _ => !g.host | _ => false) = true) ∧
    (let d := desc (6 + 2 * 2 ^ 128)
     MayStart (withDesc d) 5 ⟨0, d, 0⟩ [] ∧ isSignal 2 d = true ∧ sgBad d = false) ∧
    (let d := desc (6 + 3 * 2 ^ 128)
     MayStart (withDesc d) 5 ⟨0, d, 0⟩ [] ∧ isSignal 3 d = true ∧ sgBad d = false ∧
       (issueReq (setRunning (runsDesc d) 5 { justTaken ⟨0, d, 0⟩ with begun := true }) 0 tDBELL (sgPkg d) 0 8 false (BitVec.ofNat 64 (sgRing d))
         (padSlots (leBytes 8 (sgValue d))) (.dbell 5)).isSome = true) := by unfold MayStart; decide +kernel

/-- The page of 0x40000000 on is host memory. -/
def hostMapped (s : State) : State :=
  let s := mapped (hosted s)
  { s with
    mem := s.mem ++ [(0x2008, 0xF)] }

theorem test_witness_NopFenceAndSignal_host :
    (let d := desc (6 + 2 ^ 128 + 0x40003000 * 2 ^ 192)
     MayStart (hostMapped (withDesc d)) 5 ⟨0, d, 0⟩ [] ∧ isSignal 1 d = true ∧ sgBad d = false ∧
       (match xlate (hostMapped (runsDesc d)) 0 (sgAddr d) true false with
        | .ok g s2 => g.host && okAcc ((hostRead s2 ⟨whoRing 5, 0⟩ g.addr 8).bind (fun bs s => hostWrite s ⟨whoRing 5, 0⟩ g.addr (leBytes 8 (leNat bs + sgValue d))))
        | _ => false) = true) := by unfold MayStart; decide +kernel

/-- Ring 5 of context 1, which is free. -/
def strangerRing (d : BitVec 512) : State := { withDesc d with
  rings := { (withDesc d).rings with
    ctx := [(5, { Ring.none with
      v := true, ctx := 1 })] } }

theorem test_witness_RefusedDescriptors :
    (let s := strangerRing 9
     serving s = true ∧ awake s = true ∧ (ringOf s 5).v = true ∧ (ringOf s 5).err = false ∧ (unitOf s 5).running = none ∧
       (unitOf s 5).ready = ⟨0, 9, 0⟩ :: [] ∧ dFlag 9 2 = false ∧ ctxClosed s (ringOf s 5).ctx = true ∧ dType 9 = 9) ∧
    ([9, 5, 2, 3, 3 + 2 ^ 256, 4, 4 + 2 ^ 128, 7, 8, 8 + 2 ^ 144, 16].all (fun t =>
      let d := desc (t + 2 ^ 15)
      let s := withDesc d
      decide (serving s = true ∧ awake s = true ∧ (unitOf s 5).ready = ⟨0, d, 0⟩ :: [] ∧ dFlag d 2 = false ∧ ctxClosed s (ringOf s 5).ctx = false ∧
        headReserved d = true)) = true) := by decide +kernel

theorem test_witness_MemoryDescriptors :
    (let d := desc (2 + 0x3000 * 2 ^ 128 + 0x5000 * 2 ^ 192 + 64 * 2 ^ 256)
     MayStart (mapped (withDesc d)) 5 ⟨0, d, 0⟩ [] ∧ dType d = 2 ∧ bits d 511 323 = 0 ∧
       okAcc ((copySides (mapped (runsDesc d)) 5 0 (justTaken ⟨0, d, 0⟩)).bind (fun o s => match o with
         | some (a, b, ps) => (copyAccept s 0 a b).bind (fun _ s => copyPiece (setRunning s 5 { justTaken ⟨0, d, 0⟩ with
             pats := ps, begun := true }) 5 0 0 a b)
         | none => .bad 0 0 s)) = true) ∧
    ([false, true].all (fun m =>
      let d := desc (3 + 0x3000 * 2 ^ 128 + 4096 * 2 ^ 192 + 2 ^ 256 * b2n m)
      decide (bit d 256 = m ∧ bits d 511 257 = 0) && (match (sealAccept (mapped (runsDesc d)) 0 d).bind (fun _ s => sealBlocksOf s 0 d 0) with
        | .ok bs s => if m then okAcc (verifyRun bs s (slCva d) (0, 0)) else (match sealRun bs s 0 with | .ok (_, none) _ => true | _ => false)
        | _ => false)) = true) ∧
    (let d := desc (4 + 0x8000 * 2 ^ 144)
     MayStart (withDesc d) 5 ⟨0, d, 0⟩ [] ∧ dType d = 4 ∧ bit d 128 = false ∧ tbReserved d = false ∧ tbUnit d / 16 % 2048 = 0 ∧
       queuedAt (runsDesc d) (pickLoupe (runsDesc d) (tbUnit d) (List.range 16)) < 16) := by unfold MayStart; decide +kernel

/-- A table of context 0 with 6 row bits and one bucket: its entry at 0x3000, its map at 0x6800. -/
def registering (v : Bool) : State :=
  let d := desc (4 + 2 ^ 128 + 0x3000 * 2 ^ 192)
  let s := mapped (withDesc d)
  if v then { s with
    mem := s.mem ++ memOf 0x3000 (leBytes 64 (1 + 6 * 2 ^ 23 + 64 * 2 ^ 32 + 0x6800 * 2 ^ 64)) ++
      memOf 0x6800 (leBytes 32 (2 ^ 16 + 0x6000 * 2 ^ 64 + 0x7000 * 2 ^ 192)) } else s

theorem test_witness_MemoryDescriptors_register :
    (let d := desc (4 + 2 ^ 128 + 0x3000 * 2 ^ 192)
     MayStart (registering false) 5 ⟨0, d, 0⟩ [] ∧ dType d = 4 ∧ bit d 128 = true ∧ tbReserved d = false ∧
       (match cvaRead (registering false) ⟨whoRing 5, 0⟩ (tbCva d) 64 false with
        | .ok bs s => (match tableBusy s 5 (tbTid d) with
          | .ok false _ => !teV (BitVec.ofNat 512 (leNat bs)) && teCtx (BitVec.ofNat 512 (leNat bs)) == 0 | _ => false)
        | _ => false) = true ∧
       (match cvaRead (registering true) ⟨whoRing 5, 0⟩ (tbCva d) 64 false with
        | .ok bs s => (match tableBusy s 5 (tbTid d) with
          | .ok false s2 => teV (BitVec.ofNat 512 (leNat bs)) && entryOk 0 (BitVec.ofNat 512 (leNat bs)) &&
            (match cvaRead s2 ⟨whoRing 5, 0⟩ (teMapCva (BitVec.ofNat 512 (leNat bs))) (32 * 2 ^ tePbits (BitVec.ofNat 512 (leNat bs))) false with
             | .ok mb s3 => (chunks 256 32 (2 ^ tePbits (BitVec.ofNat 512 (leNat bs))) mb).all (bucketOk s3 (BitVec.ofNat 512 (leNat bs))) | _ => false)
          | _ => false)
        | _ => false) = true) := by unfold MayStart; decide +kernel

theorem test_witness_SealStoresCodes : memWf ready = true ∧ (∀ l ∈ [0, 1], dirtyCopy ready l = none) ∧
    (∀ b, b ∈ [0] → (b + 1) * 4096 ≤ edgeBase ∧ lineBlocked ready true (slotOf (b * 4096) / 64) = false) ∧
    (match sealRun [0] ready 0 with | .ok (k, none) _ => k == 1 | _ => false) = true := by decide +kernel

/-- A model image of one step of one program, an END, at 0x8000. -/
def image : List Byte :=
  leBytes 64 (0x4C444D5A + 2 ^ 32 + 2 ^ 48 + 2 ^ 64 + 0x40 * 2 ^ 128 + 0x80 * 2 ^ 192) ++
  leBytes 32 (1 + 2 ^ 16) ++ leBytes 32 (0xE0 + 0x100 * 2 ^ 128 + 0x120 * 2 ^ 192) ++
  leBytes 64 (1 + 2 ^ 16 + 0x100 * 2 ^ 64 + 0x60 * 2 ^ 128) ++ List.replicate 128 0

def withImage (s : State) : State :=
  let s := mapped s
  { s with
    mem := s.mem ++ memOf 0x8000 image }

/-- The resident model of that image, and ring 5 of the open context 1. -/
def resident (d : BitVec 512) : State :=
  let s := withImage { withDesc d with
    rings := { (withDesc d).rings with
      ctx := [(5, { Ring.none with
        v := true, ctx := 1 })] } }
  setCtx { s with
    sched := { s.sched with
      model := some ⟨0x8000, 320, 1, 1, 0, 0x80, 0, [], [(1, 1)], [(1, false, none)]⟩ } } 1 { Ctx.free with
    st := .openS }

theorem test_witness_StepModelAndEndContext_step :
    (let d := desc 1
     let s := resident d
     let m : Model := ⟨0x8000, 320, 1, 1, 0, 0x80, 0, [], [(1, 1)], [(1, false, none)]⟩
     MayStart s 5 ⟨0, d, 0⟩ [] ∧ dType d = 1 ∧ bits d 159 144 = 0 ∧ dBytes d 63 24 = 0 ∧ s.pod.holdSteps = false ∧ (ctxOf s 1).st ≠ .ending ∧
       s.sched.model = some m ∧ stNo d < m.nsteps ∧ s.sched.steps.any (fun t => t.ctx == 1) = false ∧ earlierStep s 5 1 0 = false ∧
       (match (stepEntry s m (stNo d)).bind (fun e s => (stepCheck s m 1 e).bind (fun b s => .ok (e, b) s)) with
        | .ok (_, none) _ => true | _ => false) = true) := by unfold MayStart; decide +kernel

theorem test_witness_StepModelAndEndContext_load :
    (let d := desc 7
     MayStart (withDesc d) 5 ⟨0, d, 0⟩ [] ∧ dType d = 7 ∧ dBytes d 63 32 = 0 ∧ dBytes d 31 24 = 0 ∧ anyLive (runsDesc d) = false ∧ otherLoad (runsDesc d) 5 = false) ∧
    (let d := desc (7 + 0x8000 * 2 ^ 128 + 320 * 2 ^ 192)
     dBytes d 31 24 ≠ 0 ∧ okAcc ((segsOf (withImage (runsDesc d)) 0 (dBytes d 23 16) (dBytes d 31 24) false false).bind (fun _ s =>
       (lookImage s (dBytes d 23 16) (dBytes d 31 24)).bind (fun m s => match m with
         | .ok m => imageRead s m 0 m.len | .error _ => .bad 0 0 s))) = true) := by unfold MayStart; decide +kernel

/-- Ring 5 with an END_CONTEXT of context 0xFFF (with ABORT where `a`), which stands in a state. -/
def ending (a : Bool) (st : CtxSt) : State := setCtx (withDesc (desc (8 + 0xFFF * 2 ^ 128 + b2n a * 2 ^ 144))) 0xFFF { Ctx.free with
  st := st }

theorem test_witness_StepModelAndEndContext : ∀ a ∈ [true, false], ∀ st ∈ [CtxSt.free, .openS, .ending, .teardown],
    MayStart (ending a st) 5 ⟨0, desc (8 + 0xFFF * 2 ^ 128 + b2n a * 2 ^ 144), 0⟩ [] ∧ bit (desc (8 + 0xFFF * 2 ^ 128 + b2n a * 2 ^ 144)) 144 = a ∧
      ecBad (ending a st) 5 (desc (8 + 0xFFF * 2 ^ 128 + b2n a * 2 ^ 144)) = false ∧
      (ctxOf (ending a st) (ecCtx (desc (8 + 0xFFF * 2 ^ 128 + b2n a * 2 ^ 144)))).st = st := by unfold MayStart; decide +kernel

/-- An AUTH descriptor of a command, its payload at 0x3000, and the state in which it runs accepted with that payload. -/
def authDesc (cmd len counter : Nat) : BitVec 512 := desc (0x10 + cmd * 2 ^ 128 + len * 2 ^ 160 + 0x3000 * 2 ^ 192 + counter * 2 ^ 256)
def authed (cmd : Nat) (pl : List Byte) : State :=
  let s := runsDesc (authDesc cmd pl.length 1)
  { s with
    sec := { s.sec with
      auth := some (5, true, pl) }
    flash := { s.flash with
      current := some (List.replicate 32 1) } }
def accepted (cmd : Nat) (pl : List Byte) : Bool := decide (authOf (authed cmd pl) cmd = some (5, justTaken ⟨0, authDesc cmd pl.length 1, 0⟩, pl))

theorem test_witness_AuthAccepted :
    (let d := authDesc 8 8 1
     let s := { mapped (withDesc d) with
       flash := { State.reset.flash with
         current := some (List.replicate 32 1) } }
     MayStart s 5 ⟨0, d, 0⟩ [] ∧ dType d = 0x10 ∧ auBad s 5 d = false ∧ authTurn (setUnit s 5 { unitOf s 5 with
         ready := [], running := some (justTaken ⟨0, d, 0⟩) }) 5 0 = true ∧ s.flash.current = some (List.replicate 32 1) ∧
       okAcc (cvaRead s ⟨whoRing 5, 0⟩ (auCva d) (auLen d) false) = true) := by unfold MayStart; decide +kernel

theorem test_auth_counter : auCounter (authDesc 8 8 1) = 1 ∧ auCounter (authDesc 8 8 0) = 0 := by decide +kernel

/-- A record of a counter verifies under its key, and where it alone stands in the log the last counter is its: a descriptor of counter 1 is above it.
(Whether a descriptor's own tag is right rests on KMAC, which the model leaves uninterpreted: of those two clauses one applies.) -/
theorem test_record_verifies (key : List Byte) : ctrVerifies [key] (ctrRecord key 0) = true := by
  have h : (leBytes 8 0 ++ List.replicate 8 (0 : Byte)).length = 16 := by decide
  simp only [ctrVerifies, ctrRecord, List.any_cons, List.take_left' h, List.drop_left' h, beq_self_eq_true, Bool.true_or]

theorem test_witness_AuthAccepted_counter (s : State) (key : List Byte) (hc : s.flash.current = some key) (hp : s.flash.previous = none)
    (ha : s.flash.logA = [ctrRecord key 0]) (hb : s.flash.logB = []) : lastCounter s < auCounter (authDesc 8 8 1) := by
  have : lastCounter s = 0 := by
    simp only [lastCounter, owned, liveKeys, hc, hp, ha, hb, Option.toList, List.append_nil, List.filter, test_record_verifies]
    rfl
  rw [this, test_auth_counter.1]
  decide

theorem test_witness_KeyFirmwareAndOptionCommands :
    serving (authed 6 []) = true ∧
    accepted 6 (1 :: List.replicate 39 0) = true ∧ leField (1 :: List.replicate 39 0) 63 1 = 0 ∧ leField (1 :: List.replicate 39 0) 0 0 = 1 ∧
    accepted 6 (List.replicate 40 0) = true ∧ leField (List.replicate 40 0) 0 0 = 0 ∧ (authed 6 []).flash.current.isSome = true ∧
    (let pl : List Byte := leBytes 64 (0x47454E5A + 2 ^ 32)
     accepted 1 pl = true ∧ newImageOk pl = true) := by decide +kernel

/-- A management-controller image with no body, and a part that knows its key's digest: it passes every check where its signature verifies. (The
signature scheme is left uninterpreted.) -/
def fwImage : List Byte := leBytes 64 (0x57465A5A + 2 ^ 32) ++ List.replicate 4032 0

def knowsKey : State := { ready with
  fuses := { ready.fuses with
    keyHash := [Config.sha3 (fwPk fwImage)] } }

theorem test_witness_firmware (h : Config.mldsaVerify (fwPk fwImage) (fwDigest fwImage) ((fwImage.drop 1376).take 2420) = true) :
    fwCheck knowsKey fwImage = 0 ∧ (fwRevoke fwImage).testBit (fwKeySlot fwImage) = false := by
  have h1 : fwHeadOk fwImage = true := by decide +kernel
  have h2 : fwKeySlot fwImage = 0 := by decide +kernel
  have h3 : ¬ fwSvn fwImage < svnMin knowsKey (fwKind fwImage) := by decide +kernel
  have h4 : bit knowsKey.fuses.revoked 0 = false := by decide
  have h5 : knowsKey.fuses.keyHash.getD 0 [] = Config.sha3 (fwPk fwImage) := rfl
  refine ⟨?_, by decide +kernel⟩
  unfold fwCheck
  rw [h1, h2, if_neg h3, h4, h5, h]
  simp

theorem test_witness_OtherAuthCommands :
    accepted 3 [] = true ∧ accepted 4 [] = true ∧ (accepted 5 (List.replicate 64 0) = true ∧ (parseChange (List.replicate 64 0)).isSome = true) ∧
    noneInFlight { authed 5 [] with
      pod := { ready.pod with
        holdSteps := true } } = true ∧
    (accepted 10 (leBytes 8 0xFFFF) = true ∧ leNat (leBytes 8 0xFFFF) < 2 ^ 16 ∧ (authed 10 []).pod.stale = false) ∧
    (accepted 8 (leBytes 8 7) = true ∧ leNat (leBytes 8 7) < 8) ∧
    (accepted 9 (leBytes 8 1) = true ∧ leNat (leBytes 8 1) < 2 ∧ ready.rst.strict = false) ∧
    (let pl : List Byte := leBytes 16 (1 + 0x3000 * 2 ^ 64) ++ List.replicate 16 0
     accepted 7 pl = true ∧ (authed 7 pl).sched.ctxs.any (fun e => e.1 != 0 && e.2.st == .openS) = false ∧ pl.length = 32 ∧ leField pl 4 0 = 1 ∧
       leField pl 63 5 = 0 ∧ leField pl 127 64 % 4 = 0 ∧ wordsOf 128 16 1 (pl.drop 16) = [0] ∧
       okAcc ((segsOf (mapped (authed 7 pl)) 0 (leField pl 127 64) 4 true false).bind (fun gs s => (segsReady s gs).bind (fun _ s =>
         segsWriteNow ⟨whoRing 5, 0⟩ s gs (leBytes 4 0)))) = true) := by decide +kernel

/-- (How many banks a channel has is the part's own, a free value: an entry of bank 0 is right where there is one.) -/
theorem test_witness_OtherAuthCommands_repair (h : 0 < hbmBanks (chanKey 0 0)) : repairOk 0 = true := by
  have h1 : bits (0 : BitVec 128) 3 0 = 0 ∧ bits (0 : BitVec 128) 8 4 = 0 ∧ bits (0 : BitVec 128) 15 10 = 0 ∧ (bits (0 : BitVec 128) 127 48 == 0) = true := by
    decide
  unfold repairOk
  rw [h1.1, h1.2.1, h1.2.2.1, h1.2.2.2]
  simpa using h

theorem test_witness_CommandsNeedAnAcceptedAuth : ready.sec.auth = none ∧ goesOn (exec .packageReset ready) = true ∧
    goesOn (exec (.hbmRepairCommit []) ready) = true := by decide

/-- The last ring of all. -/
def lastRing (r : Ring) : State := { ready with
  rings := { ready.rings with
    ctx := tset Ring.none [] (2 ^ 20 - 1) r } }
def ring4 : Ring := { Ring.none with
  v := true, logsize := 4 }

theorem test_witness_DoorbellCases :
    (2 ^ 20 - 1 < 2 ^ 20 ∧ serving (lastRing ring4) = true ∧ (ringOf ready (2 ^ 20 - 1)).v = false) ∧
    (ringOf (lastRing { ring4 with
      err := true }) (2 ^ 20 - 1)).err = true ∧
    (bits (BitVec.ofNat 64 (2 ^ 48)) 63 48 ≠ 0 ∧ bits (BitVec.ofNat 64 (2 ^ 40)) 43 40 ≠ 0 ∧ bits (BitVec.ofNat 64 (2 ^ 47)) 47 45 ≠ 0) ∧
    (2 ^ ring4.logsize < (17 + 2 ^ 24 - ring4.done) % 2 ^ 24 ∧ ¬ 2 ^ ring4.logsize < (16 + 2 ^ 24 - ring4.done) % 2 ^ 24) ∧
    (bits (BitVec.ofNat 64 0) 23 0 = ring4.tail ∧ bits (BitVec.ofNat 64 16) 23 0 ≠ ring4.tail) := by decide

/-- Ring 5 with these fields of the ring unit. -/
def unitIs (r : Ring) (u : RingUnit) : State := { linked with
  rings := { linked.rings with
    ctx := tset Ring.none [] 5 r, unit_ := tset RingUnit.none [] 5 u } }

theorem test_witness_RingUnitWork :
    (let r : Ring := { ring4 with
       watch := true, whost := true }
     let s := unitIs r { RingUnit.none with
       reread := true }
     serving s = true ∧ (ringOf s 5).v = true ∧ okAcc (hostPieces (wakeBy false s) 0 64 false) = true ∧ hlcLine s (watchedLine s r) = none ∧ hostUp s = true ∧
       linkHeld s = false ∧ (∀ o ∈ s.coh.hout, o.who ≠ whoWatch 5) ∧ (∀ f ∈ s.coh.fills, f.1 ≠ watchedLine s r) ∧
       hlcLine { s with
         coh := { s.coh with
           hlc := tput [] 0 ⟨.s, [1], false, 0⟩ } } 0 = some ⟨.s, [1], false, 0⟩) ∧
    (let s := unitIs { ring4 with
       watch := true } { RingUnit.none with
       reread := true }
     readyLines (wakeBy false s) false [0] = none ∧ (setEntries (wakeBy false s) 0).length < 16 ∧ (lineNow (wakeBy false s) 0).2 = false) ∧
    (let s := unitIs ring4 { RingUnit.none with
       pend := true }
     awake s = true ∧ isNext s (ringsWith s (·.pend)) 5 = true ∧ (ringsWith s (·.onchip)).length < 16384) ∧
    (let s := unitIs ring4 { RingUnit.none with
       onchip := true }
     leastServed s ((ringsWith s (·.onchip)).filter (droppable s)) = some 5) ∧
    (let s := unitIs { ring4 with
       tail := 1 } { RingUnit.none with
       onchip := true }
     isNext s ((ringsWith s (·.onchip)).filter (fetchable s)) 5 = true ∧ okAcc (ringRead s (whoFetch 5) 0 false 0 64) = true) := by decide +kernel

/-- Ring 5 runs a descriptor that has its report, in a phase. -/
def reported (host : Bool) (d : BitVec 512) (ph : Nat) (wrote : Tbl Nat) (out : List HostOut) : State :=
  let s := unitIs { ring4 with
    chost := host } { RingUnit.none with
    running := some { justTaken ⟨0, d, 0⟩ with
      report := some (Report.status_ 0), phase := ph, wrote := wrote } }
  { s with
    coh := { s.coh with
      hout := out } }

theorem test_witness_CompletionSteps :
    (let s := reported true (desc 0x109) 0 [(whoRing 5, 7)] []
     serving s = true ∧ (ringOf s 5).v = true ∧ (ringOf s 5).err = false ∧ dFlag (desc 0x109) 0 = true ∧ errorAhead s (Report.status_ 0) = false) ∧
    (let s := reported true (desc 0x109) 1 [] []
     ownOut s 5 = false ∧ errorAhead s (Report.status_ 0) = false) ∧
    (let s := reported true 9 0 [(whoRing 5, 7)] []
     dFlag (9 : BitVec 512) 0 = false ∧ okAcc (hostWrite s ⟨whoRing 5, 0⟩ 0 (List.replicate 32 0)) = true) ∧
    (let s := reported false 9 0 [] []
     okAcc (devWrite s 0 (List.replicate 32 0)) = true) ∧
    ([2, 3, 4].all (fun ph => !ownOut (reported true 9 ph [] []) 5 && ownOut (reported true 9 ph [] [⟨7, .write, whoRing 5, 0, none⟩]) 5)) = true := by
  decide +kernel

theorem test_witness_RingControl :
    (let s := showRing (wakeBy false ready) 5
     pageOpen ready rRING_CTRL = true ∧ groupInReset s 5 = false ∧ writeRefused s 5 (ringWindow s) = false ∧ serving s = true ∧ bit (ringWindow s) 0 = false) ∧
    (let s := showRing (wakeBy false (setReg (setReg ready rRING_DATA0 1) (rRING_DATA0 + 16) 0)) 5
     writeRefused s 5 (ringWindow s) = true) ∧
    (let s := showRing (wakeBy false (setReg ready rRING_DATA0 (1 + 4 * 2 ^ 10))) 5
     writeRefused s 5 (ringWindow s) = false ∧ bit (ringWindow s) 0 = true) ∧
    (let s := showRing (wakeBy false { setReg ready rRING_DATA0 1 with
       rst := { ready.rst with
         block := some (6, 0) } }) 5
     groupInReset s 5 = true ∧ bit (ringWindow s) 0 = true) ∧
    (unitOf (runsDesc 9) 5).running.isSome = true ∧
    ((unitOf (lastRing ring4) (2 ^ 20 - 1)).running = none ∧ serving (lastRing ring4) = true ∧ (ringOf (lastRing ring4) (2 ^ 20 - 1)).v = true) := by decide +kernel

/-- A slot of a context in a state. -/
def slotIs (c : Nat) (st : CtxSt) : State := setCtx ready c { Ctx.free with
  st := st }

theorem test_witness_ContextAndCoreWindows :
    (pageOpen ready rCTX_CTRL = true ∧ serving (setField ready rCTX_CTRL 11 0 0xFFF) = true ∧ (ctxOf ready 0xFFF).st = .free ∧ openReason ready 0xFFF 0 0 0 0 ≠ 0) ∧
    ((ctxOf (setField (slotIs 0xFFF .teardown) rCTX_CTRL 11 0 0xFFF) 0xFFF).st = .teardown ∧ (ctxOf (setField (slotIs 1 .ending) rCTX_CTRL 11 0 1) 1).st = .ending) ∧
    (let m : Model := ⟨0, 0, 1, 1, 0, 0, 0, [], [(1, 1)], []⟩
     openReason { ready with
       sched := { ready.sched with
         model := some m } } 1 0 0 0 1 = 0) ∧
    (pageOpen ready rSCH_CORE = true ∧ withdrawRefused (setField ready rSCH_CORE 9 0 800) 800 = true ∧ withdrawRefused ready 799 = false) ∧
    ((coreOf ready 799).lo = none ∧ (coreOf ready 799).hi = none ∧ (coreOf (running (prog [])) 0).lo ≠ none ∧ 799 < coreCount ready ∧
      (coreOf ready 799).wdPend = false ∧ (coreOf ready 799).withdrawn = false) ∧
    (let s := setCore ready 799 { Core.fresh with
       withdrawn := true }
     (coreOf s 799).scrubLo = false ∧ (coreOf s 799).scrubHi = false ∧ coreInReset s 799 = false) ∧
    (coreOf (setCore ready 5 { Core.fresh with
      wdPend := true }) 5).wdPend = true := by decide +kernel

theorem test_witness_TableWindows :
    pageOpen ready rFIX_SE_CTRL = true ∧ pageOpen ready rPRT_RT_CTRL = true ∧ pageOpen ready rSTK_GRP_CTRL = true ∧ ready.rst.strict = false ∧
    stepRuns ready 0xFFF = false ∧ stepRuns (running (prog [])) 1 = true ∧
    { ready with
      rst := { ready.rst with
        strict := true } }.rst.strict = true ∧ (255 : BitVec 8) ≠ 0 ∧ ready.pod.colls.any (fun c => c.grp == 255) = false ∧
    (colls true).pod.colls.any (fun c => c.grp == 255) = true ∧ holdsEntry ready 0xFFF = false ∧
    holdsEntry (slotIs 0xFFF .openS) 0xFFF = true ∧ stepRuns (slotIs 0xFFF .openS) 0xFFF = false ∧ pageOpen (slotIs 0xFFF .openS) rFIX_SE_CTRL = true := by
  decide +kernel

theorem test_witness_DieAndBlockResets :
    pageOpen ready rRST_CTRL = true ∧ (asked ready 0 7).rst.phase = .ready ∧ (asked ready 0 7).rst.block = none ∧
    (decide (7 < 8) && dieIdle ready 7) = true ∧ (decide (0 < 8) && dieIdle (running (prog [])) 0) = false ∧
    (coreOf (setCore ready 799 { Core.fresh with
      withdrawn := true }) 799).withdrawn = true ∧ (portOf ready 31).st = .off ∧ (loupeOf ready 15).queue = [] ∧
    { ready with
      rst := { ready.rst with
        block := some (1, 799) } }.rst.block = some (1, 799) := by decide +kernel

/-- Port 31 in a state. -/
def portIs (p : Port) : State := { ready with
  ports := [(31, p)] }
def portSt (st : PortSt) : State := portIs { Port.off with
  st := st, en := true }

theorem test_witness_PortControlAndSoftRepair :
    pageOpen ready (rPRT_CTRL 31) = true ∧ (portOf ready 31).st = .off ∧ ready.rst.block ≠ some (2, 31) ∧ (portOf (portSt .drain) 31).st = .drain ∧
    ((portOf (portSt .up) 31).st ≠ .off ∧ (portOf (portSt .up) 31).st ≠ .drain) ∧ pageOpen ready (rMEM_PPR_CTRL 15) = true := by decide +kernel

theorem test_witness_RegisterAccesses :
    (pageOpen ready rPKG_ERRQ_BASE = true ∧ bit (regVal ready rPKG_ERRQ_CTRL) 0 = false ∧ bit (regVal (setReg ready rPKG_ERRQ_CTRL 1) rPKG_ERRQ_CTRL) 0 = true ∧
      pageOpen ready rPKG_ERRQ_CTRL = true ∧ pageOpen ready rPKG_ERRQ_HEAD = true) ∧
    (ioUp linked = true ∧ 0xFFFFF8 < 2 ^ 24 ∧ 0xFFFFF8 % 8 = 0 ∧ pageOpen (wakeBy false linked) 0xFFFFF8 = true ∧ 0xFFFFFC < 2 ^ 24 ∧ 0xFFFFFC % 4 = 0 ∧ 2047 < 2048) ∧
    (let s := { linked with
       csw := { linked.csw with
         authen := true } }
     s.rst.phase = .ready ∧ cswOpen s = true ∧ 4088 < 4096 ∧ 4088 % 4 = 0 ∧ 4088 % 64 ≠ 0 ∧ 4088 % 64 ≠ 60) ∧
    (alignedAccess 4 8 = false ∧ alignedAccess 1 4 = false ∧ alignedAccess 0 2 = false ∧ pageOpen linked 4 = true) ∧
    (pageOpen ready 0 = true ∧ ready.pwr.st ≠ 3 ∧ i3cPage 0 = true ∧ (setPtr (wakeBy true ready) 0).rst.strict = false ∧
      i3cPage (wakeBy true ready).pins.i3cPtr.toNat = true ∧ (wakeBy true ready).pins.i3cPtr.toNat % 8 = 0) := by decide +kernel

/-- The window open, its slot 63 holding these words. -/
def window (ws : Tbl (BitVec 32)) : State := { linked with
  csw := { linked.csw with
    authen := true, words := ws } }

theorem test_witness_ContactSheetCommands :
    (ioUp (window []) = true ∧ 63 < 64 ∧ cswOpen (window []) = true ∧ (window []).csw.busy = none ∧ cmdCode (cmdOf (window []) 63) = 0 ∧
      cmdReserved (cmdOf (window []) 63) = false ∧ (window []).rst.phase = .ready) ∧
    (let c : List (BitVec 32) := [4 * 2 ^ 24]
     3 < cmdCode c) ∧
    (let c : List (BitVec 32) := [2 ^ 24, 0, 0, 0, 64, 0, 64, 0, 0]
     cmdCode c = 1 ∧ copyRefused c = 0) ∧
    (let c : List (BitVec 32) := [2 ^ 24, 0, 0, 0, 63, 0, 64, 0, 0]
     cmdCode c = 1 ∧ copyRefused c ≠ 0) ∧
    (let c : List (BitVec 32) := [2 * 2 ^ 24, 0, 0, 0, 64, 0, 64, 0, 7]
     cmdCode c = 2 ∧ fillRefused c = 0) ∧
    (let c : List (BitVec 32) := [3 * 2 ^ 24, 0, 0, 0, 0x8000, 0, 0x10000, 2 ^ 20 + 2 ^ 8 + 1]
     cmdCode c = 3 ∧ gemmRefused c = 0) ∧
    (fillRefused [2 * 2 ^ 24] ≠ 0 ∧ gemmRefused [3 * 2 ^ 24] ≠ 0 ∧ cmdCode [2 * 2 ^ 24] = 2 ∧ cmdCode [3 * 2 ^ 24] = 3) := by decide +kernel

theorem test_witness_PlacementPicksFreeCores :
    placeFor (running (prog [])) { oneStep with
      nprog := 2 } [] = some [(1, false), (2, false)] ∧
    placeFor (running (prog [])) { oneStep with
      nprog := 3, split := true, aff := some 7 } [] = some [(700, false), (700, true), (701, false)] := by decide +kernel

theorem test_witness_CoresAreScrubbedBetweenContexts :
    (coreOf (setCore ready 799 { Core.fresh with
      split := true, scrubHi := true }) 799).scrubHi = true ∧ (coreOf ready 799).ctxLo ≠ oneStep.ctx ∧ oneStep.split = false ∧
    (let t : StepRec := { oneStep with
       split := true }
     t.split = true ∧ (coreOf ready 799).ctxHi ≠ t.ctx) := by decide +kernel

/-- A step of context 1 in a state, alone. -/
def stepIs (t : StepRec) : State := { ready with
  sched := { ready.sched with
    steps := [t] } }

/-- A step of 100 programs for die 7 that waits, of a class, while a step of class 2 holds core 799 (with no op done for `quiet` ticks). -/
def waits (cls quiet : Nat) : StepRec := { oneStep with
  cls := cls, nprog := 100, aff := some 7, st := .waiting, slots := [], waited := 2 ^ 32, first := quiet }
def holds (quiet : Nat) : StepRec := { oneStep with
  uid := 2, ctx := 2, cls := 2, slots := [(799, false)], quiet := quiet }
def crowded (cls quiet : Nat) : State := { setField ready rMEM_MAP 8 4 1 with
  cores := [(799, { Core.fresh with
    lo := some { freshProg (holds quiet) 0 with
      released := true } })]
  sched := { ready.sched with
    steps := [waits cls quiet, holds quiet] } }

theorem test_witness_SchedulerEvents_placement :
    (let s := stepIs { oneStep with
       st := .waiting, slots := [] }
     stepsGo s = true ∧ waitOrder s = { oneStep with
       st := .waiting, slots := [] } :: [] ∧ (placeFor s { oneStep with
       st := .waiting, slots := [] } []).isSome = true) ∧
    (∀ c ∈ [0, 1], stepsGo (crowded c 0) = true ∧ waitOrder (crowded c 0) = waits c 0 :: [] ∧ placeFor (crowded c 0) (waits c 0) [] = none ∧
      victimSet (crowded c 0) (waits c 0) [] (victimsOf (crowded c 0) c) = some [holds 0] ∧ freeSets (crowded c 0) = [0] ∧
      stepOf (crowded c 0) 2 = some (holds 0) ∧ (holds 0).st ≠ .saving) ∧
    regField (crowded 1 0) rSCH_OPT 31 0 ≤ (waits 1 0).waited := by decide +kernel

theorem test_witness_SchedulerEvents_blockSwap :
    (let s := crowded 3 (2 ^ 32)
     placeFor s (waits 3 (2 ^ 32)) [] = none ∧ s.sched.steps.filter onCores ≠ [] ∧
     (s.sched.steps.filter onCores).all (fun x => decide (regField s rSCH_OPT 63 32 ≤ x.quiet)) = true ∧
     victimSet s (waits 3 (2 ^ 32)) []
       (((s.sched.steps.filter onCores).filter (fun x => x.csw.isNone && !x.voided)).foldl (fun l x => insVictim (·.quiet) x l) []) = some [holds (2 ^ 32)]) := by
  decide +kernel

theorem test_witness_SchedulerEvents_saved :
    (let t := { oneStep with
       st := .saving, set := some 0 }
     let s := { running (prog []) with
       sched := { ready.sched with
         steps := [t] } }
     stepOfCtx s 1 = some t ∧ serving s = true ∧
       (livePlaces s t).all (fun p => hostBack s p && (match progOf s p with | some q => atBoundary s p q | none => true)) = true ∧
       readyRange s (setBase 0) (2 * gib) = none) := by decide +kernel

theorem test_witness_SchedulerEvents_rest :
    (let t := { oneStep with
       st := .saving, set := some 0 }
     let s := { running (prog []) with
       sched := { ready.sched with
         steps := [t] } }
     match stepOf (atRest s t) 1 with | some x => x.set == some 0 && x.saved.isEmpty | none => false) = true := by decide +kernel

theorem test_witness_SchedulerEvents_release :
    (let t := { oneStep with
       st := .placed, stepno := 0 }
     let s := setCtx { resident 1 with
       cores := [(0, { Core.fresh with
         lo := some (freshProg t 0) })]
       sched := { (resident 1).sched with
         steps := [t] } } 1 (ctxOf (resident 1) 1)
     stepOfCtx s 1 = some t ∧ stepsGo s = true ∧ coresUp s t = true ∧ okAcc (programsOf s t) = true ∧ t.csw = none ∧ t.saved = []) := by decide +kernel

theorem test_witness_SchedulerEvents :
    (let t := { oneStep with
       wdog := 5, used := 5 }
     stepOfCtx (stepIs t) 1 = some t ∧ t.wdog ≠ 0 ∧ t.wdog ≤ t.used ∧ t.st = .released ∧ t.csw = none ∧
     reachOf { ready with
       rst := { ready.rst with
         reach := List.replicate 16 3 } } 15 = 3 ∧ (ctxOf (slotIs 1 .openS) 1).st = .openS ∧ (cswStep ready 0 1 []).csw ≠ none) := by decide +kernel

theorem test_witness_SchedulerEvents_restored (s : State) :
    (let t := { oneStep with
       st := .restored, saved := [savedEnded 0] }
     t.saved ≠ [] ∧ checkSet s t = .ok () s) := ⟨by decide, rfl⟩

theorem test_witness_ContextEndsAndCorePower :
    (let s := slotIs 0xFFF .teardown
     (ctxOf s 0xFFF).st = .teardown ∧ coresBack s 0xFFF = true ∧ ctxBusy s 0xFFF = false ∧ (ctxOf s 0xFFF).endPend = []) ∧
    (let s := setCtx ready 0xFFF { Ctx.free with
       st := .teardown, endPend := [5] }
     coresBack s 0xFFF = true ∧ ctxBusy s 0xFFF = false ∧ (ctxOf s 0xFFF).endPend ≠ [] ∧ (ringsOf s 0xFFF).all (fun n => (unitOf s n).running.isNone) = true) ∧
    (let s := slotIs 0xFFF .ending
     (ctxOf s 0xFFF).st = .ending ∧ s.sched.steps.any (fun t => t.ctx == 0xFFF) = false ∧ (ringsOf s 0xFFF).all (ringIdle s) = true ∧ ctxBusy s 0xFFF = false) ∧
    ((coreOf ready 799).pwr = .running ∧ halfStalled (coreOf ready 799).lo = true ∧ halfStalled (coreOf ready 799).hi = true ∧ (coreOf ready 799).lo = none ∧
      (coreOf ready 799).hi = none ∧ (coreOf ready 799).scrubLo = false ∧ (coreOf ready 799).scrubHi = false) ∧
    (∀ b ∈ [true, false], (coreOf (setCore ready 799 { Core.fresh with
      pwr := .waking b }) 799).pwr = .waking b) ∧ grainRuns ready 799 = true ∧ grainRuns ready 800 = false ∧ (coreOf ready 799).topupsOff = false := by
  decide +kernel

/-- A port in UP with a peer. -/
def upPort : Port := { Port.off with
  st := .up, en := true, peer := some (7, 0) }

/-- Port 31 in UP that received one transaction from package 7. -/
def received (ty inc : Nat) (hi : BitVec 64) (data : List Byte) : State :=
  let s := portIs { upPort with
    rxq := [⟨ty, 0, 7, inc, 0, 0, 0, hi, data⟩] }
  { s with
    pod := { s.pod with
      ownInc := 1, incs := tset 0 [] 7 9 } }

/-- A DATA flit of SEQ 0 without a transaction, its CRC right. -/
def goodFlit (seq : BitVec 12) : Flit := ⟨0, seq, 0xFFF, List.replicate 8 0, List.replicate 240 0,
  BitVec.ofNat 32 (crc32 (flitBody 1 0 seq.toNat 0xFFF (List.replicate 8 0) (List.replicate 240 0)))⟩

theorem test_witness_FlitsAndReplay_received :
    takesFlits (portOf (portIs upPort) 31) = true ∧ crcGood (goodFlit 0) = true ∧ (goodFlit 0).seq.toNat = upPort.seqExp ∧
    crcGood (goodFlit 0xFFF) = true ∧ (goodFlit 0xFFF).seq.toNat ≠ upPort.seqExp ∧ crcGood { goodFlit 0 with
      crc := 0 } = false := by decide +kernel

theorem test_witness_FlitsAndReplay :
    (let p : Port := { upPort with
       replay := [⟨0, 0, []⟩] }
     p.replay ≠ [] ∧ p.replays < regField (setField (portIs p) rPRT_LINK 19 16 4) rPRT_LINK 19 16 ∧ regField (portIs p) rPRT_LINK 19 16 ≤ { p with
       replays := 15 }.replays) ∧
    (let x : Txn := ⟨tRD, 7, 0, 1, 0, 0, 0, 0, []⟩
     let p : Port := { upPort with
       txq := [(none, x)], credits := List.replicate 8 4 }
     p.st = .up ∧ (portIs p).pod.stale = false ∧ inFog (portIs p) = false ∧ nextToSend p none = some (none, x) ∧
       p.replay.length + (flitsOf (x.data.length / 240 + 2) true (headerBytes x ++ x.data)).length ≤ 512 ∧ ({ p with
         width := 3 }).txq.any (fun e => !carries { p with
         width := 3 } e.2) = true) ∧
    (upPort.st = .up ∧ nextToSend upPort none = none) ∧
    (ready.pwr.st ≠ 2 ∧ ready.pwr.entering ≠ some 2) := by decide +kernel

theorem test_witness_PortTrainingAndHeartbeats :
    (chooseWidth 0xFFFF = some (0, 0) ∧ chooseWidth 0xF000 = some (2, 3) ∧ (portOf (portSt .train) 31).st = .train ∧ (portOf (portSt .align) 31).st = .align ∧
      (portOf (portSt .retrain) 31).st = .retrain ∧ (portOf (portSt .drain) 31).st = .drain ∧ laneUsed upPort 15 = true ∧
      (chooseWidth (({ Port.off with
        good := 0xFFFF }).good &&& (0x00FF : BitVec 16))).isSome = true) ∧
    (let p : Port := { upPort with
       st := .down, hb := 4, silence := some 1 }
     p.hb = 4 ∧ p.silence.isSome = true ∧ ((portIs p).ports.filter (fun e => e.2.en)).all (fun e => e.2.st == .down) = true ∧ (portIs p).ports.filter (fun e => e.2.en) ≠ []) ∧
    (peerOf upPort = some 7 ∧ (received tHBEAT 9 0 []).pod.ownInc ≠ 0 ∧ (received tHBEAT 9 0 []).pod.stale = false ∧ inFog (received tHBEAT 9 0 []) = false) ∧
    (∀ ty ∈ [tHBEAT, tDARK],
     let s := portIs { upPort with
       hb := 1, rxq := [⟨ty, 0, 7, 9, 0, 0, 0, 5, []⟩] }
     let s : State := { s with
       pod := { s.pod with
         ownInc := 1, incs := tset 0 [] 7 9 } }
     (match arrive s (some 31) ty with | .ok _ t => (portOf t 31).hb == 1 | _ => false) = true) ∧
    (0 + 1 < regField (setField ready rSTK_MEMB 24 17 3) rSTK_MEMB 24 17) := by decide +kernel

/-- A request that has arrived here may be served: its lines are free, and its reply can go. -/
def servable (ty : Nat) (hi : BitVec 64) (data : List Byte) (write atomic : Bool) (eff : State → Txn → Nat → Txn × State) : Bool :=
  match arrive (looped ty hi data) none ty with
  | .ok x s1 =>
    let st := requestStatus s1 x atomic
    st == 0 && (readyLines s1 write (linesOf (rqPPA x) (rqLen x))).isNone && replyRoom s1 (eff s1 x st).1 &&
      (sendOn (countRefused (eff s1 x st).2 none st) (eff s1 x st).1).isSome
  | _ => false

theorem test_witness_RemoteRequestsAndReplies_requests :
    servable tRD 0 [] false false rdEff = true ∧ servable tWR 0 (List.replicate 16 1) true false wrEff = true ∧
    servable tATADD (7 * 2 ^ 41) (leBytes 16 1) true true (atomicEff (fun x v => v + leNat (x.data.take 8))) = true ∧
    servable tATCAS (7 * 2 ^ 41) (leBytes 16 1) true true
      (atomicEff (fun x v => if v = leNat (x.data.take 8) then leNat ((x.data.drop 8).take 8) else v)) = true ∧
    (match arrive (looped tDBELL 5 (leBytes 8 0)) none tDBELL with
     | .ok x s1 => dbellStatus s1 x != 0 && replyRoom (countRefused s1 none (dbellStatus s1 x)) (replyTo s1 x tWRACK false (dbellStatus s1 x) 0 [])
     | _ => false) = true := by decide +kernel

theorem test_witness_RemoteRequestsAndReplies :
    (okArr (arrive (looped tRDRSP 0 []) none tRDRSP) = true ∧ (looped tRDRSP 0 []).pod.reqs.find? (fun r => r.tag == 0 && r.dst == 0) = none) ∧
    (∀ ty ∈ [tRDRSP, tWRACK, tATRSP], (match arrive { looped ty 0 [] with
       pod := { (looped ty 0 []).pod with
         reqs := [⟨0, 0, 0, 8, false, .void, 1⟩] } } none ty with
     | .ok x s1 => (s1.pod.reqs.find? (fun r => r.tag == x.tag && r.dst == x.src)).isSome | _ => false) = true) ∧
    (∀ w ∈ [Purpose.void, .rwrite p0 false 0],
     let r : RemReq := ⟨65535, 7, 0, 8, false, w, 1⟩
     let s := { ready with
       pod := { ready.pod with
         reqs := [r] } }
     s.pod.reqs.find? (fun r => r.tag == 65535) = some r ∧ hostStalls s r = false ∧ r.why = w) ∧
    (match arrive (received tINCNOTE 9 7 []) (some 31) tINCNOTE with
     | .ok x s1 => bits x.hi 11 0 != ownId s1 && incOf s1 (bits x.hi 11 0) != 0 && bits x.hi 27 12 == 0 | _ => false) = true ∧
    (match arrive (received tINCNOTE 9 (2 ^ 12) []) (some 31) tINCNOTE with
     | .ok x s1 => bits x.hi 11 0 == ownId s1 && bits x.hi 27 12 == s1.pod.ownInc | _ => false) = true ∧
    (match arrive (received tINCNOTE 9 (2 ^ 13) []) (some 31) tINCNOTE with
     | .ok x s1 => bits x.hi 11 0 == ownId s1 && bits x.hi 27 12 != s1.pod.ownInc | _ => false) = true := by decide +kernel

theorem test_witness_StrangersChangeNothing :
    (takeTxn (received tWR 8 0 []) (some 31) tWR).isSome = true ∧ (received tWR 8 0 []).pod.stale = false ∧ inFog (received tWR 8 0 []) = false ∧
    8 ≠ incOf (received tWR 8 0 []) 7 := by decide +kernel

/-- READY, with these coherence messages on their way. -/
def mail (l : List CohMsg) : State := { ready with
  coh := { ready.coh with
    msgs := l } }

/-- Line 7 in service for a request that waits for these agents. -/
def inService (wait : List Agent) (granted : Bool) (l : List CohMsg) : State := setHome (mail l) 7 ⟨[], some ⟨⟨.agent .s0, 7, .rdx⟩, wait, none, none, false, granted, false, false⟩⟩

theorem test_witness_HomesAndHolders :
    (∀ c ∈ [HKind.rds .any, .rdx, .upg], First (isReq 7 (some .s1) (· == c)) [CohMsg.ack .s0 7, CohMsg.req ⟨.agent .s1, 7, c⟩] (CohMsg.req ⟨.agent .s1, 7, c⟩) [CohMsg.ack .s0 7]) ∧
    (∀ c ∈ [HKind.rdcur, .wrinv 0 [1] false, .ath 0 false 1 0], First (isReq 7 none (· == c)) [CohMsg.req ⟨.engine, 7, c⟩] (CohMsg.req ⟨.engine, 7, c⟩) []) ∧
    First (fun m => decide (m = CohMsg.ack .s0 7)) [CohMsg.ack .s0 7] (CohMsg.ack .s0 7) [] ∧ First (isWb .s1 7) [CohMsg.wb .s1 7 [1]] (CohMsg.wb .s1 7 [1]) [] ∧
    First (isRsp .s1 7 .i) [CohMsg.rsp .s1 7 .i none] (CohMsg.rsp .s1 7 .i none) [] ∧ First (isGrant .s1 7) [CohMsg.grant .s1 7 .e (some [1])] (CohMsg.grant .s1 7 .e (some [1])) [] := by
  refine ⟨?_, ?_, ?_, ?_, ?_, ?_⟩
  · intro c hc
    exact ⟨[CohMsg.ack .s0 7], [], rfl, rfl, by revert c; decide, rfl⟩
  · intro c hc
    exact ⟨[], [], rfl, rfl, by revert c; decide, rfl⟩
  all_goals exact ⟨[], [], rfl, rfl, by decide, rfl⟩

theorem test_witness_HomesAndHolders_service :
    (serving (inService [] true []) = true ∧ (homeLine (inService [] true []) 7).active.isSome = true ∧ (homeLine ready 7).active = none) ∧
    ((homeLine (inService [.host] false []) 7).active.any (fun a => a.wait.contains .host && kindSnp a == .x && allowedRsp .host (kindSnp a) .i) = true) ∧
    (copyOf ready .s0 7 = none ∧ ringHolds ready 7 = false ∧ copyOf { ready with
      coh := { ready.coh with
        s1 := tput [] 7 ⟨.m, [1]⟩ } } .s1 7 = some ⟨.m, [1]⟩) ∧
    (takeDone 0 [.done (.ring 5) 7 0] = some ((.ring 5, 7, 0), []) ∧ poisoned ready 7 = false) ∧ linked.cxl.link = .l0 := by decide +kernel

theorem test_witness_HomesAndHolders_beats :
    hostWriting (mail []) = false ∧
    beatOn (mail []) (askerDies (.agent .s1)) (asksData ⟨.agent .s1, 7, .rds .any⟩) (bringsData ⟨.agent .s1, 7, .rds .any⟩) (.header 2 0 true 448) = true ∧
    beatOn (mail []) (askerDies (.agent .s1)) (asksData ⟨.agent .s1, 7, .rds .any⟩) (bringsData ⟨.agent .s1, 7, .rds .any⟩) (.header 2 0 false 448) = true ∧
    beatOn (mail []) (askerDies (.agent .s1)) false true (.data 2 0 true 448) = true ∧
    beatOn (mail []) (askerDies (.agent .s1)) false true (.data 2 0 false 448) = false := by decide +kernel

theorem test_witness_HomesAndHolders_acks :
    (homeLine (inService [] true []) 7).active = some ⟨⟨.agent .s0, 7, .rdx⟩, [], none, none, false, true, false, false⟩ ∧
    First (fun m => decide (m = CohMsg.ack .s0 7)) (inService [] true [CohMsg.ack .s0 7]).coh.msgs (.ack .s0 7) [] ∧
    (homeLine (mail [CohMsg.ack .s0 7]) 7).active = none := ⟨by decide +kernel, ⟨[], [], rfl, rfl, by decide, rfl⟩, by decide +kernel⟩

theorem test_witness_HomesAndHolders_snoops :
    First (fun m => decide (m = CohMsg.snp .ring 7 .x)) [CohMsg.snp .ring 7 .s, CohMsg.snp .ring 7 .x] (.snp .ring 7 .x) [CohMsg.snp .ring 7 .s] ∧
    ringHolds (unitIs { ring4 with
      watch := true, wline := 448 } { RingUnit.none with
        held := true }) 7 = true ∧
    wbOnWay (mail [.wb .s0 7 []]) .s0 7 = true ∧
    copyOf { ready with
      coh := { ready.coh with
        s0 := [(7, ⟨.s, [1]⟩)] } } .s0 7 = some ⟨.s, [1]⟩ :=
  ⟨⟨[CohMsg.snp .ring 7 .s], [], rfl, rfl, by decide, rfl⟩, by decide +kernel, by decide +kernel, by decide +kernel⟩

theorem test_witness_HomesAndHolders_responses :
    (let act : Active := ⟨⟨.agent .s1, 7, .rdx⟩, [.s0], none, none, false, false, false, false⟩
     act.wait.contains .s0 = true ∧ (∀ k ∈ [Rsp.miss, .i, .wbif], allowedRsp .s0 (kindSnp act) k = true) ∧ kindSnp act = .x ∧
       act.wait.filter (fun b => b != .host || ready.cxl.link == .l0) = [.s0]) ∧
    (let act : Active := ⟨⟨.agent .s1, 7, .rds .any⟩, [.s0, .host], none, none, false, false, false, false⟩
     act.wait.contains .host = true ∧ (∀ k ∈ [Rsp.miss, .s, .o], allowedRsp .s0 (kindSnp act) k = true) ∧ kindSnp act ≠ .x ∧
       act.wait.filter (fun b => b != .host || linked.cxl.link == .l0) = [.s0, .host]) ∧
    takeDone 1 [.done (.ring 5) 7 0, .done .engine 9 3] = some ((.engine, 9, 3), [.done (.ring 5) 7 0]) := by decide +kernel

theorem test_witness_HostPeersAndServerCores :
    (memUp linked = true ∧ ppaOf linked 0x1FFFFFFFFFF = some 0x1FFFFFFFFFF ∧ ppaOf linked 0x20000000000 = none ∧ serving linked = true ∧
      reserved (wakeBy false linked) 0 = false ∧ reserved (wakeBy false linked) 0x1FFFFFFFFFF = true) ∧
    (uioRange linked 0x1FFFFFFFFC0 64 = some 0x1FFFFFFFFC0 ∧ uioRange linked 0x1FFFFFFFFC1 64 = none ∧ uioWriting (wakeBy false linked) 7 = false ∧
      readyLines (wakeBy false linked) false (linesOf 0 64) = none) ∧
    (linked.cxl.mode = true ∧ hlcLine linked 7 = none ∧ hlcLine { linked with
      coh := { linked.coh with
        hlc := tput [] 7 ⟨.m, [1], false, 0⟩ } } 7 = some ⟨.m, [1], false, 0⟩) ∧
    (linked.rst.phase = .ready ∧ linked.cxl.lockD = false ∧ { linked with
      rst := { linked.rst with
        memActive := true } }.rst.memActive = true ∧ (0 : BitVec 52).toNat % 2 ^ 28 = 0 ∧ (0 : BitVec 52).toNat + ppaTop ≤ 2 ^ 52) ∧
    ({ linked with
      cxl := { linked.cxl with
        atsWait := [5] } }.cxl.atsWait.contains 5 = true) ∧
    (copyOf linked .s1 (2 ^ 35 - 1) = none ∧ agentBusy linked .s1 (2 ^ 35 - 1) = false ∧ tainted linked .s1 (2 ^ 35 - 1) = false ∧ 2 ^ 41 - 64 < 2 ^ 41 ∧ lineOf (2 ^ 41 - 64) = 2 ^ 35 - 1) ∧
    (let s := { ready with
       coh := { ready.coh with
         timers := tset 0 [] 95 5 }
       aon := [0, 0, 0, 0, 0, 0, 0, 0, 0, 5] }
     coreKey 1 47 = 95 ∧ tget 0 s.coh.timers 95 ≠ 0 ∧ (tget 0 s.coh.timers 95).toNat ≤ (s.aon.getD 9 0).toNat ∧ s.coh.irq.contains 95 = false) := by decide +kernel

theorem test_witness_CoreRuns : CoreRuns ready 1 47 := by unfold CoreRuns; decide
theorem test_witness_First_host :
    First (fun o => o.hline == 7 && (o.kind == .write || o.kind == .evict)) [(⟨7, .rdCurr, 0, 0, none⟩ : HostOut), ⟨7, .write, 0, 0, none⟩] ⟨7, .write, 0, 0, none⟩ [⟨7, .rdCurr, 0, 0, none⟩] ∧
    First (fun o => o.hline == 7 && (o.kind == .rdCurr || o.kind == .rdShared || o.kind == .rdOwn)) [(⟨7, .rdShared, 0, 0, none⟩ : HostOut)] ⟨7, .rdShared, 0, 0, none⟩ [] :=
  ⟨⟨[⟨7, .rdCurr, 0, 0, none⟩], [], rfl, rfl, by decide, by decide⟩, ⟨[], [], rfl, rfl, by decide, rfl⟩⟩

/-- The linked part, whose host has these requests of the package outstanding. -/
def owedHost (l : List HostOut) : State := { linked with
  coh := { linked.coh with
    hout := l } }

/-- The linked part, with S1's copy of line 7 in this state. -/
def s1Has (st : LineSt) : State := { linked with
  coh := { linked.coh with
    s1 := [(7, ⟨st, [1]⟩)] } }

theorem test_witness_HostPeersAndServerCores_host :
    (let s := fog linked 0x0701 0 0 0 7
     memUp s = true ∧ inFog s = true ∧ ppaOf s 5 = some 5) ∧
    (reserved (wakeBy false linked) 448 = false ∧ (dirOf (wakeBy false linked) 7).owner ≠ some .host ∧
      (dirOf (wakeBy false (setDir linked 7 (.x .host))) 7).owner = some .host) ∧
    (let s := { linked with
       coh := { linked.coh with
         msgs := [.req ⟨.uio 7 0, 9, .wrinv 0 [1] false⟩] } }
     uioWriting (wakeBy false s) 7 = true ∧ uioWriting (wakeBy false s) 8 = false) := by decide +kernel

theorem test_witness_HostPeersAndServerCores_cache :
    inFog linked = false ∧
    (hlcPut (owedHost []) 7 .e (fitBytes 64 [1])).isSome = true ∧ whoErrq < whoWatch 0 ∧ hlcLine (owedHost []) 7 = none ∧
    (∃ l : HlcLine, l.st = .s ∧ hlcLine { linked with
      coh := { linked.coh with
        hlc := tput [] 7 ⟨.s, [1], false, 0⟩ } } 7 = some l) ∧
    (∀ k ∈ [HostReq.rdShared, .rdOwn], (HostOut.mk 7 k 3 0 none).kind = .rdShared ∨ (HostOut.mk 7 k 3 0 none).kind = .rdOwn) ∧
    (HostOut.mk 7 .rdCurr 3 0 none).who ≠ whoNone ∧ (HostOut.mk 7 .rdCurr 3 0 none).who ≠ whoErrq := by
  refine ⟨by decide +kernel, by decide +kernel, by decide, by decide +kernel, ⟨⟨.s, [1], false, 0⟩, rfl, by decide +kernel⟩, by decide, by decide, by decide⟩

theorem test_witness_HostPeersAndServerCores_ats :
    (linked.errs.held = [] ∧ linked.cxl.invs = [] ∧ ({ linked with
      cxl := { linked.cxl with
        mode := false } }.cxl.mode = false)) ∧
    (let s := { owedHost [⟨5 * 64 + 3, .write, 3, 0, none⟩] with
       cxl := { linked.cxl with
         atc := [(9, 5, true, true)] } }
     let phys := (s.cxl.atc.filter (fun e => e.1 == 9)).map (fun e => e.2.1)
     s.coh.hout.any (fun o => phys.contains (o.hline / 64)) = true ∧ (owedHost []).coh.hout.all (fun o => !phys.contains (o.hline / 64)) = true) := by decide +kernel

theorem test_witness_HostPeersAndServerCores_cores :
    storesOf (drainCore linked 95) 95 = [] ∧ (drainCore linked 95).coh.irq.contains 95 = false ∧ storePends (drainCore linked 95) 95 ⟨false, 7⟩ = false ∧
    (0 < 8 ∧ 456 % 64 + 8 ≤ 64 ∧ 456 + 64 ≤ 2 ^ 41 ∧ lineOf 456 = 7 ∧ reserved (drainCore linked 95) 456 = false) ∧
    (∀ st ∈ [LineSt.m, .e, .o, .s], copyOf (drainCore (s1Has st) 95) .s1 7 = some ⟨st, [1]⟩ ∧ tainted (drainCore (s1Has st) 95) .s1 7 = false) ∧
    isDirty ⟨.m, [1]⟩ = true := by decide +kernel

theorem test_witness_LinkEventsAndHostPins :
    (ready.rst.phase ≠ .off ∧ ready.cxl.link = .down) ∧ (linked.cxl.link = .l0 ∧ ioUp linked = true ∧ inFog linked = false ∧ hasDirty linked = false) ∧
    ({ linked with
      cxl := { linked.cxl with
        link := .recovery, ide := true } }.cxl.ide = true) ∧
    (let s := { linked with
       coh := { linked.coh with
         hlc := tput [] 7 ⟨.m, [1], false, 0⟩ } }
     hasDirty s = true ∧ s.coh.hlc.find? (fun e => e.2.st == .m) = some (7, ⟨.m, [1], false, 0⟩)) ∧
    ({ ready with
      rst := { ready.rst with
        warmCnt := true, perstCnt := true } }.rst.perstCnt = true) := by decide +kernel

theorem test_witness_LinkEventsAndHostPins_link :
    (trainsFrom ready = true ∧ (4 = 4 ∨ 4 = 8 ∨ 4 = 16) ∧ 1 ≤ 6 ∧ 6 ≤ 6) ∧
    (let s := { linked with
       cxl := { linked.cxl with
         link := .recovery } }
     s.cxl.link = .recovery ∧ hasDirty s = false ∧ inFog (logLoss s 1 (s.coh.hout.filter (fun o => o.kind == .write || o.kind == .evict)).length (hasDirty s)) = false) ∧
    (let s := { ready with
       cxl := { ready.cxl with
         link := .l2 } }
     trainsFrom s = true ∧ s.cxl.link = .l2) := by decide +kernel

/-- Bring-up at a step of a level, the hold point held where `h` says so. -/
def bringing (lvl n : Nat) (h : Bool) : State := { linked with
  rst := { ready.rst with
    phase := .seq lvl n, hold := h } }

theorem test_witness_MailboxesSessionsAndJtag :
    (doeUp linked = true ∧ (doeProtocols 1)[3]? = some 4 ∧ (doeProtocols 2)[0]? = none ∧ cdat[5]?.isSome = true ∧ cdat[6]? = none) ∧
    (linked.sec.spdm < 3 ∧ 4 ≤ { linked with
      sec := { linked.sec with
        spdm := 4, secured := true } }.sec.spdm ∧ linked.flash.current = none) ∧
    (heldBoot (bringing 0 7 true) = true ∧ (bringing 0 7 true).rst.strict = false ∧ (bringing 0 7 true).rst.phase = .seq 0 7 ∧ jtagScope (bringing 0 7 true) = false ∧ jtagScope { ready with
      sec := { ready.sec with
        scope := 1 } } = true) ∧
    (bit State.reset.fuses.flock 15 = false ∧ bit State.reset.fuses.bset 15 = false ∧ BitVec.ofNat 3 (nth State.reset.fuses.bval 15) &&& ~~~(7 : BitVec 3) = 0 ∧
      (7 : BitVec 3) ≠ 5 ∧ (7 : BitVec 3) ≠ 6) := by decide +kernel

theorem test_witness_MailboxesSessionsAndJtag_more :
    (let s := { linked with
       sec := { linked.sec with
         spdm := 3, secured := true }
       cxl := { linked.cxl with
         ideProg := true } }
     doeUp s = true ∧ 1 ≤ s.sec.spdm ∧ 2 ≤ s.sec.spdm ∧ 3 ≤ s.sec.spdm ∧ s.sec.secured = true ∧ s.cxl.ideProg = true ∧ s.flash.current = none ∧
       (List.replicate 32 (7 : Byte)).length = 32) ∧
    (let s := { bringing 0 7 true with
       sec := { ready.sec with
         scope := 1, challenge := some [1] } }
     s.rst.hold = true ∧ s.rst.phase = .seq 0 7 ∧ jtagScope s = true ∧ s.sec.challenge = some [1] ∧ s.rst.strict = false) ∧
    (let s := bringing 1 7 true
     { s with
       rst := { s.rst with
         strict := true } }.rst.strict = true) := by decide +kernel

theorem test_witness_BringUpAndDomainReset :
    (bringing 0 1 false).rst.phase = .seq 0 1 ∧ (bringing 0 2 false).pins.pwrOk = true ∧
    (bootSlot (countFw (bringing 0 4 false) 0 ready.flash.mcA ready.flash.mcB) 0 ready.flash.mcA ready.flash.mcB).isSome = true ∧
    (bringing 0 7 false).rst.hold = false ∧ (bringing 0 7 false).rst.dietest = [] ∧ (bringing 0 7 true).rst.hold = true ∧
    (bringing 2 1 false).cxl.link = .l0 ∧ (bringing 2 1 false).cxl.lost = false ∧ hostOwed (bringing 2 2 false) = false ∧
    (match optionLoad (bringing 1 8 false) (false, false) false with | .done _ => true | _ => false) = true := by decide +kernel

theorem test_witness_BringUpAndDomainReset_wires : ∀ e, overMarked (bringing 0 6 false) e = none := fun _ => rfl

theorem test_witness_BringUpAndDomainReset_more :
    { ready with
      rst := { ready.rst with
        phase := .off } }.rst.phase = .off ∧ ready.rst.phase = .ready ∧
    bootSlot (countFw (bringing 0 4 false) 0 .blank .blank) 0 .blank .blank = none ∧
    (match optionLoad (let s := bringing 1 8 false; { s with flash := { s.flash with current := some [1] } }) (true, true) false with | .noSlot => true | _ => false) = true ∧
    (match optionLoad (bringing 1 8 false) (false, false) true with | .badMaster => true | _ => false) = true ∧
    inFog (bringing 2 1 false) = false ∧
    (let s := { bringing 2 2 false with
       coh := { linked.coh with
         hout := [⟨7, .evict, 0, 0, none⟩] } }
     hostOwed s = true ∧ s.cxl.link = .l0) := by decide +kernel

theorem test_witness_PowerThrottlesSleepAndScrub :
    (pwrUp ready = true ∧ (∀ d, d < 10 → nth (List.replicate 10 114) d < 115) ∧ ready.pwr.byTemp.getD 7 false = false ∧ ready.pwr.byCap = false) ∧
    (capNow ready < capNow ready + 1 ∧ ready.pwr.entering = none ∧ ready.pwr.waking = false ∧ pickState ready = 0 ∧ ready.pwr.st = 0) ∧
    (let s := { ready with
       pwr := { ready.pwr with
         entering := some 3, darkSent := true, wakeAt := some 0 } }
     s.pwr.entering = some 3 ∧ s.pwr.darkSent = true ∧ s.pwr.wakeAt = some 0) ∧
    (serving ready = true ∧ ready.pwr.st < 2 ∧ unplace (scrubbed ready 0 0 0) 0 0 0 < edgeBase) := by decide +kernel

theorem test_witness_PowerThrottlesSleepAndScrub_clocks :
    ({ ready with
      pwr := { ready.pwr with
        byTemp := [true] } }.pwr.byTemp.getD 0 false = true) ∧
    (capNow ready ≤ capNow ready ∧ 95 * capNow ready ≤ 100 * capNow ready) ∧
    edgeBase ≤ unplace (scrubbed ready 0 0 (2 ^ 26 - 1)) 0 0 ((2 ^ 26 - 1) * 64) := by decide +kernel

/-- R465's example: a hint of 75,000 ticks on the one valid ring, timers in 120,000 and 200,000, the link in L0. -/
def idlePart : State := { linked with
  rings := { linked.rings with
    ctx := [(5, ring4)], unit_ := [(5, { RingUnit.none with
      hint := some 75000 })] }
  coh := { linked.coh with
    wfi := List.range 96, timers := [(0, 120000), (48, 200000)] }
  regs := tset 0 [] rPWR_CTRL (BitVec.ofNat 64 3) }

theorem test_pick_of_the_example : pickState idlePart = 2 ∧ horizonFor idlePart 2 = some 75000 ∧ darkAllowed idlePart = false := by decide +kernel

theorem test_witness_PowerThrottlesSleepAndScrub_states :
    (idlePart.pwr.st < pickState idlePart ∧ 2 ≤ pickState idlePart ∧ pwrUp idlePart = true ∧ idlePart.pwr.entering = none ∧ idlePart.pwr.waking = false) ∧
    (let s := { ready with
       pwr := { ready.pwr with
         st := 1 } }
     pwrUp s = true ∧ pickState s < s.pwr.st ∧ pkgIdle s = false) ∧
    (let s := { linked with
       pwr := { linked.pwr with
         st := 3, waking := true } }
     s.pwr.waking = true ∧ s.pwr.entering = none ∧ s.pwr.st = 3 ∧ (startPorts ((s.ports.map (·.1)).foldl widenPort (litNow s))).cxl.link ≠ .l2 ∧
       (startPorts ((s.ports.map (·.1)).foldl widenPort (litNow { s with
         cxl := { s.cxl with
           link := .l2 } }))).cxl.link = .l2) := by decide +kernel

/-! Results worked out from the spec. -/

theorem test_crc32c_of_the_check_string : crc32c ((List.range 9).map (fun i => BitVec.ofNat 8 (0x31 + i))) = 0xE3069283 := by decide +kernel
theorem test_wait_takes_its_count :
    (match exec (.wait p0) (running (tallied 7 (op 1 0 (31 + 32 * 3)))) with
     | .next t => (progOf t p0).map (fun q => (q.pc, tallyOf q 31)) | _ => none) = some (1, 4) := by decide
theorem test_loop_and_endloop :
    (match exec (.loop p0) (running (prog [op 0 2 2])) with | .next t => (progOf t p0).map (·.loops) | _ => none) = some [⟨0, 3, 0⟩] := by decide
theorem test_aswap_toggles :
    (match exec (.aswap p0 .none) (running (queued1 .array (op 3 2 0))) with | .next t => some (coreOf t 0).selLo | _ => none) = some true := by decide
theorem test_mset_low_mask :
    (match exec (.msetn p0 .none) (running (queued1 .vector (op 4 0 (0x180 * 2 ^ 53 + 5 * 2 ^ 64 + 3 * 2 ^ 48)))) with
     | .next t => (progOf t p0).map (fun q => maskOf q 3) | _ => none) = some 31 := by decide +kernel
theorem test_store_reaches_memory :
    (match devWrite ready 0x1003 [0xAB, 0] with | .ok _ t => t.mem | _ => []) = [(0x1003, 0xAB)] := by decide +kernel
theorem test_doorbell_sets_tail :
    (match exec (.doorbell 0x28 8 3) { linked with
      rings := { linked.rings with
        ctx := [(5, ring4)] } } with | .next t => some ((ringOf t 5).tail, (unitOf t 5).pend) | _ => none) = some (3, true) := by decide +kernel
theorem test_doorbell_of_an_invalid_ring_is_counted :
    (match exec (.doorbell 0x28 8 3) linked with | .next t => regField t rRING_DBDROP 15 0 | _ => 0) = 1 := by decide +kernel
theorem test_memrd_asks_the_home :
    (match exec (.memrd 0x1C0 .shared) linked with | .next t => t.coh.msgs | _ => []) = [.req ⟨.agent .host, 7, .rds .shared⟩] := by decide +kernel
theorem test_hot_reset_is_source_two :
    (match exec .hotReset { linked with
      rst := { linked.rst with
        reach := [0, 1, 1, 7, 1, 1, 1, 2, 3, 1, 1, 1, 2, 7, 1, 3] } } with | .next t => some (t.rst.lastSrc, t.rst.lastLvl) | _ => none) = some (2, 1) := by decide +kernel
theorem test_thermal_trip :
    (match exec (.thermalSample (List.replicate 10 115)) { ready with
      pins := { ready.pins with
        thermTrip := true } } with | .next t => some t.pins.thermTrip | _ => none) = some false := by decide +kernel
theorem test_setkey_needs_a_session :
    (match exec (.setkey (List.replicate 32 1)) linked with | .next t => (t.out, t.flash.current) | _ => ([], none)) = ([.doe 1 4 [0xFF]], none) := by decide +kernel
theorem test_pme_turn_off :
    (match exec .pmeTurnOff linked with | .next t => some t.cxl.link | _ => none) = some .l2 := by decide +kernel

/-- R422: the wire of a lane whose 256th error is corrected is marked, and not before. -/
def wireErrs (n : Nat) : State := { ready with
  rst := { ready.rst with
    wires := tput [] (wireKey 3 2 5 true) n } }

theorem test_wire_is_marked_at_256 :
    (countWire (wireErrs 255) 3 2 5 true).rst.marked = [wireKey 3 2 5 true] ∧ (countWire (wireErrs 254) 3 2 5 true).rst.marked = [] := by decide +kernel

/-- R419: a header beat in error is fog. -/
theorem test_header_in_error_is_fog : inFog (meetBeat ready (.header 3 2 true 0)) = true ∧ inFog (meetBeat ready (.data 3 2 true 0)) = false := by decide +kernel

theorem test_no_edge_14 : (Instr.rds .s0 7 (.wire (.corrected 14 0 0 true 0))).wf = false ∧ (Instr.rds .s0 7 (.wire (.corrected 13 0 0 true 0))).wf = true := by decide +kernel

end Sys2Proof.Tests
end

section
/-! What every command answers: a next state. All but the commands below are written as a next state outright; each of these answers one in
every branch of its own. -/

namespace Sys2Proof.Levels

open Sys2Proof Sys2Proof.Machine

/-- The outcome is a next state. -/
def Answers (r : Out State) : Prop := ∃ t, r = .next t

theorem Answers.next (t : State) : Answers (.next t) := ⟨t, rfl⟩

variable (s : State) (p : ProgRef)

theorem execEndProg_answers : Answers (execEndProg p s) := by
  unfold execEndProg
  repeat' split
  all_goals exact .next _

theorem execNop_answers : Answers (execNop p s) := by
  unfold execNop
  split <;> exact .next _

theorem execLoop_answers : Answers (execLoop p s) := by
  unfold execLoop
  split <;> exact .next _

theorem execEndloop_answers : Answers (execEndloop p s) := by
  unfold execEndloop
  repeat' split
  all_goals exact .next _

theorem execWait_answers : Answers (execWait p s) := by
  unfold execWait
  repeat' split
  all_goals exact .next _

theorem execSignal_answers : Answers (execSignal p s) := by
  unfold execSignal
  split <;> exact .next _

theorem execRsignal_answers : Answers (execRsignal p s) := by
  unfold execRsignal
  split <;> exact .next _

theorem execPendingSignalGiven_answers : Answers (execPendingSignalGiven p s) := by
  unfold execPendingSignalGiven
  repeat' split
  all_goals exact .next _

theorem execRemoteSignalDelivery_answers (n : Nat) : Answers (execRemoteSignalDelivery n s) := by
  unfold execRemoteSignalDelivery
  repeat' split
  all_goals exact .next _

theorem execStepbar_answers : Answers (execStepbar p s) := by
  unfold execStepbar
  split <;> exact .next _

theorem execStepbarArrival_answers : Answers (execStepbarArrival p s) := by
  unfold execStepbarArrival
  dsimp only
  repeat' split
  all_goals exact .next _

theorem execFixerCallEnqueue_answers : Answers (execFixerCallEnqueue p s) := by
  unfold execFixerCallEnqueue
  repeat' split
  all_goals exact .next _

theorem execFixSeCommit_answers (ctx : BitVec 12) (wrcnt : Bool) : Answers (execFixSeCommit ctx wrcnt s) := by
  unfold execFixSeCommit
  split <;> exact .next _

theorem execStkGrpRead_answers (grp : BitVec 8) : Answers (execStkGrpRead grp s) := by
  unfold execStkGrpRead
  split <;> exact .next _

theorem execStkGrpWrite_answers (grp : BitVec 8) : Answers (execStkGrpWrite grp s) := by
  unfold execStkGrpWrite
  repeat' split
  all_goals exact .next _

theorem execHbeat_answers (src : Option Nat) : Answers (execHbeat src s) := by
  unfold execHbeat
  split <;> exact .next _

theorem execIncnote_answers (src : Option Nat) : Answers (execIncnote src s) := by
  unfold execIncnote
  split <;> exact .next _

theorem execDark_answers (src : Option Nat) : Answers (execDark src s) := by
  unfold execDark
  split <;> exact .next _

theorem execReqTimeout_answers (tag : Nat) : Answers (execReqTimeout tag s) := by
  unfold execReqTimeout
  repeat' split
  all_goals exact .next _

/-- Every command answers a next state, on every state. -/
theorem exec_answers (c : Instr) : Answers (exec c s) := by
  cases c with
  | endProg p => exact execEndProg_answers s p
  | nop p => exact execNop_answers s p
  | loop p => exact execLoop_answers s p
  | endloop p => exact execEndloop_answers s p
  | wait p => exact execWait_answers s p
  | signal p => exact execSignal_answers s p
  | rsignal p => exact execRsignal_answers s p
  | pendingSignalGiven p => exact execPendingSignalGiven_answers s p
  | remoteSignalDelivery n => exact execRemoteSignalDelivery_answers s n
  | stepbar p => exact execStepbar_answers s p
  | stepbarArrival p => exact execStepbarArrival_answers s p
  | fixerCallEnqueue p => exact execFixerCallEnqueue_answers s p
  | fixSeCommit ctx wrcnt => exact execFixSeCommit_answers s ctx wrcnt
  | stkGrpRead grp => exact execStkGrpRead_answers s grp
  | stkGrpWrite grp => exact execStkGrpWrite_answers s grp
  | hbeat src => exact execHbeat_answers s src
  | incnote src => exact execIncnote_answers s src
  | dark src => exact execDark_answers s src
  | reqTimeout tag => exact execReqTimeout_answers s tag
  | _ => exact .next _

end Sys2Proof.Levels

open Sys2Proof.Levels

/-- Settles O6, by a case split over the commands: all but nineteen are a next state by definition, and those answer one in each of their branches. -/
theorem noCommandStops : Obligations.NoCommandStops := by
  unfold Obligations.NoCommandStops
  exact fun c s => exec_answers s c

/-- Settles O1: a queue that is not empty takes the second branch of `step`. -/
theorem stepRunsFrontCommand : Obligations.StepRunsFrontCommand := by
  unfold Obligations.StepRunsFrontCommand
  intro c q s
  rfl

end

section
/-! Signals, tallies and barriers: what a given signal makes of the program it reaches, and what a barrier's release leaves. -/

namespace Sys2Proof.Levels

open Sys2Proof Sys2Proof.Machine Sys2Proof.Laws

/-- Memory, registers and the signals on their way are those of `s`. -/
structure SameStores (s u : State) : Prop where
  mem     : u.mem = s.mem
  regs    : u.regs = s.regs
  signals : u.signals = s.signals

theorem SameStores.refl (s : State) : SameStores s s := ⟨rfl, rfl, rfl⟩

theorem SameStores.trans {a b c : State} (h : SameStores a b) (g : SameStores b c) : SameStores a c :=
  ⟨g.mem.trans h.mem, g.regs.trans h.regs, g.signals.trans h.signals⟩

theorem setProg_sameStores (s : State) (p : ProgRef) (q : Prog) : SameStores s (setProg s p q) := ⟨rfl, rfl, rfl⟩

theorem wakeGated_sameStores (s : State) (c : Nat) : SameStores s (wakeGated s c) :=
  ⟨wakeGated_mem s c, wakeGated_regs s c, wakeGated_signals s c⟩

/-- A program with `n` more in tally `t`. -/
def withTally (q : Prog) (t n : Nat) : Prog := { q with tallies := tset 0 q.tallies t (tallyOf q t + n) }

/-- A signal that fits reaches its tally, and memory, registers and the other signals stand (R46). -/
theorem addTally_reaches {s : State} {p : ProgRef} {q : Prog} {t n : Nat} (idx : Nat) (hq : progOf s p = some q) (hf : tallyOf q t + n ≤ 65535) :
    SameStores s (addTally s p t n idx) ∧ progOf (addTally s p t n idx) p = some (withTally q t n) := by
  rw [addTally_fits hq hf]
  exact ⟨(setProg_sameStores s p _).trans (wakeGated_sameStores _ _), progOf_wakeGated (progOf_setProg s p (withTally q t n))⟩

theorem sigReady_iff {q : Prog} {g : PendSig} : sigReady q g = true ↔ ∀ x ∈ allEngs.zip g.need, x.2 ≤ (engOf q x.1).fin := by
  simp only [sigReady, List.all_eq_true, decide_eq_true_eq]

/-- The oldest pending signal, by whether its engines have completed (R50). -/
theorem execPendingSignalGiven_eq {s : State} {p : ProgRef} {q : Prog} {g : PendSig} {r : List PendSig} (hq : canRun s p = some q)
    (hp : q.pend = g :: r) :
    execPendingSignalGiven p s = .next (if sigReady q g then giveSig (setProg s p { q with pend := r }) p q g else s) := by
  simp only [execPendingSignalGiven, hq, hp]
  split <;> rfl

/-- A signal to a program in its place is one to its tally (R51). -/
theorem addTallyOf_placed {s : State} {t : StepRec} {p : ProgRef} {q : Prog} {step sci : Nat} (ht : stepOf s step = some t)
    (hp : slotProg t sci = some p) (hq : progOf s p = some q) (hs : q.step = step) (hc : q.sci = sci) (tally n idx : Nat) :
    addTallyOf s step sci tally n idx = addTally s p tally n idx := by
  simp [addTallyOf, ht, hp, hq, hs, hc]

theorem slots_ne_nil_of_slotProg {t : StepRec} {n : Nat} {p : ProgRef} (h : slotProg t n = some p) : t.slots ≠ [] := by
  intro hn
  simp [slotProg, hn] at h

/-- The release of a barrier changes cores alone (R52). -/
theorem releaseBar_sameStores (s : State) (t : StepRec) : SameStores s (releaseBar s t) := by
  unfold releaseBar
  refine foldl_keeps (SameStores s) _ (fun u r hu => ?_) _ _ (.refl s)
  split
  · exact (hu.trans (setProg_sameStores u r _)).trans (wakeGated_sameStores _ _)
  · exact hu

/-- A step of one program that has arrived is released: its sequencer goes on after the STEPBAR (R52). -/
theorem progOf_releaseBar_single {s : State} {t : StepRec} {p : ProgRef} {q : Prog} (ht : stepPlaces t = [p]) (hq : progOf s p = some q) :
    progOf (releaseBar s t) p = some { q with atBar := false, arrived := false, pc := q.pc + 1 } := by
  simp only [releaseBar, ht, List.foldl_cons, List.foldl_nil, hq]
  exact progOf_wakeGated (progOf_setProg s p _)

theorem allArrived_single {s : State} {t : StepRec} {p : ProgRef} {q : Prog} (ht : stepPlaces t = [p]) (hq : progOf s p = some q) :
    allArrived s t = q.arrived := by
  simp [allArrived, ht, hq]

/-- One place without an arrived program holds the barrier (R52). -/
theorem allArrived_of_absent {s : State} {t : StepRec} {r : ProgRef} (hr : r ∈ stepPlaces t) (ha : ∀ d, progOf s r = some d → d.arrived = false) :
    allArrived s t = false := by
  unfold allArrived
  rw [List.all_eq_false]
  refine ⟨r, hr, ?_⟩
  cases hd : progOf s r with
  | none => simp
  | some d => simp [ha d hd]

theorem allDone_of_empty {q : Prog} (h : ∀ e, (engOf q e).queue = [] ∧ (engOf q e).run = []) : allDone q = true := by
  simp [allDone, h]

/-- A program as it stands once it has arrived at its barrier. -/
def arrivedAtBar (q : Prog) : Prog := { q with arrived := true, bars := q.bars + 1 }

/-- An arrival is recorded, and the last one releases the step (R52). -/
theorem execStepbarArrival_eq {s : State} {p : ProgRef} {q : Prog} {t : StepRec} (hq : canRun s p = some q) (hb : q.atBar = true)
    (ha : q.arrived = false) (he : ∀ e, (engOf q e).queue = [] ∧ (engOf q e).run = []) (ht : stepOf s q.step = some t) :
    execStepbarArrival p s = .next (if allArrived (setProg s p (arrivedAtBar q)) t then releaseBar (setProg s p (arrivedAtBar q)) t
      else setProg s p (arrivedAtBar q)) := by
  have hgo : (q.atBar && !q.arrived && allDone q) = true := by simp [hb, ha, allDone_of_empty he]
  have ht' : stepOf (setProg s p (arrivedAtBar q)) q.step = some t := ht
  unfold arrivedAtBar at ht' ⊢
  rw [execStepbarArrival, hq]
  dsimp only
  rw [if_pos hgo, ht']

/-- The program whose oldest op of engine `e` has completed, `r` being what its engine still has (R47). -/
def completed (q : Prog) (e : Eng) (r : List OpSlot) : Prog := withEng q e { engOf q e with run := r, fin := (engOf q e).fin + 1 }

theorem tallyOf_completed (q : Prog) (e : Eng) (r : List OpSlot) (t : Nat) : tallyOf (completed q e r) t = tallyOf q t := by cases e <;> rfl

theorem completed_tallies (q : Prog) (e : Eng) (r : List OpSlot) : (completed q e r).tallies = q.tallies := by cases e <;> rfl

/-- The oldest op of an engine: with its effects made it completes and gives its signal, and else it stands (R40, R47). -/
theorem execOpComplete_eq {s : State} {p : ProgRef} {q : Prog} {e : Eng} {o : OpSlot} {r : List OpSlot} (hq : canRun s p = some q)
    (hr : (engOf q e).run = o :: r) :
    execOpComplete p e s = .next (
      if o.phase = .done then
        (if o.sigEn then addTally (putProg s p (completed q e r)) p (opST o.word) (opSN o.word) o.idx else putProg s p (completed q e r))
      else s) := by
  simp [execOpComplete, completeHead, hq, canRun_progOf hq, hr, completed]

end Sys2Proof.Levels

open Sys2Proof.Machine Sys2Proof.Laws Sys2Proof.Levels

/-- Settles O10, from what `addTally` makes of a signal that fits and the place that a remote signal finds. -/
theorem signalsReachTallies : Obligations.SignalsReachTallies := by
  unfold Obligations.SignalsReachTallies
  intro s p
  refine ⟨?own, ?remote, ?early, ?delivery⟩
  case own =>
    intro q g r hq hp hg hn hf
    obtain ⟨hsame, hprog⟩ := addTally_reaches g.idx (progOf_setProg s p { q with pend := r }) hf
    refine ⟨_, (execPendingSignalGiven_eq hq hp).trans ?_, hsame.mem, hsame.regs, hsame.signals, hprog⟩
    simp [sigReady_iff.mpr hn, giveSig, hg]
  case remote =>
    intro q g r n hq hp hg hn
    refine (execPendingSignalGiven_eq hq hp).trans ?_
    simp [sigReady_iff.mpr hn, giveSig, hg]
  case early =>
    intro q g r x hq hp hx hlt
    have hnot : ¬ sigReady q g = true := fun h => absurd (sigReady_iff.mp h x hx) (by omega)
    refine (execPendingSignalGiven_eq hq hp).trans ?_
    rw [if_neg hnot]
  case delivery =>
    intro n g t q hg ht hp hq hs hc hf
    have hq' : progOf { s with signals := s.signals.eraseIdx n } p = some q := hq
    obtain ⟨hsame, hprog⟩ := addTally_reaches g.idx hq' hf
    refine ⟨_, ?_, hsame.signals, hsame.mem, hsame.regs, hprog⟩
    have ht' : stepOf { s with signals := s.signals.eraseIdx n } g.step = some t := ht
    rw [← addTallyOf_placed ht' hp hq' hs hc]
    show execRemoteSignalDelivery n s = _
    simp [execRemoteSignalDelivery, hg, ht, slots_ne_nil_of_slotProg hp]

/-- Settles O12, from one equation for each command: STEPBAR, the arrival at it, and the completion of an engine's oldest op. -/
theorem barriersAndOpCompletion : Obligations.BarriersAndOpCompletion := by
  unfold Obligations.BarriersAndOpCompletion
  intro s p
  refine ⟨?stepbar, ?arrival, ?plain, ?signalled, ?notDone⟩
  case stepbar =>
    intro q w h
    show execStepbar p s = _
    simp [execStepbar, h]
  case arrival =>
    intro q t hq hb ha he ht
    have hsame : SameStores s (setProg s p (arrivedAtBar q)) := setProg_sameStores _ _ _
    refine ⟨_, execStepbarArrival_eq hq hb ha he ht, ?_⟩
    have hall : ∀ b : Bool, SameStores s (if b then releaseBar (setProg s p (arrivedAtBar q)) t else setProg s p (arrivedAtBar q)) := by
      intro b
      cases b
      · exact hsame
      · exact hsame.trans (releaseBar_sameStores _ t)
    obtain ⟨hmem, hregs, hsig⟩ := hall (allArrived (setProg s p (arrivedAtBar q)) t)
    refine ⟨hmem, hregs, hsig, ?waits, ?single⟩
    case waits =>
      rintro ⟨r, hr, hne, hd⟩
      rw [allArrived_of_absent hr (fun d h => hd d (by rwa [progOf_setProg_ne hne] at h))]
      rfl
    case single =>
      intro hone
      have hself := progOf_setProg s p (arrivedAtBar q)
      rw [allArrived_single hone hself, if_pos (show (arrivedAtBar q).arrived = true from rfl), progOf_releaseBar_single hone hself]
      simp [arrivedAtBar, ha]
  case plain =>
    intro q e o r hq hr hd hs
    refine (execOpComplete_eq hq hr).trans ?_
    simp [hd, hs, completed]
  case signalled =>
    intro q e o r hq hr hd hs hf
    have hfits : tallyOf (completed q e r) (opST o.word) + opSN o.word ≤ 65535 := by rwa [tallyOf_completed]
    obtain ⟨hsame, hprog⟩ := addTally_reaches o.idx (progOf_putProg s p (completed q e r)) hfits
    refine ⟨_, (execOpComplete_eq hq hr).trans (by simp [hd, hs]), hsame.mem, hsame.regs, ?_⟩
    rw [hprog, withTally, tallyOf_completed, completed_tallies]
    rfl
  case notDone =>
    intro q e o r hq hr hd
    refine (execOpComplete_eq hq hr).trans ?_
    simp [hd]

end

section
/-! Placement (R350): the first-free scan gives each program a place of its own, upwards from where it starts. -/

namespace Sys2Proof.Levels

open Sys2Proof Sys2Proof.Machine

/-- Ascending order of places: by core, the lower half of a core before its upper. -/
def InOrder (a b : Nat × Bool) : Prop := a.1 < b.1 ∨ (a.1 = b.1 ∧ a.2 = false ∧ b.2 = true)

/-- A place that placement may give: of a usable core, free as a whole or as a half (R350). -/
structure Takes (s : State) (split : Bool) (freed : List ProgRef) (x : Nat × Bool) : Prop where
  usable : usableCore s x.1 = true
  whole  : split = false → x.2 = false ∧ wholeFree s freed x.1 = true
  half   : split = true → halfFree s freed x.1 x.2 = true

/-- Places for programs among the cores from `lo` up to `hi`. -/
structure Fits (s : State) (split : Bool) (freed : List ProgRef) (lo hi : Nat) (xs : List (Nat × Bool)) : Prop where
  takes : ∀ x ∈ xs, Takes s split freed x
  range : ∀ x ∈ xs, lo ≤ x.1 ∧ x.1 < hi
  order : xs.Pairwise InOrder

variable {s : State} {split : Bool} {freed : List ProgRef}

theorem Fits.nil (lo hi : Nat) : Fits s split freed lo hi [] := ⟨by simp, by simp, .nil⟩

/-- The places of one core stand before those of the cores above it. -/
theorem Fits.front {c hi : Nat} {ys xs : List (Nat × Bool)} (hc : c < hi) (hcore : ∀ y ∈ ys, y.1 = c) (hy : ∀ y ∈ ys, Takes s split freed y)
    (ho : ys.Pairwise InOrder) (h : Fits s split freed (c + 1) hi xs) : Fits s split freed c hi (ys ++ xs) where
  takes := by
    intro x hx
    rcases List.mem_append.mp hx with hx | hx
    · exact hy x hx
    · exact h.takes x hx
  range := by
    intro x hx
    rcases List.mem_append.mp hx with hx | hx
    · have := hcore x hx
      omega
    · have := h.range x hx
      omega
  order := by
    refine List.pairwise_append.mpr ⟨ho, h.order, fun y hy x hx => .inl ?_⟩
    have := hcore y hy
    have := h.range x hx
    omega

/-- The free halves of a core, lower first. -/
theorem halves_inOrder (c k : Nat) (f : Bool → Bool) : ((([false, true].filter f).take k).map (fun u => (c, u))).Pairwise InOrder := by
  have hsub : (([false, true].filter f).take k).Sublist [false, true] := (List.take_sublist k _).trans List.filter_sublist
  refine List.Pairwise.sublist (hsub.map _) ?_
  simp [InOrder]

theorem halves_core (c : Nat) (us : List Bool) : ∀ y ∈ us.map (fun u => (c, u)), y.1 = c := by
  intro y hy
  obtain ⟨u, -, rfl⟩ := List.mem_map.mp hy
  rfl

theorem halves_takes {c k : Nat} (hu : usableCore s c = true) :
    ∀ y ∈ (([false, true].filter (halfFree s freed c)).take k).map (fun u => (c, u)), Takes s true freed y := by
  intro y hy
  obtain ⟨u, hmem, rfl⟩ := List.mem_map.mp hy
  exact ⟨hu, by simp, fun _ => (List.mem_filter.mp (List.mem_of_mem_take hmem)).2⟩

/-- What the scan of R350 finds: as many places as asked, each free, in ascending order, among the cores it has gone over. -/
theorem placeScan_fits : ∀ (f c n : Nat) {xs : List (Nat × Bool)}, placeScan s split freed f c n = some xs →
    xs.length = n ∧ Fits s split freed c (c + f) xs := by
  intro f
  induction f with
  | zero =>
    intro c n xs h
    cases n with
    | zero => cases h; exact ⟨rfl, .nil _ _⟩
    | succ n => cases h
  | succ f ih =>
    intro c n xs h
    have hend : c + 1 + f = c + (f + 1) := by omega
    have hlt : c < c + (f + 1) := by omega
    have skip : ∀ {m : Nat} {ys}, placeScan s split freed f (c + 1) m = some ys → ys.length = m ∧ Fits s split freed (c + 1) (c + (f + 1)) ys :=
      fun hp => hend ▸ ih (c + 1) _ hp
    have onward : placeScan s split freed f (c + 1) n = some xs → xs.length = n ∧ Fits s split freed c (c + (f + 1)) xs := by
      intro hp
      obtain ⟨hl, hf⟩ := skip hp
      exact ⟨hl, .front (ys := []) hlt (by simp) (by simp) .nil hf⟩
    cases n with
    | zero => cases h; exact ⟨rfl, .nil _ _⟩
    | succ n =>
      simp only [placeScan] at h
      split at h
      next => exact onward h
      next hu =>
        have hu : usableCore s c = true := by simpa using hu
        split at h
        next hs =>
          have hs : split = false := by simpa using hs
          subst hs
          split at h
          next hw =>
            obtain ⟨ys, hp, rfl⟩ := Option.map_eq_some_iff.mp h
            obtain ⟨hl, hf⟩ := skip hp
            refine ⟨by simp [hl], .front (ys := [(c, false)]) hlt (by simp) ?_ (List.pairwise_singleton _ _) hf⟩
            intro y hy
            rw [List.mem_singleton.mp hy]
            exact ⟨hu, fun _ => ⟨rfl, hw⟩, by simp⟩
          next => exact onward h
        next hs =>
          have hs : split = true := by simpa using hs
          subst hs
          obtain ⟨ys, hp, rfl⟩ := Option.map_eq_some_iff.mp h
          obtain ⟨hl, hf⟩ := skip hp
          refine ⟨?_, .front hlt (halves_core c _) (halves_takes hu) (halves_inOrder c _ _) hf⟩
          have hle := List.length_take_le (n + 1) ([false, true].filter (halfFree s freed c))
          rw [List.length_append, List.length_map, hl]
          omega

end Sys2Proof.Levels

open Sys2Proof.Machine Sys2Proof.Levels

/-- Settles O47, by `placeScan_fits` over the cores of the die the step names, or over all. -/
theorem placementPicksFreeCores : Obligations.PlacementPicksFreeCores := by
  unfold Obligations.PlacementPicksFreeCores
  intro s t xs h
  unfold placeFor at h
  cases ha : t.aff with
  | some d =>
    simp only [ha] at h
    obtain ⟨hl, hf⟩ := placeScan_fits _ _ _ h
    refine ⟨hl, fun x hx => ?_, hf.order⟩
    obtain ⟨hu, hw, hh⟩ := hf.takes x hx
    refine ⟨hu, hw, hh, ?_, by simp⟩
    rintro _ ⟨rfl⟩
    have := hf.range x hx
    rw [Nat.succ_mul]
    exact this
  | none =>
    simp only [ha] at h
    obtain ⟨hl, hf⟩ := placeScan_fits _ _ _ h
    refine ⟨hl, fun x hx => ?_, hf.order⟩
    obtain ⟨hu, hw, hh⟩ := hf.takes x hx
    refine ⟨hu, hw, hh, by simp, fun _ => ?_⟩
    have := hf.range x hx
    rw [coreCount] at this
    omega

end

section
/-! What memory traffic, messages and error records leave alone: cores and tables, fuses, flash and security, the reset state and the clocks. -/

namespace Sys2Proof.Levels

open Sys2Proof Sys2Proof.Machine Sys2Proof.Laws

/-- The parts of a state that no memory traffic, message or error record changes. -/
def still (s : State) :=
  (s.pending, s.cores, s.tables, s.fuses, s.flash, s.sec, s.csw, s.rst, s.aon, s.aonWait)

@[simp] theorem still_setField (s : State) (off hi lo v : Nat) : still (setField s off hi lo v) = still s := rfl
@[simp] theorem still_send (s : State) (m : Msg) : still (send s m) = still s := rfl
@[simp] theorem still_memWrite (s : State) (a : Nat) (bs : List Byte) : still (memWrite s a bs) = still s := rfl
@[simp] theorem still_setPoison (s : State) (l : Nat) (b : Bool) : still (setPoison s l b) = still s := rfl
@[simp] theorem still_post (s : State) (m : CohMsg) : still (post s m) = still s := rfl
@[simp] theorem still_missed (s : State) (line : Nat) (a : Agent) : still (missed s line a) = still s := rfl
@[simp] theorem still_dropCopies (s : State) (line : Nat) : still (dropCopies s line) = still s := rfl
@[simp] theorem still_setRing (s : State) (n : Nat) (r : Ring) : still (setRing s n r) = still s := rfl
@[simp] theorem still_setUnit (s : State) (n : Nat) (u : RingUnit) : still (setUnit s n u) = still s := rfl

/-- A fold of what leaves them still does. -/
theorem still_foldl {α : Type} {f : State → α → State} (hf : ∀ s a, still (f s a) = still s) (l : List α) (s : State) :
    still (l.foldl f s) = still s :=
  foldl_keeps (fun u => still u = still s) f (fun u a hu => (hf u a).trans hu) l s rfl

theorem still_of_onlyReads {s t : State} (h : OnlyReads s t) : still t = still s := by
  rw [h.1]
  rfl

@[simp] theorem still_logUe (s : State) (l : Nat) (a b : Bool) : still (logUe s l a b) = still s := still_of_onlyReads (logUe_keep s l a b)

/-! Device memory. -/

@[simp] theorem still_snoopAll (s : State) (line : Nat) : still (snoopAll s line) = still s :=
  still_foldl (f := fun u a => missed u line a) (fun u a => still_missed u line a) _ s

@[simp] theorem still_invalidate (s : State) (line : Nat) : still (invalidate s line) = still s := by
  have h : still (dropCopies (snoopAll s line) line) = still s := by simp
  rw [← h]
  unfold invalidate
  dsimp only
  split <;> rfl

@[simp] theorem still_lineWrite (s : State) (line off : Nat) (bs : List Byte) (poison : Bool) : still (lineWrite s line off bs poison) = still s := by
  unfold lineWrite
  dsimp only
  repeat' split
  all_goals simp

@[simp] theorem still_devWriteNow (s : State) (a : Nat) (bs : List Byte) : still (devWriteNow s a bs) = still s :=
  still_foldl (f := fun u (p : Nat × Nat × List Byte) => lineWrite u p.1 p.2.1 p.2.2 false) (fun _ _ => still_lineWrite _ _ _ _ _) _ s

@[simp] theorem still_devSend (s : State) (a : Nat) (bs : List Byte) : still (devSend s a bs) = still s := by
  refine still_foldl (fun u x => ?_) _ s
  split <;> simp

@[simp] theorem still_askHome (s : State) (write : Bool) (line : Nat) : still (askHome s write line) = still s := by
  unfold askHome
  dsimp only
  repeat' split
  all_goals rfl

theorem still_readyLines {s t : State} {write : Bool} {lines : List Nat} (h : readyLines s write lines = some t) : still t = still s := by
  simp only [readyLines] at h
  split at h
  · cases h
  · cases h
    exact still_foldl (fun u l => still_askHome u write l) _ s

/-! Accesses. -/

/-- The state that an access answers with. -/
def accState {α : Type} : Acc α → State
  | .ok _ s => s
  | .wait s => s
  | .bad _ _ s => s

theorem still_answer {α : Type} {s : State} {x y : Acc α} (hx : still (accState x) = still s) (h : x = y) : still (accState y) = still s :=
  h ▸ hx

theorem still_bind {α β : Type} {s : State} {x : Acc α} {f : α → State → Acc β} (hx : still (accState x) = still s)
    (hf : ∀ a u, still (accState (f a u)) = still u) : still (accState (x.bind f)) = still s := by
  cases x with
  | ok a u => exact (hf a u).trans hx
  | wait u => exact hx
  | bad c a u => exact hx

theorem still_devWrite (s : State) (a : Nat) (bs : List Byte) : still (accState (devWrite s a bs)) = still s := by
  unfold devWrite
  split
  next h => exact still_readyLines h
  next => exact still_devWriteNow s a bs

@[simp] theorem still_askAts (s : State) (pg : Nat) : still (askAts s pg) = still s := by
  unfold askAts
  split <;> rfl

theorem still_hostPieces (s : State) (a n : Nat) (write : Bool) : still (accState (hostPieces s a n write)) = still s := by
  unfold hostPieces
  dsimp only
  repeat' split
  case isTrue.isTrue => exact still_foldl (fun u p => still_askAts u p) _ s
  all_goals rfl

@[simp] theorem still_noteWrote (s : State) (r : Req) (h : Nat) : still (noteWrote s r h) = still s := by
  unfold noteWrote
  repeat' split
  all_goals rfl

@[simp] theorem still_hostWriteLine (r : Req) (s : State) (p : Nat × Nat × List Byte) : still (hostWriteLine r s p) = still s := by
  unfold hostWriteLine
  dsimp only
  rw [still_send, still_noteWrote]
  rfl

theorem still_hostWrite (s : State) (r : Req) (a : Nat) (bs : List Byte) : still (accState (hostWrite s r a bs)) = still s := by
  unfold hostWrite
  split
  · split <;> rfl
  · refine still_bind (still_hostPieces s a _ true) fun ps u => ?_
    refine foldl_keeps (fun x : State × List Byte => still x.1 = still u) _ (fun x p hx => ?_) ps (u, bs) rfl
    exact (still_foldl (fun v q => still_hostWriteLine r v q) _ x.1).trans hx

/-! Error records and kept UIO reads. -/

@[simp] theorem still_sendVec (s : State) (v : Nat) : still (sendVec s v) = still s := by
  unfold sendVec
  repeat' split
  all_goals rfl

@[simp] theorem still_errVisible (s : State) : still (errVisible s) = still s := by
  unfold errVisible
  split
  · exact still_sendVec s _
  · rfl

/-- A record written to the host or to device memory, visible or not yet, changes none of them (R490). -/
@[simp] theorem still_writeErr (s : State) : still (writeErr s) = still s := by
  unfold writeErr
  dsimp only
  split
  next => rfl
  next =>
    split
    next => rfl
    next =>
      split
      next =>
        split
        all_goals next heq => exact still_answer (still_hostWrite s _ _ _) heq
      next =>
        split
        next heq => exact (still_errVisible _).trans (still_answer (still_devWrite s _ _) heq)
        all_goals next heq => exact still_answer (still_devWrite s _ _) heq

/-- The error queue writes its records beside everything else (R490). -/
@[simp] theorem still_flushErrs (n : Nat) (s : State) : still (flushErrs n s) = still s := by
  induction n generalizing s with
  | zero => rfl
  | succ n ih =>
    unfold flushErrs
    split <;> simp [ih]

theorem still_readRaw (s : State) (a n : Nat) : still (readRaw s a n).2.2 = still s := by
  unfold readRaw
  dsimp only
  split <;> simp

@[simp] theorem still_serveRead (s : State) (r : UioRead) : still (serveRead s r) = still s := by
  unfold serveRead
  dsimp only
  split
  next => rfl
  next =>
    split
    next h =>
      have hasked := still_readyLines h
      exact hasked
    next => exact still_readRaw s _ _

/-- The reads that the port keeps are answered beside everything else (R404). -/
@[simp] theorem still_settleReads (s : State) : still (settleReads s) = still s :=
  (still_foldl still_serveRead _ _).trans rfl

end Sys2Proof.Levels
end

section
/-! Block resets (R441): one request rule for the seven of them, and what the completion leaves of resets and cores. -/

namespace Sys2Proof.Levels

open Sys2Proof Sys2Proof.Machine Sys2Proof.Laws Sys2Proof.Stated

/-- A command that requests a block reset does as `BlockReset` states. -/
theorem blockReset_stated {s : State} {c : Instr} {kind index : Nat} {idle : Bool} {f : State → State}
    (h : exec c s = .next (blockReset s kind index idle f)) : BlockReset s c kind index idle f := by
  intro hopen
  have hreq : exec c s = .next (
      if ((asked s kind index).rst.phase == .ready) && (asked s kind index).rst.block.isNone && idle then f (inReset s kind index)
      else { asked s kind index with rst := { (asked s kind index).rst with refused := true } }) := by
    rw [h, blockReset, hopen]
    rfl
  refine ⟨fun hphase hblock hidle => ?_, fun hno => ?_⟩
  · rw [hreq, if_pos (by simp [hphase, hblock, hidle])]
  · rw [hreq, if_neg]
    rcases hno with hphase | hblock | hidle
    · simp [hphase]
    · simp [Option.isNone_iff_eq_none, hblock]
    · simp [hidle]

@[simp] theorem still_unpin (s : State) (n : Nat) : still (unpin s n) = still s := by
  unfold unpin
  dsimp only
  split <;> rfl

@[simp] theorem still_removeRing (s : State) (n : Nat) : still (removeRing s n) = still s := by
  have h : still (devSend (unpin s n) (ringTable + 64 * n) (List.replicate 64 0)) = still s := by simp
  exact Eq.trans rfl h

@[simp] theorem still_putRing (s : State) (n : Nat) (r : Ring) : still (putRing s n r) = still s := by
  unfold putRing
  dsimp only
  split <;> simp

@[simp] theorem still_writeRing (s : State) (n : Nat) (r : Ring) : still (writeRing s n r) = still s := by
  unfold writeRing
  dsimp only
  split <;> simp

/-- A ring-context write, made or refused, changes neither cores nor reset state (R304). -/
@[simp] theorem still_tryWrite (s : State) (n : Nat) (w : BitVec 512) : still (tryWrite s n w) = still s := by
  unfold tryWrite
  dsimp only
  split <;> simp

/-- Out of its reset a block other than a port leaves the reset state (R362). -/
theorem blockEnabled_rst (s : State) {k : Nat} (i : Nat) (hk : k ≠ 2) : (blockEnabled s k i).rst = s.rst := by
  unfold blockEnabled
  dsimp only
  rw [if_neg (fun h => hk h.1)]

/-- Out of its reset a core takes its pending withdrawal or return (R362). -/
theorem blockEnabled_core (s : State) (i : Nat) :
    (blockEnabled s 1 i).cores = s.cores.map (fun e => if e.1 = i then (e.1, settleCore e.2) else e) := by
  simp [blockEnabled]

/-- The state in which the writes latched during a block's reset are made. -/
def enabledAgain (s : State) (kind index : Nat) : State :=
  let t := blockEnabled { s with rst := { s.rst with block := none } } kind index
  { t with rings := { t.rings with latched := [] } }

/-- The completion enables the block and makes the latched writes (R441). -/
theorem execBlockResetComplete_still {s : State} {kind index : Nat} (h : s.rst.block = some (kind, index)) :
    ∃ t, execBlockResetComplete s = .next t ∧ still t = still (enabledAgain s kind index) := by
  unfold execBlockResetComplete
  rw [h]
  exact ⟨_, rfl, still_foldl (f := fun u (e : Nat × BitVec 512) => tryWrite u e.1 e.2) (fun u e => still_tryWrite u e.1 e.2) _ _⟩

end Sys2Proof.Levels

open Sys2Proof.Machine Sys2Proof.Levels

/-- Settles O43: each request is `blockReset` of its block, and the completion is `blockEnabled` before writes that touch no core. -/
theorem dieAndBlockResets : Obligations.DieAndBlockResets := by
  unfold Obligations.DieAndBlockResets
  intro s i
  refine ⟨blockReset_stated rfl, blockReset_stated rfl, blockReset_stated rfl, blockReset_stated rfl, blockReset_stated rfl,
    blockReset_stated rfl, blockReset_stated rfl, fun kind index hblock hkind => ?_⟩
  obtain ⟨t, ht, hstill⟩ := execBlockResetComplete_still hblock
  simp only [still, Prod.mk.injEq] at hstill
  obtain ⟨-, hcores, -, -, -, -, -, hrst, -, -⟩ := hstill
  refine ⟨t, ht, ?ended, ?settled⟩
  case ended =>
    rw [hrst]
    exact congrArg (·.block) (blockEnabled_rst _ index hkind)
  case settled =>
    rintro rfl
    rw [hcores]
    exact blockEnabled_core _ index

end

section
/-! A tick of the AON clock (R33, log entry 3). -/

namespace Sys2Proof.Levels

open Sys2Proof Sys2Proof.Machine

theorem tickClocks_off {s : State} (h : s.rst.phase = .off) : tickClocks s = s := by
  rw [tickClocks, if_pos h]

/-- A tick of a powered part moves its counters on. -/
theorem tickClocks_aon {s : State} (h : s.rst.phase ≠ .off) :
    (tickClocks s).aon = tickAon s.aon s.aonWait ∧ (tickClocks s).aonWait = s.aonWait.map (· - 1) := by
  rw [tickClocks, if_neg h]
  exact ⟨rfl, rfl⟩

/-- What no running time measures stands through a tick. -/
structure Untimed (s t : State) : Prop where
  pending : t.pending = s.pending
  cores   : t.cores = s.cores
  tables  : t.tables = s.tables
  rst     : t.rst = s.rst
  fuses   : t.fuses = s.fuses
  flash   : t.flash = s.flash
  sec     : t.sec = s.sec
  csw     : t.csw = s.csw
  regs    : t.regs = s.regs
  mem     : t.mem = s.mem
  poison  : t.poison = s.poison
  coh     : t.coh = s.coh
  cxl     : t.cxl = s.cxl
  rings   : t.rings.ctx = s.rings.ctx
  pins    : t.pins = s.pins
  out     : t.out = s.out
  held    : t.errs.held = s.errs.held

theorem tickClocks_untimed (s : State) : Untimed s (tickClocks s) := by
  unfold tickClocks
  split <;> constructor <;> rfl

/-- Records written and reads answered in a tick leave what `still` names as the clocks left it. -/
theorem still_tick (s : State) : still (tick s) = still (tickClocks s) := by
  unfold tick
  dsimp only
  repeat' split
  all_goals simp

/-- With no record held back and no read kept a tick moves clocks alone. -/
theorem tick_eq_tickClocks {s : State} (hr : s.errs.held = []) (hu : s.cxl.reads = []) : tick s = tickClocks s := by
  have h := tickClocks_untimed s
  have hr' : (tickClocks s).errs.held = [] := h.held.trans hr
  have hu' : (tickClocks s).cxl.reads = [] := by rw [h.cxl, hu]
  simp [tick, hr', hu']

theorem step_of_empty {s : State} (h : s.pending = []) : step s = .next (tick s) := by
  rw [step, h]

end Sys2Proof.Levels

open Sys2Proof.Machine Sys2Proof.Levels

/-- Settles O2: the clocks move in `tickClocks`, and what a tick writes and answers after it leaves them and the rest as they are. -/
theorem emptyQueueTicks : Obligations.EmptyQueueTicks := by
  unfold Obligations.EmptyQueueTicks
  intro s hq
  have hun := tickClocks_untimed s
  have hstill := still_tick s
  simp only [still, Prod.mk.injEq] at hstill
  obtain ⟨hpending, hcores, htables, hfuses, hflash, hsec, hcsw, hrst, haon, hwait⟩ := hstill
  refine ⟨tick s, step_of_empty hq, ?on, ?off, hpending.trans (hun.pending.trans hq), hcores.trans hun.cores, htables.trans hun.tables, ?phase,
    hfuses.trans hun.fuses, hflash.trans hun.flash, hsec.trans hun.sec, hcsw.trans hun.csw, ?quiet⟩
  case on =>
    intro hon
    obtain ⟨ha, hw⟩ := tickClocks_aon hon
    exact ⟨haon.trans ha, hwait.trans hw⟩
  case off =>
    intro hoff hr hu
    rw [tick_eq_tickClocks hr hu, tickClocks_off hoff]
  case phase => rw [hrst, hun.rst]
  case quiet =>
    intro hr hu
    rw [tick_eq_tickClocks hr hu]
    exact ⟨hun.regs, hun.mem, hun.poison, hun.coh, hun.cxl, hun.rings, hun.rst, hun.pins, hun.out⟩

end

section
/-! What engines find while they work: their own checks (R91, R134, R144), and what a unit's way to memory and memory hold (R175, R383, R419). -/

namespace Sys2Proof.Levels

open Sys2Proof Sys2Proof.Machine Sys2Proof.Laws Sys2Proof.Stated

/-! The checks of an op that may start. -/

theorem startable_is {s : State} {p : ProgRef} {e : Eng} {is : Op → Bool} {q : Prog} {o : OpSlot} (h : startable s p e is = some (q, o)) :
    is o.word = true := by
  unfold startable at h
  split at h
  · cases h
  · split at h
    · cases h
    · split at h
      next hgo =>
        cases h
        exact hgo.1
      next => cases h

theorem opClass_of_isOp {cls opc : Nat} {w : Op} (h : isOp cls opc w = true) : opClass w = cls ∧ opOpc w = opc := by
  simpa [isOp] using h

theorem opClass_of_isVop {vop : Nat} {w : Op} (h : isVop vop w = true) : opClass w = 4 ∧ veVOP w = vop := by
  simpa [isVop] using h

/-- The residue and parity checks watch ASTREAM among the array ops (R91). -/
theorem meetsCheck_array {opc : Nat} {w : Op} (h : isOp 3 opc w = true) : meetsCheck w = (opc == 3) := by
  obtain ⟨hc, ho⟩ := opClass_of_isOp h
  simp [meetsCheck, hc, ho]

/-- They watch every vector op but those on masks (R134). -/
theorem meetsCheck_vector {vop : Nat} {w : Op} (h : isVop vop w = true) : meetsCheck w = decide (vop < 0x180) := by
  obtain ⟨hc, hv⟩ := opClass_of_isVop h
  simp [meetsCheck, hc, hv]

/-- Every vector op but those on masks reads scratchpad (R144). -/
theorem meetsSp_vector {vop : Nat} {w : Op} (h : isVop vop w = true) (hv : vop < 0x180) : meetsSp w = true := by
  obtain ⟨hc, hw⟩ := opClass_of_isVop h
  simp [meetsSp, hc, hw]
  omega

/-- An op that a finding stops ends with its fault, in the state that the rest of its effect has made. -/
theorem runOp_found {s t : State} {p : ProgRef} {e : Eng} {is : Op → Bool} {q : Prog} {o : OpSlot} {err f : HwErr} {ph : OpPhase}
    {eff : Option HwErr → State → Prog → OpSlot → Acc OpPhase} (h : startable s p e is = some (q, o))
    (hf : hwCheck (setProg s p (takeWait q e o)) p (takeWait q e o) e o err = (setProg s p (takeWait q e o), some f))
    (hk : eff (some f) (setProg s p (takeWait q e o)) (takeWait q e o) o = .ok ph t) :
    runOp s p e err is eff = faultOf t p (takeWait q e o) e o f := by
  simp only [runOp, h, hf, hk]

/-- An op of which a finding leaves nothing ends with its fault. -/
theorem runOp_whole_found {s : State} {p : ProgRef} {e : Eng} {is : Op → Bool} {q : Prog} {o : OpSlot} {err f : HwErr}
    {eff : State → Prog → OpSlot → Acc OpPhase} (h : startable s p e is = some (q, o))
    (hf : hwCheck (setProg s p (takeWait q e o)) p (takeWait q e o) e o err = (setProg s p (takeWait q e o), some f)) :
    runOp s p e err is (whole eff) = faultOf (setProg s p (takeWait q e o)) p (takeWait q e o) e o f := by
  simp only [runOp, h, hf, whole]

/-- An op whose engine's check finds nothing goes as one without the error. -/
theorem runOp_unmet {s : State} {p : ProgRef} {e : Eng} {is : Op → Bool} {q : Prog} {o : OpSlot} {err : HwErr}
    {eff : Option HwErr → State → Prog → OpSlot → Acc OpPhase} (h : startable s p e is = some (q, o))
    (hf : hwCheck (setProg s p (takeWait q e o)) p (takeWait q e o) e o err = (setProg s p (takeWait q e o), none)) :
    runOp s p e err is eff = runOp s p e .none is eff := by
  simp only [runOp, h, hf]
  rfl

theorem hwCheck_check_met (s : State) (p : ProgRef) (q : Prog) (e : Eng) {o : OpSlot} (par : Bool) (i j : Nat) (h : meetsCheck o.word = true) :
    hwCheck s p q e o (.check par i j) = (s, some (.check par i j)) := by
  simp [hwCheck, h]

theorem hwCheck_check_unmet (s : State) (p : ProgRef) (q : Prog) (e : Eng) {o : OpSlot} (par : Bool) (i j : Nat) (h : meetsCheck o.word = false) :
    hwCheck s p q e o (.check par i j) = (s, none) := by
  simp [hwCheck, h]

theorem hwCheck_spUe_met (s : State) (p : ProgRef) (q : Prog) (e : Eng) {o : OpSlot} (a : Nat) (h : meetsSp o.word = true) :
    hwCheck s p q e o (.spUe a) = (s, some (.spUe a)) := by
  simp [hwCheck, h]

theorem faultOf_check_array (s : State) (p : ProgRef) (q : Prog) (o : OpSlot) (par : Bool) (i j : Nat) :
    faultOf s p q .array o (.check par i j) = arrayCheck s p q o par i j := by
  simp only [faultOf, if_pos]

theorem faultOf_check_vector (s : State) (p : ProgRef) (q : Prog) (o : OpSlot) (par : Bool) (i j : Nat) :
    faultOf s p q .vector o (.check par i j) = vectorCheck s p q o par i j := by
  simp only [faultOf, reduceCtorEq, if_false]

/-- A mismatch spoils the lane and the vector that it names, and no other (R134). -/
theorem laneHit_check (q : Prog) (o : OpSlot) (fm : VecForm) (par : Bool) (i j j' : Nat) (v : List Nat) (i' : Nat) :
    laneHit q o fm (some (.check par i j)) j' v i' = true ↔ i' = i ∧ j' = j := by
  simp only [laneHit, Bool.and_eq_true, beq_iff_eq]
  exact and_congr eq_comm eq_comm

/-! What a unit meets on its way to memory. -/

/-- What the way to memory and memory itself can hold, which is no matter of a unit's own arithmetic. -/
inductive OnWay : HwErr → Prop where
  | wire (w : WireErr) : OnWay (.wire w)
  | memCe (a : Nat) : OnWay (.memCe a)
  | memUe (a : Nat) : OnWay (.memUe a)
  | dirCe (a : Nat) : OnWay (.dirCe a)
  | dirUe (a : Nat) : OnWay (.dirUe a)

/-- A command that is a unit's work under `meetUnit`, the work itself the same whatever its way holds, finds what `MemoryFinds` states. -/
theorem memoryFinds_of_meetUnit {c : HwErr → Instr} {dies : List Nat} {work : HwErr → State → State}
    (hc : ∀ err s, exec (c err) s = .next (meetUnit dies err (work err) s)) (hw : ∀ err, OnWay err → work err = work .none) :
    MemoryFinds c dies := by
  intro s t ht hne
  have hrun : ∀ u, exec (c .none) u = .next (work .none u) := fun u => by rw [hc, meetUnit_none]
  have hwork : work .none s = t := by simpa [hrun] using ht
  have hmeet : ∀ err, OnWay err → exec (c err) s = .next (unitFinds dies s (work .none) err) := by
    intro err herr
    rw [hc, hw err herr, meetUnit, if_neg (by rwa [hwork])]
  refine ⟨?memCe, ?memUe, ?dirCe, ?dirUe, ?header, ?corrected, ?away⟩
  case memCe =>
    intro a
    rw [hmeet _ (.memCe a), hrun]
    rfl
  case memUe =>
    intro a u hu
    rw [hrun, Host.Outcome.next.injEq] at hu
    rw [hmeet _ (.memUe a), unitFinds, hu]
  case dirCe =>
    intro a
    rw [hmeet _ (.dirCe a), hrun]
    rfl
  case dirUe =>
    intro a
    rw [hmeet _ (.dirUe a)]
    rfl
  case header =>
    intro e g d x hon
    simp [hmeet _ (.wire _), unitFinds, hon, beatIsHeader, meetBeat]
  case corrected =>
    intro e g n d x hon
    simp [hmeet _ (.wire _), hrun, unitFinds, hon, beatIsHeader, beatIsData, meetBeat]
  case away =>
    intro w hoff
    simp [hmeet _ (.wire w), unitFinds, hoff, hwork]

/-- A unit whose work itself takes no account of what its way holds. -/
theorem memoryFinds_plain {c : HwErr → Instr} {dies : List Nat} {work : State → State}
    (hc : ∀ err s, exec (c err) s = .next (meetUnit dies err work s)) : MemoryFinds c dies :=
  memoryFinds_of_meetUnit (work := fun _ => work) hc fun _ _ => rfl

/-! The units whose work meets errors of its own: what their way holds is none of these. -/

section units

variable {err : HwErr} (h : OnWay err)
include h

theorem laneCheck_onWay : laneCheck err = laneCheck .none := by cases h <;> rfl

theorem orShared_onWay : orShared err = orShared .none := by cases h <;> rfl

theorem openOn_onWay (grp d f : Nat) (s : State) : openOn err grp d f s = openOn .none grp d f s := by
  induction f generalizing s with
  | zero => rfl
  | succ f ih => simp only [openOn, laneCheck_onWay h, ih]

theorem openAll_onWay (grp : Nat) (s : State) (ds : List Nat) : openAll err grp s ds = openAll .none grp s ds := by
  induction ds generalizing s with
  | nil => rfl
  | cons d ds ih => simp only [openAll, openOn_onWay h, ih]

theorem advanceColl_onWay : advanceColl err = advanceColl .none := by
  funext s grp
  simp only [advanceColl, openAll_onWay h]

theorem serveSeg_onWay : serveSeg err = serveSeg .none := by
  funext s x
  simp only [serveSeg, laneCheck_onWay h, advanceColl_onWay h]

theorem unitLoupeCallStart_onWay (n : Nat) : unitLoupeCallStart n err = unitLoupeCallStart n .none := by cases h <;> rfl

theorem unitLoupeCallComplete_onWay (n : Nat) : unitLoupeCallComplete n err = unitLoupeCallComplete n .none := by cases h <;> rfl

theorem unitFixerCallStart_onWay : unitFixerCallStart err = unitFixerCallStart .none := by cases h <;> rfl

theorem unitPassOneDone_onWay : unitPassOneDone err = unitPassOneDone .none := by cases h <;> rfl

theorem unitFixerCallComplete_onWay : unitFixerCallComplete err = unitFixerCallComplete .none := by cases h <;> rfl

theorem unitCollectiveStart_onWay (grp : Nat) : unitCollectiveStart grp err = unitCollectiveStart grp .none := by
  funext s
  simp only [unitCollectiveStart, orShared_onWay h, advanceColl_onWay h]

theorem unitCollseg_onWay (src : Option Nat) : unitCollseg src err = unitCollseg src .none := by
  funext s
  simp only [unitCollseg, orShared_onWay h, serveSeg_onWay h]

theorem unitCollsegAccept_onWay (n : Nat) : unitCollsegAccept n err = unitCollsegAccept n .none := by
  funext s
  simp only [unitCollsegAccept, orShared_onWay h, serveSeg_onWay h]

theorem unitCollectiveComplete_onWay (grp : Nat) : unitCollectiveComplete grp err = unitCollectiveComplete grp .none := by
  funext s
  simp only [unitCollectiveComplete, orShared_onWay h, advanceColl_onWay h]

end units

end Sys2Proof.Levels

open Sys2Proof Sys2Proof.Machine Sys2Proof.Stated Sys2Proof.Levels

/-- Settles O19: an op's finding ends it by `runOp_found`, and a unit's work under `meetUnit` works on what its way leaves there. -/
theorem engineChecksStopTheirOp : Obligations.EngineChecksStopTheirOp := by
  unfold Obligations.EngineChecksStopTheirOp
  intro s p q o
  dsimp only
  refine ⟨?azero, ?astream, ?vadd, ?shared, ?scratchpad, ?lane, ?units, ?fixStart, ?passOne, ?fixDone, ?collseg, ?rd, ?ported, ?uio⟩
  case azero =>
    intro par i j h
    exact congrArg _ (runOp_unmet h (hwCheck_check_unmet _ _ _ _ par i j (meetsCheck_array (startable_is h))))
  case astream =>
    intro par i j k h hk
    have hrun := runOp_found h (hwCheck_check_met _ _ _ _ par i j (meetsCheck_array (startable_is h))) hk
    exact congrArg _ (hrun.trans (faultOf_check_array k p _ o par i j))
  case vadd =>
    intro par i j k h hk
    have hrun := runOp_found h (hwCheck_check_met _ _ _ _ par i j (meetsCheck_vector (startable_is h))) hk
    exact congrArg _ (hrun.trans (faultOf_check_vector k p _ o par i j))
  case shared =>
    intro die h
    exact congrArg _ (runOp_whole_found (err := .shared die) (f := .shared die) h rfl)
  case scratchpad =>
    intro x k h hk
    exact congrArg _ (runOp_found h (hwCheck_spUe_met _ _ _ _ x (meetsSp_vector (startable_is h) (by decide))) hk)
  case lane => exact fun fm j i i2 j2 par vi => laneHit_check _ o fm par i j j2 vi i2
  case units =>
    intro n
    exact ⟨memoryFinds_of_meetUnit (fun _ _ => rfl) (fun _ h => unitLoupeCallStart_onWay h n),
      memoryFinds_of_meetUnit (fun _ _ => rfl) (fun _ h => unitLoupeCallComplete_onWay h n),
      memoryFinds_of_meetUnit (fun _ _ => rfl) (fun _ h => unitCollectiveStart_onWay h n),
      memoryFinds_of_meetUnit (fun _ _ => rfl) (fun _ h => unitCollsegAccept_onWay h n),
      memoryFinds_of_meetUnit (fun _ _ => rfl) (fun _ h => unitCollectiveComplete_onWay h n),
      memoryFinds_plain fun _ _ => rfl, memoryFinds_plain fun _ _ => rfl, memoryFinds_plain fun _ _ => rfl,
      memoryFinds_plain fun _ _ => rfl, memoryFinds_plain fun _ _ => rfl⟩
  case fixStart => exact memoryFinds_of_meetUnit (fun _ _ => rfl) (fun _ h => unitFixerCallStart_onWay h)
  case passOne => exact memoryFinds_of_meetUnit (fun _ _ => rfl) (fun _ h => unitPassOneDone_onWay h)
  case fixDone => exact memoryFinds_of_meetUnit (fun _ _ => rfl) (fun _ h => unitFixerCallComplete_onWay h)
  case collseg => exact memoryFinds_of_meetUnit (fun _ _ => rfl) (fun _ h => unitCollseg_onWay h none)
  case rd => exact memoryFinds_plain fun _ _ => rfl
  case ported =>
    intro n
    exact ⟨memoryFinds_of_meetUnit (fun _ _ => rfl) (fun _ h => unitCollseg_onWay h (some n)), memoryFinds_plain fun _ _ => rfl⟩
  case uio => exact fun hpa len rid => memoryFinds_plain fun _ _ => rfl

end

section
/-! How an op that finds no error ends (R47), and what ASTREAM makes of its core (R64, R67, R74, R80). -/

namespace Sys2Proof.Levels

open Sys2Proof Sys2Proof.Machine Sys2Proof.Laws Sys2Proof.Stated

/-! The end of an op. -/

/-- An op that may start and meets no error ends as its effect says. -/
theorem runOp_unfound {s : State} {p : ProgRef} {e : Eng} {is : Op → Bool} {q : Prog} {o : OpSlot}
    {eff : Option HwErr → State → Prog → OpSlot → Acc OpPhase} (h : startable s p e is = some (q, o)) :
    runOp s p e .none is eff =
      runEnds p (takeWait q e o) e o (eff none (setProg s p (takeWait q e o)) (takeWait q e o) o) := by
  simp only [runOp, h, hwCheck]

theorem coreOf_atOp (s : State) (p : ProgRef) (e : Eng) (q : Prog) (o : OpSlot) :
    coreOf (setProg s p (takeWait q e o)) p.core = coreAtOp s p e q o :=
  coreOf_setProg s p _

theorem progAt_coreAtOp (s : State) (p : ProgRef) (e : Eng) (q : Prog) (o : OpSlot) :
    progAt (coreAtOp s p e q o) p.upper = some (takeWait q e o) :=
  progAt_withProg _ _ _

/-- An op whose effect makes `k` of its core, its programs left alone, and uses `n` free values leaves its queue as done. -/
theorem runOp_afterOp {s : State} {p : ProgRef} {e : Eng} {is : Op → Bool} {q : Prog} {o : OpSlot} {k : Core} {n : Nat}
    {eff : Option HwErr → State → Prog → OpSlot → Acc OpPhase} (h : startable s p e is = some (q, o))
    (hk : SameProgs (coreAtOp s p e q o) k)
    (heff : eff none (setProg s p (takeWait q e o)) (takeWait q e o) o =
      .ok .done (useFree (setCore (setProg s p (takeWait q e o)) p.core k) n)) :
    runOp s p e .none is eff = afterOp s p e q o k n := by
  obtain ⟨-, hqueue⟩ := startable_prog h
  have hat := progAt_coreAtOp s p e q o
  have hprog : progAt k p.upper = some (takeWait q e o) := (hk.progAt_eq p.upper).trans hat
  have hhead : (engOf (takeWait q e o) e).queue = { o with waitEn := false } :: (engOf (takeWait q e o) e).queue.tail := by
    rw [takeWait_queue hqueue, List.tail_cons]
  have hdone := opDone_eq (s := s) (q := q) (o := o) (n := n) (hk.ne hat) hprog hhead
  rw [runOp_unfound h, heff, runEnds, hdone]
  rfl

/-- An op whose effect is a fault of its context, with no address and no log of its own, is charged and nothing else is done. -/
theorem runOp_charged {s : State} {p : ProgRef} {e : Eng} {is : Op → Bool} {q : Prog} {o : OpSlot} {code addr : Nat}
    {eff : Option HwErr → State → Prog → OpSlot → Acc OpPhase} (h : startable s p e is = some (q, o)) (hc : code / 256 < 2)
    (heff : eff none (setProg s p (takeWait q e o)) (takeWait q e o) o = .bad code addr (setProg s p (takeWait q e o))) :
    runOp s p e .none is eff = chargeOp (setProg s p (takeWait q e o)) p (takeWait q e o) o.idx code := by
  have haddr : accAddr code addr = none := if_neg (by omega)
  have hdetail : accDetail (setProg s p (takeWait q e o)) code addr = 0 := by
    rw [accDetail, if_neg (by omega), if_neg (by omega)]
  rw [runOp_unfound h, heff, runEnds, haddr, hdetail]

/-! Stream rows leave the programs of their core. -/

theorem setRow_sameProgs (k : Core) (upper : Bool) (row : Nat) (g : RowTag) : SameProgs k (setRow k upper row g) := ⟨rfl, rfl, rfl⟩

theorem streamRow_sameProgs (k : Core) (upper : Bool) (fmt wfmt : Nat) (tr add : Bool) (wt : List (List Machine.Num)) (row : Nat) (bs : List Byte)
    (hit : Nat → Bool) : SameProgs k (streamRow k upper fmt wfmt tr add wt row bs hit) := by
  unfold streamRow
  dsimp only
  split
  next => exact .self
  next => exact ⟨rfl, rfl, rfl⟩

theorem streamRows_sameProgs (upper : Bool) (fmt wfmt : Nat) (tr add : Bool) (wt : List (List Machine.Num)) (hit : Nat → Nat → Bool)
    (data : List (Nat × List Byte)) (k : Core) (m : Nat) :
    SameProgs k (streamRows upper fmt wfmt tr add wt hit k data m) := by
  induction data generalizing k m with
  | nil => exact .self
  | cons x data ih => exact (streamRow_sameProgs k upper fmt wfmt tr add wt x.1 x.2 (hit m)).step (ih _ (m + 1))

/-! The effect of ASTREAM. -/

/-- An ASTREAM would add to a row of the other kind (R80). -/
def kindClash (k : Core) (upper : Bool) (w : Op) : Bool :=
  arACC w && ((List.range (arROWS w)).map (arAROW w + ·)).any (fun r =>
    (rowTag k upper r).kind == (if isIntFmt (arFMT w) then 1 else 2))

/-- The tile that the selector names (R73). -/
def selectedTile (k : Core) (upper : Bool) : Tile := tileOf k upper (selOf k upper)

/-- The stream rows of an ASTREAM, each with its accumulator row (R67). -/
def streamData (k : Core) (upper : Bool) (q : Prog) (o : OpSlot) : List (Nat × List Byte) :=
  (List.range (arROWS o.word)).map (fun m => (arAROW o.word + m,
    spRead k upper (vAddr (spat q (arPAT o.word) (arASI o.word) o.iters) [0, m, 0, 0]) (rowBytes (arFMT o.word) (arrW k) (arTR o.word))))

/-- The core after an ASTREAM through a tile of format `wf`. -/
def streamed (k : Core) (upper : Bool) (q : Prog) (o : OpSlot) (wf : Nat) : Core :=
  streamRows upper (arFMT o.word) wf (arTR o.word) (arACC o.word) (tileVals wf (arrW k) (selectedTile k upper).img) (fun _ _ => false) k
    (streamData k upper q o) 0

section effect

variable {s : State} {p : ProgRef} {k : Core} (q : Prog) {o : OpSlot} {wf : Nat} (hk : coreOf s p.core = k)
include hk

theorem astreamEff_streams (hf : (selectedTile k p.upper).fmt = some wf) (hg : groupOf wf = groupOf (arFMT o.word))
    (hc : kindClash k p.upper o.word = false) :
    astreamEff p none s q o = .ok .done (setCore s p.core (streamed k p.upper q o wf)) := by
  subst hk
  unfold selectedTile at hf
  unfold kindClash at hc
  simp only [astreamEff, hf, hg, hc, ne_eq, not_true_eq_false, Bool.false_eq_true, if_false]
  rfl

theorem astreamEff_empty (found : Option HwErr) (hf : (selectedTile k p.upper).fmt = none) :
    astreamEff p found s q o = .bad 0x0110 0 s := by
  subst hk
  unfold selectedTile at hf
  simp only [astreamEff, hf]

theorem astreamEff_group (found : Option HwErr) (hf : (selectedTile k p.upper).fmt = some wf)
    (hg : groupOf wf ≠ groupOf (arFMT o.word)) : astreamEff p found s q o = .bad 0x0110 0 s := by
  subst hk
  unfold selectedTile at hf
  simp only [astreamEff, hf, if_pos hg]

theorem astreamEff_clash (found : Option HwErr) (hf : (selectedTile k p.upper).fmt = some wf)
    (hc : kindClash k p.upper o.word = true) : astreamEff p found s q o = .bad 0x0110 0 s := by
  subst hk
  unfold selectedTile at hf
  unfold kindClash at hc
  simp only [astreamEff, hf, hc, if_true, ite_self]

end effect

end Sys2Proof.Levels

open Sys2Proof Sys2Proof.Machine Sys2Proof.Laws Sys2Proof.Stated Sys2Proof.Levels

/-- Settles O14: an ASTREAM that fits its tile and its rows ends by `runOp_afterOp`, stream rows leaving their core's programs, and each of
the three mismatches by `runOp_charged`. -/
theorem arrayStream : Obligations.ArrayStream := by
  unfold Obligations.ArrayStream
  intro s p q o h
  have hcore := coreOf_atOp s p .array q o
  refine ⟨fun wf hf hg hc => ?streams, fun hbad => congrArg _ (runOp_charged (addr := 0) h (by decide) ?mismatch)⟩
  case streams =>
    exact congrArg _ (runOp_afterOp (n := 0) h (streamRows_sameProgs _ _ _ _ _ _ _ _ _ _) (astreamEff_streams _ hcore hf hg hc))
  case mismatch =>
    obtain hempty | ⟨wf, hf, hgroup | hclash⟩ := hbad
    · exact astreamEff_empty _ hcore none hempty
    · exact astreamEff_group _ hcore none hf hgroup
    · exact astreamEff_clash _ hcore none hf hclash

end

section
/-! How a vector op that finds no error ends: one that makes a mask, one that sets a mask, and one that reduces (R122, R124 to R127). -/

namespace Sys2Proof.Levels

open Sys2Proof Sys2Proof.Machine Sys2Proof.Laws Sys2Proof.Stated

/-! The end of an op that also sets a mask register of its program. -/

@[simp] theorem engOf_withMask (q : Prog) (i : Nat) (m : BitVec 64) (e : Eng) : engOf (withMask q i m) e = engOf q e := by cases e <;> rfl

/-- An op's wait and a mask register are apart in its program. -/
theorem takeWait_withMask (q : Prog) (i : Nat) (m : BitVec 64) (e : Eng) (o : OpSlot) :
    takeWait (withMask q i m) e o = withMask (takeWait q e o) i m := by
  unfold takeWait
  split
  · cases e <;> rfl
  · rfl

/-- Of two stores of one core the second is left. -/
theorem setCore_setCore {s : State} {c : Nat} {k l : Core} (hk : k ≠ Core.fresh) (hl : l ≠ Core.fresh) :
    setCore (setCore s c k) c l = setCore s c l := by
  simp only [setCore, tset_tset c s.cores hk hl]

/-- Storing a program in a core just stored stores both at once. -/
theorem setProg_useFree_setCore {s : State} {p : ProgRef} {q : Prog} {k : Core} {n : Nat} (hk : k ≠ Core.fresh) :
    setProg (useFree (setCore s p.core k) n) p q = useFree (setCore s p.core (withProg k p.upper (some q))) n := by
  have hcore : coreOf (useFree (setCore s p.core k) n) p.core = k := coreOf_setCore hk
  rw [setProg, hcore]
  exact congrArg (useFree · n) (setCore_setCore hk (withProg_ne_fresh _ _ _))

/-- The core that an op finds, stored again, changes nothing. -/
theorem setCore_coreAtOp (s : State) (p : ProgRef) (e : Eng) (q : Prog) (o : OpSlot) :
    useFree (setCore (setProg s p (takeWait q e o)) p.core (coreAtOp s p e q o)) 0 = setProg s p (takeWait q e o) :=
  setCore_setCore (s := s) (c := p.core) (withProg_ne_fresh _ _ _) (withProg_ne_fresh _ _ _)

/-- A core stored with a program in it, its programs then left alone, still has that program. -/
theorem progOf_useFree_setCore {s : State} {p : ProgRef} {e : Eng} {q : Prog} {o : OpSlot} {k : Core} {n : Nat}
    (hk : SameProgs (coreAtOp s p e q o) k) : progOf (useFree (setCore (setProg s p (takeWait q e o)) p.core k) n) p = some (takeWait q e o) := by
  have hat := progAt_coreAtOp s p e q o
  have hcore : coreOf (useFree (setCore (setProg s p (takeWait q e o)) p.core k) n) p.core = k := coreOf_setCore (hk.ne hat)
  rw [progOf, hcore, hk.progAt_eq, hat]

/-- An op whose effect makes `k` of its core, its programs left alone, and sets mask register `i` leaves its queue as done. -/
theorem runOp_withMask {s : State} {p : ProgRef} {e : Eng} {is : Op → Bool} {q : Prog} {o : OpSlot} {k : Core} {n i : Nat} {m : BitVec 64}
    {eff : Option HwErr → State → Prog → OpSlot → Acc OpPhase} (h : startable s p e is = some (q, o))
    (hk : SameProgs (coreAtOp s p e q o) k)
    (heff : eff none (setProg s p (takeWait q e o)) (takeWait q e o) o =
      .ok .done (setProg (useFree (setCore (setProg s p (takeWait q e o)) p.core k) n) p (withMask (takeWait q e o) i m))) :
    runOp s p e .none is eff = afterOp s p e (withMask q i m) o k n := by
  obtain ⟨-, hqueue⟩ := startable_prog h
  have hhead : (engOf (withMask (takeWait q e o) i m) e).queue = { o with waitEn := false } :: (engOf (takeWait q e o) e).queue.tail := by
    rw [engOf_withMask, takeWait_queue hqueue, List.tail_cons]
  have hdone := opDone_eq (s := s) (q := q) (o := o) (n := n) (withProg_ne_fresh k p.upper (withMask (takeWait q e o) i m))
    (progAt_withProg k p.upper _) hhead
  rw [runOp_unfound h, heff, runEnds, setProg_useFree_setCore (hk.ne (progAt_coreAtOp s p e q o)), hdone, withProg_withProg, afterOp,
    leftQueue, takeWait_withMask]
  rfl

/-! What a vector op reads of its core's grain is the same before and after its program is stored. -/

@[simp] theorem withProg_grain (k : Core) (u : Bool) (x : Option Prog) : (withProg k u x).grain = k.grain := by cases u <;> rfl

@[simp] theorem withProg_seedNo (k : Core) (u : Bool) (x : Option Prog) : (withProg k u x).seedNo = k.seedNo := by cases u <;> rfl

@[simp] theorem laneGrain_setProg (s : State) (p : ProgRef) (q : Prog) (i : Nat) : laneGrain (setProg s p q) p.core i = laneGrain s p.core i := by
  unfold laneGrain
  rw [coreOf_setProg]
  simp only [withProg_grain, withProg_seedNo, setProg_seeding]

@[simp] theorem grainLane_setProg (s : State) (p : ProgRef) (q : Prog) (j i c : Nat) :
    grainLane (setProg s p q) p.core j i c = grainLane s p.core j i c := by
  simp only [grainLane, laneGrain_setProg, setProg_free]

@[simp] theorem lanesAt_setProg (s : State) (k : Core) (p : ProgRef) (r q : Prog) (o : OpSlot) (fm : VecForm) (j : Nat) (v : List Nat) :
    lanesAt (setProg s p r) k p q o fm j v = lanesAt s k p q o fm j v := by
  simp only [lanesAt, grainLane_setProg, setProg_free]

/-- With nothing found no lane's result is spoilt (R134). -/
@[simp] theorem laneHit_none (q : Prog) (o : OpSlot) (fm : VecForm) (j : Nat) (v : List Nat) (i : Nat) : laneHit q o fm none j v i = false := rfl

/-- With nothing found no vector's mask is spoilt (R134). -/
@[simp] theorem any_laneHit_none (q : Prog) (o : OpSlot) (fm : VecForm) (j : Nat) (v l : List Nat) : l.any (laneHit q o fm none j v) = false :=
  List.any_eq_false.mpr fun _ _ => Bool.false_ne_true

/-! The ops that make or set a mask. -/

/-- A command that runs `masking` is a masking op: its pipeline leaves its core's programs, and M[MOUT] takes the last mask (R124). -/
theorem maskingOp_of_masking {c : Instr} {p : ProgRef} {vop : Nat} {fm : VecForm} {stream : Op → Bool} {f : Lane → Bool}
    (hc : ∀ s, exec c s = .next (runVec s p .none vop (masking fm stream f p))) : MaskingOp c p vop fm stream f := by
  intro s q o h
  rw [hc]
  refine congrArg _ (runOp_withMask h (vecSteps_sameProgs _ _ _ _ _ _ _ _ .self) ?effect)
  simp only [masking, coreOf_atOp, lanesAt_setProg, any_laneHit_none, Bool.not_false, Bool.and_true]
  rw [progOf_useFree_setCore (vecSteps_sameProgs _ _ _ _ _ _ _ _ .self)]
  rfl

/-- A command whose effect is to give M[MOUT] the value `f` of its program and core is a mask op (R125). -/
theorem maskOp_of_sets {c : Instr} {p : ProgRef} {vop : Nat} {f : Prog → OpSlot → Core → BitVec 64}
    {eff : Option HwErr → State → Prog → OpSlot → Acc OpPhase} (hc : ∀ s, exec c s = .next (runVec s p .none vop eff))
    (heff : ∀ s q o, eff none s q o = .ok .done (setProg s p (withMask q (veMOUT o.word) (f q o (coreOf s p.core))))) :
    MaskOp c p vop f := by
  intro s q o h
  rw [hc]
  exact congrArg _ (runOp_withMask h .self (by rw [heff, coreOf_atOp, setCore_coreAtOp]))

/-! The reductions. -/

/-- A command that runs `reduce` is a reduction: with nothing found no lane of a run is lost (R126, R127). -/
theorem reductionOp_of_reduce {c : Instr} {p : ProgRef} {vop : Nat} {r : RedOp} {absFirst : Bool}
    (hc : ∀ s, exec c s = .next (runVec s p .none vop (reduce r absFirst p))) : ReductionOp c p vop r absFirst := by
  intro s q o h
  rw [hc]
  refine congrArg _ (runOp_afterOp h (vecSteps_sameProgs _ _ _ _ _ _ _ _ .self) ?effect)
  simp only [reduce, coreOf_atOp, lanesAt_setProg, grainLane_setProg, laneHit_none, Bool.and_false, Bool.or_false]
  rfl

/-- Each level of a join halves the lanes (R127). -/
theorem treeJoin_length (f : Machine.Num → Machine.Num → Machine.Num) (n : Nat) (xs : List Machine.Num) :
    (treeJoin f n xs).length = xs.length / 2 ^ n := by
  induction n generalizing xs with
  | zero => simp [treeJoin]
  | succ n ih => rw [treeJoin, ih, List.length_map, List.length_range, Nat.div_div_eq_div_mul, Nat.pow_succ']

end Sys2Proof.Levels

open Sys2Proof Sys2Proof.Machine Sys2Proof.Laws Sys2Proof.Stated Sys2Proof.Levels

/-- Settles O17: the compares and VGKEEP run `masking`, and each mask op gives M[MOUT] its own value. -/
theorem vectorMasks : Obligations.VectorMasks := by
  unfold Obligations.VectorMasks
  intro p
  refine ⟨?vcmpeq, ?vcmpne, ?vcmplt, ?vcmple, ?vcmpgt, ?vcmpge, ?vgkeep, ?msetn, ?msetlo, ?msethi, ?mand, ?mor, ?mxor, ?mnot, ?mload⟩
  case vcmpeq | vcmpne | vcmplt | vcmple | vcmpgt | vcmpge | vgkeep => exact maskingOp_of_masking fun _ => rfl
  case msetn | msetlo | msethi | mand | mor | mxor | mnot | mload => exact maskOp_of_sets (fun _ => rfl) fun _ _ _ => rfl

/-- Settles O18: the reductions run `reduce`, VBSCALE with nothing found writes both scales of each vector and leaves its core's programs, and
six levels of a join leave one lane of 64. -/
theorem vectorReductions : Obligations.VectorReductions := by
  unfold Obligations.VectorReductions
  refine ⟨fun p => ⟨?vrsum, ?vrmax, ?vrmin, ?vrsumsq, ?vramax, ?vbscale⟩, ?sums, ?extremes, ?tree⟩
  case vrsum | vrmax | vrmin | vrsumsq | vramax => exact reductionOp_of_reduce fun _ => rfl
  case vbscale =>
    intro s q o h
    refine congrArg _ (runOp_afterOp h (vecSteps_sameProgs _ _ _ _ _ _ _ _ .self) ?effect)
    simp only [vbscaleEff, coreOf_atOp, laneHit_none]
    rfl
  case sums => exact fun _ _ _ => ⟨rfl, rfl⟩
  case extremes => exact fun _ _ _ => ⟨rfl, rfl, rfl⟩
  case tree => exact fun f xs h => (treeJoin_length f 6 xs).trans (congrArg (· / 2 ^ 6) h)

end

section
/-! Contexts that end, and cores that gate, turn off, wake and take fresh grain (R130, R132, R344, R346, R454, R455). -/

namespace Sys2Proof.Levels

open Sys2Proof Sys2Proof.Machine

/-- A waking core runs again: from off it is seeded with its scratchpad zero, from gated it has kept all (R454, R455). -/
theorem coreWakeComplete_waking {s : State} {c : Nat} {fromOff : Bool} (h : (coreOf s c).pwr = .waking fromOff) :
    exec (.coreWakeComplete c) s = .next (if fromOff then reseed s c { coreOf s c with pwr := .running, sp := [] }
      else setCore s c { coreOf s c with pwr := .running }) := by
  change execCoreWakeComplete c s = _
  rw [execCoreWakeComplete, h]

end Sys2Proof.Levels

open Sys2Proof.Machine Sys2Proof.Levels

/-- Settles O50: under its guard each event is the branch of its command that acts, where a core that wakes from off is seeded by `reseed` and a top-up is `topUp`. -/
theorem contextEndsAndCorePower : Obligations.ContextEndsAndCorePower := by
  unfold Obligations.ContextEndsAndCorePower
  intro s c x k
  refine ⟨?gone, ?freed, ?ended, ?gates, ?off, ?wakesGated, ?wakesOff, ?topup, ?testFails, ?testPasses⟩
  case gone =>
    intro hst hback hbusy hend
    exact congrArg _ ((if_pos ⟨hst, hback, hbusy⟩).trans (if_pos hend))
  case freed =>
    intro hst hback hbusy hend hrings
    exact congrArg _ ((if_pos ⟨hst, hback, hbusy⟩).trans ((if_neg hend).trans (if_pos hrings)))
  case ended =>
    intro hst hsteps hidle hbusy
    exact congrArg _ (if_pos ⟨hst, hsteps, hidle, hbusy⟩)
  case gates =>
    intro hrun hlo hhi
    exact congrArg _ (if_pos ⟨hrun, hlo, hhi⟩)
  case off =>
    intro hpwr hlo hhi hslo hshi
    exact congrArg _ (if_pos ⟨hpwr, hlo, hhi, hslo, hshi⟩)
  case wakesGated => exact coreWakeComplete_waking
  case wakesOff => exact coreWakeComplete_waking
  case topup =>
    intro hruns hon
    have hguard : (grainRuns s c && !(coreOf s c).topupsOff) = true := Bool.and_eq_true_iff.2 ⟨hruns, congrArg (!·) hon⟩
    exact congrArg _ (if_pos hguard)
  case testFails => exact fun hruns => congrArg _ (if_pos hruns)
  case testPasses => exact fun hruns => congrArg _ (if_pos hruns)

end

section
/-! Descriptors on memory and tables: COPY, SEAL and TABLE (R155 to R157, R181, R185, R186, R320 to R322). -/

namespace Sys2Proof.Levels

open Sys2Proof Sys2Proof.Machine Sys2Proof.Stated

variable {s s1 t : State} {n : Nat} {x : Running} {r : Ring} {fresh : Bool}

@[simp] theorem ctxClosed_setUnit (s : State) (n c : Nat) (u : RingUnit) : ctxClosed (setUnit s n u) c = ctxClosed s c := rfl

/-- What its ring runs as its command comes has its own effect, whether it starts now or goes on: only a start looks at the reserved
fields of its type (R322). -/
theorem runDesc_of_runs {is bad : DWord → Bool} {body : State → Ring → Running → Bool → State} (h : Runs s n x s1)
    (his : is x.desc.word = true) (hbad : bad x.desc.word = false) :
    ∃ fresh, runDesc s n is bad body = body s1 (ringOf s n) x fresh := by
  rcases h with ⟨d, ds, hstart, rfl, rfl⟩ | ⟨hserves, hawake, hvalid, hruns, hreport, rfl⟩
  · obtain ⟨hserves, hawake, hvalid, herr, hidle, hready, hfence, hopen, hhead⟩ := hstart
    have hmet : (dFlag d.word 2 && !fenceMet s n d.stamp false) = false := by
      cases hf : dFlag d.word 2 with
      | false => rfl
      | true => rw [hfence hf]; rfl
    simp only [justTaken] at his hbad
    refine ⟨true, ?_⟩
    simp [runDesc, justTaken, hserves, hawake, hvalid, herr, hidle, hready, his, hmet, hopen, hhead, hbad]
  · exact ⟨false, by simp [runDesc, hserves, hawake, hvalid, hruns, hreport, his]⟩

/-- A descriptor's command makes the effect that its body has on what the ring runs. -/
theorem exec_of_runs {c : Instr} {is bad : DWord → Bool} {body : State → Ring → Running → Bool → State} (h : Runs s n x s1)
    (hc : exec c s = .next (runDesc s n is bad body)) (his : is x.desc.word = true) (hbad : bad x.desc.word = false)
    (heffect : ∀ fresh, body s1 (ringOf s n) x fresh = t) : exec c s = .next t := by
  obtain ⟨fresh, hbody⟩ := runDesc_of_runs (body := body) h his hbad
  rw [hc, hbody, heffect]

/-- A unit that meets no error of the hardware does its work. -/
@[simp] theorem meetUnit_none (dies : List Nat) (f : State → State) (s : State) : meetUnit dies .none f s = f s := by
  unfold meetUnit
  split
  · next h => exact h.symm
  · rfl

@[simp] theorem acc_bind_ok {α β : Type} (a : α) (s : State) (f : α → State → Acc β) : (Acc.ok a s).bind f = f a s := rfl

/-- A piece of a COPY that meets no fault is passed, and the last one completes it with the byte count (R157, R321). -/
theorem copyDesc_piece {a b : CPat} {ps : List (BitVec 256)} {s2 s3 s4 : State}
    (hsides : copySides s n r.ctx x = .ok (some (a, b, ps)) s2)
    (haccept : (if x.begun then Acc.ok () s2 else copyAccept s2 r.ctx a b) = .ok () s3)
    (hpiece : copyPiece (setRunning s3 n { x with pats := ps, begun := true }) n r.ctx x.pos a b = .ok () s4) :
    copyDesc n s r x fresh =
      (let pos := min (cpBytes a) (x.pos + 2 ^ 21)
       let s5 := setRunning s4 n { x with pats := ps, begun := true, pos := pos }
       if pos = cpBytes a then descDone s5 n (copyReport 0 pos) else s5) := by
  simp only [copyDesc, hsides, haccept, hpiece]

section
/-! The blocks of a SEAL's piece may all be read. -/

variable {bs : List Nat} {s2 s3 : State}
  (hblocks : (if x.begun then Acc.ok () s else sealAccept s r.ctx x.desc.word).bind (fun _ u => sealBlocksOf u r.ctx x.desc.word x.pos) = .ok bs s2)
include hblocks

/-- A piece whose blocks are all sealed is passed, and the last one completes the SEAL (R155). -/
theorem sealDesc_piece {k : Nat} (hseal : sealRun bs s2 0 = .ok (k, none) s3) :
    sealDesc n s r x fresh =
      (let pos := min (slLen x.desc.word) (x.pos + 2 ^ 21)
       let s4 := setRunning s3 n { x with begun := true, pos := pos }
       if pos = slLen x.desc.word then descDone s4 n (Report.status_ 0) else s4) := by
  simp only [sealDesc, hblocks, hseal]

/-- A verified piece leaves its mismatches and the first one's CVA, and the last one completes the SEAL with them (R156). -/
theorem verifyDesc_piece {k at_ : Nat} (hverify : verifyRun bs s2 (slCva x.desc.word + x.pos) (x.bad, x.badAt) = .ok (k, at_) s3) :
    verifyDesc n s r x fresh =
      (let pos := min (slLen x.desc.word) (x.pos + 2 ^ 21)
       let s4 := setRunning s3 n { x with begun := true, pos := pos, bad := k, badAt := at_ }
       if pos = slLen x.desc.word then descDone s4 n { Report.status_ 0 with detail0 := k % 2 ^ 32, detail1 := at_ } else s4) := by
  simp only [verifyDesc, hblocks, acc_bind_ok, hverify]

end

section
/-! A registration has read its entry, and no call names its table. -/

variable {bs : List Byte} {s0 s2 : State} (hread : cvaRead s ⟨whoRing n, r.ctx⟩ (tbCva x.desc.word) 64 false = .ok bs s0)
  (hfree : tableBusy s0 n (tbTid x.desc.word) = .ok false s2)
include hread hfree

/-- With V 0 the table is removed, where it is the ring's own context's (R181). -/
theorem registerTable_removes (hv : teV (BitVec.ofNat 512 (leNat bs)) = false) (hown : teCtx (BitVec.ofNat 512 (leNat bs)) = r.ctx) :
    registerTable n s r x fresh = descDone { s2 with tables := tdel s2.tables (tbTid x.desc.word) } n (Report.status_ 0) := by
  simp [registerTable, hread, hfree, hv, hown]

/-- A right entry is kept with its partition map, where every bucket is right and the maps of all tables fit (R181, R182, R185). -/
theorem registerTable_keeps {e : BitVec 512} {mb : List Byte} {s3 : State} (he : e = BitVec.ofNat 512 (leNat bs)) (hv : teV e = true)
    (hentry : entryOk r.ctx e = true) (hmap : cvaRead s2 ⟨whoRing n, r.ctx⟩ (teMapCva e) (32 * 2 ^ tePbits e) false = .ok mb s3)
    (hbuckets : (chunks 256 32 (2 ^ tePbits e) mb).all (bucketOk s3 e) = true)
    (hfits : (s3.tables.filter (fun t => t.1 != tbTid x.desc.word)).foldl (fun n t => n + 32 * t.2.map.length) 0 +
      32 * (chunks 256 32 (2 ^ tePbits e) mb).length ≤ 2 ^ 26) :
    registerTable n s r x fresh =
      descDone { s3 with tables := tset ⟨0, []⟩ s3.tables (tbTid x.desc.word) ⟨e, chunks 256 32 (2 ^ tePbits e) mb⟩ } n (Report.status_ 0) := by
  subst he
  simp only [registerTable, hread, hfree, hv, hentry, hmap, hbuckets, decide_eq_false (Nat.not_lt.2 hfits), Bool.not_true, Bool.or_self,
    Bool.false_eq_true, if_false]

end

end Sys2Proof.Levels

open Sys2Proof Sys2Proof.Machine Sys2Proof.Stated Sys2Proof.Levels

/-- Settles O30: each descriptor's body, as `runDesc_of_runs` runs it, takes the branch that the hypotheses name. -/
theorem memoryDescriptors : Obligations.MemoryDescriptors := by
  unfold Obligations.MemoryDescriptors
  intro s s1 n x hruns d r
  refine ⟨?copies, ?seals, ?verifies, ?calls, ?registers⟩
  case copies =>
    intro a b ps s2 s3 s4 hty hres hsides haccept hpiece
    exact exec_of_runs hruns (congrArg _ (meetUnit_none _ _ _)) (beq_iff_eq.2 hty) (bne_eq_false_iff_eq.2 hres)
      fun _ => copyDesc_piece hsides haccept hpiece
  case seals =>
    intro bs k s2 s3 hty hmode hres hblocks hseal
    exact exec_of_runs hruns (congrArg _ (meetUnit_none _ _ _)) (Bool.and_eq_true_iff.2 ⟨beq_iff_eq.2 hty, congrArg (!·) hmode⟩) (bne_eq_false_iff_eq.2 hres)
      fun _ => sealDesc_piece hblocks hseal
  case verifies =>
    intro bs k at_ s2 s3 hty hmode hres hblocks hverify
    exact exec_of_runs hruns (congrArg _ (meetUnit_none _ _ _)) (Bool.and_eq_true_iff.2 ⟨beq_iff_eq.2 hty, hmode⟩) (bne_eq_false_iff_eq.2 hres)
      fun _ => verifyDesc_piece hblocks hverify
  case calls =>
    intro hty hmode hres hunit hbegun m hroom
    have hqueues : ¬ (x.begun || decide (16 ≤ queuedAt s1 m)) = true := by simp [hbegun, hroom]
    exact exec_of_runs hruns rfl (Bool.and_eq_true_iff.2 ⟨beq_iff_eq.2 hty, congrArg (!·) hmode⟩)
      (Bool.or_eq_false_iff.2 ⟨hres, bne_eq_false_iff_eq.2 hunit⟩) fun _ => if_neg hqueues
  case registers =>
    intro bs s0 s2 hty hmode hres hread hfree e
    have hregister {t : State} : (∀ fresh, registerTable n s1 r x fresh = t) → exec (.tableRegister n) s = .next t :=
      exec_of_runs hruns rfl (Bool.and_eq_true_iff.2 ⟨beq_iff_eq.2 hty, hmode⟩) hres
    refine ⟨?removed, ?kept⟩
    case removed => exact fun hv hown => hregister fun _ => registerTable_removes hread hfree hv hown
    case kept =>
      intro mb s3 hv hentry hmap map held hbuckets hfits
      exact hregister fun _ => registerTable_keeps hread hfree rfl hv hentry hmap hbuckets hfits

end

section
/-! Bytes as their homes give them, and what a non-caching write at a home does to them (R366, R375, R379). -/

namespace Sys2Proof.Levels

open Sys2Proof Sys2Proof.Machine Sys2Proof.Laws Sys2Proof.Stated

/-! Tables of cached lines, which copies are looked up in by name. -/

theorem find?_tdel_ne {α : Type} {j k : Nat} (h : j ≠ k) (t : Tbl α) : (tdel t k).find? (fun e => e.1 == j) = t.find? (fun e => e.1 == j) := by
  induction t with
  | nil => rfl
  | cons e t ih =>
    by_cases hk : e.1 = k
    · simp [tdel, hk, Ne.symm h]
    · simp only [tdel, if_neg hk, List.find?_cons, ih]

theorem tdel_sublist {α : Type} (k : Nat) (t : Tbl α) : (tdel t k).Sublist t := by
  induction t with
  | nil => exact .slnil
  | cons e t ih =>
    by_cases hk : e.1 = k
    · simp [tdel, hk]
    · simp only [tdel, if_neg hk]
      exact ih.cons_cons e

/-- Taking a key out of a table that lists it at most once takes it away. -/
theorem find?_tdel_self {α : Type} (k : Nat) {t : Tbl α} (h : (t.map Prod.fst).Nodup) : (tdel t k).find? (fun e => e.1 == k) = none := by
  induction t with
  | nil => rfl
  | cons e t ih =>
    obtain ⟨hnot, hrest⟩ := List.nodup_cons.1 h
    by_cases hk : e.1 = k
    · simp only [tdel, hk, if_true, List.find?_eq_none, beq_iff_eq]
      rintro x hx rfl
      exact hnot (hk ▸ List.mem_map_of_mem hx)
    · simp [tdel, hk, ih hrest]

/-! Bytes of memory. -/

theorem tget_putBytes {x : Nat} : ∀ (bs : List Byte) {t : Tbl Byte} (a : Nat), twf 0 t = true →
    tget 0 (putBytes t a bs) x = if a ≤ x ∧ x < a + bs.length then bs.getD (x - a) 0 else tget 0 t x := by
  intro bs
  induction bs with
  | nil => intro t a _; rw [if_neg (by simp)]; rfl
  | cons b bs ih =>
    intro t a ht
    rw [putBytes, ih (a + 1) (twf_tset ht)]
    by_cases hx : x = a
    · subst hx
      rw [tget_tset_same ht, if_neg (by omega), if_pos (by simp), Nat.sub_self, List.getD_cons_zero]
    · rw [tget_tset_other hx ht]
      by_cases hin : a + 1 ≤ x ∧ x < a + 1 + bs.length
      · rw [if_pos hin, if_pos (by simp; omega), show x - a = x - (a + 1) + 1 by omega, List.getD_cons_succ]
      · rw [if_neg hin, if_neg (by simp; omega)]

/-- A byte as its home gives it is the dirty copy's, or memory's. -/
theorem byteNow_eq (s : State) (x : Nat) : byteNow s x = (dirtyCopy s (x / 64)).elim (memGet s x) (·.getD (x % 64) 0) := by
  unfold byteNow lineNow
  cases dirtyCopy s (x / 64) with
  | some d => rfl
  | none =>
    have hlt : x % 64 < 64 := Nat.mod_lt x (by decide)
    have hx : x / 64 * 64 + x % 64 = x := by omega
    simp [memRead, getBytes, hlt, hx, memGet]

theorem lineNow_length {s : State} {l : Nat} (h : ∀ d, dirtyCopy s l = some d → d.length = 64) : (lineNow s l).1.length = 64 := by
  unfold lineNow
  cases hd : dirtyCopy s l with
  | some d => exact h d hd
  | none => simp [memRead, getBytes]

theorem dirtyCopy_congr {s t : State} (h0 : t.coh.s0 = s.coh.s0) (h1 : t.coh.s1 = s.coh.s1) (l : Nat) : dirtyCopy t l = dirtyCopy s l := by
  simp only [dirtyCopy, copyOf, h0, h1]

theorem dirtyCopy_of_onlyReads {s t : State} (h : OnlyReads s t) (l : Nat) : dirtyCopy t l = dirtyCopy s l :=
  dirtyCopy_congr (by rw [h.1]) (by rw [h.1]) l

/-! What a home may do to the rest of a state. -/

/-- The homes' tables are in canonical form: memory and directory keep their form, each S-die lists a line once, and a dirty copy is a whole line. -/
structure HomesWf (s : State) : Prop where
  mem   : twf 0 s.mem = true
  dir   : twf ⟨.i, 0⟩ s.coh.dir = true
  s0    : (s.coh.s0.map Prod.fst).Nodup
  s1    : (s.coh.s1.map Prod.fst).Nodup
  whole : ∀ l d, dirtyCopy s l = some d → d.length = 64

/-- Work at homes: no line comes into service and no message is sent, the homes' tables keep their form, and the directory learns of no new holder. -/
structure HomeWork (s t : State) : Prop where
  frame   : t = { s with
    mem := t.mem, poison := t.poison, regs := t.regs, tlb := t.tlb, free := t.free, rings := t.rings
    coh := { t.coh with homes := s.coh.homes, msgs := s.coh.msgs } }
  wf      : HomesWf s → HomesWf t
  holders : HomesWf s → ∀ l a, a ∈ (dirOf t l).agents → a ∈ (dirOf s l).agents

theorem HomeWork.refl (s : State) : HomeWork s s := ⟨rfl, id, fun _ _ _ => id⟩

theorem HomeWork.trans {s t u : State} (h : HomeWork s t) (g : HomeWork t u) : HomeWork s u where
  frame := by
    have hs := h.frame
    have ht := g.frame
    rw [ht, hs]
  wf hs := g.wf (h.wf hs)
  holders hs l a ha := h.holders hs l a (g.holders (h.wf hs) l a ha)

theorem HomeWork.foldl {α : Type} {f : State → α → State} (hf : ∀ s a, HomeWork s (f s a)) (l : List α) (s : State) : HomeWork s (l.foldl f s) :=
  foldl_keeps (HomeWork s) f (fun _ a h => h.trans (hf _ a)) l s (.refl s)

/-- A line that the host does not hold and no home has in service stays so. -/
theorem HomeWork.lineBlocked {s t : State} (h : HomeWork s t) (hs : HomesWf s) {l : Nat} (hl : lineBlocked s true l = false) :
    lineBlocked t true l = false := by
  have hbusy : lineBusy t l = lineBusy s l := by rw [h.frame]; rfl
  simp only [Machine.lineBlocked, Bool.or_eq_false_iff, if_true, List.contains_eq_mem, decide_eq_false_iff_not] at hl ⊢
  exact ⟨hbusy ▸ hl.1, fun ha => hl.2 (h.holders hs l _ ha)⟩

/-- Work that leaves directory and caches alone. -/
theorem HomeWork.of_sameCaches {s t : State} (hframe : t = { s with
      mem := t.mem, poison := t.poison, regs := t.regs, tlb := t.tlb, free := t.free, rings := t.rings })
    (hmem : twf 0 s.mem = true → twf 0 t.mem = true) : HomeWork s t where
  frame := by rw [hframe]
  wf hs := by
    have hcoh : t.coh = s.coh := by rw [hframe]
    exact ⟨hmem hs.mem, hcoh ▸ hs.dir, hcoh ▸ hs.s0, hcoh ▸ hs.s1,
      fun l d hd => hs.whole l d (dirtyCopy_congr (congrArg Coh.s0 hcoh) (congrArg Coh.s1 hcoh) l ▸ hd)⟩
  holders _ l a ha := by
    have hdir : dirOf t l = dirOf s l := by rw [hframe]; rfl
    exact hdir ▸ ha

/-- Work on one line's directory entry, which afterwards records some of the holders it recorded. -/
theorem HomeWork.of_entry {s t : State} (line : Nat) (hframe : t = { s with regs := t.regs, coh := { s.coh with dir := t.coh.dir } })
    (hdir : HomesWf s → twf ⟨.i, 0⟩ t.coh.dir = true ∧ (∀ l, l ≠ line → dirOf t l = dirOf s l) ∧
      ∀ a, a ∈ (dirOf t line).agents → a ∈ (dirOf s line).agents) : HomeWork s t where
  frame := by rw [hframe]
  wf hs := by
    have h0 : t.coh.s0 = s.coh.s0 := by rw [hframe]
    have h1 : t.coh.s1 = s.coh.s1 := by rw [hframe]
    have hmem : t.mem = s.mem := by rw [hframe]
    exact ⟨hmem ▸ hs.mem, (hdir hs).1, h0 ▸ hs.s0, h1 ▸ hs.s1, fun l d hd => hs.whole l d (dirtyCopy_congr h0 h1 l ▸ hd)⟩
  holders hs l a ha := by
    obtain ⟨-, hother, hline⟩ := hdir hs
    by_cases hl : l = line
    · subst hl
      exact hline a ha
    · exact hother l hl ▸ ha

theorem mem_agents_o {a c : Agent} {v : List Agent} : a ∈ (DirSt.o c v).agents ↔ a = c ∨ a ∈ v := by
  simp only [DirSt.agents, List.contains_eq_mem, decide_eq_true_eq]
  split
  · next hc => exact ⟨.inr, fun h => h.elim (fun ha => ha ▸ hc) id⟩
  · exact List.mem_cons

theorem agents_withoutAgent {d : DirSt} {a b : Agent} (h : b ∈ (withoutAgent d a).agents) : b ∈ d.agents := by
  cases d with
  | i => exact h
  | s v => exact (List.mem_filter.1 h).1
  | x c =>
    simp only [withoutAgent] at h
    split at h
    · cases h
    · exact h
  | o c v =>
    rw [mem_agents_o]
    simp only [withoutAgent] at h
    split at h
    · exact .inr (List.mem_filter.1 h).1
    · exact (mem_agents_o.1 h).imp_right fun hb => (List.mem_filter.1 hb).1

/-- A directory entry that goes leaves no holder of its line, and the other entries as they were. -/
theorem delEntry_dir {s t : State} {line : Nat} (hdir : t.coh.dir = tdel s.coh.dir line) (hs : HomesWf s) :
    twf ⟨.i, 0⟩ t.coh.dir = true ∧ (∀ l, l ≠ line → dirOf t l = dirOf s l) ∧ ∀ a, a ∈ (dirOf t line).agents → a ∈ (dirOf s line).agents := by
  simp only [dirOf, hdir]
  refine ⟨twf_tdel _ hs.dir, fun l hl => by rw [tget_tdel_other hl _ hs.dir], fun a ha => ?_⟩
  rw [tget_tdel_same _ hs.dir] at ha
  cases ha

/-- The directory entry of a line goes. -/
def delEntry (s : State) (line : Nat) : State := { s with coh := { s.coh with dir := tdel s.coh.dir line } }

@[simp] theorem delEntry_s0 (s : State) (line : Nat) : (delEntry s line).coh.s0 = s.coh.s0 := rfl
@[simp] theorem delEntry_s1 (s : State) (line : Nat) : (delEntry s line).coh.s1 = s.coh.s1 := rfl
@[simp] theorem delEntry_mem (s : State) (line : Nat) : (delEntry s line).mem = s.mem := rfl

theorem homeWork_delEntry (s : State) (line : Nat) : HomeWork s (delEntry s line) := .of_entry line rfl (delEntry_dir rfl)

/-- A snoop that finds no copy takes the line's entry away, or leaves in it the holders that are left (R375). -/
theorem missed_dir (s : State) (line : Nat) (a : Agent) : (missed s line a).coh.dir = tdel s.coh.dir line ∨
    (withoutAgent (dirOf s line) a ≠ .i ∧ ∃ used, (missed s line a).coh.dir = tput s.coh.dir line ⟨withoutAgent (dirOf s line) a, used⟩) := by
  simp only [missed, dirOf]
  split
  · exact .inl rfl
  · exact .inl rfl
  · next hi _ => exact .inr ⟨hi, _, rfl⟩

theorem homeWork_missed (s : State) (line : Nat) (a : Agent) : HomeWork s (missed s line a) := by
  rcases missed_dir s line a with hdir | ⟨hne, used, hdir⟩
  · exact .of_entry line rfl (delEntry_dir hdir)
  · refine .of_entry line rfl fun hs => ?_
    simp only [dirOf, hdir]
    refine ⟨twf_tput (fun hd => hne (congrArg DirEnt.st hd)) _ hs.dir, fun l hl => by rw [tget_tput_ne hl], fun b hb => ?_⟩
    rw [tget_tput_same] at hb
    exact agents_withoutAgent hb

theorem homeWork_memWrite (s : State) (a : Nat) (bs : List Byte) : HomeWork s (memWrite s a bs) :=
  .of_sameCaches rfl (twf_putBytes bs a)

@[simp] theorem wakeWatch_coh (s : State) (host : Bool) (l : Nat) : (wakeWatch s host l).coh = s.coh := rfl
@[simp] theorem wakeWatch_mem (s : State) (host : Bool) (l : Nat) : (wakeWatch s host l).mem = s.mem := rfl

theorem homeWork_wakeWatch (s : State) (host : Bool) (l : Nat) : HomeWork s (wakeWatch s host l) := .of_sameCaches rfl id

theorem homeWork_snoopOwner (s : State) (line : Nat) : HomeWork s (snoopOwner s line) := by
  unfold snoopOwner
  repeat' split
  · exact homeWork_missed s line _
  all_goals exact .refl s

theorem homeWork_snoopAll (s : State) (line : Nat) : HomeWork s (snoopAll s line) := .foldl (fun u a => homeWork_missed u line a) _ s

/-! Invalidation. -/

/-- A line whose copies are dropped is current in memory, and no other line's copy goes. -/
theorem dirtyCopy_dropCopies {s : State} (hs : HomesWf s) (line l : Nat) :
    dirtyCopy (dropCopies s line) l = if l = line then none else dirtyCopy s l := by
  by_cases hl : l = line
  · subst hl
    simp [dirtyCopy, copyOf, find?_tdel_self l hs.s0, find?_tdel_self l hs.s1]
  · simp [dirtyCopy, copyOf, find?_tdel_ne hl, hl]

theorem homeWork_dropCopies (s : State) (line : Nat) : HomeWork s (dropCopies s line) where
  frame := rfl
  wf hs := by
    refine ⟨hs.mem, hs.dir, hs.s0.sublist ((tdel_sublist line _).map _), hs.s1.sublist ((tdel_sublist line _).map _), fun l d hd => ?_⟩
    rw [dirtyCopy_dropCopies hs] at hd
    split at hd
    · cases hd
    · exact hs.whole l d hd
  holders _ _ _ := id

theorem invalidate_eq (s : State) (line : Nat) : invalidate s line =
    (let u := dropCopies (snoopAll s line) line
     delEntry (if (dirOf u line).agents.contains .ring then wakeWatch u false line else u) line) := rfl

theorem homeWork_invalidate (s : State) (line : Nat) : HomeWork s (invalidate s line) := by
  have hdrop := (homeWork_snoopAll s line).trans (homeWork_dropCopies _ line)
  rw [invalidate_eq]
  dsimp only
  split
  · exact (hdrop.trans (homeWork_wakeWatch _ _ _)).trans (homeWork_delEntry _ line)
  · exact hdrop.trans (homeWork_delEntry _ line)

theorem onlyReads_snoopAll (s : State) (line : Nat) : OnlyReads s (snoopAll s line) :=
  OnlyReads.foldl (f := fun u a => missed u line a) (fun _ _ => ⟨rfl, Nat.le_refl _⟩) _ _

@[simp] theorem invalidate_mem (s : State) (line : Nat) : (invalidate s line).mem = s.mem := by
  have hsnoop : (snoopAll s line).mem = s.mem := by rw [(onlyReads_snoopAll s line).1]
  rw [invalidate_eq]
  dsimp only
  split <;> simp [hsnoop]

/-- After an invalidation no S-die holds the line; of other lines their copies stand. -/
theorem dirtyCopy_invalidate {s : State} (hs : HomesWf s) (line l : Nat) :
    dirtyCopy (invalidate s line) l = if l = line then none else dirtyCopy s l := by
  rw [← dirtyCopy_of_onlyReads (onlyReads_snoopAll s line), ← dirtyCopy_dropCopies ((homeWork_snoopAll s line).wf hs), invalidate_eq]
  dsimp only
  split <;> exact dirtyCopy_congr (by simp) (by simp) l

/-! Writes at a home. -/

/-- A line is current in memory: its copies are invalidated, and a dirty one is merged. -/
def mergeLine (s : State) (line : Nat) : State := (dirtyCopy s line).elim (invalidate s line) (memWrite (invalidate s line) (line * 64))

theorem homeWork_mergeLine (s : State) (line : Nat) : HomeWork s (mergeLine s line) := by
  unfold mergeLine
  cases dirtyCopy s line with
  | none => exact homeWork_invalidate s line
  | some old => exact (homeWork_invalidate s line).trans (homeWork_memWrite _ _ old)

theorem dirtyCopy_mergeLine {s : State} (hs : HomesWf s) (line l : Nat) :
    dirtyCopy (mergeLine s line) l = if l = line then none else dirtyCopy s l := by
  rw [← dirtyCopy_invalidate hs]
  unfold mergeLine
  cases dirtyCopy s line with
  | none => rfl
  | some old => exact dirtyCopy_congr rfl rfl l

theorem memGet_memWrite {s : State} (hmem : twf 0 s.mem = true) (a x : Nat) (bs : List Byte) :
    memGet (memWrite s a bs) x = if a ≤ x ∧ x < a + bs.length then bs.getD (x - a) 0 else memGet s x := tget_putBytes bs a hmem

theorem memGet_mergeLine {s : State} (hmem : twf 0 s.mem = true) (line x : Nat) (hwhole : ∀ d, dirtyCopy s line = some d → d.length = 64) :
    memGet (mergeLine s line) x = if x / 64 = line then byteNow s x else memGet s x := by
  have hinv : memGet (invalidate s line) x = memGet s x := by rw [memGet, invalidate_mem, memGet]
  rw [byteNow_eq, mergeLine]
  cases hd : dirtyCopy s line with
  | none =>
    rw [Option.elim, hinv]
    split
    · next hx => rw [hx, hd, Option.elim]
    · rfl
  | some old =>
    have hlen := hwhole old hd
    rw [Option.elim, memGet_memWrite (by rwa [invalidate_mem]), hinv, hlen]
    by_cases hx : x / 64 = line
    · have hoff : x - line * 64 = x % 64 := by omega
      rw [if_pos (by omega), if_pos hx, hx, hd, hoff, Option.elim]
    · rw [if_neg (by omega), if_neg hx]

/-- A write at a home stores its bytes in a line made current (R375). -/
theorem lineWrite_eq (s : State) (line off : Nat) (bs : List Byte) (poison : Bool) :
    ∃ p, lineWrite s line off bs poison = { memWrite (mergeLine s line) (line * 64 + off) bs with poison := p } := by
  unfold lineWrite mergeLine
  cases dirtyCopy s line <;> dsimp only <;> repeat' split
  all_goals exact ⟨_, rfl⟩

theorem homeWork_lineWrite (s : State) (line off : Nat) (bs : List Byte) (poison : Bool) : HomeWork s (lineWrite s line off bs poison) := by
  obtain ⟨p, heq⟩ := lineWrite_eq s line off bs poison
  rw [heq]
  exact ((homeWork_mergeLine s line).trans (homeWork_memWrite _ _ bs)).trans (.of_sameCaches rfl id)

/-- The bytes written stand in memory; the other bytes of the line become what its home gave before, and no other line changes. -/
theorem memGet_lineWrite {s : State} (hmem : twf 0 s.mem = true) (line off x : Nat) (bs : List Byte) (poison : Bool)
    (hwhole : ∀ d, dirtyCopy s line = some d → d.length = 64) :
    memGet (lineWrite s line off bs poison) x =
      if line * 64 + off ≤ x ∧ x < line * 64 + off + bs.length then bs.getD (x - (line * 64 + off)) 0
      else if x / 64 = line then byteNow s x else memGet s x := by
  obtain ⟨p, heq⟩ := lineWrite_eq s line off bs poison
  have hmerged : twf 0 (mergeLine s line).mem = true := by
    unfold mergeLine
    cases dirtyCopy s line with
    | none => simpa
    | some old => exact twf_putBytes old _ (by simpa)
  rw [← memGet_mergeLine hmem line x hwhole, ← memGet_memWrite hmerged, heq]
  rfl

/-- A write at a home is exact: a byte reads as written, or as before. -/
theorem byteNow_lineWrite {s : State} (hs : HomesWf s) {line off : Nat} (x : Nat) {bs : List Byte} (poison : Bool) (hfits : off + bs.length ≤ 64) :
    byteNow (lineWrite s line off bs poison) x =
      if line * 64 + off ≤ x ∧ x < line * 64 + off + bs.length then bs.getD (x - (line * 64 + off)) 0 else byteNow s x := by
  have hcopies : dirtyCopy (lineWrite s line off bs poison) (x / 64) = if x / 64 = line then none else dirtyCopy s (x / 64) := by
    obtain ⟨p, heq⟩ := lineWrite_eq s line off bs poison
    rw [← dirtyCopy_mergeLine hs, heq]
    exact dirtyCopy_congr rfl rfl _
  rw [byteNow_eq, hcopies, memGet_lineWrite hs.mem line off x bs poison (hs.whole line)]
  by_cases hx : x / 64 = line
  · rw [if_pos hx, if_pos hx, Option.elim]
  · rw [if_neg hx, if_neg hx, if_neg (by omega), if_neg (by omega), byteNow_eq]

/-- Bytes inside one line, which is free, are written at its home at once. -/
theorem devSend_free {s : State} {a : Nat} {bs : List Byte} (hne : bs ≠ []) (hfits : a % 64 + bs.length ≤ 64)
    (hfree : lineBlocked s true (a / 64) = false) : devSend s a bs = lineWrite s (a / 64) (a % 64) bs false := by
  have hcut : cutLines (bs.length + 1) a bs = [(a / 64, a % 64, bs)] := by
    have hlen : bs.length ≤ 64 - a % 64 := by omega
    rw [cutLines, if_neg (by simpa using hne)]
    dsimp only
    rw [List.take_of_length_le hlen, List.drop_of_length_le hlen]
    cases bs.length <;> rfl
  simp [devSend, hcut, hfree]

end Sys2Proof.Levels
end

section
/-! A SEAL's blocks and their edge codes (R148, R155, R169). -/

namespace Sys2Proof.Levels

open Sys2Proof Sys2Proof.Machine Sys2Proof.Laws Sys2Proof.Stated

theorem leBytes_length (n v : Nat) : (leBytes n v).length = n := by
  induction n generalizing v with
  | zero => rfl
  | succ n ih => simp [leBytes, ih]

theorem leNat_leBytes (n v : Nat) : leNat (leBytes n v) = v % 256 ^ n := by
  induction n generalizing v with
  | zero => simp [leBytes, leNat, Nat.mod_one]
  | succ n ih =>
    have hsplit : v % 256 ^ (n + 1) = v % 256 + 256 * (v / 256 % 256 ^ n) := by rw [Nat.pow_succ', Nat.mod_mul]
    rw [leBytes, leNat, ih, BitVec.toNat_ofNat, hsplit]

theorem crcBits_lt {poly : Nat} (hp : poly < 2 ^ 32) (k : Nat) {c : Nat} (hc : c < 2 ^ 32) : crcBits poly k c < 2 ^ 32 := by
  induction k generalizing c with
  | zero => exact hc
  | succ k ih =>
    have hshift : c >>> 1 < 2 ^ 32 := Nat.lt_of_le_of_lt (Nat.shiftRight_le c 1) hc
    refine ih ?_
    split
    · exact Nat.xor_lt_two_pow hshift hp
    · exact hshift

/-- An edge code has 32 bits (R148). -/
theorem crc32c_lt (bs : List Byte) : crc32c bs < 2 ^ 32 := by
  refine Nat.xor_lt_two_pow (foldl_keeps (· < 2 ^ 32) _ (fun c b hc => ?_) bs _ (by decide)) (by decide)
  exact crcBits_lt (by decide) 8 (Nat.xor_lt_two_pow hc (Nat.lt_trans b.isLt (by decide)))

/-- Bytes inside one line, as its home gives them. -/
theorem lineNow_bytes {s : State} (hs : HomesWf s) {a n : Nat} (hfits : a % 64 + n ≤ 64) :
    ((lineNow s (a / 64)).1.drop (a % 64)).take n = (List.range n).map (fun i => byteNow s (a + i)) := by
  have hlen : (lineNow s (a / 64)).1.length = 64 := lineNow_length (hs.whole _)
  refine List.ext_getElem (by simp [hlen]; omega) fun i hi _ => ?_
  have hin : i < n := by simp at hi; omega
  have hline : (a + i) / 64 = a / 64 := by omega
  have hoff : (a + i) % 64 = a % 64 + i := by omega
  have hget : a % 64 + i < (lineNow s (a / 64)).1.length := by omega
  simp [byteNow, hline, hoff, List.getElem?_eq_getElem hget]

theorem slotOf_block (b : Nat) : slotOf (b * 4096) = edgeBase + 4 * b := by
  rw [slotOf, Nat.shiftRight_eq_div_pow, Nat.mul_div_cancel b (by decide)]

theorem slot_fits (b : Nat) : (edgeBase + 4 * b) % 64 + 4 ≤ 64 := by
  have hbase : edgeBase = 64 * 0x7FE000000 := rfl
  omega

/-- A block's edge code is spelled by four bytes of its slot (R169). -/
theorem codeAt_eq {s : State} (hs : HomesWf s) (b : Nat) :
    codeAt s (b * 4096) = leNat ((List.range 4).map (fun i => byteNow s (edgeBase + 4 * b + i))) := by
  rw [codeAt, slotOf_block, lineOf, lineNow_bytes hs (slot_fits b)]

/-- The bytes of a block as their homes give them. -/
def blockAsNow (s : State) (b : Nat) : List Byte := (List.range 4096).map (fun i => byteNow s (b * 4096 + i))

/-- Lines one after the other are their bytes one after the other. -/
theorem flatten_lines {f : Nat → List Byte} (hf : ∀ l, (f l).length = 64) (m : Nat) :
    ((List.range m).map f).flatten = (List.range (64 * m)).map (fun i => (f (i / 64)).getD (i % 64) 0) := by
  induction m with
  | zero => rfl
  | succ m ih =>
    have hlast : f m = (List.range 64).map (fun i => (f ((64 * m + i) / 64)).getD ((64 * m + i) % 64) 0) := by
      refine List.ext_getElem (by simp [hf]) fun i hi _ => ?_
      have hi' : i < 64 := hf m ▸ hi
      have hline : (64 * m + i) / 64 = m := by omega
      simp [hline, Nat.mod_eq_of_lt hi', hi]
    rw [List.range_succ, List.map_append, List.flatten_append, ih, Nat.mul_succ, List.range_add, List.map_append, List.map_map,
      List.map_singleton, List.flatten_singleton, hlast]
    rfl

theorem linesOf_block (b : Nat) : linesOf (b * 4096) 4096 = (List.range 64).map (b * 64 + ·) := by
  have hfirst : b * 4096 / 64 = b * 64 := by omega
  have hcount : (b * 4096 + 4096 - 1) / 64 + 1 - b * 64 = 64 := by omega
  rw [linesOf, if_neg (by decide), lineOf, lineOf, hfirst, hcount]

/-- The 64 lines of a block are its bytes. -/
theorem lines_block {s : State} (hs : HomesWf s) (b : Nat) :
    (((linesOf (b * 4096) 4096).map (fun l => (lineNow s l).1)).flatten.drop (b * 4096 % 64)).take 4096 = blockAsNow s b := by
  have hstart : b * 4096 % 64 = 0 := by omega
  have hbyte (i : Nat) : (lineNow s (b * 64 + i / 64)).1.getD (i % 64) 0 = byteNow s (b * 4096 + i) := by
    have hblock : b * 4096 = 64 * (b * 64) := by omega
    rw [byteNow, hblock, Nat.mul_add_div (by decide), Nat.mul_add_mod]
  rw [linesOf_block, List.map_map, hstart, List.drop_zero,
    flatten_lines (f := (fun l => (lineNow s l).1) ∘ (b * 64 + ·)) (fun _ => lineNow_length (hs.whole _)),
    List.take_of_length_le (by simp only [List.length_map, List.length_range, Nat.reduceMul, Nat.le_refl])]
  exact List.map_congr_left fun i _ => hbyte i

/-- A read of a block that its homes answer gives its bytes, and drops from the directory owners that hold no copy any more (R375). -/
theorem blockNow_ok {s t : State} (hs : HomesWf s) {b : Nat} {bs : List Byte} (h : blockNow s b = .ok bs t) :
    HomeWork s t ∧ t.mem = s.mem ∧ (∀ x, byteNow t x = byteNow s x) ∧ bs = blockAsNow s b := by
  have hreads := devRead_ok h
  have hmem : t.mem = s.mem := by rw [hreads.1]
  have hsame (x : Nat) : byteNow t x = byteNow s x := by
    rw [byteNow_eq, byteNow_eq, memGet, memGet, hmem, dirtyCopy_of_onlyReads hreads]
  simp only [blockNow, devRead] at h
  split at h
  · cases h
  simp only [devReadNow] at h
  split at h
  · cases h
  cases h
  have hwork := HomeWork.foldl homeWork_snoopOwner (linesOf (b * 4096) 4096) s
  refine ⟨hwork, hmem, hsame, ?_⟩
  rw [lines_block (hwork.wf hs), blockAsNow, blockAsNow, List.map_congr_left fun i _ => hsame _]

/-! The code of one block. -/

section
variable {s : State} {b : Nat} (hs : HomesWf s) (hfree : lineBlocked s true (slotOf (b * 4096) / 64) = false) (code : Nat)
include hfree

theorem putCode_eq : putCode s b code = lineWrite s ((edgeBase + 4 * b) / 64) ((edgeBase + 4 * b) % 64) (leBytes 4 code) false := by
  rw [slotOf_block] at hfree
  rw [putCode, slotOf_block, devSend_free (by simp [leBytes]) (by rw [leBytes_length]; exact slot_fits b) hfree]

theorem homeWork_putCode : HomeWork s (putCode s b code) := by
  rw [putCode_eq hfree]
  exact homeWork_lineWrite s _ _ _ _

include hs

theorem byteNow_putCode (x : Nat) : byteNow (putCode s b code) x =
    if edgeBase + 4 * b ≤ x ∧ x < edgeBase + 4 * b + 4 then (leBytes 4 code).getD (x - (edgeBase + 4 * b)) 0 else byteNow s x := by
  rw [putCode_eq hfree, byteNow_lineWrite hs x false (by rw [leBytes_length]; exact slot_fits b), leBytes_length, Nat.div_add_mod']

theorem memGet_putCode {x : Nat} (hx : x < edgeBase) : memGet (putCode s b code) x = memGet s x := by
  have hbase : edgeBase = 64 * 0x7FE000000 := rfl
  rw [putCode_eq hfree, memGet_lineWrite hs.mem _ _ x _ _ (hs.whole _), if_neg (by omega), if_neg (by omega)]

theorem codeAt_putCode_self {code : Nat} (hcode : code < 2 ^ 32) : codeAt (putCode s b code) (b * 4096) = code := by
  have hbytes : (List.range 4).map (fun i => byteNow (putCode s b code) (edgeBase + 4 * b + i)) = leBytes 4 code := by
    refine List.ext_getElem (by simp [leBytes_length]) fun i hi hi' => ?_
    have hlt : i < 4 := by simpa using hi
    simp [byteNow_putCode hs hfree, hlt, List.getElem?_eq_getElem hi']
  rw [codeAt_eq ((homeWork_putCode hfree code).wf hs), hbytes, leNat_leBytes]
  exact Nat.mod_eq_of_lt hcode

theorem codeAt_putCode_ne {c : Nat} (hc : c ≠ b) : codeAt (putCode s b code) (c * 4096) = codeAt s (c * 4096) := by
  have hbyte : ∀ i ∈ List.range 4, byteNow (putCode s b code) (edgeBase + 4 * c + i) = byteNow s (edgeBase + 4 * c + i) := by
    intro i hi
    have hlt := List.mem_range.1 hi
    rw [byteNow_putCode hs hfree, if_neg (by omega)]
  rw [codeAt_eq ((homeWork_putCode hfree code).wf hs), codeAt_eq hs, List.map_congr_left hbyte]

end

/-! Sealing in turn. -/

/-- From `s` to `t` the blocks `bs` have been sealed: their codes are those of their bytes, no other code and no byte below the codes differs. -/
structure SealedFrom (s t : State) (bs : List Nat) : Prop where
  work   : HomeWork s t
  below  : ∀ a, a < edgeBase → byteNow t a = byteNow s a ∧ memGet t a = memGet s a
  codes  : ∀ b, b ∈ bs → codeAt t (b * 4096) = crc32c (blockAsNow s b)
  others : ∀ b, b ∉ bs → codeAt t (b * 4096) = codeAt s (b * 4096)

theorem SealedFrom.cons {s t u : State} {b : Nat} {bs : List Nat} (hblocks : ∀ c, c ∈ b :: bs → (c + 1) * 4096 ≤ edgeBase)
    (h : SealedFrom s u [b]) (g : SealedFrom u t bs) : SealedFrom s t (b :: bs) where
  work := h.work.trans g.work
  below a ha := ⟨(g.below a ha).1.trans (h.below a ha).1, (g.below a ha).2.trans (h.below a ha).2⟩
  codes c hc := by
    have hbytes : blockAsNow u c = blockAsNow s c := by
      refine List.map_congr_left fun i hi => (h.below _ ?_).1
      have hlt := List.mem_range.1 hi
      have := hblocks c hc
      omega
    by_cases hin : c ∈ bs
    · rw [g.codes c hin, hbytes]
    · rw [g.others c hin, h.codes c (List.mem_singleton.2 ((List.mem_cons.1 hc).resolve_right hin))]
  others c hc := by
    obtain ⟨hb, hbs⟩ := not_or.1 fun hmem => hc (List.mem_cons.2 hmem)
    rw [g.others c hbs, h.others c (by simpa using hb)]

/-- A block that is read in whole is sealed, where its code's line is free. -/
theorem sealedFrom_block {s u : State} (hs : HomesWf s) {b : Nat} {bs : List Byte}
    (hfree : lineBlocked s true (slotOf (b * 4096) / 64) = false) (hread : blockNow s b = .ok bs u) :
    SealedFrom s (putCode u b (crc32c bs)) [b] := by
  obtain ⟨hwork, hmem, hsame, hbytes⟩ := blockNow_ok hs hread
  have hu := hwork.wf hs
  have hfreeNow := hwork.lineBlocked hs hfree
  have hbase : edgeBase = 64 * 0x7FE000000 := rfl
  refine ⟨hwork.trans (homeWork_putCode hfreeNow _), fun a ha => ⟨?byte, ?memory⟩, fun c hc => ?code, fun c hc => ?other⟩
  case byte => rw [byteNow_putCode hu hfreeNow, if_neg (by omega), hsame]
  case memory => rw [memGet_putCode hu hfreeNow _ ha, memGet, hmem, memGet]
  case code =>
    obtain rfl := List.mem_singleton.1 hc
    rw [codeAt_putCode_self hu hfreeNow (crc32c_lt bs), hbytes]
  case other =>
    rw [codeAt_putCode_ne hu hfreeNow _ (by simpa using hc), codeAt_eq hu, codeAt_eq hs, List.map_congr_left fun i _ => hsame _]

/-- A SEAL over canonical tables that meets no poisoned line seals each of its blocks. -/
theorem sealedFrom_sealRun : ∀ (bs : List Nat) {s t : State} {j k : Nat}, HomesWf s →
    (∀ b, b ∈ bs → (b + 1) * 4096 ≤ edgeBase ∧ lineBlocked s true (slotOf (b * 4096) / 64) = false) →
    sealRun bs s j = .ok (k, none) t → k = j + bs.length ∧ SealedFrom s t bs := by
  intro bs
  induction bs with
  | nil =>
    rintro s t j k hs - h
    cases h
    exact ⟨rfl, .refl _, fun _ _ => ⟨rfl, rfl⟩, fun _ hb => absurd hb List.not_mem_nil, fun _ _ => rfl⟩
  | cons b bs ih =>
    intro s t j k hs hbs h
    simp only [sealRun] at h
    split at h
    next data u hread =>
      have hone := sealedFrom_block hs (hbs b (List.mem_cons_self ..)).2 hread
      obtain ⟨hk, hrest⟩ := ih (hone.work.wf hs) (fun c hc =>
        ⟨(hbs c (List.mem_cons_of_mem b hc)).1, hone.work.lineBlocked hs (hbs c (List.mem_cons_of_mem b hc)).2⟩) h
      exact ⟨by rw [hk, List.length_cons]; omega, hone.cons (fun c hc => (hbs c hc).1) hrest⟩
    next => cases h
    next => cases h

end Sys2Proof.Levels
end

section
/-! O31 where S0's table lists the line of the codes once, and where it lists it twice (R148, R155, R379). -/

namespace Sys2Proof.Levels

open Sys2Proof Sys2Proof.Machine Sys2Proof.Laws Sys2Proof.Stated

/-- The line with the edge code of block 0. -/
def codeLine : Nat := lineOf (slotOf 0)

/-- A dirty copy of that line, in which block 0 has the older code `v`. -/
def olderCode (v : Byte) : CLine := ⟨.m, v :: List.replicate 63 0⟩

/-- A part after reset, but that S0's table lists that copy `n` times. -/
def listed (n : Nat) (v : Byte) : State := { State.reset with
  coh := { State.reset.coh with
    s0 := List.replicate n (codeLine, olderCode v) } }

variable (n : Nat) (v : Byte)

theorem copyOf_listed {l : Nat} (h : l ≠ codeLine) (a : Agent) : copyOf (listed n v) a l = none := by
  have hl : (codeLine == l) = false := beq_false_of_ne h.symm
  cases a <;> simp [copyOf, listed, State.reset, Coh.reset, hl]

theorem dirtyCopy_listed_length {l : Nat} {d : List Byte} (h : dirtyCopy (listed n v) l = some d) : d.length = 64 := by
  by_cases hl : l = codeLine
  · subst hl
    cases n with
    | zero => cases h
    | succ n =>
      simp [dirtyCopy, copyOf, listed, List.replicate_succ, isDirty, olderCode] at h
      simp [← h]
  · simp [dirtyCopy, copyOf_listed n v hl] at h

theorem lineNow_listed {l : Nat} (h : l ≠ codeLine) : lineNow (listed n v) l = lineNow State.reset l := by
  simp only [lineNow, dirtyCopy, copyOf_listed n v h]
  rfl

theorem blockAsNow_listed : blockAsNow (listed n v) 0 = blockAsNow State.reset 0 := by
  refine List.map_congr_left fun i hi => ?_
  have hlt := List.mem_range.1 hi
  have hcode : codeLine = 0x7FE000000 := rfl
  rw [byteNow, lineNow_listed n v (by omega), byteNow]

/-- Nothing keeps block 0 from being read: no line is in service or poisoned, and no directory entry names an owner. -/
theorem blockNow_listed : ∃ bs, blockNow (listed n v) 0 = .ok bs (listed n v) := by
  have hready : readyLines (listed n v) false (linesOf 0 4096) = none := by
    have hfree : ∀ l, lineBlocked (listed n v) false l = false := fun _ => rfl
    simp [readyLines, hfree]
  have hsnoops : (linesOf 0 4096).foldl snoopOwner (listed n v) = listed n v :=
    foldl_keeps (· = listed n v) snoopOwner (fun _ l hu => hu.symm ▸ (rfl : snoopOwner (listed n v) l = listed n v)) _ _ rfl
  have hclean : (linesOf 0 4096).find? (fun l => (lineNow (listed n v) l).2) = none := by
    refine List.find?_eq_none.2 fun l _ => ?_
    unfold lineNow
    split <;> exact Bool.false_ne_true
  exact ⟨_, by simp only [blockNow, Nat.zero_mul, devRead, hready, devReadNow, hsnoops, hclean]; rfl⟩

theorem sealRun_listed : ∃ code, sealRun [0] (listed n v) 0 = .ok (1, none) (putCode (listed n v) 0 code) := by
  obtain ⟨bs, hread⟩ := blockNow_listed n v
  exact ⟨crc32c bs, by simp only [sealRun, hread]⟩

theorem listed_free : ∀ b, b ∈ [0] → (b + 1) * 4096 ≤ edgeBase ∧ lineBlocked (listed n v) true (slotOf (b * 4096) / 64) = false := by
  intro b hb
  obtain rfl := List.mem_singleton.1 hb
  exact ⟨by decide, rfl⟩

/-- Listed once, the older code gives way to the CRC-32C of the block. -/
theorem sealRun_listedOnce : ∃ t, sealRun [0] (listed 1 0xA5) 0 = .ok (1, none) t ∧ codeAt t 0 = crc32c (blockAsNow State.reset 0) := by
  obtain ⟨code, hrun⟩ := sealRun_listed 1 0xA5
  have hwf : HomesWf (listed 1 0xA5) := ⟨rfl, rfl, List.nodup_cons.2 ⟨List.not_mem_nil, List.nodup_nil⟩, List.nodup_nil, fun _ _ => dirtyCopy_listed_length 1 0xA5⟩
  obtain ⟨-, hsealed⟩ := sealedFrom_sealRun [0] hwf (listed_free 1 0xA5) hrun
  exact ⟨_, hrun, (hsealed.codes 0 (List.mem_singleton_self 0)).trans (by rw [blockAsNow_listed])⟩

/-- Listed twice, it stays: the write of the code drops the copy listed first, and the other one is what S0 then holds. -/
theorem codeAt_putCode_listedTwice (code : Nat) : codeAt (putCode (listed 2 v) 0 code) 0 = v.toNat := by
  have hcopy : dirtyCopy (putCode (listed 2 v) 0 code) codeLine = some (olderCode v).data := rfl
  have hoff : slotOf 0 % 64 = 0 := rfl
  rw [codeAt, ← codeLine, lineNow, hcopy, hoff]
  exact Nat.add_zero _

/-- If the statement held, the older code would be the CRC-32C of block 0, whatever it is. -/
theorem olderCode_of_sealStoresCodes (h : Obligations.SealStoresCodes) : v.toNat = crc32c (blockAsNow State.reset 0) := by
  unfold Obligations.SealStoresCodes at h
  obtain ⟨code, hrun⟩ := sealRun_listed 2 v
  obtain ⟨-, hcodes, -⟩ := h _ _ _ _ rfl (fun _ _ => dirtyCopy_listed_length 2 v) (listed_free 2 v) hrun
  calc v.toNat = codeAt (putCode (listed 2 v) 0 code) 0 := (codeAt_putCode_listedTwice v code).symm
    _ = crc32c (blockAsNow (listed 2 v) 0) := hcodes 0 (List.mem_singleton_self 0)
    _ = crc32c (blockAsNow State.reset 0) := by rw [blockAsNow_listed]

end Sys2Proof.Levels

open Sys2Proof Sys2Proof.Levels

/-- Refutes O31: the statement asks for canonical memory, and not for canonical tables of cached lines. Where S0's table lists the codes' line twice
(`listed 2 v`, with the older code `v` in block 0's slot), a seal of block 0 drops the first entry alone, and S0 still holds the older code, which
cannot be the block's CRC-32C both for `v` = 0 and for `v` = 1. Over canonical tables the statement's content holds: `sealedFrom_sealRun`. -/
theorem not_sealStoresCodes : ¬ Obligations.SealStoresCodes := by
  intro h
  have heq : (0 : Byte).toNat = (1 : Byte).toNat := (olderCode_of_sealStoresCodes 0 h).trans (olderCode_of_sealStoresCodes 1 h).symm
  exact absurd heq (by decide)

end

section
/-! Every command and every tick keeps to what `Legal` says: queue, fuses, memory's form, messages and counters. -/

namespace Sys2Proof.Levels

open Sys2Proof Sys2Proof.Machine

/-- Every command keeps to the law of its own meaning. -/
theorem exec_legal {s0 s : State} (h : Legal s0 s) (c : Instr) : OutLegal s0 (exec c s) := by
  cases c with
  | opDispatch p => exact execOpDispatch_legal h p
  | endProg p => exact execEndProg_legal h p
  | nop p => exact execNop_legal h p
  | loop p => exact execLoop_legal h p
  | endloop p => exact execEndloop_legal h p
  | wait p => exact execWait_legal h p
  | signal p => exact execSignal_legal h p
  | rsignal p => exact execRsignal_legal h p
  | pendingSignalGiven p => exact execPendingSignalGiven_legal h p
  | remoteSignalDelivery n => exact execRemoteSignalDelivery_legal h n
  | stepbar p => exact execStepbar_legal h p
  | stepbarArrival p => exact execStepbarArrival_legal h p
  | opComplete p eng => exact execOpComplete_legal h p eng
  | load p eng err => exact execLoad_legal h p eng err
  | store p eng err => exact execStore_legal h p eng err
  | move p eng err => exact execMove_legal h p eng err
  | put p eng err => exact execPut_legal h p eng err
  | rread p eng err => exact execRread_legal h p eng err
  | rwrite p eng err => exact execRwrite_legal h p eng err
  | azero p err => exact execAzero_legal h p err
  | aload p err => exact execAload_legal h p err
  | aswap p err => exact execAswap_legal h p err
  | astream p err => exact execAstream_legal h p err
  | adrain p err => exact execAdrain_legal h p err
  | vadd p err => exact execVadd_legal h p err
  | vsub p err => exact execVsub_legal h p err
  | vmul p err => exact execVmul_legal h p err
  | vfma p err => exact execVfma_legal h p err
  | vfms p err => exact execVfms_legal h p err
  | vmax p err => exact execVmax_legal h p err
  | vmin p err => exact execVmin_legal h p err
  | vabs p err => exact execVabs_legal h p err
  | vneg p err => exact execVneg_legal h p err
  | vadds p err => exact execVadds_legal h p err
  | vmuls p err => exact execVmuls_legal h p err
  | vfmas p err => exact execVfmas_legal h p err
  | vclamps p err => exact execVclamps_legal h p err
  | vand p err => exact execVand_legal h p err
  | vor p err => exact execVor_legal h p err
  | vxor p err => exact execVxor_legal h p err
  | vshl p err => exact execVshl_legal h p err
  | vsra p err => exact execVsra_legal h p err
  | vfill p err => exact execVfill_legal h p err
  | viota p err => exact execViota_legal h p err
  | vexp2 p err => exact execVexp2_legal h p err
  | vlog2 p err => exact execVlog2_legal h p err
  | vrcp p err => exact execVrcp_legal h p err
  | vrsqrt p err => exact execVrsqrt_legal h p err
  | vtanh p err => exact execVtanh_legal h p err
  | vcmpeq p err => exact execVcmpeq_legal h p err
  | vcmpne p err => exact execVcmpne_legal h p err
  | vcmplt p err => exact execVcmplt_legal h p err
  | vcmple p err => exact execVcmple_legal h p err
  | vcmpgt p err => exact execVcmpgt_legal h p err
  | vcmpge p err => exact execVcmpge_legal h p err
  | vsel p err => exact execVsel_legal h p err
  | vselc p err => exact execVselc_legal h p err
  | vcvt p err => exact execVcvt_legal h p err
  | vbscale p err => exact execVbscale_legal h p err
  | vrsum p err => exact execVrsum_legal h p err
  | vrmax p err => exact execVrmax_legal h p err
  | vrmin p err => exact execVrmin_legal h p err
  | vrsumsq p err => exact execVrsumsq_legal h p err
  | vramax p err => exact execVramax_legal h p err
  | vgbits p err => exact execVgbits_legal h p err
  | vgunif p err => exact execVgunif_legal h p err
  | vgnorm p err => exact execVgnorm_legal h p err
  | vgkeep p err => exact execVgkeep_legal h p err
  | msetn p err => exact execMsetn_legal h p err
  | msetlo p err => exact execMsetlo_legal h p err
  | msethi p err => exact execMsethi_legal h p err
  | mand p err => exact execMand_legal h p err
  | mor p err => exact execMor_legal h p err
  | mxor p err => exact execMxor_legal h p err
  | mnot p err => exact execMnot_legal h p err
  | mload p err => exact execMload_legal h p err
  | gather p => exact execGather_legal h p
  | pool p => exact execPool_legal h p
  | scatterAdd p => exact execScatterAdd_legal h p
  | rowupdate p => exact execRowupdate_legal h p
  | loupeCallStart n err => exact execLoupeCallStart_legal h n err
  | loupeCallComplete n err => exact execLoupeCallComplete_legal h n err
  | run p => exact execRun_legal h p
  | update p => exact execUpdate_legal h p
  | fixerCallEnqueue p => exact execFixerCallEnqueue_legal h p
  | fixerCallStart err => exact execFixerCallStart_legal h err
  | passOneDone err => exact execPassOneDone_legal h err
  | fixerCallComplete err => exact execFixerCallComplete_legal h err
  | allreduce p => exact execAllreduce_legal h p
  | reduceToRoot p => exact execReduceToRoot_legal h p
  | broadcast p => exact execBroadcast_legal h p
  | collectiveStart grp err => exact execCollectiveStart_legal h grp err
  | collseg src err => exact execCollseg_legal h src err
  | collsegAccept n err => exact execCollsegAccept_legal h n err
  | collectiveComplete grp err => exact execCollectiveComplete_legal h grp err
  | step ring => exact execStep_legal h ring
  | copy ring err => exact execCopy_legal h ring err
  | sealRange ring err => exact execSealRange_legal h ring err
  | sealVerify ring err => exact execSealVerify_legal h ring err
  | tableCall ring => exact execTableCall_legal h ring
  | tableRegister ring => exact execTableRegister_legal h ring
  | fence ring => exact execFence_legal h ring
  | signalWrite ring => exact execSignalWrite_legal h ring
  | signalAdd ring => exact execSignalAdd_legal h ring
  | signalRing ring => exact execSignalRing_legal h ring
  | signalRemoteRing ring => exact execSignalRemoteRing_legal h ring
  | loadModel ring => exact execLoadModel_legal h ring
  | endContext ring => exact execEndContext_legal h ring
  | endContextAbort ring => exact execEndContextAbort_legal h ring
  | descNop ring => exact execDescNop_legal h ring
  | auth ring => exact execAuth_legal h ring
  | optionNegativeWrite readBackOk => exact execOptionNegativeWrite_legal h readBackOk
  | firmwareUpdate readBackOk => exact execFirmwareUpdate_legal h readBackOk
  | packageReset => exact execPackageReset_legal h
  | domainReset => exact execDomainReset_legal h
  | podMembershipChange => exact execPodMembershipChange_legal h
  | membershipApply => exact execMembershipApply_legal h
  | commandKeyRotation => exact execCommandKeyRotation_legal h
  | hbmRepairCommit ends => exact execHbmRepairCommit_legal h ends
  | debugUnlock => exact execDebugUnlock_legal h
  | contactSheetEnable => exact execContactSheetEnable_legal h
  | incarnationSet => exact execIncarnationSet_legal h
  | incarnationApply => exact execIncarnationApply_legal h
  | doorbell off size word => exact execDoorbell_legal h off size word
  | watchedLineInvalidate ring err => exact execWatchedLineInvalidate_legal h ring err
  | pendingRingFetch ring => exact execPendingRingFetch_legal h ring
  | descriptorFetch ring err => exact execDescriptorFetch_legal h ring err
  | descriptorComplete ring => exact execDescriptorComplete_legal h ring
  | ringCtrlRead ring => exact execRingCtrlRead_legal h ring
  | ringCtrlWrite ring => exact execRingCtrlWrite_legal h ring
  | ringCtrlReset ring => exact execRingCtrlReset_legal h ring
  | ctxRead ctx => exact execCtxRead_legal h ctx
  | openCtx ctx => exact execOpenCtx_legal h ctx
  | withdraw core => exact execWithdraw_legal h core
  | returnCore core => exact execReturnCore_legal h core
  | fixSeRead ctx => exact execFixSeRead_legal h ctx
  | fixSeCommit ctx wrcnt => exact execFixSeCommit_legal h ctx wrcnt
  | prtRtRead entry => exact execPrtRtRead_legal h entry
  | prtRtWrite entry => exact execPrtRtWrite_legal h entry
  | stkGrpRead grp => exact execStkGrpRead_legal h grp
  | stkGrpWrite grp => exact execStkGrpWrite_legal h grp
  | dieReset index => exact execDieReset_legal h index
  | coreReset index => exact execCoreReset_legal h index
  | portReset index => exact execPortReset_legal h index
  | fixerReset index => exact execFixerReset_legal h index
  | loupeReset index => exact execLoupeReset_legal h index
  | stackerReset index => exact execStackerReset_legal h index
  | ringGroupReset index => exact execRingGroupReset_legal h index
  | blockResetComplete => exact execBlockResetComplete_legal h
  | portEnable port => exact execPortEnable_legal h port
  | portDisable port => exact execPortDisable_legal h port
  | retrain port => exact execRetrain_legal h port
  | softRepair stack chan pc bank row => exact execSoftRepair_legal h stack chan pc bank row
  | errqBaseWrite v => exact execErrqBaseWrite_legal h v
  | errqCtrlWrite v => exact execErrqCtrlWrite_legal h v
  | errqHeadWrite v => exact execErrqHeadWrite_legal h v
  | msixUnmask what => exact execMsixUnmask_legal h what
  | registerWrite bar off wide v => exact execRegisterWrite_legal h bar off wide v
  | droppedRegisterAccess off size write i3c => exact execDroppedRegisterAccess_legal h off size write i3c
  | i3cPointerWrite off => exact execI3cPointerWrite_legal h off
  | i3cRead => exact execI3cRead_legal h
  | i3cRegisterWrite off v => exact execI3cRegisterWrite_legal h off v
  | cswNop slot go => exact execCswNop_legal h slot go
  | cswCopy slot go => exact execCswCopy_legal h slot go
  | cswFill slot go => exact execCswFill_legal h slot go
  | cswGemm slot go => exact execCswGemm_legal h slot go
  | cswAccessDropped => exact execCswAccessDropped_legal h
  | placement => exact execPlacement_legal h
  | preemptPatienceExpiry => exact execPreemptPatienceExpiry_legal h
  | preemptSave ctx bad => exact execPreemptSave_legal h ctx bad
  | blockSwapExpiry => exact execBlockSwapExpiry_legal h
  | stepRelease ctx => exact execStepRelease_legal h ctx
  | stepWatchdogExpiry ctx => exact execStepWatchdogExpiry_legal h ctx
  | teardownComplete ctx => exact execTeardownComplete_legal h ctx
  | scrubComplete core upper => exact execScrubComplete_legal h core upper
  | endingComplete ctx => exact execEndingComplete_legal h ctx
  | coreGate core => exact execCoreGate_legal h core
  | coreOff core => exact execCoreOff_legal h core
  | coreWakeComplete core => exact execCoreWakeComplete_legal h core
  | dataFlit port flit => exact execDataFlit_legal h port flit
  | nakFlit port ack cr => exact execNakFlit_legal h port ack cr
  | idleFlit port ack cr => exact execIdleFlit_legal h port ack cr
  | ctrlFlit port peer => exact execCtrlFlit_legal h port peer
  | width1 port ack cr => exact execWidth1_legal h port ack cr
  | widen port ack cr => exact execWiden_legal h port ack cr
  | widenResendTimer port => exact execWidenResendTimer_legal h port
  | nakHoldoffExpiry port => exact execNakHoldoffExpiry_legal h port
  | retryTimeout port => exact execRetryTimeout_legal h port
  | trainDone port good rtt => exact execTrainDone_legal h port good rtt
  | trainTimeout port => exact execTrainTimeout_legal h port
  | laneLockLoss port lane => exact execLaneLockLoss_legal h port lane
  | retrainDone port good rtt => exact execRetrainDone_legal h port good rtt
  | retrainTimeout port => exact execRetrainTimeout_legal h port
  | drainDone port => exact execDrainDone_legal h port
  | transactionSend port starved => exact execTransactionSend_legal h port starved
  | rd src err => exact execRd_legal h src err
  | wr src => exact execWr_legal h src
  | atadd src => exact execAtadd_legal h src
  | atcas src => exact execAtcas_legal h src
  | dbell src => exact execDbell_legal h src
  | rdrsp src => exact execRdrsp_legal h src
  | wrack src => exact execWrack_legal h src
  | atrsp src => exact execAtrsp_legal h src
  | hbeat src => exact execHbeat_legal h src
  | incnote src => exact execIncnote_legal h src
  | dark src => exact execDark_legal h src
  | reqTimeout tag => exact execReqTimeout_legal h tag
  | hbeatTimer port => exact execHbeatTimer_legal h port
  | heartbeatMissTimer port => exact execHeartbeatMissTimer_legal h port
  | silenceTimerEnd port => exact execSilenceTimerEnd_legal h port
  | downRetrainTimer port => exact execDownRetrainTimer_legal h port
  | allPortsDownTimer => exact execAllPortsDownTimer_legal h
  | rds a line err => exact execRds_legal h a line err
  | rdx a line err => exact execRdx_legal h a line err
  | upg a line err => exact execUpg_legal h a line err
  | ackMsg a line => exact execAckMsg_legal h a line
  | wb a line err => exact execWb_legal h a line err
  | rdcur line err => exact execRdcur_legal h line err
  | wrinv line err => exact execWrinv_legal h line err
  | ath line err => exact execAth_legal h line err
  | snps a line => exact execSnps_legal h a line
  | snpx a line => exact execSnpx_legal h a line
  | snpcur a line => exact execSnpcur_legal h a line
  | rspmiss a line data => exact execRspmiss_legal h a line data
  | rsps a line data => exact execRsps_legal h a line data
  | rspo a line data => exact execRspo_legal h a line data
  | rspi a line data => exact execRspi_legal h a line data
  | rspwbif a line => exact execRspwbif_legal h a line
  | grantMsg a line => exact execGrantMsg_legal h a line
  | doneMsg n => exact execDoneMsg_legal h n
  | snoopTimeout line => exact execSnoopTimeout_legal h line
  | machineCheck cause => exact execMachineCheck_legal h cause
  | memrd hpa want => exact execMemrd_legal h hpa want
  | memwr w => exact execMemwr_legal h w
  | memwrptl w => exact execMemwrptl_legal h w
  | biconflict line => exact execBiconflict_legal h line
  | snpdata hpa => exact execSnpdata_legal h hpa
  | snpinv hpa => exact execSnpinv_legal h hpa
  | hostSnpcur hpa => exact execHostSnpcur_legal h hpa
  | go hpa => exact execGo_legal h hpa
  | cxlCacheData hpa data poison => exact execCxlCacheData_legal h hpa data poison
  | uioWrite w => exact execUioWrite_legal h w
  | uioRead hpa len rid err => exact execUioRead_legal h rid hpa len err
  | hdmCommit set => exact execHdmCommit_legal h set
  | atsInvalidateRequest ctx page => exact execAtsInvalidateRequest_legal h ctx page
  | linkRecovery => exact execLinkRecovery_legal h
  | linkL0Return => exact execLinkL0Return_legal h
  | linkHoldExpiry => exact execLinkHoldExpiry_legal h
  | dlDown => exact execDlDown_legal h
  | hotReset => exact execHotReset_legal h
  | flr => exact execFlr_legal h
  | ideIntegrityFailure => exact execIdeIntegrityFailure_legal h
  | viralReceived => exact execViralReceived_legal h
  | pmeTurnOff => exact execPmeTurnOff_legal h
  | doeDiscovery mailbox index => exact execDoeDiscovery_legal h mailbox index
  | cxlTableAccess entry => exact execCxlTableAccess_legal h entry
  | getVersion => exact execGetVersion_legal h
  | getCapabilities => exact execGetCapabilities_legal h
  | negotiateAlgorithms => exact execNegotiateAlgorithms_legal h
  | getDigests => exact execGetDigests_legal h
  | getCertificate slot => exact execGetCertificate_legal h slot
  | spdmChallenge nonce => exact execSpdmChallenge_legal h nonce
  | getMeasurements => exact execGetMeasurements_legal h
  | keyExchange => exact execKeyExchange_legal h
  | finish => exact execFinish_legal h
  | endSession => exact execEndSession_legal h
  | quote nonce => exact execQuote_legal h nonce
  | setkey key => exact execSetkey_legal h key
  | idcode => exact execIdcode_legal h
  | bypass => exact execBypass_legal h
  | holdboot => exact execHoldboot_legal h
  | challenge => exact execChallenge_legal h
  | unlock req => exact execUnlock_legal h req
  | dietest die => exact execDietest_legal h die
  | reachprog source val readBack => exact execReachprog_legal h source val readBack
  | pkgrst => exact execPkgrst_legal h
  | powerOn => exact execPowerOn_legal h
  | pwrOkFall => exact execPwrOkFall_legal h
  | warmRstNAssert => exact execWarmRstNAssert_legal h
  | perstNAssert => exact execPerstNAssert_legal h
  | pinResetConfirm pin => exact execPinResetConfirm_legal h pin
  | mcWatchdogExpiry => exact execMcWatchdogExpiry_legal h
  | bringupStepDone info => exact execBringupStepDone_legal h info
  | domainResetStepDone info => exact execDomainResetStepDone_legal h info
  | thermalSample readings => exact execThermalSample_legal h readings
  | throttleStep die => exact execThrottleStep_legal h die
  | powerWindow watts => exact execPowerWindow_legal h watts
  | throttleNChange level => exact execThrottleNChange_legal h level
  | powerPick => exact execPowerPick_legal h
  | darkLanesDown => exact execDarkLanesDown_legal h
  | scheduledWake => exact execScheduledWake_legal h
  | wakeComplete => exact execWakeComplete_legal h
  | patrolScrub stack chan line find => exact execPatrolScrub_legal h stack chan line find
  | grainTopup core => exact execGrainTopup_legal h core
  | healthTestFail core => exact execHealthTestFail_legal h core
  | serverCoreInstruction die core addr op err => exact execServerCoreInstruction_legal h die core addr op err
  | timerCompare die core => exact execTimerCompare_legal h die core
  | healthTestPass core => exact execHealthTestPass_legal h core
  | flitCrcFail port => exact execFlitCrcFail_legal h port
  | linkUp width rate cxl cacheEn memEn ats bars => exact execLinkUp_legal h width rate cxl cacheEn memEn ats bars
  | atsTranslationCompletion answer => exact execAtsTranslationCompletion_legal h answer
  | ideKm msg => exact execIdeKm_legal h msg
  | entryComplete => exact execEntryComplete_legal h

/-- A step takes the command at the front of the queue, and is legal from there. -/
theorem step_legal {s t : State} (h : step s = .next t) : Legal { s with pending := s.pending.tail } t := by
  unfold step at h
  split at h
  · next hempty =>
    have hstands : { s with pending := s.pending.tail } = s := by rw [hempty, List.tail_nil, ← hempty]
    cases h
    rw [hstands]
    exact tick_legal (.refl s)
  · next c q hpending =>
    rw [hpending]
    exact Legal.of_next h (exec_legal (.refl _) c)

end Sys2Proof.Levels

open Sys2Proof Sys2Proof.Machine Sys2Proof.Levels

/-- Settles O3: the memory part of `step_legal`. -/
theorem everyStepKeepsMemoryForm : Obligations.EveryStepKeepsMemoryForm := by
  unfold Obligations.EveryStepKeepsMemoryForm
  exact fun s t hform hstep => (step_legal hstep).mem hform

end

section
/-! Reads of CVA ranges (R160, R174): translation, segments and edge codes, each of which changes no more than a read may. -/

namespace Sys2Proof.Levels

open Sys2Proof Sys2Proof.Machine Sys2Proof.Laws

theorem segsReadC_ok {r : Req} {coded : Bool} {s t : State} {gs : List Seg} {bs : List Byte} (h : segsReadC r coded s gs = .ok bs t) :
    OnlyReads s t := by
  obtain ⟨d, s1, hread, hcheck⟩ := bind_ok h
  refine (segsRead_ok _ hread).trans ?_
  split at hcheck
  · obtain ⟨u, s2, hblocks, hdone⟩ := bind_ok hcheck
    cases hdone
    exact checkBlocks_ok _ hblocks
  · cases hcheck
    exact .refl _

theorem cvaRead_ok {r : Req} {coded : Bool} {s t : State} {cva n : Nat} {bs : List Byte} (h : cvaRead s r cva n coded = .ok bs t) : OnlyReads s t := by
  obtain ⟨gs, s1, hsegs, hread⟩ := bind_ok h
  exact (xlateRange_ok _ hsegs).trans (segsReadC_ok hread)

end Sys2Proof.Levels

open Sys2Proof Sys2Proof.Machine Sys2Proof.Levels

/-- Settles O21: `OnlyReads` holds of the range's translation, of the read of its segments and of the check of their blocks. -/
theorem readsChangeNothingButTranslations : Obligations.ReadsChangeNothingButTranslations := by
  unfold Obligations.ReadsChangeNothingButTranslations
  exact fun s t r cva n coded bs h => cvaRead_ok h

end

section
/-! Writes of device memory of any length (R366, R375), cut at the lines and written at one home after the other. -/

namespace Sys2Proof.Levels

open Sys2Proof Sys2Proof.Machine Sys2Proof.Laws Sys2Proof.Stated

/-! The lines that a run of bytes touches, and the pieces it is cut into. -/

theorem mem_linesOf {l a n : Nat} : l ∈ linesOf a n ↔ 0 < n ∧ a / 64 ≤ l ∧ l ≤ (a + n - 1) / 64 := by
  unfold linesOf lineOf
  split
  · next hn => simp [hn]
  · simp only [List.mem_map, List.mem_range]
    constructor
    · rintro ⟨k, hk, rfl⟩; omega
    · intro h; exact ⟨l - a / 64, by omega, by omega⟩

/-- What a piece leaves of a run is shorter. -/
theorem length_drop_piece (a : Nat) {bs : List Byte} (hne : bs ≠ []) : (bs.drop (64 - a % 64)).length < bs.length := by
  have hpos := List.length_pos_iff.2 hne
  rw [List.length_drop]
  omega

/-- Any fuel beyond the count of bytes cuts the same pieces. -/
theorem cutLines_fuel : ∀ (f g a : Nat) {bs : List Byte}, bs.length < f → bs.length < g → cutLines f a bs = cutLines g a bs := by
  intro f
  induction f with
  | zero => intro g a bs hf; omega
  | succ f ih =>
    intro g a bs hf hg
    cases g with
    | zero => omega
    | succ g =>
      unfold cutLines
      split
      · rfl
      · next hne =>
        have hless := length_drop_piece a (bs := bs) (by simpa using hne)
        dsimp only
        rw [ih g _ (by omega) (by omega)]

/-- A write of device memory goes line by line: its bytes in the first line, and then the rest. -/
theorem devWriteNow_cons (s : State) (a : Nat) {bs : List Byte} (hne : bs ≠ []) : devWriteNow s a bs =
    devWriteNow (lineWrite s (a / 64) (a % 64) (bs.take (64 - a % 64)) false) (a + (64 - a % 64)) (bs.drop (64 - a % 64)) := by
  rw [devWriteNow, cutLines, if_neg (by simpa using hne), List.foldl_cons, devWriteNow,
    cutLines_fuel _ _ _ (length_drop_piece a hne) (Nat.lt_succ_self _)]

/-! What a write at a home leaves as it was, whatever the tables of cached lines list. -/

/-- The copies of every other line stand. -/
theorem dirtyCopy_lineWrite_ne {s : State} {line l : Nat} (h : l ≠ line) (off : Nat) (bs : List Byte) (poison : Bool) :
    dirtyCopy (lineWrite s line off bs poison) l = dirtyCopy s l := by
  have hdrop (u : State) : dirtyCopy (dropCopies u line) l = dirtyCopy u l := by simp [dirtyCopy, copyOf, find?_tdel_ne h]
  have hinv : dirtyCopy (invalidate s line) l = dirtyCopy s l := by
    rw [← dirtyCopy_of_onlyReads (onlyReads_snoopAll s line), ← hdrop (snoopAll s line), invalidate_eq]
    dsimp only
    split <;> exact dirtyCopy_congr (by simp) (by simp) l
  have hmerge : dirtyCopy (mergeLine s line) l = dirtyCopy s l := by
    rw [← hinv, mergeLine]
    cases dirtyCopy s line <;> exact dirtyCopy_congr rfl rfl l
  obtain ⟨p, heq⟩ := lineWrite_eq s line off bs poison
  rw [heq, ← hmerge]
  exact dirtyCopy_congr rfl rfl l

/-- A byte of another line reads as before, at its home too. -/
theorem byteNow_lineWrite_ne {s : State} (hmem : twf 0 s.mem = true) {line off x : Nat} (hx : x / 64 ≠ line) {bs : List Byte} (poison : Bool)
    (hfits : off + bs.length ≤ 64) (hwhole : ∀ d, dirtyCopy s line = some d → d.length = 64) :
    byteNow (lineWrite s line off bs poison) x = byteNow s x := by
  rw [byteNow_eq, byteNow_eq, dirtyCopy_lineWrite_ne hx, memGet_lineWrite hmem _ _ _ _ _ hwhole, if_neg (by omega), if_neg hx]

/-- Registers stand, but for the count of snoops that found a copy dropped (R389). -/
theorem lineWrite_sameRegs (s : State) (line off : Nat) (bs : List Byte) (poison : Bool) : SameRegs s (lineWrite s line off bs poison) := by
  have hinv : (invalidate s line).regs = (snoopAll s line).regs := by
    rw [invalidate_eq]
    generalize snoopAll s line = u
    dsimp only
    split <;> rfl
  have hmerge : (mergeLine s line).regs = (snoopAll s line).regs := by
    rw [← hinv, mergeLine]
    cases dirtyCopy s line <;> rfl
  obtain ⟨p, heq⟩ := lineWrite_eq s line off bs poison
  have hregs : (lineWrite s line off bs poison).regs = (snoopAll s line).regs := heq ▸ hmerge
  intro r hr
  rw [← snoopAll_sameRegs s line r hr, regVal, hregs, regVal]

/-! A write of any length. -/

theorem homeWork_devWriteNow (s : State) (a : Nat) (bs : List Byte) : HomeWork s (devWriteNow s a bs) :=
  HomeWork.foldl (f := fun u (p : Nat × Nat × List Byte) => lineWrite u p.1 p.2.1 p.2.2 false) (fun u p => homeWork_lineWrite u p.1 p.2.1 p.2.2 false) _ s

theorem devWriteNow_sameRegs (s : State) (a : Nat) (bs : List Byte) : SameRegs s (devWriteNow s a bs) :=
  foldl_keeps (SameRegs s) (fun u (p : Nat × Nat × List Byte) => lineWrite u p.1 p.2.1 p.2.2 false)
    (fun u p h => h.step (lineWrite_sameRegs u p.1 p.2.1 p.2.2 false)) _ s .self

/-- The bytes written stand in memory, the other bytes of their lines become what their homes gave before, and no other line changes. -/
theorem memGet_devWriteNow {s : State} {a : Nat} {bs : List Byte} (x : Nat) (hform : memWf s = true)
    (hwhole : ∀ l d, a / 64 ≤ l → dirtyCopy s l = some d → d.length = 64) : memGet (devWriteNow s a bs) x =
      if a ≤ x ∧ x < a + bs.length then bs.getD (x - a) 0
      else if x / 64 ∈ linesOf a bs.length then byteNow s x else memGet s x := by
  induction hn : bs.length using Nat.strongRecOn generalizing s a bs with
  | ind n ih =>
    subst hn
    by_cases hne : bs = []
    · subst hne
      rw [if_neg (by simp), if_neg (by simp [mem_linesOf])]
      rfl
    obtain ⟨hmem, -⟩ := Bool.and_eq_true_iff.1 hform
    have hpos := List.length_pos_iff.2 hne
    have hstart : a / 64 * 64 + a % 64 = a := by omega
    have hfits : a % 64 + (bs.take (64 - a % 64)).length ≤ 64 := by rw [List.length_take]; omega
    have hline := memGet_lineWrite hmem (a / 64) (a % 64) x (bs.take (64 - a % 64)) false (hwhole _ · (Nat.le_refl _))
    rw [hstart, List.length_take] at hline
    have hrest : ∀ l d, (a + (64 - a % 64)) / 64 ≤ l → dirtyCopy (lineWrite s (a / 64) (a % 64) (bs.take (64 - a % 64)) false) l = some d →
        d.length = 64 := by
      intro l d hl hd
      rw [dirtyCopy_lineWrite_ne (by omega)] at hd
      exact hwhole l d (by omega) hd
    rw [devWriteNow_cons s a hne, ih _ (length_drop_piece a hne) ((lineWrite_legal (.refl s) _ _ _ _).mem hform) hrest rfl]
    simp only [mem_linesOf, List.length_drop]
    by_cases hx : x / 64 = a / 64
    · rw [if_neg (by omega), if_neg (by omega), hline]
      by_cases hin : a ≤ x ∧ x < a + bs.length
      · rw [if_pos (by omega), if_pos hin, List.getD_eq_getElem?_getD, List.getElem?_take_of_lt (by omega), List.getD_eq_getElem?_getD]
      · rw [if_neg (by omega), if_pos hx, if_neg hin, if_pos (by omega)]
    · rw [byteNow_lineWrite_ne hmem hx _ hfits (hwhole _ · (Nat.le_refl _)), hline, if_neg (c := a ≤ x ∧ _) (by omega), if_neg hx]
      by_cases hin : a ≤ x ∧ x < a + bs.length
      · rw [if_pos (by omega), if_pos hin, List.getD_eq_getElem?_getD, List.getElem?_drop, List.getD_eq_getElem?_getD]
        congr 2
        omega
      · rw [if_neg (by omega), if_neg hin]
        exact ite_congr (propext (by omega)) (fun _ => rfl) (fun _ => rfl)

end Sys2Proof.Levels

open Sys2Proof Sys2Proof.Machine Sys2Proof.Levels

/-- Settles O22: `memGet_devWriteNow` says what each byte reads as, by strong induction on the bytes that are left, a line at a time. -/
theorem deviceWritesAreExact : Obligations.DeviceWritesAreExact := by
  unfold Obligations.DeviceWritesAreExact
  intro s t a bs hform hwhole h
  have hbytes (x : Nat) := memGet_devWriteNow (bs := bs) x hform (fun l d (_ : a / 64 ≤ l) => hwhole l d)
  unfold devWrite at h
  split at h
  · cases h
  · cases h
    have hframe := (homeWork_devWriteNow s a bs).frame
    refine ⟨fun i hi => ?_, fun x hout hin => ?_, fun x hout => ?_, devWriteNow_sameRegs s a bs, ?_⟩
    · rw [hbytes, if_pos (by omega), Nat.add_sub_cancel_left]
    · rw [hbytes, if_neg hout, if_pos hin]
    · rw [hbytes, if_neg ?_, if_neg hout]
      rintro ⟨hlow, hhigh⟩
      exact hout (mem_linesOf.2 ⟨by omega, by omega, by omega⟩)
    · rw [hframe]
      exact ⟨rfl, rfl, rfl, rfl, rfl, rfl⟩

end

section
/-! Power (R456 to R464): the sensors, the choice of a state, and what the lanes going down leave. -/

namespace Sys2Proof.Levels

open Sys2Proof Sys2Proof.Machine Sys2Proof.Laws

/-! Sensors (R463). -/

theorem hotNow_iff (lim t : Nat) (was : Bool) : hotNow lim was t = true ↔ lim ≤ t ∨ (was = true ∧ lim < t + 3) := by simp [hotNow]

theorem wakeBy_byTemp (dark : Bool) (s : State) : (wakeBy dark s).pwr.byTemp = s.pwr.byTemp := by
  unfold wakeBy
  dsimp only
  repeat' split
  all_goals rfl

/-- Which of the eight A-dies are hot after a sample. -/
def hotDies (s : State) (ts : List Nat) : List Bool :=
  (List.range 8).map (fun d => hotNow (regField s rPWR_CTRL 20 14) (s.pwr.byTemp.getD d false) (nth ((List.range 10).map (nth ts)) d))

theorem hotDies_getD (s : State) (ts : List Nat) {d : Nat} (hd : d < 8) : (hotDies s ts).getD d false =
    hotNow (regField s rPWR_CTRL 20 14) (s.pwr.byTemp.getD d false) (nth ts d) := by
  have hd10 : d < 10 := by omega
  simp [hotDies, nth, hd, hd10]

/-- A sample below the trip temperature leaves its hot dies, whether or not it wakes the package. -/
theorem thermalSample_byTemp {s : State} (hup : pwrUp s = true) (ts : List Nat) : ∃ t, exec (.thermalSample ts) s = .next t ∧
    ((∀ i, nth ts i < 115) → t.pwr.byTemp = hotDies s ts) := by
  refine ⟨_, rfl, fun hcool => ?_⟩
  have htrip : ((List.range 10).map (nth ts)).any (fun t => decide (115 ≤ t)) = false := by simp [hcool]
  simp only [hup, htrip, Bool.not_true, Bool.false_eq_true, if_false, Bool.or_false, Bool.false_and]
  split
  · exact wakeBy_byTemp true _
  · rfl

/-! The choice of a state (R457 to R459). -/

/-- State `st` may be chosen: Dark where the link allows it, and a sleeping state where entry, wake and break-even fit its horizon. -/
structure MayChoose (s : State) (st : Nat) : Prop where
  dark : st = 3 → darkAllowed s = true
  fits : 2 ≤ st → ∃ h, horizonFor s st = some h ∧ entryTicks st + wakeTicks st ≤ h ∧ breakEven st ≤ h

theorem MayChoose.awake {s : State} {st : Nat} (h : st < 2) : MayChoose s st := ⟨by omega, by omega⟩

/-- The loop answers a state no deeper than where it starts, and one that may be chosen. -/
theorem pickFrom_le_and_mayChoose (s : State) (n : Nat) : pickFrom s n ≤ n ∧ MayChoose s (pickFrom s n) := by
  induction n with
  | zero => exact ⟨Nat.le_refl _, .awake Nat.zero_lt_two⟩
  | succ n ih =>
    have hshallower : pickFrom s n ≤ n + 1 ∧ MayChoose s (pickFrom s n) := ⟨Nat.le_succ_of_le ih.1, ih.2⟩
    unfold pickFrom
    dsimp only
    split
    · exact hshallower
    · next hdark =>
      split
      · split
        · exact ⟨by omega, .awake (by decide)⟩
        · exact hshallower
      · next h hh =>
        split
        · next hfit => exact ⟨Nat.le_refl _, fun h3 => by simpa [h3] using hdark, fun _ => ⟨h, hh, hfit⟩⟩
        · exact hshallower

/-- No state is deeper than the two-bit limit that software sets. -/
theorem deepestNow_le (s : State) : deepestNow s ≤ 3 := by
  have hfield : regField s rPWR_CTRL 1 0 < 4 := Nat.mod_lt _ (by decide)
  unfold deepestNow
  dsimp only
  repeat' split
  all_goals omega

theorem pickState_le_and_mayChoose (s : State) : pickState s ≤ 3 ∧ MayChoose s (pickState s) := by
  unfold pickState
  split
  · obtain ⟨hle, hmay⟩ := pickFrom_le_and_mayChoose s (deepestNow s)
    exact ⟨Nat.le_trans hle (deepestNow_le s), hmay⟩
  · exact ⟨by decide, .awake (by decide)⟩

/-! The lanes going down (R295, R462). -/

/-- The parts of a state that Dark keeps. -/
def keptInDark (s : State) := (s.mem, s.poison, s.rings, s.sec, s.flash)

/-- A core loses its power, and keeps nothing (R454). -/
def darkCore (s : State) (e : Nat × Core) : State :=
  setCore s e.1 { e.2 with pwr := .off, sp := [], acc := [], rows := [], tiles := [], seeded := false }

theorem keptInDark_darkCore (s : State) (e : Nat × Core) : keptInDark (darkCore s e) = keptInDark s := rfl

theorem keptInDark_darkPort (s : State) (n : Nat) : keptInDark (darkPort s n) = keptInDark s := rfl

theorem keptInDark_foldl {α : Type} {f : State → α → State} (hf : ∀ s a, keptInDark (f s a) = keptInDark s) (l : List α) (s : State) :
    keptInDark (l.foldl f s) = keptInDark s :=
  foldl_keeps (fun u => keptInDark u = keptInDark s) f (fun u a hu => (hf u a).trans hu) l s rfl

theorem darkLanesDown_enters {s : State} (hentering : s.pwr.entering = some 3) (hsent : s.pwr.darkSent = true) :
    ∃ t, exec .darkLanesDown s = .next t ∧ t.pwr.st = 3 ∧ t.pwr.entering = none ∧ t.pwr.darkSent = false ∧ keptInDark t = keptInDark s := by
  refine ⟨_, congrArg Host.Outcome.next (if_pos ⟨hentering, hsent⟩), rfl, rfl, rfl, ?_⟩
  exact (keptInDark_foldl keptInDark_darkCore _ _).trans (keptInDark_foldl keptInDark_darkPort _ s)

end Sys2Proof.Levels

open Sys2Proof Sys2Proof.Machine Sys2Proof.Levels

/-- Settles O60: each command takes the branch that its guard names; `hotNow`, the loop of pick() and the lanes going down have lemmas of their own. -/
theorem powerThrottlesSleepAndScrub : Obligations.PowerThrottlesSleepAndScrub := by
  unfold Obligations.PowerThrottlesSleepAndScrub
  intro s
  refine ⟨?throttleN, ?up, ?standby, ?safelight, ?dark, ?wake, ?awake, ?pick, ?scrub⟩
  case throttleN => exact fun _ => rfl
  case up =>
    intro hup
    refine ⟨?sample, ?clock, ?above, ?near, ?choose⟩
    case sample =>
      intro ts
      obtain ⟨t, hexec, hbyTemp⟩ := thermalSample_byTemp hup ts
      refine ⟨t, hexec, fun hcool d hd => ?_⟩
      rw [hbyTemp hcool, hotDies_getD s ts hd, hotNow_iff]
    case clock =>
      intro die hdie c
      have hruns : ¬ (!pwrUp s || decide (8 ≤ die)) = true := by simp [hup, hdie]
      refine ⟨fun hhot => congrArg Host.Outcome.next ((if_neg hruns).trans (if_pos hhot)), ?_⟩
      intro hcool hcap top
      simp only [exec, execThrottleStep, if_neg hruns, hcool, hcap, Bool.false_eq_true, if_false, c, top]
    case above =>
      intro watts habove
      exact congrArg Host.Outcome.next ((if_neg (by simp [hup])).trans (if_pos habove))
    case near =>
      intro watts hbelow hnear
      exact congrArg Host.Outcome.next ((if_neg (by simp [hup])).trans ((if_neg (Nat.not_lt.2 hbelow)).trans (if_neg (Nat.not_lt.2 hnear))))
    case choose =>
      intro hentering hwaking st s1
      have hruns : ¬ (!pwrUp s || s.pwr.entering.isSome || s.pwr.waking) = true := by simp [hup, hentering, hwaking]
      refine ⟨fun hsame hlit => ?_, fun hdeeper => ?_, fun hshallower => ?_⟩
      all_goals refine congrArg Host.Outcome.next ((if_neg hruns).trans ?_)
      · exact (if_pos hsame).trans (if_pos hlit)
      · exact (if_neg (Nat.ne_of_lt hdeeper)).trans (if_pos hdeeper)
      · exact (if_neg (Nat.ne_of_gt hshallower)).trans (if_neg (Nat.not_lt_of_gt hshallower))
  case standby => intro h; simp only [exec, execEntryComplete, h]
  case safelight => intro h; simp only [exec, execEntryComplete, h]
  case dark =>
    intro hentering hsent
    obtain ⟨t, hexec, hst, hdone, hnot, hkept⟩ := darkLanesDown_enters hentering hsent
    simp only [keptInDark, Prod.mk.injEq] at hkept
    exact ⟨t, hexec, hst, hdone, hnot, hkept⟩
  case wake => exact fun h => congrArg Host.Outcome.next (if_pos h)
  case awake =>
    intro hwaking hentering s1
    have hwakes : ¬ (!s.pwr.waking || s.pwr.entering.isSome) = true := by simp [hwaking, hentering]
    refine ⟨fun hlit => ?_, fun hdark hlink => ?_, fun hdark hlink => ?_⟩
    all_goals simp only [exec, execWakeComplete, if_neg hwakes, beq_iff_eq]
    · rw [if_neg hlit]
    · rw [if_pos hdark, if_neg hlink]
    · rw [if_pos hdark, if_pos hlink]
  case pick =>
    obtain ⟨hle, hmay⟩ := pickState_le_and_mayChoose s
    exact ⟨hle, fun hbusy => by rw [pickState, hbusy]; rfl, hmay.dark, hmay.fits⟩
  case scrub =>
    intro stack chan line hserves hawake hstack hchan hline s1 p
    have hruns : ¬ (!serving s || decide (2 ≤ s.pwr.st) || decide (16 ≤ stack) || decide (32 ≤ chan) || decide (2 ^ 26 ≤ line)) = true := by
      simp only [hserves, Bool.not_true, Bool.false_or, Bool.or_eq_true, decide_eq_true_eq]
      omega
    refine ⟨?clean, ?corrected, fun hdata => ?data, fun hedge => ?codes⟩
    all_goals simp only [exec, execPatrolScrub, if_neg hruns]
    case clean => rfl
    case corrected => rfl
    case data => rw [if_neg (Nat.not_le.2 hdata)]
    case codes => rw [if_pos hedge]; rfl

end

section
/-! SIGNAL KIND 1, an atomic add of a word of device memory or of the host (R321, log entry 32). -/

namespace Sys2Proof.Levels

open Sys2Proof Sys2Proof.Machine

variable {s s2 : State} {n : Nat} {r : Ring} {x : Running} {fresh : Bool} {g : Seg} (hbegun : x.begun = false)
  (hxlate : xlate s r.ctx (sgAddr x.desc.word) true false = .ok g s2)
include hbegun hxlate

/-- A word of device memory: its home is sent one atomic add, and the descriptor waits for its Done. -/
theorem signalAdd_device (hdev : g.host = false) : signalAdd n s r x fresh =
    post (setRunning s2 n { x with begun := true })
      (.req ⟨.ring n, g.addr / 64, .ath (g.addr % 64) false (BitVec.ofNat 64 (sgValue x.desc.word)) 0⟩) := by
  simp [signalAdd, hbegun, hxlate, hdev, lineOf]

/-- A word of the host: it is read and written, and the descriptor is done. -/
theorem signalAdd_host {bs : List Byte} {s3 s4 : State} (hhost : g.host = true) (hread : hostRead s2 ⟨whoRing n, r.ctx⟩ g.addr 8 = .ok bs s3)
    (hwrite : hostWrite s3 ⟨whoRing n, r.ctx⟩ g.addr (leBytes 8 (leNat bs + sgValue x.desc.word)) = .ok () s4) :
    signalAdd n s r x fresh = descDone s4 n (Report.status_ 0) := by
  simp [signalAdd, hbegun, hxlate, hhost, hread, hwrite]

end Sys2Proof.Levels

open Sys2Proof Sys2Proof.Machine Sys2Proof.Stated Sys2Proof.Levels

/-- Settles O28: each descriptor's body, as `runDesc_of_runs` runs it, takes the branch that the hypotheses name. -/
theorem nopFenceAndSignal : Obligations.NopFenceAndSignal := by
  unfold Obligations.NopFenceAndSignal
  intro s s1 n x hruns d r
  refine ⟨?nop, ?fence, ?write, ?add, ?addHost, ?ring, ?remoteRing⟩
  case nop =>
    exact fun hty hres => exec_of_runs hruns rfl (beq_iff_eq.2 hty) (bne_eq_false_iff_eq.2 hres) fun _ => rfl
  case fence =>
    intro hty hres hall hmet
    have hown : (bit d 129 && r.ctx != 0) = false := by
      cases h : bit d 129 with
      | false => rfl
      | true => simp [hall h]
    have hgoes : ¬ (!fenceMet s1 n x.desc.stamp (bit d 129)) = true := by simp [hmet]
    exact exec_of_runs hruns rfl (beq_iff_eq.2 hty) (Bool.or_eq_false_iff.2 ⟨bne_eq_false_iff_eq.2 hres, hown⟩) fun _ => if_neg hgoes
  case write =>
    intro s2 hkind hgood hwrite
    exact exec_of_runs hruns rfl hkind hgood fun _ => by rw [hwrite]
  case add =>
    exact fun g s2 hkind hgood hbegun hxlate hdev => exec_of_runs hruns rfl hkind hgood fun _ => signalAdd_device hbegun hxlate hdev
  case addHost =>
    intro g s2 bs s3 s4 hkind hgood hbegun hxlate hhost hread hwrite
    exact exec_of_runs hruns rfl hkind hgood fun _ => signalAdd_host hbegun hxlate hhost hread hwrite
  case ring =>
    exact fun hkind hgood => exec_of_runs hruns rfl hkind hgood fun _ => rfl
  case remoteRing =>
    intro s2 hkind hgood hbegun hissue
    have hstarts : ¬ x.begun = true := by simp [hbegun]
    exact exec_of_runs hruns rfl hkind hgood fun _ => by rw [if_neg hstarts]; simp only [hissue, d, r]

end

section
/-! The start and the end of a loupe's call (R188 to R199). -/

namespace Sys2Proof.Levels

open Sys2Proof Sys2Proof.Machine Sys2Proof.Laws

variable {s s2 : State} {n : Nat} {r : LoupeRun} {l : List LoupeCall}

/-! What is kept of a running call. -/

theorem running_ne_idle (l : List LoupeCall) (r : LoupeRun) : (⟨l, some r⟩ : Loupe) ≠ Loupe.idle := by
  simp [Loupe.idle]

/-- A loupe that runs a call is read as it was stored, whatever table of loupes it went into. -/
@[simp] theorem loupeOf_setLoupe_running (s : State) (n : Nat) (l : List LoupeCall) (r : LoupeRun) :
    loupeOf (setLoupe s n ⟨l, some r⟩) n = ⟨l, some r⟩ := by
  simp only [loupeOf, setLoupe, tset, if_neg (running_ne_idle l r), tget_tput_same]

/-- To store the run that a loupe has already changes nothing. -/
theorem setRun_setLoupe_running (s : State) (n : Nat) (l : List LoupeCall) (r : LoupeRun) :
    setRun (setLoupe s n ⟨l, some r⟩) n (some r) = setLoupe s n ⟨l, some r⟩ := by
  simp only [setRun, loupeOf_setLoupe_running]
  simp only [setLoupe, tset_tset n _ (running_ne_idle l r) (running_ne_idle l r)]

/-! The start. -/

theorem exec_loupeCallStart (n : Nat) (s : State) : exec (.loupeCallStart n .none) s = .next (unitLoupeCallStart n .none s) :=
  congrArg _ (Laws.meetUnit_none _ _ _)

/-- A call of which nothing is left to issue sends no request and stays as it is. -/
theorem issueAllOf_of_nothing_left (h : leftToIssue s r = false) : issueAllOf n s r = .ok (s, r) := by
  simp only [leftToIssue, Bool.or_eq_false_iff, Bool.not_eq_false', List.isEmpty_iff] at h
  obtain ⟨⟨htodo, hputs⟩, hgroups⟩ := h
  have hasked : r.groups.find? (fun g => g.pkg != ownId s && !g.asked) = none := by
    simpa [List.find?_eq_none] using hgroups
  simp only [issueAllOf, issueMore, htodo, hputs, hasked]

/-- The oldest call of an idle loupe, once its checks pass, runs and issues what it may (R188, R191). -/
theorem unitLoupeCallStart_of_ok {c : LoupeCall} (hn : n < 16) (hup : unitUp s 4 n (n / 2) = true) (hidle : loupeOf s n = ⟨c :: l, none⟩)
    (hstart : loupeStart s n c = .ok r s2) :
    unitLoupeCallStart n .none s = putIssued (setLoupe s2 n ⟨l, some r⟩) n r (issueAllOf n (setLoupe s2 n ⟨l, some r⟩) r) := by
  have hgoes : ¬ (n ≥ 16 ∨ unitUp s 4 n (n / 2) = false) := by simp [hn, hup]
  simp only [unitLoupeCallStart, hidle, if_neg hgoes, hstart]

/-! The end. -/

theorem exec_loupeCallComplete (n : Nat) (s : State) : exec (.loupeCallComplete n .none) s = .next (unitLoupeCallComplete n .none s) :=
  congrArg _ (Laws.meetUnit_none _ _ _)

/-- The caller has its end where no report is asked for. -/
theorem loupeFinish_unreported (hrep : lcREPCVA r.block = 0) :
    loupeFinish s n r = endCall (endHost (setRun s n none) (whoLoupe n)) r.call.caller r.call.uid := by
  simp only [loupeFinish, if_pos hrep]

/-- Where a report is asked for it is written first (R199). -/
theorem loupeFinish_reported (hrep : lcREPCVA r.block ≠ 0)
    (hwrite : cvaWrite s ⟨whoLoupe n, r.call.ctx⟩ (lcREPCVA r.block) (loupeReport r) false = .ok () s2) :
    loupeFinish s n r = endCall (endHost (setRun s2 n none) (whoLoupe n)) r.call.caller r.call.uid := by
  simp only [loupeFinish, if_neg hrep, hwrite]

/-- No call but a ROWUPDATE has a CURSOR to swap. -/
theorem loupeSwap_of_not_rowupdate (hop : lcOP r.block ≠ 3) : loupeSwap s n r = loupeFinish s n r := by
  simp [loupeSwap, hop]

/-- A ROWUPDATE swaps its CURSOR, once, and then finishes (R197). -/
theorem loupeSwap_of_rowupdate (hop : lcOP r.block = 3) (hstage : r.stage < 2) (hswap : swapCursor s r = .ok () s2) :
    loupeSwap s n r = loupeFinish (setRun s2 n (some { r with stage := 2 })) n { r with stage := 2 } := by
  simp only [loupeSwap, if_pos (And.intro hop hstage), hswap]

/-- A call whose remote work is answered and whose fixers' part is none or done makes its effect and goes on to its second stage. -/
theorem unitLoupeCallComplete_of_effect {k : Nat} (hn : n < 16) (hup : unitUp s 4 n (n / 2) = true) (hrun : (loupeOf s n).run = some r)
    (htags : r.tags = []) (hissued : leftToIssue s r = false) (hfix : r.fixPart = 0 ∨ r.fixPart = 3) (hstage : r.stage = 0)
    (heffect : loupeEffect s n r = .ok k s2) :
    unitLoupeCallComplete n .none s =
      loupeSwap (setRun s2 n (some { r with stage := 1, bursts := r.bursts + k })) n { r with stage := 1, bursts := r.bursts + k } := by
  have hgoes : ¬ (n ≥ 16 ∨ unitUp s 4 n (n / 2) = false ∨ r.tags ≠ []) := by simp [hn, hup, htags]
  have hone : r.fixPart ≠ 1 := by omega
  have htwo : r.fixPart ≠ 2 := by omega
  simp [unitLoupeCallComplete, hrun, if_neg hgoes, hissued, hone, htwo, hstage, heffect, endCheck]

/-- A GATHER's effect is the bytes of its rows, in the order of its indices, at the caller's ranges; it draws no free word and counts no burst
here (R193). -/
theorem callerWrite_of_gather {k : Nat} (hop : lcOP r.block = 0) (heffect : loupeEffect s n r = .ok k s2) :
    callerWrite s n r.call r.block (callerRanges (tableReg s (lcTID r.block)).entry r.block)
      (r.ids.flatMap (rowBytesOf (tableReg s (lcTID r.block)) r)) = .ok () s2 ∧ k = 0 := by
  simp only [loupeEffect, deliverBytes, hop, if_true] at heffect
  obtain ⟨_, s3, hwrite, hdone⟩ := bind_ok heffect
  cases hdone
  exact ⟨hwrite, rfl⟩

end Sys2Proof.Levels

open Sys2Proof Sys2Proof.Machine Sys2Proof.Levels

/-- Settles O25: a start takes the branch of a call whose checks pass, and a completion goes through effect, swap and report one after another. -/
theorem loupeCalls : Obligations.LoupeCalls := by
  unfold Obligations.LoupeCalls
  intro s n
  refine ⟨?start, ?unreported, ?rowupdate, ?gather⟩
  case start =>
    intro c l r s2 hn hup hidle hstart s3
    rw [exec_loupeCallStart, unitLoupeCallStart_of_ok hn hup hidle hstart]
    refine ⟨?issues, ?nothing⟩
    case issues =>
      intro s4 r4 hissue
      rw [hissue, putIssued]
    case nothing =>
      intro hleft
      rw [issueAllOf_of_nothing_left hleft, putIssued, setRun_setLoupe_running]
  case unreported =>
    intro r k s2 hn hup hrun htags hissued hfix hstage heffect hop hrep
    rw [exec_loupeCallComplete, unitLoupeCallComplete_of_effect hn hup hrun htags hissued (.inl hfix) hstage heffect,
      loupeSwap_of_not_rowupdate (r := { r with stage := 1, bursts := r.bursts + k }) hop,
      loupeFinish_unreported (r := { r with stage := 1, bursts := r.bursts + k }) hrep]
  case rowupdate =>
    intro r k s2 s3 s4 hn hup hrun htags hissued hfix hstage heffect hop r1 r2 hswap hrep hwrite
    rw [exec_loupeCallComplete, unitLoupeCallComplete_of_effect hn hup hrun htags hissued hfix hstage heffect,
      loupeSwap_of_rowupdate (r := r1) hop Nat.one_lt_two hswap, loupeFinish_reported (r := r2) hrep hwrite]
  case gather =>
    intro r k s2 hop heffect
    obtain ⟨hwrite, hk⟩ := callerWrite_of_gather hop heffect
    exact ⟨s2, hwrite, rfl, hk⟩

end

section
/-! The windows of schedule entries, routing entries and groups (R228, R265, R271): what a command of a page that answers makes of its register. -/

namespace Sys2Proof.Levels

open Sys2Proof Sys2Proof.Machine

variable {s : State}

/-- FIX_SE_CTRL shows the context and WRCNT of a commit asked for. -/
def seCommitAsked (s : State) (c : Nat) (wrcnt : Bool) : State :=
  setField (setField (wakeBy false s) rFIX_SE_CTRL 11 0 c) rFIX_SE_CTRL 14 14 (b2n wrcnt)

/-- A commit goes by what its context does: it waits for a running step, reaches an entry held, and else changes nothing (R228). -/
theorem exec_fixSeCommit_open (k : BitVec 12) (b : Bool) (hopen : pageOpen s rFIX_SE_CTRL = true) :
    exec (.fixSeCommit k b) s = .next (
      let y := seCommitAsked s k.toNat b
      if stepRuns y k.toNat then { y with
        fixers := { y.fixers with commits := y.fixers.commits ++ [(k.toNat, seWindow y, b)] } }
      else if holdsEntry y k.toNat then setSe y k.toNat (commitSe (seOf y k.toNat) (seWindow y) b) else y) := by
  have hanswers : ¬ (!pageOpen s rFIX_SE_CTRL) = true := by simp [hopen]
  exact if_neg hanswers

theorem exec_fixSeRead_open (k : BitVec 12) (hopen : pageOpen s rFIX_SE_CTRL = true) :
    exec (.fixSeRead k) s = .next (loadWindow (setField (wakeBy false s) rFIX_SE_CTRL 11 0 k.toNat) (seOf s k.toNat)) :=
  congrArg Host.Outcome.next (if_pos hopen)

theorem exec_prtRtRead_open (k : BitVec 12) (hopen : pageOpen s rPRT_RT_CTRL = true) :
    exec (.prtRtRead k) s = .next (readRoute (wakeBy false s) k.toNat) :=
  congrArg Host.Outcome.next (if_pos hopen)

theorem exec_prtRtWrite_open (k : BitVec 12) (hopen : pageOpen s rPRT_RT_CTRL = true) :
    exec (.prtRtWrite k) s = .next (routeFrom (wakeBy false s) k.toNat) :=
  congrArg Host.Outcome.next (if_pos hopen)

theorem exec_stkGrpRead_open (k : BitVec 8) (hopen : pageOpen s rSTK_GRP_CTRL = true) :
    exec (.stkGrpRead k) s = .next (
      let shown : BitVec 512 := if k = 0 then 0 else tget 0 (wakeBy false s).pod.groups k.toNat
      (List.range 8).foldl (fun s n => setReg s (rGrpData n) (BitVec.ofNat 64 (bits shown (64 * n + 63) (64 * n))))
        (setField (wakeBy false s) rSTK_GRP_CTRL 7 0 k.toNat)) := by
  have hanswers : ¬ (!pageOpen s rSTK_GRP_CTRL) = true := by simp [hopen]
  exact if_neg hanswers

/-- STK_GRP_CTRL shows the group asked for. -/
def groupAsked (s : State) (k : BitVec 8) : State := setField (wakeBy false s) rSTK_GRP_CTRL 7 0 k.toNat

/-- A group's WRITE is refused (R271, R480). -/
def groupRefused (y : State) (k : BitVec 8) : Bool := k == 0 || y.rst.strict || y.pod.colls.any (fun c => c.grp == k.toNat)

theorem groupRefused_iff (y : State) (k : BitVec 8) :
    groupRefused y k = true ↔ k = 0 ∨ y.rst.strict = true ∨ y.pod.colls.any (fun c => c.grp == k.toNat) = true := by
  rw [groupRefused, Bool.or_eq_true, Bool.or_eq_true, beq_iff_eq, or_assoc]

/-- The eight data registers of the group window as one entry. -/
def groupWindow (y : State) : BitVec 512 :=
  BitVec.ofNat 512 ((List.range 8).foldr (fun n a => (regVal y (rGrpData n)).toNat + a * 2 ^ 64) 0)

theorem exec_stkGrpWrite_open (k : BitVec 8) (hopen : pageOpen s rSTK_GRP_CTRL = true) :
    exec (.stkGrpWrite k) s = .next (
      let y := setField (groupAsked s k) rSTK_GRP_CTRL 10 10 (b2n (groupRefused (groupAsked s k) k))
      if groupRefused (groupAsked s k) k then y else writeGroup y k.toNat (groupWindow (groupAsked s k))) := by
  have hanswers : ¬ (!pageOpen s rSTK_GRP_CTRL) = true := by simp [hopen]
  exact if_neg hanswers

theorem exec_stkGrpWrite_of_refused {k : BitVec 8} (hopen : pageOpen s rSTK_GRP_CTRL = true) (href : groupRefused (groupAsked s k) k = true) :
    exec (.stkGrpWrite k) s = .next (setField (groupAsked s k) rSTK_GRP_CTRL 10 10 1) := by
  rw [exec_stkGrpWrite_open k hopen, href]
  rfl

theorem exec_stkGrpWrite_of_taken {k : BitVec 8} (hopen : pageOpen s rSTK_GRP_CTRL = true) (htaken : groupRefused (groupAsked s k) k = false) :
    exec (.stkGrpWrite k) s = .next (writeGroup (setField (groupAsked s k) rSTK_GRP_CTRL 10 10 0) k.toNat (groupWindow (groupAsked s k))) := by
  rw [exec_stkGrpWrite_open k hopen, htaken]
  rfl

end Sys2Proof.Levels

open Sys2Proof Sys2Proof.Machine Sys2Proof.Levels

/-- Settles O42: each command of an open page does its window's work, and a commit or a WRITE takes the branch that the hypotheses name. -/
theorem tableWindows : Obligations.TableWindows := by
  unfold Obligations.TableWindows
  intro s s1
  refine ⟨?seRead, ?seCommit, ?route, ?group⟩
  case seRead => exact fun k hopen => exec_fixSeRead_open k hopen
  case seCommit =>
    intro k b hopen y
    have hcommit := exec_fixSeCommit_open k b hopen
    refine ⟨?noEntry, ?atOnce, ?later⟩
    case noEntry =>
      intro hidle hnone
      exact hcommit.trans (congrArg _ ((if_neg (ne_true_of_eq_false hidle)).trans (if_neg (ne_true_of_eq_false hnone))))
    case atOnce =>
      intro hidle hholds
      exact hcommit.trans (congrArg _ ((if_neg (ne_true_of_eq_false hidle)).trans (if_pos hholds)))
    case later =>
      intro hruns
      exact hcommit.trans (congrArg _ (if_pos hruns))
  case route =>
    intro k hopen y
    refine ⟨?read, ?strict, ?write⟩
    case read => exact exec_prtRtRead_open k hopen
    case strict =>
      intro hstrict
      exact (exec_prtRtWrite_open k hopen).trans (congrArg _ (if_pos hstrict))
    case write =>
      intro hlax
      exact (exec_prtRtWrite_open k hopen).trans (congrArg _ (if_neg (ne_true_of_eq_false hlax)))
  case group =>
    intro k hopen y e shown
    refine ⟨?read, ?refused, ?taken⟩
    case read => exact exec_stkGrpRead_open k hopen
    case refused =>
      intro hrefused
      exact exec_stkGrpWrite_of_refused hopen ((groupRefused_iff y k).2 hrefused)
    case taken =>
      intro hne hstrict hidle
      have htaken : ¬ groupRefused y k = true := by
        rw [groupRefused_iff, not_or, not_or]
        exact ⟨hne, ne_true_of_eq_false hstrict, ne_true_of_eq_false hidle⟩
      exact exec_stkGrpWrite_of_taken hopen (Bool.eq_false_iff.2 htaken)

end

section
/-! The fixers' calls (R216 to R225, R231 to R234): their start, the decision after pass one, and their end. -/

namespace Sys2Proof.Levels

open Sys2Proof Sys2Proof.Machine

variable {s s2 s3 : State} {r : FixRun}

/-! The start. -/

theorem exec_fixerCallStart (s : State) : exec (.fixerCallStart .none) s = .next (unitFixerCallStart .none s) :=
  congrArg _ (Laws.meetUnit_none _ _ _)

/-- The oldest call, once its checks pass, leaves the queue and runs (R216). -/
theorem unitFixerCallStart_of_ok {c : FixCall} {l : List FixCall} (hserving : serving s = true) (hawake : awake s = true)
    (hidle : s.fixers.run = none) (hqueue : s.fixers.queue = c :: l) (hstart : fixStart s c = .ok r s2) :
    unitFixerCallStart .none s = { s2 with fixers := { s2.fixers with queue := l, run := some r } } := by
  have hgoes : ¬ (!(serving s && awake s)) = true := by simp [hserving, hawake]
  simp only [unitFixerCallStart, hidle, hqueue, if_neg hgoes, hstart]

/-! Pass one and the decision. -/

theorem exec_passOneDone (s : State) : exec (.passOneDone .none) s = .next (unitPassOneDone .none s) :=
  congrArg _ (Laws.meetUnit_none _ _ _)

/-- A chunk is counted at the fixer that runs it (R238). -/
def countAtFixer (ctx : Nat) (s : State) (c : Chunk) : State :=
  match fixerOf s ctx c with
  | .ok f _ => countChunk s f
  | _ => s

/-- The call with the elements and chunks that pass one read. -/
def withPassOne (r : FixRun) (cs : List Chunk) : FixRun := { r with elems1 := cs.foldl (fun a c => a + c.n) 0, chunks := cs.length }

/-- The state in which the partials of pass one combine: its chunks counted and its accesses to the host ended. -/
def afterPassOne (s : State) (r : FixRun) (cs : List Chunk) : State :=
  setFix (endHost (cs.foldl (countAtFixer r.call.ctx) s) whoFixers) (some (withPassOne r cs))

/-- With every chunk read, the package decides alone, or enters the ALLREDUCE of its group (R219, R220). -/
theorem unitPassOneDone_of_ok {cs : List Chunk} {t : Tbl (List Machine.Num × Nat)} (hserving : serving s = true) (hrun : s.fixers.run = some r)
    (hphase : r.phase = .passOne) (hchunks : callChunks s r = .ok cs s2)
    (hread : passOne r.call.ctx (useFree s2 cs.length) ((tileOrder s2 cs.length).filterMap (fun i => cs[i]?)) [] = .ok t s3) :
    unitPassOneDone .none s =
      if fcGROUP r.block = 0 then decideUpdate (afterPassOne s3 r cs) (combine t).1 (combine t).2
      else enterColl (afterPassOne s3 r cs) (withPassOne r cs) (combine t) := by
  have hgoes : ¬ (r.phase ≠ .passOne ∨ serving s = false) := by simp [hphase, hserving]
  simp only [unitPassOneDone, hrun, if_neg hgoes, hchunks, Acc.bind, hread]
  rfl

/-- A non-finite gradient element is a reason to skip (R220). -/
theorem decide_none_of_count (b : BitVec 512) (sum : BitVec 32) {count : BitVec 64} (hcount : count ≠ 0) : decide_ b sum count = none := by
  simp only [decide_, hcount, ne_eq, not_false_eq_true, true_or, if_true]

/-- With MAXNORM 0 a finite sum is not clipped (R220, R223). -/
theorem decide_one_of_maxnorm_zero {b : BitVec 512} {sum : BitVec 32} (hmax : fcMAXNORM b = 0)
    (hfinite : (rnd32 ((ofF32 sum.toNat).quot (.fin false (fcNREPL b) 0))).nonFinite = false) :
    decide_ b sum 0 = some (BitVec.ofNat 32 oneF32) := by
  have hzero : (ofF32 0).eqv (.fin false 0 0) = true := by decide
  simp only [decide_, hmax, hzero, hfinite, ne_eq, not_true_eq_false, Bool.false_eq_true, or_self, if_false, Bool.true_or, if_true]

/-- The decision to skip marks the step (R222). -/
theorem decideUpdate_of_none {sum : BitVec 32} {count : BitVec 64} (hrun : s.fixers.run = some r) (hskip : decide_ r.block sum count = none) :
    decideUpdate s sum count = markSkip (setFix s (some { r with phase := .skipped, sum, count, next := 0 })) r.call.ctx := by
  simp only [decideUpdate, hrun, hskip]

/-- The decision to apply starts pass two with its clipping factor (R223). -/
theorem decideUpdate_of_some {sum clip : BitVec 32} {count : BitVec 64} (hrun : s.fixers.run = some r)
    (happly : decide_ r.block sum count = some clip) :
    decideUpdate s sum count = setFix s (some { r with phase := .passTwo, sum, count, clip, next := 0 }) := by
  simp only [decideUpdate, hrun, happly]

/-! The end. -/

theorem exec_fixerCallComplete (s : State) : exec (.fixerCallComplete .none) s = .next (unitFixerCallComplete .none s) :=
  congrArg _ (Laws.meetUnit_none _ _ _)

/-- A skipped call finishes with no chunk run (R222). -/
theorem unitFixerCallComplete_of_skipped (hserving : serving s = true) (hrun : s.fixers.run = some r) (hphase : r.phase = .skipped) :
    unitFixerCallComplete .none s = finishFix s r := by
  have hgoes : ¬ serving s = false := by simp [hserving]
  simp only [unitFixerCallComplete, hrun, if_neg hgoes, hphase]

/-- A call in pass two, or one of RUN or of rows, runs the chunks that are left. -/
theorem unitFixerCallComplete_of_chunks {cs : List Chunk} (hserving : serving s = true) (hrun : s.fixers.run = some r)
    (hphase : r.phase = .passTwo ∨ r.phase = .runRows) (hchunks : callChunks s r = .ok cs s2) :
    unitFixerCallComplete .none s = fixRest s2 r (cs.drop r.next) := by
  have hgoes : ¬ serving s = false := by simp [hserving]
  rcases hphase with hphase | hphase <;> simp only [unitFixerCallComplete, hrun, if_neg hgoes, hphase, hchunks]

/-- Once the chunks that were left have run, the call as it then stands finishes. -/
theorem fixRest_of_ok {left : List Chunk} {r3 : FixRun} (hruns : runChunks s r left = .ok () s2) (hrun : s2.fixers.run = some r3) :
    fixRest s r left = finishFix s2 r3 := by
  simp only [fixRest, hruns, hrun]

end Sys2Proof.Levels

open Sys2Proof Sys2Proof.Machine Sys2Proof.Levels

/-- Settles O26: start and end take the branch of a call whose checks and chunks pass, and the decision is read off `decide_`. -/
theorem fixerCalls : Obligations.FixerCalls := by
  unfold Obligations.FixerCalls
  intro s
  refine ⟨?start, ?passOne, ?chunks, ?skipped, ?skips, ?applies⟩
  case start =>
    intro c l r s2 hserving hawake hidle hqueue hstart
    rw [exec_fixerCallStart, unitFixerCallStart_of_ok hserving hawake hidle hqueue hstart]
  case passOne =>
    intro r cs s2 s3 t hserving hrun hphase hchunks hread s4
    exact (exec_passOneDone s).trans (congrArg _ (unitPassOneDone_of_ok hserving hrun hphase hchunks hread))
  case chunks =>
    intro r cs s2 s3 r3 hserving hrun hphase hchunks hruns hrun3
    rw [exec_fixerCallComplete, unitFixerCallComplete_of_chunks hserving hrun hphase hchunks, fixRest_of_ok hruns hrun3]
  case skipped =>
    intro r hserving hrun hphase
    rw [exec_fixerCallComplete, unitFixerCallComplete_of_skipped hserving hrun hphase]
  case skips =>
    intro r sum count hrun hcount
    exact decideUpdate_of_none hrun (decide_none_of_count r.block sum hcount)
  case applies =>
    intro r sum hrun hmax hfinite
    exact decideUpdate_of_some hrun (decide_one_of_maxnorm_zero hmax hfinite)

end

section
/-! Transactions of a stranger (R259, R290, R292): what their arrival drops, and that the commands which take one do no more. -/

namespace Sys2Proof.Levels

open Sys2Proof Sys2Proof.Machine Sys2Proof.Laws

variable {s t : State} {n ty : Nat}

/-- No part of the state but the ports and the registers, which count, may differ. -/
def OnlyPorts (s t : State) : Prop := t = { s with ports := t.ports, regs := t.regs }

theorem OnlyPorts.refl (s : State) : OnlyPorts s s := rfl

theorem OnlyPorts.trans {a b c : State} (h : OnlyPorts a b) (g : OnlyPorts b c) : OnlyPorts a c := by
  unfold OnlyPorts at h g ⊢
  rw [g, h]

theorem setPort_onlyPorts (s : State) (n : Nat) (p : Port) : OnlyPorts s (setPort s n p) := rfl

theorem bump_onlyPorts (s : State) (off hi lo k : Nat) : OnlyPorts s (bump s off hi lo k) := rfl

/-- A transaction taken from a port leaves its queue there and frees its slots (R244). -/
theorem takeTxn_onlyPorts {x : Txn} (h : takeTxn s (some n) ty = some (x, t)) : OnlyPorts s t := by
  obtain ⟨r, -, hr⟩ := Option.map_eq_some_iff.mp h
  obtain ⟨-, rfl⟩ := Prod.mk.inj hr
  exact (setPort_onlyPorts s n _).trans (setPort_onlyPorts _ n _)

/-- The notice to a stranger waits at the port the stranger came by (R292). -/
theorem noteBack_onlyPorts (s : State) (n pkg : Nat) : OnlyPorts s (noteBack s n pkg) := by
  unfold noteBack
  dsimp only
  split
  · exact (setPort_onlyPorts s n _).trans (setPort_onlyPorts _ n _)
  · exact .refl s

/-- What the drop of a stranger's transaction leaves, once it is taken: it is counted, and the sender may be told (R259, R292). -/
def strangerDropped (s : State) (n : Nat) (x : Txn) : State := noteBack (countDrop s (some n) 15 0) n x.src

theorem strangerDropped_onlyPorts (s : State) (n : Nat) (x : Txn) : OnlyPorts s (strangerDropped s n x) :=
  (bump_onlyPorts s (rPRT_RXDROP n) 15 0 1).trans (noteBack_onlyPorts _ n x.src)

theorem arrive_of_stranger {x : Txn} (htake : takeTxn s (some n) ty = some (x, t)) (hstale : t.pod.stale = false) (hfog : inFog t = false)
    (hinc : x.inc ≠ incOf t x.src) : arrive s (some n) ty = .drop (strangerDropped t n x) := by
  simp only [arrive, htake, hstale, hfog, hinc, Bool.or_self, Bool.false_eq_true, if_false, ne_eq, not_false_eq_true, if_true, strangerDropped]

/-! The commands that take a transaction. -/

theorem exec_rd (src : Option Nat) (s : State) : exec (.rd src .none) s = .next (serveReq s src tRD false false rdEff) :=
  congrArg _ (meetUnit_none _ _ _)

theorem serveReq_of_dropped {src : Option Nat} (write atomic : Bool) (eff : State → Txn → Nat → Txn × State) (h : arrive s src ty = .drop t) :
    serveReq s src ty write atomic eff = t := by
  simp only [serveReq, h]

theorem reply_of_dropped {src : Option Nat} (h : arrive s src ty = .drop t) : reply ty src s = t := by
  simp only [reply, h]

/-- The commands that serve a request, a reply or a notice from port `n`, each with the type it takes (R253). -/
def fromPort (n : Nat) : List (Instr × Nat) :=
  [(.rd (some n) .none, tRD), (.wr (some n), tWR), (.atadd (some n), tATADD), (.atcas (some n), tATCAS), (.dbell (some n), tDBELL),
    (.rdrsp (some n), tRDRSP), (.wrack (some n), tWRACK), (.atrsp (some n), tATRSP), (.incnote (some n), tINCNOTE)]

/-- Each of these commands makes nothing of an arrival that is dropped but the drop. -/
theorem exec_of_dropped : ∀ c ∈ fromPort n, arrive s (some n) c.2 = .drop t → exec c.1 s = .next t := by
  simp only [fromPort, List.forall_mem_cons]
  refine ⟨?rd, ?wr, ?atadd, ?atcas, ?dbell, ?rdrsp, ?wrack, ?atrsp, ?incnote, by simp⟩ <;> intro h
  case rd => rw [exec_rd, serveReq_of_dropped _ _ _ h]
  case wr | atadd | atcas => exact congrArg _ (serveReq_of_dropped _ _ _ h)
  case dbell =>
    show execDbell (some n) s = _
    simp only [execDbell, h]
  case rdrsp | wrack | atrsp => exact congrArg _ (reply_of_dropped h)
  case incnote =>
    show execIncnote (some n) s = _
    simp only [execIncnote, h]

end Sys2Proof.Levels

open Sys2Proof.Machine Sys2Proof.Levels

/-- Settles O54: a stranger's transaction is dropped by `arrive_of_stranger`, and taking and dropping it touch ports and counting registers alone. -/
theorem strangersChangeNothing : Obligations.StrangersChangeNothing := by
  unfold Obligations.StrangersChangeNothing
  intro s n x s1 c hc htake hstale hfog hinc
  have hframe : OnlyPorts s (strangerDropped s1 n x) := (takeTxn_onlyPorts htake).trans (strangerDropped_onlyPorts s1 n x)
  refine ⟨strangerDropped s1 n x, exec_of_dropped c hc (arrive_of_stranger htake hstale hfog hinc), ?_⟩
  rw [hframe]
  exact ⟨rfl, rfl, rfl, rfl, rfl, rfl, rfl, rfl, rfl, rfl⟩

end

section
/-! A port as it stands after a write of it, and the control of ports and of soft repair (R266, R362, R428). -/

namespace Sys2Proof.Levels

open Sys2Proof Sys2Proof.Machine Sys2Proof.Laws

variable {s : State} {n : Nat} {p : Port}

theorem portOf_setPort (s : State) (n : Nat) (h : p ≠ Port.off) : portOf (setPort s n p) n = p := by
  simp only [portOf, setPort, tset, if_neg h, tget_tput_same]

theorem ne_off_of_en (h : p.en = true) : p ≠ Port.off := by
  rintro rfl
  cases h

theorem ne_off_of_st (h : p.st ≠ .off) : p ≠ Port.off := by
  rintro rfl
  exact h rfl

/-! PORT_ENABLE and PORT_DISABLE. -/

/-- The port with EN set. -/
def enabled (s : State) (n : Nat) : State := setPort (setField s (rPRT_CTRL n) 0 0 1) n { portOf s n with en := true }

/-- The port with EN cleared, and with it a latched enable. -/
def disabled (s : State) (n : Nat) : State := setPort (setField s (rPRT_CTRL n) 0 0 0) n { portOf s n with en := false, enLatch := false }

theorem portOf_enabled (s : State) (n : Nat) : portOf (enabled s n) n = { portOf s n with en := true } := portOf_setPort _ n (ne_off_of_en rfl)

theorem enablePort_of_latched (h : (portOf s n).st = .drain ∨ s.rst.block = some (2, n)) :
    enablePort s n = setPort (enabled s n) n { portOf (enabled s n) n with enLatch := true } := by
  have hlatch : (portOf (enabled s n) n).st = .drain ∨ (enabled s n).rst.block = some (2, n) := by rwa [portOf_enabled]
  exact if_pos hlatch

theorem enablePort_of_free (hdrain : (portOf s n).st ≠ .drain) (hblock : s.rst.block ≠ some (2, n)) :
    enablePort s n = if (portOf s n).st = .off then leaveOff (enabled s n) n else enabled s n := by
  have hfree : ¬ ((portOf (enabled s n) n).st = .drain ∨ (enabled s n).rst.block = some (2, n)) := by
    rw [portOf_enabled]
    exact not_or.mpr ⟨hdrain, hblock⟩
  have hsame : (portOf (enabled s n) n).st = (portOf s n).st := by rw [portOf_enabled]
  exact (if_neg hfree).trans (by rw [← hsame]; rfl)

theorem disablePort_of_idle (h : (portOf (disabled s n) n).st = .off ∨ (portOf (disabled s n) n).st = .drain) :
    disablePort s n = disabled s n := by
  simp only [disabled] at h ⊢
  rcases h with h | h <;> simp only [disablePort, h]

theorem disablePort_of_active (hoff : (portOf (disabled s n) n).st ≠ .off) (hdrain : (portOf (disabled s n) n).st ≠ .drain) :
    disablePort s n = leaveSets (setPort (disabled s n) n { portOf (disabled s n) n with st := .drain }) n := by
  simp only [disabled] at hoff hdrain ⊢
  -- the hypotheses rule out the two branches before the last
  simp only [disablePort]

/-! The commands at a page that answers. -/

section answers
variable (hn : n < 32) (hopen : pageOpen s (rPRT_CTRL n) = true)
include hn hopen

theorem exec_portEnable_open : exec (.portEnable n) s = .next (enablePort (wakeBy false s) n) := congrArg _ (if_pos ⟨hn, hopen⟩)

theorem exec_portDisable_open : exec (.portDisable n) s = .next (disablePort (wakeBy false s) n) := congrArg _ (if_pos ⟨hn, hopen⟩)

theorem exec_retrain_open : exec (.retrain n) s = .next (writeRetrain (wakeBy false s) n) := congrArg _ (if_pos ⟨hn, hopen⟩)

end answers

end Sys2Proof.Levels

open Sys2Proof.Machine Sys2Proof.Levels

/-- Settles O44: a port's state is the same once EN is written, and each command of an open page takes the branch of that state. -/
theorem portControlAndSoftRepair : Obligations.PortControlAndSoftRepair := by
  unfold Obligations.PortControlAndSoftRepair
  intro s n hn hopen s1 on off
  refine ⟨?starts, ?latched, ?elsewhere, ?idle, ?drains, exec_retrain_open hn hopen, ?repairs⟩
  case starts =>
    intro hoff hblock
    have hdrain : (portOf s1 n).st ≠ .drain := by simp [hoff]
    rw [exec_portEnable_open hn hopen, enablePort_of_free hdrain hblock, if_pos hoff]
    rfl
  case latched =>
    intro h
    rw [exec_portEnable_open hn hopen, enablePort_of_latched h]
    rfl
  case elsewhere =>
    intro hoff hdrain hblock
    rw [exec_portEnable_open hn hopen, enablePort_of_free hdrain hblock, if_neg hoff]
    rfl
  case idle =>
    intro h
    rw [exec_portDisable_open hn hopen, disablePort_of_idle h]
    rfl
  case drains =>
    intro hoff hdrain
    rw [exec_portDisable_open hn hopen, disablePort_of_active hoff hdrain]
    rfl
  case repairs =>
    intro h c pc b row hh hpage
    exact congrArg _ (if_pos ⟨hh, hpage⟩)

end

section
/-! Flits and their replay, sending, and the Safelight width (R242 to R250, R461). -/

namespace Sys2Proof.Levels

open Sys2Proof Sys2Proof.Machine Sys2Proof.Laws

variable {s : State} {n : Nat}

theorem takesFlits_of_up {p : Port} (h : p.st = .up) : takesFlits p = true := by simp [takesFlits, h]

/-! Replay (R247, R248). -/

theorem replayPort_of_retry (hsent : (portOf s n).replay ≠ []) (hmay : (portOf s n).replays < regField s rPRT_LINK 19 16) :
    replayPort s n =
      resendAll (countCE (setPort s n { portOf s n with replays := (portOf s n).replays + 1 }) (rPRT_ERR n) 31 16 (n / 4) 5 n) n := by
  simp only [replayPort, if_neg hsent, if_neg (Nat.not_le.mpr hmay)]

theorem replayPort_of_limit (hsent : (portOf s n).replay ≠ []) (hlimit : regField s rPRT_LINK 19 16 ≤ (portOf s n).replays) :
    replayPort s n = writeRetrain s n := by
  simp only [replayPort, if_neg hsent, if_pos hlimit]

theorem exec_retryTimeout (h : takesFlits (portOf s n) = true) : exec (.retryTimeout n) s = .next (replayPort s n) := congrArg _ (if_pos h)

/-! DATA flits (R243, R245, R247). -/

/-- The transactions that a DATA flit completes, and the bytes of one still arriving: `p` is the port with the flit's ACK and CR taken. -/
def completedBy (p : Port) (f : Flit) : List Txn × List Byte := parseSlots (p.partial_.length / 16 + 16) (p.partial_ ++ f.payload.take 240)

/-- A port that has accepted a DATA flit. -/
def accepted (p : Port) (f : Flit) : Port :=
  { p with seqExp := (p.seqExp + 1) % 4096, lastGood := f.seq.toNat, nakHeld := false, partial_ := (completedBy p f).2 }

section data
variable {f : Flit} (htakes : takesFlits (portOf s n) = true)
include htakes

theorem execDataFlit_of_crcBad (hcrc : crcGood f = false) : exec (.dataFlit n f) s = .next (crcFails s n) := by
  show execDataFlit n f s = _
  simp [execDataFlit, htakes, hcrc]

theorem execDataFlit_of_crcGood (hcrc : crcGood f = true) : exec (.dataFlit n f) s = .next (
    if f.seq.toNat ≠ (portOf s n).seqExp then sendNak s n
    else
      let s1 := takeAck s n f.ack f.cr
      (completedBy (portOf s1 n) f).1.foldl (takeArrival n) (setPort s1 n (accepted (portOf s1 n) f))) := by
  show execDataFlit n f s = _
  simp only [execDataFlit, htakes, hcrc, completedBy, accepted, Bool.not_true, Bool.false_eq_true, if_false]

end data

/-! The Safelight width (R461). -/

theorem takeCtrl_of_up (h : (portOf s n).st = .up) (ack : BitVec 12) (cr : List Byte) : takeCtrl s n ack cr = takeAck s n ack cr :=
  if_pos (takesFlits_of_up h)

/-- Taking an acknowledgement leaves the port in UP. -/
theorem takeAck_up (h : (portOf s n).st = .up) (ack : BitVec 12) (cr : List Byte) : (portOf (takeAck s n ack cr) n).st = .up := by
  unfold takeAck
  rw [portOf_setPort]
  · exact h
  · exact ne_off_of_st (by simp [h])

theorem execWiden_of_up (h : (portOf s n).st = .up) (ack : BitVec 12) (cr : List Byte) : exec (.widen n ack cr) s = .next (
    if s.pwr.st = 2 ∨ s.pwr.entering = some 2 then wakeBy false (takeAck s n ack cr) else writeRetrain (takeAck s n ack cr) n) := by
  show execWiden n s ack cr = _
  simp only [execWiden, takeCtrl_of_up h, takeAck_up h, if_true]
  rfl

/-! Sending (R245, R246, R250). -/

/-- With nothing that may go a port in UP sends an IDLE flit, whether the package may send or not. -/
theorem execTransactionSend_of_none {v : Option Nat} (hup : (portOf s n).st = .up) (hnone : nextToSend (portOf s n) v = none) :
    exec (.transactionSend n v) s = .next (sendIdle s n) := by
  show execTransactionSend n v s = _
  simp only [execTransactionSend, hnone, takesFlits_of_up hup, if_true, ite_self]

/-- The state with a port's waiting transaction taken out, its credit used and the slots it held on the port it came by freed (R244, R249). -/
def dequeued (s : State) (n : Nat) (e : Option Nat × Txn) : State :=
  let p := portOf s n
  let s1 := setPort s n { p with
    txq := removeFirst e p.txq, credits := p.credits.set (vcKey e.2) (nth p.credits (vcKey e.2) - slotsOf e.2) }
  match e.1 with | some a => freeSlots s1 a e.2 | none => s1

/-- The DATA flits of a whole transaction (R245). -/
def dataFlits (x : Txn) : List (Nat × List Byte) := flitsOf (x.data.length / 240 + 2) true (headerBytes x ++ x.data)

/-- A whole transaction whose flits fit the replay buffer goes. -/
theorem execTransactionSend_of_fits {v : Option Nat} {e : Option Nat × Txn} (hup : (portOf s n).st = .up) (hstale : s.pod.stale = false)
    (hfog : inFog s = false) (hnext : nextToSend (portOf s n) v = some e) (hfits : (portOf s n).replay.length + (dataFlits e.2).length ≤ 512) :
    exec (.transactionSend n v) s = .next ((dataFlits e.2).foldl (sendData n) (dequeued s n e)) := by
  have hmay : (portOf s n).st = .up ∧ s.pod.stale = false ∧ inFog s = false := ⟨hup, hstale, hfog⟩
  unfold dataFlits at hfits ⊢
  show execTransactionSend n v s = _
  simp only [execTransactionSend, if_pos hmay, hnext, if_neg (Nat.not_lt.mpr hfits)]
  rfl

end Sys2Proof.Levels

open Sys2Proof.Machine Sys2Proof.Levels

/-- Settles O51: each flit, time or sending takes the branch that the port's state names; an acknowledgement taken leaves a port in UP. -/
theorem flitsAndReplay : Obligations.FlitsAndReplay := by
  unfold Obligations.FlitsAndReplay
  intro s n p
  refine ⟨?accepted, ?outOfSequence, ?badCrc, ?nak, ?idle, ?crcFail, rfl, ?retries, ?limit, ?sends, ?nothing, ?width1, ?widenWakes, ?widenRetrains,
    ?widenResent, fun _ _ _ _ => rfl⟩
  case accepted =>
    intro f htakes hcrc hseq
    rw [execDataFlit_of_crcGood htakes hcrc, if_neg (not_not_intro hseq)]
    rfl
  case outOfSequence =>
    intro f htakes hcrc hseq
    rw [execDataFlit_of_crcGood htakes hcrc, if_pos hseq]
  case badCrc =>
    intro f htakes hcrc
    exact execDataFlit_of_crcBad htakes hcrc
  case nak => exact fun ack cr htakes => congrArg _ (if_pos htakes)
  case idle => exact fun ack cr htakes => congrArg _ (if_pos htakes)
  case crcFail => exact fun htakes => congrArg _ (if_pos htakes)
  case retries =>
    intro htakes hsent hmay
    rw [exec_retryTimeout htakes, replayPort_of_retry hsent hmay]
  case limit =>
    intro htakes hsent hlimit
    rw [exec_retryTimeout htakes, replayPort_of_limit hsent hlimit]
  case sends =>
    intro v e hup hstale hfog hnext fs hfits
    exact execTransactionSend_of_fits hup hstale hfog hnext hfits
  case nothing =>
    intro v hup hnone
    exact execTransactionSend_of_none hup hnone
  case width1 =>
    intro ack cr hup
    show execWidth1 n s ack cr = _
    simp only [execWidth1, takeCtrl_of_up hup, takeAck_up hup, if_true]
  case widenWakes =>
    intro ack cr hup hasleep
    rw [execWiden_of_up hup, if_pos hasleep]
  case widenRetrains =>
    intro ack cr hup hst hentering
    rw [execWiden_of_up hup, if_neg (not_or.mpr ⟨hst, hentering⟩)]
  case widenResent => exact fun hup hwidth hwaits => congrArg _ (if_pos ⟨hup, hwidth, hwaits⟩)

end

section
/-! Training, drain and heartbeats of ports (R266, R267, R287, R288, R434). -/

namespace Sys2Proof.Levels

open Sys2Proof Sys2Proof.Machine Sys2Proof.Laws

variable {s t : State} {n w g : Nat}

/-! Training (R266, R267). -/

/-- A trained port at the width and group chosen, before the exchange of ALIGN. -/
def aligning (p : Port) (w g : Nat) (good : BitVec 16) (rtt : BitVec 12) : Port :=
  { p with st := .align, width := w, group := g, good := good, rtt := rtt, lastGood := 0xFFF, freed := List.replicate 8 0, told := List.replicate 8 0 }

theorem selfInfo_aligning (s : State) (p : Port) (good : BitVec 16) (rtt : BitVec 12) :
    selfInfo (setPort s n (aligning p w g good rtt)) n =
      ⟨BitVec.ofNat 12 (ownId (setPort s n (aligning p w g good rtt))), BitVec.ofNat 5 n, good, bufferSlots⟩ := by
  have hport : portOf (setPort s n (aligning p w g good rtt)) n = aligning p w g good rtt := portOf_setPort s n (ne_off_of_st (by simp [aligning]))
  rw [selfInfo, hport]
  rfl

theorem exec_trainDone {good : BitVec 16} (rtt : BitVec 12) (hst : (portOf s n).st = .train) (hwidth : chooseWidth good = some (w, g)) :
    exec (.trainDone n good rtt) s = .next (
      let s1 := setPort s n (aligning (portOf s n) w g good rtt)
      sendCtrl s1 n 0 (some ⟨BitVec.ofNat 12 (ownId s1), BitVec.ofNat 5 n, good, bufferSlots⟩)) := by
  show execTrainDone n good rtt s = _
  simp only [execTrainDone, hst, hwidth, ← selfInfo_aligning]
  rfl

/-! Heartbeats (R287, R288). -/

theorem execHbeat_of_ok {x : Txn} (harrive : arrive s (some n) tHBEAT = .ok x t)
    (hb : (portOf t n).hb = 1 ∨ (portOf t n).hb = 4 ∨ ((portOf t n).hb = 3 ∧ portUp (portOf t n) = true)) :
    execHbeat (some n) s = .next (setPort t n { portOf t n with
      hb := 1, misses := 0, heard := true, silence := none, liveSince := true }) := by
  simp only [execHbeat, harrive, if_pos hb]

theorem execDark_of_ok {x : Txn} (harrive : arrive s (some n) tDARK = .ok x t) (hb : (portOf t n).hb = 1) :
    execDark (some n) s = .next (setPort t n { portOf t n with
      hb := 4, silence := some (bits x.hi 31 0) }) := by
  simp only [execDark, harrive, if_pos hb]

end Sys2Proof.Levels

open Sys2Proof.Machine Sys2Proof.Levels

/-- Settles O52: each event takes the branch of the port's state, and the lanes that an aligning port tells are those it holds by then. -/
theorem portTrainingAndHeartbeats : Obligations.PortTrainingAndHeartbeats := by
  unfold Obligations.PortTrainingAndHeartbeats
  intro s n
  dsimp only
  refine ⟨?trained, ?untrained, ?exchanged, ?laneLost, ?retrained, ?lost, ?drained, ?retries, ?allDown, ?beats, ?heard, ?stillHeard, ?missed, ?dark,
    ?silenceOver⟩
  case trained => exact fun good rtt w g hst hwidth => exec_trainDone rtt hst hwidth
  case untrained => exact fun hst => congrArg _ (if_pos hst)
  case exchanged =>
    intro peer w g hst hwidth
    show execCtrlFlit n peer s = _
    simp only [execCtrlFlit, if_pos hst, hwidth, Option.getD_some]
  case laneLost => exact fun lane hst hused => congrArg _ (if_pos ⟨hst, hused⟩)
  case retrained =>
    intro good rtt w g hst hwidth
    show execRetrainDone n good rtt s = _
    simp only [execRetrainDone, hst, hwidth]
  case lost => exact fun hst => congrArg _ (if_pos hst)
  case drained => exact fun hst => congrArg _ (if_pos hst)
  case retries => exact fun hst hb => congrArg _ (if_pos ⟨hst, hb⟩)
  case allDown => exact fun hready hany hall => congrArg _ (if_pos ⟨hready, hany, hall⟩)
  case beats =>
    intro m hst hpeer hinc hstale hfog
    have hmay : s.pod.ownInc ≠ 0 ∧ s.pod.stale = false ∧ inFog s = false := ⟨hinc, hstale, hfog⟩
    show execHbeatTimer n s = _
    simp only [execHbeatTimer, hst, hpeer, if_pos hmay]
  case heard => exact fun x s1 harrive hb => execHbeat_of_ok harrive hb
  case stillHeard =>
    intro hb hheard
    show execHeartbeatMissTimer n s = _
    simp only [execHeartbeatMissTimer, if_neg (not_not_intro hb), if_pos hheard]
  case missed =>
    intro hb hheard hmay
    show execHeartbeatMissTimer n s = _
    simp only [execHeartbeatMissTimer, if_neg (not_not_intro hb), hheard, Bool.false_eq_true, if_false, if_pos hmay]
  case dark => exact fun x s1 harrive hb => execDark_of_ok harrive hb
  case silenceOver => exact fun hb hover => congrArg _ (if_pos ⟨hb, hover⟩)

end

section
/-! Requests from other packages, replies to requests of this one, and notices of incarnations (R253 to R259, R291, R293, R310). -/

namespace Sys2Proof.Levels

open Sys2Proof Sys2Proof.Machine Sys2Proof.Laws Sys2Proof.Stated

variable {s s1 s2 : State} {src : Option Nat} {ty : Nat} {x : Txn}

/-! Requests (R255, R256). -/

/-- A request whose lines are free and whose reply may go is taken, its effect made, and its reply sent (R251). -/
theorem serveNow_of_ready {st : Nat} {write : Bool} {eff : State → Txn → Nat → Txn × State}
    (hfree : st = 0 → readyLines s write (linesOf (rqPPA x) (rqLen x)) = none) (hroom : replyRoom s1 (eff s1 x st).1 = true)
    (hsend : sendOn (countRefused (eff s1 x st).2 src st) (eff s1 x st).1 = some s2) : serveNow s s1 x st src write eff = s2 := by
  have hready : (if st = 0 then readyLines s write (linesOf (rqPPA x) (rqLen x)) else none) = none := by
    split
    · exact hfree ‹_›
    · rfl
  rw [serveNow, hready]
  simp only [hroom, if_true, hsend, Option.getD_some]

theorem serveReq_of_ok {write atomic : Bool} {eff : State → Txn → Nat → Txn × State} (harrive : arrive s src ty = .ok x s1) :
    serveReq s src ty write atomic eff = serveNow s s1 x (requestStatus s1 x atomic) src write eff := by
  simp only [serveReq, harrive]

/-- A command that serves requests of a type serves each as `Served` says. -/
theorem served_of_serveReq {c : Instr} {write atomic : Bool} {eff : State → Txn → Nat → Txn × State}
    (hc : exec c s = .next (serveReq s src ty write atomic eff)) : Served s src c ty write atomic eff := by
  intro x s1 s2 harrive st hfree hroom hsend
  rw [hc, serveReq_of_ok harrive, serveNow_of_ready hfree hroom hsend]

/-- What a DBELL makes of the state it arrives in: its ring is rung, or the refusal counted (R310). -/
def afterDbell (s : State) (src : Option Nat) (x : Txn) : State :=
  if dbellStatus s x = 0 then ringBell (wakeBy false s) (bits x.hi 19 0) (BitVec.ofNat 64 (leNat (x.data.take 8)))
  else countRefused s src (dbellStatus s x)

theorem exec_dbell_of_ok (harrive : arrive s src tDBELL = .ok x s1)
    (hroom : replyRoom (afterDbell s1 src x) (replyTo s1 x tWRACK false (dbellStatus s1 x) 0 []) = true)
    (hsend : sendOn (afterDbell s1 src x) (replyTo s1 x tWRACK false (dbellStatus s1 x) 0 []) = some s2) :
    exec (.dbell src) s = .next s2 := by
  show execDbell src s = _
  unfold afterDbell at hroom hsend
  simp only [execDbell, harrive, hroom, if_true, hsend, Option.getD_some]

/-! Replies (R255, R258). -/

/-- The request outstanding that a reply names by its tag and its sender. -/
def requestOf (s : State) (x : Txn) : Option RemReq := s.pod.reqs.find? (fun r => r.tag == x.tag && r.dst == x.src)

theorem reply_of_outstanding {r : RemReq} (harrive : arrive s src ty = .ok x s1) (hreq : requestOf s1 x = some r) :
    reply ty src s = deliverReply (closeReq s1 r) r x := by
  unfold requestOf at hreq
  simp only [reply, harrive, hreq]

theorem reply_of_unknown (harrive : arrive s src ty = .ok x s1) (hreq : requestOf s1 x = none) : reply ty src s = countDrop s1 src 47 32 := by
  unfold requestOf at hreq
  simp only [reply, harrive, hreq]

/-! Incarnation notices (R291, R293). -/

theorem exec_incnote_of_ok (harrive : arrive s src tINCNOTE = .ok x s1) : exec (.incnote src) s = .next (
    if bits x.hi 11 0 = ownId s1 then (if bits x.hi 27 12 = s1.pod.ownInc then s1 else goStale s1)
    else if incOf s1 (bits x.hi 11 0) ≠ 0 ∧ bits x.hi 27 12 = 0 then loseMember s1 (bits x.hi 11 0) (some x.src) else s1) := by
  show execIncnote src s = _
  simp only [execIncnote, harrive]

end Sys2Proof.Levels

open Sys2Proof.Machine Sys2Proof.Levels

/-- Settles O53: the four requests by `served_of_serveReq`, the replies by what `reply` makes of the request they name, and a notice by whom it is about. -/
theorem remoteRequestsAndReplies : Obligations.RemoteRequestsAndReplies := by
  unfold Obligations.RemoteRequestsAndReplies
  intro s src
  refine ⟨served_of_serveReq (exec_rd src s), served_of_serveReq rfl, served_of_serveReq rfl, served_of_serveReq rfl, ?dbell, ?rdrsp, ?wrack, ?atrsp,
    ?unknown, ?abandoned, ?writeAbandoned, ?notice⟩
  case dbell => exact fun x s1 s2 harrive hroom hsend => exec_dbell_of_ok harrive hroom hsend
  case rdrsp | wrack | atrsp => exact fun x s1 r harrive hreq => congrArg _ (reply_of_outstanding harrive hreq)
  case unknown => exact fun x s1 harrive hreq => congrArg _ (reply_of_unknown harrive hreq)
  case abandoned =>
    intro tag r hreq hstalls hwhy
    show execReqTimeout tag s = _
    simp only [execReqTimeout, hreq, hstalls, hwhy, Bool.false_eq_true, if_false]
  case writeAbandoned =>
    intro tag r p ch i hreq hstalls hwhy
    show execReqTimeout tag s = _
    simp only [execReqTimeout, hreq, hstalls, hwhy, Bool.false_eq_true, if_false]
  case notice =>
    intro x s1 harrive
    rw [exec_incnote_of_ok harrive]
    refine ⟨fun hown hinc => ?_, fun hown hinc => ?_, fun hother hmember hlost => ?_⟩
    · rw [if_pos hown, if_pos hinc]
    · rw [if_pos hown, if_neg hinc]
    · rw [if_neg hother, if_pos ⟨hmember, hlost⟩]

end

section
/-! Collectives and their segments (R273, R274, R278, R279, R283, R285). -/

namespace Sys2Proof.Levels

open Sys2Proof Sys2Proof.Machine

variable {s s1 s2 s3 : State} {grp n : Nat} {src : Option Nat} {x : Txn} {c : Coll} {f : Frame}

/-! The start. -/

/-- The collective `c` as it starts, with the sequence it took at its call and none of its segments opened. -/
def startedColl (c : Coll) : Coll := { c with started := true, nseg := (sbNELEM c.block + 511) / 512, opened := List.replicate 8 0 }

theorem exec_collectiveStart (grp : Nat) (s : State) : exec (.collectiveStart grp .none) s = .next (unitCollectiveStart grp .none s) :=
  congrArg _ (Laws.meetUnit_none _ _ _)

/-- The oldest collective of an idle group starts where it is the fixers' own or R273 lets it run. -/
theorem unitCollectiveStart_of_ok (hserving : serving s = true) (hawake : awake s = true) (hidle : collOf s grp = none)
    (holdest : s.pod.colls.find? (fun c => c.grp == grp) = some c) (hruns : c.fix.isSome = true ∨ stkOk s c = true) :
    unitCollectiveStart grp .none s = advanceColl .none (setColl s (startedColl c)) grp := by
  have hgoes : ¬ (!(serving s && awake s) || (collOf s grp).isSome) = true := by simp [hserving, hawake, hidle]
  have hallowed : ¬ (c.fix.isNone && !stkOk s c) = true := by
    rcases hruns with hfix | hok
    · simp [Option.isSome_iff_ne_none.mp hfix]
    · simp [hok]
  simp only [unitCollectiveStart, if_neg hgoes, holdest, if_neg hallowed, orShared]
  rfl

/-! What serving a segment does, by its verdict. -/

/-- The collective with the bytes of a segment that came in counted. -/
def withBytesOf (c : Coll) (x : Txn) : Coll := { c with bytesIn := c.bytesIn + csLen x }

theorem serveSeg_of_late (h : verdict s x = .late) : serveSeg .none s x = .done (bump s (rSTK_STATE (stkOf (csSEG x))) 37 22) := by
  simp only [serveSeg, h]

theorem serveSeg_of_hold (h : verdict s x = .hold) : serveSeg .none s x = .hold s := by
  simp only [serveSeg, h]

theorem joinUp_need (c : Coll) (f : Frame) (x : Txn) : (joinUp c f x).need = f.need.filter (· != x.src) := by
  unfold joinUp
  dsimp only
  split <;> rfl

/-- A frame still needs another child after one's contribution, unless that child was the only one it needed. -/
theorem joinUp_need_ne_nil (hother : f.need ≠ [x.src]) (hneeded : x.src ∈ f.need) (hnodup : f.need.Nodup) : (joinUp c f x).need ≠ [] := by
  rw [joinUp_need, ← hnodup.erase_eq_filter, Ne, List.erase_eq_nil_iff]
  exact not_or.mpr ⟨List.ne_nil_of_mem hneeded, hother⟩

theorem joinUp_need_eq_nil (hlast : f.need = [x.src]) : (joinUp c f x).need = [] := by
  simp [joinUp_need, hlast]

/-- A contribution that is not its frame's last joins the sum (R278). -/
theorem serveSeg_of_open (h : verdict s x = .up c f) (hopen : (joinUp (withBytesOf c x) f x).need ≠ []) :
    serveSeg .none s x = .done (setFrame (setColl s (withBytesOf c x)) (joinUp (withBytesOf c x) f x)) := by
  unfold withBytesOf at hopen ⊢
  simp only [serveSeg, h, if_pos hopen, laneCheck]

/-- The last contribution closes its frame, and the collective's next segments open (R278, R279). -/
theorem serveSeg_of_closed (h : verdict s x = .up c f) (hfull : (joinUp (withBytesOf c x) f x).need = [])
    (hclose : closeFrame (setFrame (setColl s (withBytesOf c x)) (joinUp (withBytesOf c x) f x)) (withBytesOf c x) (joinUp (withBytesOf c x) f x) =
      .ok (.ok ()) s3) : serveSeg .none s x = .done (advanceColl .none s3 c.grp) := by
  unfold withBytesOf at hfull hclose
  simp only [serveSeg, h, hfull, ne_eq, not_true_eq_false, if_false, hclose, laneCheck]

/-- A result that comes down is taken here and sent on (R279). -/
theorem serveSeg_of_down (h : verdict s x = .down c)
    (htake : takeResult s (withBytesOf c x) (csSEG x) (csPay x) (csCnt x) = .ok (.ok ()) s3) : serveSeg .none s x = .done s3 := by
  unfold withBytesOf at htake
  simp only [serveSeg, h, htake]

/-! Arrivals. -/

theorem takeTxn_of_arrive {ty : Nat} (h : arrive s src ty = .ok x s1) : takeTxn s src ty = some (x, s1) := by
  unfold arrive at h
  split at h
  case h_1 => cases h
  case h_2 htake =>
    rw [htake]
    split at h <;> split at h
    -- in the loop: fogged, or served
    · cases h
    · cases h; rfl
    -- from a port: dropped in the fog, dropped by its incarnation, or served
    · cases h
    · split at h <;> cases h
      rfl

/-- Taking an arrival asks nothing of the homes or the host: it touches its buffer and the buffer's slots alone. -/
theorem keepAsks_of_takeTxn {ty : Nat} (h : takeTxn s src ty = some (x, s1)) : keepAsks s s1 = s := by
  cases src with
  | none | some p =>
    obtain ⟨r, -, hr⟩ := Option.map_eq_some_iff.mp h
    cases hr
    rfl

theorem exec_collseg (src : Option Nat) (s : State) : exec (.collseg src .none) s = .next (unitCollseg src .none s) :=
  congrArg _ (Laws.meetUnit_none _ _ _)

theorem exec_collseg_of_done (harrive : arrive s src tCOLLSEG = .ok x s1) (hserve : serveSeg .none s1 x = .done s2) :
    exec (.collseg src .none) s = .next s2 := by
  simp only [exec_collseg, unitCollseg, harrive, orShared, hserve]

theorem exec_collseg_of_hold (harrive : arrive s src tCOLLSEG = .ok x s1) (hserve : serveSeg .none s1 x = .hold s1) :
    exec (.collseg src .none) s = .next (holdSeg (takeHeld s src) src x) := by
  simp only [exec_collseg, unitCollseg, harrive, orShared, hserve, keepAsks_of_takeTxn (takeTxn_of_arrive harrive)]

theorem exec_collsegAccept (n : Nat) (s : State) : exec (.collsegAccept n .none) s = .next (unitCollsegAccept n .none s) :=
  congrArg _ (Laws.meetUnit_none _ _ _)

theorem exec_collsegAccept_of_done {p : Nat} (hheld : s.pod.waiting[n]? = some (some p, x))
    (hserve : serveSeg .none (freeSlots { s with pod := { s.pod with waiting := s.pod.waiting.eraseIdx n } } p x) x = .done s2) :
    exec (.collsegAccept n .none) s = .next s2 := by
  simp only [exec_collsegAccept, unitCollsegAccept, hheld, orShared, hserve]

/-! Completion. -/

theorem exec_collectiveComplete (grp : Nat) (s : State) : exec (.collectiveComplete grp .none) s = .next (unitCollectiveComplete grp .none s) :=
  congrArg _ (Laws.meetUnit_none _ _ _)

/-- The write of a collective's report, which REP 0 leaves out (R285). -/
def writeReport (s : State) (c : Coll) : Acc Unit :=
  if sbREP c.block = 0 then .ok () s else cvaWrite s ⟨whoColl c.uid, c.ctx⟩ (sbREP c.block) (collReport c) false

/-- A collective that is done, and whose report is out where one is asked for, ends its call (R285). -/
theorem unitCollectiveComplete_of_done (hserving : serving s = true) (hruns : collOf (advanceColl .none s grp) grp = some c)
    (hdone : collDone (advanceColl .none s grp) c = true) (hreport : writeReport (advanceColl .none s grp) c = .ok () s2) :
    unitCollectiveComplete grp .none s = endCall (endHost (dropColl s2 c) (whoColl c.uid)) c.caller c.uid := by
  unfold writeReport at hreport
  simp only [unitCollectiveComplete, hserving, Bool.not_true, Bool.false_eq_true, if_false, orShared, hruns, hdone, hreport]

end Sys2Proof.Levels

open Sys2Proof Sys2Proof.Machine Sys2Proof.Levels

/-- Settles O27: a start by what R273 lets run, an arrival by what `serveSeg` makes of its verdict, also when it was held, and an end by its report. -/
theorem collectives : Obligations.Collectives := by
  unfold Obligations.Collectives
  intro s
  refine ⟨?start, fun src x s2 harrive => ⟨?late, ?hold, ?joins, ?closes, ?down⟩, ?accepted, ?silent, ?reported⟩
  case start =>
    intro grp c hserving hawake hidle holdest hruns
    rw [exec_collectiveStart, unitCollectiveStart_of_ok hserving hawake hidle holdest hruns]
    rfl
  case late => exact fun hlate => exec_collseg_of_done harrive (serveSeg_of_late hlate)
  case hold => exact fun hhold => exec_collseg_of_hold harrive (serveSeg_of_hold hhold)
  case joins =>
    intro c f hup hother hneeded hnodup
    exact exec_collseg_of_done harrive (serveSeg_of_open hup (joinUp_need_ne_nil hother hneeded hnodup))
  case closes =>
    intro c f s3 hup hlast c' hclose
    exact exec_collseg_of_done harrive (serveSeg_of_closed hup (joinUp_need_eq_nil hlast) hclose)
  case down => exact fun c s3 hdown htake => exec_collseg_of_done harrive (serveSeg_of_down hdown htake)
  case accepted =>
    intro n p x hheld s1 c f hup hother hneeded hnodup
    exact exec_collsegAccept_of_done hheld (serveSeg_of_open hup (joinUp_need_ne_nil hother hneeded hnodup))
  case silent =>
    intro grp c hserving hruns hdone hrep
    rw [exec_collectiveComplete, unitCollectiveComplete_of_done hserving hruns hdone (if_pos hrep)]
  case reported =>
    intro grp c s2 hserving hruns hdone hrep hwrite
    rw [exec_collectiveComplete, unitCollectiveComplete_of_done hserving hruns hdone ((if_neg hrep).trans hwrite)]

end

section
/-! Step 5 of the authenticated commands (R296, R297, R335, R430, R435, R481, R497). -/

namespace Sys2Proof.Levels

open Sys2Proof Sys2Proof.Machine

variable {s s1 s2 s3 : State} {n cmd : Nat} {x : Running} {pl : List Byte}

theorem atStep5_of_auth {f : State → Nat → Running → List Byte → State} (hserving : serving s = true) (hauth : authOf s cmd = some (n, x, pl)) :
    atStep5 s cmd f = f s n x pl := by
  simp only [atStep5, hserving, Bool.not_true, Bool.false_eq_true, if_false, hauth]

/-- A reset by command: its record first, the reset armed until that is out (R435). -/
theorem armReset_nil (s : State) (lvl n : Nat) (x : Running) : armReset s lvl n x [] =
    { report s n (auReport x.desc.word 0 true) with
      sec := { (report s n (auReport x.desc.word 0 true)).sec with auth := some (n, false, [BitVec.ofNat 8 lvl]) } } :=
  if_neg (not_not_intro rfl)

/-- Nothing keeps a change from being applied: steps are held, and none is in flight (R296). -/
theorem not_waits_of_held (hheld : s.pod.holdSteps = true) (hnone : noneInFlight s = true) : ¬ (!s.pod.holdSteps || !noneInFlight s) = true := by
  simp [hheld, hnone]

variable (hserving : serving s = true)
include hserving

theorem exec_podMembershipChange_of_parsed (hauth : authOf s 5 = some (n, x, pl)) (hparse : (parseChange pl).isSome = true) :
    exec .podMembershipChange s = .next (holdNew s true) := by
  show Host.Outcome.next (atStep5 s 5 _) = _
  rw [atStep5_of_auth hserving hauth, if_neg (by simpa using Option.isSome_iff_ne_none.mp hparse)]

theorem exec_membershipApply_of_parsed {c : Change} (hauth : authOf s 5 = some (n, x, pl)) (hheld : s.pod.holdSteps = true)
    (hnone : noneInFlight s = true) (hparse : parseChange pl = some c) :
    exec .membershipApply s = .next (authEnd (holdNew (applyChange s c) false) n x 0) := by
  show Host.Outcome.next (atStep5 s 5 _) = _
  rw [atStep5_of_auth hserving hauth, if_neg (not_waits_of_held hheld hnone), hparse]

theorem exec_incarnationSet_of_ok (hauth : authOf s 10 = some (n, x, pl)) (hlen : pl.length = 8) (hrange : leNat pl < 2 ^ 16)
    (hfresh : s.pod.stale = false) : exec .incarnationSet s = .next (holdNew s true) := by
  have hok : ¬ (pl.length ≠ 8 ∨ leNat pl / 2 ^ 16 ≠ 0 ∨ s.pod.stale = true) := by
    simpa [hlen, hfresh] using hrange
  show Host.Outcome.next (atStep5 s 10 _) = _
  rw [atStep5_of_auth hserving hauth, if_neg hok]

theorem exec_incarnationApply_of_held (hauth : authOf s 10 = some (n, x, pl)) (hheld : s.pod.holdSteps = true) (hnone : noneInFlight s = true) :
    exec .incarnationApply s = .next (authEnd (holdNew { s with pod := { s.pod with ownInc := leNat pl % 2 ^ 16 } } false) n x 0) := by
  show Host.Outcome.next (atStep5 s 10 _) = _
  rw [atStep5_of_auth hserving hauth, if_neg (not_waits_of_held hheld hnone)]

/-- With no context open and a payload as R429 lays it out, the rows are repaired once their result words can be written. -/
theorem exec_hbmRepairCommit_of_ok {ends : List RepairEnd} {gs : List Seg} (hauth : authOf s 7 = some (n, x, pl))
    (hclosed : s.sched.ctxs.any (fun e => e.1 != 0 && e.2.st == .openS) = false) (hlen : pl.length = 16 + 16 * leField pl 4 0)
    (hcount : between 1 16 (leField pl 4 0) = true) (hzero : leField pl 63 5 = 0) (halign : leField pl 127 64 % 4 = 0)
    (hrows : (wordsOf 128 16 (leField pl 4 0) (pl.drop 16)).all repairOk = true)
    (hsegs : segsOf s 0 (leField pl 127 64) (4 * leField pl 4 0) true false = .ok gs s1) (hready : segsReady s1 gs = .ok () s2)
    (hwrite : segsWriteNow ⟨whoRing n, 0⟩ (repairRows s2 (wordsOf 128 16 (leField pl 4 0) (pl.drop 16)) ends).2 gs
      ((repairRows s2 (wordsOf 128 16 (leField pl 4 0) (pl.drop 16)) ends).1.flatMap (leBytes 4)) = .ok () s3) :
    exec (.hbmRepairCommit ends) s = .next (authEnd s3 n x 0) := by
  have hok : ¬ (pl.length ≠ 16 + 16 * leField pl 4 0 ∨ ¬ between 1 16 (leField pl 4 0) = true ∨ leField pl 63 5 ≠ 0 ∨ leField pl 127 64 % 4 ≠ 0 ∨
      (wordsOf 128 16 (leField pl 4 0) (pl.drop 16)).all repairOk = false) := by
    rw [hrows]
    simp [← hlen, hcount, hzero, halign]
  show Host.Outcome.next (atStep5 s 7 _) = _
  rw [atStep5_of_auth hserving hauth]
  simp only [hclosed, Bool.false_eq_true, if_false, if_neg hok, hsegs, hready, hwrite]

theorem exec_debugUnlock_of_ok (hauth : authOf s 8 = some (n, x, pl)) (hlen : pl.length = 8) (hrange : leNat pl < 8) :
    exec .debugUnlock s = .next (authEnd { s with sec := { s.sec with scope := BitVec.ofNat 3 (leNat pl), vendor := false } } n x 0) := by
  have hok : ¬ (pl.length ≠ 8 ∨ leNat pl / 8 ≠ 0) := by simp [hlen, Nat.div_eq_of_lt hrange]
  show Host.Outcome.next (atStep5 s 8 _) = _
  rw [atStep5_of_auth hserving hauth, if_neg hok]

theorem exec_contactSheetEnable_of_ok (hauth : authOf s 9 = some (n, x, pl)) (hlen : pl.length = 8) (hrange : leNat pl < 2)
    (hlax : s.rst.strict = false) :
    exec .contactSheetEnable s = .next (authEnd { s with csw := { s.csw with authen := decide (leNat pl = 1) } } n x 0) := by
  have hok : ¬ (pl.length ≠ 8 ∨ leNat pl / 2 ≠ 0 ∨ s.rst.strict = true) := by simp [hlen, Nat.div_eq_of_lt hrange, hlax]
  show Host.Outcome.next (atStep5 s 9 _) = _
  rw [atStep5_of_auth hserving hauth, if_neg hok]

end Sys2Proof.Levels

open Sys2Proof Sys2Proof.Machine Sys2Proof.Levels

/-- Settles O35: each command finds its AUTH at step 5, passes its checks, and ends it or arms what follows. -/
theorem otherAuthCommands : Obligations.OtherAuthCommands := by
  unfold Obligations.OtherAuthCommands
  intro s n x pl hserving armed
  refine ⟨?package, ?domain, ?change, ?apply, ?incarnation, ?incarnationApply, ?repair, ?unlock, ?window⟩
  case package =>
    rintro hauth rfl
    exact congrArg _ ((atStep5_of_auth hserving hauth).trans (armReset_nil s 1 n x))
  case domain =>
    rintro hauth rfl
    exact congrArg _ ((atStep5_of_auth hserving hauth).trans (armReset_nil s 2 n x))
  case change => exact exec_podMembershipChange_of_parsed hserving
  case apply => exact fun c => exec_membershipApply_of_parsed hserving
  case incarnation => exact exec_incarnationSet_of_ok hserving
  case incarnationApply => exact exec_incarnationApply_of_held hserving
  case repair =>
    intro ends gs s1 s2 s3 hauth hclosed nent es hlen hcount hzero halign hrows hsegs hready r hwrite
    exact exec_hbmRepairCommit_of_ok hserving hauth hclosed hlen hcount hzero halign hrows hsegs hready hwrite
  case unlock => exact exec_debugUnlock_of_ok hserving
  case window => exact exec_contactSheetEnable_of_ok hserving

end

section
/-! What every step keeps of the fuses, of the messages sent, of the free values and of the queue: the other parts of `step_legal`. -/

open Sys2Proof.Levels

/-- Settles O4: the fuse part of `step_legal`. -/
theorem fusesOnlyGrow : Obligations.FusesOnlyGrow := by
  unfold Obligations.FusesOnlyGrow
  exact fun s t hstep => (step_legal hstep).fuses

/-- Settles O5: the parts of `step_legal` on messages, free values and the queue, which loses the command that the step takes. -/
theorem sentMessagesStand : Obligations.SentMessagesStand := by
  unfold Obligations.SentMessagesStand
  intro s t hstep
  have hlegal := step_legal hstep
  exact ⟨hlegal.sent, hlegal.free, hlegal.queue⟩

end

section
/-! Descriptors that are refused whatever their type: of a context closed, or with a reserved header bit (R317, R322, R332). -/

namespace Sys2Proof.Levels

open Sys2Proof Sys2Proof.Machine Sys2Proof.Laws Sys2Proof.Stated

variable {s : State} {n : Nat}

/-- A unit that runs a descriptor is not one left as at reset. -/
theorem runningUnit_ne_none {u : RingUnit} {x : Running} (h : u.running = some x) : u ≠ RingUnit.none := by
  rintro rfl
  cases h

theorem unitOf_setUnit_running {u : RingUnit} {x : Running} (h : u.running = some x) : unitOf (setUnit s n u) n = u := by
  simp only [unitOf, setUnit, tset, if_neg (runningUnit_ne_none h), tget_tput_same]

theorem setUnit_setUnit_running {u v : RingUnit} {x y : Running} (hu : u.running = some x) (hv : v.running = some y) :
    setUnit (setUnit s n u) n v = setUnit s n v := by
  simp only [setUnit, tset_tset n _ (runningUnit_ne_none hu) (runningUnit_ne_none hv)]

/-- Ring `n` has its front descriptor `d` to start, all but its context and its header being looked at (R318, R319). -/
structure AtFront (s : State) (n : Nat) (d : Desc) (t : List Desc) : Prop where
  serves : serving s = true
  awake  : awake s = true
  valid  : (ringOf s n).v = true
  runs   : (ringOf s n).err = false
  idle   : (unitOf s n).running = none
  ready  : (unitOf s n).ready = d :: t
  fence  : dFlag d.word 2 = true → fenceMet s n d.stamp false = true

/-- The ring as it stands once its front descriptor is refused. -/
def refusedFront (s : State) (n : Nat) (d : Desc) (t : List Desc) (code : Nat) : State :=
  setUnit s n { unitOf s n with ready := t, running := some { justTaken d with report := some (refusal d.word code) } }

variable {d : Desc} {t : List Desc} {is bad : DWord → Bool} {body : State → Ring → Running → Bool → State}

/-- A report of a descriptor just taken, of a type other than STEP, is the one that was given. -/
theorem report_justTaken (hstep : dType d.word ≠ 1) (code : Nat) :
    report (setUnit s n { unitOf s n with ready := t, running := some (justTaken d) }) n (refusal d.word code) = refusedFront s n d t code := by
  have hplain : ∀ u, ofUpdate u d = false := by
    intro u
    simp only [ofUpdate, Bool.and_eq_false_iff]
    exact .inl (beq_eq_false_iff_ne.2 hstep)
  unfold report
  rw [unitOf_setUnit_running (x := justTaken d) rfl]
  simp only [justTaken, Option.isNone_none, if_true, shownReport, hplain, Bool.false_eq_true, if_false]
  exact setUnit_setUnit_running rfl rfl

/-- A front descriptor is refused by its context first, and by its header then; no body looks at it (R322, R332). -/
theorem runDesc_refuses (h : AtFront s n d t) (his : is d.word = true) (hstep : dType d.word ≠ 1) :
    (ctxClosed s (ringOf s n).ctx = true → runDesc s n is bad body = refusedFront s n d t 0x0605) ∧
    (ctxClosed s (ringOf s n).ctx = false → headReserved d.word = true → runDesc s n is bad body = refusedFront s n d t 0x0606) := by
  have hmet : (dFlag d.word 2 && !fenceMet s n d.stamp false) = false := by
    cases hf : dFlag d.word 2 with
    | false => rfl
    | true => rw [h.fence hf]; rfl
  have hstarts : ∀ code, report (setUnit s n { unitOf s n with ready := t, running := some ⟨d, false, 0, 0, 0, 0, none, [], 0, []⟩ }) n
      (refusal d.word code) = refusedFront s n d t code := report_justTaken hstep
  constructor
  · intro hclosed
    simp [runDesc, h.serves, h.awake, h.valid, h.idle, h.ready, h.runs, his, hmet, hclosed, hstarts]
  · intro hopen hhead
    simp [runDesc, h.serves, h.awake, h.valid, h.idle, h.ready, h.runs, his, hmet, hopen, hhead, hstarts]

/-- A descriptor's command refuses a front descriptor of its type. -/
theorem exec_refuses {c : Instr} (h : AtFront s n d t) (hc : exec c s = .next (runDesc s n is bad body)) (his : is d.word = true)
    (hstep : dType d.word ≠ 1) :
    (ctxClosed s (ringOf s n).ctx = true → exec c s = .next (refusedFront s n d t 0x0605)) ∧
    (ctxClosed s (ringOf s n).ctx = false → headReserved d.word = true → exec c s = .next (refusedFront s n d t 0x0606)) := by
  obtain ⟨hclosed, hhead⟩ := runDesc_refuses (bad := bad) (body := body) h his hstep
  exact ⟨fun hc' => hc.trans (congrArg _ (hclosed hc')), fun ho hr => hc.trans (congrArg _ (hhead ho hr))⟩

end Sys2Proof.Levels

open Sys2Proof Sys2Proof.Machine Sys2Proof.Levels

/-- Settles O29: every type goes through `runDesc`, which refuses before it looks at the type. -/
theorem refusedDescriptors : Obligations.RefusedDescriptors := by
  unfold Obligations.RefusedDescriptors
  intro s n d t hserves hawake hvalid hruns hidle hready hfence taken refuses
  have hfront : AtFront s n d t := ⟨hserves, hawake, hvalid, hruns, hidle, hready, hfence⟩
  have typed {k : Nat} (hty : dType d.word = k) (hk : k ≠ 1) : dType d.word ≠ 1 := hty ▸ hk
  refine ⟨?nop, ?fence, ?copy, ?seals, ?verify, ?call, ?register, ?load, ?endOpen, ?endAbort, ?auth⟩
  case nop => exact fun hty => exec_refuses hfront rfl (beq_iff_eq.2 hty) (typed hty (by decide))
  case fence => exact fun hty => exec_refuses hfront rfl (beq_iff_eq.2 hty) (typed hty (by decide))
  case copy => exact fun hty => exec_refuses hfront (congrArg _ (meetUnit_none _ _ _)) (beq_iff_eq.2 hty) (typed hty (by decide))
  case seals =>
    exact fun hty hmode => exec_refuses hfront (congrArg _ (meetUnit_none _ _ _))
      (Bool.and_eq_true_iff.2 ⟨beq_iff_eq.2 hty, congrArg (!·) hmode⟩) (typed hty (by decide))
  case verify =>
    exact fun hty hmode => exec_refuses hfront (congrArg _ (meetUnit_none _ _ _))
      (Bool.and_eq_true_iff.2 ⟨beq_iff_eq.2 hty, hmode⟩) (typed hty (by decide))
  case call =>
    exact fun hty hmode => exec_refuses hfront rfl (Bool.and_eq_true_iff.2 ⟨beq_iff_eq.2 hty, congrArg (!·) hmode⟩) (typed hty (by decide))
  case register =>
    exact fun hty hmode => exec_refuses hfront rfl (Bool.and_eq_true_iff.2 ⟨beq_iff_eq.2 hty, hmode⟩) (typed hty (by decide))
  case load => exact fun hty => exec_refuses hfront rfl (beq_iff_eq.2 hty) (typed hty (by decide))
  case endOpen =>
    exact fun hty hmode => exec_refuses hfront rfl (Bool.and_eq_true_iff.2 ⟨beq_iff_eq.2 hty, congrArg (!·) hmode⟩) (typed hty (by decide))
  case endAbort =>
    exact fun hty hmode => exec_refuses hfront rfl (Bool.and_eq_true_iff.2 ⟨beq_iff_eq.2 hty, hmode⟩) (typed hty (by decide))
  case auth => exact fun hty => exec_refuses hfront rfl (beq_iff_eq.2 hty) (typed hty (by decide))

end

section
/-! Commands at step 5 of an AUTH, without one (R334, R335). -/

namespace Sys2Proof.Levels

open Sys2Proof Sys2Proof.Machine

theorem authOf_eq_none {s : State} (h : s.sec.auth = none) (cmd : Nat) : authOf s cmd = none := by
  simp only [authOf, h]

/-- With no AUTH in progress nothing is done at a step 5. -/
theorem atStep5_of_no_auth {s : State} (h : s.sec.auth = none) (cmd : Nat) (f : State → Nat → Running → List Byte → State) :
    atStep5 s cmd f = s := by
  unfold atStep5
  split
  · rfl
  · rw [authOf_eq_none h]

end Sys2Proof.Levels

open Sys2Proof Sys2Proof.Machine Sys2Proof.Levels

/-- Settles O36: each of the commands is made at a step 5, and `atStep5` finds no AUTH. -/
theorem commandsNeedAnAcceptedAuth : Obligations.CommandsNeedAnAcceptedAuth := by
  unfold Obligations.CommandsNeedAnAcceptedAuth
  intro c s t hexec hnone hcmd
  have stands {cmd : Nat} {f : State → Nat → Running → List Byte → State} (h : exec c s = .next (atStep5 s cmd f)) : t = s := by
    rw [hexec, atStep5_of_no_auth hnone] at h
    exact Host.Outcome.next.inj h
  obtain ⟨ends, rfl⟩ | hlisted := hcmd
  · exact stands (cmd := 7) rfl
  simp only [List.mem_cons, List.not_mem_nil, or_false] at hlisted
  obtain rfl | rfl | rfl | rfl | rfl | rfl | rfl | rfl | rfl | rfl | rfl | rfl | rfl := hlisted
  · exact stands (cmd := 1) rfl
  · exact stands (cmd := 1) rfl
  · exact stands (cmd := 2) rfl
  · exact stands (cmd := 2) rfl
  · exact stands (cmd := 3) rfl
  · exact stands (cmd := 4) rfl
  · exact stands (cmd := 5) rfl
  · exact stands (cmd := 5) rfl
  · exact stands (cmd := 6) rfl
  · exact stands (cmd := 8) rfl
  · exact stands (cmd := 9) rfl
  · exact stands (cmd := 10) rfl
  · exact stands (cmd := 10) rfl

end

section
/-! What memory traffic, messages and error records may change of a state, and what of a ring they leave alone. -/

namespace Sys2Proof.Levels

open Sys2Proof Sys2Proof.Machine Sys2Proof.Laws

/-- Parts of a state, beside those of `still`, that no memory traffic, message or error record changes: the contexts of the rings, the
scheduler, loupes, fixers and ports, the pod and the power state. -/
def lasting (s : State) :=
  (s.rings.ctx, s.sched, s.loupes, s.fixers, s.ports, s.pod, s.pwr)

@[simp] theorem lasting_setReg (s : State) (off : Nat) (v : BitVec 64) : lasting (setReg s off v) = lasting s := rfl
@[simp] theorem lasting_setField (s : State) (off hi lo v : Nat) : lasting (setField s off hi lo v) = lasting s := rfl
@[simp] theorem lasting_bump (s : State) (off hi lo n : Nat) : lasting (bump s off hi lo n) = lasting s := rfl
@[simp] theorem lasting_send (s : State) (m : Msg) : lasting (send s m) = lasting s := rfl
@[simp] theorem lasting_memWrite (s : State) (a : Nat) (bs : List Byte) : lasting (memWrite s a bs) = lasting s := rfl
@[simp] theorem lasting_setPoison (s : State) (l : Nat) (b : Bool) : lasting (setPoison s l b) = lasting s := rfl
@[simp] theorem lasting_post (s : State) (m : CohMsg) : lasting (post s m) = lasting s := rfl
@[simp] theorem lasting_dropCopies (s : State) (line : Nat) : lasting (dropCopies s line) = lasting s := rfl
@[simp] theorem lasting_wakeWatch (s : State) (host : Bool) (line : Nat) : lasting (wakeWatch s host line) = lasting s := rfl
@[simp] theorem lasting_setUnit (s : State) (n : Nat) (u : RingUnit) : lasting (setUnit s n u) = lasting s := rfl

theorem lasting_foldl {α : Type} {f : State → α → State} (hf : ∀ s a, lasting (f s a) = lasting s) (l : List α) (s : State) :
    lasting (l.foldl f s) = lasting s :=
  foldl_keeps (fun u => lasting u = lasting s) f (fun u a hu => (hf u a).trans hu) l s rfl

@[simp] theorem lasting_logOnce (s : State) (off : Nat) (v : BitVec 64) : lasting (logOnce s off v) = lasting s := by
  unfold logOnce
  split <;> rfl

@[simp] theorem lasting_snoopAll (s : State) (line : Nat) : lasting (snoopAll s line) = lasting s :=
  lasting_foldl (f := fun u a => missed u line a) (fun _ _ => rfl) _ s

@[simp] theorem lasting_invalidate (s : State) (line : Nat) : lasting (invalidate s line) = lasting s := by
  have hdrop : lasting (dropCopies (snoopAll s line) line) = lasting s := by simp
  rw [← hdrop]
  unfold invalidate lasting
  dsimp only
  split <;> rfl

@[simp] theorem lasting_lineWrite (s : State) (line off : Nat) (bs : List Byte) (poison : Bool) : lasting (lineWrite s line off bs poison) = lasting s := by
  unfold lineWrite
  dsimp only
  repeat' split
  all_goals simp

@[simp] theorem lasting_devWriteNow (s : State) (a : Nat) (bs : List Byte) : lasting (devWriteNow s a bs) = lasting s :=
  lasting_foldl (f := fun u (p : Nat × Nat × List Byte) => lineWrite u p.1 p.2.1 p.2.2 false) (fun _ _ => lasting_lineWrite _ _ _ _ _) _ s

@[simp] theorem lasting_devSend (s : State) (a : Nat) (bs : List Byte) : lasting (devSend s a bs) = lasting s := by
  refine lasting_foldl (fun u x => ?_) _ s
  split <;> simp

theorem lasting_readyLines {s t : State} {write : Bool} {lines : List Nat} (h : readyLines s write lines = some t) : lasting t = lasting s := by
  simp only [readyLines] at h
  split at h
  · cases h
  · cases h
    refine lasting_foldl (fun u l => ?_) _ s
    unfold askHome
    dsimp only
    repeat' split
    all_goals rfl

/-! Accesses. -/

theorem lasting_answer {α : Type} {s : State} {x y : Acc α} (hx : lasting (accState x) = lasting s) (h : x = y) : lasting (accState y) = lasting s :=
  h ▸ hx

theorem lasting_bind {α β : Type} {s : State} {x : Acc α} {f : α → State → Acc β} (hx : lasting (accState x) = lasting s)
    (hf : ∀ a u, lasting (accState (f a u)) = lasting u) : lasting (accState (x.bind f)) = lasting s := by
  cases x with
  | ok a u => exact (hf a u).trans hx
  | wait u => exact hx
  | bad c a u => exact hx

theorem lasting_devWrite (s : State) (a : Nat) (bs : List Byte) : lasting (accState (devWrite s a bs)) = lasting s := by
  unfold devWrite
  split
  next h => exact lasting_readyLines h
  next => exact lasting_devWriteNow s a bs

theorem lasting_hostPieces (s : State) (a n : Nat) (write : Bool) : lasting (accState (hostPieces s a n write)) = lasting s := by
  have hask (u : State) (pg : Nat) : lasting (askAts u pg) = lasting u := by
    unfold askAts
    split <;> rfl
  unfold hostPieces
  dsimp only
  repeat' split
  case isTrue.isTrue => exact lasting_foldl hask _ s
  all_goals rfl

@[simp] theorem lasting_hostWriteLine (r : Req) (s : State) (p : Nat × Nat × List Byte) : lasting (hostWriteLine r s p) = lasting s := by
  have hnote (u : State) (h : Nat) : lasting (noteWrote u r h) = lasting u := by
    unfold noteWrote
    repeat' split
    all_goals rfl
  unfold hostWriteLine
  dsimp only
  rw [lasting_send, hnote]
  rfl

theorem lasting_hostWrite (s : State) (r : Req) (a : Nat) (bs : List Byte) : lasting (accState (hostWrite s r a bs)) = lasting s := by
  unfold hostWrite
  split
  · split <;> rfl
  · refine lasting_bind (lasting_hostPieces s a _ true) fun ps u => ?_
    refine foldl_keeps (fun x : State × List Byte => lasting x.1 = lasting u) _ (fun x p hx => ?_) ps (u, bs) rfl
    exact (lasting_foldl (lasting_hostWriteLine r) _ x.1).trans hx

/-! Vectors and error records. -/

@[simp] theorem lasting_sendVec (s : State) (v : Nat) : lasting (sendVec s v) = lasting s := by
  unfold sendVec
  repeat' split
  all_goals rfl

@[simp] theorem lasting_errVisible (s : State) : lasting (errVisible s) = lasting s := by
  unfold errVisible
  split
  · exact lasting_sendVec s _
  · rfl

@[simp] theorem lasting_writeErr (s : State) : lasting (writeErr s) = lasting s := by
  unfold writeErr
  dsimp only
  split
  next => rfl
  next =>
    split
    next => rfl
    next =>
      split
      next =>
        split
        all_goals next heq => exact lasting_answer (lasting_hostWrite s _ _ _) heq
      next =>
        split
        next heq => exact (lasting_errVisible _).trans (lasting_answer (lasting_devWrite s _ _) heq)
        all_goals next heq => exact lasting_answer (lasting_devWrite s _ _) heq

@[simp] theorem lasting_flushErrs (n : Nat) (s : State) : lasting (flushErrs n s) = lasting s := by
  induction n generalizing s with
  | zero => rfl
  | succ n ih =>
    unfold flushErrs
    split <;> simp [ih]

@[simp] theorem lasting_pushErr (s : State) (r : ErrRec) : lasting (pushErr s r) = lasting s := by
  unfold pushErr
  split
  · rfl
  · split
    · unfold setAlert driveAlert
      split <;> rfl
    · exact lasting_flushErrs _ _

/-! Ring contexts. -/

theorem ringOf_of_lasting {s t : State} (h : lasting t = lasting s) (n : Nat) : ringOf t n = ringOf s n :=
  congrArg (tget Ring.none · n) (congrArg Prod.fst h)

theorem validRing_ne_none {r : Ring} (h : r.v = true) : r ≠ Ring.none := by
  rintro rfl
  cases h

theorem ringOf_setRing {r : Ring} (s : State) (n : Nat) (h : r.v = true) : ringOf (setRing s n r) n = r := by
  simp only [ringOf, setRing, tset, if_neg (validRing_ne_none h), tget_tput_same]

/-- A ring that is put is the one that is read, whether its table entry is written now or when it leaves the chip (R315). -/
theorem ringOf_putRing {r : Ring} (s : State) (n : Nat) (h : r.v = true) : ringOf (putRing s n r) n = r := by
  unfold putRing
  dsimp only
  split
  · exact ringOf_setRing s n h
  · exact (ringOf_of_lasting (lasting_devSend _ _ _) n).trans (ringOf_setRing s n h)

end Sys2Proof.Levels
end

section
/-! Doorbells (R307 to R309, R313, R329) and the RING_CTRL window (R304, R306, R330, R336). -/

namespace Sys2Proof.Levels

open Sys2Proof Sys2Proof.Machine Sys2Proof.Laws

variable {s : State} {n : Nat} {r : Ring}

/-- A ring that stops keeps its indices: only ERR and ERRCODE change (R329). -/
theorem ringOf_stopRing (hv : (ringOf s n).v = true) (code index : Nat) (vec : Bool) :
    ringOf (stopRing s n code index vec) n = { ringOf s n with err := true, errcode := code } := by
  have hkeeps : lasting (stopRing s n code index vec) = lasting (putRing s n { ringOf s n with err := true, errcode := code }) := by
    unfold stopRing
    dsimp only
    cases vec <;> simp
  exact (ringOf_of_lasting hkeeps n).trans (ringOf_putRing s n hv)

/-- A doorbell whose TAIL differs sets it, and nothing else of the ring (R308). -/
theorem ringOf_setTail (hv : r.v = true) (tail : Nat) : ringOf (setTail s n r tail) n = { r with tail := tail } :=
  ringOf_putRing _ n hv

section
/-! The ring is valid and not stopped. -/

variable {w : Word} (hv : (ringOf s n).v = true) (herr : (ringOf s n).err = false)
include hv herr

theorem ringBell_of_reserved (hbad : bits w 63 48 ≠ 0 ∨ bits w 43 40 ≠ 0 ∨ bits w 47 45 ≠ 0) : ringBell s n w = bump s rRING_DBDROP 31 16 := by
  simp only [ringBell, hv, herr, if_pos hbad, Bool.not_true, Bool.false_eq_true, if_false]

variable (hgood : ¬ (bits w 63 48 ≠ 0 ∨ bits w 43 40 ≠ 0 ∨ bits w 47 45 ≠ 0))
include hgood

theorem ringBell_of_far (hfar : 2 ^ (ringOf s n).logsize < ahead (ringOf s n) (bits w 23 0)) :
    ringBell s n w = stopRing s n 0x0607 (bits w 23 0) := by
  simp only [ringBell, hv, herr, if_neg hgood, if_pos hfar, Bool.not_true, Bool.false_eq_true, if_false]

/-- A TAIL in range: the hint is taken, and the TAIL where it differs (R308, R313). -/
theorem ringBell_of_near (hnear : ¬ 2 ^ (ringOf s n).logsize < ahead (ringOf s n) (bits w 23 0)) : ringBell s n w =
    (let s1 := setUnit s n { unitOf s n with hint := if bit w 44 then some (hintTicks (bits w 39 24)) else none }
     if bits w 23 0 = (ringOf s n).tail then s1 else setTail s1 n (ringOf s n) (bits w 23 0)) := by
  simp only [ringBell, hv, herr, if_neg hgood, if_neg hnear, Bool.not_true, Bool.false_eq_true, if_false]

end

/-- The doorbell of ring `n` stands at its place in BAR2 (R307). -/
theorem execDoorbell_of_ring (hn : n < 2 ^ 20) (hserves : serving s = true) (w : Word) :
    execDoorbell (4096 * (n / 512) + 8 * (n % 512)) 8 w s = .next (ringBell (wakeBy false s) n w) := by
  have hsplit := Nat.div_add_mod n 512
  have hlow := Nat.mod_lt n (show 512 > 0 by decide)
  generalize n / 512 = page at hsplit ⊢
  generalize n % 512 = bell at hsplit hlow ⊢
  have hpage : (4096 * page + 8 * bell) / 4096 = page := by omega
  have hbell : (4096 * page + 8 * bell) % 4096 = 8 * bell := by omega
  have hring : 512 * ((4096 * page + 8 * bell) / 4096) + (4096 * page + 8 * bell) % 4096 / 8 = n := by
    rw [hpage, hbell, Nat.mul_div_cancel_left bell (by decide), hsplit]
  have haligned : (4096 * page + 8 * bell) % 8 = 0 := by omega
  have hinside : 4096 * page + 8 * bell < 8388608 := by omega
  have hplace : (serving s && (8 == 8) && ((4096 * page + 8 * bell) % 8 == 0) && decide (4096 * page + 8 * bell < 2 ^ 23)) = true := by
    simp [hserves, haligned, hinside]
  unfold execDoorbell
  rw [if_pos hplace, hring]

/-! The RING_CTRL window, on a page that answers. -/

@[simp] theorem wakeBy_rings (dark : Bool) (s : State) : (wakeBy dark s).rings = s.rings := by
  unfold wakeBy
  dsimp only
  split
  · split <;> rfl
  · split <;> rfl

/-- Two steps of a fold that agree where `P` holds, which they keep, fold to the same. -/
theorem foldl_congr_of_keeps {σ α : Type} {f g : σ → α → σ} (P : σ → Prop) (hkeep : ∀ u a, P u → P (g u a)) (hagree : ∀ u a, P u → f u a = g u a) :
    ∀ (l : List α) {u : σ}, P u → l.foldl f u = l.foldl g u
  | [], _, _ => rfl
  | a :: l, u, hu => by
    rw [List.foldl_cons, List.foldl_cons, hagree u a hu]
    exact foldl_congr_of_keeps P hkeep hagree l (hkeep u a hu)

/-- Word `i` of the context of ring `k` (R301). -/
def contextWord (s : State) (k : BitVec 20) (i : Nat) : BitVec 64 :=
  BitVec.ofNat 64 (bits (ringBits (ringOf (wakeBy false s) k.toNat)) (64 * i + 63) (64 * i))

/-- The words shown are of the context as it stands, whichever of them are shown already. -/
theorem showContext_eq (s : State) (k : BitVec 20) :
    (List.range 8).foldl (fun u i => setReg u (rRING_DATA0 + 8 * i) (contextWord u k i)) (showRing (wakeBy false s) k) =
    (List.range 8).foldl (fun u i => setReg u (rRING_DATA0 + 8 * i) (contextWord s k i)) (showRing (wakeBy false s) k) := by
  generalize List.range 8 = l
  refine foldl_congr_of_keeps (fun u : State => u.rings = s.rings) ?_ ?_ l (u := showRing (wakeBy false s) k) (wakeBy_rings false s)
  · exact fun u i hu => hu
  · intro u i hu
    have hring : ringOf (wakeBy false u) k.toNat = ringOf (wakeBy false s) k.toNat := by simp [ringOf, hu]
    simp only [contextWord, hring]

section

variable {k : BitVec 20} (hopen : pageOpen s rRING_CTRL = true)
include hopen

theorem execRingCtrlRead_of_open : execRingCtrlRead k s = .next ((List.range 8).foldl (fun u i =>
    setReg u (rRING_DATA0 + 8 * i) (contextWord s k i)) (showRing (wakeBy false s) k)) :=
  congrArg Host.Outcome.next (if_neg (by simp [hopen]))

/-- While the ring's group is in reset an enable is latched (R362). -/
theorem execRingCtrlWrite_of_group_in_reset (hgroup : groupInReset (showRing (wakeBy false s) k) k.toNat = true)
    (hv : bit (ringWindow (showRing (wakeBy false s) k)) 0 = true) :
    execRingCtrlWrite k s = .next (
      let s1 := showRing (wakeBy false s) k
      { s1 with rings := { s1.rings with latched := tput s1.rings.latched k.toNat (ringWindow s1) } }) := by
  refine congrArg Host.Outcome.next ((if_neg (by simp [hopen])).trans ?_)
  exact (if_pos hgroup).trans (if_pos hv)

theorem execRingCtrlWrite_of_group_up (hgroup : groupInReset (showRing (wakeBy false s) k) k.toNat = false) :
    execRingCtrlWrite k s = .next (tryWrite (showRing (wakeBy false s) k) k.toNat (ringWindow (showRing (wakeBy false s) k))) := by
  refine congrArg Host.Outcome.next ((if_neg (by simp [hopen])).trans ?_)
  exact if_neg (by simp [hgroup])

theorem execRingCtrlReset_of_open : execRingCtrlReset k s = .next (
    let s1 := showRing (wakeBy false s) k
    let no := (unitOf s1 k.toNat).running.isSome || !serving s1
    let s2 := setField s1 rRING_CTRL 23 23 (b2n no)
    if no || !(ringOf s2 k.toNat).v then s2 else resetRing s2 k.toNat) :=
  congrArg Host.Outcome.next (if_neg (by simp [hopen]))

end

theorem tryWrite_of_refused {w : BitVec 512} (hno : writeRefused s n w = true ∨ serving s = false) :
    tryWrite s n w = setField s rRING_CTRL 23 23 1 := by
  have hno' : (writeRefused s n w || !serving s) = true := by
    obtain h | h := hno <;> simp [h]
  simp only [tryWrite, hno', if_true]
  rfl

theorem tryWrite_of_accepted {w : BitVec 512} (hok : writeRefused s n w = false) (hserves : serving s = true) :
    tryWrite s n w = writeRing (setField s rRING_CTRL 23 23 0) n (ringFrom w) := by
  simp only [tryWrite, hok, hserves, Bool.not_true, Bool.or_self, Bool.false_eq_true, if_false]
  rfl

/-- A WRITE of an enabled ring leaves it as its window gives it (R304). -/
theorem ringOf_writeRing (s : State) (n : Nat) (hv : r.v = true) : ringOf (writeRing s n r) n = r := by
  unfold writeRing
  dsimp only
  rw [if_pos hv]
  exact ringOf_putRing _ n hv

theorem writeRing_of_disabled (s : State) (n : Nat) (hv : r.v = false) : writeRing s n r = removeRing s n :=
  if_neg (by simp [hv])

/-- A ring that is reset keeps its configuration, with its indices and its error zero (R330). -/
theorem ringOf_resetRing (hv : (ringOf s n).v = true) :
    ringOf (resetRing s n) n = { ringOf s n with head := 0, tail := 0, done := 0, err := false, errcode := 0 } :=
  ringOf_putRing _ n hv

end Sys2Proof.Levels

open Sys2Proof Sys2Proof.Machine Sys2Proof.Levels

/-- Settles O37: `ringBell` goes through R309's cases in their order; a ring that stops and one that takes a TAIL are put back. -/
theorem doorbellCases : Obligations.DoorbellCases := by
  unfold Obligations.DoorbellCases
  intro s n w hn hserves s1 r tail bad far hint
  refine ⟨ringBell s1 n w, execDoorbell_of_ring hn hserves w, ?invalid, ?stopped, ?reserved, ?far, ?same, ?sets⟩
  case invalid => exact fun hv => if_pos (by simp [r, hv])
  case stopped => exact fun hv herr => (if_neg (by simp [r, hv])).trans (if_pos herr)
  case reserved => exact fun hv herr hbad => ringBell_of_reserved hv herr hbad
  case far =>
    intro hv herr hgood hfar
    rw [ringBell_of_far hv herr hgood hfar]
    exact ringOf_stopRing hv _ _ _
  case same =>
    intro hv herr hgood hnear htail
    rw [ringBell_of_near hv herr hgood hnear]
    exact if_pos htail
  case sets =>
    intro hv herr hgood hnear htail
    rw [ringBell_of_near hv herr hgood hnear]
    exact (congrArg (ringOf · n) (if_neg htail)).trans (ringOf_setTail hv tail)

/-- Settles O40: each command of the window by its lemma, and what a WRITE and a RESET leave of the ring by `ringOf_putRing`. -/
theorem ringControl : Obligations.RingControl := by
  unfold Obligations.RingControl
  intro s k hopen n s1 w
  refine ⟨?read, ?latched, ?refused, ?enabled, ?removed, ?resetRefused, ?reset⟩
  case read => exact (execRingCtrlRead_of_open hopen).trans (congrArg Host.Outcome.next (showContext_eq s k).symm)
  case latched => exact execRingCtrlWrite_of_group_in_reset hopen
  case refused =>
    exact fun hgroup hno => (execRingCtrlWrite_of_group_up hopen hgroup).trans (congrArg Host.Outcome.next (tryWrite_of_refused hno))
  case enabled =>
    intro hgroup hok hserves hv
    refine ⟨_, (execRingCtrlWrite_of_group_up hopen hgroup).trans (congrArg Host.Outcome.next (tryWrite_of_accepted hok hserves)), ?_⟩
    exact ringOf_writeRing _ n hv
  case removed =>
    intro hgroup hok hserves hv
    refine (execRingCtrlWrite_of_group_up hopen hgroup).trans (congrArg Host.Outcome.next ((tryWrite_of_accepted hok hserves).trans ?_))
    exact writeRing_of_disabled _ n hv
  case resetRefused =>
    intro hbusy
    have hno : ((unitOf s1 n).running.isSome || !serving s1) = true := by
      obtain h | h := hbusy <;> simp [h]
    refine (execRingCtrlReset_of_open hopen).trans (congrArg Host.Outcome.next ?_)
    simp only [s1, n] at hno
    simp only [hno, Bool.true_or, if_true]
    rfl
  case reset =>
    intro hidle hserves hv
    have hyes : ((unitOf s1 n).running.isSome || !serving s1) = false := by simp [hidle, hserves]
    refine ⟨resetRing (setField s1 rRING_CTRL 23 23 0) n, (execRingCtrlReset_of_open hopen).trans (congrArg Host.Outcome.next ?_), ringOf_resetRing hv⟩
    have hvalid : (ringOf (setField s1 rRING_CTRL 23 23 0) n).v = true := hv
    simp only [s1, n] at hyes hvalid
    simp only [hyes, b2n, Bool.false_eq_true, if_false, hvalid, Bool.not_true, Bool.or_self, s1, n]

end

section
/-! The ring unit (R311, R314 to R316): watched lines, the rings on chip, and the reads of descriptors. -/

namespace Sys2Proof.Levels

open Sys2Proof Sys2Proof.Machine Sys2Proof.Laws

variable {s s1 : State} {n : Nat}

@[simp] theorem ringOf_wakeBy (dark : Bool) (s : State) (n : Nat) : ringOf (wakeBy dark s) n = ringOf s n := by simp [ringOf]

/-- A watched line that is to be read again is read at its home, or as a line of the host (R311). -/
theorem readWatched_of_reread (hserves : serving s = true) (hv : (ringOf s n).v = true) (hwatch : (ringOf s n).watch = true)
    (hreread : (unitOf s n).reread = true) : readWatched n s =
      if (ringOf s n).whost then watchHost (wakeBy false s) n else watchDevice (wakeBy false s) n (lineOf (ringOf s n).wline) :=
  if_neg (by simp [hserves, hv, hwatch, hreread])

section
/-! A watched line of the host, its address translated. -/

variable {ps : List (Nat × Nat)} (hpieces : hostPieces s (ringOf s n).wline 64 false = .ok ps s1)
include hpieces

theorem watchHost_of_cached {l : HlcLine} (hline : hlcLine s1 (watchedLine s1 (ringOf s n)) = some l) :
    watchHost s n = watchTake s1 n (watchedLine s1 (ringOf s n)) l := by
  simp only [watchHost, hpieces, hline]

/-- A line that the cache does not hold is asked for once (R370). -/
theorem watchHost_of_absent (hline : hlcLine s1 (watchedLine s1 (ringOf s n)) = none) (hup : hostUp s1 = true) (hflows : linkHeld s1 = false)
    (hout : ∀ o ∈ s1.coh.hout, o.who ≠ whoWatch n) (hfills : ∀ f ∈ s1.coh.fills, f.1 ≠ watchedLine s1 (ringOf s n)) :
    watchHost s n = send { s1 with coh := { s1.coh with
      hout := s1.coh.hout ++ [⟨watchedLine s1 (ringOf s n), .rdShared, whoWatch n, 0, none⟩] } } (.cxl mRdShared (watchedLine s1 (ringOf s n) * 64) []) := by
  have hasks : (linkHeld s1 || s1.coh.hout.any (fun o => o.who == whoWatch n) || s1.coh.fills.any (fun x => x.1 == watchedLine s1 (ringOf s n))) = false := by
    simp only [hflows, Bool.false_or, Bool.or_eq_false_iff, List.any_eq_false, beq_iff_eq]
    exact ⟨hout, hfills⟩
  simp only [watchHost, hpieces, hline, hasks, hup, Bool.not_true, Bool.false_eq_true, if_false]

end

/-- A watched line of device memory that its home can give, with room for it in the directory (R371, R375). -/
theorem watchDevice_of_ready {line : Nat} (hready : readyLines s false [line] = none) (hroom : dirOf s line ≠ .i ∨ (setEntries s line).length < 16)
    (hgood : (lineNow s line).2 = false) :
    watchDevice s n line = watchHeld (shareLine s line) n (BitVec.ofNat 64 (leNat ((lineNow s line).1.take 8))) := by
  have hfits : ¬ (dirOf s line = .i ∧ 16 ≤ (setEntries s line).length) := by
    rintro ⟨hi, hfull⟩
    exact hroom.elim (fun h => h hi) (Nat.not_lt.2 hfull)
  simp only [watchDevice, hready, if_neg hfits, hgood, Bool.false_eq_true, if_false]

section
/-! The next pending ring, in the order of R316. -/

variable (hserves : serving s = true) (hawake : awake s = true) (hnext : isNext s (ringsWith s (·.pend)) n = true)
include hserves hawake hnext

theorem execPendingRingFetch_of_room (hroom : (ringsWith s (·.onchip)).length < 16384) : execPendingRingFetch n s = .next (cacheRing s n) :=
  congrArg Host.Outcome.next ((if_neg (by simp [hserves, hawake, hnext])).trans (if_pos hroom))

theorem execPendingRingFetch_of_full {v : Nat} (hfull : 16384 ≤ (ringsWith s (·.onchip)).length)
    (hv : leastServed s ((ringsWith s (·.onchip)).filter (droppable s)) = some v) : execPendingRingFetch n s = .next (cacheRing (dropRing s v) n) := by
  refine congrArg Host.Outcome.next ((if_neg (by simp [hserves, hawake, hnext])).trans ((if_neg (Nat.not_lt.2 hfull)).trans ?_))
  rw [hv]

end

/-- What a descriptor's read leaves: it joins what is ready, HEAD counts it, and the ring was served (R316). -/
def fetched (s : State) (n : Nat) (r : Ring) (d : Desc) : State :=
  setRing (setUnit { s with rings := { s.rings with services := s.rings.services + 1, last := s.rings.last.set r.prio n } } n
    { unitOf s n with ready := (unitOf s n).ready ++ [d], served := s.rings.services + 1 }) n { r with head := (r.head + 1) % 2 ^ 24 }

theorem fetchDesc_of_read {bs : List Byte} (hnow : fetchesNow s n = true)
    (hread : ringRead s (whoFetch n) (ringOf s n).ctx (ringOf s n).dhost ((ringOf s n).dbase + 64 * ((ringOf s n).head % 2 ^ (ringOf s n).logsize)) 64 =
      .ok bs s1) : fetchDesc n s = fetched (endHost s1 (whoFetch n)) n (ringOf s n)
        ⟨(ringOf s n).head, BitVec.ofNat 512 (leNat bs), stampOf (ringOf s n) (unitOf (endHost s1 (whoFetch n)) n).marks (ringOf s n).head⟩ := by
  refine (if_neg (by simp [hnow])).trans ?_
  dsimp only
  rw [hread]
  rfl

theorem ringOf_fetched {r : Ring} (hv : r.v = true) (d : Desc) : ringOf (fetched s n r d) n = { r with head := (r.head + 1) % 2 ^ 24 } :=
  ringOf_setRing _ n hv

theorem ready_fetched (s : State) (n : Nat) (r : Ring) (d : Desc) : (unitOf (fetched s n r d) n).ready = (unitOf s n).ready ++ [d] := by
  have hsome : ({ unitOf s n with ready := (unitOf s n).ready ++ [d], served := s.rings.services + 1 } : RingUnit) ≠ RingUnit.none := by
    intro h
    have := congrArg RingUnit.ready h
    simp [RingUnit.none] at this
  simp only [fetched, unitOf, setRing, setUnit] at hsome ⊢
  rw [tset, if_neg hsome, tget_tput_same]

end Sys2Proof.Levels

open Sys2Proof Sys2Proof.Machine Sys2Proof.Levels

/-- Settles O38: the ring unit's four tasks, each where it may be done. -/
theorem ringUnitWork : Obligations.RingUnitWork := by
  unfold Obligations.RingUnitWork
  intro s n hserves hv r u
  refine ⟨?host, ?device, ?pending, ?fetch⟩
  case host =>
    intro ps s2 hwatch hreread hhost hpieces h
    have hexec : exec (.watchedLineInvalidate n .none) s = .next (watchHost (wakeBy false s) n) :=
      congrArg Host.Outcome.next ((meetUnit_none _ _ _).trans ((readWatched_of_reread hserves hv hwatch hreread).trans (if_pos hhost)))
    have hring : ringOf (wakeBy false s) n = r := ringOf_wakeBy false s n
    rw [← hring] at hpieces
    have hh : watchedLine s2 (ringOf (wakeBy false s) n) = h := by rw [hring]
    refine ⟨fun l hline => ?_, fun hline hup hflows hout hfills => ?_⟩
    · rw [← hh] at hline
      rw [hexec, watchHost_of_cached hpieces hline, hh]
      rfl
    · rw [← hh] at hline hfills
      rw [hexec, watchHost_of_absent hpieces hline hup hflows hout hfills, hh]
  case device =>
    intro hwatch hreread hdev s1 line hready hroom hgood
    refine congrArg Host.Outcome.next ((meetUnit_none _ _ _).trans ((readWatched_of_reread hserves hv hwatch hreread).trans ?_))
    exact (if_neg (ne_true_of_eq_false hdev)).trans (watchDevice_of_ready hready hroom hgood)
  case pending =>
    intro hawake hnext
    exact ⟨execPendingRingFetch_of_room hserves hawake hnext, fun v => execPendingRingFetch_of_full hserves hawake hnext⟩
  case fetch =>
    intro bs s2 hawake hnext hread d
    have hnow : fetchesNow s n = true := by simp [fetchesNow, hserves, hawake, hnext]
    refine ⟨fetched (endHost s2 (whoFetch n)) n r d, ?_, ringOf_fetched hv d, ready_fetched _ n r d⟩
    exact congrArg Host.Outcome.next ((meetUnit_none _ _ _).trans (fetchDesc_of_read hnow hread))

end

section
/-! The completion of a descriptor (R324, R327, R328, R490). -/

namespace Sys2Proof.Levels

open Sys2Proof Sys2Proof.Machine

/-- Ring `n` is not stopped and runs `x`, which has its report `p`, to be recorded. -/
structure Finished (s : State) (n : Nat) (x : Running) (p : Report) : Prop where
  serves   : serving s = true
  valid    : (ringOf s n).v = true
  runs     : (ringOf s n).err = false
  running  : (unitOf s n).running = some x
  report   : x.report = some p
  recorded : p.norec = false

namespace Finished

variable {s : State} {n : Nat} {x : Running} {p : Report} (h : Finished s n x p)
include h

theorem exec_eq : exec (.descriptorComplete n) s = .next (completeDesc s n x p) := by
  show execDescriptorComplete n s = _
  simp only [execDescriptorComplete, h.serves, h.valid, h.running, h.report, Bool.and_self, Bool.not_true, Bool.false_eq_true, if_false]

/-- The steps in their order, of a ring that is not stopped. -/
theorem completeDesc_eq : completeDesc s n x p =
    if x.phase = 0 then
      (if dFlag x.desc.word 0 && !x.wrote.isEmpty then readBack s n x else if errorAhead s p then s else writeRecord s n x p)
    else if x.phase = 1 then
      (if !x.wrote.isEmpty then readBack s n x
       else if ownOut s n || errorAhead s p then s else writeRecord (endHost s (whoRing n)) n x p)
    else if ownOut s n then s
    else if x.phase = 2 then recordSeen s n x
    else if x.phase = 3 then endRunning s n x
    else signalDone s n x := by
  simp only [completeDesc, h.recorded, h.runs, Bool.false_and, Bool.false_eq_true, if_false]

theorem exec_of_wrote (hphase : x.phase = 0 ∧ dFlag x.desc.word 0 = true ∨ x.phase = 1) (hwrote : x.wrote ≠ []) :
    exec (.descriptorComplete n) s = .next (readBack s n x) := by
  rw [h.exec_eq, h.completeDesc_eq]
  obtain ⟨hzero, hflag⟩ | hone := hphase
  · simp [hzero, hflag, hwrote]
  · simp [hone, hwrote]

/-- With nothing to read back the record is written at once, where no error record stands before it (R490). -/
theorem exec_of_zero (hphase : x.phase = 0) (hback : dFlag x.desc.word 0 = false ∨ x.wrote = []) (hfree : errorAhead s p = false) :
    exec (.descriptorComplete n) s = .next (writeRecord s n x p) := by
  have hnone : (dFlag x.desc.word 0 && !x.wrote.isEmpty) = false := by
    obtain hb | hb := hback <;> simp [hb]
  rw [h.exec_eq, h.completeDesc_eq, if_pos hphase, hnone]
  simp only [hfree, Bool.false_eq_true, if_false]

theorem exec_of_one (hphase : x.phase = 1) (hwrote : x.wrote = []) (hout : ownOut s n = false) (hfree : errorAhead s p = false) :
    exec (.descriptorComplete n) s = .next (writeRecord (endHost s (whoRing n)) n x p) := by
  rw [h.exec_eq, h.completeDesc_eq]
  simp [hphase, hwrote, hout, hfree]

theorem exec_of_two (hphase : x.phase = 2) (hout : ownOut s n = false) : exec (.descriptorComplete n) s = .next (recordSeen s n x) := by
  rw [h.exec_eq, h.completeDesc_eq]
  simp [hphase, hout]

theorem exec_of_three (hphase : x.phase = 3) (hout : ownOut s n = false) : exec (.descriptorComplete n) s = .next (endRunning s n x) := by
  rw [h.exec_eq, h.completeDesc_eq]
  simp [hphase, hout]

theorem exec_of_four (hphase : x.phase = 4) (hout : ownOut s n = false) : exec (.descriptorComplete n) s = .next (signalDone s n x) := by
  rw [h.exec_eq, h.completeDesc_eq]
  simp [hphase, hout]

/-- After the first step it waits while the ring's own accesses are out. -/
theorem exec_of_out {k : Nat} (hpos : 0 < k) (hphase : x.phase = k) (hwrote : k = 1 → x.wrote = []) (hout : ownOut s n = true) :
    exec (.descriptorComplete n) s = .next s := by
  rw [h.exec_eq, h.completeDesc_eq, if_neg (by omega)]
  by_cases hone : k = 1
  · simp [hphase, hone, hwrote hone, hout]
  · rw [if_neg (by omega), if_pos hout]

end Finished

variable {s s2 : State} {n : Nat} {x : Running} {p : Report}

theorem writeRecord_of_host (hhost : (ringOf s n).chost = true) (hwrite : hostWrite s ⟨whoRing n, (ringOf s n).ctx⟩
    ((ringOf s n).cbase + 32 * (x.desc.idx % 2 ^ (ringOf s n).logsize)) (recordBytes (ringOf s n) x p) = .ok () s2) :
    writeRecord s n x p = setPhase s2 n x 2 := by
  simp only [writeRecord, hhost, if_true, hwrite]

theorem writeRecord_of_device (hdev : (ringOf s n).chost = false) (hwrite : devWrite s
    ((ringOf s n).cbase + 32 * (x.desc.idx % 2 ^ (ringOf s n).logsize)) (recordBytes (ringOf s n) x p) = .ok () s2) :
    writeRecord s n x p = recordSeen s2 n x := by
  simp only [writeRecord, hdev, Bool.false_eq_true, if_false, hwrite]

end Sys2Proof.Levels

open Sys2Proof Sys2Proof.Machine Sys2Proof.Levels

/-- Settles O39: `completeDesc` goes by the phase of what the ring runs, and each phase takes one step. -/
theorem completionSteps : Obligations.CompletionSteps := by
  unfold Obligations.CompletionSteps
  intro s n x p hserves hv hruns hrunning hreport hrec r a
  have h : Finished s n x p := ⟨hserves, hv, hruns, hrunning, hreport, hrec⟩
  refine ⟨h.exec_of_wrote, ?record, h.exec_of_one, h.exec_of_two, h.exec_of_three, h.exec_of_four, ?waits⟩
  case record =>
    intro hphase hback hfree
    refine ⟨fun s2 hhost hwrite => ?_, fun s2 hdev hwrite => ?_⟩
    · rw [h.exec_of_zero hphase hback hfree, writeRecord_of_host hhost hwrite]
    · rw [h.exec_of_zero hphase hback hfree, writeRecord_of_device hdev hwrite]
  case waits => exact fun k hpos _ hphase hwrote hout => h.exec_of_out hpos hphase hwrote hout

end

section
/-! STEP, LOAD_MODEL and END_CONTEXT (R341, R344, R345, R347, R352, R474). -/

namespace Sys2Proof.Levels

open Sys2Proof Sys2Proof.Machine Sys2Proof.Stated

variable {s s1 s2 s3 s4 t : State} {n : Nat} {x : Running} {r : Ring} {fresh : Bool}

/-- A descriptor's command makes the effect of its body, which is told that it starts now where its ring ran none. -/
theorem exec_of_runs_fresh {c : Instr} {is bad : DWord → Bool} {body : State → Ring → Running → Bool → State} (h : Runs s n x s1)
    (hc : exec c s = .next (runDesc s n is bad body)) (his : is x.desc.word = true) (hbad : bad x.desc.word = false)
    (heffect : body s1 (ringOf s n) x (unitOf s n).running.isNone = t) : exec c s = .next t := by
  have hmarked : body s1 (ringOf s n) x (unitOf s n).running.isNone = runDesc s n is bad body := by
    rcases h with ⟨d, ds, hstart, rfl, rfl⟩ | ⟨hserves, hawake, hvalid, hruns, hreport, rfl⟩
    · obtain ⟨hserves, hawake, hvalid, herr, hidle, hready, hfence, hopen, hhead⟩ := hstart
      have hmet : (dFlag d.word 2 && !fenceMet s n d.stamp false) = false := by
        cases hf : dFlag d.word 2 with
        | false => rfl
        | true => rw [hfence hf]; rfl
      simp only [justTaken] at his hbad
      simp [runDesc, justTaken, hserves, hawake, hvalid, herr, hidle, hready, his, hmet, hopen, hhead, hbad]
    · simp [runDesc, hserves, hawake, hvalid, hruns, hreport, his]
  rw [hc, ← hmarked, heffect]

/-! STEP. -/

/-- What runs as a STEP, once it is handed over: the moment is kept where it starts now. -/
def handedOver (s : State) (x : Running) (fresh : Bool) : Running := if fresh then { x with pos := s.sched.stamp } else x

/-- The state once a STEP is handed over. -/
def handing (s : State) (n : Nat) (x : Running) (fresh : Bool) : State :=
  if fresh then setRunning { s with sched := { s.sched with stamp := s.sched.stamp + 1 } } n (handedOver s x fresh) else s

theorem handedOver_begun (s : State) (x : Running) (fresh : Bool) : (handedOver s x fresh).begun = x.begun := by cases fresh <;> rfl

/-- A STEP of a context that is not ending, of a step of the resident model, with none of its context before it, joins the order once its
checks find nothing (R345, R352). -/
theorem stepDesc_joins {m : Model} {e : BitVec 512} (hbegun : x.begun = false) (hopen : (ctxOf (handing s n x fresh) r.ctx).st ≠ .ending)
    (hmodel : (handing s n x fresh).sched.model = some m) (hctx : r.ctx ≠ 0) (hno : stNo x.desc.word < m.nsteps)
    (hnone : (handing s n x fresh).sched.steps.any (fun t => t.ctx == r.ctx) = false)
    (hfirst : earlierStep (handing s n x fresh) n r.ctx (handedOver s x fresh).pos = false)
    (hchecks : (stepEntry (handing s n x fresh) m (stNo x.desc.word)).bind (fun e u => (stepCheck u m r.ctx e).bind (fun b u => .ok (e, b) u)) =
      .ok (e, none) s2) : stepDesc n s r x fresh =
        joinOrder (setRunning (endHost s2 whoSched) n { handedOver s x fresh with begun := true, uid := (endHost s2 whoSched).uid })
          (newStep (endHost s2 whoSched) n r (handedOver s x fresh) e (m.upds.contains (stNo x.desc.word))) := by
  have hwaits : ¬ (handedOver s x fresh).begun = true := by simp [handedOver_begun, hbegun]
  have hends : ¬ ((ctxOf (handing s n x fresh) r.ctx).st == .ending) = true := by simpa using hopen
  have hnamed : ¬ (r.ctx = 0 ∨ m.nsteps ≤ stNo x.desc.word) := by omega
  have hturn : ¬ (((handing s n x fresh).sched.steps.any (fun t => t.ctx == r.ctx)) ||
      earlierStep (handing s n x fresh) n r.ctx (handedOver s x fresh).pos) = true := by simp [hnone, hfirst]
  refine (if_neg hwaits).trans ((if_neg hends).trans ?_)
  simp only [handing, handedOver] at hmodel hturn hchecks
  rw [hmodel]
  refine (if_neg hnamed).trans ((if_neg hturn).trans ?_)
  rw [hchecks]
  rfl

/-! LOAD_MODEL. -/

/-- A load past its check: no model is resident any more. -/
def loading (s : State) (n : Nat) (x : Running) : State :=
  setRunning (setMlog { s with sched := { s.sched with model := none } } 1 (zeros 32)) n { x with begun := true }

section

variable (hfree : x.begun = true ∨ (anyLive s = false ∧ otherLoad s n = false))
include hfree

/-- A load that no context and no other load keeps busy goes past its check. -/
theorem loadDesc_passes : ¬ (!x.begun && (anyLive s || otherLoad s n)) = true := by
  obtain h | ⟨hlive, hother⟩ := hfree
  · simp [h]
  · simp [hlive, hother]

theorem loadDesc_empty (hlen : dBytes x.desc.word 31 24 = 0) : loadDesc n s r x fresh = report (loading s n x) n (Report.status_ 0) :=
  (if_neg (loadDesc_passes hfree)).trans (if_pos hlen)

/-- An image that is mapped and right becomes the model, and is measured (R347, R474). -/
theorem loadDesc_takes {gs : List Seg} {m : Model} (hlen : dBytes x.desc.word 31 24 ≠ 0)
    (hsegs : segsOf (loading s n x) 0 (dBytes x.desc.word 23 16) (dBytes x.desc.word 31 24) false false = .ok gs s2)
    (hlook : lookImage s2 (dBytes x.desc.word 23 16) (dBytes x.desc.word 31 24) = .ok (.ok m) s3) :
    loadDesc n s r x fresh = takeModel s3 n m := by
  refine (if_neg (loadDesc_passes hfree)).trans ((if_neg hlen).trans ?_)
  simp only [loading] at hsegs
  rw [hsegs]
  dsimp only
  rw [hlook]

end

theorem takeModel_of_read {m : Model} {bs : List Byte} (hread : imageRead s m 0 m.len = .ok bs t) : takeModel s n m =
    (let u := setMlog (endHost t whoSched) 1 (Config.sha3 bs)
     report { u with sched := { u.sched with model := some m }, sec := { u.sec with loads := u.sec.loads + 1 } } n
       { Report.status_ 0 with detail0 := m.nsteps, detail1 := m.nprof + 65536 * m.nfix }) := by
  simp only [takeModel, hread]

theorem endShut_of_free {c : Nat} (hfree : (ctxOf s c).st = .free) : endShut s n c = report s n (Report.status_ 0x0606) :=
  if_neg (by simp [hfree])

/-! END_CONTEXT. -/

section

variable (h : Runs s n x s1) (hty : dType x.desc.word = 8) (hgood : ecBad s n x.desc.word = false) (hbegun : x.begun = false)
include h hty hgood hbegun

/-! With ABORT 0. -/

section

variable (hmode : bit x.desc.word 144 = false)
include hmode

theorem exec_endContext_of_open (hst : (ctxOf s1 (ecCtx x.desc.word)).st = .openS) : exec (.endContext n) s = .next
    (holdEnd (setRunning (setCtx s1 (ecCtx x.desc.word) { ctxOf s1 (ecCtx x.desc.word) with st := .ending }) n { x with begun := true }) n
      (ecCtx x.desc.word)) :=
  exec_of_runs h rfl (Bool.and_eq_true_iff.2 ⟨beq_iff_eq.2 hty, congrArg (!·) hmode⟩) hgood
    fun _ => (if_neg (by simp [hbegun])).trans (by dsimp only; rw [hst])

theorem exec_endContext_of_closing (hst : (ctxOf s1 (ecCtx x.desc.word)).st = .ending ∨ (ctxOf s1 (ecCtx x.desc.word)).st = .teardown) :
    exec (.endContext n) s = .next (holdEnd (setRunning s1 n { x with begun := true }) n (ecCtx x.desc.word)) :=
  exec_of_runs h rfl (Bool.and_eq_true_iff.2 ⟨beq_iff_eq.2 hty, congrArg (!·) hmode⟩) hgood
    fun _ => (if_neg (by simp [hbegun])).trans (by dsimp only; obtain hst | hst := hst <;> rw [hst])

theorem exec_endContext_of_free (hst : (ctxOf s1 (ecCtx x.desc.word)).st = .free) :
    exec (.endContext n) s = .next (report s1 n (Report.status_ 0x0606)) :=
  exec_of_runs h rfl (Bool.and_eq_true_iff.2 ⟨beq_iff_eq.2 hty, congrArg (!·) hmode⟩) hgood
    fun _ => (if_neg (by simp [hbegun])).trans (by dsimp only; rw [hst]; exact endShut_of_free hst)

end

/-! With ABORT 1. -/

section

variable (hmode : bit x.desc.word 144 = true)
include hmode

theorem exec_endContextAbort_of_live (hst : (ctxOf s1 (ecCtx x.desc.word)).st = .openS ∨ (ctxOf s1 (ecCtx x.desc.word)).st = .ending) :
    exec (.endContextAbort n) s = .next
      (beginTeardown (holdEnd (setRunning s1 n { x with begun := true }) n (ecCtx x.desc.word)) (ecCtx x.desc.word) 0x0605 0x0605 0 none) :=
  exec_of_runs h rfl (Bool.and_eq_true_iff.2 ⟨beq_iff_eq.2 hty, hmode⟩) hgood
    fun _ => (if_neg (by simp [hbegun])).trans (by dsimp only; obtain hst | hst := hst <;> rw [hst])

theorem exec_endContextAbort_of_teardown (hst : (ctxOf s1 (ecCtx x.desc.word)).st = .teardown) :
    exec (.endContextAbort n) s = .next (holdEnd (setRunning s1 n { x with begun := true }) n (ecCtx x.desc.word)) :=
  exec_of_runs h rfl (Bool.and_eq_true_iff.2 ⟨beq_iff_eq.2 hty, hmode⟩) hgood
    fun _ => (if_neg (by simp [hbegun])).trans (by dsimp only; rw [hst])

theorem exec_endContextAbort_of_free (hst : (ctxOf s1 (ecCtx x.desc.word)).st = .free) :
    exec (.endContextAbort n) s = .next (report s1 n (Report.status_ 0x0606)) :=
  exec_of_runs h rfl (Bool.and_eq_true_iff.2 ⟨beq_iff_eq.2 hty, hmode⟩) hgood
    fun _ => (if_neg (by simp [hbegun])).trans (by dsimp only; rw [hst]; exact endShut_of_free hst)

end

end

end Sys2Proof.Levels

open Sys2Proof Sys2Proof.Machine Sys2Proof.Stated Sys2Proof.Levels

/-- Settles O32: each descriptor's body takes the branch that the hypotheses name. -/
theorem stepModelAndEndContext : Obligations.StepModelAndEndContext := by
  unfold Obligations.StepModelAndEndContext
  intro s s1 n x hruns d r begun
  refine ⟨?step, ?load, ?ends, ?aborts⟩
  case step =>
    intro m e s2 hty hlow hhigh hsteps hbegun x1 s1' hopen hmodel hctx hno hnone hfirst hchecks s3
    have hstart : exec (.step n) s = .next (runDesc s n (fun d => dType d == 1) (fun d => bits d 159 144 != 0 || dBytes d 63 24 != 0) (stepDesc n)) :=
      congrArg Host.Outcome.next (if_neg (by simp [hsteps]))
    exact exec_of_runs_fresh hruns hstart (beq_iff_eq.2 hty) (Bool.or_eq_false_iff.2 ⟨bne_eq_false_iff_eq.2 hlow, bne_eq_false_iff_eq.2 hhigh⟩)
      (stepDesc_joins hbegun hopen hmodel hctx hno hnone hfirst hchecks)
  case load =>
    intro hty hres hctx hfree gone
    have hbad : (dBytes d 63 32 != 0 || r.ctx != 0) = false := Bool.or_eq_false_iff.2 ⟨bne_eq_false_iff_eq.2 hres, bne_eq_false_iff_eq.2 hctx⟩
    refine ⟨fun hlen => ?_, fun gs s2 m s3 bs s4 hlen hsegs hlook hread => ?_⟩
    · exact exec_of_runs hruns rfl (beq_iff_eq.2 hty) hbad fun _ => loadDesc_empty hfree hlen
    · exact exec_of_runs hruns rfl (beq_iff_eq.2 hty) hbad fun _ => (loadDesc_takes hfree hlen hsegs hlook).trans (takeModel_of_read hread)
  case ends =>
    exact fun hty hmode hgood hbegun => ⟨exec_endContext_of_open hruns hty hgood hbegun hmode, exec_endContext_of_closing hruns hty hgood hbegun hmode,
      exec_endContext_of_free hruns hty hgood hbegun hmode⟩
  case aborts =>
    exact fun hty hmode hgood hbegun => ⟨exec_endContextAbort_of_live hruns hty hgood hbegun hmode,
      exec_endContextAbort_of_teardown hruns hty hgood hbegun hmode, exec_endContextAbort_of_free hruns hty hgood hbegun hmode⟩

end

section
/-! AUTH (R334, R448), and the commands that write the option negative, firmware and the command key at its step 5 (R335, R447, R470, R472, R479). -/

namespace Sys2Proof.Levels

open Sys2Proof Sys2Proof.Machine

variable {s s2 : State} {n : Nat} {x : Running} {r : Ring} {fresh : Bool} {key pl : List Byte}

/-- The tag of an AUTH is right for its payload (R334 step 3). -/
def TagHolds (key pl : List Byte) (d : DWord) : Prop :=
  kmac key csAuth ((leBytes 64 d.toNat).take 48 ++ pl) 16 = (leBytes 64 d.toNat).drop 48

/-- An AUTH whose command is accepted: its counter is kept, and its ring is at step 5 (R334 step 4). -/
def authAtStep5 (s : State) (n : Nat) (x : Running) (key pl : List Byte) : State :=
  let u := endHost (setRunning s n { x with begun := true }) (whoRing n)
  { u with flash := appendCtr u.flash (ctrRecord key (auCounter x.desc.word)), sec := { u.sec with auth := some (n, true, pl) } }

section
/-! An AUTH in its turn has its payload copied. -/

variable (hbegun : x.begun = false) (hturn : authTurn s n x.desc.stamp = true) (hkey : s.flash.current = some key)
  (hread : cvaRead s ⟨whoRing n, 0⟩ (auCva x.desc.word) (auLen x.desc.word) false = .ok pl s2)
include hbegun hturn hkey hread

/-- What an AUTH makes of its payload: a wrong tag and a counter not above the kept one are refused, and else it is accepted. -/
theorem authDesc_eq : authDesc n s r x fresh =
    if kmac key csAuth ((leBytes 64 x.desc.word.toNat).take 48 ++ pl) 16 ≠ (leBytes 64 x.desc.word.toNat).drop 48
    then descDone s2 n (auReport x.desc.word 0x0501 false)
    else if auCounter x.desc.word ≤ lastCounter s2 then descDone s2 n (auReport x.desc.word 0x0502 false) else authAtStep5 s2 n x key pl := by
  have hwaits : ¬ (x.begun || !authTurn s n x.desc.stamp) = true := by simp [hbegun, hturn]
  refine (if_neg hwaits).trans ?_
  rw [hkey]
  dsimp only
  rw [hread]
  rfl

theorem authDesc_of_good (hgood : TagHolds key pl x.desc.word) (hnew : lastCounter s2 < auCounter x.desc.word) :
    authDesc n s r x fresh = authAtStep5 s2 n x key pl :=
  (authDesc_eq hbegun hturn hkey hread).trans ((if_neg (not_not_intro hgood)).trans (if_neg (Nat.not_le.2 hnew)))

theorem authDesc_of_wrong_tag (hbad : ¬ TagHolds key pl x.desc.word) : authDesc n s r x fresh = descDone s2 n (auReport x.desc.word 0x0501 false) :=
  (authDesc_eq hbegun hturn hkey hread).trans (if_pos hbad)

theorem authDesc_of_old_counter (hgood : TagHolds key pl x.desc.word) (hold : auCounter x.desc.word ≤ lastCounter s2) :
    authDesc n s r x fresh = descDone s2 n (auReport x.desc.word 0x0502 false) :=
  (authDesc_eq hbegun hturn hkey hread).trans ((if_neg (not_not_intro hgood)).trans (if_pos hold))

end

section
/-! The commands at step 5. -/

variable (hserving : serving s = true)
include hserving

/-- A right image goes, completed, into the slot that was not written last (R447). -/
theorem exec_optionNegativeWrite_of_ok (hauth : authOf s 1 = some (n, x, pl)) (hkey : s.flash.current = some key) (himage : newImageOk pl = true) :
    exec (.optionNegativeWrite true) s =
      .next (authEnd (putSlot s (!s.flash.lastWritten) (finishImage key pl ((lastGeneration s + 1) % 2 ^ 64))) n x 0) := by
  have hgood : ¬ (!newImageOk pl) = true := by simp [himage]
  show Host.Outcome.next (atStep5 s 1 _) = _
  rw [atStep5_of_auth hserving hauth, hkey]
  exact congrArg Host.Outcome.next (if_neg hgood)

/-- A right image of firmware goes into its kind's slot that did not boot, and blows what it revokes and commits (R470, R472). -/
theorem exec_firmwareUpdate_of_ok (hauth : authOf s 2 = some (n, x, pl)) (hcheck : fwCheck s pl = 0)
    (hslot : (fwRevoke pl).testBit (fwKeySlot pl) = false) : exec (.firmwareUpdate true) s = .next (authEnd
      { putFw s (fwKind pl) (otherSlot s (fwKind pl)) ⟨true, BitVec.ofNat 64 (fwVersion pl), fwSvn pl, fwDigest pl, fwKeySlot pl⟩ with
        fuses := blowFw s.fuses pl } n x 0) := by
  show Host.Outcome.next (atStep5 s 2 _) = _
  rw [atStep5_of_auth hserving hauth]
  exact congrArg Host.Outcome.next ((if_neg (not_not_intro hcheck)).trans (if_neg (ne_true_of_eq_false hslot)))

variable (hauth : authOf s 6 = some (n, x, pl)) (hlen : pl.length = 40) (hzero : leField pl 63 1 = 0)
include hauth hlen hzero

/-- A rotation with ERASE set makes the package unowned (R479). -/
theorem exec_commandKeyRotation_of_erase (herase : leField pl 0 0 = 1) : exec .commandKeyRotation s = .next (authEnd (disown s) n x 0) := by
  have hok : ¬ (pl.length ≠ 40 ∨ leField pl 63 1 ≠ 0) := by simp [hlen, hzero]
  show Host.Outcome.next (atStep5 s 6 _) = _
  rw [atStep5_of_auth hserving hauth]
  exact congrArg Host.Outcome.next ((if_neg hok).trans (if_pos herase))

/-- A rotation keeps the old key as the previous one, and installs the new one decrypted (R479). -/
theorem exec_commandKeyRotation_of_new {old : List Byte} (hkeep : leField pl 0 0 = 0) (hold : s.flash.current = some old) :
    exec .commandKeyRotation s = .next (authEnd (finishRotation { s with
      flash := { s.flash with
        current := some (xorBytes (pl.drop 8) (kmac old (leBytes 8 (auCounter x.desc.word)) csRot 32)), previous := some old }
      sec := { s.sec with rotations := s.sec.rotations + 1 } }) n x 0) := by
  have hok : ¬ (pl.length ≠ 40 ∨ leField pl 63 1 ≠ 0) := by simp [hlen, hzero]
  have hnew : ¬ leField pl 0 0 = 1 := by simp [hkeep]
  show Host.Outcome.next (atStep5 s 6 _) = _
  rw [atStep5_of_auth hserving hauth, if_neg hok, if_neg hnew, hold]

end

end Sys2Proof.Levels

open Sys2Proof Sys2Proof.Machine Sys2Proof.Stated Sys2Proof.Levels

/-- Settles O33: the body of AUTH, as `runDesc_of_runs` runs it, by its tag and then by its counter. -/
theorem authAccepted : Obligations.AuthAccepted := by
  unfold Obligations.AuthAccepted
  intro s s1 n x hruns hty hfields hbegun hturn key pl s2 hkey hread d good s3
  refine ⟨fun hgood hnew => ?_, fun hbad => ?_, fun hgood hold => ?_⟩
  · exact exec_of_runs hruns rfl (beq_iff_eq.2 hty) hfields fun _ => authDesc_of_good hbegun hturn hkey hread hgood hnew
  · exact exec_of_runs hruns rfl (beq_iff_eq.2 hty) hfields fun _ => authDesc_of_wrong_tag hbegun hturn hkey hread hbad
  · exact exec_of_runs hruns rfl (beq_iff_eq.2 hty) hfields fun _ => authDesc_of_old_counter hbegun hturn hkey hread hgood hold

/-- Settles O34: each command finds its AUTH at step 5, passes its checks, and ends it with status 0. -/
theorem keyFirmwareAndOptionCommands : Obligations.KeyFirmwareAndOptionCommands := by
  unfold Obligations.KeyFirmwareAndOptionCommands
  intro s n x pl hserving
  refine ⟨?option, ?firmware, ?rotation⟩
  case option => exact fun key => exec_optionNegativeWrite_of_ok hserving
  case firmware => exact exec_firmwareUpdate_of_ok hserving
  case rotation =>
    exact fun hauth hlen hzero => ⟨exec_commandKeyRotation_of_erase hserving hauth hlen hzero,
      fun old => exec_commandKeyRotation_of_new hserving hauth hlen hzero⟩

end

section
/-! The windows of contexts and cores (R343, R344, R351, R363, R365). -/

namespace Sys2Proof.Levels

open Sys2Proof Sys2Proof.Machine

variable {s : State} {c : Nat}

section
/-! The window of contexts, on a page that answers. -/

variable {k : BitVec 12} (hopen : pageOpen s rCTX_CTRL = true)
include hopen

theorem execCtxRead_of_open : execCtxRead k s = .next (readCtx (wakeBy false s) k.toNat) := congrArg Host.Outcome.next (if_pos hopen)

theorem execOpenCtx_of_open (hserves : serving (setField (wakeBy false s) rCTX_CTRL 11 0 k.toNat) = true) : execOpenCtx k s = .next
    (openSlot (setField (wakeBy false s) rCTX_CTRL 11 0 k.toNat) k.toNat (regVal (setField (wakeBy false s) rCTX_CTRL 11 0 k.toNat) rCTX_DATA0).toNat) :=
  congrArg Host.Outcome.next ((if_pos hopen).trans (if_pos hserves))

end

/-- Why an OPEN with the fields of `data` is refused, 0 for not at all (R343). -/
def openReasonOf (s : State) (c data : Nat) : Nat :=
  openReason s c (data / 16 % 16) (data / 4096 % 2 ^ 40 * 4096) (data / 8 % 2 + data / 256 % 16 + data >>> 52) (profileOf s (data / 16 % 16)).1

theorem openSlot_of_closing {data : Nat} (hst : (ctxOf s c).st = .teardown ∨ (ctxOf s c).st = .ending) :
    openSlot s c data = setCtx s c { ctxOf s c with openLatch := some data } := if_pos hst

section
/-! The slot is free. -/

variable {data : Nat} (hfree : (ctxOf s c).st = .free)
include hfree

theorem not_closing_of_free : ¬ ((ctxOf s c).st = .teardown ∨ (ctxOf s c).st = .ending) := by simp [hfree]

theorem openSlot_of_reason (hreason : openReasonOf s c data ≠ 0) :
    openSlot s c data = showOpen (setCtx s c { ctxOf s c with openLatch := none }) (openReasonOf s c data) :=
  (if_neg (not_closing_of_free hfree)).trans (if_pos hreason)

theorem openSlot_of_right (hreason : openReasonOf s c data = 0) :
    openSlot s c data = showOpen (setupCtx s c (data / 16 % 16) (data / 4096 % 2 ^ 40 * 4096)) 0 :=
  (if_neg (not_closing_of_free hfree)).trans ((if_neg (not_not_intro hreason)).trans (if_neg (by simp [hfree])))

end

/-! The window of cores. -/

section

variable {m : BitVec 10} (hopen : pageOpen s rSCH_CORE = true)
include hopen

theorem execWithdraw_of_open : execWithdraw m s = .next (withdrawCore (wakeBy false s) m.toNat) := congrArg Host.Outcome.next (if_pos hopen)

theorem execReturnCore_of_open : execReturnCore m s = .next (returnTo (wakeBy false s) m.toNat) := congrArg Host.Outcome.next (if_pos hopen)

end

theorem withdrawCore_of_refused (hno : withdrawRefused (setField s rSCH_CORE 9 0 c) c = true) :
    withdrawCore s c = setField (setField s rSCH_CORE 9 0 c) rSCH_CORE 14 14 1 := by
  unfold withdrawCore
  dsimp only
  rw [hno]
  rfl

section

variable (hyes : withdrawRefused (setField s rSCH_CORE 9 0 c) c = false)
include hyes

/-- A core that holds no program is withdrawn at once (R351). -/
theorem withdrawCore_of_free (hlo : (coreOf s c).lo = none) (hhi : (coreOf s c).hi = none) : withdrawCore s c =
    setCore (setField (setField s rSCH_CORE 9 0 c) rSCH_CORE 14 14 0) c
      { coreOf s c with withdrawn := (coreOf s c).withdrawn || !(coreOf s c).wdPend, retLatch := false } := by
  have hnone : ((coreOf s c).lo.isSome || (coreOf s c).hi.isSome) = false := by simp [hlo, hhi]
  unfold withdrawCore
  dsimp only
  rw [hyes]
  exact if_neg (ne_true_of_eq_false hnone)

/-- A core that holds a program is withdrawn at the program's end (R351). -/
theorem withdrawCore_of_placed (hlo : (coreOf s c).lo ≠ none) : withdrawCore s c =
    setCore (setField (setField s rSCH_CORE 9 0 c) rSCH_CORE 14 14 0) c { coreOf s c with wdPend := !(coreOf s c).withdrawn, retLatch := false } := by
  have hsome : ((coreOf s c).lo.isSome || (coreOf s c).hi.isSome) = true := by simp [Option.isSome_iff_ne_none, hlo]
  unfold withdrawCore
  dsimp only
  rw [hyes]
  exact if_pos hsome

end

section

variable (hthere : c < coreCount (setField s rSCH_CORE 9 0 c))
include hthere

/-- A core whose withdrawal is over, or that was never withdrawn, is given back (R363). -/
theorem returnTo_of_settled (hpend : (coreOf s c).wdPend = false) (hidle : (coreOf s c).withdrawn = false ∨
    ((coreOf s c).scrubLo = false ∧ (coreOf s c).scrubHi = false ∧ coreInReset (setField s rSCH_CORE 9 0 c) c = false)) :
    returnTo s c = setCore (setField s rSCH_CORE 9 0 c) c { coreOf s c with withdrawn := false } := by
  have hdone : ((coreOf s c).wdPend || ((coreOf s c).withdrawn && ((coreOf s c).scrubLo || (coreOf s c).scrubHi ||
      coreInReset (setField s rSCH_CORE 9 0 c) c))) = false := by
    obtain hout | ⟨hlo, hhi, hreset⟩ := hidle
    · simp [hpend, hout]
    · simp [hpend, hlo, hhi, hreset]
  exact (if_neg (Nat.not_le.2 hthere)).trans (if_neg (ne_true_of_eq_false hdone))

/-- While a withdrawal waits a RETURN is latched (R363). -/
theorem returnTo_of_pending (hpend : (coreOf s c).wdPend = true) :
    returnTo s c = setCore (setField s rSCH_CORE 9 0 c) c { coreOf s c with retLatch := true } :=
  (if_neg (Nat.not_le.2 hthere)).trans (if_pos (Bool.or_eq_true_iff.2 (.inl hpend)))

end

end Sys2Proof.Levels

open Sys2Proof Sys2Proof.Machine Sys2Proof.Levels

/-- Settles O41: each command of an open page does its window's work, by the state of the slot or of the core. -/
theorem contextAndCoreWindows : Obligations.ContextAndCoreWindows := by
  unfold Obligations.ContextAndCoreWindows
  intro s k m c d s1 o w data profile pt4 reason
  refine ⟨?read, ?opens, ?refused, ?latched, ?noWithdraw, ?withdraw, ?returned, ?later⟩
  case read => exact execCtxRead_of_open
  case opens =>
    exact fun hopen hserves hfree hreason => (execOpenCtx_of_open hopen hserves).trans (congrArg Host.Outcome.next (openSlot_of_right hfree hreason))
  case refused =>
    exact fun hopen hserves hfree hreason => (execOpenCtx_of_open hopen hserves).trans (congrArg Host.Outcome.next (openSlot_of_reason hfree hreason))
  case latched =>
    exact fun hopen hserves hst => (execOpenCtx_of_open hopen hserves).trans (congrArg Host.Outcome.next (openSlot_of_closing hst))
  case noWithdraw =>
    exact fun hopen hno => (execWithdraw_of_open hopen).trans (congrArg Host.Outcome.next (withdrawCore_of_refused hno))
  case withdraw =>
    intro hopen hyes y
    refine ⟨fun hlo hhi => ?_, fun hlo => ?_⟩
    · exact (execWithdraw_of_open hopen).trans (congrArg Host.Outcome.next (withdrawCore_of_free hyes hlo hhi))
    · exact (execWithdraw_of_open hopen).trans (congrArg Host.Outcome.next (withdrawCore_of_placed hyes hlo))
  case returned =>
    exact fun hopen hthere hpend hidle => (execReturnCore_of_open hopen).trans (congrArg Host.Outcome.next (returnTo_of_settled hthere hpend hidle))
  case later =>
    exact fun hopen hthere hpend => (execReturnCore_of_open hopen).trans (congrArg Host.Outcome.next (returnTo_of_pending hthere hpend))

end

section
/-! Register accesses (R480, R490, R491, R498, R509 to R512, R517), the contact-sheet window (R496 to R502), and reset. -/

namespace Sys2Proof.Levels

open Sys2Proof Sys2Proof.Machine

variable {s : State} {off : Nat} {v : Word}

/-! The error queue and MSI-X. -/

theorem execErrqBaseWrite_of_open (hopen : pageOpen s rPKG_ERRQ_BASE = true) : execErrqBaseWrite v s = .next (writeErrBase (wakeBy false s) v) :=
  congrArg Host.Outcome.next (if_pos hopen)

theorem execMsixUnmask_vector {n : Nat} (hup : ioUp s = true) (hn : n < 2048) : execMsixUnmask (.vector n) s =
    .next (sendHeld { wakeBy false s with msix := { (wakeBy false s).msix with open_ := insNat n (wakeBy false s).msix.open_ } }) :=
  congrArg Host.Outcome.next ((if_neg (by simp [hup])).trans (if_pos hn))

theorem execMsixUnmask_function (hup : ioUp s = true) : execMsixUnmask .function s =
    .next (sendHeld { wakeBy false s with msix := { (wakeBy false s).msix with enabled := true, fmask := false } }) :=
  congrArg Host.Outcome.next (if_neg (by simp [hup]))

/-! Writes of the BARs. -/

/-- An aligned write of BAR0 reaches its register (R509). -/
theorem execRegisterWrite_bar0 {wide : Bool} (hup : ioUp s = true) (hoff : off < 2 ^ 24) (hopen : pageOpen (wakeBy false s) off = true)
    (haligned : alignedAccess off (if wide then 8 else 4) = true) : execRegisterWrite .bar0 off wide v s =
      .next (writeReg (wakeBy false s) (off / 8 * 8) (halfValue off wide v) (halfMask off wide)) := by
  refine congrArg Host.Outcome.next ((if_neg (by simp [hup])).trans ((if_pos hoff).trans ?_))
  exact (if_neg (by simp [hopen])).trans (if_neg (by simp [haligned]))

/-- A word of a slot, its STATUS and its GO aside, is stored (R498). -/
theorem execRegisterWrite_bar4 (hup : ioUp s = true) (hready : s.rst.phase = .ready) (hopen : cswOpen s = true) (haligned : off % 4 = 0)
    (hoff : off < 4096) (hstatus : off % 64 ≠ 0) (hgo : off % 64 ≠ 60) : execRegisterWrite .bar4 off false v s =
      .next { wakeBy false s with csw := { (wakeBy false s).csw with
        words := tset 0 (wakeBy false s).csw.words (off / 4) (swap32 (v.setWidth 32)) } } := by
  have hanswers : ¬ (!(ioUp s && s.rst.phase == .ready)) = true := by simp [hup, hready]
  have hkept : ¬ (!cswOpen s || false || off % 4 != 0 || decide (4096 ≤ off)) = true := by simp [hopen, haligned, hoff]
  refine congrArg Host.Outcome.next ((if_neg (by simp [hup])).trans ?_)
  exact (if_neg hanswers).trans ((if_neg hkept).trans ((if_neg hstatus).trans (if_neg hgo)))

theorem execDroppedRegisterAccess_write {size : Nat} (hup : ioUp s = true) (hoff : off < 2 ^ 24) (hbad : alignedAccess off size = false)
    (hopen : pageOpen s off = true) : execDroppedRegisterAccess off size true false s = .next (accErr (wakeBy false s) off size true false) :=
  congrArg Host.Outcome.next ((if_neg (by simpa [hup, hbad, hopen] using hoff)).trans (if_pos rfl))

/-! I3C. -/

theorem i3cUse_of_up (hopen : pageOpen s 0 = true) (hlit : s.pwr.st ≠ 3) (f : State → State) : i3cUse s f = f (wakeBy true s) :=
  (if_neg (by simp [hopen])).trans (if_neg hlit)

section

variable {p : BitVec 24} (hopen : pageOpen s 0 = true) (hlit : s.pwr.st ≠ 3)
include hopen hlit

/-- Strict-AUTH refuses the write of a register by I3C, not its pointer (R480). -/
theorem execI3cRegisterWrite_of_strict (hstrict : (setPtr (wakeBy true s) p).rst.strict = true) :
    execI3cRegisterWrite p v s = .next (setPtr (wakeBy true s) p) :=
  congrArg Host.Outcome.next ((i3cUse_of_up hopen hlit _).trans (if_pos (Bool.or_eq_true_iff.2 (.inl hstrict))))

theorem execI3cRegisterWrite_of_lax (hlax : (setPtr (wakeBy true s) p).rst.strict = false) (hpage : i3cPage p.toNat = true)
    (haligned : p.toNat % 8 = 0) : execI3cRegisterWrite p v s = .next (writeReg (setPtr (wakeBy true s) p) p.toNat v (BitVec.allOnes 64)) := by
  have hwrites : ((setPtr (wakeBy true s) p).rst.strict || !i3cPage p.toNat) = false := Bool.or_eq_false_iff.2 ⟨hlax, congrArg (!·) hpage⟩
  exact congrArg Host.Outcome.next ((i3cUse_of_up hopen hlit _).trans ((if_neg (ne_true_of_eq_false hwrites)).trans (if_neg (not_not_intro haligned))))

/-- A read by I3C gives the register at the pointer, which moves on (R512). -/
theorem execI3cRead_of_page (hpage : i3cPage (wakeBy true s).pins.i3cPtr.toNat = true) (haligned : (wakeBy true s).pins.i3cPtr.toNat % 8 = 0) :
    execI3cRead s = .next (send (setPtr (wakeBy true s) ((wakeBy true s).pins.i3cPtr + 8))
      (.i3c (leBytes 8 (readReg (setPtr (wakeBy true s) ((wakeBy true s).pins.i3cPtr + 8)) (wakeBy true s).pins.i3cPtr.toNat).toNat))) := by
  refine congrArg Host.Outcome.next ((i3cUse_of_up hopen hlit _).trans ?_)
  exact (if_neg (by simp [hpage])).trans (if_neg (not_not_intro haligned))

end

/-! The contact-sheet window. -/

/-- GO, of a command that its slot holds, while none runs (R500). -/
theorem cswGo_of_idle {slot : Nat} {is : Nat → Bool} {f : State → List (BitVec 32) → State} (hup : ioUp s = true) (hslot : slot < 64)
    (hopen : cswOpen s = true) (hidle : s.csw.busy = none) (his : is (cmdCode (cmdOf s slot)) = true) :
    cswGo s slot 1 is f = f (wakeBy false s) (cmdOf s slot) := by
  have hreaches : ¬ (!(ioUp s && decide (slot < 64)) || !is (cmdCode (cmdOf s slot))) = true := by simp [hup, hslot, his]
  refine (if_neg hreaches).trans ((if_neg (by simp [hopen])).trans ((if_neg (not_not_intro rfl)).trans (if_neg ?_)))
  simp [hidle]

section
/-! GO of a command that is submitted, none running: its opcode is `k`, and `why` says why it is refused. -/

variable {slot k : Nat} (n : Nat) {why : List (BitVec 32) → Nat} (hup : ioUp s = true) (hslot : slot < 64) (hopen : cswOpen s = true)
  (hidle : s.csw.busy = none) (hcode : cmdCode (cmdOf s slot) = k)
include hup hslot hopen hidle hcode

theorem cswGo_submits (hok : why (cmdOf s slot) = 0) : cswGo s slot 1 (· == k) (fun u c => submit slot n (why c) u c) =
    (let u := wakeBy false s
     joinOrder (setCswStatus { u with csw := { u.csw with busy := some slot, cmd := cmdOf s slot } } slot 1 0) (cswStep u slot n (cmdOf s slot))) :=
  (cswGo_of_idle (is := fun x => x == k) hup hslot hopen hidle (beq_iff_eq.2 hcode)).trans (if_neg (not_not_intro hok))

theorem cswGo_refuses (hno : why (cmdOf s slot) ≠ 0) : cswGo s slot 1 (· == k) (fun u c => submit slot n (why c) u c) =
    endCsw (wakeBy false s) slot (why (cmdOf s slot)) :=
  (cswGo_of_idle (is := fun x => x == k) hup hslot hopen hidle (beq_iff_eq.2 hcode)).trans (if_pos hno)

end

end Sys2Proof.Levels

open Sys2Proof Sys2Proof.Machine Sys2Proof.Levels

/-- Settles O45: each access on a page that answers, by the rule of its register. -/
theorem registerAccesses : Obligations.RegisterAccesses := by
  unfold Obligations.RegisterAccesses
  intro s s1
  refine ⟨?baseRefused, ?base, ?control, ?head, ?vector, ?function, ?whole, ?half, ?word, ?dropped, ?pointer, ?i3cWrite, ?i3cRead⟩
  case baseRefused => exact fun v hopen hen => (execErrqBaseWrite_of_open hopen).trans (congrArg Host.Outcome.next (if_pos hen))
  case base =>
    exact fun v hopen hoff => (execErrqBaseWrite_of_open hopen).trans (congrArg Host.Outcome.next (if_neg (ne_true_of_eq_false hoff)))
  case control => exact fun v hopen => congrArg Host.Outcome.next (if_pos hopen)
  case head => exact fun v hopen => congrArg Host.Outcome.next (if_pos hopen)
  case vector => exact fun v => execMsixUnmask_vector
  case function => exact execMsixUnmask_function
  case whole =>
    intro off v hup hoff haligned hopen
    have hwrite := execRegisterWrite_bar0 (v := v) (wide := true) hup hoff hopen (by simp [alignedAccess, haligned])
    rwa [Nat.div_mul_cancel (Nat.dvd_of_mod_eq_zero haligned)] at hwrite
  case half =>
    exact fun off v hup hoff haligned hopen => execRegisterWrite_bar0 hup hoff hopen (by simp [alignedAccess, haligned])
  case word => exact fun off v => execRegisterWrite_bar4
  case dropped => exact fun off size => execDroppedRegisterAccess_write
  case pointer => exact fun p hopen hlit => congrArg Host.Outcome.next (i3cUse_of_up hopen hlit _)
  case i3cWrite => exact fun p v hopen hlit => ⟨execI3cRegisterWrite_of_strict hopen hlit, execI3cRegisterWrite_of_lax hopen hlit⟩
  case i3cRead => exact execI3cRead_of_page

/-- Settles O46: GO reaches the command of its slot, which its checks refuse or start. -/
theorem contactSheetCommands : Obligations.ContactSheetCommands := by
  unfold Obligations.ContactSheetCommands
  intro s slot hup hslot hopen hidle s1 c joined
  have submits {k n : Nat} {why : List (BitVec 32) → Nat} (hcode : cmdCode c = k) := cswGo_submits (why := why) n hup hslot hopen hidle hcode
  have refuses {k n : Nat} {why : List (BitVec 32) → Nat} (hcode : cmdCode c = k) := cswGo_refuses (why := why) n hup hslot hopen hidle hcode
  refine ⟨?nop, ?reserved, ?copy, ?fill, ?gemm, ?copyRefused, ?fillRefused, ?gemmRefused, ?dropped⟩
  case nop =>
    intro hcode hclear
    refine congrArg Host.Outcome.next ((cswGo_of_idle hup hslot hopen hidle (by simp [c, hcode])).trans ?_)
    simp [c, s1, hcode, hclear]
  case reserved =>
    intro hcode
    have hnot : cmdCode c ≠ 0 := by omega
    refine congrArg Host.Outcome.next ((cswGo_of_idle hup hslot hopen hidle (by simp [c, hcode])).trans ?_)
    exact congrArg (endCsw s1 slot) (if_pos (.inl hnot))
  case copy => exact fun hcode hok => congrArg Host.Outcome.next (submits hcode hok)
  case fill => exact fun hcode hok => congrArg Host.Outcome.next (submits hcode hok)
  case gemm => exact fun hcode hok => congrArg Host.Outcome.next (submits hcode hok)
  case copyRefused => exact fun hcode hno => congrArg Host.Outcome.next (refuses hcode hno)
  case fillRefused => exact fun hcode hno => congrArg Host.Outcome.next (refuses hcode hno)
  case gemmRefused => exact fun hcode hno => congrArg Host.Outcome.next (refuses hcode hno)
  case dropped => exact fun hready => congrArg Host.Outcome.next (if_pos (by simp [hup, hready]))

/-- Settles O7: reset lists nothing, so that every table reads as its default. -/
theorem resetState : Obligations.ResetState := by
  unfold Obligations.ResetState
  exact ⟨rfl, rfl, rfl, rfl, rfl, rfl, rfl, rfl, fun _ => rfl, fun _ => rfl, fun _ => rfl, fun _ => rfl, fun _ => rfl⟩

end

section
/-! Coherence (O55): the first message of a kind is the one its command takes; then what a home, a holder and a requester do with it. -/

namespace Sys2Proof.Levels
open Sys2Proof Sys2Proof.Machine Sys2Proof.Stated

/-- Taking the first message that `p` reads: those before it are ones that `p` does not read. -/
theorem takeMsg_of_first {α : Type} {p : CohMsg → Option α} {q : CohMsg → Bool} {l t : List CohMsg} {m : CohMsg} {x : α} (h : First q l m t)
    (hp : ∀ y, q y = false → p y = none) (hx : p m = some x) : takeMsg p l = some (x, t) := by
  obtain ⟨before, after, rfl, rfl, -, hnone⟩ := h
  induction before with
  | nil => simp only [List.nil_append, takeMsg, hx]
  | cons y ys ih =>
    simp only [List.all_cons, Bool.and_eq_true, Bool.not_eq_true'] at hnone
    simp only [List.cons_append, takeMsg, hp y hnone.1, ih hnone.2, Option.map_some]

/-- A command's choice of requests, and the same choice as the statements name it. -/
def Chooses (a : Option Agent) (k : HKind → Bool) (is : HReq → Bool) : Prop :=
  ∀ r, is r = (k r.kind && (match a with | some a => decide (r.who = .agent a) | none => true))

/-- The request for a line, if a message is one that `is` accepts. -/
def reqFor (line : Nat) (is : HReq → Bool) : CohMsg → Option HReq
  | .req r => if r.line = line ∧ is r then some r else none
  | _ => none

/-- The first request of a choice is the one its command takes. -/
theorem takeReq_of_first {line : Nat} {a : Option Agent} {k : HKind → Bool} {is : HReq → Bool} {p : CohMsg → Option HReq} {l t : List CohMsg} {r : HReq}
    (hc : Chooses a k is) (h : First (isReq line a k) l (.req r) t) (hp : ∀ y, p y = reqFor line is y) : takeMsg p l = some (r, t) := by
  have hsame (q : HReq) : isReq line a k (.req q) = true ↔ q.line = line ∧ is q = true := by
    have hsplit (w : Bool) : (decide (q.line = line) && k q.kind && w) = true ↔ q.line = line ∧ (k q.kind && w) = true := by
      rw [Bool.and_assoc, Bool.and_eq_true, decide_eq_true_iff]
    rw [hc q]
    exact hsplit _
  obtain ⟨-, -, -, -, hr, -⟩ := id h
  refine takeMsg_of_first h (fun y hy => (hp y).trans ?_) ((hp _).trans (if_pos ((hsame r).1 hr)))
  cases y with
  | req q => exact if_neg (fun hq => by rw [(hsame q).2 hq] at hy; cases hy)
  | _ => rfl

section Requests
variable {s : State} {line : Nat} {a : Option Agent} {k : HKind → Bool} {is : HReq → Bool} {r : HReq} {t : List CohMsg}
variable (hs : serving s = true) (hw : ¬ (r.who = .agent .host ∧ hostWriting s = true)) (hc : Chooses a k is)
  (h : First (isReq line a k) s.coh.msgs (.req r) t)
include hs hw hc h

theorem deliver_of_first : deliver s line is = queued (withMsgs s t) line r := by
  unfold deliver
  rw [hs, takeReq_of_first hc h (fun y => ?same)]
  case same => cases y <;> rfl
  exact (if_neg (by decide)).trans (if_neg hw)

theorem arriving_of_first : arriving s line is = some r := by
  have hwait : ¬ (r.who == .agent .host && hostWriting s) = true := fun e => hw (by
    obtain ⟨ha, hb⟩ := (Bool.and_eq_true _ _).mp e
    exact ⟨eq_of_beq ha, hb⟩)
  unfold arriving
  rw [hs, takeReq_of_first hc h (fun y => ?same)]
  case same => cases y <;> rfl
  exact (if_neg (by decide)).trans (if_neg hwait)

/-- A request whose way shows nothing is queued at its home. -/
theorem homeTakes_none_of_first : homeTakes s line .none is = queued (withMsgs s t) line r := by
  unfold homeTakes
  rw [arriving_of_first hs hw hc h]
  exact deliver_of_first hs hw hc h

/-- A directory entry that cannot be trusted is fog. -/
theorem homeTakes_entryUe_of_first : homeTakes s line .entryUe is = homeFog s 0x0704 line 7 := by
  unfold homeTakes
  rw [arriving_of_first hs hw hc h]

/-- A header lost on the request's way is fog. -/
theorem homeTakes_header_of_first {e g x : Nat} {d : Bool} (hx : x / 64 = line)
    (hb : beatOn s (askerDies r.who) (asksData r) (bringsData r) (.header e g d x) = true) :
    homeTakes s line (.wire (.header e g d x)) is = fog (logBeat s e g d true) 0x0704 (receiver e d) 31 line 7 := by
  have hline : lineOf (beatPpa (.header e g d x)) = line := hx
  unfold homeTakes
  rw [arriving_of_first hs hw hc h]
  subst hx
  have hon : ¬ (!(lineOf (beatPpa (.header e g d x)) == x / 64 &&
      beatOn s (askerDies r.who) (asksData r) (bringsData r) (.header e g d x))) = true := by
    rw [hb, hline, beq_self_eq_true]; decide
  exact (if_neg hon).trans (if_pos rfl)

end Requests

/-! The choice of each command. -/

theorem chooses_agent (a : Agent) (k : HKind → Bool) : Chooses (some a) k (fun r => r.who == .agent a && k r.kind) :=
  fun r => Bool.and_comm (decide (r.who = .agent a)) (k r.kind)

theorem chooses_any (k : HKind → Bool) : Chooses none k (fun r => k r.kind) := fun r => (Bool.and_true (k r.kind)).symm

theorem chooses_of_same {a : Option Agent} {k : HKind → Bool} {is js : HReq → Bool} (h : Chooses a k is) (hj : ∀ r, js r = is r) : Chooses a k js :=
  fun r => (hj r).trans (h r)

theorem chooses_rds (a : Agent) : Chooses (some a) isRds (fun r => r.who == .agent a && (match r.kind with | .rds _ => true | _ => false)) :=
  chooses_of_same (chooses_agent a isRds) (fun r => by cases r.kind <;> rfl)

theorem chooses_wrinv : Chooses none isWrinv (fun r => match r.kind with | .wrinv .. => true | _ => false) :=
  chooses_of_same (chooses_any isWrinv) (fun r => by cases r.kind <;> rfl)

theorem chooses_ath : Chooses none isAth (fun r => match r.kind with | .ath .. => true | _ => false) :=
  chooses_of_same (chooses_any isAth) (fun r => by cases r.kind <;> rfl)

/-! The first message of each of the other kinds. -/

section Kinds
variable {a : Agent} {line : Nat} {l t : List CohMsg}

/-- What a command reads off a message of its kind, agent and line. -/
def ackFor (a : Agent) (line : Nat) : CohMsg → Option Unit | .ack b l => if b = a ∧ l = line then some () else none | _ => none
def snpFor (a : Agent) (line : Nat) (k : Snp) : CohMsg → Option Unit | .snp b l j => if b = a ∧ l = line ∧ j = k then some () else none | _ => none
def wbFor (a : Agent) (line : Nat) : CohMsg → Option (List Byte) | .wb b l d => if b = a ∧ l = line then some d else none | _ => none
def rspFor (a : Agent) (line : Nat) (k : Rsp) : CohMsg → Option (Option (List Byte))
  | .rsp b l j d => if b = a ∧ l = line ∧ j = k then some d else none
  | _ => none
def grantFor (a : Agent) (line : Nat) : CohMsg → Option (LineSt × Option (List Byte))
  | .grant b l st d => if b = a ∧ l = line then some (st, d) else none
  | _ => none

theorem takeAck_of_first {p : CohMsg → Option Unit} (h : First (fun m => decide (m = .ack a line)) l (.ack a line) t) (hp : ∀ y, p y = ackFor a line y) :
    takeMsg p l = some ((), t) := by
  refine takeMsg_of_first h (fun y hy => (hp y).trans ?_) ((hp _).trans (if_pos ⟨rfl, rfl⟩))
  cases y with
  | ack b l => exact if_neg (fun e => of_decide_eq_false hy (by rw [e.1, e.2]))
  | _ => rfl

theorem takeSnp_of_first {p : CohMsg → Option Unit} {k : Snp} (h : First (fun m => decide (m = .snp a line k)) l (.snp a line k) t)
    (hp : ∀ y, p y = snpFor a line k y) : takeMsg p l = some ((), t) := by
  refine takeMsg_of_first h (fun y hy => (hp y).trans ?_) ((hp _).trans (if_pos ⟨rfl, rfl, rfl⟩))
  cases y with
  | snp b l j => exact if_neg (fun e => of_decide_eq_false hy (by rw [e.1, e.2.1, e.2.2]))
  | _ => rfl

theorem takeWb_of_first {p : CohMsg → Option (List Byte)} {d : List Byte} (h : First (isWb a line) l (.wb a line d) t) (hp : ∀ y, p y = wbFor a line y) :
    takeMsg p l = some (d, t) := by
  refine takeMsg_of_first h (fun y hy => (hp y).trans ?_) ((hp _).trans (if_pos ⟨rfl, rfl⟩))
  cases y with
  | wb b l d => exact if_neg (of_decide_eq_false hy)
  | _ => rfl

theorem takeRsp_of_first {p : CohMsg → Option (Option (List Byte))} {k : Rsp} {d : Option (List Byte)} (h : First (isRsp a line k) l (.rsp a line k d) t)
    (hp : ∀ y, p y = rspFor a line k y) : takeMsg p l = some (d, t) := by
  refine takeMsg_of_first h (fun y hy => (hp y).trans ?_) ((hp _).trans (if_pos ⟨rfl, rfl, rfl⟩))
  cases y with
  | rsp b l j d => exact if_neg (of_decide_eq_false hy)
  | _ => rfl

theorem takeGrant_of_first {p : CohMsg → Option (LineSt × Option (List Byte))} {st : LineSt} {d : Option (List Byte)}
    (h : First (isGrant a line) l (.grant a line st d) t) (hp : ∀ y, p y = grantFor a line y) : takeMsg p l = some ((st, d), t) := by
  refine takeMsg_of_first h (fun y hy => (hp y).trans ?_) ((hp _).trans (if_pos ⟨rfl, rfl⟩))
  cases y with
  | grant b l st d => exact if_neg (of_decide_eq_false hy)
  | _ => rfl

end Kinds

section Messages
variable {s : State} {line : Nat} {a : Agent} {t : List CohMsg} (hs : serving s = true)
include hs

/-! Acknowledgements. -/

section Ack
variable (h : First (fun m => decide (m = .ack a line)) s.coh.msgs (.ack a line) t)
include h

/-- An Ack of the request that was granted ends it. -/
theorem execAckMsg_of_granted {act : Active} (hact : (homeLine s line).active = some act) (hg : act.granted = true) (hw : act.req.who = .agent a) :
    execAckMsg a line s = .next (retryEntries (released (withMsgs s t) line)) := by
  unfold execAckMsg
  rw [hs, takeAck_of_first h (fun y => ?same)]
  case same => cases y <;> rfl
  have hhere : (homeLine (withMsgs s t) line).active = some act := hact
  have hgo : (act.granted && act.req.who == .agent a) = true := by rw [hg, hw, beq_self_eq_true]; rfl
  simp only [hhere, hgo]
  rfl

/-- An Ack that no request in service awaits is fog. -/
theorem execAckMsg_of_idle (hact : (homeLine s line).active = none) : execAckMsg a line s = .next (homeFog (withMsgs s t) 0x0701 line (agentId a)) := by
  unfold execAckMsg
  rw [hs, takeAck_of_first h (fun y => ?same)]
  case same => cases y <;> rfl
  have hhere : (homeLine (withMsgs s t) line).active = none := hact
  simp only [hhere]
  rfl

end Ack

/-! Write-backs. -/

section WriteBack
variable {d : List Byte} (h : First (isWb a line) s.coh.msgs (.wb a line d) t)
include h

/-- A write-back whose way shows nothing is applied. -/
theorem execWb_of_first : execWb a line .none s = .next (applyWb (taint (withMsgs s t) a line false) a line 0 d (tainted s a line)) := by
  unfold execWb
  rw [hs, takeWb_of_first h (fun y => ?same)]
  case same => cases y <;> rfl
  show Host.Outcome.next (applyWb _ a line 0 d (tainted s a line || false)) = _
  rw [Bool.or_false]

/-- One with a beat in error is applied with poison. -/
theorem execWb_of_badBeat {e g p : Nat} {b : Bool} (hp : p / 64 = line)
    (hb : beatOn (withMsgs s t) (askerDies (.agent a)) false true (.data e g b p) = true) :
    execWb a line (.wire (.data e g b p)) s = .next (applyWb (taint (logBeat (withMsgs s t) e g b false) a line false) a line 0 d true) := by
  have hline : (lineOf (beatPpa (.data e g b p)) == line) = true := beq_iff_eq.mpr hp
  have hfinds : wbFinds (withMsgs s t) a line (.wire (.data e g b p)) = (logBeat (withMsgs s t) e g b false, true, true) := by
    unfold wbFinds
    simp only [hline, hb]
    rfl
  unfold execWb
  rw [hs, takeWb_of_first h (fun y => ?same)]
  case same => cases y <;> rfl
  simp only [hfinds, Bool.or_true]
  rfl

end WriteBack

/-! Snoops. -/

section Snoop
variable {k : Snp} (h : First (fun m => decide (m = .snp a line k)) s.coh.msgs (.snp a line k) t)
include h

/-- The first snoop is the one answered. -/
theorem snooped_of_first : snooped s a line k = answer (withMsgs s t) a line k := by
  unfold snooped
  rw [hs, takeSnp_of_first h (fun y => ?same)]
  case same => cases y <;> rfl
  exact if_neg (by decide)

end Snoop

/-! Responses. -/

section Response
variable {k : Rsp} {d : Option (List Byte)}

/-- A response on its way is taken into its home. -/
theorem rspFrom_of_first (ha : a ≠ .host) (h : First (isRsp a line k) s.coh.msgs (.rsp a line k d) t) (e : Option (List Byte)) :
    rspFrom s a line k e = respond (withMsgs s t) a line k d := by
  unfold rspFrom
  rw [hs, takeRsp_of_first h (fun y => ?same)]
  case same => cases y <;> rfl
  exact (if_neg (by decide)).trans (if_neg ha)

/-- The host's response comes with its command, its data fitted to a line. -/
theorem rspFrom_host (hl : s.cxl.link = .l0) (d : Option (List Byte)) : rspFrom s .host line k d = respond s .host line k (d.map (fitBytes 64)) := by
  unfold rspFrom
  rw [hs]
  exact (if_neg (by decide)).trans ((if_pos rfl).trans (if_pos hl))

end Response

/-! Grants. -/

/-- A grant that brings data: the line is held in a way of the cache, and the Ack goes out. -/
theorem takeGrant_of_data {st : LineSt} {d : List Byte} (h : First (isGrant a line) s.coh.msgs (.grant a line st (some d)) t) :
    takeGrant a line s = post (setCopy (copyWay (withMsgs s t) a line) a line (some ⟨st, d⟩)) (.ack a line) := by
  unfold takeGrant
  rw [hs, takeGrant_of_first h (fun y => ?same)]
  case same => cases y <;> rfl
  exact if_neg (by decide)

/-! What else the homes meet. -/

/-- The first agent that a home still waits for, and whose time counts, is named in the fog. -/
theorem execSnoopTimeout_of_wait {act : Active} {l : List Agent} (hact : (homeLine s line).active = some act)
    (hw : act.wait.filter (fun b => b != .host || s.cxl.link == .l0) = a :: l) : execSnoopTimeout line s = .next (homeFog s 0x0702 line (agentId a)) := by
  unfold execSnoopTimeout
  simp only [hs, hact, hw, List.cons_append]
  rfl

theorem execMachineCheck_of_serving (m : MCheck) : execMachineCheck m s = .next (raiseSrc (fog s 0x0705 (8 + m.die % 2) 31 m.line 7) 12) := by
  have hready : s.rst.phase = .ready := by
    obtain ⟨hp, -⟩ := (Bool.and_eq_true _ _).mp hs
    exact eq_of_beq hp
  exact congrArg Host.Outcome.next (if_pos hready)

theorem execBiconflict_of_wait {act : Active} (hl : s.cxl.link = .l0) (hact : (homeLine s line).active = some act) (hw : act.wait.contains .host = true) :
    execBiconflict line s = .next (send (bump s (rCOH_HOME_RACE (homeOf s line)) 63 48) (.cxl mBIConflictAck (hpaOf s line) [])) := by
  have hup : (s.cxl.link != .l0) = false := by rw [hl]; rfl
  unfold execBiconflict
  simp only [hs, hup, hact, hw]
  rfl

end Messages

/-! How a holder answers, one case each. -/

section Answer
variable (s : State) (line : Nat)

theorem answer_ring_held {k : Snp} (h : ringHolds s line = true) : answer s .ring line k = post (wakeWatch s false line) (.rsp .ring line .i none) :=
  (if_pos rfl).trans (if_pos h)

theorem answer_ring_missed {k : Snp} (h : ringHolds s line = false) : answer s .ring line k = post s (.rsp .ring line .miss none) :=
  (if_pos rfl).trans (if_neg (by rw [h]; decide))

variable {s line} {a : Agent} (ha : a ≠ .ring)
include ha

theorem answer_missed {k : Snp} (h : copyOf s a line = none) : answer s a line k = post s (.rsp a line (if wbOnWay s a line then .wbif else .miss) none) := by
  unfold answer
  rw [if_neg ha, h]

theorem answer_held_s {c : CLine} (h : copyOf s a line = some c) : answer s a line .s =
    post (setCopy s a line (some { c with st := if isDirty c then .o else .s })) (.rsp a line (if isDirty c then .o else .s) (if isDirty c then some c.data else none)) := by
  unfold answer
  rw [if_neg ha, h]

theorem answer_held_x {c : CLine} (h : copyOf s a line = some c) : answer s a line .x =
    post (if isDirty c then setCopy s a line none else taint (setCopy s a line none) a line false) (.rsp a line .i (if isDirty c then some c.data else none)) := by
  unfold answer
  rw [if_neg ha, h]

theorem answer_held_cur {c : CLine} (h : copyOf s a line = some c) : answer s a line .cur =
    post s (.rsp a line (if isDirty c then .o else .s) (if isDirty c then some c.data else none)) := by
  unfold answer
  rw [if_neg ha, h]

end Answer

/-! What a home does with a response. -/

section Respond
variable {s : State} {a : Agent} {line : Nat} {act : Active} {k : Rsp} (d : Option (List Byte)) (hact : (homeLine s line).active = some act)
include hact

theorem respond_of_awaited (hw : act.wait.contains a = true) (hk : allowedRsp a (kindSnp act) k = true) :
    respond s a line k d = advance (takeRsp s a line act k d) line := by
  unfold respond
  simp only [hact]
  exact if_pos (by rw [hw, hk]; rfl)

theorem respond_of_forbidden (hk : allowedRsp a (kindSnp act) k = false) : respond s a line k d = homeFog s 0x0701 line (agentId a) := by
  unfold respond
  simp only [hact]
  exact if_neg (by rw [hk, Bool.and_false]; decide)

end Respond

theorem respond_of_idle {s : State} {a : Agent} {line : Nat} {k : Rsp} (d : Option (List Byte)) (hact : (homeLine s line).active = none) :
    respond s a line k d = homeFog s 0x0701 line (agentId a) := by
  unfold respond
  simp only [hact]

/-! A Done at its requester. -/

section Done
variable {s : State} {n l : Nat} {v : BitVec 64} {w : Asker} {t : List CohMsg} (h : takeDone n s.coh.msgs = some ((w, l, v), t))
include h

theorem execDoneMsg_of_ring {r : Nat} (hw : w = .ring r) (hp : poisoned s l = false) : execDoneMsg n s = .next (report (withMsgs s t) r (Report.status_ 0)) := by
  subst hw
  unfold execDoneMsg
  simp only [h]
  exact congrArg Host.Outcome.next (if_neg (by rw [show poisoned (withMsgs s t) l = poisoned s l from rfl, hp]; decide))

theorem execDoneMsg_of_other (hw : ∀ r, w ≠ .ring r) : execDoneMsg n s = .next (withMsgs s t) := by
  cases w with
  | ring r => exact absurd rfl (hw r)
  | _ => unfold execDoneMsg; simp only [h]

end Done

end Sys2Proof.Levels

open Sys2Proof Sys2Proof.Machine Sys2Proof.Stated Sys2Proof.Levels

/-- Settles O55: each command takes the first message of its kind, and the home, the holder or the requester does with it what its own rule says. -/
theorem homesAndHolders : Obligations.HomesAndHolders := by
  unfold Obligations.HomesAndHolders
  intro s line hs
  refine ⟨?requests, ?acks, ?writebacks, ?snoops, ?responses, ?host, ?grants, ?dones, ?timeout, ?mcheck⟩
  case requests =>
    intro a r t hw
    refine ⟨?rds, ?faults, ?rdx, ?upg, ?rdcur, ?wrinv, ?ath⟩
    case rds => exact fun h => congrArg Host.Outcome.next (homeTakes_none_of_first hs hw (chooses_rds a) h)
    case faults => exact fun h => ⟨congrArg Host.Outcome.next (homeTakes_entryUe_of_first hs hw (chooses_rds a) h),
      fun e g d x hx hb => congrArg Host.Outcome.next (homeTakes_header_of_first hs hw (chooses_rds a) h hx hb)⟩
    case rdx => exact fun h => congrArg Host.Outcome.next (homeTakes_none_of_first hs hw (chooses_agent a _) h)
    case upg => exact fun h => congrArg Host.Outcome.next (homeTakes_none_of_first hs hw (chooses_agent a _) h)
    case rdcur => exact fun h => congrArg Host.Outcome.next (homeTakes_none_of_first hs hw (chooses_any _) h)
    case wrinv => exact fun h => congrArg Host.Outcome.next (homeTakes_none_of_first hs hw chooses_wrinv h)
    case ath => exact fun h => congrArg Host.Outcome.next (homeTakes_none_of_first hs hw chooses_ath h)
  case acks => exact fun a t h => ⟨fun act hact hg hw => execAckMsg_of_granted hs h hact hg hw, fun hact => execAckMsg_of_idle hs h hact⟩
  case writebacks => exact fun a d t h => ⟨execWb_of_first hs h, fun e g x p hp hb => execWb_of_badBeat hs h hp hb⟩
  case snoops =>
    intro a t c k hc h
    have hexec : exec c s = .next (answer (withMsgs s t) a line k) := by
      refine Eq.trans ?_ (congrArg Host.Outcome.next (snooped_of_first hs h))
      simp only [List.mem_cons, Prod.mk.injEq, List.not_mem_nil, or_false] at hc
      obtain ⟨rfl, rfl⟩ | ⟨rfl, rfl⟩ | ⟨rfl, rfl⟩ := hc <;> rfl
    refine ⟨?held, ?gone, ?none, ?copy⟩
    case held => exact fun ha hh => hexec.trans (congrArg Host.Outcome.next (by subst ha; exact answer_ring_held _ _ hh))
    case gone => exact fun ha hh => hexec.trans (congrArg Host.Outcome.next (by subst ha; exact answer_ring_missed _ _ hh))
    case none => exact fun ha hn => hexec.trans (congrArg Host.Outcome.next (answer_missed ha hn))
    case copy =>
      refine fun x ha hx => hexec.trans (congrArg Host.Outcome.next ?_)
      cases k with
      | s => exact answer_held_s ha hx
      | x => exact answer_held_x ha hx
      | cur => exact answer_held_cur ha hx
  case responses =>
    intro a t d e c k ha hc h
    have hexec : exec c s = .next (respond (withMsgs s t) a line k d) := by
      simp only [List.mem_cons, Prod.mk.injEq, List.not_mem_nil, or_false] at hc
      obtain ⟨rfl, rfl⟩ | ⟨rfl, rfl⟩ | ⟨rfl, rfl⟩ | ⟨rfl, rfl⟩ | ⟨rfl, rfl⟩ := hc <;>
        exact congrArg Host.Outcome.next (rspFrom_of_first hs ha h _)
    exact ⟨fun act hact hw hk => hexec.trans (congrArg Host.Outcome.next (respond_of_awaited (s := withMsgs s t) d hact hw hk)),
      fun hact => hexec.trans (congrArg Host.Outcome.next (respond_of_idle (s := withMsgs s t) d hact))⟩
  case host =>
    intro d act hl hact hw
    have htaken (k : Rsp) (hk : allowedRsp .host (kindSnp act) k = true) (d : Option (List Byte)) :
        rspFrom s .host line k d = advance (takeRsp s .host line act k (d.map (fitBytes 64))) line :=
      (rspFrom_host hs hl d).trans (respond_of_awaited _ hact hw hk)
    have hfog (k : Rsp) (hk : allowedRsp .host (kindSnp act) k = false) (d : Option (List Byte)) : rspFrom s .host line k d = homeFog s 0x0701 line 2 :=
      (rspFrom_host hs hl d).trans (respond_of_forbidden _ hact hk)
    refine ⟨?i, ?i', ?miss, ?clean, ?clean', ?conflict⟩
    case i => exact fun hk => congrArg Host.Outcome.next (htaken .i (by rw [hk]; rfl) d)
    case i' => exact fun hk => congrArg Host.Outcome.next (hfog .i (beq_eq_false_iff_ne.mpr hk) d)
    case miss => cases d <;> exact congrArg Host.Outcome.next (htaken .miss rfl none)
    case clean =>
      refine fun hk => congrArg Host.Outcome.next (htaken .s ?_ d)
      show (kindSnp act != .x && true) = true
      rw [bne_iff_ne.mpr hk]; rfl
    case clean' => exact fun hk => congrArg Host.Outcome.next (hfog .s (by rw [hk]; rfl) d)
    case conflict => exact execBiconflict_of_wait hs hl hact hw
  case grants => exact fun a st d t h => congrArg (fun u => Host.Outcome.next (drainAll u)) (takeGrant_of_data hs h)
  case dones => exact fun n w l v t h => ⟨fun r hw hp => execDoneMsg_of_ring h hw hp, fun hw => execDoneMsg_of_other h hw⟩
  case timeout => exact fun act a l hact hw => execSnoopTimeout_of_wait hs hact hw
  case mcheck => exact fun m => execMachineCheck_of_serving hs m

end

section
/-! The CXL link and the reset pins (O57). -/

namespace Sys2Proof.Levels
open Sys2Proof Sys2Proof.Machine

/-- While the link is in L0 a message goes out at once. -/
theorem send_of_l0 {s : State} (hl : s.cxl.link = .l0) (m : Msg) : send s m = { s with out := s.out ++ [m] } := by
  have hfree : (byCxl m && linkHeld s) = false := by
    rw [show linkHeld s = false by unfold linkHeld; rw [hl]; rfl, Bool.and_false]
  unfold send
  simp only [hfree]
  rfl

theorem foldl_send_of_l0 {α : Type} (f : α → Msg) (l : List α) {s : State} (hl : s.cxl.link = .l0) :
    l.foldl (fun s e => send s (f e)) s = { s with out := s.out ++ l.map f } := by
  induction l generalizing s with
  | nil => simp only [List.foldl_nil, List.map_nil, List.append_nil]
  | cons x xs ih =>
    rw [List.foldl_cons, send_of_l0 hl, ih (s := { s with out := s.out ++ [f x] }) hl]
    simp only [List.map_cons, List.append_assoc, List.singleton_append]

/-- Waking watched lines touches the rings alone. -/
theorem foldl_wakeWatch_rings {α : Type} (host : Bool) (f : α → Nat) (l : List α) (s : State) :
    ∃ r, l.foldl (fun s e => wakeWatch s host (f e)) s = { s with rings := r } := by
  induction l generalizing s with
  | nil => exact ⟨s.rings, rfl⟩
  | cons x xs ih =>
    obtain ⟨r, hr⟩ := ih (wakeWatch s host (f x))
    exact ⟨r, hr⟩

/-- The message that writes a modified line back. -/
def evictMsg (e : Nat × HlcLine) : Msg := .cxl mDirtyEvict (e.1 * 64) e.2.data

/-- From L0 the cache's modified lines go out, and it holds no line any more. -/
theorem evictAll_of_l0 {s : State} (hl : s.cxl.link = .l0) : evictAll s = { s with
    out := s.out ++ (s.coh.hlc.filter (fun e => e.2.st == .m)).map evictMsg
    coh := { s.coh with
      rsv := s.coh.rsv.filter (fun e => !decide (2 ^ 40 < e.2)), hlc := []
      hout := s.coh.hout ++ (s.coh.hlc.filter (fun e => e.2.st == .m)).map (fun e => ⟨e.1, .evict, whoSched, 0, none⟩) } } := by
  have hsent := foldl_send_of_l0 evictMsg (s.coh.hlc.filter (fun e => e.2.st == .m)) hl
  unfold evictMsg at hsent
  unfold evictAll
  simp only [hsent]
  rfl

/-- PME_Turn_Off from L0, outside fog. -/
theorem execPmeTurnOff_of_up {s : State} (hup : ioUp s = true) (hfog : inFog s = false) : ∃ t, execPmeTurnOff s = .next t ∧ t.cxl.link = .l2 ∧
    t.coh.hlc = [] ∧ t.out = s.out ++ (s.coh.hlc.filter (fun e => e.2.st == .m)).map evictMsg ∧ (∀ o ∈ t.coh.hout, o.kind ≠ .evict) ∧
    t.mem = s.mem ∧ t.regs = s.regs := by
  have hl : s.cxl.link = .l0 := by
    obtain ⟨hl, -⟩ := (Bool.and_eq_true _ _).mp hup
    exact eq_of_beq hl
  obtain ⟨r, hr⟩ := foldl_wakeWatch_rings true (fun e : Nat × HlcLine => e.1) s.coh.hlc s
  have hevict := evictAll_of_l0 (s := { s with rings := r }) hl
  unfold execPmeTurnOff
  simp only [hup, hfog, hr, hevict]
  refine ⟨_, rfl, rfl, rfl, rfl, fun o ho => ?_, rfl, rfl⟩
  exact bne_iff_ne.mp (List.mem_filter.mp ho).2

/-! A link loss from L0 or Recovery, outside fog. -/

section Loss
variable {s : State} (cause : Nat)

/-- What a loss leaves of the link and of what stood open over it, the loss logged. -/
def lossBegun (s : State) (cause : Nat) : State :=
  let s1 := logLoss s cause (s.coh.hout.filter (fun o => o.kind == .write || o.kind == .evict)).length (hasDirty s)
  { s1 with
    cxl := { s1.cxl with link := .down, width := 0, rate := 0, lost := true, held := [], reads := [], invs := [] }
    coh := { s1.coh with hout := [], hbuf := [], fills := [], rsv := s1.coh.rsv.filter (fun e => decide (e.2 ≤ 2 ^ 40)) }
    errs := { s1.errs with hostWait := none } }

variable (hl : s.cxl.link ≠ .down) (hfog : inFog s = false)
include hl hfog

/-- With no modified line the host's lines are dropped and the loss is settled. -/
theorem linkLoss_of_clean (hd : hasDirty s = false) (hfog2 : inFog (lossBegun s cause) = false) : linkLoss s cause =
    pendingReset (settleLoss { lossBegun s cause with coh := { (lossBegun s cause).coh with hlc := [] } } s.coh.hout) := by
  have hclean : (hasDirty s && !inFog s) = hasDirty s := by rw [hfog]; exact Bool.and_true _
  unfold linkLoss
  rw [if_neg hl]
  simp only [hclean]
  rw [if_neg (by rw [hd]; decide)]
  exact congrArg pendingReset (if_neg (by exact fun e => Bool.false_ne_true (hfog2.symm.trans e)))

/-- A modified line makes it fog, in the line's name. -/
theorem linkLoss_of_dirty (hd : hasDirty s = true) {e : Nat × HlcLine} (he : s.coh.hlc.find? (fun e => e.2.st == .m) = some e) : linkLoss s cause =
    pendingReset (fog (lossBegun s cause) 0x0703 8 31 e.1 2) := by
  have hdirty : (hasDirty s && !inFog s) = hasDirty s := by rw [hfog]; exact Bool.and_true _
  unfold linkLoss
  rw [if_neg hl]
  simp only [hdirty]
  rw [if_pos hd, he]
  rfl

end Loss

/-- The link trains into L0 and what waited for it goes. -/
theorem execLinkUp_of_trains {s : State} {width rate : Nat} (cxl cacheEn memEn ats : Bool) (bars : List (BitVec 64)) (ht : trainsFrom s = true)
    (hl : s.cxl.link = .down ∨ s.cxl.link = .l2) (hw : width = 4 ∨ width = 8 ∨ width = 16) (hr1 : 1 ≤ rate) (hr6 : rate ≤ 6) :
    execLinkUp width rate cxl cacheEn memEn ats s bars = .next (flushErrs 65 (sendWaiting { wakeBy false s with cxl := { (wakeBy false s).cxl with
      link := .l0, width := width, rate := rate, mode := cxl && decide (5 ≤ rate), cacheEn := (cxl && decide (5 ≤ rate)) && cacheEn
      memEn := (cxl && decide (5 ≤ rate)) && memEn, atsEn := ats, bars := bars, lost := false, trained := true } })) := by
  refine congrArg Host.Outcome.next (if_neg ?_)
  rintro (h | ⟨h, h'⟩ | h | h | h)
  · rw [ht] at h; cases h
  · exact hl.elim h h'
  · exact h hw
  · omega
  · omega

end Sys2Proof.Levels

open Sys2Proof Sys2Proof.Machine Sys2Proof.Levels

/-- Settles O57: training, Recovery, the losses with their causes, L2 and the pins, each by the rule of its event. -/
theorem linkEventsAndHostPins : Obligations.LinkEventsAndHostPins := by
  unfold Obligations.LinkEventsAndHostPins
  intro s
  refine ⟨?up, ?recovery, ?back, ?loss, ?hot, ?flr, ?ide, ?viral, ?off, rfl, rfl, ?warm, ?perst⟩
  case up => exact fun width rate cxl cacheEn memEn ats bars ht hl hw hr1 hr6 => execLinkUp_of_trains cxl cacheEn memEn ats bars ht hl hw hr1 hr6
  case recovery => exact fun hl => congrArg Host.Outcome.next (if_pos hl)
  case back => exact fun hl => congrArg Host.Outcome.next (if_pos hl)
  case loss =>
    intro hl c cause hc hcause hfog
    have hup : s.cxl.link ≠ .down := fun e => by rw [e] at hl; exact hl.elim nofun nofun
    have hexec : exec c s = .next (linkLoss s cause) := by
      simp only [List.mem_cons, Prod.mk.injEq, List.not_mem_nil, or_false] at hc
      obtain ⟨rfl, rfl⟩ | ⟨rfl, rfl⟩ := hc
      · exact congrArg Host.Outcome.next (if_neg (fun e => by rw [e] at hl; exact hl.elim nofun nofun))
      · exact congrArg Host.Outcome.next (if_pos (hcause rfl))
    exact ⟨fun hd hfog2 => hexec.trans (congrArg Host.Outcome.next (linkLoss_of_clean cause hup hfog hd hfog2)),
      fun e hd he => hexec.trans (congrArg Host.Outcome.next (linkLoss_of_dirty cause hup hfog hd he))⟩
  case hot => exact fun hl => congrArg Host.Outcome.next (if_pos hl)
  case flr => exact fun hup => congrArg Host.Outcome.next (if_pos hup)
  case ide => exact fun hup hide => congrArg Host.Outcome.next (if_pos (by rw [hup, hide]; rfl))
  case viral => exact fun hup => congrArg Host.Outcome.next (if_pos hup)
  case off =>
    intro hup hfog
    obtain ⟨t, ht, hl2, hhlc, hout, hkinds, hmem, hregs⟩ := execPmeTurnOff_of_up hup hfog
    refine ⟨t, ht, hl2, hhlc, fun e he hm => ?_, hkinds, hmem, hregs⟩
    rw [hout]
    exact List.mem_append_right _ (List.mem_map_of_mem (f := evictMsg) (List.mem_filter.mpr ⟨he, beq_iff_eq.mpr hm⟩))
  case warm => exact fun h => congrArg Host.Outcome.next (if_pos h)
  case perst => exact fun h => congrArg Host.Outcome.next (if_pos h)

end

section
/-! The DOE mailboxes and JTAG (O58). -/

namespace Sys2Proof.Levels
open Sys2Proof Sys2Proof.Machine

/-! A request over mailbox 1, on a package that answers. -/

section Mailbox
variable {s : State} (hup : doeUp s = true)
include hup

theorem spdmAt_of_reached {least : Nat} (h : least ≤ s.sec.spdm) (f : State → State) : spdmAt s least f = f s := by
  unfold spdmAt
  rw [hup]
  exact (if_neg (by decide)).trans (if_neg (Nat.not_lt.mpr h))

theorem spdmAt_of_early {least : Nat} (h : s.sec.spdm < least) (f : State → State) : spdmAt s least f = spdmError s := by
  unfold spdmAt
  rw [hup]
  exact (if_neg (by decide)).trans (if_pos h)

theorem link_of_doeUp : s.cxl.link = .l0 := by
  obtain ⟨hio, -⟩ := (Bool.and_eq_true _ _).mp hup
  obtain ⟨hl, -⟩ := (Bool.and_eq_true _ _).mp hio
  exact eq_of_beq hl

theorem execDoeDiscovery_of_up {m i p : Nat} (h : (doeProtocols m)[i]? = some p) : execDoeDiscovery m i s =
    .next (send s (.doe m 0 [BitVec.ofNat 8 p, BitVec.ofNat 8 (if i + 1 < (doeProtocols m).length then i + 1 else 0)])) := by
  unfold execDoeDiscovery
  simp only [hup, h]
  rfl

theorem execCxlTableAccess_of_up {i : Nat} {d : List Byte} (h : cdat[i]? = some d) : execCxlTableAccess i s = .next (send s (.doe 0 1 d)) := by
  unfold execCxlTableAccess
  simp only [hup, h]
  rfl

/-- END_SESSION in a session: the answer goes out in it, and it is over. -/
theorem execEndSession_of_secured (h : 3 ≤ s.sec.spdm) (hsec : s.sec.secured = true) : ∃ t, execEndSession s = .next t ∧ t.sec.secured = false ∧
    t.out = s.out ++ [.doe 1 3 (BitVec.ofNat 8 0x6C :: Config.stdMessage 0x6C 0)] := by
  refine ⟨_, congrArg Host.Outcome.next ((spdmAt_of_reached hup h _).trans (if_pos hsec)), rfl, ?_⟩
  show (spdmSend s 0x6C []).out = _
  unfold spdmSend
  rw [if_pos hsec, send_of_l0 (link_of_doeUp hup), List.append_nil]

theorem execQuote_of_up (nonce : List Byte) : execQuote nonce s =
    .next (useFree (send s (.doe 1 4 (quoteBody s nonce ++ signed s (Config.sha3 (quoteBody s nonce))))) 1) := by
  unfold execQuote
  rw [hup]
  rfl

/-- SETKEY of a whole key in a session of an unowned package. -/
theorem execSetkey_of_unowned {key : List Byte} (hsec : s.sec.secured = true) (hcur : s.flash.current = none) (hlen : key.length = 32) :
    execSetkey key s = .next (send { s with
      flash := { appendCtr s.flash (ctrRecord key 0) with current := some key, previous := none }, sec := { s.sec with rotations := 0 } } (.doe 1 4 [0x82])) := by
  have htaken : (s.sec.secured && !owned s && key.length == 32) = true := by unfold owned; rw [hsec, hcur, hlen]; rfl
  unfold execSetkey
  rw [hup]
  exact congrArg Host.Outcome.next ((if_neg (by decide)).trans (if_pos htaken))

/-- Any other SETKEY is counted and answered with an error. -/
theorem execSetkey_of_refused {key : List Byte} (h : s.sec.secured = false ∨ s.flash.current ≠ none ∨ key.length ≠ 32) :
    execSetkey key s = .next (send (secFail s 3 0 0) (.doe 1 4 [0xFF])) := by
  have hrefused : ¬ (s.sec.secured && !owned s && key.length == 32) = true := by
    simp only [Bool.and_eq_true, Bool.not_eq_true', beq_iff_eq, owned, Option.isSome_eq_false_iff, Option.isNone_iff_eq_none]
    rintro ⟨⟨hsec, hcur⟩, hlen⟩
    obtain h | h | h := h
    · exact Bool.false_ne_true (h.symm.trans hsec)
    · exact h hcur
    · exact h hlen
  unfold execSetkey
  rw [hup]
  exact congrArg Host.Outcome.next ((if_neg (by decide)).trans (if_neg hrefused))

section IdeKm
variable (hsec : s.sec.secured = true)
include hsec

theorem execIdeKm_program : execIdeKm .program s = .next (send { s with cxl := { s.cxl with ideProg := true } } (.doe 1 3 [0])) := by
  unfold execIdeKm
  rw [hup, hsec]
  rfl

theorem execIdeKm_start (hprog : s.cxl.ideProg = true) : execIdeKm .start s =
    .next (send { s with cxl := { s.cxl with ide := true, ideProg := false, ideKeys := s.cxl.ideKeys + 1 } } (.doe 1 3 [1])) := by
  unfold execIdeKm
  rw [hup, hsec]
  exact congrArg Host.Outcome.next ((if_neg (by decide)).trans (if_pos hprog))

end IdeKm

end Mailbox

/-! JTAG at the hold point. -/

section Held
variable {s : State} (hheld : heldBoot s = true)
include hheld

/-- CHALLENGE shows 32 bytes of the random source and keeps them. -/
theorem execChallenge_of_held : execChallenge s =
    .next (send (useFree { loadTap s 3 with sec := { (loadTap s 3).sec with challenge := some (freeBytes s 32) } } 32) (.tdo (freeBytes s 32))) :=
  congrArg Host.Outcome.next (if_pos hheld)

/-- UNLOCK with a signature that verifies: the package is disowned and the scope set. -/
theorem execUnlock_of_ok {req : UnlockReq} {c : List Byte} (hstrict : s.rst.strict = false) (hc : s.sec.challenge = some c) (hok : unlockOk s req c = true) :
    ∃ t, execUnlock req s = .next t ∧ t.sec.scope = req.scope ∧ t.sec.vendor = true ∧ t.flash.current = none ∧ t.flash.previous = none ∧
      t.flash.logA = [] ∧ t.flash.logB = [] ∧ t.sec.challenge = none ∧ t.fuses = s.fuses ∧ t.out = s.out := by
  have hgo : ¬ (!heldBoot (loadTap s 4) || (loadTap s 4).rst.strict) = true := by
    rw [show heldBoot (loadTap s 4) = heldBoot s from rfl, show (loadTap s 4).rst.strict = s.rst.strict from rfl, hheld, hstrict]; decide
  have htrue : unlockOk (loadTap s 4) req c = true := hok
  have hchal : (loadTap s 4).sec.challenge = some c := hc
  unfold execUnlock
  simp only [if_neg hgo, hchal, htrue, if_true]
  exact ⟨_, rfl, rfl, rfl, rfl, rfl, rfl, rfl, rfl, rfl, rfl⟩

variable (hscope : jtagScope s = true)
include hscope

theorem execDietest_of_scope {die : Nat} (hd : die < 10) : ∃ t, execDietest die s = .next t ∧ t.rst.dietest = insNat die s.rst.dietest ∧
    t.out = s.out ++ [.tdo (dieResults s die)] := by
  have hgo : (heldBoot (loadTap s 6) && jtagScope (loadTap s 6) && decide (die < 10)) = true := by
    rw [show heldBoot (loadTap s 6) = heldBoot s from rfl, show jtagScope (loadTap s 6) = jtagScope s from rfl, hheld, hscope, decide_eq_true hd]; rfl
  exact ⟨_, congrArg Host.Outcome.next (if_pos hgo), rfl, rfl⟩

end Held

/-- What is blown over bits it includes is what was asked. -/
theorem or_eq_of_and_not {n : Nat} {a b : BitVec n} (h : a &&& ~~~b = 0) : a ||| b = b := by
  ext i hi
  have hbit : (a &&& ~~~b)[i] = (0 : BitVec n)[i] := by rw [h]
  simpa using hbit

/-- REACHPROG of a source neither locked nor set, with a value its wires can take and that reads back as asked. -/
theorem execReachprog_of_blank {s : State} {n : Nat} {val : BitVec 3} (hheld : heldBoot s = true) (hscope : jtagScope s = true) (hn : n < 16)
    (hlock : bit s.fuses.flock n = false) (hset : bit s.fuses.bset n = false) (h5 : val ≠ 5) (h6 : val ≠ 6)
    (hbits : BitVec.ofNat 3 (nth s.fuses.bval n) &&& ~~~val = 0) : execReachprog n val val s = .next { loadTap s 7 with
      fuses := { s.fuses with
        bval := s.fuses.bval.set n (BitVec.ofNat 3 (nth s.fuses.bval n) ||| val).toNat, bset := s.fuses.bset ||| BitVec.ofNat 16 (2 ^ n) } } := by
  have hgo : ¬ (!(heldBoot (loadTap s 7) && jtagScope (loadTap s 7) && decide (n < 16)) || (bit (loadTap s 7).fuses.flock n ||
      bit (loadTap s 7).fuses.bset n || val == 5 || val == 6 || (BitVec.ofNat 3 (nth (loadTap s 7).fuses.bval n) &&& ~~~val) != 0)) = true := by
    rw [show heldBoot (loadTap s 7) = heldBoot s from rfl, show jtagScope (loadTap s 7) = jtagScope s from rfl, show (loadTap s 7).fuses = s.fuses from rfl,
      hheld, hscope, decide_eq_true hn, hlock, hset, hbits, beq_false_of_ne h5, beq_false_of_ne h6]
    decide
  refine congrArg Host.Outcome.next ((if_neg hgo).trans ?_)
  exact congrArg (fun f : Fuses => ({ loadTap s 7 with fuses := f } : State)) (if_pos (or_eq_of_and_not hbits))

end Sys2Proof.Levels

open Sys2Proof Sys2Proof.Machine Sys2Proof.Levels

/-- Settles O58: the mailboxes on a package that answers, then JTAG, at the hold point and away from it. -/
theorem mailboxesSessionsAndJtag : Obligations.MailboxesSessionsAndJtag := by
  unfold Obligations.MailboxesSessionsAndJtag
  intro s
  refine ⟨fun hup => ⟨?discovery, ?table, ?version, ?capabilities, ?algorithms, ?connected, ?finish, ?early, ?quote, ?setkey, ?refused, ?program, ?start⟩,
    rfl, rfl, ⟨_, rfl, rfl, rfl, rfl, rfl⟩, ?pkgrst, ?closed, ?hold⟩
  case discovery => exact fun m i p h => execDoeDiscovery_of_up hup h
  case table => exact fun i d h => execCxlTableAccess_of_up hup h
  case version => exact ⟨_, congrArg Host.Outcome.next (spdmAt_of_reached hup (Nat.zero_le _) _), rfl, rfl, rfl, rfl⟩
  case capabilities => exact fun h => congrArg Host.Outcome.next (spdmAt_of_reached hup h _)
  case algorithms => exact fun h => congrArg Host.Outcome.next (spdmAt_of_reached hup h _)
  case connected =>
    intro h
    have hat (f : State → State) : spdmAt s 3 f = f s := spdmAt_of_reached hup h f
    exact ⟨congrArg Host.Outcome.next (hat _), congrArg Host.Outcome.next ((hat _).trans (if_pos rfl)),
      fun slot hslot => congrArg Host.Outcome.next ((hat _).trans (if_neg hslot)), fun nonce => congrArg Host.Outcome.next (hat _),
      congrArg Host.Outcome.next (hat _), congrArg Host.Outcome.next (hat _), execEndSession_of_secured hup h⟩
  case finish => exact fun h => ⟨_, congrArg Host.Outcome.next (spdmAt_of_reached hup h _), rfl, rfl, rfl, rfl⟩
  case early =>
    intro h c hc
    have hat (n : Nat) (hn : 3 ≤ n) (f : State → State) : spdmAt s n f = spdmError s := spdmAt_of_early hup (Nat.lt_of_lt_of_le h hn) f
    simp only [List.mem_cons, List.not_mem_nil, or_false] at hc
    obtain rfl | rfl | rfl | rfl | rfl | rfl := hc <;> exact congrArg Host.Outcome.next (hat _ (by decide) _)
  case quote => exact fun nonce => execQuote_of_up hup nonce
  case setkey => exact fun key hsec hcur hlen => execSetkey_of_unowned hup hsec hcur hlen
  case refused => exact fun key h => execSetkey_of_refused hup h
  case program => exact fun hsec => execIdeKm_program hup hsec
  case start => exact fun hsec hprog => execIdeKm_start hup hsec hprog
  case pkgrst => exact fun h => congrArg Host.Outcome.next (if_pos (by exact h))
  case closed => exact fun h => congrArg Host.Outcome.next (if_neg (by exact fun e => Bool.false_ne_true (h.symm.trans e)))
  case hold =>
    intro l hhold hphase
    have hheld : heldBoot s = true := by unfold heldBoot; rw [hhold, hphase]; rfl
    refine ⟨⟨_, execChallenge_of_held hheld, rfl, rfl⟩, fun req c hstrict hc hok => execUnlock_of_ok hheld hstrict hc hok, ?strict,
      fun hscope => ⟨fun die hd => execDietest_of_scope hheld hscope hd, ?blank⟩⟩
    case strict =>
      refine fun req hstrict => congrArg Host.Outcome.next (if_pos ?_)
      rw [show (loadTap s 4).rst.strict = s.rst.strict from rfl, hstrict, Bool.or_true]
    case blank =>
      exact fun n val hn hlock hset h5 h6 hbits => ⟨_, execReachprog_of_blank hheld hscope hn hlock hset h5 h6 hbits, rfl, rfl, rfl, rfl⟩

end

section
/-! Power, bring-up and the level-2 reset (O59). -/

namespace Sys2Proof.Levels
open Sys2Proof Sys2Proof.Machine Sys2Proof.Laws

/-! What a level-2 reset does not reach. -/

/-- Fuses, flash, the MSI-X table and the CXL port. -/
def portSide (s : State) := (s.fuses, s.flash, s.msix, s.cxl)

theorem portSide_foldl {α : Type} {f : State → α → State} (hf : ∀ s a, portSide (f s a) = portSide s) (l : List α) (s : State) :
    portSide (l.foldl f s) = portSide s :=
  foldl_keeps (fun u => portSide u = portSide s) f (fun u a hu => (hf u a).trans hu) l s rfl

theorem portSide_invalidate (s : State) (line : Nat) : portSide (invalidate s line) = portSide s := by
  have hdrop : portSide (dropCopies (snoopAll s line) line) = portSide s :=
    portSide_foldl (f := fun u a => missed u line a) (fun _ _ => rfl) _ s
  rw [← hdrop]
  unfold invalidate portSide
  dsimp only
  split <;> rfl

theorem portSide_wipe (s : State) (a n : Nat) : portSide (wipe s a n) = portSide s := portSide_foldl portSide_invalidate _ s

/-- A level-2 reset leaves fuses, flash, the MSI-X table and the link. -/
theorem domainReset_leaves (s : State) : (domainReset s).flash = s.flash ∧ (domainReset s).fuses = s.fuses ∧ (domainReset s).msix = s.msix ∧
    (domainReset s).cxl.link = s.cxl.link := by
  have hwipe : portSide (wipe (resetRegs s reachedTwo) ringTable (64 * 2 ^ 20)) = portSide s := portSide_wipe (resetRegs s reachedTwo) _ _
  simp only [portSide, Prod.mk.injEq] at hwipe
  obtain ⟨hfuses, hflash, hmsix, hcxl⟩ := hwipe
  have hlink := congrArg Cxl.link hcxl
  exact ⟨hflash, hfuses, hmsix, hlink⟩

/-! Training of the edges. -/

/-- A state that differs from another in its registers alone. -/
def OnlyRegs (s t : State) : Prop := t = { s with regs := t.regs }

theorem OnlyRegs.trans {s t u : State} (h : OnlyRegs s t) (h' : OnlyRegs t u) : OnlyRegs s u := by
  rw [OnlyRegs, h] at h'
  exact h'

theorem OnlyRegs.refl (s : State) : OnlyRegs s s := rfl

theorem OnlyRegs.field {s t : State} (h : OnlyRegs s t) {off hi lo v : Nat} : OnlyRegs s (setField t off hi lo v) := h.trans rfl

theorem onlyRegs_showEdge (s : State) (e spares : Nat) (fail : Option Nat) : OnlyRegs s (showEdge s e spares fail) := by
  unfold showEdge bump
  cases fail with
  | none => exact (OnlyRegs.refl s).field.field.field.field.field.field
  | some g => exact (OnlyRegs.refl s).field.field.field.field.field.field.field

theorem onlyRegs_foldl {α : Type} {f : State → α → State} (hf : ∀ s a, OnlyRegs s (f s a)) (l : List α) (s : State) : OnlyRegs s (l.foldl f s) :=
  foldl_keeps (OnlyRegs s) f (fun u a hu => hu.trans (hf u a)) l s rfl

/-- Edges whose training fails nowhere and none of whose groups has more marked wires than spares are trained; only what is shown of them changes. -/
theorem trainEdges_of_good {s : State} {info : StepInfo} (hinfo : info.edgeFail = none) (hmarks : ∀ e, overMarked s e = none) (edges : List Nat)
    (ok : State → State) : ∃ r, trainEdges s edges info ok = ok { freshWires s edges with regs := r } := by
  have honly := onlyRegs_foldl (f := fun s e => showEdge s e (nth info.spares e) (edgeFails s info e)) (fun s e => onlyRegs_showEdge s e _ _) edges
    (freshWires s edges)
  refine ⟨_, Eq.trans ?_ (congrArg ok honly)⟩
  have hgood (r : Tbl (BitVec 64)) (e : Nat) : edgeFails { freshWires s edges with regs := r } info e = none := by
    unfold edgeFails
    rw [hinfo]
    exact hmarks e
  refine if_neg (fun hany => ?_)
  obtain ⟨e, -, he⟩ := List.any_eq_true.mp hany
  rw [honly, hgood] at he
  cases he

/-! The steps of bring-up from level 0 or 1, those that decide something. -/

section Steps
variable {s : State} {l : Nat} (info : StepInfo) (hl : l ≠ 2)
include hl

section Boot
variable (h : s.rst.phase = .seq l 4)
include h

/-- Step 4: failing slots are counted, and the slot that verifies boots. -/
theorem bringup_boots {s1 : State} (hs1 : countFw s s.fuses.svnMc s.flash.mcA s.flash.mcB = s1) {b : Bool}
    (hb : bootSlot s1 s1.fuses.svnMc s1.flash.mcA s1.flash.mcB = some b) :
    execBringupStepDone info s = .next (toStep { s1 with flash := { s1.flash with mcBooted := b } } 5) := by
  unfold execBringupStepDone
  simp only [h, hs1, hb]

theorem bringup_stops_of_noSlot {s1 : State} (hs1 : countFw s s.fuses.svnMc s.flash.mcA s.flash.mcB = s1)
    (hb : bootSlot s1 s1.fuses.svnMc s1.flash.mcA s1.flash.mcB = none) : execBringupStepDone info s = .next (stopBringup s1 0x0505) := by
  unfold execBringupStepDone
  simp only [h, hs1, hb]

end Boot

/-- Step 6: the edges train where nothing fails, and bring-up goes on to its hold point. -/
theorem bringup_trains (h : s.rst.phase = .seq l 6) (hinfo : info.edgeFail = none) (hmarks : ∀ e, overMarked s e = none) :
    ∃ r, execBringupStepDone info s = .next (toStep { freshWires s (List.range 14) with regs := r } 7) := by
  obtain ⟨r, hr⟩ := trainEdges_of_good hinfo hmarks (List.range 14) (fun s => if s.rst.phase = .seq l 6 then toStep s 7 else s)
  refine ⟨r, ?_⟩
  unfold execBringupStepDone
  simp only [h]
  exact congrArg Host.Outcome.next (hr.trans (if_pos h))

section Hold
variable (h : s.rst.phase = .seq l 7)
include h

theorem bringup_leaves_hold (hhold : s.rst.hold = false) (htest : s.rst.dietest = []) : execBringupStepDone info s = .next (toStep s 8) := by
  unfold execBringupStepDone
  simp only [h, hhold, htest]
  rfl

theorem bringup_holds (hhold : s.rst.hold = true) : execBringupStepDone info s = .next s := by
  unfold execBringupStepDone
  simp only [h, hhold]
  rfl

end Hold

/-- Step 8 is the option load. -/
theorem bringup_loads (h : s.rst.phase = .seq l 8) : execBringupStepDone info s = .next (loadStep s info) := by
  unfold execBringupStepDone
  simp only [h]

section Lanes
variable (h : s.rst.phase = .seq l 9)
include h

theorem bringup_lanes_good (hinfo : info.laneFail = none) : execBringupStepDone info s = .next (toStep s 10) := by
  unfold execBringupStepDone
  simp only [h, hinfo]
  rfl

theorem bringup_lanes_bad {x : Nat × Nat} (hinfo : info.laneFail = some x) : execBringupStepDone info s = .next (stopBringup s 0x0802) := by
  unfold execBringupStepDone
  simp only [h, hinfo]
  rfl

end Lanes

end Steps

/-- Step 2 of a level-2 reset ends once the host owes nothing, or cannot answer any more. -/
theorem domainReset_step2 {s : State} (info : StepInfo) (h : s.rst.phase = .seq 2 2) :
    execDomainResetStepDone info s = .next (if hostOwed s && s.cxl.link == .l0 then s else toStep s 3) := by
  unfold execDomainResetStepDone
  simp only [h]

end Sys2Proof.Levels

open Sys2Proof Sys2Proof.Machine Sys2Proof.Levels

/-- Settles O59: power, then each step of bring-up in its order, then those of the level-2 reset. -/
theorem bringUpAndDomainReset : Obligations.BringUpAndDomainReset := by
  unfold Obligations.BringUpAndDomainReset
  intro s
  refine ⟨?on, ?off, ?watchdog, ?bringup, ?domain⟩
  case on =>
    exact fun h => ⟨_, congrArg Host.Outcome.next (if_pos h), rfl, rfl, rfl, rfl, rfl, rfl, rfl, rfl, rfl⟩
  case off => exact ⟨_, rfl, rfl, rfl, rfl, rfl, rfl, rfl, rfl, rfl⟩
  case watchdog =>
    intro h
    show execMcWatchdogExpiry s = _
    unfold execMcWatchdogExpiry
    rw [h]
  case bringup =>
    intro l info hl
    refine ⟨?power, ?good, ?reach, ?boot, ?straps, ?edges, fun h hhold htest => bringup_leaves_hold info hl h hhold htest,
      fun h hhold => bringup_holds info hl h hhold, ?options, fun h hinfo => bringup_lanes_good info hl h hinfo,
      fun x h hinfo => bringup_lanes_bad info hl h hinfo, ?ready⟩
    case power => intro h; show execBringupStepDone info s = _; unfold execBringupStepDone; simp only [h]
    case good => intro h hpwr; show execBringupStepDone info s = _; unfold execBringupStepDone; simp only [h, hpwr, if_true]
    case reach => intro h; show execBringupStepDone info s = _; unfold execBringupStepDone; simp only [h]
    case boot => exact fun h => ⟨fun b hb => bringup_boots info hl h rfl hb, fun hb => bringup_stops_of_noSlot info hl h rfl hb⟩
    case straps => intro h; show execBringupStepDone info s = _; unfold execBringupStepDone; simp only [h]
    case edges =>
      intro h hinfo hmarks
      obtain ⟨r, hr⟩ := bringup_trains info hl h hinfo hmarks
      exact ⟨_, hr, rfl, rfl, rfl, rfl, rfl⟩
    case options =>
      intro h
      have hload : exec (.bringupStepDone info) s = .next (loadStep s info) := bringup_loads info hl h
      refine ⟨fun t ht => ?_, fun hn => ?_, fun hb => ?_⟩ <;> rw [hload] <;> unfold loadStep
      · rw [ht]
      · rw [hn]
      · rw [hb]
    case ready => intro h; show execBringupStepDone info s = _; unfold execBringupStepDone; simp only [h]
  case domain =>
    intro info
    refine ⟨?evicts, ?answered, ?waits, ?resets, ?six, ?ready⟩
    case evicts =>
      intro h hl hlost hfog
      show execDomainResetStepDone info s = _
      unfold execDomainResetStepDone
      rw [h]
      exact congrArg Host.Outcome.next (if_pos ⟨hl, hlost, hfog⟩)
    case answered =>
      exact fun h ho => (domainReset_step2 info h).trans (congrArg Host.Outcome.next (if_neg (by rw [ho, Bool.false_and]; decide)))
    case waits =>
      exact fun h ho hl => (domainReset_step2 info h).trans (congrArg Host.Outcome.next (if_pos (by rw [ho, hl]; rfl)))
    case resets =>
      intro h
      refine ⟨?_, rfl, rfl, rfl, rfl, domainReset_leaves s⟩
      show execDomainResetStepDone info s = _
      unfold execDomainResetStepDone
      simp only [h]
    case six => intro h; show execDomainResetStepDone info s = _; unfold execDomainResetStepDone; simp only [h]
    case ready => intro h; show execDomainResetStepDone info s = _; unfold execDomainResetStepDone; simp only [h]

end

section
/-! What waking leaves (O56): the wake changes the power state, and the one register that counts refused entries. -/

namespace Sys2Proof.Levels
open Sys2Proof Sys2Proof.Machine Sys2Proof.Laws

/-- A top byte that takes a value above zero leaves its register other than zero. -/
theorem setBits_top_ne {x : BitVec 64} {n : Nat} (hpos : 0 < n) (hn : n < 256) : setBits x 63 56 n ≠ 0 := by
  have hfield : ∀ n < 256, 0 < n → BitVec.ofNat 64 (fieldAt 63 56 n) &&& BitVec.ofNat 64 (fieldAt 63 56 (2 ^ (63 + 1 - 56) - 1)) ≠ 0 := by decide +kernel
  intro h
  exact hfield n hn hpos (BitVec.or_eq_zero_iff.mp h).2

theorem inFog_wakeBy (dark : Bool) (s : State) : inFog (wakeBy dark s) = inFog s := by
  have hcounts (t : State) : regVal (bump t rPWR_COUNTS 63 56) rCOH_FOG_LOG = regVal t rCOH_FOG_LOG :=
    regVal_setReg_ne (by decide) (by
      rw [show regReset rPWR_COUNTS = 0 by decide]
      exact setBits_top_ne (by omega) (by omega))
  unfold wakeBy inFog
  dsimp only
  repeat' split
  · rfl
  · exact congrArg (fun v => bit v 0) (hcounts _)
  · rfl
  · rfl

/-- What a wake leaves beside the power state and its registers. -/
theorem wakeBy_eq (dark : Bool) (s : State) : wakeBy dark s = { s with pwr := (wakeBy dark s).pwr, regs := (wakeBy dark s).regs } := by
  unfold wakeBy
  dsimp only
  repeat' split
  all_goals rfl

theorem wakeBy_cxl (dark : Bool) (s : State) : (wakeBy dark s).cxl = s.cxl := by rw [wakeBy_eq]
theorem wakeBy_rst (dark : Bool) (s : State) : (wakeBy dark s).rst = s.rst := by rw [wakeBy_eq]

theorem serving_wakeBy (dark : Bool) (s : State) : serving (wakeBy dark s) = serving s := by
  unfold serving
  rw [wakeBy_rst, inFog_wakeBy]

theorem uioRange_wakeBy (dark : Bool) (s : State) (hpa : BitVec 52) (n : Nat) : uioRange (wakeBy dark s) hpa n = uioRange s hpa n := by
  unfold uioRange ppaOf
  rw [wakeBy_cxl]

theorem inFog_of_serving {s : State} (hs : serving s = true) : inFog s = false := by
  obtain ⟨-, hclear⟩ := (Bool.and_eq_true _ _).mp hs
  exact Bool.not_eq_true' _ |>.mp hclear

end Sys2Proof.Levels
end

section
/-! What the host and UIO peers ask of device memory (O56). -/

namespace Sys2Proof.Levels
open Sys2Proof Sys2Proof.Machine Sys2Proof.Stated

/-- What a MemRd asks of the home (R397). -/
def readKind : Want → HKind
  | .shared => .rds .shared
  | .any => .rdx
  | .none => .rdcur

section Host
variable {s : State} {hpa : BitVec 52} {p : Nat} (hup : memUp s = true) (hp : ppaOf s hpa = some p)
include hup hp

/-- A MemRd becomes a request of the host at its line's home. -/
theorem execMemrd_of_serving (hs : serving s = true) (want : Want) : execMemrd hpa want s = .next (post (wakeBy false s) (.req ⟨.agent .host, lineOf p,
    readKind want⟩)) := by
  unfold execMemrd
  rw [hup, hp, hs]
  cases want <;> exact congrArg Host.Outcome.next ((if_neg (by decide)).trans ((if_neg (by rw [inFog_of_serving hs]; decide)).trans (if_neg (by decide))))

/-- In fog it is answered with poison. -/
theorem execMemrd_of_fog (hfog : inFog s = true) (want : Want) : execMemrd hpa want s = .next (hostData (useFree s 64) (lineOf p) (freeBytes s 64) 0 true) := by
  unfold execMemrd
  rw [hup, hp]
  exact congrArg Host.Outcome.next ((if_neg (by decide)).trans (if_pos hfog))

end Host

/-- A host write goes by the region, and by who owns the line. -/
theorem hostStores_of_writes {s : State} {c : Instr} {hpa : BitVec 52} {bs : List Byte} {poison : Bool} (hexec : exec c s = .next (hostWrites s hpa bs poison)) :
    HostStores s c hpa bs poison := by
  intro p hup hs hp
  have hstore : exec c s = .next (hostStore (wakeBy false s) p bs poison) := by
    refine hexec.trans (congrArg Host.Outcome.next ?_)
    unfold hostWrites
    rw [hup, hs, hp]
    exact if_neg (by decide)
  refine ⟨fun hr => ?_, fun hr ho => ?_, fun hr ho => ?_⟩ <;> refine hstore.trans (congrArg Host.Outcome.next ?_)
  · exact if_pos hr
  · exact (if_neg (by rw [hr]; decide)).trans (if_pos ho)
  · exact (if_neg (by rw [hr]; decide)).trans (if_neg ho)

section Peer
variable {s : State} (hup : ioUp s = true) (hs : serving s = true)
include hup hs

/-- A UIO write completes on acceptance, and its lines go to their homes. -/
theorem execUioWrite_of_serving {w : BusWrite} {p : Nat} (hp : uioRange s w.hpa w.data.length = some p) : execUioWrite w s =
    .next (uioPieces (nextUid (send (wakeBy false s) (.cpl (wakeBy false s).uid [] 0))) w.rid (wakeBy false s).uid p w.data w.poison) := by
  have hclear : inFog (nextUid (send (wakeBy false s) (.cpl (wakeBy false s).uid [] 0))) = false :=
    (inFog_wakeBy false s).trans (inFog_of_serving hs)
  have hrange := (uioRange_wakeBy false s w.hpa w.data.length).trans hp
  unfold execUioWrite
  simp only [hup, hrange, hclear]
  rfl

/-- A UIO read is served by the port. -/
theorem uioRead_of_serving {hpa : BitVec 52} {len p : Nat} (hp : uioRange s hpa len = some p) (rid : Nat) :
    uioRead rid hpa len s = nextUid (serveRead (wakeBy false s) ⟨rid, p, len, (wakeBy false s).uid⟩) := by
  have hclear : inFog (wakeBy false s) = false := (inFog_wakeBy false s).trans (inFog_of_serving hs)
  have hrange := (uioRange_wakeBy false s hpa len).trans hp
  unfold uioRead
  simp only [hup, hrange, hclear]
  rfl

/-- A read behind no write of its requester, of lines that may be read, is answered with what memory holds. -/
theorem execUioRead_of_ready {hpa : BitVec 52} {len p rid : Nat} (hp : uioRange s hpa len = some p) (hw : uioWriting (wakeBy false s) rid = false)
    (hr : readyLines (wakeBy false s) false (linesOf p len) = none) : execUioRead hpa len s rid .none =
      .next (nextUid (send (readRaw (wakeBy false s) p len).2.2 (.cpl (wakeBy false s).uid (readRaw (wakeBy false s) p len).1
        (if (readRaw (wakeBy false s) p len).2.1 then 2 else 0)))) := by
  have hgo : ¬ (!serving (wakeBy false s) || uioWriting (wakeBy false s) rid) = true := by rw [serving_wakeBy, hs, hw]; decide
  unfold execUioRead
  rw [meetUnit_none, uioRead_of_serving hup hs hp rid]
  refine congrArg (fun u => Host.Outcome.next (nextUid u)) ((if_neg hgo).trans ?_)
  rw [hr]

/-- A read behind a write of its requester is kept. -/
theorem execUioRead_of_writing {hpa : BitVec 52} {len p rid : Nat} (hp : uioRange s hpa len = some p) (hw : uioWriting (wakeBy false s) rid = true) :
    execUioRead hpa len s rid .none = .next (nextUid { wakeBy false s with cxl := { (wakeBy false s).cxl with
      reads := (wakeBy false s).cxl.reads ++ [⟨rid, p, len, (wakeBy false s).uid⟩] } }) := by
  unfold execUioRead
  rw [meetUnit_none, uioRead_of_serving hup hs hp rid]
  exact congrArg (fun u => Host.Outcome.next (nextUid u)) (if_pos (by rw [hw, Bool.or_true]))

end Peer

/-! Snoops of the host. -/

section Snoops
variable {s : State} {hpa : BitVec 52} (hup : ioUp s = true) (hmode : s.cxl.mode = true) (hs : serving s = true)
include hup hmode hs

theorem hostSnoop_of_serving (f : State → Nat → Option HlcLine → State) :
    hostSnoop s hpa f = f (wakeBy false s) (lineOf hpa.toNat) (hlcLine s (lineOf hpa.toNat)) := by
  unfold hostSnoop
  rw [hup, hmode, hs]
  exact if_neg (by decide)

end Snoops

/-! The host's answers. -/

/-- Taking the first outstanding request that `p` accepts. -/
theorem takeOut_of_first {p : HostOut → Bool} {l t : List HostOut} {o : HostOut} (h : First p l o t) : takeOut p l = some (o, t) := by
  obtain ⟨before, after, rfl, rfl, ho, hnone⟩ := h
  induction before with
  | nil => simp only [List.nil_append, takeOut, ho, if_true]
  | cons y ys ih =>
    simp only [List.all_cons, Bool.and_eq_true, Bool.not_eq_true'] at hnone
    simp only [List.cons_append, takeOut, hnone.1, ih hnone.2, Option.map_some, Bool.false_eq_true, if_false]

section Answers
variable {s : State} {hpa : BitVec 52} {o : HostOut} {t : List HostOut} (hup : ioUp s = true) (hmode : s.cxl.mode = true)
include hup hmode

/-- GO makes the oldest write of its line visible. -/
theorem execGo_of_first (hfog : inFog s = false)
    (h : First (fun o => o.hline == lineOf hpa.toNat && (o.kind == .write || o.kind == .evict)) s.coh.hout o t) :
    execGo hpa s = .next (pendingReset (settleInvs (settleFills (errGo { s with coh := { s.coh with hout := t } } (lineOf hpa.toNat))))) := by
  unfold execGo
  rw [hup, hmode, hfog]
  exact congrArg Host.Outcome.next ((if_neg (by decide)).trans (by rw [takeOut_of_first h]))

/-- Data goes to the oldest request for its line, and what waited for it goes on. -/
theorem execCxlCacheData_of_first (hs : serving s = true)
    (h : First (fun o => o.hline == lineOf hpa.toNat && (o.kind == .rdCurr || o.kind == .rdShared || o.kind == .rdOwn)) s.coh.hout o t) (d : List Byte)
    (poison : Bool) : execCxlCacheData hpa d poison s = .next (drainAll (settleInvs (settleFills
      (hostGives { s with coh := { s.coh with hout := t } } o (fitBytes 64 d) poison)))) := by
  unfold execCxlCacheData takeHostData
  rw [hup, hmode, hs]
  exact congrArg (fun u => Host.Outcome.next (drainAll u)) ((if_neg (by decide)).trans (by rw [takeOut_of_first h]))

end Answers

/-- The request that answers to a line is one for it. -/
theorem hline_of_first {h : Nat} {k : HostOut → Bool} {l t : List HostOut} {o : HostOut} (hf : First (fun o => o.hline == h && k o) l o t) : o.hline = h := by
  obtain ⟨-, -, -, -, ho, -⟩ := hf
  exact eq_of_beq ((Bool.and_eq_true _ _).mp ho).1

/-! What the data of a request does, by its kind. -/

section Gives
variable {s : State} {o : HostOut} {d : List Byte} {poison : Bool}

theorem hostGives_rdCurr (hk : o.kind = .rdCurr) (hnone : o.who ≠ whoNone) (herr : o.who ≠ whoErrq) :
    hostGives s o d poison = { s with coh := { s.coh with hbuf := s.coh.hbuf ++ [(o.who, o.hline, d, poison)] } } := by
  unfold hostGives
  rw [hk]
  exact (if_neg hnone).trans (if_neg herr)

theorem hostGives_nobody (hk : o.kind = .rdCurr) (hnone : o.who = whoNone) : hostGives s o d poison = s := by
  unfold hostGives
  rw [hk]
  exact if_pos hnone

theorem hostGives_shared (hk : o.kind = .rdShared) : hostGives s o d false = takeFill s (o.hline, .s, d, o.who) := by
  unfold hostGives
  rw [hk]
  rfl

theorem hostGives_own (hk : o.kind = .rdOwn) : hostGives s o d false = takeFill s (o.hline, .e, d, o.who) := by
  unfold hostGives
  rw [hk]
  rfl

theorem hostGives_poisoned (hk : o.kind = .rdShared ∨ o.kind = .rdOwn) : hostGives s o d true = poisonedFill s o.hline o.who := by
  unfold hostGives
  obtain hk | hk := hk <;> rw [hk] <;> rfl

end Gives

/-- A line that no ring waits for and that finds a way is put there. -/
theorem takeFill_of_room {s u : State} {h who : Nat} {st : LineSt} {d : List Byte} (hput : hlcPut s h st d = some u) (hwho : who < whoWatch 0)
    (hfree : hlcLine s h = none) : takeFill s (h, st, d, who) = u := by
  unfold takeFill
  simp only [hfree, hput]
  exact if_neg (fun e => absurd e.1 (Nat.not_le.mpr hwho))

/-! The HDM decoder. -/

section Decoder
variable {s : State} {set : HdmSet} (hup : ioUp s = true) (hlock : s.cxl.lockD = false)
include hup hlock

/-- What makes a commit right (R395). -/
def commitOk (s : State) (set : HdmSet) : Bool :=
  s.cxl.mode && s.rst.memActive && set.base.toNat % 2 ^ 28 == 0 && set.size == ppaTop && set.ways == 1 && set.biEn
    && decide (set.base.toNat + ppaTop ≤ 2 ^ 52)

theorem execHdmCommit_of_unlocked : execHdmCommit set s = .next (if commitOk s set
    then { s with cxl := { s.cxl with base := set.base, committed := true, errNC := false, biEn := true, lockD := set.lock } }
    else { s with cxl := { s.cxl with errNC := true, biEn := set.biEn } }) := by
  unfold execHdmCommit
  rw [hup, hlock]
  exact congrArg Host.Outcome.next (if_neg (by decide))

end Decoder

/-! ATS. -/

theorem writeErr_of_none {s : State} (h : s.errs.held = []) : writeErr s = s := by
  unfold writeErr
  rw [h]

theorem flushErrs_of_none {s : State} (h : s.errs.held = []) (n : Nat) : flushErrs n s = s := by
  cases n with
  | zero => rfl
  | succ n =>
    unfold flushErrs
    rw [writeErr_of_none h]
    exact if_neg (Nat.lt_irrefl _)

section Invs
variable {s : State} {page : Nat} {phys : List Nat} (hinvs : s.cxl.invs = [(page, phys)])
include hinvs

/-- The one invalidation is completed where no request uses its translation. -/
theorem settleInvs_of_unused (hfree : ∀ o ∈ s.coh.hout, phys.contains (o.hline / 64) = false) :
    settleInvs s = send { s with cxl := { s.cxl with invs := [] } } (.cxl mAtsInvCpl (page * 4096) []) := by
  have hbusy : s.coh.hout.any (fun o => phys.contains (o.hline / 64)) = false :=
    List.any_eq_false.mpr (fun o ho => by rw [hfree o ho]; decide)
  unfold settleInvs
  simp only [hinvs, List.filter_cons, List.filter_nil, hbusy]
  rfl

/-- And waits where one does. -/
theorem settleInvs_of_used (hused : ∃ o ∈ s.coh.hout, phys.contains (o.hline / 64) = true) : settleInvs s = s := by
  have hbusy : s.coh.hout.any (fun o => phys.contains (o.hline / 64)) = true := List.any_eq_true.mpr hused
  unfold settleInvs
  simp only [hinvs, List.filter_cons, List.filter_nil, hbusy]
  rw [← hinvs]
  rfl

end Invs

end Sys2Proof.Levels
end

section
/-! What a server core does (O56). -/

namespace Sys2Proof.Levels
open Sys2Proof Sys2Proof.Machine Sys2Proof.Stated

/-- An access within one line is one piece. -/
theorem lineCuts_of_within {a n : Nat} (hpos : 0 < n) (hn : a % 64 + n ≤ 64) : lineCuts a n = [(a, n)] := by
  have hlen : (zeros n).length = n := List.length_replicate
  have hne : (zeros n).isEmpty = false := by rw [List.isEmpty_eq_false_iff_exists_mem]; exact ⟨0, List.mem_replicate.mpr ⟨Nat.ne_of_gt hpos, rfl⟩⟩
  have htake : (zeros n).take (64 - a % 64) = zeros n := List.take_of_length_le (by rw [hlen]; omega)
  have hdrop : (zeros n).drop (64 - a % 64) = [] := List.drop_of_length_le (by rw [hlen]; omega)
  have hrest (f b : Nat) : cutLines f b [] = [] := by cases f <;> rfl
  unfold lineCuts
  rw [cutLines, if_neg (by rw [hne]; decide)]
  simp only [htake, hdrop, hrest, List.map_cons, List.map_nil, hlen]
  rw [show a / 64 * 64 + a % 64 = a by omega]

/-- What was put into a table is found there, in whatever order its keys stand. -/
theorem find_tput_same {α : Type} (t : Tbl α) (k : Nat) (v : α) : (tput t k v).find? (fun e => e.1 == k) = some (k, v) := by
  induction t with
  | nil => exact List.find?_cons_of_pos (by exact beq_self_eq_true k)
  | cons e t ih =>
    obtain ⟨a, w⟩ := e
    simp only [tput]
    split
    · exact List.find?_cons_of_pos (by exact beq_self_eq_true k)
    · split
      · exact List.find?_cons_of_pos (by exact beq_self_eq_true k)
      · next hne => exact (List.find?_cons_of_neg (by exact fun e => hne (eq_of_beq e))).trans ih

/-- The copy that an S-die is given is the one it holds. -/
theorem copyOf_setCopy_same {s : State} {a : Agent} (ha : a = .s0 ∨ a = .s1) (line : Nat) (c : CLine) : copyOf (setCopy s a line (some c)) a line = some c := by
  obtain rfl | rfl := ha
  · exact congrArg (Option.map (·.2)) (find_tput_same s.coh.s0 line c)
  · exact congrArg (Option.map (·.2)) (find_tput_same s.coh.s1 line c)

theorem agentOf_cases (die : Nat) : agentOf die = .s0 ∨ agentOf die = .s1 := by
  unfold agentOf
  split
  · exact Or.inl rfl
  · exact Or.inr rfl

/-- The die of a core's number. -/
theorem coreKey_div {die core : Nat} (hcore : core < 48) : coreKey die core / 48 = die := by
  unfold coreKey
  omega

/-- A core that runs, and whose cache shows no error, does what its instruction says once its earlier stores have gone on. -/
theorem execServerCoreInstruction_of_runs {s : State} {die core : Nat} (h : CoreRuns s die core) (addr : Nat) (op : CoreOp) :
    execServerCoreInstruction die core addr op .none s =
      .next (coreRuns (drainCore (ungive s (coreKey die core)) (coreKey die core)) (coreKey die core) addr op) := by
  obtain ⟨hs, hhalt, hdie, hcore, hwfi⟩ := h
  have hgo : ¬ (!serving s || s.coh.halted || decide (2 ≤ die) || decide (48 ≤ core) || s.coh.wfi.contains (coreKey die core)) = true := by
    rw [hs, hhalt, hwfi, decide_eq_false (Nat.not_le.mpr hdie), decide_eq_false (Nat.not_le.mpr hcore)]
    decide
  refine congrArg Host.Outcome.next ((if_neg hgo).trans (if_neg ?_))
  show ¬ (!serving s) = true
  rw [hs]
  decide

/-- A line that bytes are put into is M and holds them. -/
theorem copyOf_putLine {u : State} {k addr off : Nat} {a : Agent} (ha : agentOf (k / 48) = a) {bs : List Byte} {c : CLine} (hheld : copyOf u a (lineOf addr) = some c) :
    copyOf (putLine u k ⟨false, lineOf addr⟩ off bs) a (lineOf addr) =
      some ⟨.m, c.data.take off ++ bs ++ c.data.drop (off + bs.length)⟩ := by
  subst ha
  unfold putLine
  simp only [Bool.false_eq_true, if_false]
  rw [show copyOf (loseRsv u _) (agentOf (k / 48)) (lineOf addr) = _ from hheld]
  exact copyOf_setCopy_same (agentOf_cases _) _ _

/-! An access to a line of device memory. -/

section Access
variable {u : State} {k addr : Nat} (hmem : addr + 64 ≤ 2 ^ 41)
include hmem

theorem storeLineOf_device : storeLineOf addr = ⟨false, lineOf addr⟩ :=
  if_neg (by unfold hostBase; omega)

/-- It is one to a cacheable range. -/
theorem coreAccess_device {op : CoreOp} (hn : accessLen op ≤ 64) : coreAccess u k addr op = cacheable u k addr op :=
  if_pos (by omega)

theorem corePieces_device {n : Nat} {write : Bool} (hpos : 0 < n) (hn : addr % 64 + n ≤ 64) : corePieces u addr n write = .ok [(addr, n)] u := by
  unfold corePieces
  rw [lineCuts_of_within hpos hn]
  exact if_pos (by unfold hostBase; omega)

section Load
variable {n : Nat} (hpos : 0 < n) (hn : addr % 64 + n ≤ 64)
include hpos hn

theorem coreAccess_load : coreAccess u k addr (.load n) = coreLoad u k [(addr, n)] := by
  rw [coreAccess_device hmem (op := .load n) (show n ≤ 64 by omega)]
  unfold cacheable
  simp only [accessLen, corePieces_device hmem hpos hn]

variable (hpend : storePends u k ⟨false, lineOf addr⟩ = false)
include hpend

/-- A load of a line not held asks for it. -/
theorem coreAccess_load_missed {a : Agent} (ha : agentOf (k / 48) = a) (hmiss : copyOf u a (lineOf addr) = none) (hbusy : agentBusy u a (lineOf addr) = false) :
    coreAccess u k addr (.load n) = post u (.req ⟨.agent a, lineOf addr, .rds .any⟩) := by
  subst ha
  have hdata : Machine.lineData u (k / 48) ⟨false, lineOf addr⟩ = none := by
    show (copyOf u (agentOf (k / 48)) (lineOf addr)).map _ = none
    rw [hmiss]; rfl
  rw [coreAccess_load hmem hpos hn]
  unfold coreLoad
  simp only [List.map_cons, List.map_nil, storeLineOf_device hmem, List.any_cons, List.any_nil, hpend, List.filter_cons, hdata]
  exact if_neg (show ¬ agentBusy u (agentOf (k / 48)) (lineOf addr) = true by rw [hbusy]; decide)

/-- A load of a line held, and not poisoned, gives its bytes. -/
theorem coreAccess_load_held {a : Agent} (ha : agentOf (k / 48) = a) {c : CLine} (hheld : copyOf u a (lineOf addr) = some c)
    (hgood : tainted u a (lineOf addr) = false) :
    coreAccess u k addr (.load n) = give u k (.data ((c.data.drop (addr % 64)).take n)) := by
  subst ha
  have hdata : Machine.lineData u (k / 48) ⟨false, lineOf addr⟩ = some c.data := by
    show (copyOf u (agentOf (k / 48)) (lineOf addr)).map _ = some c.data
    rw [hheld]; rfl
  have hclean : lineBad u (k / 48) ⟨false, lineOf addr⟩ = false := hgood
  rw [coreAccess_load hmem hpos hn]
  unfold coreLoad
  simp only [List.map_cons, List.map_nil, storeLineOf_device hmem, List.any_cons, List.any_nil, hpend, List.filter_cons, List.filter_nil, hdata, hclean,
    List.flatMap_cons, List.flatMap_nil, List.append_nil]
  rfl

end Load

/-- A store to a line held in M or E is made. -/
theorem coreAccess_store_owned {a : Agent} (ha : agentOf (k / 48) = a) {bs : List Byte} {c : CLine} (hne : bs ≠ []) (hn : addr % 64 + bs.length ≤ 64)
    (hpend : storePends u k ⟨false, lineOf addr⟩ = false) (hrsv : reserved u addr = false)
    (hheld : copyOf u a (lineOf addr) = some c) (hst : c.st = .m ∨ c.st = .e) :
    coreAccess u k addr (.store bs) = executed (putLine u k ⟨false, lineOf addr⟩ (addr % 64) bs) k := by
  subst ha
  have howned : lineOwned u (k / 48) ⟨false, lineOf addr⟩ = true := by
    unfold lineOwned
    simp only [hheld]
    obtain h | h := hst <;> rw [h] <;> rfl
  have hmade : makeStore u k (addr, bs) = putLine u k ⟨false, lineOf addr⟩ (addr % 64) bs := by
    unfold makeStore
    simp only [storeLineOf_device hmem, hpend, howned]
    rfl
  have hfree : ([(addr, bs.length)].find? (fun x => decide (x.1 < hostBase) && reserved u x.1)) = none :=
    List.find?_cons_of_neg (by simp only [hrsv, Bool.and_false]; decide)
  rw [coreAccess_device hmem (op := .store bs) (show bs.length ≤ 64 by omega)]
  unfold cacheable
  simp only [accessLen, corePieces_device hmem (List.length_pos_iff.mpr hne) hn]
  unfold coreStore
  simp only [hfree, List.foldl_cons, List.foldl_nil, List.take_length, hmade]

/-- An evicted dirty line is written back. -/
theorem coreAccess_evict_dirty {a : Agent} (ha : agentOf (k / 48) = a) {c : CLine} (hheld : copyOf u a (lineOf addr) = some c) (hdirty : isDirty c = true) :
    coreAccess u k addr .evict = executed (post (setCopy u a (lineOf addr) none) (.wb a (lineOf addr) c.data)) k := by
  subst ha
  rw [coreAccess_device hmem (op := .evict) (show 1 ≤ 64 by decide)]
  unfold cacheable
  simp only [accessLen, corePieces_device hmem Nat.one_pos (show addr % 64 + 1 ≤ 64 by omega), storeLineOf_device hmem]
  unfold coreEvict
  simp only [hheld]
  exact congrArg (fun t => executed t k) (if_pos hdirty)

end Access

/-- The entries that stand beside the answer to a translation request: the newest 4095 of other pages. -/
def atcBeside (s : State) (page : Nat) : List (Nat × Nat × Bool × Bool) :=
  (s.cxl.atc.filter (fun x => x.1 != page)).drop ((s.cxl.atc.filter (fun x => x.1 != page)).length - 4095)

/-- An answer that was asked for enters the translation cache. -/
theorem execAtsTranslationCompletion_of_awaited {s : State} {ans : AtsAnswer} (hup : ioUp s = true) (hheld : s.errs.held = [])
    (hwait : s.cxl.atsWait.contains ans.page = true) : execAtsTranslationCompletion ans s = .next { s with cxl := { s.cxl with
      atsWait := s.cxl.atsWait.filter (· != ans.page)
      atc := atcBeside s ans.page ++ [(ans.page, ans.phys, ans.granted && ans.read, ans.granted && ans.write)] } } := by
  have hgo : ¬ (!ioUp s || !s.cxl.atsWait.contains ans.page) = true := by rw [hup, hwait]; decide
  unfold execAtsTranslationCompletion
  rw [if_neg hgo]
  exact congrArg Host.Outcome.next (flushErrs_of_none (by exact hheld) 65)

/-- A compare that falls due, with no interrupt of its core yet. -/
theorem execTimerCompare_of_due {s : State} {die core : Nat} (hready : s.rst.phase = .ready) (hhalt : s.coh.halted = false) (hdie : die < 2)
    (hcore : core < 48) (hset : tget 0 s.coh.timers (coreKey die core) ≠ 0)
    (hdue : (tget 0 s.coh.timers (coreKey die core)).toNat ≤ (s.aon.getD (8 + die) 0).toNat) (hirq : s.coh.irq.contains (coreKey die core) = false) :
    execTimerCompare die core s = .next (wakeBy true { s with coh := { s.coh with
      irq := insNat (coreKey die core) s.coh.irq, wfi := s.coh.wfi.filter (· != coreKey die core) } }) := by
  refine congrArg Host.Outcome.next (if_neg ?_)
  rw [hready, hhalt, hirq, decide_eq_false (Nat.not_le.mpr hdie), decide_eq_false (Nat.not_le.mpr hcore), decide_eq_false (Nat.not_lt.mpr hdue),
    beq_false_of_ne hset]
  decide

end Sys2Proof.Levels

open Sys2Proof Sys2Proof.Machine Sys2Proof.Stated Sys2Proof.Levels

/-- Settles O56: what the host, its peers and the server cores ask, each by the rule of its command. -/
theorem hostPeersAndServerCores : Obligations.HostPeersAndServerCores := by
  unfold Obligations.HostPeersAndServerCores
  intro s
  refine ⟨?memrd, ?stores, ?uioWrite, ?uioRead, ?snoops, ?answers, ?hdm, ?ats, ?invalidate, ?cores, ?timer⟩
  case memrd =>
    exact fun hpa p hup hp => ⟨fun hs => ⟨execMemrd_of_serving hup hp hs .shared, execMemrd_of_serving hup hp hs .any, execMemrd_of_serving hup hp hs .none⟩,
      fun hfog w => execMemrd_of_fog hup hp hfog w⟩
  case stores => exact fun w => ⟨hostStores_of_writes rfl, hostStores_of_writes rfl⟩
  case uioWrite => exact fun w p hup hs hp => execUioWrite_of_serving hup hs hp
  case uioRead =>
    exact fun rid hpa len p hup hs hp => ⟨fun hw hr => execUioRead_of_ready hup hs hp hw hr, fun hw => execUioRead_of_writing hup hs hp hw⟩
  case snoops =>
    intro hpa hup hmode hs
    have hsnoop (f : State → Nat → Option HlcLine → State) : hostSnoop s hpa f = f (wakeBy false s) (lineOf hpa.toNat) (hlcLine s (lineOf hpa.toNat)) :=
      hostSnoop_of_serving hup hmode hs f
    refine ⟨fun hl => ⟨?_, ?_, ?_⟩, fun l hl => ⟨?_, ?_, fun hm => ?_, fun hst => ?_⟩⟩ <;> refine congrArg Host.Outcome.next ((hsnoop _).trans ?_) <;> rw [hl]
    · rfl
    · dsimp only
      rw [hm]
      rfl
    · dsimp only
      rw [hst]
      rfl
  case answers =>
    intro hpa o t hup hmode hfog
    refine ⟨fun h => execGo_of_first hup hmode hfog h, fun hready h d poison => ?_⟩
    have hs : serving s = true := by unfold serving; rw [hready, hfog]; rfl
    have hline : o.hline = lineOf hpa.toNat := hline_of_first h
    have hexec := execCxlCacheData_of_first (o := o) (t := t) hup hmode hs h d
    have hgive {g : State} (hg : hostGives { s with coh := { s.coh with hout := t } } o (fitBytes 64 d) poison = g) :
        exec (.cxlCacheData hpa d poison) s = .next (drainAll (settleInvs (settleFills g))) := hg ▸ hexec poison
    refine ⟨?current, ?nobody, ?shared, ?own, ?poisoned, fun u st who hput hwho hfree => takeFill_of_room hput hwho hfree⟩
    case current => exact fun hk hnone herr => hgive ((hostGives_rdCurr hk hnone herr).trans (by rw [hline]))
    case nobody => exact fun hk hnone => hgive (hostGives_nobody hk hnone)
    case shared => exact fun hk hp => hgive (by rw [hp, hostGives_shared hk, hline])
    case own => exact fun hk hp => hgive (by rw [hp, hostGives_own hk, hline])
    case poisoned => exact fun hk hp => hgive (by rw [hp, hostGives_poisoned hk, hline])
  case hdm =>
    intro set hup hlock
    have hexec := execHdmCommit_of_unlocked (set := set) hup hlock
    refine ⟨fun hmode hact halign hsize hways hbi hfits => ?right, fun hwrong => ?wrong⟩
    case right =>
      have hok : commitOk s set = true := by
        simp only [commitOk, Bool.and_eq_true, beq_iff_eq, decide_eq_true_eq]
        exact ⟨⟨⟨⟨⟨⟨hmode, hact⟩, halign⟩, hsize⟩, hways⟩, hbi⟩, hfits⟩
      exact hexec.trans (congrArg Host.Outcome.next (if_pos hok))
    case wrong =>
      have hbad : ¬ commitOk s set = true := by
        simp only [commitOk, Bool.and_eq_true, beq_iff_eq, decide_eq_true_eq]
        rintro ⟨⟨⟨⟨⟨⟨hmode, hact⟩, halign⟩, hsize⟩, hways⟩, hbi⟩, hfits⟩
        obtain h | h | h | h | h | h | h := hwrong
        · exact Bool.false_ne_true (h.symm.trans hmode)
        · exact Bool.false_ne_true (h.symm.trans hact)
        · exact h halign
        · exact h hsize
        · exact h hways
        · exact Bool.false_ne_true (h.symm.trans hbi)
        · exact absurd hfits (Nat.not_le.mpr h)
      exact hexec.trans (congrArg Host.Outcome.next (if_neg hbad))
  case ats =>
    intro ans hup hheld hwait
    refine ⟨_, atcBeside s ans.page, execAtsTranslationCompletion_of_awaited hup hheld hwait, rfl, ?_, ?_, fun e he => ?_⟩
    · simp only [atcBeside, List.length_append, List.length_drop, List.length_singleton]
      omega
    · rw [List.contains_eq_mem, decide_eq_false_iff_not]
      exact fun hin => bne_iff_ne.mp (List.mem_filter.mp hin).2 rfl
    · obtain ⟨hin, hne⟩ := List.mem_filter.mp (List.mem_of_mem_drop he)
      exact ⟨hin, bne_iff_ne.mp hne⟩
  case invalidate =>
    intro ctx page hup
    have honly (hinvs : s.cxl.invs = []) (phys : List Nat) : s.cxl.invs ++ [(page, phys)] = [(page, phys)] := by rw [hinvs]; rfl
    exact ⟨congrArg Host.Outcome.next (if_neg (by rw [hup]; decide)), fun hinvs hfree => settleInvs_of_unused (honly hinvs _) hfree,
      fun hinvs hused => settleInvs_of_used (honly hinvs _) hused⟩
  case cores =>
    intro die core addr h
    have hexec (op : CoreOp) : exec (.serverCoreInstruction die core addr op .none) s = .next (coreRuns _ (coreKey die core) addr op) :=
      execServerCoreInstruction_of_runs h addr op
    obtain ⟨-, -, -, hcore, -⟩ := h
    have hagent : agentOf (coreKey die core / 48) = agentOf die := congrArg agentOf (coreKey_div hcore)
    refine ⟨fun v => hexec (.timer v), fun hnone => (hexec .fence).trans (congrArg Host.Outcome.next (if_pos ?fence)),
      fun hirq => (hexec .wfi).trans (congrArg (fun t => Host.Outcome.next (executed t _)) (if_neg ?wfi)), fun hmem hpend => ?access⟩
    case fence => exact List.isEmpty_iff.mpr hnone
    case wfi => exact fun e => Bool.false_ne_true (hirq.symm.trans e)
    case access =>
      exact ⟨fun n hpos hn hmiss hbusy => (hexec (.load n)).trans (congrArg Host.Outcome.next (coreAccess_load_missed hmem hpos hn hpend hagent hmiss hbusy)),
        fun n c hpos hn hheld hgood => (hexec (.load n)).trans (congrArg Host.Outcome.next (coreAccess_load_held hmem hpos hn hpend hagent hheld hgood)),
        fun bs c hne hn hrsv hheld hst => ⟨(hexec (.store bs)).trans
          (congrArg Host.Outcome.next (coreAccess_store_owned hmem hagent hne hn hpend hrsv hheld hst)), copyOf_putLine hagent hheld⟩,
        fun c hheld hdirty => (hexec .evict).trans (congrArg Host.Outcome.next (coreAccess_evict_dirty hmem hagent hheld hdirty))⟩
  case timer => exact fun die core hready hhalt hdie hcore hset hdue hirq => execTimerCompare_of_due hready hhalt hdie hcore hset hdue hirq

end

section
/-! The sequencer's own ops: dispatch, loops, waits and signals (R37, R42, R44, R46, R48 to R51). -/

namespace Sys2Proof.Levels

open Sys2Proof Sys2Proof.Machine Sys2Proof.Laws

/-- An op of an engine enters its queue where that holds fewer than 16, and is held at the sequencer where it does not (R37). -/
theorem dispatched_of_engine {s : State} {p : ProgRef} {q : Prog} {w : Op} {e : Eng} (h : seqOp s p = some (q, w)) (he : opEng w = some e) :
    dispatched s p = if (engOf q e).queue.length < 16 then
      putProg s p { withEng q e { engOf q e with queue := (engOf q e).queue ++ [slotFor q w], sent := (engOf q e).sent + 1 } with pc := q.pc + 1 }
    else s := by
  simp only [dispatched, h, he, ge_iff_le, ← Nat.not_lt, ite_not]

/-- ENDLOOP with a loop open (R48). -/
theorem execEndloop_of_open {s : State} {p : ProgRef} {q : Prog} {w : Op} {ls : List LoopFrame} {l : LoopFrame} (h : seqIs s p 0 3 = some (q, w))
    (hl : q.loops = ls ++ [l]) :
    execEndloop p s = .next (putProg s p (if l.i + 1 < l.count then { q with pc := l.at_ + 1, loops := ls ++ [{ l with i := l.i + 1 }] }
      else { q with pc := q.pc + 1, loops := ls })) := by
  simp only [execEndloop, h, hl, List.getLast?_concat, List.dropLast_concat]
  split <;> rfl

/-- WAIT, by whether its tally holds COUNT (R44). -/
theorem execWait_of_seq {s : State} {p : ProgRef} {q : Prog} {w : Op} (h : seqIs s p 1 0 = some (q, w)) :
    execWait p s = if syCOUNT w ≤ tallyOf q (syTALLY w) then
      .next (putProg s p { q with pc := q.pc + 1, tallies := tset 0 q.tallies (syTALLY w) (tallyOf q (syTALLY w) - syCOUNT w) })
    else .next s := by
  simp only [execWait, h]

theorem execSignal_of_seq {s : State} {p : ProgRef} {q : Prog} {w : Op} (h : seqIs s p 1 1 = some (q, w)) :
    execSignal p s = .next (signalOp s p q w none) := by
  simp only [execSignal, h]

theorem execRsignal_of_seq {s : State} {p : ProgRef} {q : Prog} {w : Op} (h : seqIs s p 1 2 = some (q, w)) :
    execRsignal p s = .next (signalOp s p q w (some (syTARGET w))) := by
  simp only [execRsignal, h]

/-- A program with its sequencer at the next op. -/
def advanced (q : Prog) : Prog := { q with pc := q.pc + 1 }

/-- A signal with AFTER 0 to the program's own tally is added to it at dispatch (R50). -/
theorem signalOp_now {s : State} {p : ProgRef} {q : Prog} {w : Op} (hnow : syAFTER w = 0) :
    signalOp s p q w none = addTally (putProg s p (advanced q)) p (syTALLY w) (syCOUNT w) q.pc := by
  simp only [signalOp, if_pos hnow, giveSig, advanced]

/-- A signal with AFTER set waits behind those before it (R50). -/
theorem signalOp_later {s : State} {p : ProgRef} {q : Prog} {w : Op} {target : Option Nat} (hlater : syAFTER w ≠ 0) :
    signalOp s p q w target = putProg s p { q with
      pc := q.pc + 1
      pend := q.pend ++ [⟨syTALLY w, syCOUNT w, target, afterNeed q (syAFTER w), q.pc⟩] } := by
  simp only [signalOp, if_neg hlater]

/-- A signal that does not fit its tally is a fault of its context (R46). -/
theorem addTally_overflows {s : State} {p : ProgRef} {q : Prog} {t n idx : Nat} (hq : progOf s p = some q) (hover : 65535 < tallyOf q t + n) :
    addTally s p t n idx = chargeOp s p q idx 0x0111 := by
  simp only [addTally, hq, gt_iff_lt, if_pos hover]

end Sys2Proof.Levels

open Sys2Proof.Machine Sys2Proof.Laws Sys2Proof.Levels

/-- Settles O8, from one equation for the dispatch to an engine and one for ENDLOOP; the other ops go on by one. -/
theorem dispatchAndControl : Obligations.DispatchAndControl := by
  unfold Obligations.DispatchAndControl
  intro s p
  refine ⟨?room, ?full, ?nop, ?loop, ?endloop⟩
  case room =>
    intro q w e h he hroom
    refine congrArg Host.Outcome.next ((dispatched_of_engine h he).trans ?_)
    rw [if_pos hroom]
    rfl
  case full =>
    intro q w e h he hfull
    refine congrArg Host.Outcome.next ((dispatched_of_engine h he).trans ?_)
    rw [if_neg (Nat.not_lt.mpr hfull)]
  case nop =>
    intro q w h
    show execNop p s = _
    simp only [execNop, h]
  case loop =>
    intro q w h
    show execLoop p s = _
    simp only [execLoop, h]
    rfl
  case endloop =>
    intro q w ls at_ n i h hl
    exact execEndloop_of_open h hl

/-- Settles O9, from what `signalOp` makes of a signal given now or held pending. -/
theorem tallyOps : Obligations.TallyOps := by
  unfold Obligations.TallyOps
  intro s p
  refine ⟨?enough, ?less, ?now, ?later, ?remote⟩
  case enough =>
    intro q w h hle
    exact (execWait_of_seq h).trans (if_pos hle)
  case less =>
    intro q w h hlt
    exact (execWait_of_seq h).trans (if_neg (Nat.not_le.mpr hlt))
  case now =>
    intro q w h hnow hfits
    obtain ⟨hsame, hprog⟩ := addTally_reaches (t := syTALLY w) (n := syCOUNT w) q.pc (progOf_putProg s p (advanced q)) hfits
    exact ⟨_, (execSignal_of_seq h).trans (congrArg Host.Outcome.next (signalOp_now hnow)), hprog, hsame.mem, hsame.regs, hsame.signals⟩
  case later =>
    intro q w h hlater
    exact (execSignal_of_seq h).trans (congrArg Host.Outcome.next (signalOp_later hlater))
  case remote =>
    intro q w h
    refine (execRsignal_of_seq h).trans (congrArg Host.Outcome.next ?_)
    split
    next hnow => exact if_pos hnow
    next hlater => exact signalOp_later hlater

/-- Settles O11: the tally that the signal finds is that of the program with its sequencer advanced. -/
theorem tallyOverflowLeavesTally : Obligations.TallyOverflowLeavesTally := by
  unfold Obligations.TallyOverflowLeavesTally
  intro s p q w h hnow hover
  refine (execSignal_of_seq h).trans (congrArg Host.Outcome.next ((signalOp_now hnow).trans ?_))
  exact addTally_overflows (progOf_putProg s p (advanced q)) hover

end

section
/-! The array ops that find no error (R72, R73, R75, R81, R82). -/

namespace Sys2Proof.Levels

open Sys2Proof Sys2Proof.Machine Sys2Proof.Laws Sys2Proof.Stated

/-- A command whose effect is to make `f` of its core, the core's programs left alone, is an array op. -/
theorem arrayOp_of_effect {c : Instr} {p : ProgRef} {opc : Nat} {f : Prog → OpSlot → Core → Core}
    {eff : Option HwErr → State → Prog → OpSlot → Acc OpPhase} (hc : ∀ s, exec c s = .next (runOp s p .array .none (isOp 3 opc) eff))
    (hf : ∀ q o k, SameProgs k (f q o k)) (heff : ∀ s q o, eff none s q o = .ok .done (setCore s p.core (f q o (coreOf s p.core)))) :
    ArrayOp c p opc f := by
  intro s q o h
  rw [hc]
  refine congrArg _ (runOp_afterOp (n := 0) h (hf _ _ _) ?_)
  rw [heff, coreOf_atOp]
  rfl

/-- A step of rows that each leave a core's programs leaves them. -/
theorem foldl_sameProgs {α : Type} {f : Core → α → Core} (hf : ∀ k a, SameProgs k (f k a)) (l : List α) (k : Core) :
    SameProgs k (l.foldl f k) :=
  foldl_keeps (SameProgs k) f (fun j a h => h.step (hf j a)) l k .self

theorem withDrain_sameProgs (k : Core) (upper : Bool) (d : DrainTag) : SameProgs k (withDrain k upper d) := by
  cases upper <;> exact ⟨rfl, rfl, rfl⟩

/-- The toggle of a half's selector (R73). -/
theorem withSel_not_selOf (k : Core) (upper : Bool) :
    withSel k upper (!selOf k upper) = if upper then { k with selHi := !k.selHi } else { k with selLo := !k.selLo } := by
  cases upper <;> rfl

theorem spWrite_sameProgs (k : Core) (upper : Bool) (a : Nat) (bs : List Byte) : SameProgs k (spWrite k upper a bs) := ⟨rfl, rfl, rfl⟩

end Sys2Proof.Levels

open Sys2Proof Sys2Proof.Machine Sys2Proof.Laws Sys2Proof.Stated Sys2Proof.Levels

/-- Settles O13: each array op makes of its core what its rule says, and rows, tiles and selectors are apart from the core's programs. -/
theorem arrayOps : Obligations.ArrayOps := by
  unfold Obligations.ArrayOps
  intro p
  refine ⟨arrayOp_of_effect (fun _ => rfl) ?azero ?rows, arrayOp_of_effect (fun _ => rfl) ?aload fun _ _ _ => rfl,
    arrayOp_of_effect (fun _ => rfl) ?aswap ?toggled, arrayOp_of_effect (fun _ => rfl) ?adrain ?drained⟩
  case azero =>
    intro _ _ k
    refine foldl_sameProgs (fun _ _ => ?_) _ k
    exact ⟨rfl, rfl, rfl⟩
  case rows =>
    intro s q o
    simp only [whole, azeroEff, List.foldl_map]
    rfl
  case aload => exact fun _ _ _ => ⟨rfl, rfl, rfl⟩
  case aswap =>
    intro _ _ k
    split <;> exact ⟨rfl, rfl, rfl⟩
  case toggled =>
    intro s q o
    rw [← withSel_not_selOf]
    rfl
  case adrain => exact fun _ _ k => foldl_sameProgs (fun k _ => (spWrite_sameProgs k _ _ _).step (withDrain_sameProgs _ _ _)) _ k
  case drained =>
    intro s q o
    simp only [adrainEff, Bool.false_eq_true, if_false]
    rfl

end

section
/-! The elementwise ops of the vector engine that find no error (R106 to R109, R123, R125, R128). -/

namespace Sys2Proof.Levels

open Sys2Proof Sys2Proof.Machine Sys2Proof.Laws Sys2Proof.Stated

/-- A command that runs `elementwise` is a lane op: with nothing found every live lane takes its result, and the pipeline leaves its core's
programs (R123, R128). -/
theorem laneOp_of_elementwise {c : Instr} {p : ProgRef} {vop : Nat} {fm : Prog → OpSlot → VecForm} {rnd : Option Rnd}
    {f : Prog → OpSlot → Lane → LaneOut}
    (hc : ∀ s, exec c s = .next (runVec s p .none vop (fun found s q o => elementwise (fm q o) rnd (f q o) p found s q o))) :
    LaneOp c p vop fm rnd f := by
  intro s q o h
  rw [hc]
  refine congrArg _ (runOp_afterOp h (vecSteps_sameProgs _ _ _ _ _ _ _ _ .self) ?effect)
  simp only [elementwise, coreOf_atOp, lanesAt_setProg, grainLane_setProg, laneHit_none, Bool.false_eq_true, if_false]
  rfl

end Sys2Proof.Levels

open Sys2Proof Sys2Proof.Machine Sys2Proof.Laws Sys2Proof.Stated Sys2Proof.Levels

/-- Settles O15: each arithmetic op runs `elementwise` with its own result of a lane. -/
theorem vectorArithmetic : Obligations.VectorArithmetic := by
  unfold Obligations.VectorArithmetic
  intro p
  refine ⟨?vadd, ?vsub, ?vmul, ?vfma, ?vfms, ?vmax, ?vmin, ?vabs, ?vneg, ?vadds, ?vmuls, ?vfmas, ?vclamps⟩
  case vadd | vsub | vmul | vfma | vfms | vmax | vmin | vabs | vneg | vadds | vmuls | vfmas | vclamps =>
    exact laneOp_of_elementwise fun _ => rfl

/-- Settles O16: each of these ops runs `elementwise`, its form and its result of a lane those of its output format where the rule asks for it. -/
theorem vectorBitsFillsAndFunctions : Obligations.VectorBitsFillsAndFunctions := by
  unfold Obligations.VectorBitsFillsAndFunctions
  intro p
  refine ⟨?vand, ?vor, ?vxor, ?vshl, ?vsra, ?vfill, ?viota, ?vexp2, ?vlog2, ?vrcp, ?vrsqrt, ?vtanh, ?vcvt, ?vsel, ?vselc, ?vgbits, ?vgunif, ?vgnorm⟩
  case vand | vor | vxor | vshl | vsra | vfill | viota | vexp2 | vlog2 | vrcp | vrsqrt | vtanh | vcvt | vsel | vselc | vgbits | vgunif | vgnorm =>
    exact laneOp_of_elementwise fun _ => rfl

end

section
/-! Offloaded ops (R56, R57, R186, R217, R274): an op that calls a unit leaves its port's queue and waits. -/

namespace Sys2Proof.Levels

open Sys2Proof Sys2Proof.Machine Sys2Proof.Laws Sys2Proof.Stated

/-- Taking an op's wait leaves what its call names of its program. -/
theorem takeWait_frame (q : Prog) (e : Eng) (o : OpSlot) :
    (takeWait q e o).step = q.step ∧ (takeWait q e o).sci = q.sci ∧ (takeWait q e o).ctx = q.ctx ∧ (takeWait q e o).strides = q.strides := by
  unfold takeWait
  split
  · cases e <;> exact ⟨rfl, rfl, rfl, rfl⟩
  · exact ⟨rfl, rfl, rfl, rfl⟩

theorem callCva_takeWait (q : Prog) (e : Eng) (o o2 : OpSlot) : callCva (takeWait q e o) o2 = callCva q o2 := by
  obtain ⟨-, -, -, hstrides⟩ := takeWait_frame q e o
  simp only [callCva, effBase, hstrides]

/-- Where an op whose effect left the cores alone ends: out of its queue, in its phase. -/
theorem opDone_of_sameCores {s u : State} {p : ProgRef} {e : Eng} {q : Prog} {o : OpSlot} (ph : OpPhase)
    (hqueue : (engOf q e).queue = o :: (engOf q e).queue.tail) (hcores : u.cores = (atOp s p e q o).cores) :
    opDone u p e ph = { u with
      cores := tset Core.fresh s.cores p.core (setLast (withProg (coreAtOp s p e q o) p.upper (some (leftQueue q e o ph))) e p.upper) } := by
  have hcore : coreOf u p.core = coreAtOp s p e q o := (congrArg (tget Core.fresh · p.core) hcores).trans (coreOf_atOp s p e q o)
  have hprog : progOf u p = some (takeWait q e o) := by rw [progOf, hcore, progAt_coreAtOp]
  have hlast := setLast_ne (coreAtOp s p e q o) e p.upper p.upper (leftQueue q e o ph)
  have hdone : opDone u p e ph =
      setCore (setProg u p (leftQueue q e o ph)) p.core (setLast (withProg (coreAtOp s p e q o) p.upper (some (leftQueue q e o ph))) e p.upper) := by
    simp only [opDone, hprog, takeWait_queue hqueue, coreOf_setProg, hcore, leftQueue, List.tail_cons]
  rw [hdone, setProg, setCore_setCore (withProg_ne_fresh _ _ _) hlast]
  refine congrArg (fun c => { u with cores := c }) ?_
  rw [hcores]
  exact tset_tset _ _ (withProg_ne_fresh _ _ _) hlast

/-- An op that calls a unit leaves its queue and waits; its effect is beside the cores. -/
theorem runOp_calls {s u : State} {p : ProgRef} {is : Op → Bool} {q : Prog} {o : OpSlot} {ph : OpPhase}
    {eff : State → Prog → OpSlot → Acc OpPhase} (h : startable s p .offload is = some (q, o))
    (heff : eff (atOp s p .offload q o) (takeWait q .offload o) o = .ok ph u) :
    runOp s p .offload .none is (whole eff) = leaves u p .offload ph := by
  rw [runOp_unfound h]
  exact congrArg (runEnds p (takeWait q .offload o) .offload o) heff

/-- Where such an op leaves the state that its effect has made beside the cores. -/
theorem runOp_calls_beside {s u : State} {p : ProgRef} {is : Op → Bool} {q : Prog} {o : OpSlot} {ph : OpPhase}
    {eff : State → Prog → OpSlot → Acc OpPhase} (h : startable s p .offload is = some (q, o))
    (heff : eff (atOp s p .offload q o) (takeWait q .offload o) o = .ok ph u) (hcores : u.cores = (atOp s p .offload q o).cores) :
    runOp s p .offload .none is (whole eff) = endHost { u with
      cores := (afterOp s p .offload q o (coreAtOp s p .offload q o) 0 ph).cores } (whoOp p (engNo .offload)) := by
  rw [runOp_calls h heff, leaves, opDone_of_sameCores ph (startable_prog h).2 hcores]
  rfl

/-! TABLE ops. -/

/-- A command that runs `tableEff` is a TABLE op. -/
theorem tableOp_of_tableEff {c : Instr} {p : ProgRef} {k : Nat}
    (hc : ∀ s, exec c s = .next (runOp s p .offload .none (isOp 5 k) (whole (tableEff k p)))) : TableOp c p k := by
  intro s q o h n hroom
  obtain ⟨hstep, hsci, hctx, -⟩ := takeWait_frame q .offload o
  have hplace : ¬ queuedAt (atOp s p .offload q o) n ≥ 16 := Nat.not_le.mpr hroom
  rw [hc]
  refine congrArg Host.Outcome.next ((runOp_calls_beside h (if_neg hplace) (by rfl)).trans ?_)
  rw [hstep, hsci, hctx, callCva_takeWait]
  rfl

/-! FIXER ops. -/

/-- The fixers' queue takes a call that comes now where it has a place and no call waits (R217). -/
theorem fixPlace_zero (s : State) : fixPlace s 0 = false ↔ 16 ≤ s.fixers.queue.length ∨ waitingCalls s ≠ [] := by
  cases hw : waitingCalls s <;> simp [fixPlace, hw]

/-- The fixers' queue takes a waiting call where it has a place and no earlier call waits (R217). -/
theorem fixPlace_waiting {s : State} {n : Nat} (hn : n ≠ 0) (hroom : s.fixers.queue.length < 16) (hfirst : ∀ m ∈ waitingCalls s, n ≤ m) :
    fixPlace s n = true := by
  simpa [fixPlace, hroom, hn] using hfirst

/-- A command that runs `fixerEff` is a FIXER op. -/
theorem fixerOp_of_fixerEff {c : Instr} {p : ProgRef} {k : Nat}
    (hc : ∀ s, exec c s = .next (runOp s p .offload .none (isOp 6 k) (whole (fixerEff (decide (k = 1)) p)))) : FixerOp c p k := by
  intro s q o h
  obtain ⟨hstep, hsci, hctx, -⟩ := takeWait_frame q .offload o
  have hfull := fixPlace_zero (atOp s p .offload q o)
  rw [hc]
  refine congrArg Host.Outcome.next ?_
  split
  next hwaits =>
    exact (runOp_calls_beside h (if_pos (hfull.mpr hwaits)) (by rfl)).trans rfl
  next henters =>
    refine (runOp_calls_beside h (if_neg (mt hfull.mp henters)) (by rfl)).trans ?_
    rw [hstep, hsci, hctx, callCva_takeWait]
    rfl

/-! REDUCE ops. -/

/-- A command that runs `reduceEff` is a REDUCE op. -/
theorem reduceOp_of_reduceEff {c : Instr} {p : ProgRef} {k : Nat}
    (hc : ∀ s, exec c s = .next (runOp s p .offload .none (isOp 7 k) (whole (reduceEff k p)))) : ReduceOp c p k := by
  intro s q o b s2 h hblock
  obtain ⟨hstep, hsci, hctx, -⟩ := takeWait_frame q .offload o
  rw [hc]
  refine congrArg Host.Outcome.next (runOp_calls h ?effect)
  simp only [reduceEff, hstep, hsci, hctx, callCva_takeWait, hblock, Acc.bind]
  rfl

end Sys2Proof.Levels

open Sys2Proof Sys2Proof.Machine Sys2Proof.Laws Sys2Proof.Stated Sys2Proof.Levels

/-- Settles O24: each offloaded op's effect is beside the cores, and FIXER_CALL_ENQUEUE finds the place that its call waits for. -/
theorem offloadedCalls : Obligations.OffloadedCalls := by
  unfold Obligations.OffloadedCalls
  intro p
  refine ⟨⟨?gather, ?pool, ?scatterAdd, ?rowupdate⟩, ⟨?run, ?update⟩, ⟨?allreduce, ?reduceToRoot, ?broadcast⟩, ?enqueue⟩
  case gather | pool | scatterAdd | rowupdate => exact tableOp_of_tableEff fun _ => rfl
  case run | update => exact fixerOp_of_fixerEff fun _ => rfl
  case allreduce | reduceToRoot | broadcast => exact reduceOp_of_reduceEff fun _ => rfl
  case enqueue =>
    intro s q o n hq hfind hphase hn hroom hfirst
    show execFixerCallEnqueue p s = _
    simp only [execFixerCallEnqueue, hq, hfind, hphase, fixPlace_waiting hn hroom hfirst]
    rfl

end

section
/-! The end of a core program and of its step (R59, R60, R82, R499). -/

namespace Sys2Proof.Levels

open Sys2Proof Sys2Proof.Machine Sys2Proof.Laws

/-! Work that leaves cores and scheduler. -/

/-- The cores and the scheduler of `u` are those of `s`. -/
structure SamePlaces (s u : State) : Prop where
  cores : u.cores = s.cores
  sched : u.sched = s.sched

theorem SamePlaces.trans {a b c : State} (h : SamePlaces a b) (g : SamePlaces b c) : SamePlaces a c :=
  ⟨g.cores.trans h.cores, g.sched.trans h.sched⟩

theorem SamePlaces.coreOf {s u : State} (h : SamePlaces s u) (c : Nat) : coreOf u c = coreOf s c := congrArg (tget Core.fresh · c) h.cores

theorem SamePlaces.progOf {s u : State} (h : SamePlaces s u) (p : ProgRef) : progOf u p = progOf s p := congrArg (progAt · p.upper) (h.coreOf p.core)

theorem SamePlaces.stepOf {s u : State} (h : SamePlaces s u) (n : Nat) : stepOf u n = stepOf s n := by
  simp only [Machine.stepOf, h.sched]

theorem SamePlaces.of_onlyReads {s u : State} (h : OnlyReads s u) : SamePlaces s u := by
  obtain ⟨heq, -⟩ := h
  exact ⟨by rw [heq], by rw [heq]⟩

theorem SamePlaces.endHost (s : State) (who : Nat) : SamePlaces s (endHost s who) := ⟨rfl, rfl⟩

theorem SamePlaces.of_devWrite {s u : State} {a : Nat} {bs : List Byte} (h : devWrite s a bs = .ok () u) : SamePlaces s u := by
  have hstill := still_answer (still_devWrite s a bs) h
  have hlasting := lasting_answer (lasting_devWrite s a bs) h
  simp only [still, lasting, accState, Prod.mk.injEq] at hstill hlasting
  obtain ⟨-, hcores, -⟩ := hstill
  obtain ⟨-, hsched, -⟩ := hlasting
  exact ⟨hcores, hsched⟩

/-- The work of a contact-sheet command reads and writes memory alone (R499). -/
theorem SamePlaces.of_cswWork {s u : State} (h : cswWork s = .ok () u) : SamePlaces s u := by
  unfold cswWork at h
  dsimp only at h
  split at h
  next =>
    obtain ⟨bs, s1, hread, hwrite⟩ := bind_ok h
    exact (of_onlyReads (devRead_ok hread)).trans (of_devWrite hwrite)
  next =>
    split at h
    next => exact of_devWrite h
    next =>
      obtain ⟨a, s1, hreadA, h⟩ := bind_ok h
      obtain ⟨b, s2, hreadB, h⟩ := bind_ok h
      obtain ⟨_, s3, hwrite, h⟩ := bind_ok h
      cases h
      have hwritten : SamePlaces s2 s3 := of_devWrite hwrite
      exact (of_onlyReads (devRead_ok hreadA)).trans ((of_onlyReads (devRead_ok hreadB)).trans (hwritten.trans ⟨rfl, rfl⟩))

/-! Steps by their number. -/

theorem uid_of_stepOf {s : State} {n : Nat} {t : StepRec} (h : stepOf s n = some t) : t.uid = n := by
  simpa using List.find?_some h

/-- A step that is stored is the one found by its number. -/
theorem stepOf_setStep {s : State} {x t : StepRec} (h : stepOf s x.uid = some t) : stepOf (setStep s x) x.uid = some x := by
  simp only [stepOf, setStep_sched] at h ⊢
  generalize s.sched.steps = steps at h ⊢
  induction steps with
  | nil => cases h
  | cons y l ih =>
    by_cases hy : y.uid = x.uid
    · simp [hy]
    · simp only [List.find?_cons, List.map_cons, if_neg hy, beq_eq_false_iff_ne.mpr hy] at h ⊢
      exact ih h

/-! The end of one program. -/

/-- A step's record as the end of its program `q`, on the core `k`, leaves it (R82). -/
def endedRec (t : StepRec) (q : Prog) (d : DrainTag) : StepRec :=
  { t with endedN := t.endedN + 1, sat := t.sat || d.sat, nf := t.nf || d.nf, ended := tput t.ended q.sci q.tallies, quiet := 0 }

theorem endOne_eq {s : State} {p : ProgRef} {q : Prog} (t : StepRec) (hq : progOf s p = some q) :
    endOne s p t = freeHalf (setStep s (endedRec t q (drainOf (coreOf s p.core) p.upper))) p false := by
  simp only [endOne, hq]
  rfl

theorem endHostAt_sched (s : State) (p : ProgRef) : (endHostAt s p).sched = s.sched :=
  foldl_keeps (fun u : State => u.sched = s.sched) (fun u e => endHost u (whoOp p e)) (fun _ _ h => h) _ s rfl

theorem freeHalf_sched (s : State) (p : ProgRef) (scrub : Bool) : (freeHalf s p scrub).sched = s.sched := endHostAt_sched _ p

/-- A place that becomes free changes no step. -/
theorem stepOf_freeHalf (s : State) (p : ProgRef) (scrub : Bool) (n : Nat) : stepOf (freeHalf s p scrub) n = stepOf s n := by
  simp only [stepOf, freeHalf_sched]

/-- The last END closes its step in the state that the step's last work has left, which has its places (R60). -/
theorem endStep_of_work {s s2 : State} {p : ProgRef} {q : Prog} {t : StepRec} {l : Option (BitVec 32)}
    (hq : progOf s p = some q) (ht : stepOf s q.step = some t) (hwork : lastWork s t = .ok l s2) (hsame : SamePlaces s s2) :
    endStep s p t = closeStep (freeHalf (setStep s2 (endedRec t q (drainOf (coreOf s p.core) p.upper))) p false)
      (endedRec t q (drainOf (coreOf s p.core) p.upper)) (if t.nonfin then 0x0601 else 0) l := by
  have huid := uid_of_stepOf ht
  have hone : endOne s2 p t = freeHalf (setStep s2 (endedRec t q (drainOf (coreOf s p.core) p.upper))) p false := by
    rw [endOne_eq t ((hsame.progOf p).trans hq), hsame.coreOf]
  have hstep : stepOf (endOne s2 p t) t.uid = some (endedRec t q (drainOf (coreOf s p.core) p.upper)) := by
    rw [hone, stepOf_freeHalf]
    refine stepOf_setStep (x := endedRec t q _) (t := t) ?_
    rw [hsame.stepOf]
    exact huid ▸ ht
  unfold endStep
  rw [hwork]
  dsimp only
  rw [hstep, hone]
  dsimp only
  exact (apply_ite (fun n => closeStep _ _ n l) _ _ _).symm

/-- END with every earlier op completed and its signals given (R59). -/
theorem execEndProg_of_done {s : State} {p : ProgRef} {q : Prog} {w : Op} {t : StepRec} (h : seqIs s p 0 0 = some (q, w))
    (he : ∀ e, (engOf q e).queue = [] ∧ (engOf q e).run = []) (hp : q.pend = []) (ht : stepOf s q.step = some t) :
    execEndProg p s = .next (if t.endedN + 1 = t.nprog then endStep s p t else endOne s p t) := by
  simp only [execEndProg, h, allDone_of_empty he, hp, List.isEmpty_nil, Bool.and_self, if_true, ht]

end Sys2Proof.Levels

open Sys2Proof Sys2Proof.Machine Sys2Proof.Laws Sys2Proof.Levels

/-- Settles O23: the last work of a step leaves its cores and the scheduler, so that the END after it finds its program and its step. -/
theorem endOfProgramAndStep : Obligations.EndOfProgramAndStep := by
  unfold Obligations.EndOfProgramAndStep
  intro s p q w t h he hp ht
  have hq := canRun_progOf (seqIs_canRun h)
  have hexec := execEndProg_of_done h he hp ht
  refine ⟨fun hmore => ?more, fun bs s2 hlast hcsw hread => ?loss, fun u s2 hlast hcsw hwork hfin => ?sheet⟩
  case more =>
    refine hexec.trans (congrArg Host.Outcome.next ?_)
    rw [if_neg hmore, endOne_eq t hq]
    rfl
  case loss =>
    have hwork : lastWork s t = .ok (some (BitVec.ofNat 32 (leNat bs))) (endHost s2 whoSched) := by
      simp only [lastWork, hcsw, hread, Acc.bind]
    refine hexec.trans (congrArg Host.Outcome.next ?_)
    rw [if_pos hlast, endStep_of_work hq ht hwork ((SamePlaces.of_onlyReads (cvaRead_ok hread)).trans (.endHost _ _))]
    rfl
  case sheet =>
    have hlastWork : lastWork s t = .ok none s2 := by
      simp only [lastWork, hcsw, hwork, Acc.bind]
    have hcode : (if t.nonfin then 0x0601 else 0) = 0 := if_neg (by simp [hfin])
    refine hexec.trans (congrArg Host.Outcome.next ?_)
    rw [if_pos hlast, endStep_of_work hq ht hlastWork (.of_cswWork hwork), hcode]
    rfl

end

section
/-! What a core holds of an earlier context (R74, R79, R89, R348): nothing after a scrub, and nothing where a program of another context is
given its place. -/

namespace Sys2Proof.Levels

open Sys2Proof Sys2Proof.Machine Sys2Proof.Laws Sys2Proof.Stated

/-- A key that a table does not list reads as the rest do. -/
theorem tget_of_unlisted {α : Type} {d : α} {k : Nat} {t : Tbl α} (h : ∀ e ∈ t, e.1 ≠ k) : tget d t k = d := by
  induction t with
  | nil => rfl
  | cons e t ih =>
    obtain ⟨hhead, htail⟩ := List.forall_mem_cons.mp h
    simp only [tget, if_neg hhead, ih htail, ite_self]

/-- The bytes of a half read zero. -/
def ZeroSp (split upper : Bool) (k : Core) : Prop := ∀ key, ofHalf split upper key → tget 0 k.sp key = 0

/-- The columns of a half are clear and its tiles empty. -/
structure ClearArrays (split upper : Bool) (k : Core) : Prop where
  acc   : ∀ e, e ∈ k.acc → split = true ∧ e.1 % 64 / 32 ≠ b2n upper
  rows  : ∀ e, e ∈ k.rows → split = true ∧ e.1 % 2 ≠ b2n upper
  tiles : ∀ e, e ∈ k.tiles → split = true ∧ e.1 / 2 ≠ b2n upper

theorem blank_iff {split upper : Bool} {k : Core} : Blank split upper k ↔ ZeroSp split upper k ∧ ClearArrays split upper k :=
  ⟨fun ⟨hsp, hacc, hrows, htiles⟩ => ⟨hsp, hacc, hrows, htiles⟩, fun ⟨hsp, hacc, hrows, htiles⟩ => ⟨hsp, hacc, hrows, htiles⟩⟩

/-- Scrubbing a half leaves none of its bytes (R348). -/
theorem spScrub_zeroSp (k : Core) (upper : Bool) : ZeroSp k.split upper (spScrub k upper) := by
  rintro key (hwhole | hhalf)
  · simp only [spScrub, hwhole, Bool.false_eq_true, if_false, tget]
  · refine tget_of_unlisted fun e he hkey => ?_
    simp only [spScrub] at he
    split at he
    · simp [hkey, hhalf] at he
    · simp at he

/-- Zeroing a half leaves none of its columns, rows and tiles (R89). -/
theorem zeroArray_clear (k : Core) (upper : Bool) : ClearArrays k.split upper (zeroArray k upper) where
  acc e he := by simpa [zeroArray] using (List.mem_filter.mp he).2
  rows e he := by simpa [zeroArray] using (List.mem_filter.mp he).2
  tiles e he := by simpa [zeroArray] using (List.mem_filter.mp he).2

/-- What a core's arrays hold. -/
def arraysOf (k : Core) := (k.sp, k.acc, k.rows, k.tiles)

theorem ZeroSp.of_sp {split upper : Bool} {k j : Core} (h : ZeroSp split upper k) (hsp : j.sp = k.sp) : ZeroSp split upper j := by
  intro key hkey
  rw [hsp]
  exact h key hkey

theorem ClearArrays.of_arrays {split upper : Bool} {k j : Core} (h : ClearArrays split upper k) (hj : arraysOf j = arraysOf k) :
    ClearArrays split upper j := by
  simp only [arraysOf, Prod.mk.injEq] at hj
  obtain ⟨-, hacc, hrows, htiles⟩ := hj
  exact ⟨hacc ▸ h.acc, hrows ▸ h.rows, htiles ▸ h.tiles⟩

theorem settleCore_arrays (k : Core) : arraysOf (settleCore k) = arraysOf k := by
  unfold settleCore
  split
  · rfl
  · split <;> rfl

theorem wakeFor_arrays (k : Core) : arraysOf (wakeFor k) = arraysOf k := by
  unfold wakeFor
  split <;> rfl

/-- A half-core scrubbed and freed again (R89, R348). -/
def scrubbedCore (k : Core) (upper : Bool) : Core :=
  settleCore (if upper then { zeroArray (spScrub k upper) upper with scrubHi := false } else { zeroArray (spScrub k upper) upper with scrubLo := false })

theorem execScrubComplete_scrubs {s : State} {core : Nat} {upper : Bool}
    (h : (if upper then (coreOf s core).scrubHi else (coreOf s core).scrubLo) = true) :
    execScrubComplete core upper s = .next (setCore s core (scrubbedCore (coreOf s core) upper)) := by
  simp only [execScrubComplete, h, if_true]
  rfl

theorem scrubbedCore_blank (k : Core) (upper : Bool) : Blank k.split upper (scrubbedCore k upper) := by
  have harrays : arraysOf (scrubbedCore k upper) = arraysOf (zeroArray (spScrub k upper) upper) := by
    refine (settleCore_arrays _).trans ?_
    split <;> rfl
  have hclear : ClearArrays k.split upper (zeroArray (spScrub k upper) upper) := zeroArray_clear (spScrub k upper) upper
  exact blank_iff.mpr ⟨(spScrub_zeroSp k upper).of_sp (congrArg Prod.fst harrays), hclear.of_arrays harrays⟩

/-- The core of a place as a program of step `t` is given it, before the program stands there. -/
def givenCore (s : State) (t : StepRec) (core : Nat) (upper : Bool) : Core :=
  wakeFor (clearArray (claimCore { coreOf s core with split := t.split } upper t.ctx) upper)

theorem givenCore_arrays (s : State) (t : StepRec) (core : Nat) (upper : Bool) :
    arraysOf (givenCore s t core upper) = arraysOf (zeroArray (claimCore { coreOf s core with split := t.split } upper t.ctx) upper) :=
  wakeFor_arrays _

theorem claimCore_split (k : Core) (upper : Bool) (ctx : Nat) : (claimCore k upper ctx).split = k.split := by
  unfold claimCore
  dsimp only
  split
  · cases upper <;> simp only [Bool.false_eq_true, if_false, if_true] <;> split <;> rfl
  · split <;> rfl

/-- The half was held last by a step of another context; a whole core, where either half was (R348). -/
def heldByOther (k : Core) (upper : Bool) (ctx : Nat) : Prop :=
  if k.split then (if upper then k.ctxHi else k.ctxLo) ≠ ctx else k.ctxLo ≠ ctx ∨ k.ctxHi ≠ ctx

theorem claimCore_zeroSp {k : Core} {upper : Bool} {ctx : Nat} (h : heldByOther k upper ctx) : ZeroSp k.split upper (claimCore k upper ctx) := by
  refine (spScrub_zeroSp k upper).of_sp ?_
  unfold heldByOther at h
  unfold claimCore
  split at h
  next hs =>
    simp only [hs, if_true, if_neg h]
    split <;> rfl
  next hs =>
    rw [if_neg hs, if_neg (by rwa [not_and_or])]

theorem givenCore_clear (s : State) (t : StepRec) (core : Nat) (upper : Bool) : ClearArrays t.split upper (givenCore s t core upper) := by
  have hclear := zeroArray_clear (claimCore { coreOf s core with split := t.split } upper t.ctx) upper
  rw [claimCore_split] at hclear
  exact hclear.of_arrays (givenCore_arrays s t core upper)

theorem givenCore_blank {s : State} {t : StepRec} {core : Nat} {upper : Bool}
    (h : heldByOther { coreOf s core with split := t.split } upper t.ctx) : Blank t.split upper (givenCore s t core upper) :=
  blank_iff.mpr ⟨(claimCore_zeroSp h).of_sp (congrArg Prod.fst (givenCore_arrays s t core upper)), givenCore_clear s t core upper⟩

end Sys2Proof.Levels

open Sys2Proof Sys2Proof.Machine Sys2Proof.Laws Sys2Proof.Stated Sys2Proof.Levels

/-- Settles O48: a scrub leaves neither bytes nor columns of its half, and what a program is given has been claimed and cleared. -/
theorem coresAreScrubbedBetweenContexts : Obligations.CoresAreScrubbedBetweenContexts := by
  unfold Obligations.CoresAreScrubbedBetweenContexts
  refine ⟨fun s core upper h => ⟨_, execScrubComplete_scrubs h, scrubbedCore_blank _ upper⟩,
    fun s t sci core upper => ⟨givenCore s t core upper, rfl, (givenCore_clear s t core upper).acc, ?half, ?whole⟩⟩
  case half | whole =>
    intro hs hother
    rw [← hs]
    exact givenCore_blank (by simpa [heldByOther, hs] using hother)

end

section
/-! The copy ops (R138, R139, R145, R147, R158, R419): how far one command of an op goes, and where it leaves the op. -/

namespace Sys2Proof.Levels

open Sys2Proof Sys2Proof.Machine Sys2Proof.Laws Sys2Proof.Stated

section copy

variable {s : State} {p : ProgRef} {e : Eng} {q : Prog} {o : OpSlot} {opc : Nat}

/-- A COPY op that may start, and whose engine's checks find nothing, ends as its effect says. -/
theorem runCopy_unfound {err : HwErr} {eff : State → Prog → OpSlot → Acc (OpPhase × Nat)} (h : startable s p e (isOp 2 opc) = some (q, o))
    (herr : hwCheck (atOp s p e q o) p (takeWait q e o) e o err = (atOp s p e q o, none)) :
    runCopy s p e err opc eff = copyEnds p (takeWait q e o) e o (eff (atOp s p e q o) (takeWait q e o) o) := by
  unfold atOp at herr ⊢
  simp only [runCopy, h, herr]

/-- The same over its way to memory, where it meets nothing there either. -/
theorem runOnWay_unfound {eff : Option Nat → State → Prog → OpSlot → Acc (OpPhase × Nat)} (h : startable s p e (isOp 2 opc) = some (q, o)) :
    runOnWay s p e .none opc eff = copyEnds p (takeWait q e o) e o (eff none (atOp s p e q o) (takeWait q e o) o) := by
  simp only [runOnWay, h, Option.isNone_some, Bool.false_eq_true, if_false, onWay, metLine]
  exact runCopy_unfound h rfl

/-- A LOAD that meets a data beat in error on its way goes on with that beat's line spoilt (R419). -/
theorem runOnWay_spoilt {w : WireErr} {eff : Option Nat → State → Prog → OpSlot → Acc (OpPhase × Nat)} (hdata : beatIsData w = true)
    (hheader : beatIsHeader w = false) (hon : beatOn s [dieOf s p.core] true false w = true) (hsome : startable s p e (isOp 2 0) ≠ none)
    (h : startable (meetBeat s w) p e (isOp 2 0) = some (q, o)) :
    runOnWay s p e (.wire w) 0 eff =
      copyEnds p (takeWait q e o) e o (eff (some (beatPpa w)) (atOp (meetBeat s w) p e q o) (takeWait q e o) o) := by
  have hload : onWay (0 == 0) (dieOf s p.core) s (.wire w) = (some (meetBeat s w, some (beatPpa w)), meetBeat s w) := by
    simp [onWay, hon, hheader, hdata]
  have hnone : ¬ (startable s p e (isOp 2 0)).isNone = true := by simpa using hsome
  rw [runOnWay, if_neg hnone, hload]
  exact runCopy_unfound h rfl

/-- With bytes left the op stays in its channel, and with the last of them it leaves its queue (R138). -/
theorem copyEnds_phaseAt (u : State) (rs : List (Nat × Nat)) (m : Nat) : copyEnds p q e o (.ok (phaseAt rs m) u) = copyGoes u p e rs m := by
  unfold phaseAt copyGoes
  split <;> rfl

/-! LOAD and STORE. -/

variable {gs : List Seg} {bs : List Byte} {s2 s3 : State}

theorem loadEff_of_reads {spoilt : Option Nat}
    (hsegs : rangesSegs q.ctx false (cpSrc q o).coded s (joinRuns (runsAt (runsOf (cpSrc q o)) o.mark (nextBytes (runsOf (cpSrc q o)) o.mark))) = .ok gs s2)
    (hread : segsReadC ⟨whoOp p (engNo e), q.ctx⟩ (cpSrc q o).coded s2 gs = .ok bs s3) (hhit : ∀ a, spoilt = some a → gs.any (touchesLine a) = true) :
    loadEff spoilt p e s q o = match spoilt with
      | some a => .bad 0x0304 (lineOf a * 64) s3
      | none => .ok (phaseAt (runsOf (cpSrc q o)) (o.mark + nextBytes (runsOf (cpSrc q o)) o.mark))
          (spPut s3 p (runsAt (runsOf (cpDst q o)) o.mark (nextBytes (runsOf (cpSrc q o)) o.mark)) bs) := by
  cases spoilt with
  | none => simp only [loadEff, hsegs, hread, Acc.bind]
  | some a => simp only [loadEff, hsegs, hread, Acc.bind, hhit a rfl, if_true]

theorem storeEff_of_writes
    (hsegs : rangesSegs q.ctx true (cpDst q o).coded s (joinRuns (runsAt (runsOf (cpDst q o)) o.mark (nextBytes (runsOf (cpDst q o)) o.mark))) = .ok gs s2)
    (hwrite : segsWriteC ⟨whoOp p (engNo e), q.ctx⟩ (cpDst q o).coded s2 gs
      (spGather (coreOf s2 p.core) p.upper (runsAt (runsOf (cpSrc q o)) o.mark (nextBytes (runsOf (cpDst q o)) o.mark))) = .ok () s3) :
    storeEff none p e s q o = .ok (phaseAt (runsOf (cpDst q o)) (o.mark + nextBytes (runsOf (cpDst q o)) o.mark)) s3 := by
  simp only [storeEff, hsegs, hwrite, Acc.bind]

/-! PUT. -/

/-- A PUT whose target stands at its place of the step writes there (R139). -/
theorem putEff_of_target {t : StepRec} {u : ProgRef} {d : Prog} (ht : stepOf s q.step = some t) (hu : slotProg t (cpTCORE o.word) = some u)
    (hd : progOf s u = some d) (hstep : d.step = q.step) (hsci : d.sci = cpTCORE o.word) : putEff p s q o = carried s p u q o := by
  simp only [putEff, ht, Option.bind_some, hu, hd, hstep, hsci, and_self, if_true]

/-! RREAD and RWRITE. -/

/-- Where a remote copy that has issued what it may leaves its op: waiting for the answers, or in its channel with pieces left (R138, R147). -/
theorem copyEnds_issueSome {room : State → Nat × Nat × Nat → Bool} {f : State → Nat × Nat × Nat → Option State} {coded : Bool}
    {rs : List (Nat × Nat)} {left : Nat}
    (h : issueAll room f s ((positions o.mark (remotePieces coded (dropRuns o.mark rs))).take (channelBursts - copyOut s p (e == .copy1))) = some (s2, left)) :
    copyEnds p q e o (issueSome room f p e s o coded rs) =
      let ps := positions o.mark (remotePieces coded (dropRuns o.mark rs))
      let now := ps.take (channelBursts - copyOut s p (e == .copy1))
      if now.length = ps.length ∧ left = 0 then leaves s2 p e (.remote (copyOut s2 p (e == .copy1)))
      else opStays (endHost s2 (whoOp p (engNo e))) p e (o.mark + runBytes ((now.take (now.length - left)).map (·.2))) := by
  simp only [issueSome, h]
  split <;> rfl

end copy

end Sys2Proof.Levels

open Sys2Proof Sys2Proof.Machine Sys2Proof.Laws Sys2Proof.Stated Sys2Proof.Levels

/-- Settles O20: each copy op's effect, where its accesses answer, ends by `copyEnds_phaseAt` or, of the remote ones, by `copyEnds_issueSome`. -/
theorem copiesComplete : Obligations.CopiesComplete := by
  unfold Obligations.CopiesComplete
  intro s p e q o
  dsimp only
  refine ⟨?load, ?spoilt, ?store, ?move, ?put, ?rread, ?rwrite⟩
  case load =>
    intro gs bs s2 s3 h hsegs hread
    refine congrArg Host.Outcome.next ((runOnWay_unfound h).trans ?_)
    rw [loadEff_of_reads hsegs hread (by simp)]
    exact copyEnds_phaseAt _ _ _
  case spoilt =>
    intro w gs bs s2 s3 hdata hheader hon hsome h hsegs hread hhit
    refine congrArg Host.Outcome.next ((runOnWay_spoilt hdata hheader hon hsome h).trans ?_)
    rw [loadEff_of_reads hsegs hread (by simpa using hhit)]
    rfl
  case store =>
    intro gs s2 s3 h hsegs hwrite
    refine congrArg Host.Outcome.next ((runOnWay_unfound h).trans ?_)
    rw [storeEff_of_writes hsegs hwrite]
    exact copyEnds_phaseAt _ _ _
  case move =>
    intro h
    exact congrArg Host.Outcome.next ((runCopy_unfound h rfl).trans (copyEnds_phaseAt _ _ _))
  case put =>
    intro t u d h ht hu hd hstep hsci
    refine congrArg Host.Outcome.next ((runCopy_unfound h rfl).trans ?_)
    rw [putEff_of_target ht hu hd hstep hsci]
    exact copyEnds_phaseAt _ _ _
  case rread =>
    intro s2 left h hissued
    exact congrArg Host.Outcome.next ((runCopy_unfound h rfl).trans (copyEnds_issueSome hissued))
  case rwrite =>
    intro s2 left h hissued
    exact congrArg Host.Outcome.next ((runCopy_unfound h rfl).trans (copyEnds_issueSome hissued))

end

section
/-! Placement of a step (R350): the steps that wait, and the programs at the places that a step is given. -/

namespace Sys2Proof.Levels

open Sys2Proof Sys2Proof.Machine Sys2Proof.Laws Sys2Proof.Stated

/-! The order of waiting steps. -/

/-- A step that may be placed: it waits or is saved, is not voided, and is no contact-sheet command that a change of membership holds (R296, R350). -/
def mayPlace (s : State) (t : StepRec) : Bool :=
  (t.st == .waiting || t.st == .saved) && !t.voided && !(t.csw.isSome && s.pod.holdSteps)

theorem insStep_perm (t : StepRec) (l : List StepRec) : (insStep t l).Perm (t :: l) := by
  induction l with
  | nil => exact .refl _
  | cons x l ih =>
    unfold insStep
    split
    · exact .refl _
    · exact (ih.cons x).trans (.swap t x l)

theorem foldl_insStep_perm (steps l : List StepRec) : (steps.foldl (fun l t => insStep t l) l).Perm (steps ++ l) := by
  induction steps generalizing l with
  | nil => exact .refl _
  | cons t steps ih =>
    refine (ih (insStep t l)).trans ?_
    exact ((insStep_perm t l).append_left steps).trans List.perm_middle

/-- The order lists the steps that may be placed. -/
theorem waitOrder_perm (s : State) : (waitOrder s).Perm (s.sched.steps.filter (mayPlace s)) := by
  have h := foldl_insStep_perm (s.sched.steps.filter (mayPlace s)) []
  rwa [List.append_nil] at h

theorem mem_steps_of_waitOrder {s : State} {t : StepRec} {l : List StepRec} (h : waitOrder s = t :: l) : t ∈ s.sched.steps :=
  (List.mem_filter.mp ((waitOrder_perm s).subset (h ▸ List.mem_cons_self))).1

theorem stepOf_of_mem {s : State} {t : StepRec} (h : t ∈ s.sched.steps) : ∃ y, stepOf s t.uid = some y :=
  Option.isSome_iff_exists.mp (List.find?_isSome.mpr ⟨t, h, beq_self_eq_true _⟩)

/-! PLACEMENT, by its head. -/

theorem execPlacement_of_go {s : State} (hgo : stepsGo s = true) : execPlacement s = .next (placeAll (s.sched.steps.length + 1) s) := by
  simp only [execPlacement, hgo, if_true]

theorem placeAll_of_fits {s : State} {t : StepRec} {l : List StepRec} {xs : List (Nat × Bool)} (n : Nat) (hw : waitOrder s = t :: l)
    (hp : placeFor s t [] = some xs) : placeAll (n + 1) s = placeAll n (placeStep s t xs) := by
  simp only [placeAll, hw, hp]

theorem placeAll_of_stuck {s : State} {t : StepRec} {l : List StepRec} (n : Nat) (hw : waitOrder s = t :: l) (hp : placeFor s t [] = none) :
    placeAll (n + 1) s = if t.cls = 0 then preemptFor s t (victimsOf s 0) else s := by
  simp only [placeAll, hw, hp]

theorem placeAll_of_none {s : State} (n : Nat) (hw : waitOrder s = []) : placeAll n s = s := by
  cases n with
  | zero => rfl
  | succ n => simp only [placeAll, hw]

/-! What a step's placement makes of the scheduler. -/

/-- The record of a placed step. -/
def placedRec (s : State) (t : StepRec) (xs : List (Nat × Bool)) : StepRec :=
  { t with
    slots := (List.range t.nprog).map (fun i => match (slotTable t xs).find? (fun x => x.1 == i) with | some x => x.2 | none => (coreCount s, false))
    st := if t.st = .saved then .restored else .placed
    placedAt := s.sched.stamp
    quiet := 0 }

theorem foldl_giveSlot_sched (t : StepRec) (tab : List (Nat × Nat × Bool)) (s : State) : (tab.foldl (giveSlot t) s).sched = s.sched :=
  foldl_keeps (fun u : State => u.sched = s.sched) (giveSlot t) (fun _ _ h => h) tab s rfl

theorem foldl_giveSlot_pod (t : StepRec) (tab : List (Nat × Nat × Bool)) (s : State) : (tab.foldl (giveSlot t) s).pod = s.pod :=
  foldl_keeps (fun u : State => u.pod = s.pod) (giveSlot t) (fun _ _ h => h) tab s rfl

/-- The state with a placed step's record, before its programs are at their places. -/
def recorded (s : State) (t : StepRec) (xs : List (Nat × Bool)) : State :=
  { setStep s (placedRec s t xs) with sched := { (setStep s (placedRec s t xs)).sched with stamp := s.sched.stamp + 1 } }

theorem placeStep_eq (s : State) (t : StepRec) (xs : List (Nat × Bool)) :
    placeStep s t xs = (slotTable t xs).foldl (giveSlot t) (recorded s t xs) := rfl

theorem placeStep_steps (s : State) (t : StepRec) (xs : List (Nat × Bool)) :
    (placeStep s t xs).sched.steps = (setStep s (placedRec s t xs)).sched.steps := by
  rw [placeStep_eq, foldl_giveSlot_sched]
  rfl

theorem placeStep_pod (s : State) (t : StepRec) (xs : List (Nat × Bool)) : (placeStep s t xs).pod = s.pod := by
  rw [placeStep_eq, foldl_giveSlot_pod]
  rfl

theorem stepOf_placeStep {s : State} {t : StepRec} (xs : List (Nat × Bool)) (h : t ∈ s.sched.steps) :
    stepOf (placeStep s t xs) t.uid = some (placedRec s t xs) := by
  obtain ⟨y, hy⟩ := stepOf_of_mem h
  rw [stepOf, placeStep_steps]
  exact stepOf_setStep (x := placedRec s t xs) hy

theorem mayPlace_placedRec (s u : State) (t : StepRec) (xs : List (Nat × Bool)) : mayPlace u (placedRec s t xs) = false := by
  unfold mayPlace placedRec
  dsimp only
  split <;> rfl

/-- A placed step waits no more, so that with it alone in the order none waits (R350). -/
theorem waitOrder_placeStep {s : State} {t : StepRec} (xs : List (Nat × Bool)) (hw : waitOrder s = [t]) : waitOrder (placeStep s t xs) = [] := by
  have honly : s.sched.steps.filter (mayPlace s) = [t] := List.perm_singleton.mp (hw ▸ waitOrder_perm s).symm
  have hsame : mayPlace (placeStep s t xs) = mayPlace s := by
    funext x
    simp only [mayPlace, placeStep_pod]
  refine List.Perm.eq_nil ((waitOrder_perm _).trans (.of_eq ?_))
  rw [hsame, placeStep_steps, setStep_sched, List.filter_eq_nil_iff]
  intro a ha hmay
  obtain ⟨x, hx, rfl⟩ := List.mem_map.mp ha
  split at hmay
  next => exact Bool.false_ne_true ((mayPlace_placedRec s s t xs).symm.trans hmay)
  next hne =>
    have hxt : x ∈ [t] := honly ▸ List.mem_filter.mpr ⟨hx, hmay⟩
    have huid : x.uid = t.uid := congrArg StepRec.uid (List.mem_singleton.mp hxt)
    exact hne huid

/-! The programs that a placement sets up. -/

theorem claimCore_progs (k : Core) (upper : Bool) (ctx : Nat) (u : Bool) : progAt (claimCore k upper ctx) u = progAt k u := by
  unfold claimCore
  dsimp only
  split
  · cases upper <;> simp only [Bool.false_eq_true, if_false, if_true] <;> split <;> rfl
  · split <;> rfl

/-- Claiming and clearing a place leaves the programs of its core. -/
theorem progAt_givenCore (s : State) (t : StepRec) (core : Nat) (upper u : Bool) :
    progAt (givenCore s t core upper) u = progAt (coreOf s core) u := by
  have hwake (k : Core) : progAt (wakeFor k) u = progAt k u := by
    unfold wakeFor
    split <;> rfl
  exact (hwake _).trans (claimCore_progs _ _ _ _)

theorem giveSlot_eq (t : StepRec) (s : State) (i core : Nat) (upper : Bool) :
    giveSlot t s (i, core, upper) = setCore s core (withProg (givenCore s t core upper) upper (some (freshProg t i))) := rfl

theorem progOf_giveSlot (t : StepRec) (s : State) (i core : Nat) (upper : Bool) :
    progOf (giveSlot t s (i, core, upper)) ⟨core, upper⟩ = some (freshProg t i) := by
  rw [giveSlot_eq, progOf, coreOf_setCore (withProg_ne_fresh _ _ _), progAt_withProg]

theorem progOf_giveSlot_ne (t : StepRec) (s : State) {x : Nat × Nat × Bool} {r : ProgRef} (h : x.2 ≠ (r.core, r.upper)) :
    progOf (giveSlot t s x) r = progOf s r := by
  obtain ⟨i, core, upper⟩ := x
  rw [giveSlot_eq, progOf]
  by_cases hc : r.core = core
  · have hu : r.upper ≠ upper := fun hu => h (by rw [hc, hu])
    rw [hc, coreOf_setCore (withProg_ne_fresh _ _ _), progAt_withProg_other _ _ hu, progAt_givenCore, progOf, hc]
  · rw [coreOf_setCore_ne (withProg_ne_fresh _ _ _) hc, progOf]

/-- Of places that are all different each holds the program it was given. -/
theorem progOf_foldl_giveSlot (t : StepRec) {tab : List (Nat × Nat × Bool)} (hd : (tab.map Prod.snd).Nodup) (s : State) {i core : Nat} {upper : Bool}
    (hx : (i, core, upper) ∈ tab) : progOf (tab.foldl (giveSlot t) s) ⟨core, upper⟩ = some (freshProg t i) := by
  induction tab generalizing s with
  | nil => cases hx
  | cons y tab ih =>
    obtain ⟨hnot, hrest⟩ := List.nodup_cons.mp hd
    rcases List.mem_cons.mp hx with rfl | hx
    · refine List.foldlRecOn (motive := fun u : State => progOf u ⟨core, upper⟩ = some (freshProg t i)) tab (giveSlot t)
        (progOf_giveSlot t s i core upper) ?_
      intro u hu z hz
      have hne : z.2 ≠ (core, upper) := fun heq => hnot (List.mem_map.mpr ⟨z, hz, heq⟩)
      rw [progOf_giveSlot_ne t u hne, hu]
    · exact ih hrest (giveSlot t s y) hx

/-- The places that a step is given are all different (R350). -/
theorem slotTable_places_nodup {s : State} {t : StepRec} {xs : List (Nat × Bool)} (hp : placeFor s t [] = some xs) :
    ((slotTable t xs).map Prod.snd).Nodup := by
  obtain ⟨hlen, -, hord⟩ := placementPicksFreeCores s t xs hp
  rw [slotTable, List.map_snd_zip hlen.le]
  refine hord.imp ?_
  rintro a _ (hlt | ⟨-, hlow, hhigh⟩) rfl
  · exact lt_irrefl _ hlt
  · exact Bool.false_ne_true (hlow.symm.trans hhigh)

theorem progOf_placeStep {s : State} {t : StepRec} {xs : List (Nat × Bool)} (hp : placeFor s t [] = some xs) {i core : Nat} {upper : Bool}
    (hx : (i, core, upper) ∈ slotTable t xs) : progOf (placeStep s t xs) ⟨core, upper⟩ = some (freshProg t i) :=
  progOf_foldl_giveSlot t (slotTable_places_nodup hp) _ hx

end Sys2Proof.Levels
end

section
/-! Pre-emption, save, release and the step watchdog (R353 to R357, R361, R435, R504). -/

namespace Sys2Proof.Levels

open Sys2Proof Sys2Proof.Machine Sys2Proof.Laws Sys2Proof.Stated

/-! Pre-emption. -/

theorem preemptFor_of_set {s : State} {t : StepRec} {cands vs : List StepRec} (hv : victimSet s t [] cands = some vs)
    (hsets : (vs.filter (fun v => v.set.isNone)).length ≤ (freeSets s).length) : preemptFor s t cands = vs.foldl markVictim s := by
  simp only [preemptFor, hv, if_pos hsets]

/-- A program whose sequencer has stopped. -/
def halted (q : Prog) : Prog := { q with released := false }

/-- The sequencer of a place stops (R353). -/
def haltAt (s : State) (p : ProgRef) : State := match progOf s p with | some q => setProg s p (halted q) | none => s

theorem haltAt_sched (s : State) (p : ProgRef) : (haltAt s p).sched = s.sched := by
  unfold haltAt
  split <;> rfl

theorem foldl_haltAt_sched (ps : List ProgRef) (s : State) : (ps.foldl haltAt s).sched = s.sched :=
  foldl_keeps (fun u : State => u.sched = s.sched) haltAt (fun u p h => (haltAt_sched u p).trans h) ps s rfl

theorem progOf_haltAt {s : State} {p : ProgRef} {q : Prog} (h : progOf s p = some q) : progOf (haltAt s p) p = some (halted q) := by
  simp only [haltAt, h, progOf_setProg]

theorem progOf_haltAt_ne (s : State) {p r : ProgRef} (h : r ≠ p) : progOf (haltAt s p) r = progOf s r := by
  unfold haltAt
  split
  · exact progOf_setProg_ne h
  · rfl

/-- A stopped sequencer stays stopped. -/
theorem progOf_foldl_haltAt_of_halted {p : ProgRef} {q : Prog} (ps : List ProgRef) {s : State} (h : progOf s p = some (halted q)) :
    progOf (ps.foldl haltAt s) p = some (halted q) := by
  refine foldl_keeps (fun u : State => progOf u p = some (halted q)) haltAt (fun u r hu => ?_) ps s h
  rcases eq_or_ne p r with rfl | hr
  · exact progOf_haltAt (q := halted q) hu
  · rw [progOf_haltAt_ne u hr, hu]

/-- Of the places gone over every sequencer stops. -/
theorem progOf_foldl_haltAt {p : ProgRef} {q : Prog} {ps : List ProgRef} (hp : p ∈ ps) {s : State} (h : progOf s p = some q) :
    progOf (ps.foldl haltAt s) p = some (halted q) := by
  induction ps generalizing s with
  | nil => cases hp
  | cons r ps ih =>
    rcases eq_or_ne p r with rfl | hr
    · exact progOf_foldl_haltAt_of_halted ps (progOf_haltAt h)
    · exact ih ((List.mem_cons.mp hp).resolve_left hr) ((progOf_haltAt_ne s hr).trans h)

/-- A victim's record, with its own set or the first free one (R353, R358). -/
def markedRec (s : State) (v : StepRec) : StepRec := { v with st := .saving, set := if v.set.isSome then v.set else (freeSets s).head? }

theorem markVictim_eq {s : State} {v : StepRec} (h : stepOf s v.uid = some v) (hst : v.st ≠ .saving) :
    markVictim s v = (livePlaces s v).foldl haltAt (setStep s (markedRec s v)) := by
  unfold markVictim markedRec
  rw [h]
  dsimp only
  rw [if_neg hst]
  cases hset : v.set <;> simp only [Option.isSome_none, Option.isSome_some, Bool.false_eq_true, if_false, if_true] <;> rfl

/-- A command that pre-empts for a step among candidates does what R353 has it do. -/
theorem preemptsFor_of_exec {s : State} {c : Instr} {t : StepRec} {cands : List StepRec} (hc : exec c s = .next (preemptFor s t cands)) :
    PreemptsFor s c t cands := by
  intro vs hv hsets
  refine ⟨hc.trans (congrArg Host.Outcome.next (preemptFor_of_set hv hsets)), ?_⟩
  rintro v rfl hstep hst
  have hmark : [v].foldl markVictim s = (livePlaces s v).foldl haltAt (setStep s (markedRec s v)) := markVictim_eq hstep hst
  refine ⟨?record, fun p q hp hq => ?program⟩
  case record =>
    rw [hmark, stepOf, foldl_haltAt_sched]
    exact stepOf_setStep (x := markedRec s v) hstep
  case program =>
    rw [hmark]
    exact progOf_foldl_haltAt hp hq

theorem execPreemptPatienceExpiry_of_due {s : State} {t : StepRec} {l : List StepRec} (hgo : stepsGo s = true) (hw : waitOrder s = t :: l)
    (hp : placeFor s t [] = none) (hcls : t.cls = 1) (hdue : regField s rSCH_OPT 31 0 ≤ t.waited) :
    execPreemptPatienceExpiry s = .next (preemptFor s t (victimsOf s 1)) := by
  simp only [execPreemptPatienceExpiry, hgo, if_true, hw, hcls, hdue, hp, and_self]

theorem execBlockSwapExpiry_of_blocked {s : State} {t : StepRec} {l : List StepRec} (hgo : stepsGo s = true) (hw : waitOrder s = t :: l)
    (hp : placeFor s t [] = none) (hon : s.sched.steps.filter onCores ≠ [])
    (hblocked : (s.sched.steps.filter onCores).all (fun x => decide (regField s rSCH_OPT 63 32 ≤ x.quiet)) = true) :
    execBlockSwapExpiry s = .next (preemptFor s t
      (((s.sched.steps.filter onCores).filter (fun x => x.csw.isNone && !x.voided)).foldl (fun l x => insVictim (·.quiet) x l) [])) := by
  simp only [execBlockSwapExpiry, hgo, if_true, hw]
  rw [if_pos ⟨hon, hblocked, hp⟩]

/-! The save of a victim. -/

/-- The save of a step whose programs are at their boundaries in `u`: to the set that its record `x` names, its cores freed (R354, R355). -/
def savedTo (u s : State) (t x : StepRec) (k : Nat) : State :=
  let ps := livePlaces s t
  let s2 := ps.foldl (fun s p => freeHalf s p false) (writeHeader (ps.foldl (fun s p => writeSlot s k p) u) k x)
  let s3 := setStep s2 { x with st := .saved, slots := [], saved := savesOf u x, waited := 0 }
  setCtx s3 x.ctx { ctxOf s3 x.ctx with preempts := min (2 ^ 32 - 1) ((ctxOf s3 x.ctx).preempts + 1) }

theorem saveStep_of_set {s : State} {t x : StepRec} {k : Nat} (hx : stepOf (atRest s t) t.uid = some x) (hset : x.set = some k) (hsaved : x.saved = []) :
    saveStep s t = savedTo (atRest s t) s t x k := by
  unfold saveStep
  dsimp only
  split
  next hnone => exact Option.some_ne_none x (hx.symm.trans hnone) |>.elim
  next y hy =>
    obtain rfl : x = y := Option.some.inj (hx.symm.trans hy)
    simp only [if_pos hsaved]
    split
    next j hj =>
      obtain rfl : k = j := Option.some.inj (hset.symm.trans hj)
      rfl
    next hnone => exact Option.some_ne_none k (hset.symm.trans hnone) |>.elim

/-- A victim at its op boundaries, its set's lines ready, is saved (R354). -/
theorem execPreemptSave_of_ready {s : State} {c k : Nat} {t : StepRec} (ht : stepOfCtx s c = some t) (hserving : serving s = true) (hst : t.st = .saving)
    (hset : t.set = some k) (hrest : ∀ p, p ∈ livePlaces s t → hostBack s p = true ∧ ∀ q, progOf s p = some q → atBoundary s p q = true)
    (hready : readyRange s (setBase k) (2 * gib) = none) : execPreemptSave c none s = .next (saveStep s t) := by
  simp only [execPreemptSave, ht, hserving, hst, beq_self_eq_true, Bool.and_self, Bool.not_true, Bool.false_eq_true, if_false, hset,
    Option.getD_some, Option.bind_none, hready]
  refine congrArg Host.Outcome.next (if_neg ?_)
  simp only [Bool.not_eq_true', Bool.not_eq_false, List.all_eq_true, Bool.and_eq_true]
  intro p hp
  obtain ⟨hback, hat⟩ := hrest p hp
  refine ⟨hback, ?_⟩
  cases hq : progOf s p with
  | none => rfl
  | some q => exact hat q hq

/-! Release. -/

/-- A step as it runs, nothing of its save kept (R356). -/
def begunStep (t : StepRec) (ps : List (Nat × List (BitVec 128) × List (BitVec 256) × List (BitVec 128))) (s : State) : State :=
  setStep (ps.foldl (releaseOne t) s) { t with st := .released, saved := [], set := none, quiet := 0 }

theorem releaseStep_of_job {t : StepRec} (ps : List (Nat × List (BitVec 128) × List (BitVec 256) × List (BitVec 128))) (s : State) (h : t.csw = none) :
    releaseStep s t ps = begunStep t ps s := by
  unfold releaseStep
  dsimp only
  split
  next n hn => exact Option.some_ne_none n (hn.symm.trans h) |>.elim
  next => rfl

/-- A placed or restored step whose cores run may be released (R354, R455). -/
theorem mayRelease {s : State} {t : StepRec} (hgo : stepsGo s = true) (hst : t.st = .placed ∨ t.st = .restored) (hup : coresUp s t = true) :
    (stepsGo s && (t.st == .placed || t.st == .restored) && coresUp s t) = true := by
  simpa [hgo, hup] using hst

section release

variable {s s2 : State} {c : Nat} {t : StepRec} {ps : List (Nat × List (BitVec 128) × List (BitVec 256) × List (BitVec 128))}
  (ht : stepOfCtx s c = some t) (hgo : stepsGo s = true) (hst : t.st = .placed ∨ t.st = .restored) (hup : coresUp s t = true)
  (hps : programsOf s t = .ok ps s2) (hjob : t.csw = none)
include ht hgo hst hup hps hjob

theorem execStepRelease_of_placed (hsaved : t.saved = []) : execStepRelease c s = .next (begunStep t ps (endHost s2 whoSched)) := by
  simp only [execStepRelease, ht, mayRelease hgo hst hup, Bool.not_true, Bool.false_eq_true, if_false, hps, hsaved, if_true,
    releaseStep_of_job _ _ hjob]

theorem execStepRelease_of_saved {s3 : State} (hsaved : t.saved ≠ []) (hcheck : checkSet (endHost s2 whoSched) t = .ok () s3) :
    execStepRelease c s = .next (begunStep t ps s3) := by
  simp only [execStepRelease, ht, mayRelease hgo hst hup, Bool.not_true, Bool.false_eq_true, if_false, hps, hsaved, hcheck,
    releaseStep_of_job _ _ hjob]

end release

/-- A program of a step that was not saved starts with its parts of the image (R58). -/
theorem progOf_begunStep_single {t : StepRec} {s : State} {p : ProgRef} {q : Prog} {i : Nat} {ops : List (BitVec 128)} {pats : List (BitVec 256)}
    {strides : List (BitVec 128)} (hsaved : t.saved = []) (hslot : slotProg t i = some p) (hq : progOf s p = some q) :
    progOf (begunStep t [(i, ops, pats, strides)] s) p = some { q with ops, pats, strides, released := true } := by
  have hone : releaseOne t s (i, ops, pats, strides) = setProg s p { q with ops, pats, strides, released := true } := by
    simp only [releaseOne, hslot, hq, hsaved, List.find?_nil]
  rw [begunStep, List.foldl_cons, List.foldl_nil, hone]
  exact progOf_setProg s p _

/-! The watchdog. -/

theorem foldl_ctxs {α : Type} {f : State → α → State} (hf : ∀ s a, (f s a).sched.ctxs = s.sched.ctxs) (l : List α) (s : State) :
    (l.foldl f s).sched.ctxs = s.sched.ctxs :=
  foldl_keeps (fun u : State => u.sched.ctxs = s.sched.ctxs) f (fun u a h => (hf u a).trans h) l s rfl

theorem report_ctxs (s : State) (ring : Nat) (r : Report) : (report s ring r).sched.ctxs = s.sched.ctxs := by
  unfold report
  dsimp only
  repeat' split
  all_goals rfl

theorem closeRunning_ctxs (s : State) (ctx : Nat) (faultRing : Option Nat) (code other d0 : Nat) :
    (closeRunning s ctx faultRing code other d0).sched.ctxs = s.sched.ctxs := by
  refine foldl_ctxs (fun u e => ?_) _ s
  split
  · exact report_ctxs _ _ _
  · rfl

theorem leaveCore_ctxs (s : State) (p : ProgRef) (q : Prog) : (leaveCore s p q).sched.ctxs = s.sched.ctxs := by
  rw [leaveCore, freeHalf_sched]
  split <;> rfl

theorem endCsw_ctxs (s : State) (slot code : Nat) : (endCsw s slot code).sched.ctxs = s.sched.ctxs := by
  unfold endCsw
  dsimp only
  split <;> rfl

theorem closeStep_ctxs (s : State) (t : StepRec) (status : Nat) (loss : Option (BitVec 32)) :
    (closeStep s t status loss).sched.ctxs = s.sched.ctxs := by
  unfold closeStep
  dsimp only [dropStep]
  split
  · exact endCsw_ctxs (endCounts s t) _ _
  · split
    · exact report_ctxs (endCounts s t) _ _
    · rfl

theorem endVoided_ctxs (s : State) : (endVoided s).sched.ctxs = s.sched.ctxs :=
  foldl_ctxs (fun u t => closeStep_ctxs u t 0x0401 none) _ s

/-- Stopped programs that leave their cores, and voided steps that end with them, change no context's slot (R61, R294). -/
theorem settleStopped_ctxs (s : State) : (settleStopped s).sched.ctxs = s.sched.ctxs := by
  rw [settleStopped, endVoided_ctxs]
  exact foldl_ctxs (fun u (x : ProgRef × Prog) => leaveCore_ctxs u x.1 x.2) _ s

/-- A slot as its teardown begins (R344, R346). -/
def tornDown (s : State) (ctx code other where_ : Nat) (faultRing : Option Nat) : Ctx :=
  { ctxOf s ctx with st := .teardown, fault := code, tdRing := faultRing, tdCode := other, tdWhere := where_, faultAt := s.aon.head? }

theorem ctxOf_setCtx {s : State} {c : Nat} {x : Ctx} (h : x.st ≠ .free) : ctxOf (setCtx s c x) c = x := by
  have hx : x ≠ Ctx.free := by
    rintro rfl
    exact h rfl
  simp only [ctxOf, setCtx, tset, if_neg hx, tget_tput_same]

theorem ctxOf_beginTeardown (s : State) (ctx code other where_ : Nat) (faultRing : Option Nat) :
    ctxOf (beginTeardown s ctx code other where_ faultRing) ctx = tornDown s ctx code other where_ faultRing := by
  have hset : ctxOf (setCtx s ctx (tornDown s ctx code other where_ faultRing)) ctx = tornDown s ctx code other where_ faultRing :=
    ctxOf_setCtx (by simp [tornDown])
  have hstop (u : State) (e : ProgRef × Prog) :
      (if e.2.ctx = ctx then setProg u e.1 (stopProg (fun _ => false) e.2) else u).sched.ctxs = u.sched.ctxs := by
    split <;> rfl
  have hkeeps : (beginTeardown s ctx code other where_ faultRing).sched.ctxs =
      (setCtx s ctx (tornDown s ctx code other where_ faultRing)).sched.ctxs := by
    unfold beginTeardown
    dsimp only
    rw [settleStopped_ctxs]
    dsimp only [flushTlb, voidReqs, abandonWork]
    rw [foldl_ctxs hstop]
    exact closeRunning_ctxs _ _ _ _ _ _
  rw [← hset]
  exact congrArg (tget Ctx.free · ctx) hkeeps

/-- A fault of a live context tears it down with its code (R346, R488). -/
theorem ctxOf_charge_of_live {s : State} {f : FaultAt} (hctx : f.ctx ≠ 0) (hlive : (ctxOf s f.ctx).st = .openS ∨ (ctxOf s f.ctx).st = .ending) :
    (ctxOf (charge s f) f.ctx).st = .teardown ∧ (ctxOf (charge s f) f.ctx).fault = f.code := by
  unfold charge
  dsimp only
  rw [if_neg hctx, if_pos ⟨hctx, hlive⟩, ctxOf_beginTeardown]
  exact ⟨rfl, rfl⟩

/-- A step past its watchdog, by whom it serves and by the reach of source 15 (R435, R504). -/
theorem execStepWatchdogExpiry_of_due {s : State} {c : Nat} {t : StepRec} (ht : stepOfCtx s c = some t) (hserving : serving s = true)
    (hdog : t.wdog ≠ 0) (hdue : t.wdog ≤ t.used) (hst : t.st = .released ∨ t.st = .saving) : execStepWatchdogExpiry c s = .next (
      let v := reachOf s 15
      let u := if t.csw.isNone && (v == 3 || v == 4) then { s with rst := { s.rst with after := s.rst.after ++ [(c, coresOfStep s t)] } } else s
      if t.csw.isNone && decide (v ≤ 2) then raiseAt (chargeStep u c 0x0603 0) v 15 else chargeStep u c 0x0603 0) := by
  have hgo : (!serving s || t.wdog == 0 || decide (t.used < t.wdog) || !(t.st == .released || t.st == .saving)) = false := by
    simpa [hserving, hdog, Nat.not_lt.mpr hdue, or_iff_not_imp_left] using hst
  simp only [execStepWatchdogExpiry, ht, hgo, Bool.false_eq_true, if_false]

end Sys2Proof.Levels

open Sys2Proof Sys2Proof.Machine Sys2Proof.Laws Sys2Proof.Stated Sys2Proof.Levels

/-- Settles O49: placement by its head (`placeAll_of_fits`, `placeAll_of_stuck`), the pre-emptions by `preemptsFor_of_exec`, and a save, a release and the
watchdog each by the equation of its command. -/
theorem schedulerEvents : Obligations.SchedulerEvents := by
  unfold Obligations.SchedulerEvents
  intro s
  refine ⟨fun t l hgo hw => ?placement, ?save, ?release, ?watchdog⟩
  case placement =>
    have hexec := execPlacement_of_go hgo
    refine ⟨fun xs hp => ?fits, fun xs hp hl => ⟨?alone, ⟨_, stepOf_placeStep xs (mem_steps_of_waitOrder hw), rfl⟩, fun i core h hx => progOf_placeStep hp hx⟩,
      fun hp hcls => ?stuck, fun hp hcls => preemptsFor_of_exec ?urgent,
      fun hp hcls hdue => preemptsFor_of_exec (execPreemptPatienceExpiry_of_due hgo hw hp hcls hdue),
      fun hp hon hblocked => preemptsFor_of_exec (execBlockSwapExpiry_of_blocked hgo hw hp hon hblocked)⟩
    case fits => exact hexec.trans (congrArg Host.Outcome.next (placeAll_of_fits _ hw hp))
    case alone =>
      subst hl
      exact hexec.trans (congrArg Host.Outcome.next ((placeAll_of_fits _ hw hp).trans (placeAll_of_none _ (waitOrder_placeStep xs hw))))
    case stuck => exact hexec.trans (congrArg Host.Outcome.next ((placeAll_of_stuck _ hw hp).trans (if_neg hcls)))
    case urgent => exact hexec.trans (congrArg Host.Outcome.next ((placeAll_of_stuck _ hw hp).trans (if_pos hcls)))
  case save =>
    intro c t k x ht hserving hst hset hrest hready hx hxset hxsaved
    exact (execPreemptSave_of_ready ht hserving hst hset hrest hready).trans (congrArg Host.Outcome.next (saveStep_of_set hx hxset hxsaved))
  case release =>
    intro c t ps s2 ht hgo hst hup hps hjob
    refine ⟨fun hsaved => ⟨execStepRelease_of_placed ht hgo hst hup hps hjob hsaved, ?_⟩,
      fun s3 hsaved hcheck => execStepRelease_of_saved ht hgo hst hup hps hjob hsaved hcheck⟩
    rintro i ops pats strides p q rfl hslot hq
    exact progOf_begunStep_single hsaved hslot hq
  case watchdog =>
    intro c t ht hserving hdog hdue hst
    have hexec := execStepWatchdogExpiry_of_due ht hserving hdog hdue hst
    refine ⟨fun hsheet => hexec.trans (congrArg Host.Outcome.next ?sheet), fun hjob hreach => ⟨hexec.trans (congrArg Host.Outcome.next ?cores), ?torn⟩,
      fun hjob hreach => hexec.trans (congrArg Host.Outcome.next ?raised)⟩
    case sheet =>
      have hnone : t.csw.isNone = false := Option.isNone_eq_false_iff.mpr (Option.isSome_iff_ne_none.mpr hsheet)
      simp only [hnone, Bool.false_and, Bool.false_eq_true, if_false]
    case cores =>
      have hthree : (reachOf s 15 == 3 || reachOf s 15 == 4) = true := by simpa using hreach
      have hhigh : decide (reachOf s 15 ≤ 2) = false := decide_eq_false (by omega)
      simp only [hjob, Option.isNone_none, hthree, hhigh, Bool.and_self, Bool.and_false, Bool.false_eq_true, if_false, if_true]
    case torn => exact fun hc hlive => ctxOf_charge_of_live (f := { code := 0x0603, ctx := c, addr := accAddr 0x0603 0, detail := _ }) hc hlive
    case raised =>
      have hthree : (reachOf s 15 == 3 || reachOf s 15 == 4) = false := by
        simp only [Bool.or_eq_false_iff, beq_eq_false_iff_ne]
        omega
      have hlow : decide (reachOf s 15 ≤ 2) = true := decide_eq_true hreach
      simp only [hjob, Option.isNone_none, hthree, hlow, Bool.and_self, Bool.and_false, Bool.false_eq_true, if_false, if_true]

end
